-- ==== Sys2Proof/Syntax.lean ====
section
/-!
DEFINITION. The instructions and events of the NH9640: one constructor of `Instr` for each row of
spec/opcode_table.json. An instruction row carries ONE record of operand fields, named and sized as the
form tables of R43, R46, R48, R49, R51 and R53 give them (bits that a row fixes are no field). An event
row (a step of another agent: fault unit, dispatcher, engine, yard core, host ...) carries the plain
numbers that say which object it concerns.
-/
namespace Sys2Proof

/-- R form (R43): operation on vector registers, b from either file (BSEL `e`), transient bit `t`. -/
structure RForm where
  sw : Fin 2
  g : Fin 8
  e : Fin 2
  t : Fin 2
  d : Fin 64
  a : Fin 64
  b : Fin 64
  deriving DecidableEq, Repr

/-- Operand fields of the R1 layout (R43, R46, R48, R49, R51, R53). -/
structure R1Form where
  sw : Fin 2
  g : Fin 8
  t : Fin 2
  d : Fin 64
  a : Fin 64
  deriving DecidableEq, Repr

/-- Operand fields of the Gw layout (R43, R46, R48, R49, R51, R53). -/
structure GwForm where
  sw : Fin 2
  g : Fin 8
  e : Fin 2
  d : Fin 64
  a : Fin 64
  b : Fin 64
  deriving DecidableEq, Repr

/-- Operand fields of the I6 layout (R43, R46, R48, R49, R51, R53). -/
structure I6Form where
  sw : Fin 2
  g : Fin 8
  t : Fin 2
  d : Fin 64
  a : Fin 64
  i : Fin 64
  deriving DecidableEq, Repr

/-- Operand fields of the P layout (R43, R46, R48, R49, R51, R53). -/
structure PForm where
  sw : Fin 2
  g : Fin 8
  e : Fin 2
  c : Fin 8
  p : Fin 8
  a : Fin 64
  b : Fin 64
  deriving DecidableEq, Repr

/-- Operand fields of the L layout (R43, R46, R48, R49, R51, R53). -/
structure LForm where
  sw : Fin 2
  g : Fin 8
  t : Fin 2
  d : Fin 64
  lit : Fin 4294967296
  deriving DecidableEq, Repr

/-- Operand fields of the Cv layout (R43, R46, R48, R49, R51, R53). -/
structure CvForm where
  sw : Fin 2
  g : Fin 8
  t : Fin 2
  d : Fin 64
  a : Fin 64
  f : Fin 8
  r : Fin 8
  deriving DecidableEq, Repr

/-- Operand fields of the Cv0 layout (R43, R46, R48, R49, R51, R53). -/
structure Cv0Form where
  sw : Fin 2
  g : Fin 8
  t : Fin 2
  d : Fin 64
  a : Fin 64
  f : Fin 8
  deriving DecidableEq, Repr

/-- Operand fields of the B layout (R43, R46, R48, R49, R51, R53). -/
structure BForm where
  sw : Fin 2
  g : Fin 8
  o : Fin 1048576
  deriving DecidableEq, Repr

/-- Operand fields of the N layout (R43, R46, R48, R49, R51, R53). -/
structure NForm where
  sw : Fin 2
  g : Fin 8
  deriving DecidableEq, Repr

/-- Operand fields of the A layout (R43, R46, R48, R49, R51, R53). -/
structure AForm where
  sw : Fin 2
  g : Fin 8
  a : Fin 64
  deriving DecidableEq, Repr

/-- Operand fields of the OpB layout (R43, R46, R48, R49, R51, R53). -/
structure OpBForm where
  sw : Fin 2
  g : Fin 8
  b : Fin 64
  deriving DecidableEq, Repr

/-- Operand fields of the J layout (R43, R46, R48, R49, R51, R53). -/
structure JForm where
  sw : Fin 2
  g : Fin 8
  j : Fin 16
  o : Fin 65536
  deriving DecidableEq, Repr

/-- Operand fields of the W layout (R43, R46, R48, R49, R51, R53). -/
structure WForm where
  sw : Fin 2
  g : Fin 8
  j : Fin 16
  deriving DecidableEq, Repr

/-- Operand fields of the Plog layout (R43, R46, R48, R49, R51, R53). -/
structure PlogForm where
  sw : Fin 2
  g : Fin 8
  c : Fin 8
  p : Fin 8
  nx : Fin 2
  x : Fin 8
  ny : Fin 2
  y : Fin 8
  deriving DecidableEq, Repr

/-- Operand fields of the D layout (R43, R46, R48, R49, R51, R53). -/
structure DForm where
  sw : Fin 2
  g : Fin 8
  d : Fin 64
  deriving DecidableEq, Repr

/-- Operand fields of the Srd layout (R43, R46, R48, R49, R51, R53). -/
structure SrdForm where
  sw : Fin 2
  g : Fin 8
  d : Fin 64
  rc : Fin 2
  sel : Fin 16
  deriving DecidableEq, Repr

/-- Operand fields of the Qswp layout (R43, R46, R48, R49, R51, R53). -/
structure QswpForm where
  sw : Fin 2
  g : Fin 8
  d : Fin 64
  a : Fin 64
  k : Fin 64
  deriving DecidableEq, Repr

/-- Operand fields of the Qbc layout (R43, R46, R48, R49, R51, R53). -/
structure QbcForm where
  sw : Fin 2
  g : Fin 8
  d : Fin 64
  a : Fin 64
  n : Fin 4
  deriving DecidableEq, Repr

/-- Operand fields of the Da layout (R43, R46, R48, R49, R51, R53). -/
structure DaForm where
  sw : Fin 2
  g : Fin 8
  d : Fin 64
  a : Fin 64
  deriving DecidableEq, Repr

/-- Operand fields of the Shfl layout (R43, R46, R48, R49, R51, R53). -/
structure ShflForm where
  sw : Fin 2
  g : Fin 8
  e : Fin 2
  d : Fin 64
  a : Fin 64
  b : Fin 64
  mreg : Fin 64
  mall : Fin 2
  op : Fin 32
  deriving DecidableEq, Repr

/-- Operand fields of the G layout (R43, R46, R48, R49, R51, R53). -/
structure GForm where
  sw : Fin 2
  g : Fin 8
  d : Fin 64
  a : Fin 64
  mreg : Fin 64
  mall : Fin 2
  op : Fin 32
  deriving DecidableEq, Repr

/-- M form with its extension word (R43, R46). -/
structure MForm where
  sw : Fin 2
  g : Fin 8
  bc : Fin 2
  d : Fin 64
  base : Fin 64
  off : Fin 65536
  size : Fin 8
  cls : Fin 2
  scope : Fin 8
  rc : Fin 16
  grain : Fin 8
  pol : Fin 4
  deriving DecidableEq, Repr

/-- MA form with its extension word (R43, R46). -/
structure MaForm where
  sw : Fin 2
  g : Fin 8
  bc : Fin 2
  d : Fin 64
  base : Fin 64
  off : Fin 65536
  size : Fin 8
  scope : Fin 8
  atop : Fin 32
  pol : Fin 4
  deriving DecidableEq, Repr

/-- Operand fields of the Um layout (R43, R46, R48, R49, R51, R53). -/
structure UmForm where
  sw : Fin 2
  g : Fin 8
  d : Fin 64
  base : Fin 64
  off : Fin 65536
  size : Fin 8
  cls : Fin 2
  scope : Fin 8
  rc : Fin 16
  grain : Fin 8
  pol : Fin 4
  deriving DecidableEq, Repr

/-- Operand fields of the Uma layout (R43, R46, R48, R49, R51, R53). -/
structure UmaForm where
  sw : Fin 2
  g : Fin 8
  d : Fin 64
  base : Fin 64
  off : Fin 65536
  size : Fin 8
  scope : Fin 8
  atop : Fin 32
  pol : Fin 4
  deriving DecidableEq, Repr

/-- Operand fields of the MldwT layout (R43, R46, R48, R49, R51, R53). -/
structure MldwTForm where
  sw : Fin 2
  g : Fin 8
  fmt : Fin 8
  spar : Fin 4 := 0
  ta : Fin 8
  kind : Fin 2 := 0
  deriving DecidableEq, Repr

/-- Operand fields of the MldwM layout (R43, R46, R48, R49, R51, R53). -/
structure MldwMForm where
  sw : Fin 2
  g : Fin 8
  a : Fin 64
  b : Fin 64
  fmt : Fin 8
  spar : Fin 4
  kind : Fin 2
  deriving DecidableEq, Repr

/-- Operand fields of the Mma layout (R43, R46, R48, R49, R51, R53). -/
structure MmaForm where
  sw : Fin 2
  g : Fin 8
  fmt : Fin 8
  flip : Fin 2
  zc : Fin 2
  acc : Fin 4
  ta : Fin 8
  deriving DecidableEq, Repr

/-- Operand fields of the AcpyR layout (R43, R46, R48, R49, R51, R53). -/
structure AcpyRForm where
  sw : Fin 2
  g : Fin 8
  c : Fin 64
  fmt : Fin 8
  ckd : Fin 2
  zc : Fin 2
  acc : Fin 4
  n1 : Fin 64
  j0 : Fin 64
  deriving DecidableEq, Repr

/-- Operand fields of the AcpyT layout (R43, R46, R48, R49, R51, R53). -/
structure AcpyTForm where
  sw : Fin 2
  g : Fin 8
  fmt : Fin 8
  ckd : Fin 2
  zc : Fin 2
  acc : Fin 4
  ta : Fin 8
  h : Fin 2
  deriving DecidableEq, Repr

/-- Operand fields of the AcpyM layout (R43, R46, R48, R49, R51, R53). -/
structure AcpyMForm where
  sw : Fin 2
  g : Fin 8
  a : Fin 64
  b : Fin 64
  fmt : Fin 8
  ckd : Fin 2
  zc : Fin 2
  acc : Fin 4
  deriving DecidableEq, Repr

/-- Operand fields of the AcpyS layout (R43, R46, R48, R49, R51, R53). -/
structure AcpySForm where
  sw : Fin 2
  g : Fin 8
  c : Fin 64
  acc : Fin 4
  clr : Fin 2
  deriving DecidableEq, Repr

/-- Operand fields of the Ackd layout (R43, R46, R48, R49, R51, R53). -/
structure AckdForm where
  sw : Fin 2
  g : Fin 8
  fmt : Fin 8
  acc : Fin 4
  deriving DecidableEq, Repr

/-- Operand fields of the Azero layout (R43, R46, R48, R49, R51, R53). -/
structure AzeroForm where
  sw : Fin 2
  g : Fin 8
  acc : Fin 4
  deriving DecidableEq, Repr

/-- Operand fields of the Tld layout (R43, R46, R48, R49, R51, R53). -/
structure TldForm where
  sw : Fin 2
  g : Fin 8
  bc : Fin 2
  a : Fin 64
  b : Fin 64
  ta : Fin 8
  deriving DecidableEq, Repr

/-- Operand fields of the Tmov layout (R43, R46, R48, R49, R51, R53). -/
structure TmovForm where
  sw : Fin 2
  g : Fin 8
  c : Fin 64
  ta : Fin 8
  n1 : Fin 64
  j0 : Fin 32
  deriving DecidableEq, Repr

/-- Operand fields of the Mbmap layout (R43, R46, R48, R49, R51, R53). -/
structure MbmapForm where
  sw : Fin 2
  g : Fin 8
  a : Fin 64
  b : Fin 64
  high : Fin 2
  deriving DecidableEq, Repr

/-- Operand fields of the Aset layout (R43, R46, R48, R49, R51, R53). -/
structure AsetForm where
  sw : Fin 2
  g : Fin 8
  c : Fin 64
  acc : Fin 4
  int : Fin 2
  n1 : Fin 64
  j0 : Fin 64
  deriving DecidableEq, Repr

/-- Operand fields of the Qbind layout (R43, R46, R48, R49, R51, R53). -/
structure QbindForm where
  sw : Fin 2
  g : Fin 8
  pop : Fin 2
  q : Fin 16
  b : Fin 64
  deriving DecidableEq, Repr

/-- Operand fields of the Q layout (R43, R46, R48, R49, R51, R53). -/
structure QForm where
  sw : Fin 2
  g : Fin 8
  v : Fin 64
  q : Fin 16
  deriving DecidableEq, Repr

/-- Operand fields of the Ur layout (R43, R46, R48, R49, R51, R53). -/
structure UrForm where
  sw : Fin 2
  g : Fin 8
  i : Fin 2
  w : Fin 2
  d : Fin 64
  a : Fin 64
  b : Fin 64
  deriving DecidableEq, Repr

/-- Operand fields of the Up layout (R43, R46, R48, R49, R51, R53). -/
structure UpForm where
  sw : Fin 2
  g : Fin 8
  i : Fin 2
  w : Fin 2
  c : Fin 8
  p : Fin 8
  a : Fin 64
  b : Fin 64
  deriving DecidableEq, Repr

/-- Operand fields of the Ul layout (R43, R46, R48, R49, R51, R53). -/
structure UlForm where
  sw : Fin 2
  g : Fin 8
  w : Fin 2
  d : Fin 64
  lit : Fin 4294967296
  deriving DecidableEq, Repr

/-- Operand fields of the Ssr layout (R43, R46, R48, R49, R51, R53). -/
structure SsrForm where
  sw : Fin 2
  g : Fin 8
  w : Fin 2
  d : Fin 64
  rc : Fin 2
  sel : Fin 16
  deriving DecidableEq, Repr

/-- Operand fields of the Sget layout (R43, R46, R48, R49, R51, R53). -/
structure SgetForm where
  sw : Fin 2
  g : Fin 8
  d : Fin 64
  i : Fin 64
  deriving DecidableEq, Repr

/-- Operand fields of the Fence layout (R43, R46, R48, R49, R51, R53). -/
structure FenceForm where
  sw : Fin 2
  g : Fin 8
  scope : Fin 8
  deriving DecidableEq, Repr

/-- Operand fields of the Bar layout (R43, R46, R48, R49, R51, R53). -/
structure BarForm where
  sw : Fin 2
  g : Fin 8
  n : Fin 16
  deriving DecidableEq, Repr

/-- Operand fields of the Barx layout (R43, R46, R48, R49, R51, R53). -/
structure BarxForm where
  sw : Fin 2
  g : Fin 8
  i : Fin 2
  a : Fin 64
  b : Fin 64
  deriving DecidableEq, Repr

/-- Operand fields of the Ab layout (R43, R46, R48, R49, R51, R53). -/
structure AbForm where
  sw : Fin 2
  g : Fin 8
  a : Fin 64
  b : Fin 64
  deriving DecidableEq, Repr

/-- Operand fields of the Tlw layout (R43, R46, R48, R49, R51, R53). -/
structure TlwForm where
  sw : Fin 2
  g : Fin 8
  i : Fin 2
  w : Fin 2
  a : Fin 64
  b : Fin 64
  deriving DecidableEq, Repr

/-- Operand fields of the Gset layout (R43, R46, R48, R49, R51, R53). -/
structure GsetForm where
  sw : Fin 2
  g : Fin 8
  i : Fin 2
  n : Fin 16
  b : Fin 64
  deriving DecidableEq, Repr

/-- Operand fields of the Gclr layout (R43, R46, R48, R49, R51, R53). -/
structure GclrForm where
  sw : Fin 2
  g : Fin 8
  n : Fin 16
  deriving DecidableEq, Repr

/-- Operand fields of the Tlr layout (R43, R46, R48, R49, R51, R53). -/
structure TlrForm where
  sw : Fin 2
  g : Fin 8
  w : Fin 2
  d : Fin 64
  a : Fin 64
  deriving DecidableEq, Repr

/-- UE form with its E extension word (R51, R53). -/
structure UeForm where
  sw : Fin 2
  g : Fin 8
  i : Fin 2
  w : Fin 2
  d : Fin 64
  a : Fin 64
  b : Fin 64
  gv : Fin 2
  gslot : Fin 16
  ntf : Fin 2
  opts : Fin 1024
  imm : Fin 65536
  deriving DecidableEq, Repr

/-- Operand fields of the Trap layout (R43, R46, R48, R49, R51, R53). -/
structure TrapForm where
  sw : Fin 2
  g : Fin 8
  n : Fin 64
  deriving DecidableEq, Repr

/-- Operand fields of the Swpt layout (R43, R46, R48, R49, R51, R53). -/
structure SwptForm where
  g : Fin 8
  n : Fin 64
  deriving DecidableEq, Repr

/-- Operand fields of the Sleep layout (R43, R46, R48, R49, R51, R53). -/
structure SleepForm where
  sw : Fin 2
  g : Fin 8
  i : Fin 2
  b : Fin 64
  deriving DecidableEq, Repr

/-- Operand fields of the Msend layout (R43, R46, R48, R49, R51, R53). -/
structure MsendForm where
  sw : Fin 2
  g : Fin 8
  p : Fin 8
  a : Fin 64
  b : Fin 64
  deriving DecidableEq, Repr

/-- Operand fields of the Dn layout (R43, R46, R48, R49, R51, R53). -/
structure DnForm where
  sw : Fin 2
  g : Fin 8
  d : Fin 64
  n : Fin 64
  deriving DecidableEq, Repr

/-- Operand fields of the An layout (R43, R46, R48, R49, R51, R53). -/
structure AnForm where
  sw : Fin 2
  g : Fin 8
  a : Fin 64
  n : Fin 64
  deriving DecidableEq, Repr

/-- Every row of the opcode table. -/
inductive Instr where
  /-- IADD (R102): Wrapped 32-bit integer add per executing lane. -/
  | iadd (f : RForm)
  /-- ISUB (R102): Wrapped 32-bit integer subtract per executing lane. -/
  | isub (f : RForm)
  /-- IADDS (R102): Signed saturating 32-bit add. -/
  | iadds (f : RForm)
  /-- ISUBS (R102): Signed saturating 32-bit subtract. -/
  | isubs (f : RForm)
  /-- IMUL (R102): Low 32 bits of the product. -/
  | imul (f : RForm)
  /-- IMULH (R102): High 32 bits of the signed 64-bit product. -/
  | imulh (f : RForm)
  /-- IMAD (R102): Wrapped multiply-add into d. -/
  | imad (f : RForm)
  /-- IMIN (R102): Signed minimum. -/
  | imin (f : RForm)
  /-- IMAX (R102): Signed maximum. -/
  | imax (f : RForm)
  /-- AND (R102): Bitwise AND. -/
  | andI (f : RForm)
  /-- OR (R102): Bitwise OR. -/
  | orI (f : RForm)
  /-- XOR (R102): Bitwise XOR. -/
  | xorI (f : RForm)
  /-- ANDN (R102): x AND NOT y. -/
  | andn (f : RForm)
  /-- SHL (R103): Shift left by a register amount. -/
  | shl (f : RForm)
  /-- SHR (R103): Logical shift right by a register amount. -/
  | shr (f : RForm)
  /-- SRA (R103): Arithmetic shift right by a register amount. -/
  | sra (f : RForm)
  /-- SHLI (R103): Shift left by an immediate. -/
  | shli (f : I6Form)
  /-- SHRI (R103): Logical shift right by an immediate. -/
  | shri (f : I6Form)
  /-- SRAI (R103): Arithmetic shift right by an immediate. -/
  | srai (f : I6Form)
  /-- POPC (R102): Population count. -/
  | popc (f : R1Form)
  /-- CLZ (R102): Count leading zeros. -/
  | clz (f : R1Form)
  /-- ICMP (R104): Integer compare into a lane predicate. -/
  | icmp (f : PForm)
  /-- MOVL (R105): Writes a 32-bit literal word into d. -/
  | movl (f : LForm)
  /-- IADDW (R106): 64-bit wrapped add on register pairs. -/
  | iaddw (f : RForm)
  /-- FADD (R107): FP32 add, RNE. -/
  | fadd (f : RForm)
  /-- FSUB (R107): FP32 subtract, RNE. -/
  | fsub (f : RForm)
  /-- FMUL (R107): FP32 multiply, RNE. -/
  | fmul (f : RForm)
  /-- FFMA (R107): FP32 fused multiply-add into d. -/
  | ffma (f : RForm)
  /-- FMIN (R108): FP32 minimum with NaN and signed-zero rules. -/
  | fmin (f : RForm)
  /-- FMAX (R108): FP32 maximum with NaN and signed-zero rules. -/
  | fmax (f : RForm)
  /-- FABS (R107): Clears the FP32 sign bit. -/
  | fabs (f : R1Form)
  /-- FNEG (R107): Inverts the FP32 sign bit. -/
  | fneg (f : R1Form)
  /-- FCMP (R110): FP32 compare into a lane predicate. -/
  | fcmp (f : PForm)
  /-- FRCP (R109): Correctly rounded reciprocal. -/
  | frcp (f : R1Form)
  /-- FRSQ (R109): Reciprocal square root. -/
  | frsq (f : R1Form)
  /-- FSQRT (R109): Correctly rounded square root. -/
  | fsqrt (f : R1Form)
  /-- FEXP2 (R109): Base-2 exponential. -/
  | fexp2 (f : R1Form)
  /-- FLOG2 (R109): Base-2 logarithm. -/
  | flog2 (f : R1Form)
  /-- FSIN (R109): Sine in radians. -/
  | fsin (f : R1Form)
  /-- FCOS (R109): Cosine in radians. -/
  | fcos (f : R1Form)
  /-- HADD (R107): Packed FP16 add. -/
  | hadd (f : RForm)
  /-- HMUL (R107): Packed FP16 multiply. -/
  | hmul (f : RForm)
  /-- HFMA (R107): Packed FP16 fused multiply-add. -/
  | hfma (f : RForm)
  /-- BADD (R107): Packed BF16 add. -/
  | badd (f : RForm)
  /-- BMUL (R107): Packed BF16 multiply. -/
  | bmul (f : RForm)
  /-- BFMA (R107): Packed BF16 fused multiply-add. -/
  | bfma (f : RForm)
  /-- ICVF (R112): Signed INT32 to FP32 conversion. -/
  | icvf (f : CvForm)
  /-- FCVI (R112): FP32 to clamped INT32 conversion. -/
  | fcvi (f : CvForm)
  /-- FCVH (R112): Two FP32 values rounded and packed to FP16 or BF16. -/
  | fcvh (f : CvForm)
  /-- HCVF (R112): Packed 16-bit pair widened to two FP32. -/
  | hcvf (f : Cv0Form)
  /-- ICVN (R113): Narrows INT32 to INT8 or INT16 by NMODE. -/
  | icvn (f : CvForm)
  /-- BPK (R114): Packs a 32-element run into BPN plane words. -/
  | bpk (f : Cv0Form)
  /-- BUNPK (R115): Reads BPN plane words back to values through the slot. -/
  | bunpk (f : Cv0Form)
  /-- BPSEL (R116): Re-reads a lane's own value at fewer planes. -/
  | bpsel (f : Cv0Form)
  /-- BRA (R117): PC-relative branch; may diverge the group. -/
  | bra (f : BForm)
  /-- CALL (R118): Pushes the return address, spilling if full, and branches. -/
  | call (f : BForm)
  /-- RET (R118): Pops the return stack, reloading a spilled entry if needed. -/
  | ret (f : NForm)
  /-- JMPR_VECTOR (R119): Indirect jump to the per-lane vector pair target. -/
  | jmprVector (f : AForm)
  /-- JMPR_UNIFORM (R119): Indirect jump to the uniform pair target. -/
  | jmprUniform (f : OpBForm)
  /-- CALLR_VECTOR (R119): Indirect call to the per-lane vector pair target. -/
  | callrVector (f : AForm)
  /-- CALLR_UNIFORM (R119): Indirect call to the uniform pair target. -/
  | callrUniform (f : OpBForm)
  /-- JOIN (R123): Claims a rejoin register and sets the lanes' meeting address. -/
  | join (f : JForm)
  /-- WAIT (R124): Holds members until all are held, then releases them together. -/
  | waitI (f : WForm)
  /-- EXIT (R121): Marks lanes exited, updates rejoin masks and pending group ops, and may retire the group. -/
  | exitI (f : NForm)
  /-- PLOG (R126): Combines two lane predicates. -/
  | plog (f : PlogForm)
  /-- PMOV_GET (R127): Moves lane predicates into a vector register. -/
  | pmovGet (f : DForm)
  /-- PMOV_SET (R127): Sets lane predicates from a vector register. -/
  | pmovSet (f : AForm)
  /-- SRD (R128): Reads a special register per lane, optionally read-and-clear of %gstat. -/
  | srd (f : SrdForm)
  /-- NOP (R129): Lane-set no-op. -/
  | nop (f : NForm)
  /-- SHFL (R132): Group-wide shuffle of lane values. -/
  | shfl (f : ShflForm)
  /-- VOTE (R133): Group-wide vote over contributors. -/
  | vote (f : GForm)
  /-- REDI (R134): Group-wide integer reduction. -/
  | redi (f : GForm)
  /-- REDF (R135): Group-wide FP32 tree reduction. -/
  | redf (f : GForm)
  /-- SCANI (R136): Group-wide integer prefix sum. -/
  | scani (f : GForm)
  /-- QSWP (R137): Exchange within a quad. -/
  | qswp (f : QswpForm)
  /-- QBCAST (R137): Broadcast from one quad lane. -/
  | qbcast (f : QbcForm)
  /-- QFILL (R138): Revives exited lanes of partial quads as helper lanes. -/
  | qfill (f : DaForm)
  /-- LD (R144): Per-lane global load. -/
  | ld (f : MForm)
  /-- LDS (R144): Per-lane sign-extending global load. -/
  | lds (f : MForm)
  /-- ST (R144): Per-lane global store. -/
  | st (f : MForm)
  /-- LDACQ (R149): Load with acquire at scope. -/
  | ldacq (f : MForm)
  /-- STREL (R149): Store with release at scope. -/
  | strel (f : MForm)
  /-- LDSH (R151): Scratchpad load. -/
  | ldsh (f : MForm)
  /-- LDSSH (R151): Sign-extending scratchpad load. -/
  | ldssh (f : MForm)
  /-- STSH (R151): Scratchpad store. -/
  | stsh (f : MForm)
  /-- LDG (R151): Gang-window load. -/
  | ldg (f : MForm)
  /-- STG (R151): Gang-window store. -/
  | stg (f : MForm)
  /-- ATOM (R155): Returning global atomic. -/
  | atom (f : MaForm)
  /-- RED (R155): Non-returning global reduction. -/
  | red (f : MaForm)
  /-- ATSH (R151): Returning scratchpad atomic. -/
  | atsh (f : MaForm)
  /-- REDSH (R151): Non-returning scratchpad atomic. -/
  | redsh (f : MaForm)
  /-- ATG (R151): Returning gang-window atomic. -/
  | atg (f : MaForm)
  /-- LDBC (R146): One load broadcast to all executing lanes. -/
  | ldbc (f : MForm)
  /-- PREF (R147): Prefetch lines into L2 and L1. -/
  | pref (f : MForm)
  /-- EVICT (R147): Write back and invalidate lines. -/
  | evict (f : MForm)
  /-- LDASY (R156): Asynchronous global-to-scratchpad copy counted at a barrier object. -/
  | ldasy (f : MForm)
  /-- GWADDR (R152): Builds gang-window addresses. -/
  | gwaddr (f : GwForm)
  /-- MLDW_TILE (R184): Acquires the engine and loads the shadow plane from a tile pair. -/
  | mldwTile (f : MldwTForm)
  /-- MLDW_MEM (R184): Acquires the engine and loads the shadow plane from memory, decrypting sealed weights. -/
  | mldwMem (f : MldwMForm)
  /-- MMA (R188): Streams activations through the active plane into an accumulator tile. -/
  | mma (f : MmaForm)
  /-- MFLIP (R187): Swaps active and shadow planes. -/
  | mflip (f : NForm)
  /-- ACPY_REG (R192): Copies accumulator columns into vector registers. -/
  | acpyReg (f : AcpyRForm)
  /-- ACPY_TILE (R192): Converts accumulator rows into a tile. -/
  | acpyTile (f : AcpyTForm)
  /-- ACPY_MEM (R192): Stores accumulator rows to memory. -/
  | acpyMem (f : AcpyMForm)
  /-- ACPY_STAT (R192): Reads the accumulator status word, optionally clearing SAT. -/
  | acpyStat (f : AcpySForm)
  /-- ACKD (R191): Performs a drain check of an accumulator tile. -/
  | ackd (f : AckdForm)
  /-- AZERO (R193): Zeroes an accumulator tile and its sums. -/
  | azero (f : AzeroForm)
  /-- TLD (R194): Loads tile rows from memory. -/
  | tld (f : TldForm)
  /-- TST (R194): Stores tile rows to memory. -/
  | tst (f : TldForm)
  /-- TLDSH (R194): Loads tile rows from scratchpad. -/
  | tldsh (f : TldForm)
  /-- TSTSH (R194): Stores tile rows to scratchpad. -/
  | tstsh (f : TldForm)
  /-- TMOV_GET (R195): Moves tile words into vector registers. -/
  | tmovGet (f : TmovForm)
  /-- TMOV_PUT (R195): Moves vector registers into tile words. -/
  | tmovPut (f : TmovForm)
  /-- MBMAP (R186): Acquires the engine and sets the shadow bitmap. -/
  | mbmap (f : MbmapForm)
  /-- MWAIT (R196): Stalls until earlier matrix instructions complete. -/
  | mwait (f : NForm)
  /-- MWAIT_REL (R196): Stalls for matrix work, then releases the engine to the next waiter. -/
  | mwaitRel (f : NForm)
  /-- ASET (R193): Writes accumulator elements and recomputes checksums. -/
  | aset (f : AsetForm)
  /-- QBIND (R226): Binds a queue register to a context and direction. -/
  | qbind (f : QbindForm)
  /-- QWR (R227): Pushes one 64-bit entry per lane into the push FIFO. -/
  | qwr (f : QForm)
  /-- QRD (R227): Reserves pop-FIFO entries for lanes. -/
  | qrd (f : QForm)
  /-- QSTAT (R228): Samples a queue register's binding and level. -/
  | qstat (f : QForm)
  /-- SADD (R204): Uniform add. -/
  | sadd (f : UrForm)
  /-- SSUB (R204): Uniform subtract. -/
  | ssub (f : UrForm)
  /-- SMUL (R204): Uniform multiply. -/
  | smul (f : UrForm)
  /-- SMAD (R204): Uniform multiply-add. -/
  | smad (f : UrForm)
  /-- SMIN (R204): Uniform signed minimum. -/
  | smin (f : UrForm)
  /-- SMAX (R204): Uniform signed maximum. -/
  | smax (f : UrForm)
  /-- SAND (R204): Uniform AND. -/
  | sand (f : UrForm)
  /-- SOR (R204): Uniform OR. -/
  | sor (f : UrForm)
  /-- SXOR (R204): Uniform XOR. -/
  | sxor (f : UrForm)
  /-- SSHL (R204): Uniform shift left. -/
  | sshl (f : UrForm)
  /-- SSHR (R204): Uniform logical shift right. -/
  | sshr (f : UrForm)
  /-- SSRA (R204): Uniform arithmetic shift right. -/
  | ssra (f : UrForm)
  /-- SCMP (R205): Uniform compare into a uniform predicate. -/
  | scmp (f : UpForm)
  /-- SMOVL (R205): Writes a literal into a uniform register or pair. -/
  | smovl (f : UlForm)
  /-- KLOG (R205): Combines two uniform predicates. -/
  | klog (f : PlogForm)
  /-- SBRA (R206): Uniform branch without divergence. -/
  | sbra (f : BForm)
  /-- SCALL (R207): Uniform call, or mast return-stack push. -/
  | scall (f : BForm)
  /-- SRET (R207): Uniform return, or mast return-stack pop. -/
  | sret (f : NForm)
  /-- SSR (R209): Reads a special register into a uniform register. -/
  | ssr (f : SsrForm)
  /-- SGET (R210): Reads a word of group state. -/
  | sget (f : SgetForm)
  /-- SLD (R161): Uniform global load. -/
  | sld (f : UmForm)
  /-- SST (R161): Uniform global store. -/
  | sst (f : UmForm)
  /-- SATOM (R161): Uniform global atomic. -/
  | satom (f : UmaForm)
  /-- SLDSH (R161): Uniform scratchpad load. -/
  | sldsh (f : UmForm)
  /-- SSTSH (R161): Uniform scratchpad store. -/
  | sstsh (f : UmForm)
  /-- SATSH (R161): Uniform scratchpad atomic. -/
  | satsh (f : UmaForm)
  /-- FENCE_SC (R162): Sequentially consistent fence at scope. -/
  | fenceSc (f : FenceForm)
  /-- FENCE_REL (R162): Release fence at scope. -/
  | fenceRel (f : FenceForm)
  /-- FENCE_ACQ (R162): Acquire fence at scope. -/
  | fenceAcq (f : FenceForm)
  /-- BAR (R164): Arrives at a block barrier, opening it on the last arrival. -/
  | bar (f : BarForm)
  /-- BARX_INIT (R166): Initialises a byte-counting barrier object. -/
  | barxInit (f : BarxForm)
  /-- BARX_EXPECT (R166): Adds expected bytes to PEND. -/
  | barxExpect (f : BarxForm)
  /-- BARX_ARRIVE (R166): Counts one arrival with release. -/
  | barxArrive (f : AForm)
  /-- BARX_ARREXP (R166): Adds expected bytes and arrives as one event. -/
  | barxArrexp (f : BarxForm)
  /-- BARX_INVAL (R166): Invalidates a barrier object, orphaning its waiters. -/
  | barxInval (f : AForm)
  /-- BARW (R168): Parks until the object's phase changes. -/
  | barw (f : AbForm)
  /-- SSTEP (R170): Superstep barrier over the whole coresident launch. -/
  | sstep (f : NForm)
  /-- TLWAIT (R171): Parks until a timeline counter reaches n. -/
  | tlwait (f : TlwForm)
  /-- GSET (R172): Resolves a guard slot, releasing or discarding guarded commands. -/
  | gset (f : GsetForm)
  /-- GSET_CLR (R172): Returns a guard slot to unresolved. -/
  | gsetClr (f : GclrForm)
  /-- SMS (R173): Lets the launch's successor become resident. -/
  | sms (f : NForm)
  /-- WAITPRED (R173): Parks until the predecessor launch's writes are visible. -/
  | waitpred (f : NForm)
  /-- TLREAD (R171): Reads a timeline counter with acquire. -/
  | tlread (f : TlrForm)
  /-- CPY (R220): Issues a copy command to a copy context. -/
  | cpy (f : UeForm)
  /-- GATH (R221): Issues a gather command. -/
  | gath (f : UeForm)
  /-- SCAT (R221): Issues a scatter command. -/
  | scat (f : UeForm)
  /-- COLL (R222): Issues a collective command. -/
  | coll (f : UeForm)
  /-- VDEC (R223): Issues a video decode command. -/
  | vdec (f : UeForm)
  /-- TDECL_DECL (R362): Declares a tensor version to the world's cipher. -/
  | tdeclDecl (f : AForm)
  /-- TDECL_FRZ (R362): Freezes a tensor version. -/
  | tdeclFrz (f : AForm)
  /-- TDECL_RET (R362): Retires a tensor declaration. -/
  | tdeclRet (f : AForm)
  /-- ENQ (R225): Adds an item to a device-side queue or reports full. -/
  | enq (f : UeForm)
  /-- ENQW (R225): Adds an item, parking until a queue entry frees. -/
  | enqw (f : UeForm)
  /-- TRAP (R230): Holds lanes, writes the trap frame and raises F_TRAP. -/
  | trap (f : TrapForm)
  /-- BRK (R230): Holds lanes and raises F_BRK. -/
  | brk (f : TrapForm)
  /-- SWPT (R231): Switch point; parks under a pending variant-switch request. -/
  | swpt (f : SwptForm)
  /-- YIELD (R229): Swaps the group out for a ready pending group. -/
  | yield (f : NForm)
  /-- SNOP (R229): Uniform no-op. -/
  | snop (f : NForm)
  /-- SLEEP (R229): Parks the group, or stalls the mast core, for a time. -/
  | sleep (f : SleepForm)
  /-- MRET (R233): Ends the current event through its resume entry. -/
  | mret (f : NForm)
  /-- MRET_GRP (R233): Resumes held lanes of group MGRP. -/
  | mretGrp (f : AForm)
  /-- MRET_RES (R233): Resumes held lanes with v0 from an SRAM buffer. -/
  | mretRes (f : AbForm)
  /-- MRET_PC (R233): Resumes held lanes at a given PC. -/
  | mretPc (f : AbForm)
  /-- MSEND (R235): Appends a message to a target mailbox if room. -/
  | msend (f : MsendForm)
  /-- MRECV (R235): Removes the oldest mailbox message. -/
  | mrecv (f : DaForm)
  /-- GSAVE (R236): Writes a halted block to MSAVE. -/
  | gsave (f : TrapForm)
  /-- GLOAD (R236): Restores a halted block from MSAVE. -/
  | gload (f : NForm)
  /-- HALTB (R237): Halts or lifts the halt of groups at the chosen scope. -/
  | haltb (f : AForm)
  /-- SCAN (R238): Starts the structural scan of the cluster, or refuses. -/
  | scan (f : DaForm)
  /-- CTBW (R239): Writes one CTB entry. -/
  | ctbw (f : AbForm)
  /-- CTBI_PAGE (R239): Invalidates the CTB entry of one page. -/
  | ctbiPage (f : AbForm)
  /-- CTBI_ASID (R239): Invalidates every CTB entry of an ASID. -/
  | ctbiAsid (f : OpBForm)
  /-- CTBI_ALL (R239): Invalidates every CTB entry. -/
  | ctbiAll (f : NForm)
  /-- WCFG (R240): Scrubs and assigns a sub-partition or bank to a world. -/
  | wcfg (f : AbForm)
  /-- MCRR (R241): Reads a mast control register. -/
  | mcrr (f : DnForm)
  /-- MCRW (R241): Writes a mast control register. -/
  | mcrw (f : AnForm)
  /-- MPARK (R234): Moves a fully held group to the pending set. -/
  | mpark (f : NForm)
  /-- GKILL (R237): Kills the block or gang of MGRP. -/
  | gkill (f : AForm)
  /-- POWER_ON (R437): Power arrives and the boot sequence runs. -/
  | powerOn
  /-- ILLEGAL_OPCODE (R59): A group issues a word with an unassigned opcode and raises F_ILLEGAL_OPCODE. -/
  | illegalOpcode (word : Nat)
  /-- FETCH_FAULT (R441): An instruction fetch fails and raises a precise fault against the first-word address. -/
  | fetchFault (code : Nat) (addr : Nat)
  /-- LOAD_RESULT_RETURN (R55): A long-latency result returns to its register, possibly unparking the group. -/
  | loadResultReturn (gid : Nat) (idx : Nat)
  /-- ACCESS_FAULT_RETURN (R158): A fault found after the access left the cluster halts the group at its next boundary. -/
  | accessFaultReturn (gid : Nat)
  /-- CTB_REFILL (R157): Page attributes arrive for a stalled CTB miss and the instruction proceeds or faults. -/
  | ctbRefill (cl : Nat) (asid : Nat) (va : Nat)
  /-- PORT_WALK_COMPLETE (R308): A port walk returns a leaf; predicted access confirmed or squashed and the access sorted by residency. -/
  | portWalkComplete (die : Nat) (asid : Nat) (va : Nat)
  /-- HELD_FAULT_ADMIT (R315): A fault held for want of a slot takes a freed slot. -/
  | heldFaultAdmit (die : Nat)
  /-- SIDE_LOG_REPLAY (R159): The memory port replays side-log entries once their page is mapped. -/
  | sideLogReplay (cl : Nat) (sp : Nat)
  /-- PARKED_LOAD_REPLAY (R159): A parked load is performed once its page is mapped. -/
  | parkedLoadReplay (gid : Nat) (idx : Nat)
  /-- SWAP_PAIR_LINE (R317): One line of a swap pair is exchanged and its progress bit set. -/
  | swapPairLine (die : Nat)
  /-- SWAP_PAIR_COMPLETE (R317): Leaves exchanged, TLB and CTB updated, waiters replayed. -/
  | swapPairComplete (die : Nat)
  /-- CACHE_EVICTION (R300): A line is evicted, folding its lease into MAXEVICT and publishing stream stores. -/
  | cacheEviction (level : Nat) (cl : Nat) (asid : Nat) (line : Nat)
  /-- LEASE_RENEWAL (R300): An L1 lease renewal is served by the home slice. -/
  | leaseRenewal (cl : Nat) (asid : Nat) (line : Nat)
  /-- FORCED_PUBLISH (R255): A narrow holder publishes its stream stores for an outside acquire. -/
  | forcedPublish (cl : Nat) (asid : Nat) (line : Nat)
  /-- MEMORY_SCRUB (R379): Background scrub reads a line and writes back corrected data. -/
  | memoryScrub (pa : Nat) (kind : Nat)
  /-- GROUP_WAKE (R294): The event a parked group waits for arrives and the group becomes ready. -/
  | groupWake (gid : Nat)
  /-- STARVATION_SWAP (R293): A ready group waiting 16,384 clk is swapped with the longest-active group. -/
  | starvationSwap (cl : Nat) (sp : Nat)
  /-- SLEEP_EXPIRY (R229): A sleep interval ends. -/
  | sleepExpiry (gid : Nat)
  /-- MAST_TIMER_EXPIRY (R328): %clk reaches MTIME and F_TIMER becomes pending. -/
  | mastTimerExpiry (cl : Nat)
  /-- EVENT_DELIVERY (R326): A pending event is delivered to the mast core through a resume entry and record. -/
  | eventDelivery (cl : Nat)
  /-- ENGINE_COMMAND_COMPLETE (R215): An engine command finishes, writes its completion record and advances the counter. -/
  | engineCommandComplete (own : Nat) (ctx : Nat) (num : Nat)
  /-- ENGINE_FAULT (R219): An engine meets a fault after issue and fails the command. -/
  | engineFault (own : Nat) (ctx : Nat) (num : Nat)
  /-- ENGINE_PIECE_LANDING (R217): An engine piece lands and its size is subtracted from a barrier object. -/
  | enginePieceLanding (own : Nat) (ctx : Nat) (num : Nat) (piece : Nat)
  /-- LDASY_PIECE_LANDING (R156): An ldasy piece lands in scratchpad and is counted at its object. -/
  | ldasyPieceLanding (cl : Nat) (idx : Nat)
  /-- VIDEO_SAMPLE_DECODED (R420): A sample is written and its record pushed to the pop FIFO. -/
  | videoSampleDecoded (lid : Nat) (ctx : Nat)
  /-- TILE_ROW_LANDING (R194): A tile row lands, clearing fill-pending when last. -/
  | tileRowLanding (gid : Nat) (idx : Nat)
  /-- MATRIX_INSTRUCTION_COMPLETE (R180): A matrix instruction completes in the pipe, unlocking tiles. -/
  | matrixInstructionComplete (gid : Nat)
  /-- VARIANT_SWITCH_REQUEST (R283): The dispatcher posts a grow or shrink request for a block. -/
  | variantSwitchRequest (bid : Nat) (var : Nat)
  /-- VARIANT_REPLACEMENT (R284): All groups parked at one switch point; block saved and restored under the target variant. -/
  | variantReplacement (bid : Nat)
  /-- SWITCH_REQUEST_TIMEOUT (R284): A switch request is withdrawn after 450,000 clk. -/
  | switchRequestTimeout (bid : Nat)
  /-- SLICE_BOUNDARY (R285): A resident block's slice expires and it may be saved. -/
  | sliceBoundary (bid : Nat)
  /-- BLOCK_RESTORE (R285): A saved block is restored where its variant fits, delivering F_RESTORED. -/
  | blockRestore (bid : Nat) (cl : Nat) (var : Nat)
  /-- PREEMPTION (R287): Lower-priority blocks are saved to fit a higher-priority gang. -/
  | preemption (bid : Nat) (lid : Nat)
  /-- BLOCK_SAVE_COMPLETE (R37): A save writes MAGIC last and F_PREEMPT becomes pending. -/
  | blockSaveComplete (bid : Nat)
  /-- GROUP_HALT_COMPLETE (R237): Target groups reach a halt after their accesses return. -/
  | groupHaltComplete (gid : Nat)
  /-- GANG_PLACEMENT (R281): The dispatcher places a queued gang under a chosen variant. -/
  | gangPlacement (lid : Nat) (queue : Nat) (cls : List Nat)
  /-- BLOCK_RETIREMENT (R260): A block retires once side-log entries and ldasy pieces settle. -/
  | blockRetirement (bid : Nat)
  /-- RING_CONSUME (R430): The consumer takes a ring index, copies the record and advances RDIDX. -/
  | ringConsume (fn : Nat) (ring : Nat)
  /-- LAUNCH_START (R278): A held launch starts once predecessor and WRING conditions hold. -/
  | launchStart (lid : Nat)
  /-- START_READY (R274): Rank 0 receives a ready message stamped with GEN. -/
  | startReady (lid : Nat) (rank : Nat) (gen : Nat)
  /-- START (R274): A device receives start and starts its seed group. -/
  | startMsg (lid : Nat) (gen : Nat)
  /-- ABORT (R274): A device receives abort and writes ABORTED. -/
  | abortMsg (lid : Nat) (gen : Nat)
  /-- START_BARRIER_TIMEOUT (R274): Rank 0 sends abort after 22,500,000 clk without all ready messages. -/
  | startBarrierTimeout (lid : Nat)
  /-- DONE (R275): Rank 0 receives done from a participant. -/
  | doneMsg (lid : Nat) (rank : Nat) (retired : Nat) (nfail : Nat)
  /-- SHADOW_COMMIT (R392): Written shadow sectors are committed through current leaves. -/
  | shadowCommit (lid : Nat)
  /-- LAUNCH_COMPLETION (R276): The launch completion record and failure list are written. -/
  | launchCompletion (lid : Nat)
  /-- IMAGE_LOAD (R73): The yard core checks and loads an Eweave image. -/
  | imageLoad (fn : Nat) (addr : Nat) (size : Nat)
  /-- ERROR_KILL_TIMEOUT (R387): The mainmast kills an error-struck gang after 450,000 clk. -/
  | errorKillTimeout (bid : Nat)
  /-- REPLAY_RESTART (R393): The seed group restarts once every participant finished replay preparation. -/
  | replayRestart (lid : Nat)
  /-- FBBASE_WRITE (R310): Sets the fault buffer base if aligned. -/
  | fbbaseWrite (die : Nat) (val : Nat)
  /-- FBTAIL_WRITE (R315): Advances the read sequence, freeing fault slots. -/
  | fbtailWrite (die : Nat) (val : Nat)
  /-- RESOLVE_SUCCESS (R316): RESOLVE with FAIL 0 rewalks and replays waiters. -/
  | resolveSuccess (die : Nat) (seq : Nat)
  /-- RESOLVE_FAIL (R316): RESOLVE with FAIL 1 fails every waiter with CODE. -/
  | resolveFail (die : Nat) (seq : Nat) (code : Nat)
  /-- VICTQ (R310): Pushes a swap victim. -/
  | victq (die : Nat) (val : Nat)
  /-- ECCPOP (R319): Read that pops one ECC event. -/
  | eccpop (die : Nat)
  /-- BPLADD (R320): Appends a frame to the bad-page list. -/
  | bpladd (die : Nat) (val : Nat)
  /-- ASIDBASE_WRITE (R310): Sets the ASID table base if aligned. -/
  | asidbaseWrite (die : Nat) (val : Nat)
  /-- INVCMD_DROP_PAGE (R312): Drops port-TLB entries of one page. -/
  | invcmdDropPage (die : Nat) (asid : Nat)
  /-- INVCMD_DROP_ASID (R312): Drops port-TLB entries of an ASID. -/
  | invcmdDropAsid (die : Nat) (asid : Nat)
  /-- INVCMD_DROP_ALL (R312): Drops every port-TLB entry. -/
  | invcmdDropAll (die : Nat) (asid : Nat)
  /-- INVCMD_WRITEBACK_RANGE (R312): Writes back and invalidates cached lines of a range. -/
  | invcmdWritebackRange (die : Nat) (asid : Nat)
  /-- INVCMD_COMPLETE (R312): A maintenance operation completes and BUSY clears. -/
  | invcmdComplete (die : Nat)
  /-- MSIX_TARGET_WRITE (R344): A 4-byte write fires an MSI-X vector of a mast core. -/
  | msixTargetWrite (cl : Nat) (vec : Nat)
  /-- APERTURE_ACCESS (R345): An inbound scratchpad aperture access is accepted or dropped. -/
  | apertureAccess (addr : Nat) (wr : Nat) (len : Nat) (data : List Nat)
  /-- INBOUND_MEMORY_REQUEST (R346): An inbound PCIe request is served or refused. -/
  | inboundMemoryRequest (port : Nat) (addr : Nat) (wr : Nat) (len : Nat) (data : List Nat)
  /-- TRANSMIT_DESCRIPTOR (R348): The port sends a frame, sets DONE and advances HEAD. -/
  | transmitDescriptor (port : Nat) (ring : Nat)
  /-- FRAME_RECEIVE (R348): A received frame is sorted to a ring and written. -/
  | frameReceive (port : Nat) (fcserr : Nat) (data : List Nat)
  /-- CREATE (R369): Creates a protected world and returns a report. -/
  | createWorld (fn : Nat)
  /-- ATTEST (R371): Returns a fresh attestation report. -/
  | worldAttest (fn : Nat)
  /-- SESSION (R372): Derives KS and KW. -/
  | worldSession (fn : Nat)
  /-- MKEY (R364): Unwraps a model key into a slot. -/
  | mkey (fn : Nat)
  /-- SEALINST (R366): Installs checked sealed ciphertext. -/
  | sealinst (fn : Nat)
  /-- HEARTBEAT (R374): Moves the heartbeat deadline forward. -/
  | heartbeat (fn : Nat)
  /-- DESTROY (R375): Tears down a world. -/
  | destroyWorld (fn : Nat)
  /-- DBGUNLOCK (R373): Unlocks debug with a signed token. -/
  | dbgunlock (fn : Nat)
  /-- DBGLOCK (R369): Locks debug. -/
  | dbglock (fn : Nat)
  /-- DREAD (R373): Reads bytes through a world's view for debug. -/
  | dread (fn : Nat)
  /-- HEARTBEAT_EXPIRY (R374): WDEAD is reached and the world is torn down. -/
  | heartbeatExpiry (world : Nat)
  /-- FUNCTION_LEVEL_RESET (R427): A VF reset tears its world down. -/
  | functionLevelReset (fn : Nat)
  /-- INJECT_ACCUMULATOR (R384): FICTL KIND 0 changes an accumulator element. -/
  | injectAccumulator (die : Nat)
  /-- POISON_MEMORY_LINE (R384): FICTL KIND 1 poisons a memory line. -/
  | poisonMemoryLine (die : Nat)
  /-- POISON_SCRATCH_GRANULE (R384): FICTL KIND 2 poisons a scratchpad granule. -/
  | poisonScratchGranule (die : Nat)
  /-- MAPREQ_RETIRE (R400): Retires a cluster, mapping the spare or taking it out of service. -/
  | mapreqRetire (die : Nat) (val : Nat)
  /-- SHADOW_POOL_WRITE (R396): Writes SHBASE or SHLEN, ignored if invalid. -/
  | shadowPoolWrite (fn : Nat) (reg : Nat) (val : Nat)
  /-- SCAN_ABORT (R412): A priority launch aborts a running scan. -/
  | scanAbort (cl : Nat)
  /-- SCAN_COMPLETE (R238): A scan ends, returns status and writes SCANREC. -/
  | scanComplete (cl : Nat)
  /-- FLIT_RECEIVE (R422): A flit arrives and is checked and accepted or discarded. -/
  | flitReceive (link : Nat) (seq : Nat) (ack : Nat) (crc : Nat)
  /-- RETRY_REQUEST (R422): A sender replays flits from its replay buffer. -/
  | retryRequest (link : Nat) (seq : Nat)
  /-- LINK_TRAINING_LOSS (R422): A link loses training and goes down. -/
  | linkTrainingLoss (link : Nat)
  /-- PAUSE_ON (R423): Stops new flits on a channel. -/
  | pauseOn (link : Nat) (ch : Nat)
  /-- PAUSE_OFF (R423): Resumes flits on a channel. -/
  | pauseOff (link : Nat) (ch : Nat)
  /-- TAIL_WRITE (R431): Publishes ring entries or puts the ring into overrun. -/
  | tailWrite (fn : Nat) (ring : Nat) (val : Nat)
  /-- RRESET (R429): Resets ring indices and clears OVERRUN. -/
  | rreset (fn : Nat) (ring : Nat) (val : Nat)
  /-- RBASE_WRITE (R429): Sets a ring base if aligned. -/
  | rbaseWrite (fn : Nat) (ring : Nat) (val : Nat)
  /-- WINBASE_WRITE (R428): Moves the BAR 4 window. -/
  | winbaseWrite (fn : Nat) (val : Nat)
  /-- FASID_WRITE (R440): Sets the function's ASID unless a world exists. -/
  | fasidWrite (fn : Nat) (val : Nat)
  /-- BAR4_ACCESS (R428): A host access through the BAR 4 window. -/
  | bar4Access (fn : Nat) (off : Nat) (kind : Nat) (len : Nat) (data : List Nat)
  /-- CALL_MESSAGE (R341): A shard receives a forwarded system call. -/
  | callMessage (cl : Nat)
  /-- REPLY (R341): A shard receives a call result and resumes lanes. -/
  | replyMsg (cl : Nat)
  /-- FAULTFWD (R342): A region owner receives a forwarded fault entry. -/
  | faultfwd (cl : Nat)
  /-- READY (R349): Shard 0 receives a shard's READY. -/
  | readyMsg (cl : Nat)
  /-- BOOT_DONE (R349): The mainmast receives the boot report. -/
  | bootDone (cl : Nat)
  /-- READY_TIMEOUT (R349): A shard sends no READY within 200 ms; the spare is booted. -/
  | readyTimeout (cl : Nat)
  /-- FREAD (R333): System call reading a file into scratchpad. -/
  | fread (cl : Nat)
  /-- FWRITE (R333): System call writing a file from scratchpad. -/
  | fwrite (cl : Nat)
  /-- FSIZE (R333): System call returning a file's size. -/
  | fsize (cl : Nat)
  /-- SOPEN (R334): Opens a layer-2 socket. -/
  | sopen (cl : Nat)
  /-- SSEND (R334): Sends one frame on a socket. -/
  | ssend (cl : Nat)
  /-- SRECV (R334): Receives the oldest queued frame. -/
  | srecv (cl : Nat)
  /-- SCLOSE (R334): Closes a socket. -/
  | sclose (cl : Nat)
  /-- MODRST (R437): Writing the magic value resets the module. -/
  | modrst (val : Nat)
  /-- POWER_WINDOW (R434): A 1 ms window ends and throttling is set or lifted. -/
  | powerWindow (watts : Nat) (amps : Nat)
  /-- PLIMIT_WRITE (R435): Sets the power limit if in range. -/
  | plimitWrite (val : Nat)
  /-- TTRIP_WRITE (R435): Sets the trip temperature if in range. -/
  | ttripWrite (val : Nat)
  /-- THERMAL_TRIP (R438): TMAX reaches TTRIP. -/
  | thermalTrip (temp : Nat)
  /-- OVERCURRENT (R438): Core-rail current passes 30,000 A. -/
  | overcurrent (amps : Nat)
  /-- REGISTER_WRITE (R442): A write to a device register without behaviour of its own. -/
  | registerWrite (pa : Nat) (width : Nat) (val : Nat)
  /-- LAUNCH_PACKET (R273): A yard core receives a replicated multi-device launch packet and admits or refuses it. -/
  | launchPacket (fn : Nat) (addr : Nat) (data : List Nat)
  /-- REFUSAL (R274): Rank 0 receives a participant's refusal and sends abort. -/
  | refusal (lid : Nat) (rank : Nat) (status : Nat)
  /-- LINK_UP (R425): A fabric link completes training and enters service. -/
  | linkUp (link : Nat) (peer : Nat)
  /-- ETHERNET_LINK_CHANGE (R348): An Ethernet port gains or loses link and FEC lock, changing ESTAT. -/
  | ethernetLinkChange (port : Nat) (up : Nat) (fec : Nat)
  /-- ROOT_PORT_LINK_CHANGE (R346): A PCIe root port trains up or loses its link, changing LINKp. -/
  | rootPortLinkChange (port : Nat) (up : Nat) (rate : Nat) (width : Nat)
  /-- PRIORITY_FLOW_CONTROL (R348): An Ethernet port receives an 802.1Qbb pause frame and stops or resumes a priority. -/
  | priorityFlowControl (port : Nat) (prio : Nat) (pause : Nat)
  /-- POWER_LOSS (R320): Module power is lost, leaving only the non-volatile lists. -/
  | powerLoss
  /-- MAINMAST_STATE_ERROR (R438): An uncorrectable error in the mainmast's state brings the module to error stop with CAUSE 6. -/
  | mainmastStateError
  deriving DecidableEq, Repr

end Sys2Proof
end

