-- ==== Sys2Proof/WellFormed.lean ====
section
/-!
DEFINITION. Which operand fields an encoding may hold: the reserved uses of R59 that the words alone show
(a field out of its range, an odd register of a pair, a reserved code). What depends on the machine's state (an unbound
format slot, the budget, the mode) is checked at issue.
-/
namespace Sys2Proof

/-- MALL = 1 requires MREG = 0 (R49). -/
def membersOk (mall mreg : Nat) : Bool := mall == 0 || mreg == 0
/-- A 64-bit base register is even (R47). -/
def baseOk (b : Nat) : Bool := b % 2 == 0
/-- SCOPE 7 and GRAIN 5-7 are reserved (R46). -/
def memHintsOk (scope grain : Nat) : Bool := scope ≤ 6 && grain ≤ 4
/-- SIZE 5 requires BC = 1 (R47). -/
def lineOk (size bc : Nat) : Bool := size != 5 || bc == 1
/-- The data register widens with SIZE (R47, R141). -/
def dataOk (size d : Nat) : Bool := if size == 3 then d % 2 == 0 else if size == 4 then d % 4 == 0 else true
/-- ATOP, SIZE and the data register of an atomic (R46, R153, R154). -/
def atomOk (atop size d : Nat) : Bool :=
  atop ≤ 12 && (size == 2 || (size == 3 && atop != 10)) &&
    (if atop == 9 then (if size == 2 then d % 2 == 0 else d % 4 == 0) else size == 2 || d % 2 == 0)
/-- R212: the descriptor run starts at an even register; W = 1 makes d a pair; GV = 0 requires GSLOT = 0. -/
def commandOk (w d a gv gslot : Nat) : Bool := (w == 0 || d % 2 == 0) && a % 2 == 0 && (gv == 1 || gslot == 0)
/-- The type codes that R87 lists, unbound left out. -/
def typeListed (t : Nat) : Bool := (1 ≤ t && t ≤ 6) || t == 16

/-- R59: no reserved use shows in the instruction's words. Events encode nothing. -/
def Instr.wf : Instr → Bool
  | .iadd _ => true
  | .isub _ => true
  | .iadds _ => true
  | .isubs _ => true
  | .imul _ => true
  | .imulh _ => true
  | .imad _ => true
  | .imin _ => true
  | .imax _ => true
  | .andI _ => true
  | .orI _ => true
  | .xorI _ => true
  | .andn _ => true
  | .shl _ => true
  | .shr _ => true
  | .sra _ => true
  | .shli _ => true
  | .shri _ => true
  | .srai _ => true
  | .popc _ => true
  | .clz _ => true
  | .icmp _ => true
  | .movl _ => true
  | .iaddw f => f.d.val % 2 == 0 && f.a.val % 2 == 0 && f.b.val % 2 == 0
  | .fadd _ => true
  | .fsub _ => true
  | .fmul _ => true
  | .ffma _ => true
  | .fmin _ => true
  | .fmax _ => true
  | .fabs _ => true
  | .fneg _ => true
  | .fcmp _ => true
  | .frcp _ => true
  | .frsq _ => true
  | .fsqrt _ => true
  | .fexp2 _ => true
  | .flog2 _ => true
  | .fsin _ => true
  | .fcos _ => true
  | .hadd _ => true
  | .hmul _ => true
  | .hfma _ => true
  | .badd _ => true
  | .bmul _ => true
  | .bfma _ => true
  | .icvf f => f.r.val ≤ 4 && (f.r.val == 0 || f.f.val == 0)
  | .fcvi f => f.r.val ≤ 4 && (f.r.val == 0 || f.f.val == 0)
  | .fcvh f => f.r.val ≤ 4 && f.a.val % 2 == 0
  | .hcvf f => f.d.val % 2 == 0
  | .icvn f => f.r.val ≤ 2
  | .bpk _ => true
  | .bunpk _ => true
  | .bpsel _ => true
  | .bra _ => true
  | .call _ => true
  | .ret _ => true
  | .jmprVector f => f.a.val % 2 == 0
  | .jmprUniform f => f.b.val % 2 == 0
  | .callrVector f => f.a.val % 2 == 0
  | .callrUniform f => f.b.val % 2 == 0
  | .join _ => true
  | .waitI _ => true
  | .exitI _ => true
  | .plog f => f.c.val ≤ 2
  | .pmovGet _ => true
  | .pmovSet _ => true
  | .srd f => f.sel.val ≤ 9 && (f.rc.val == 0 || f.sel.val == 7) && (f.sel.val < 8 || f.d.val % 2 == 0)
  | .nop _ => true
  | .shfl f => f.op.val ≤ 7 && (f.op.val < 4 || (f.d.val % 2 == 0 && f.a.val % 2 == 0)) && membersOk f.mall.val f.mreg.val
  | .vote f => f.op.val ≤ 5 && membersOk f.mall.val f.mreg.val
  | .redi f => f.op.val ≤ 8 && membersOk f.mall.val f.mreg.val
  | .redf f => f.op.val ≤ 2 && membersOk f.mall.val f.mreg.val
  | .scani f => f.op.val ≤ 1 && membersOk f.mall.val f.mreg.val
  | .qswp f => 1 ≤ f.k.val && f.k.val ≤ 3
  | .qbcast _ => true
  | .qfill _ => true
  | .ld f => lineOk f.size.val f.bc.val && dataOk f.size.val f.d.val && baseOk f.base.val && memHintsOk f.scope.val f.grain.val && f.size.val ≤ 5
  | .lds f => baseOk f.base.val && memHintsOk f.scope.val f.grain.val && f.size.val ≤ 1
  | .st f => lineOk f.size.val f.bc.val && dataOk f.size.val f.d.val && baseOk f.base.val && memHintsOk f.scope.val f.grain.val && f.size.val ≤ 5 && f.rc.val == 0
  | .ldacq f => dataOk f.size.val f.d.val && baseOk f.base.val && memHintsOk f.scope.val f.grain.val && (f.size.val == 2 || f.size.val == 3) && f.rc.val == 0
  | .strel f => dataOk f.size.val f.d.val && baseOk f.base.val && memHintsOk f.scope.val f.grain.val && (f.size.val == 2 || f.size.val == 3) && f.rc.val == 0
  | .ldsh f => f.cls.val == 0 && f.rc.val == 0 && f.grain.val == 0 && f.pol.val == 0 && f.scope.val ≤ 6 && f.size.val ≤ 4 && dataOk f.size.val f.d.val
  | .ldssh f => f.cls.val == 0 && f.rc.val == 0 && f.grain.val == 0 && f.pol.val == 0 && f.scope.val ≤ 6 && f.size.val ≤ 1
  | .stsh f => f.cls.val == 0 && f.rc.val == 0 && f.grain.val == 0 && f.pol.val == 0 && f.scope.val ≤ 6 && f.size.val ≤ 4 && dataOk f.size.val f.d.val
  | .ldg f => f.cls.val == 0 && f.rc.val == 0 && f.grain.val == 0 && f.pol.val == 0 && f.scope.val ≤ 6 && f.size.val ≤ 4 && dataOk f.size.val f.d.val
  | .stg f => f.cls.val == 0 && f.rc.val == 0 && f.grain.val == 0 && f.pol.val == 0 && f.scope.val ≤ 6 && f.size.val ≤ 4 && dataOk f.size.val f.d.val
  | .atom f => atomOk f.atop.val f.size.val f.d.val && baseOk f.base.val && f.scope.val ≤ 6
  | .red f => atomOk f.atop.val f.size.val f.d.val && baseOk f.base.val && f.scope.val ≤ 6
  | .atsh f => atomOk f.atop.val f.size.val f.d.val && f.scope.val ≤ 3 && f.pol.val == 0
  | .redsh f => atomOk f.atop.val f.size.val f.d.val && f.scope.val ≤ 3 && f.pol.val == 0
  | .atg f => atomOk f.atop.val f.size.val f.d.val && f.scope.val == 4 && f.pol.val == 0
  | .ldbc f => dataOk f.size.val f.d.val && baseOk f.base.val && memHintsOk f.scope.val f.grain.val && f.size.val ≤ 4 && f.bc.val == 1
  | .pref f => baseOk f.base.val && memHintsOk f.scope.val f.grain.val && f.size.val ≤ 4 && f.d.val == 0
  | .evict f => baseOk f.base.val && memHintsOk f.scope.val f.grain.val && f.size.val ≤ 4 && f.d.val == 0 && f.cls.val == 0 && f.scope.val == 0 && f.rc.val == 0 && f.pol.val ≤ 1
  | .ldasy f => baseOk f.base.val && memHintsOk f.scope.val f.grain.val && 2 ≤ f.size.val && f.size.val ≤ 4 && f.d.val % 2 == 0 && f.scope.val == 0 && f.rc.val == 0
  | .gwaddr _ => true
  | .mldwTile f => f.ta.val % 2 == 0
  | .mldwMem f => f.a.val % 2 == 0
  | .mma _ => true
  | .mflip _ => true
  | .acpyReg _ => true
  | .acpyTile _ => true
  | .acpyMem f => f.a.val % 2 == 0
  | .acpyStat _ => true
  | .ackd _ => true
  | .azero _ => true
  | .tld f => f.a.val % 2 == 0 && (f.bc.val == 1 || f.b.val == 0)
  | .tst f => f.a.val % 2 == 0 && (f.bc.val == 1 || f.b.val == 0)
  | .tldsh f => f.bc.val == 1 || f.b.val == 0
  | .tstsh f => f.bc.val == 1 || f.b.val == 0
  | .tmovGet _ => true
  | .tmovPut _ => true
  | .mbmap f => f.a.val % 2 == 0 && (if f.high.val == 1 then f.b.val % 2 == 0 else f.b.val == 0)
  | .mwait _ => true
  | .mwaitRel _ => true
  | .aset _ => true
  | .qbind _ => true
  | .qwr f => f.v.val % 2 == 0
  | .qrd f => f.v.val % 2 == 0
  | .qstat _ => true
  | .sadd f => f.w.val == 0 || (f.d.val % 2 == 0 && f.a.val % 2 == 0 && (f.i.val == 1 || f.b.val % 2 == 0))
  | .ssub f => f.w.val == 0 || (f.d.val % 2 == 0 && f.a.val % 2 == 0 && (f.i.val == 1 || f.b.val % 2 == 0))
  | .smul f => f.w.val == 0 || (f.d.val % 2 == 0 && f.a.val % 2 == 0 && (f.i.val == 1 || f.b.val % 2 == 0))
  | .smad f => f.w.val == 0 || (f.d.val % 2 == 0 && f.a.val % 2 == 0 && (f.i.val == 1 || f.b.val % 2 == 0))
  | .smin f => f.w.val == 0 || (f.d.val % 2 == 0 && f.a.val % 2 == 0 && (f.i.val == 1 || f.b.val % 2 == 0))
  | .smax f => f.w.val == 0 || (f.d.val % 2 == 0 && f.a.val % 2 == 0 && (f.i.val == 1 || f.b.val % 2 == 0))
  | .sand f => f.w.val == 0 || (f.d.val % 2 == 0 && f.a.val % 2 == 0 && (f.i.val == 1 || f.b.val % 2 == 0))
  | .sor f => f.w.val == 0 || (f.d.val % 2 == 0 && f.a.val % 2 == 0 && (f.i.val == 1 || f.b.val % 2 == 0))
  | .sxor f => f.w.val == 0 || (f.d.val % 2 == 0 && f.a.val % 2 == 0 && (f.i.val == 1 || f.b.val % 2 == 0))
  | .sshl f => f.w.val == 0 || (f.d.val % 2 == 0 && f.a.val % 2 == 0 && (f.i.val == 1 || f.b.val % 2 == 0))
  | .sshr f => f.w.val == 0 || (f.d.val % 2 == 0 && f.a.val % 2 == 0 && (f.i.val == 1 || f.b.val % 2 == 0))
  | .ssra f => f.w.val == 0 || (f.d.val % 2 == 0 && f.a.val % 2 == 0 && (f.i.val == 1 || f.b.val % 2 == 0))
  | .scmp f => f.w.val == 0 || (f.a.val % 2 == 0 && (f.i.val == 1 || f.b.val % 2 == 0))
  | .smovl f => f.w.val == 0 || f.d.val % 2 == 0
  | .klog f => f.c.val ≤ 2
  | .sbra _ => true
  | .scall _ => true
  | .sret _ => true
  | .ssr f => 2 ≤ f.sel.val && f.sel.val ≤ 8 && (f.rc.val == 0 || f.sel.val == 7) && (if f.sel.val == 8 then f.w.val == 1 && f.d.val % 2 == 0 else f.w.val == 0)
  | .sget f => f.i.val ≤ 10 || (16 ≤ f.i.val && f.i.val ≤ 31)
  | .sld f => baseOk f.base.val && memHintsOk f.scope.val f.grain.val && f.size.val ≤ 3 && dataOk f.size.val f.d.val
  | .sst f => baseOk f.base.val && memHintsOk f.scope.val f.grain.val && f.size.val ≤ 3 && dataOk f.size.val f.d.val && f.rc.val == 0
  | .satom f => atomOk f.atop.val f.size.val f.d.val && baseOk f.base.val && f.scope.val ≤ 6
  | .sldsh f => f.cls.val == 0 && f.rc.val == 0 && f.grain.val == 0 && f.pol.val == 0 && f.scope.val ≤ 6 && f.size.val ≤ 3 && dataOk f.size.val f.d.val
  | .sstsh f => f.cls.val == 0 && f.rc.val == 0 && f.grain.val == 0 && f.pol.val == 0 && f.scope.val ≤ 6 && f.size.val ≤ 3 && dataOk f.size.val f.d.val
  | .satsh f => atomOk f.atop.val f.size.val f.d.val && f.scope.val ≤ 3 && f.pol.val == 0
  | .fenceSc f => f.scope.val ≤ 6
  | .fenceRel f => f.scope.val ≤ 6
  | .fenceAcq f => f.scope.val ≤ 6
  | .bar _ => true
  | .barxInit _ => true
  | .barxExpect _ => true
  | .barxArrive _ => true
  | .barxArrexp _ => true
  | .barxInval _ => true
  | .barw _ => true
  | .sstep _ => true
  | .tlwait f => f.w.val == 0 || f.i.val == 1 || f.b.val % 2 == 0
  | .gset _ => true
  | .gsetClr _ => true
  | .sms _ => true
  | .waitpred _ => true
  | .tlread f => f.w.val == 0 || f.d.val % 2 == 0
  | .cpy f => commandOk f.w.val f.d.val f.a.val f.gv.val f.gslot.val && f.opts.val < 4 && f.imm.val == 0
  | .gath f => commandOk f.w.val f.d.val f.a.val f.gv.val f.gslot.val && f.opts.val < 4 && f.imm.val % 4 == 0 && 4 ≤ f.imm.val && f.imm.val ≤ 4096
  | .scat f => commandOk f.w.val f.d.val f.a.val f.gv.val f.gslot.val && f.opts.val < 4 && f.imm.val % 4 == 0 && 4 ≤ f.imm.val && f.imm.val ≤ 4096
  | .coll f => commandOk f.w.val f.d.val f.a.val f.gv.val f.gslot.val && f.imm.val < 4096 && f.imm.val % 16 ≤ 6 && typeListed (f.imm.val / 16) && f.opts.val < 16 && (f.imm.val / 16 == 16 || f.opts.val == 0)
  | .vdec f => commandOk f.w.val f.d.val f.a.val f.gv.val f.gslot.val && f.imm.val ≤ 3 && f.opts.val == 0
  | .tdeclDecl f => f.a.val % 2 == 0
  | .tdeclFrz f => f.a.val % 2 == 0
  | .tdeclRet f => f.a.val % 2 == 0
  | .enq f => commandOk f.w.val f.d.val f.a.val f.gv.val f.gslot.val && f.imm.val ≤ 1 && f.opts.val < 8
  | .enqw f => commandOk f.w.val f.d.val f.a.val f.gv.val f.gslot.val && f.imm.val ≤ 1 && f.opts.val < 8
  | .trap _ => true
  | .brk _ => true
  | .swpt _ => true
  | .yield _ => true
  | .snop _ => true
  | .sleep _ => true
  | .mret _ => true
  | .mretGrp _ => true
  | .mretRes _ => true
  | .mretPc f => f.b.val % 2 == 0
  | .msend _ => true
  | .mrecv _ => true
  | .gsave _ => true
  | .gload _ => true
  | .haltb _ => true
  | .scan _ => true
  | .ctbw f => f.a.val % 2 == 0 && f.b.val % 2 == 0
  | .ctbiPage f => f.a.val % 2 == 0
  | .ctbiAsid _ => true
  | .ctbiAll _ => true
  | .wcfg _ => true
  | .mcrr _ => true
  | .mcrw _ => true
  | .mpark _ => true
  | .gkill _ => true
  | .powerOn => true
  | .illegalOpcode .. => true
  | .fetchFault .. => true
  | .loadResultReturn .. => true
  | .accessFaultReturn .. => true
  | .ctbRefill .. => true
  | .portWalkComplete .. => true
  | .heldFaultAdmit .. => true
  | .sideLogReplay .. => true
  | .parkedLoadReplay .. => true
  | .swapPairLine .. => true
  | .swapPairComplete .. => true
  | .cacheEviction .. => true
  | .leaseRenewal .. => true
  | .forcedPublish .. => true
  | .memoryScrub .. => true
  | .groupWake .. => true
  | .starvationSwap .. => true
  | .sleepExpiry .. => true
  | .mastTimerExpiry .. => true
  | .eventDelivery .. => true
  | .engineCommandComplete .. => true
  | .engineFault .. => true
  | .enginePieceLanding .. => true
  | .ldasyPieceLanding .. => true
  | .videoSampleDecoded .. => true
  | .tileRowLanding .. => true
  | .matrixInstructionComplete .. => true
  | .variantSwitchRequest .. => true
  | .variantReplacement .. => true
  | .switchRequestTimeout .. => true
  | .sliceBoundary .. => true
  | .blockRestore .. => true
  | .preemption .. => true
  | .blockSaveComplete .. => true
  | .groupHaltComplete .. => true
  | .gangPlacement .. => true
  | .blockRetirement .. => true
  | .ringConsume .. => true
  | .launchStart .. => true
  | .startReady .. => true
  | .startMsg .. => true
  | .abortMsg .. => true
  | .startBarrierTimeout .. => true
  | .doneMsg .. => true
  | .shadowCommit .. => true
  | .launchCompletion .. => true
  | .imageLoad .. => true
  | .errorKillTimeout .. => true
  | .replayRestart .. => true
  | .fbbaseWrite .. => true
  | .fbtailWrite .. => true
  | .resolveSuccess .. => true
  | .resolveFail .. => true
  | .victq .. => true
  | .eccpop .. => true
  | .bpladd .. => true
  | .asidbaseWrite .. => true
  | .invcmdDropPage .. => true
  | .invcmdDropAsid .. => true
  | .invcmdDropAll .. => true
  | .invcmdWritebackRange .. => true
  | .invcmdComplete .. => true
  | .msixTargetWrite .. => true
  | .apertureAccess .. => true
  | .inboundMemoryRequest .. => true
  | .transmitDescriptor .. => true
  | .frameReceive .. => true
  | .createWorld .. => true
  | .worldAttest .. => true
  | .worldSession .. => true
  | .mkey .. => true
  | .sealinst .. => true
  | .heartbeat .. => true
  | .destroyWorld .. => true
  | .dbgunlock .. => true
  | .dbglock .. => true
  | .dread .. => true
  | .heartbeatExpiry .. => true
  | .functionLevelReset .. => true
  | .injectAccumulator .. => true
  | .poisonMemoryLine .. => true
  | .poisonScratchGranule .. => true
  | .mapreqRetire .. => true
  | .shadowPoolWrite .. => true
  | .scanAbort .. => true
  | .scanComplete .. => true
  | .flitReceive .. => true
  | .retryRequest .. => true
  | .linkTrainingLoss .. => true
  | .pauseOn .. => true
  | .pauseOff .. => true
  | .tailWrite .. => true
  | .rreset .. => true
  | .rbaseWrite .. => true
  | .winbaseWrite .. => true
  | .fasidWrite .. => true
  | .bar4Access .. => true
  | .callMessage .. => true
  | .replyMsg .. => true
  | .faultfwd .. => true
  | .readyMsg .. => true
  | .bootDone .. => true
  | .readyTimeout .. => true
  | .fread .. => true
  | .fwrite .. => true
  | .fsize .. => true
  | .sopen .. => true
  | .ssend .. => true
  | .srecv .. => true
  | .sclose .. => true
  | .modrst .. => true
  | .powerWindow .. => true
  | .plimitWrite .. => true
  | .ttripWrite .. => true
  | .thermalTrip .. => true
  | .overcurrent .. => true
  | .registerWrite .. => true
  | .launchPacket .. => true
  | .refusal .. => true
  | .linkUp .. => true
  | .ethernetLinkChange .. => true
  | .rootPortLinkChange .. => true
  | .priorityFlowControl .. => true
  | .powerLoss => true
  | .mainmastStateError => true

end Sys2Proof
end

