-- ==== Sys2Proof/Decode.lean ====
section
/-!
DEFINITION. The decoder, total on any two words, and the encoder, both written from the encoding tables of the
spec (R41, R43, R46, R48, R49, R51, R53, R57, R58). A word that encodes no instruction is rejected by name: `illegalOpcode`
for an unassigned opcode, `reservedField` for a reserved use (R59). Memory holds a word with its least significant byte first.
-/
namespace Sys2Proof

/-- Why a word is no instruction (R59). -/
inductive DecodeError where
  /-- Lane opcode 0x70-0x7F or uniform opcode 0x40-0x7F. -/
  | illegalOpcode
  /-- A reserved or unused field that is not as it must be. -/
  | reservedField
  deriving DecidableEq, Repr

/-- Bits [hi:lo] of a word. -/
def fld (w hi lo : Nat) : Nat := w / 2 ^ lo % 2 ^ (hi + 1 - lo)

/-- Bits that the opcode fixes: (hi, lo, value) of the first word. -/
def bitsAre (w : Nat) (cs : List (Nat × Nat × Nat)) : Bool := cs.all fun c => fld w c.1 c.2.1 == c.2.2

/-- Whether the opcode is of a two-word form (R41, R42): the opcode alone fixes the length. -/
def isTwoWord (w : Nat) : Bool :=
  let op := fld w 29 23
  if fld w 31 31 == 0 then
    op == 0x16 || (0x42 ≤ op && op ≤ 0x46) || (0x4A ≤ op && op ≤ 0x5C) || (0x5E ≤ op && op ≤ 0x6B)
  else op == 0x0D || (0x14 ≤ op && op ≤ 0x19) || (0x24 ≤ op && op ≤ 0x2B)

/-- The fields of RForm in the first word. -/
def RForm.read (w : Nat) : RForm where
  sw := Fin.ofNat _ (fld w 30 30)
  g := Fin.ofNat _ (fld w 22 20)
  e := Fin.ofNat _ (fld w 19 19)
  t := Fin.ofNat _ (fld w 18 18)
  d := Fin.ofNat _ (fld w 17 12)
  a := Fin.ofNat _ (fld w 11 6)
  b := Fin.ofNat _ (fld w 5 0)

/-- The first word's operand bits. -/
def RForm.bits (f : RForm) : Nat :=
  f.sw.val * 2 ^ 30 + f.g.val * 2 ^ 20 + f.e.val * 2 ^ 19 + f.t.val * 2 ^ 18 + f.d.val * 2 ^ 12 + f.a.val * 2 ^ 6 + f.b.val

/-- The fields of R1Form in the first word. -/
def R1Form.read (w : Nat) : R1Form where
  sw := Fin.ofNat _ (fld w 30 30)
  g := Fin.ofNat _ (fld w 22 20)
  t := Fin.ofNat _ (fld w 18 18)
  d := Fin.ofNat _ (fld w 17 12)
  a := Fin.ofNat _ (fld w 11 6)

/-- The first word's operand bits. -/
def R1Form.bits (f : R1Form) : Nat :=
  f.sw.val * 2 ^ 30 + f.g.val * 2 ^ 20 + f.t.val * 2 ^ 18 + f.d.val * 2 ^ 12 + f.a.val * 2 ^ 6

/-- The fields of GwForm in the first word. -/
def GwForm.read (w : Nat) : GwForm where
  sw := Fin.ofNat _ (fld w 30 30)
  g := Fin.ofNat _ (fld w 22 20)
  e := Fin.ofNat _ (fld w 19 19)
  d := Fin.ofNat _ (fld w 17 12)
  a := Fin.ofNat _ (fld w 11 6)
  b := Fin.ofNat _ (fld w 5 0)

/-- The first word's operand bits. -/
def GwForm.bits (f : GwForm) : Nat :=
  f.sw.val * 2 ^ 30 + f.g.val * 2 ^ 20 + f.e.val * 2 ^ 19 + f.d.val * 2 ^ 12 + f.a.val * 2 ^ 6 + f.b.val

/-- The fields of I6Form in the first word. -/
def I6Form.read (w : Nat) : I6Form where
  sw := Fin.ofNat _ (fld w 30 30)
  g := Fin.ofNat _ (fld w 22 20)
  t := Fin.ofNat _ (fld w 18 18)
  d := Fin.ofNat _ (fld w 17 12)
  a := Fin.ofNat _ (fld w 11 6)
  i := Fin.ofNat _ (fld w 5 0)

/-- The first word's operand bits. -/
def I6Form.bits (f : I6Form) : Nat :=
  f.sw.val * 2 ^ 30 + f.g.val * 2 ^ 20 + f.t.val * 2 ^ 18 + f.d.val * 2 ^ 12 + f.a.val * 2 ^ 6 + f.i.val

/-- The fields of PForm in the first word. -/
def PForm.read (w : Nat) : PForm where
  sw := Fin.ofNat _ (fld w 30 30)
  g := Fin.ofNat _ (fld w 22 20)
  e := Fin.ofNat _ (fld w 19 19)
  c := Fin.ofNat _ (fld w 17 15)
  p := Fin.ofNat _ (fld w 14 12)
  a := Fin.ofNat _ (fld w 11 6)
  b := Fin.ofNat _ (fld w 5 0)

/-- The first word's operand bits. -/
def PForm.bits (f : PForm) : Nat :=
  f.sw.val * 2 ^ 30 + f.g.val * 2 ^ 20 + f.e.val * 2 ^ 19 + f.c.val * 2 ^ 15 + f.p.val * 2 ^ 12 + f.a.val * 2 ^ 6 + f.b.val

/-- The fields of LForm in the two words. -/
def LForm.read (w x : Nat) : LForm where
  sw := Fin.ofNat _ (fld w 30 30)
  g := Fin.ofNat _ (fld w 22 20)
  t := Fin.ofNat _ (fld w 18 18)
  d := Fin.ofNat _ (fld w 17 12)
  lit := Fin.ofNat _ (fld x 31 0)

/-- The first word's operand bits. -/
def LForm.bits (f : LForm) : Nat :=
  f.sw.val * 2 ^ 30 + f.g.val * 2 ^ 20 + f.t.val * 2 ^ 18 + f.d.val * 2 ^ 12

/-- The second word's operand bits. -/
def LForm.ext (f : LForm) : Nat :=
  f.lit.val

/-- The fields of CvForm in the first word. -/
def CvForm.read (w : Nat) : CvForm where
  sw := Fin.ofNat _ (fld w 30 30)
  g := Fin.ofNat _ (fld w 22 20)
  t := Fin.ofNat _ (fld w 18 18)
  d := Fin.ofNat _ (fld w 17 12)
  a := Fin.ofNat _ (fld w 11 6)
  f := Fin.ofNat _ (fld w 5 3)
  r := Fin.ofNat _ (fld w 2 0)

/-- The first word's operand bits. -/
def CvForm.bits (f : CvForm) : Nat :=
  f.sw.val * 2 ^ 30 + f.g.val * 2 ^ 20 + f.t.val * 2 ^ 18 + f.d.val * 2 ^ 12 + f.a.val * 2 ^ 6 + f.f.val * 2 ^ 3 + f.r.val

/-- The fields of Cv0Form in the first word. -/
def Cv0Form.read (w : Nat) : Cv0Form where
  sw := Fin.ofNat _ (fld w 30 30)
  g := Fin.ofNat _ (fld w 22 20)
  t := Fin.ofNat _ (fld w 18 18)
  d := Fin.ofNat _ (fld w 17 12)
  a := Fin.ofNat _ (fld w 11 6)
  f := Fin.ofNat _ (fld w 5 3)

/-- The first word's operand bits. -/
def Cv0Form.bits (f : Cv0Form) : Nat :=
  f.sw.val * 2 ^ 30 + f.g.val * 2 ^ 20 + f.t.val * 2 ^ 18 + f.d.val * 2 ^ 12 + f.a.val * 2 ^ 6 + f.f.val * 2 ^ 3

/-- The fields of BForm in the first word. -/
def BForm.read (w : Nat) : BForm where
  sw := Fin.ofNat _ (fld w 30 30)
  g := Fin.ofNat _ (fld w 22 20)
  o := Fin.ofNat _ (fld w 19 0)

/-- The first word's operand bits. -/
def BForm.bits (f : BForm) : Nat :=
  f.sw.val * 2 ^ 30 + f.g.val * 2 ^ 20 + f.o.val

/-- The fields of NForm in the first word. -/
def NForm.read (w : Nat) : NForm where
  sw := Fin.ofNat _ (fld w 30 30)
  g := Fin.ofNat _ (fld w 22 20)

/-- The first word's operand bits. -/
def NForm.bits (f : NForm) : Nat :=
  f.sw.val * 2 ^ 30 + f.g.val * 2 ^ 20

/-- The fields of AForm in the first word. -/
def AForm.read (w : Nat) : AForm where
  sw := Fin.ofNat _ (fld w 30 30)
  g := Fin.ofNat _ (fld w 22 20)
  a := Fin.ofNat _ (fld w 11 6)

/-- The first word's operand bits. -/
def AForm.bits (f : AForm) : Nat :=
  f.sw.val * 2 ^ 30 + f.g.val * 2 ^ 20 + f.a.val * 2 ^ 6

/-- The fields of OpBForm in the first word. -/
def OpBForm.read (w : Nat) : OpBForm where
  sw := Fin.ofNat _ (fld w 30 30)
  g := Fin.ofNat _ (fld w 22 20)
  b := Fin.ofNat _ (fld w 5 0)

/-- The first word's operand bits. -/
def OpBForm.bits (f : OpBForm) : Nat :=
  f.sw.val * 2 ^ 30 + f.g.val * 2 ^ 20 + f.b.val

/-- The fields of JForm in the first word. -/
def JForm.read (w : Nat) : JForm where
  sw := Fin.ofNat _ (fld w 30 30)
  g := Fin.ofNat _ (fld w 22 20)
  j := Fin.ofNat _ (fld w 19 16)
  o := Fin.ofNat _ (fld w 15 0)

/-- The first word's operand bits. -/
def JForm.bits (f : JForm) : Nat :=
  f.sw.val * 2 ^ 30 + f.g.val * 2 ^ 20 + f.j.val * 2 ^ 16 + f.o.val

/-- The fields of WForm in the first word. -/
def WForm.read (w : Nat) : WForm where
  sw := Fin.ofNat _ (fld w 30 30)
  g := Fin.ofNat _ (fld w 22 20)
  j := Fin.ofNat _ (fld w 19 16)

/-- The first word's operand bits. -/
def WForm.bits (f : WForm) : Nat :=
  f.sw.val * 2 ^ 30 + f.g.val * 2 ^ 20 + f.j.val * 2 ^ 16

/-- The fields of PlogForm in the first word. -/
def PlogForm.read (w : Nat) : PlogForm where
  sw := Fin.ofNat _ (fld w 30 30)
  g := Fin.ofNat _ (fld w 22 20)
  c := Fin.ofNat _ (fld w 17 15)
  p := Fin.ofNat _ (fld w 14 12)
  nx := Fin.ofNat _ (fld w 9 9)
  x := Fin.ofNat _ (fld w 8 6)
  ny := Fin.ofNat _ (fld w 3 3)
  y := Fin.ofNat _ (fld w 2 0)

/-- The first word's operand bits. -/
def PlogForm.bits (f : PlogForm) : Nat :=
  f.sw.val * 2 ^ 30 + f.g.val * 2 ^ 20 + f.c.val * 2 ^ 15 + f.p.val * 2 ^ 12 + f.nx.val * 2 ^ 9 + f.x.val * 2 ^ 6 + f.ny.val * 2 ^ 3 + f.y.val

/-- The fields of DForm in the first word. -/
def DForm.read (w : Nat) : DForm where
  sw := Fin.ofNat _ (fld w 30 30)
  g := Fin.ofNat _ (fld w 22 20)
  d := Fin.ofNat _ (fld w 17 12)

/-- The first word's operand bits. -/
def DForm.bits (f : DForm) : Nat :=
  f.sw.val * 2 ^ 30 + f.g.val * 2 ^ 20 + f.d.val * 2 ^ 12

/-- The fields of SrdForm in the first word. -/
def SrdForm.read (w : Nat) : SrdForm where
  sw := Fin.ofNat _ (fld w 30 30)
  g := Fin.ofNat _ (fld w 22 20)
  d := Fin.ofNat _ (fld w 17 12)
  rc := Fin.ofNat _ (fld w 4 4)
  sel := Fin.ofNat _ (fld w 3 0)

/-- The first word's operand bits. -/
def SrdForm.bits (f : SrdForm) : Nat :=
  f.sw.val * 2 ^ 30 + f.g.val * 2 ^ 20 + f.d.val * 2 ^ 12 + f.rc.val * 2 ^ 4 + f.sel.val

/-- The fields of QswpForm in the first word. -/
def QswpForm.read (w : Nat) : QswpForm where
  sw := Fin.ofNat _ (fld w 30 30)
  g := Fin.ofNat _ (fld w 22 20)
  d := Fin.ofNat _ (fld w 17 12)
  a := Fin.ofNat _ (fld w 11 6)
  k := Fin.ofNat _ (fld w 5 0)

/-- The first word's operand bits. -/
def QswpForm.bits (f : QswpForm) : Nat :=
  f.sw.val * 2 ^ 30 + f.g.val * 2 ^ 20 + f.d.val * 2 ^ 12 + f.a.val * 2 ^ 6 + f.k.val

/-- The fields of QbcForm in the first word. -/
def QbcForm.read (w : Nat) : QbcForm where
  sw := Fin.ofNat _ (fld w 30 30)
  g := Fin.ofNat _ (fld w 22 20)
  d := Fin.ofNat _ (fld w 17 12)
  a := Fin.ofNat _ (fld w 11 6)
  n := Fin.ofNat _ (fld w 1 0)

/-- The first word's operand bits. -/
def QbcForm.bits (f : QbcForm) : Nat :=
  f.sw.val * 2 ^ 30 + f.g.val * 2 ^ 20 + f.d.val * 2 ^ 12 + f.a.val * 2 ^ 6 + f.n.val

/-- The fields of DaForm in the first word. -/
def DaForm.read (w : Nat) : DaForm where
  sw := Fin.ofNat _ (fld w 30 30)
  g := Fin.ofNat _ (fld w 22 20)
  d := Fin.ofNat _ (fld w 17 12)
  a := Fin.ofNat _ (fld w 11 6)

/-- The first word's operand bits. -/
def DaForm.bits (f : DaForm) : Nat :=
  f.sw.val * 2 ^ 30 + f.g.val * 2 ^ 20 + f.d.val * 2 ^ 12 + f.a.val * 2 ^ 6

/-- The fields of ShflForm in the two words. -/
def ShflForm.read (w x : Nat) : ShflForm where
  sw := Fin.ofNat _ (fld w 30 30)
  g := Fin.ofNat _ (fld w 22 20)
  e := Fin.ofNat _ (fld w 19 19)
  d := Fin.ofNat _ (fld w 17 12)
  a := Fin.ofNat _ (fld w 11 6)
  b := Fin.ofNat _ (fld w 5 0)
  mreg := Fin.ofNat _ (fld x 31 26)
  mall := Fin.ofNat _ (fld x 25 25)
  op := Fin.ofNat _ (fld x 24 20)

/-- The first word's operand bits. -/
def ShflForm.bits (f : ShflForm) : Nat :=
  f.sw.val * 2 ^ 30 + f.g.val * 2 ^ 20 + f.e.val * 2 ^ 19 + f.d.val * 2 ^ 12 + f.a.val * 2 ^ 6 + f.b.val

/-- The second word's operand bits. -/
def ShflForm.ext (f : ShflForm) : Nat :=
  f.mreg.val * 2 ^ 26 + f.mall.val * 2 ^ 25 + f.op.val * 2 ^ 20

/-- The fields of GForm in the two words. -/
def GForm.read (w x : Nat) : GForm where
  sw := Fin.ofNat _ (fld w 30 30)
  g := Fin.ofNat _ (fld w 22 20)
  d := Fin.ofNat _ (fld w 17 12)
  a := Fin.ofNat _ (fld w 11 6)
  mreg := Fin.ofNat _ (fld x 31 26)
  mall := Fin.ofNat _ (fld x 25 25)
  op := Fin.ofNat _ (fld x 24 20)

/-- The first word's operand bits. -/
def GForm.bits (f : GForm) : Nat :=
  f.sw.val * 2 ^ 30 + f.g.val * 2 ^ 20 + f.d.val * 2 ^ 12 + f.a.val * 2 ^ 6

/-- The second word's operand bits. -/
def GForm.ext (f : GForm) : Nat :=
  f.mreg.val * 2 ^ 26 + f.mall.val * 2 ^ 25 + f.op.val * 2 ^ 20

/-- The fields of MForm in the two words. -/
def MForm.read (w x : Nat) : MForm where
  sw := Fin.ofNat _ (fld w 30 30)
  g := Fin.ofNat _ (fld w 22 20)
  bc := Fin.ofNat _ (fld w 19 19)
  d := Fin.ofNat _ (fld w 17 12)
  base := Fin.ofNat _ (fld w 11 6)
  off := Fin.ofNat _ (fld x 31 16)
  size := Fin.ofNat _ (fld x 15 13)
  cls := Fin.ofNat _ (fld x 12 12)
  scope := Fin.ofNat _ (fld x 11 9)
  rc := Fin.ofNat _ (fld x 8 5)
  grain := Fin.ofNat _ (fld x 4 2)
  pol := Fin.ofNat _ (fld x 1 0)

/-- The first word's operand bits. -/
def MForm.bits (f : MForm) : Nat :=
  f.sw.val * 2 ^ 30 + f.g.val * 2 ^ 20 + f.bc.val * 2 ^ 19 + f.d.val * 2 ^ 12 + f.base.val * 2 ^ 6

/-- The second word's operand bits. -/
def MForm.ext (f : MForm) : Nat :=
  f.off.val * 2 ^ 16 + f.size.val * 2 ^ 13 + f.cls.val * 2 ^ 12 + f.scope.val * 2 ^ 9 + f.rc.val * 2 ^ 5 + f.grain.val * 2 ^ 2 + f.pol.val

/-- The fields of MaForm in the two words. -/
def MaForm.read (w x : Nat) : MaForm where
  sw := Fin.ofNat _ (fld w 30 30)
  g := Fin.ofNat _ (fld w 22 20)
  bc := Fin.ofNat _ (fld w 19 19)
  d := Fin.ofNat _ (fld w 17 12)
  base := Fin.ofNat _ (fld w 11 6)
  off := Fin.ofNat _ (fld x 31 16)
  size := Fin.ofNat _ (fld x 15 13)
  scope := Fin.ofNat _ (fld x 11 9)
  atop := Fin.ofNat _ (fld x 8 4)
  pol := Fin.ofNat _ (fld x 1 0)

/-- The first word's operand bits. -/
def MaForm.bits (f : MaForm) : Nat :=
  f.sw.val * 2 ^ 30 + f.g.val * 2 ^ 20 + f.bc.val * 2 ^ 19 + f.d.val * 2 ^ 12 + f.base.val * 2 ^ 6

/-- The second word's operand bits. -/
def MaForm.ext (f : MaForm) : Nat :=
  f.off.val * 2 ^ 16 + f.size.val * 2 ^ 13 + f.scope.val * 2 ^ 9 + f.atop.val * 2 ^ 4 + f.pol.val

/-- The fields of UmForm in the two words. -/
def UmForm.read (w x : Nat) : UmForm where
  sw := Fin.ofNat _ (fld w 30 30)
  g := Fin.ofNat _ (fld w 22 20)
  d := Fin.ofNat _ (fld w 17 12)
  base := Fin.ofNat _ (fld w 11 6)
  off := Fin.ofNat _ (fld x 31 16)
  size := Fin.ofNat _ (fld x 15 13)
  cls := Fin.ofNat _ (fld x 12 12)
  scope := Fin.ofNat _ (fld x 11 9)
  rc := Fin.ofNat _ (fld x 8 5)
  grain := Fin.ofNat _ (fld x 4 2)
  pol := Fin.ofNat _ (fld x 1 0)

/-- The first word's operand bits. -/
def UmForm.bits (f : UmForm) : Nat :=
  f.sw.val * 2 ^ 30 + f.g.val * 2 ^ 20 + f.d.val * 2 ^ 12 + f.base.val * 2 ^ 6

/-- The second word's operand bits. -/
def UmForm.ext (f : UmForm) : Nat :=
  f.off.val * 2 ^ 16 + f.size.val * 2 ^ 13 + f.cls.val * 2 ^ 12 + f.scope.val * 2 ^ 9 + f.rc.val * 2 ^ 5 + f.grain.val * 2 ^ 2 + f.pol.val

/-- The fields of UmaForm in the two words. -/
def UmaForm.read (w x : Nat) : UmaForm where
  sw := Fin.ofNat _ (fld w 30 30)
  g := Fin.ofNat _ (fld w 22 20)
  d := Fin.ofNat _ (fld w 17 12)
  base := Fin.ofNat _ (fld w 11 6)
  off := Fin.ofNat _ (fld x 31 16)
  size := Fin.ofNat _ (fld x 15 13)
  scope := Fin.ofNat _ (fld x 11 9)
  atop := Fin.ofNat _ (fld x 8 4)
  pol := Fin.ofNat _ (fld x 1 0)

/-- The first word's operand bits. -/
def UmaForm.bits (f : UmaForm) : Nat :=
  f.sw.val * 2 ^ 30 + f.g.val * 2 ^ 20 + f.d.val * 2 ^ 12 + f.base.val * 2 ^ 6

/-- The second word's operand bits. -/
def UmaForm.ext (f : UmaForm) : Nat :=
  f.off.val * 2 ^ 16 + f.size.val * 2 ^ 13 + f.scope.val * 2 ^ 9 + f.atop.val * 2 ^ 4 + f.pol.val

/-- The fields of MldwTForm in the two words. -/
def MldwTForm.read (w x : Nat) : MldwTForm where
  sw := Fin.ofNat _ (fld w 30 30)
  g := Fin.ofNat _ (fld w 22 20)
  fmt := Fin.ofNat _ (fld x 31 29)
  spar := Fin.ofNat _ (fld x 28 27)
  ta := Fin.ofNat _ (fld x 21 19)
  kind := Fin.ofNat _ (fld x 12 12)

/-- The first word's operand bits. -/
def MldwTForm.bits (f : MldwTForm) : Nat :=
  f.sw.val * 2 ^ 30 + f.g.val * 2 ^ 20

/-- The second word's operand bits. -/
def MldwTForm.ext (f : MldwTForm) : Nat :=
  f.fmt.val * 2 ^ 29 + f.spar.val * 2 ^ 27 + f.ta.val * 2 ^ 19 + f.kind.val * 2 ^ 12

/-- The fields of MldwMForm in the two words. -/
def MldwMForm.read (w x : Nat) : MldwMForm where
  sw := Fin.ofNat _ (fld w 30 30)
  g := Fin.ofNat _ (fld w 22 20)
  a := Fin.ofNat _ (fld w 11 6)
  b := Fin.ofNat _ (fld w 5 0)
  fmt := Fin.ofNat _ (fld x 31 29)
  spar := Fin.ofNat _ (fld x 28 27)
  kind := Fin.ofNat _ (fld x 12 12)

/-- The first word's operand bits. -/
def MldwMForm.bits (f : MldwMForm) : Nat :=
  f.sw.val * 2 ^ 30 + f.g.val * 2 ^ 20 + f.a.val * 2 ^ 6 + f.b.val

/-- The second word's operand bits. -/
def MldwMForm.ext (f : MldwMForm) : Nat :=
  f.fmt.val * 2 ^ 29 + f.spar.val * 2 ^ 27 + f.kind.val * 2 ^ 12

/-- The fields of MmaForm in the two words. -/
def MmaForm.read (w x : Nat) : MmaForm where
  sw := Fin.ofNat _ (fld w 30 30)
  g := Fin.ofNat _ (fld w 22 20)
  fmt := Fin.ofNat _ (fld x 31 29)
  flip := Fin.ofNat _ (fld x 25 25)
  zc := Fin.ofNat _ (fld x 24 24)
  acc := Fin.ofNat _ (fld x 23 22)
  ta := Fin.ofNat _ (fld x 21 19)

/-- The first word's operand bits. -/
def MmaForm.bits (f : MmaForm) : Nat :=
  f.sw.val * 2 ^ 30 + f.g.val * 2 ^ 20

/-- The second word's operand bits. -/
def MmaForm.ext (f : MmaForm) : Nat :=
  f.fmt.val * 2 ^ 29 + f.flip.val * 2 ^ 25 + f.zc.val * 2 ^ 24 + f.acc.val * 2 ^ 22 + f.ta.val * 2 ^ 19

/-- The fields of AcpyRForm in the two words. -/
def AcpyRForm.read (w x : Nat) : AcpyRForm where
  sw := Fin.ofNat _ (fld w 30 30)
  g := Fin.ofNat _ (fld w 22 20)
  c := Fin.ofNat _ (fld w 17 12)
  fmt := Fin.ofNat _ (fld x 31 29)
  ckd := Fin.ofNat _ (fld x 26 26)
  zc := Fin.ofNat _ (fld x 24 24)
  acc := Fin.ofNat _ (fld x 23 22)
  n1 := Fin.ofNat _ (fld x 11 6)
  j0 := Fin.ofNat _ (fld x 5 0)

/-- The first word's operand bits. -/
def AcpyRForm.bits (f : AcpyRForm) : Nat :=
  f.sw.val * 2 ^ 30 + f.g.val * 2 ^ 20 + f.c.val * 2 ^ 12

/-- The second word's operand bits. -/
def AcpyRForm.ext (f : AcpyRForm) : Nat :=
  f.fmt.val * 2 ^ 29 + f.ckd.val * 2 ^ 26 + f.zc.val * 2 ^ 24 + f.acc.val * 2 ^ 22 + f.n1.val * 2 ^ 6 + f.j0.val

/-- The fields of AcpyTForm in the two words. -/
def AcpyTForm.read (w x : Nat) : AcpyTForm where
  sw := Fin.ofNat _ (fld w 30 30)
  g := Fin.ofNat _ (fld w 22 20)
  fmt := Fin.ofNat _ (fld x 31 29)
  ckd := Fin.ofNat _ (fld x 26 26)
  zc := Fin.ofNat _ (fld x 24 24)
  acc := Fin.ofNat _ (fld x 23 22)
  ta := Fin.ofNat _ (fld x 21 19)
  h := Fin.ofNat _ (fld x 0 0)

/-- The first word's operand bits. -/
def AcpyTForm.bits (f : AcpyTForm) : Nat :=
  f.sw.val * 2 ^ 30 + f.g.val * 2 ^ 20

/-- The second word's operand bits. -/
def AcpyTForm.ext (f : AcpyTForm) : Nat :=
  f.fmt.val * 2 ^ 29 + f.ckd.val * 2 ^ 26 + f.zc.val * 2 ^ 24 + f.acc.val * 2 ^ 22 + f.ta.val * 2 ^ 19 + f.h.val

/-- The fields of AcpyMForm in the two words. -/
def AcpyMForm.read (w x : Nat) : AcpyMForm where
  sw := Fin.ofNat _ (fld w 30 30)
  g := Fin.ofNat _ (fld w 22 20)
  a := Fin.ofNat _ (fld w 11 6)
  b := Fin.ofNat _ (fld w 5 0)
  fmt := Fin.ofNat _ (fld x 31 29)
  ckd := Fin.ofNat _ (fld x 26 26)
  zc := Fin.ofNat _ (fld x 24 24)
  acc := Fin.ofNat _ (fld x 23 22)

/-- The first word's operand bits. -/
def AcpyMForm.bits (f : AcpyMForm) : Nat :=
  f.sw.val * 2 ^ 30 + f.g.val * 2 ^ 20 + f.a.val * 2 ^ 6 + f.b.val

/-- The second word's operand bits. -/
def AcpyMForm.ext (f : AcpyMForm) : Nat :=
  f.fmt.val * 2 ^ 29 + f.ckd.val * 2 ^ 26 + f.zc.val * 2 ^ 24 + f.acc.val * 2 ^ 22

/-- The fields of AcpySForm in the two words. -/
def AcpySForm.read (w x : Nat) : AcpySForm where
  sw := Fin.ofNat _ (fld w 30 30)
  g := Fin.ofNat _ (fld w 22 20)
  c := Fin.ofNat _ (fld w 17 12)
  acc := Fin.ofNat _ (fld x 23 22)
  clr := Fin.ofNat _ (fld x 0 0)

/-- The first word's operand bits. -/
def AcpySForm.bits (f : AcpySForm) : Nat :=
  f.sw.val * 2 ^ 30 + f.g.val * 2 ^ 20 + f.c.val * 2 ^ 12

/-- The second word's operand bits. -/
def AcpySForm.ext (f : AcpySForm) : Nat :=
  f.acc.val * 2 ^ 22 + f.clr.val

/-- The fields of AckdForm in the two words. -/
def AckdForm.read (w x : Nat) : AckdForm where
  sw := Fin.ofNat _ (fld w 30 30)
  g := Fin.ofNat _ (fld w 22 20)
  fmt := Fin.ofNat _ (fld x 31 29)
  acc := Fin.ofNat _ (fld x 23 22)

/-- The first word's operand bits. -/
def AckdForm.bits (f : AckdForm) : Nat :=
  f.sw.val * 2 ^ 30 + f.g.val * 2 ^ 20

/-- The second word's operand bits. -/
def AckdForm.ext (f : AckdForm) : Nat :=
  f.fmt.val * 2 ^ 29 + f.acc.val * 2 ^ 22

/-- The fields of AzeroForm in the two words. -/
def AzeroForm.read (w x : Nat) : AzeroForm where
  sw := Fin.ofNat _ (fld w 30 30)
  g := Fin.ofNat _ (fld w 22 20)
  acc := Fin.ofNat _ (fld x 23 22)

/-- The first word's operand bits. -/
def AzeroForm.bits (f : AzeroForm) : Nat :=
  f.sw.val * 2 ^ 30 + f.g.val * 2 ^ 20

/-- The second word's operand bits. -/
def AzeroForm.ext (f : AzeroForm) : Nat :=
  f.acc.val * 2 ^ 22

/-- The fields of TldForm in the two words. -/
def TldForm.read (w x : Nat) : TldForm where
  sw := Fin.ofNat _ (fld w 30 30)
  g := Fin.ofNat _ (fld w 22 20)
  bc := Fin.ofNat _ (fld w 19 19)
  a := Fin.ofNat _ (fld w 11 6)
  b := Fin.ofNat _ (fld w 5 0)
  ta := Fin.ofNat _ (fld x 21 19)

/-- The first word's operand bits. -/
def TldForm.bits (f : TldForm) : Nat :=
  f.sw.val * 2 ^ 30 + f.g.val * 2 ^ 20 + f.bc.val * 2 ^ 19 + f.a.val * 2 ^ 6 + f.b.val

/-- The second word's operand bits. -/
def TldForm.ext (f : TldForm) : Nat :=
  f.ta.val * 2 ^ 19

/-- The fields of TmovForm in the two words. -/
def TmovForm.read (w x : Nat) : TmovForm where
  sw := Fin.ofNat _ (fld w 30 30)
  g := Fin.ofNat _ (fld w 22 20)
  c := Fin.ofNat _ (fld w 17 12)
  ta := Fin.ofNat _ (fld x 21 19)
  n1 := Fin.ofNat _ (fld x 10 5)
  j0 := Fin.ofNat _ (fld x 4 0)

/-- The first word's operand bits. -/
def TmovForm.bits (f : TmovForm) : Nat :=
  f.sw.val * 2 ^ 30 + f.g.val * 2 ^ 20 + f.c.val * 2 ^ 12

/-- The second word's operand bits. -/
def TmovForm.ext (f : TmovForm) : Nat :=
  f.ta.val * 2 ^ 19 + f.n1.val * 2 ^ 5 + f.j0.val

/-- The fields of MbmapForm in the two words. -/
def MbmapForm.read (w x : Nat) : MbmapForm where
  sw := Fin.ofNat _ (fld w 30 30)
  g := Fin.ofNat _ (fld w 22 20)
  a := Fin.ofNat _ (fld w 11 6)
  b := Fin.ofNat _ (fld w 5 0)
  high := Fin.ofNat _ (fld x 0 0)

/-- The first word's operand bits. -/
def MbmapForm.bits (f : MbmapForm) : Nat :=
  f.sw.val * 2 ^ 30 + f.g.val * 2 ^ 20 + f.a.val * 2 ^ 6 + f.b.val

/-- The second word's operand bits. -/
def MbmapForm.ext (f : MbmapForm) : Nat :=
  f.high.val

/-- The fields of AsetForm in the two words. -/
def AsetForm.read (w x : Nat) : AsetForm where
  sw := Fin.ofNat _ (fld w 30 30)
  g := Fin.ofNat _ (fld w 22 20)
  c := Fin.ofNat _ (fld w 17 12)
  acc := Fin.ofNat _ (fld x 23 22)
  int := Fin.ofNat _ (fld x 12 12)
  n1 := Fin.ofNat _ (fld x 11 6)
  j0 := Fin.ofNat _ (fld x 5 0)

/-- The first word's operand bits. -/
def AsetForm.bits (f : AsetForm) : Nat :=
  f.sw.val * 2 ^ 30 + f.g.val * 2 ^ 20 + f.c.val * 2 ^ 12

/-- The second word's operand bits. -/
def AsetForm.ext (f : AsetForm) : Nat :=
  f.acc.val * 2 ^ 22 + f.int.val * 2 ^ 12 + f.n1.val * 2 ^ 6 + f.j0.val

/-- The fields of QbindForm in the first word. -/
def QbindForm.read (w : Nat) : QbindForm where
  sw := Fin.ofNat _ (fld w 30 30)
  g := Fin.ofNat _ (fld w 22 20)
  pop := Fin.ofNat _ (fld w 12 12)
  q := Fin.ofNat _ (fld w 9 6)
  b := Fin.ofNat _ (fld w 5 0)

/-- The first word's operand bits. -/
def QbindForm.bits (f : QbindForm) : Nat :=
  f.sw.val * 2 ^ 30 + f.g.val * 2 ^ 20 + f.pop.val * 2 ^ 12 + f.q.val * 2 ^ 6 + f.b.val

/-- The fields of QForm in the first word. -/
def QForm.read (w : Nat) : QForm where
  sw := Fin.ofNat _ (fld w 30 30)
  g := Fin.ofNat _ (fld w 22 20)
  v := Fin.ofNat _ (fld w 17 12)
  q := Fin.ofNat _ (fld w 9 6)

/-- The first word's operand bits. -/
def QForm.bits (f : QForm) : Nat :=
  f.sw.val * 2 ^ 30 + f.g.val * 2 ^ 20 + f.v.val * 2 ^ 12 + f.q.val * 2 ^ 6

/-- The fields of UrForm in the first word. -/
def UrForm.read (w : Nat) : UrForm where
  sw := Fin.ofNat _ (fld w 30 30)
  g := Fin.ofNat _ (fld w 22 20)
  i := Fin.ofNat _ (fld w 19 19)
  w := Fin.ofNat _ (fld w 18 18)
  d := Fin.ofNat _ (fld w 17 12)
  a := Fin.ofNat _ (fld w 11 6)
  b := Fin.ofNat _ (fld w 5 0)

/-- The first word's operand bits. -/
def UrForm.bits (f : UrForm) : Nat :=
  f.sw.val * 2 ^ 30 + f.g.val * 2 ^ 20 + f.i.val * 2 ^ 19 + f.w.val * 2 ^ 18 + f.d.val * 2 ^ 12 + f.a.val * 2 ^ 6 + f.b.val

/-- The fields of UpForm in the first word. -/
def UpForm.read (w : Nat) : UpForm where
  sw := Fin.ofNat _ (fld w 30 30)
  g := Fin.ofNat _ (fld w 22 20)
  i := Fin.ofNat _ (fld w 19 19)
  w := Fin.ofNat _ (fld w 18 18)
  c := Fin.ofNat _ (fld w 17 15)
  p := Fin.ofNat _ (fld w 14 12)
  a := Fin.ofNat _ (fld w 11 6)
  b := Fin.ofNat _ (fld w 5 0)

/-- The first word's operand bits. -/
def UpForm.bits (f : UpForm) : Nat :=
  f.sw.val * 2 ^ 30 + f.g.val * 2 ^ 20 + f.i.val * 2 ^ 19 + f.w.val * 2 ^ 18 + f.c.val * 2 ^ 15 + f.p.val * 2 ^ 12 + f.a.val * 2 ^ 6 + f.b.val

/-- The fields of UlForm in the two words. -/
def UlForm.read (w x : Nat) : UlForm where
  sw := Fin.ofNat _ (fld w 30 30)
  g := Fin.ofNat _ (fld w 22 20)
  w := Fin.ofNat _ (fld w 18 18)
  d := Fin.ofNat _ (fld w 17 12)
  lit := Fin.ofNat _ (fld x 31 0)

/-- The first word's operand bits. -/
def UlForm.bits (f : UlForm) : Nat :=
  f.sw.val * 2 ^ 30 + f.g.val * 2 ^ 20 + f.w.val * 2 ^ 18 + f.d.val * 2 ^ 12

/-- The second word's operand bits. -/
def UlForm.ext (f : UlForm) : Nat :=
  f.lit.val

/-- The fields of SsrForm in the first word. -/
def SsrForm.read (w : Nat) : SsrForm where
  sw := Fin.ofNat _ (fld w 30 30)
  g := Fin.ofNat _ (fld w 22 20)
  w := Fin.ofNat _ (fld w 18 18)
  d := Fin.ofNat _ (fld w 17 12)
  rc := Fin.ofNat _ (fld w 4 4)
  sel := Fin.ofNat _ (fld w 3 0)

/-- The first word's operand bits. -/
def SsrForm.bits (f : SsrForm) : Nat :=
  f.sw.val * 2 ^ 30 + f.g.val * 2 ^ 20 + f.w.val * 2 ^ 18 + f.d.val * 2 ^ 12 + f.rc.val * 2 ^ 4 + f.sel.val

/-- The fields of SgetForm in the first word. -/
def SgetForm.read (w : Nat) : SgetForm where
  sw := Fin.ofNat _ (fld w 30 30)
  g := Fin.ofNat _ (fld w 22 20)
  d := Fin.ofNat _ (fld w 17 12)
  i := Fin.ofNat _ (fld w 5 0)

/-- The first word's operand bits. -/
def SgetForm.bits (f : SgetForm) : Nat :=
  f.sw.val * 2 ^ 30 + f.g.val * 2 ^ 20 + f.d.val * 2 ^ 12 + f.i.val

/-- The fields of FenceForm in the first word. -/
def FenceForm.read (w : Nat) : FenceForm where
  sw := Fin.ofNat _ (fld w 30 30)
  g := Fin.ofNat _ (fld w 22 20)
  scope := Fin.ofNat _ (fld w 17 15)

/-- The first word's operand bits. -/
def FenceForm.bits (f : FenceForm) : Nat :=
  f.sw.val * 2 ^ 30 + f.g.val * 2 ^ 20 + f.scope.val * 2 ^ 15

/-- The fields of BarForm in the first word. -/
def BarForm.read (w : Nat) : BarForm where
  sw := Fin.ofNat _ (fld w 30 30)
  g := Fin.ofNat _ (fld w 22 20)
  n := Fin.ofNat _ (fld w 3 0)

/-- The first word's operand bits. -/
def BarForm.bits (f : BarForm) : Nat :=
  f.sw.val * 2 ^ 30 + f.g.val * 2 ^ 20 + f.n.val

/-- The fields of BarxForm in the first word. -/
def BarxForm.read (w : Nat) : BarxForm where
  sw := Fin.ofNat _ (fld w 30 30)
  g := Fin.ofNat _ (fld w 22 20)
  i := Fin.ofNat _ (fld w 19 19)
  a := Fin.ofNat _ (fld w 11 6)
  b := Fin.ofNat _ (fld w 5 0)

/-- The first word's operand bits. -/
def BarxForm.bits (f : BarxForm) : Nat :=
  f.sw.val * 2 ^ 30 + f.g.val * 2 ^ 20 + f.i.val * 2 ^ 19 + f.a.val * 2 ^ 6 + f.b.val

/-- The fields of AbForm in the first word. -/
def AbForm.read (w : Nat) : AbForm where
  sw := Fin.ofNat _ (fld w 30 30)
  g := Fin.ofNat _ (fld w 22 20)
  a := Fin.ofNat _ (fld w 11 6)
  b := Fin.ofNat _ (fld w 5 0)

/-- The first word's operand bits. -/
def AbForm.bits (f : AbForm) : Nat :=
  f.sw.val * 2 ^ 30 + f.g.val * 2 ^ 20 + f.a.val * 2 ^ 6 + f.b.val

/-- The fields of TlwForm in the first word. -/
def TlwForm.read (w : Nat) : TlwForm where
  sw := Fin.ofNat _ (fld w 30 30)
  g := Fin.ofNat _ (fld w 22 20)
  i := Fin.ofNat _ (fld w 19 19)
  w := Fin.ofNat _ (fld w 18 18)
  a := Fin.ofNat _ (fld w 11 6)
  b := Fin.ofNat _ (fld w 5 0)

/-- The first word's operand bits. -/
def TlwForm.bits (f : TlwForm) : Nat :=
  f.sw.val * 2 ^ 30 + f.g.val * 2 ^ 20 + f.i.val * 2 ^ 19 + f.w.val * 2 ^ 18 + f.a.val * 2 ^ 6 + f.b.val

/-- The fields of GsetForm in the first word. -/
def GsetForm.read (w : Nat) : GsetForm where
  sw := Fin.ofNat _ (fld w 30 30)
  g := Fin.ofNat _ (fld w 22 20)
  i := Fin.ofNat _ (fld w 19 19)
  n := Fin.ofNat _ (fld w 9 6)
  b := Fin.ofNat _ (fld w 5 0)

/-- The first word's operand bits. -/
def GsetForm.bits (f : GsetForm) : Nat :=
  f.sw.val * 2 ^ 30 + f.g.val * 2 ^ 20 + f.i.val * 2 ^ 19 + f.n.val * 2 ^ 6 + f.b.val

/-- The fields of GclrForm in the first word. -/
def GclrForm.read (w : Nat) : GclrForm where
  sw := Fin.ofNat _ (fld w 30 30)
  g := Fin.ofNat _ (fld w 22 20)
  n := Fin.ofNat _ (fld w 9 6)

/-- The first word's operand bits. -/
def GclrForm.bits (f : GclrForm) : Nat :=
  f.sw.val * 2 ^ 30 + f.g.val * 2 ^ 20 + f.n.val * 2 ^ 6

/-- The fields of TlrForm in the first word. -/
def TlrForm.read (w : Nat) : TlrForm where
  sw := Fin.ofNat _ (fld w 30 30)
  g := Fin.ofNat _ (fld w 22 20)
  w := Fin.ofNat _ (fld w 18 18)
  d := Fin.ofNat _ (fld w 17 12)
  a := Fin.ofNat _ (fld w 11 6)

/-- The first word's operand bits. -/
def TlrForm.bits (f : TlrForm) : Nat :=
  f.sw.val * 2 ^ 30 + f.g.val * 2 ^ 20 + f.w.val * 2 ^ 18 + f.d.val * 2 ^ 12 + f.a.val * 2 ^ 6

/-- The fields of UeForm in the two words. -/
def UeForm.read (w x : Nat) : UeForm where
  sw := Fin.ofNat _ (fld w 30 30)
  g := Fin.ofNat _ (fld w 22 20)
  i := Fin.ofNat _ (fld w 19 19)
  w := Fin.ofNat _ (fld w 18 18)
  d := Fin.ofNat _ (fld w 17 12)
  a := Fin.ofNat _ (fld w 11 6)
  b := Fin.ofNat _ (fld w 5 0)
  gv := Fin.ofNat _ (fld x 31 31)
  gslot := Fin.ofNat _ (fld x 30 27)
  ntf := Fin.ofNat _ (fld x 26 26)
  opts := Fin.ofNat _ (fld x 25 16)
  imm := Fin.ofNat _ (fld x 15 0)

/-- The first word's operand bits. -/
def UeForm.bits (f : UeForm) : Nat :=
  f.sw.val * 2 ^ 30 + f.g.val * 2 ^ 20 + f.i.val * 2 ^ 19 + f.w.val * 2 ^ 18 + f.d.val * 2 ^ 12 + f.a.val * 2 ^ 6 + f.b.val

/-- The second word's operand bits. -/
def UeForm.ext (f : UeForm) : Nat :=
  f.gv.val * 2 ^ 31 + f.gslot.val * 2 ^ 27 + f.ntf.val * 2 ^ 26 + f.opts.val * 2 ^ 16 + f.imm.val

/-- The fields of TrapForm in the first word. -/
def TrapForm.read (w : Nat) : TrapForm where
  sw := Fin.ofNat _ (fld w 30 30)
  g := Fin.ofNat _ (fld w 22 20)
  n := Fin.ofNat _ (fld w 5 0)

/-- The first word's operand bits. -/
def TrapForm.bits (f : TrapForm) : Nat :=
  f.sw.val * 2 ^ 30 + f.g.val * 2 ^ 20 + f.n.val

/-- The fields of SwptForm in the first word. -/
def SwptForm.read (w : Nat) : SwptForm where
  g := Fin.ofNat _ (fld w 22 20)
  n := Fin.ofNat _ (fld w 5 0)

/-- The first word's operand bits. -/
def SwptForm.bits (f : SwptForm) : Nat :=
  f.g.val * 2 ^ 20 + f.n.val

/-- The fields of SleepForm in the first word. -/
def SleepForm.read (w : Nat) : SleepForm where
  sw := Fin.ofNat _ (fld w 30 30)
  g := Fin.ofNat _ (fld w 22 20)
  i := Fin.ofNat _ (fld w 19 19)
  b := Fin.ofNat _ (fld w 5 0)

/-- The first word's operand bits. -/
def SleepForm.bits (f : SleepForm) : Nat :=
  f.sw.val * 2 ^ 30 + f.g.val * 2 ^ 20 + f.i.val * 2 ^ 19 + f.b.val

/-- The fields of MsendForm in the first word. -/
def MsendForm.read (w : Nat) : MsendForm where
  sw := Fin.ofNat _ (fld w 30 30)
  g := Fin.ofNat _ (fld w 22 20)
  p := Fin.ofNat _ (fld w 14 12)
  a := Fin.ofNat _ (fld w 11 6)
  b := Fin.ofNat _ (fld w 5 0)

/-- The first word's operand bits. -/
def MsendForm.bits (f : MsendForm) : Nat :=
  f.sw.val * 2 ^ 30 + f.g.val * 2 ^ 20 + f.p.val * 2 ^ 12 + f.a.val * 2 ^ 6 + f.b.val

/-- The fields of DnForm in the first word. -/
def DnForm.read (w : Nat) : DnForm where
  sw := Fin.ofNat _ (fld w 30 30)
  g := Fin.ofNat _ (fld w 22 20)
  d := Fin.ofNat _ (fld w 17 12)
  n := Fin.ofNat _ (fld w 5 0)

/-- The first word's operand bits. -/
def DnForm.bits (f : DnForm) : Nat :=
  f.sw.val * 2 ^ 30 + f.g.val * 2 ^ 20 + f.d.val * 2 ^ 12 + f.n.val

/-- The fields of AnForm in the first word. -/
def AnForm.read (w : Nat) : AnForm where
  sw := Fin.ofNat _ (fld w 30 30)
  g := Fin.ofNat _ (fld w 22 20)
  a := Fin.ofNat _ (fld w 11 6)
  n := Fin.ofNat _ (fld w 5 0)

/-- The first word's operand bits. -/
def AnForm.bits (f : AnForm) : Nat :=
  f.sw.val * 2 ^ 30 + f.g.val * 2 ^ 20 + f.a.val * 2 ^ 6 + f.n.val

/-- An alternative of an opcode: taken when the fixed bits of both words are as given. -/
def alt (w x : Nat) (wc xc : List (Nat × Nat × Nat)) (i : Instr) (other : Except DecodeError Instr) :
    Except DecodeError Instr := if bitsAre w wc && bitsAre x xc then .ok i else other

/-- The lane set's opcode map (R57, R58). -/
def parseLane (op w x : Nat) : Except DecodeError Instr :=
  match op with
  | 0 => alt w x [] [] (.iadd (RForm.read w)) (.error .reservedField)
  | 1 => alt w x [] [] (.isub (RForm.read w)) (.error .reservedField)
  | 2 => alt w x [] [] (.iadds (RForm.read w)) (.error .reservedField)
  | 3 => alt w x [] [] (.isubs (RForm.read w)) (.error .reservedField)
  | 4 => alt w x [] [] (.imul (RForm.read w)) (.error .reservedField)
  | 5 => alt w x [] [] (.imulh (RForm.read w)) (.error .reservedField)
  | 6 => alt w x [] [] (.imad (RForm.read w)) (.error .reservedField)
  | 7 => alt w x [] [] (.imin (RForm.read w)) (.error .reservedField)
  | 8 => alt w x [] [] (.imax (RForm.read w)) (.error .reservedField)
  | 9 => alt w x [] [] (.andI (RForm.read w)) (.error .reservedField)
  | 10 => alt w x [] [] (.orI (RForm.read w)) (.error .reservedField)
  | 11 => alt w x [] [] (.xorI (RForm.read w)) (.error .reservedField)
  | 12 => alt w x [] [] (.andn (RForm.read w)) (.error .reservedField)
  | 13 => alt w x [] [] (.shl (RForm.read w)) (.error .reservedField)
  | 14 => alt w x [] [] (.shr (RForm.read w)) (.error .reservedField)
  | 15 => alt w x [] [] (.sra (RForm.read w)) (.error .reservedField)
  | 16 => alt w x [(19, 19, 0)] [] (.shli (I6Form.read w)) (.error .reservedField)
  | 17 => alt w x [(19, 19, 0)] [] (.shri (I6Form.read w)) (.error .reservedField)
  | 18 => alt w x [(19, 19, 0)] [] (.srai (I6Form.read w)) (.error .reservedField)
  | 19 => alt w x [(5, 0, 0), (19, 19, 0)] [] (.popc (R1Form.read w)) (.error .reservedField)
  | 20 => alt w x [(5, 0, 0), (19, 19, 0)] [] (.clz (R1Form.read w)) (.error .reservedField)
  | 21 => alt w x [(18, 18, 0)] [] (.icmp (PForm.read w)) (.error .reservedField)
  | 22 => alt w x [(11, 0, 0), (19, 19, 0)] [] (.movl (LForm.read w x)) (.error .reservedField)
  | 23 => alt w x [] [] (.iaddw (RForm.read w)) (.error .reservedField)
  | 24 => alt w x [] [] (.fadd (RForm.read w)) (.error .reservedField)
  | 25 => alt w x [] [] (.fsub (RForm.read w)) (.error .reservedField)
  | 26 => alt w x [] [] (.fmul (RForm.read w)) (.error .reservedField)
  | 27 => alt w x [] [] (.ffma (RForm.read w)) (.error .reservedField)
  | 28 => alt w x [] [] (.fmin (RForm.read w)) (.error .reservedField)
  | 29 => alt w x [] [] (.fmax (RForm.read w)) (.error .reservedField)
  | 30 => alt w x [(5, 0, 0), (19, 19, 0)] [] (.fabs (R1Form.read w)) (.error .reservedField)
  | 31 => alt w x [(5, 0, 0), (19, 19, 0)] [] (.fneg (R1Form.read w)) (.error .reservedField)
  | 32 => alt w x [(18, 18, 0)] [] (.fcmp (PForm.read w)) (.error .reservedField)
  | 33 => alt w x [(5, 0, 0), (19, 19, 0)] [] (.frcp (R1Form.read w)) (.error .reservedField)
  | 34 => alt w x [(5, 0, 0), (19, 19, 0)] [] (.frsq (R1Form.read w)) (.error .reservedField)
  | 35 => alt w x [(5, 0, 0), (19, 19, 0)] [] (.fsqrt (R1Form.read w)) (.error .reservedField)
  | 36 => alt w x [(5, 0, 0), (19, 19, 0)] [] (.fexp2 (R1Form.read w)) (.error .reservedField)
  | 37 => alt w x [(5, 0, 0), (19, 19, 0)] [] (.flog2 (R1Form.read w)) (.error .reservedField)
  | 38 => alt w x [(5, 0, 0), (19, 19, 0)] [] (.fsin (R1Form.read w)) (.error .reservedField)
  | 39 => alt w x [(5, 0, 0), (19, 19, 0)] [] (.fcos (R1Form.read w)) (.error .reservedField)
  | 40 => alt w x [] [] (.hadd (RForm.read w)) (.error .reservedField)
  | 41 => alt w x [] [] (.hmul (RForm.read w)) (.error .reservedField)
  | 42 => alt w x [] [] (.hfma (RForm.read w)) (.error .reservedField)
  | 43 => alt w x [] [] (.badd (RForm.read w)) (.error .reservedField)
  | 44 => alt w x [] [] (.bmul (RForm.read w)) (.error .reservedField)
  | 45 => alt w x [] [] (.bfma (RForm.read w)) (.error .reservedField)
  | 46 => alt w x [(19, 19, 0)] [] (.icvf (CvForm.read w)) (.error .reservedField)
  | 47 => alt w x [(19, 19, 0)] [] (.fcvi (CvForm.read w)) (.error .reservedField)
  | 48 => alt w x [(19, 19, 0)] [] (.fcvh (CvForm.read w)) (.error .reservedField)
  | 49 => alt w x [(2, 0, 0), (19, 19, 0)] [] (.hcvf (Cv0Form.read w)) (.error .reservedField)
  | 50 => alt w x [(19, 19, 0)] [] (.icvn (CvForm.read w)) (.error .reservedField)
  | 51 => alt w x [(2, 0, 0), (19, 19, 0)] [] (.bpk (Cv0Form.read w)) (.error .reservedField)
  | 52 => alt w x [(2, 0, 0), (19, 19, 0)] [] (.bunpk (Cv0Form.read w)) (.error .reservedField)
  | 53 => alt w x [(2, 0, 0), (19, 19, 0)] [] (.bpsel (Cv0Form.read w)) (.error .reservedField)
  | 54 => alt w x [] [] (.bra (BForm.read w)) (.error .reservedField)
  | 55 => alt w x [] [] (.call (BForm.read w)) (.error .reservedField)
  | 56 => alt w x [(19, 0, 0)] [] (.ret (NForm.read w)) (.error .reservedField)
  | 57 => alt w x [(5, 0, 0), (19, 12, 0)] [] (.jmprVector (AForm.read w)) (alt w x [(19, 6, 8192)] [] (.jmprUniform (OpBForm.read w)) (.error .reservedField))
  | 58 => alt w x [(5, 0, 0), (19, 12, 0)] [] (.callrVector (AForm.read w)) (alt w x [(19, 6, 8192)] [] (.callrUniform (OpBForm.read w)) (.error .reservedField))
  | 59 => alt w x [] [] (.join (JForm.read w)) (.error .reservedField)
  | 60 => alt w x [(15, 0, 0)] [] (.waitI (WForm.read w)) (.error .reservedField)
  | 61 => alt w x [(19, 0, 0)] [] (.exitI (NForm.read w)) (.error .reservedField)
  | 62 => alt w x [(5, 4, 0), (11, 10, 0), (19, 18, 0)] [] (.plog (PlogForm.read w)) (.error .reservedField)
  | 63 => alt w x [(11, 0, 0), (19, 18, 0)] [] (.pmovGet (DForm.read w)) (alt w x [(5, 0, 1), (19, 12, 0)] [] (.pmovSet (AForm.read w)) (.error .reservedField))
  | 64 => alt w x [(11, 5, 0), (19, 18, 0)] [] (.srd (SrdForm.read w)) (.error .reservedField)
  | 65 => alt w x [(19, 0, 0)] [] (.nop (NForm.read w)) (.error .reservedField)
  | 66 => alt w x [(18, 18, 0)] [(19, 0, 0)] (.shfl (ShflForm.read w x)) (.error .reservedField)
  | 67 => alt w x [(5, 0, 0), (19, 18, 0)] [(19, 0, 0)] (.vote (GForm.read w x)) (.error .reservedField)
  | 68 => alt w x [(5, 0, 0), (19, 18, 0)] [(19, 0, 0)] (.redi (GForm.read w x)) (.error .reservedField)
  | 69 => alt w x [(5, 0, 0), (19, 18, 0)] [(19, 0, 0)] (.redf (GForm.read w x)) (.error .reservedField)
  | 70 => alt w x [(5, 0, 0), (19, 18, 0)] [(19, 0, 0)] (.scani (GForm.read w x)) (.error .reservedField)
  | 71 => alt w x [(19, 18, 0)] [] (.qswp (QswpForm.read w)) (.error .reservedField)
  | 72 => alt w x [(5, 2, 0), (19, 18, 0)] [] (.qbcast (QbcForm.read w)) (.error .reservedField)
  | 73 => alt w x [(5, 0, 0), (19, 18, 0)] [] (.qfill (DaForm.read w)) (.error .reservedField)
  | 74 => alt w x [(5, 0, 0), (18, 18, 0)] [] (.ld (MForm.read w x)) (.error .reservedField)
  | 75 => alt w x [(5, 0, 0), (18, 18, 0)] [] (.lds (MForm.read w x)) (.error .reservedField)
  | 76 => alt w x [(5, 0, 0), (18, 18, 0)] [] (.st (MForm.read w x)) (.error .reservedField)
  | 77 => alt w x [(5, 0, 0), (18, 18, 0)] [] (.ldacq (MForm.read w x)) (.error .reservedField)
  | 78 => alt w x [(5, 0, 0), (18, 18, 0)] [] (.strel (MForm.read w x)) (.error .reservedField)
  | 79 => alt w x [(5, 0, 0), (18, 18, 0)] [] (.ldsh (MForm.read w x)) (.error .reservedField)
  | 80 => alt w x [(5, 0, 0), (18, 18, 0)] [] (.ldssh (MForm.read w x)) (.error .reservedField)
  | 81 => alt w x [(5, 0, 0), (18, 18, 0)] [] (.stsh (MForm.read w x)) (.error .reservedField)
  | 82 => alt w x [(5, 0, 0), (18, 18, 0)] [] (.ldg (MForm.read w x)) (.error .reservedField)
  | 83 => alt w x [(5, 0, 0), (18, 18, 0)] [] (.stg (MForm.read w x)) (.error .reservedField)
  | 84 => alt w x [(5, 0, 0), (18, 18, 0)] [(3, 2, 0), (12, 12, 0)] (.atom (MaForm.read w x)) (.error .reservedField)
  | 85 => alt w x [(5, 0, 0), (18, 18, 0)] [(3, 2, 0), (12, 12, 0)] (.red (MaForm.read w x)) (.error .reservedField)
  | 86 => alt w x [(5, 0, 0), (18, 18, 0)] [(3, 2, 0), (12, 12, 0)] (.atsh (MaForm.read w x)) (.error .reservedField)
  | 87 => alt w x [(5, 0, 0), (18, 18, 0)] [(3, 2, 0), (12, 12, 0)] (.redsh (MaForm.read w x)) (.error .reservedField)
  | 88 => alt w x [(5, 0, 0), (18, 18, 0)] [(3, 2, 0), (12, 12, 0)] (.atg (MaForm.read w x)) (.error .reservedField)
  | 89 => alt w x [(5, 0, 0), (18, 18, 0)] [] (.ldbc (MForm.read w x)) (.error .reservedField)
  | 90 => alt w x [(5, 0, 0), (18, 18, 0)] [] (.pref (MForm.read w x)) (.error .reservedField)
  | 91 => alt w x [(5, 0, 0), (18, 18, 0)] [] (.evict (MForm.read w x)) (.error .reservedField)
  | 92 => alt w x [(5, 0, 0), (18, 18, 0)] [] (.ldasy (MForm.read w x)) (.error .reservedField)
  | 93 => alt w x [(18, 18, 0)] [] (.gwaddr (GwForm.read w)) (.error .reservedField)
  | 94 => alt w x [(19, 0, 0)] [(13, 13, 0), (11, 0, 0), (18, 14, 0), (26, 22, 0)] (.mldwTile (MldwTForm.read w x)) (alt w x [(19, 19, 1), (18, 12, 0)] [(13, 13, 1), (11, 0, 0), (26, 14, 0)] (.mldwMem (MldwMForm.read w x)) (.error .reservedField))
  | 95 => alt w x [(19, 0, 0)] [(18, 0, 0), (28, 26, 0)] (.mma (MmaForm.read w x)) (.error .reservedField)
  | 96 => alt w x [(19, 0, 0)] [(31, 0, 0)] (.mflip (NForm.read w)) (.error .reservedField)
  | 97 => alt w x [(11, 0, 0), (19, 18, 0)] [(15, 12, 0), (21, 16, 0), (25, 25, 0), (28, 27, 0)] (.acpyReg (AcpyRForm.read w x)) (alt w x [(19, 0, 0)] [(15, 12, 1), (11, 1, 0), (18, 16, 0), (25, 25, 0), (28, 27, 0)] (.acpyTile (AcpyTForm.read w x)) (alt w x [(19, 19, 1), (18, 12, 0)] [(15, 12, 2), (11, 0, 0), (21, 16, 0), (25, 25, 0), (28, 27, 0)] (.acpyMem (AcpyMForm.read w x)) (alt w x [(11, 0, 0), (19, 18, 0)] [(15, 12, 3), (11, 1, 0), (21, 16, 0), (31, 24, 0)] (.acpyStat (AcpySForm.read w x)) (.error .reservedField))))
  | 98 => alt w x [(19, 0, 0)] [(21, 0, 0), (28, 24, 0)] (.ackd (AckdForm.read w x)) (.error .reservedField)
  | 99 => alt w x [(19, 0, 0)] [(21, 0, 0), (31, 24, 0)] (.azero (AzeroForm.read w x)) (.error .reservedField)
  | 100 => alt w x [(18, 12, 0)] [(18, 0, 0), (31, 22, 0)] (.tld (TldForm.read w x)) (.error .reservedField)
  | 101 => alt w x [(18, 12, 0)] [(18, 0, 0), (31, 22, 0)] (.tst (TldForm.read w x)) (.error .reservedField)
  | 102 => alt w x [(18, 12, 0)] [(18, 0, 0), (31, 22, 0)] (.tldsh (TldForm.read w x)) (.error .reservedField)
  | 103 => alt w x [(18, 12, 0)] [(18, 0, 0), (31, 22, 0)] (.tstsh (TldForm.read w x)) (.error .reservedField)
  | 104 => alt w x [(11, 0, 0), (19, 18, 0)] [(12, 12, 0), (11, 11, 0), (18, 13, 0), (31, 22, 0)] (.tmovGet (TmovForm.read w x)) (alt w x [(11, 0, 0), (19, 18, 0)] [(12, 12, 1), (11, 11, 0), (18, 13, 0), (31, 22, 0)] (.tmovPut (TmovForm.read w x)) (.error .reservedField))
  | 105 => alt w x [(19, 19, 1), (18, 12, 0)] [(31, 1, 0)] (.mbmap (MbmapForm.read w x)) (.error .reservedField)
  | 106 => alt w x [(19, 0, 0)] [(12, 12, 0), (11, 0, 0), (31, 13, 0)] (.mwait (NForm.read w)) (alt w x [(19, 0, 0)] [(12, 12, 1), (11, 0, 0), (31, 13, 0)] (.mwaitRel (NForm.read w)) (.error .reservedField))
  | 107 => alt w x [(11, 0, 0), (19, 18, 0)] [(21, 13, 0), (31, 24, 0)] (.aset (AsetForm.read w x)) (.error .reservedField)
  | 108 => alt w x [(11, 10, 0), (19, 13, 64)] [] (.qbind (QbindForm.read w)) (.error .reservedField)
  | 109 => alt w x [(5, 0, 0), (11, 10, 0), (19, 18, 0)] [] (.qwr (QForm.read w)) (.error .reservedField)
  | 110 => alt w x [(5, 0, 0), (11, 10, 0), (19, 18, 0)] [] (.qrd (QForm.read w)) (.error .reservedField)
  | 111 => alt w x [(5, 0, 0), (11, 10, 0), (19, 18, 0)] [] (.qstat (QForm.read w)) (.error .reservedField)
  | _ => .error .illegalOpcode

/-- The uniform set's opcode map (R57, R58). -/
def parseUniform (op w x : Nat) : Except DecodeError Instr :=
  match op with
  | 0 => alt w x [] [] (.sadd (UrForm.read w)) (.error .reservedField)
  | 1 => alt w x [] [] (.ssub (UrForm.read w)) (.error .reservedField)
  | 2 => alt w x [] [] (.smul (UrForm.read w)) (.error .reservedField)
  | 3 => alt w x [] [] (.smad (UrForm.read w)) (.error .reservedField)
  | 4 => alt w x [] [] (.smin (UrForm.read w)) (.error .reservedField)
  | 5 => alt w x [] [] (.smax (UrForm.read w)) (.error .reservedField)
  | 6 => alt w x [] [] (.sand (UrForm.read w)) (.error .reservedField)
  | 7 => alt w x [] [] (.sor (UrForm.read w)) (.error .reservedField)
  | 8 => alt w x [] [] (.sxor (UrForm.read w)) (.error .reservedField)
  | 9 => alt w x [] [] (.sshl (UrForm.read w)) (.error .reservedField)
  | 10 => alt w x [] [] (.sshr (UrForm.read w)) (.error .reservedField)
  | 11 => alt w x [] [] (.ssra (UrForm.read w)) (.error .reservedField)
  | 12 => alt w x [] [] (.scmp (UpForm.read w)) (.error .reservedField)
  | 13 => alt w x [(11, 0, 0), (19, 19, 0)] [] (.smovl (UlForm.read w x)) (.error .reservedField)
  | 14 => alt w x [(5, 4, 0), (11, 10, 0), (19, 18, 0)] [] (.klog (PlogForm.read w)) (.error .reservedField)
  | 15 => alt w x [] [] (.sbra (BForm.read w)) (.error .reservedField)
  | 16 => alt w x [] [] (.scall (BForm.read w)) (.error .reservedField)
  | 17 => alt w x [(19, 0, 0)] [] (.sret (NForm.read w)) (.error .reservedField)
  | 18 => alt w x [(11, 5, 0), (19, 19, 1)] [] (.ssr (SsrForm.read w)) (.error .reservedField)
  | 19 => alt w x [(11, 6, 0), (19, 18, 2)] [] (.sget (SgetForm.read w)) (.error .reservedField)
  | 20 => alt w x [(5, 0, 0), (19, 18, 0)] [] (.sld (UmForm.read w x)) (.error .reservedField)
  | 21 => alt w x [(5, 0, 0), (19, 18, 0)] [] (.sst (UmForm.read w x)) (.error .reservedField)
  | 22 => alt w x [(5, 0, 0), (19, 18, 0)] [(3, 2, 0), (12, 12, 0)] (.satom (UmaForm.read w x)) (.error .reservedField)
  | 23 => alt w x [(5, 0, 0), (19, 18, 0)] [] (.sldsh (UmForm.read w x)) (.error .reservedField)
  | 24 => alt w x [(5, 0, 0), (19, 18, 0)] [] (.sstsh (UmForm.read w x)) (.error .reservedField)
  | 25 => alt w x [(5, 0, 0), (19, 18, 0)] [(3, 2, 0), (12, 12, 0)] (.satsh (UmaForm.read w x)) (.error .reservedField)
  | 26 => alt w x [(14, 0, 0), (19, 18, 0)] [] (.fenceSc (FenceForm.read w)) (alt w x [(14, 0, 4096), (19, 18, 0)] [] (.fenceRel (FenceForm.read w)) (alt w x [(14, 0, 8192), (19, 18, 0)] [] (.fenceAcq (FenceForm.read w)) (.error .reservedField)))
  | 27 => alt w x [(19, 4, 32768)] [] (.bar (BarForm.read w)) (.error .reservedField)
  | 28 => alt w x [(18, 12, 0)] [] (.barxInit (BarxForm.read w)) (alt w x [(18, 12, 1)] [] (.barxExpect (BarxForm.read w)) (alt w x [(5, 0, 0), (19, 12, 2)] [] (.barxArrive (AForm.read w)) (alt w x [(18, 12, 3)] [] (.barxArrexp (BarxForm.read w)) (alt w x [(5, 0, 0), (19, 12, 4)] [] (.barxInval (AForm.read w)) (.error .reservedField)))))
  | 29 => alt w x [(19, 12, 0)] [] (.barw (AbForm.read w)) (.error .reservedField)
  | 30 => alt w x [(19, 0, 0)] [] (.sstep (NForm.read w)) (.error .reservedField)
  | 31 => alt w x [(17, 12, 0)] [] (.tlwait (TlwForm.read w)) (.error .reservedField)
  | 32 => alt w x [(18, 10, 0)] [] (.gset (GsetForm.read w)) (alt w x [(5, 0, 0), (19, 10, 4)] [] (.gsetClr (GclrForm.read w)) (.error .reservedField))
  | 33 => alt w x [(19, 0, 0)] [] (.sms (NForm.read w)) (.error .reservedField)
  | 34 => alt w x [(19, 0, 0)] [] (.waitpred (NForm.read w)) (.error .reservedField)
  | 35 => alt w x [(5, 0, 0), (19, 19, 0)] [] (.tlread (TlrForm.read w)) (.error .reservedField)
  | 36 => alt w x [] [] (.cpy (UeForm.read w x)) (.error .reservedField)
  | 37 => alt w x [] [] (.gath (UeForm.read w x)) (.error .reservedField)
  | 38 => alt w x [] [] (.scat (UeForm.read w x)) (.error .reservedField)
  | 39 => alt w x [] [] (.coll (UeForm.read w x)) (.error .reservedField)
  | 40 => alt w x [] [] (.vdec (UeForm.read w x)) (.error .reservedField)
  | 41 => alt w x [(5, 0, 0), (19, 12, 0)] [(1, 0, 0), (31, 2, 0)] (.tdeclDecl (AForm.read w)) (alt w x [(5, 0, 0), (19, 12, 0)] [(1, 0, 1), (31, 2, 0)] (.tdeclFrz (AForm.read w)) (alt w x [(5, 0, 0), (19, 12, 0)] [(1, 0, 2), (31, 2, 0)] (.tdeclRet (AForm.read w)) (.error .reservedField)))
  | 42 => alt w x [] [] (.enq (UeForm.read w x)) (.error .reservedField)
  | 43 => alt w x [] [] (.enqw (UeForm.read w x)) (.error .reservedField)
  | 44 => alt w x [(19, 6, 8192)] [] (.trap (TrapForm.read w)) (.error .reservedField)
  | 45 => alt w x [(19, 6, 8192)] [] (.brk (TrapForm.read w)) (.error .reservedField)
  | 46 => alt w x [(30, 30, 1), (19, 6, 8192)] [] (.swpt (SwptForm.read w)) (.error .reservedField)
  | 47 => alt w x [(19, 0, 0)] [] (.yield (NForm.read w)) (.error .reservedField)
  | 48 => alt w x [(19, 0, 0)] [] (.snop (NForm.read w)) (.error .reservedField)
  | 49 => alt w x [(18, 6, 0)] [] (.sleep (SleepForm.read w)) (.error .reservedField)
  | 50 => alt w x [(19, 0, 0)] [] (.mret (NForm.read w)) (alt w x [(5, 0, 0), (19, 12, 1)] [] (.mretGrp (AForm.read w)) (alt w x [(19, 12, 2)] [] (.mretRes (AbForm.read w)) (alt w x [(19, 12, 3)] [] (.mretPc (AbForm.read w)) (.error .reservedField))))
  | 51 => alt w x [(19, 15, 0)] [] (.msend (MsendForm.read w)) (.error .reservedField)
  | 52 => alt w x [(5, 0, 0), (19, 18, 0)] [] (.mrecv (DaForm.read w)) (.error .reservedField)
  | 53 => alt w x [(19, 6, 8192)] [] (.gsave (TrapForm.read w)) (.error .reservedField)
  | 54 => alt w x [(19, 0, 0)] [] (.gload (NForm.read w)) (.error .reservedField)
  | 55 => alt w x [(5, 0, 0), (19, 12, 0)] [] (.haltb (AForm.read w)) (.error .reservedField)
  | 56 => alt w x [(5, 0, 0), (19, 18, 0)] [] (.scan (DaForm.read w)) (.error .reservedField)
  | 57 => alt w x [(19, 12, 0)] [] (.ctbw (AbForm.read w)) (.error .reservedField)
  | 58 => alt w x [(19, 12, 0)] [] (.ctbiPage (AbForm.read w)) (alt w x [(19, 6, 64)] [] (.ctbiAsid (OpBForm.read w)) (alt w x [(19, 0, 8192)] [] (.ctbiAll (NForm.read w)) (.error .reservedField)))
  | 59 => alt w x [(19, 12, 0)] [] (.wcfg (AbForm.read w)) (.error .reservedField)
  | 60 => alt w x [(11, 6, 0), (19, 18, 2)] [] (.mcrr (DnForm.read w)) (.error .reservedField)
  | 61 => alt w x [(19, 12, 128)] [] (.mcrw (AnForm.read w)) (.error .reservedField)
  | 62 => alt w x [(19, 0, 0)] [] (.mpark (NForm.read w)) (.error .reservedField)
  | 63 => alt w x [(5, 0, 0), (19, 12, 0)] [] (.gkill (AForm.read w)) (.error .reservedField)
  | _ => .error .illegalOpcode

/-- The instruction that two words encode, the second one 0 or ignored for a one-word form. -/
def decodeWords (w x : Nat) : Except DecodeError Instr :=
  match (if fld w 31 31 == 0 then parseLane (fld w 29 23) w x else parseUniform (fld w 29 23) w x) with
  | .error e => .error e
  | .ok i => if i.wf then .ok i else .error .reservedField

/-- A little-endian number from bytes. -/
def leNat : List (BitVec 8) → Nat
  | [] => 0
  | b :: bs => b.toNat + 256 * leNat bs

/-- Decoding bytes as memory holds them: the instruction and the rest of the list. `none` when too few bytes are left. -/
def decode (bs : List (BitVec 8)) : Option (Except DecodeError Instr × List (BitVec 8)) :=
  if bs.length < 4 then none
  else
    let w := leNat (bs.take 4)
    if isTwoWord w then
      if bs.length < 8 then none else some (decodeWords w (leNat ((bs.drop 4).take 4)), bs.drop 8)
    else some (decodeWords w 0, bs.drop 4)

/-- The words of an instruction; an event has none. -/
def encode : Instr → Option (Nat × Option Nat)
  | .iadd f => some (0x00000000 + f.bits, none)
  | .isub f => some (0x00800000 + f.bits, none)
  | .iadds f => some (0x01000000 + f.bits, none)
  | .isubs f => some (0x01800000 + f.bits, none)
  | .imul f => some (0x02000000 + f.bits, none)
  | .imulh f => some (0x02800000 + f.bits, none)
  | .imad f => some (0x03000000 + f.bits, none)
  | .imin f => some (0x03800000 + f.bits, none)
  | .imax f => some (0x04000000 + f.bits, none)
  | .andI f => some (0x04800000 + f.bits, none)
  | .orI f => some (0x05000000 + f.bits, none)
  | .xorI f => some (0x05800000 + f.bits, none)
  | .andn f => some (0x06000000 + f.bits, none)
  | .shl f => some (0x06800000 + f.bits, none)
  | .shr f => some (0x07000000 + f.bits, none)
  | .sra f => some (0x07800000 + f.bits, none)
  | .shli f => some (0x08000000 + f.bits, none)
  | .shri f => some (0x08800000 + f.bits, none)
  | .srai f => some (0x09000000 + f.bits, none)
  | .popc f => some (0x09800000 + f.bits, none)
  | .clz f => some (0x0A000000 + f.bits, none)
  | .icmp f => some (0x0A800000 + f.bits, none)
  | .movl f => some (0x0B000000 + f.bits, some (f.ext))
  | .iaddw f => some (0x0B800000 + f.bits, none)
  | .fadd f => some (0x0C000000 + f.bits, none)
  | .fsub f => some (0x0C800000 + f.bits, none)
  | .fmul f => some (0x0D000000 + f.bits, none)
  | .ffma f => some (0x0D800000 + f.bits, none)
  | .fmin f => some (0x0E000000 + f.bits, none)
  | .fmax f => some (0x0E800000 + f.bits, none)
  | .fabs f => some (0x0F000000 + f.bits, none)
  | .fneg f => some (0x0F800000 + f.bits, none)
  | .fcmp f => some (0x10000000 + f.bits, none)
  | .frcp f => some (0x10800000 + f.bits, none)
  | .frsq f => some (0x11000000 + f.bits, none)
  | .fsqrt f => some (0x11800000 + f.bits, none)
  | .fexp2 f => some (0x12000000 + f.bits, none)
  | .flog2 f => some (0x12800000 + f.bits, none)
  | .fsin f => some (0x13000000 + f.bits, none)
  | .fcos f => some (0x13800000 + f.bits, none)
  | .hadd f => some (0x14000000 + f.bits, none)
  | .hmul f => some (0x14800000 + f.bits, none)
  | .hfma f => some (0x15000000 + f.bits, none)
  | .badd f => some (0x15800000 + f.bits, none)
  | .bmul f => some (0x16000000 + f.bits, none)
  | .bfma f => some (0x16800000 + f.bits, none)
  | .icvf f => some (0x17000000 + f.bits, none)
  | .fcvi f => some (0x17800000 + f.bits, none)
  | .fcvh f => some (0x18000000 + f.bits, none)
  | .hcvf f => some (0x18800000 + f.bits, none)
  | .icvn f => some (0x19000000 + f.bits, none)
  | .bpk f => some (0x19800000 + f.bits, none)
  | .bunpk f => some (0x1A000000 + f.bits, none)
  | .bpsel f => some (0x1A800000 + f.bits, none)
  | .bra f => some (0x1B000000 + f.bits, none)
  | .call f => some (0x1B800000 + f.bits, none)
  | .ret f => some (0x1C000000 + f.bits, none)
  | .jmprVector f => some (0x1C800000 + f.bits, none)
  | .jmprUniform f => some (0x1C880000 + f.bits, none)
  | .callrVector f => some (0x1D000000 + f.bits, none)
  | .callrUniform f => some (0x1D080000 + f.bits, none)
  | .join f => some (0x1D800000 + f.bits, none)
  | .waitI f => some (0x1E000000 + f.bits, none)
  | .exitI f => some (0x1E800000 + f.bits, none)
  | .plog f => some (0x1F000000 + f.bits, none)
  | .pmovGet f => some (0x1F800000 + f.bits, none)
  | .pmovSet f => some (0x1F800001 + f.bits, none)
  | .srd f => some (0x20000000 + f.bits, none)
  | .nop f => some (0x20800000 + f.bits, none)
  | .shfl f => some (0x21000000 + f.bits, some (f.ext))
  | .vote f => some (0x21800000 + f.bits, some (f.ext))
  | .redi f => some (0x22000000 + f.bits, some (f.ext))
  | .redf f => some (0x22800000 + f.bits, some (f.ext))
  | .scani f => some (0x23000000 + f.bits, some (f.ext))
  | .qswp f => some (0x23800000 + f.bits, none)
  | .qbcast f => some (0x24000000 + f.bits, none)
  | .qfill f => some (0x24800000 + f.bits, none)
  | .ld f => some (0x25000000 + f.bits, some (f.ext))
  | .lds f => some (0x25800000 + f.bits, some (f.ext))
  | .st f => some (0x26000000 + f.bits, some (f.ext))
  | .ldacq f => some (0x26800000 + f.bits, some (f.ext))
  | .strel f => some (0x27000000 + f.bits, some (f.ext))
  | .ldsh f => some (0x27800000 + f.bits, some (f.ext))
  | .ldssh f => some (0x28000000 + f.bits, some (f.ext))
  | .stsh f => some (0x28800000 + f.bits, some (f.ext))
  | .ldg f => some (0x29000000 + f.bits, some (f.ext))
  | .stg f => some (0x29800000 + f.bits, some (f.ext))
  | .atom f => some (0x2A000000 + f.bits, some (f.ext))
  | .red f => some (0x2A800000 + f.bits, some (f.ext))
  | .atsh f => some (0x2B000000 + f.bits, some (f.ext))
  | .redsh f => some (0x2B800000 + f.bits, some (f.ext))
  | .atg f => some (0x2C000000 + f.bits, some (f.ext))
  | .ldbc f => some (0x2C800000 + f.bits, some (f.ext))
  | .pref f => some (0x2D000000 + f.bits, some (f.ext))
  | .evict f => some (0x2D800000 + f.bits, some (f.ext))
  | .ldasy f => some (0x2E000000 + f.bits, some (f.ext))
  | .gwaddr f => some (0x2E800000 + f.bits, none)
  | .mldwTile f => some (0x2F000000 + f.bits, some (f.ext))
  | .mldwMem f => some (0x2F080000 + f.bits, some (0x2000 + f.ext))
  | .mma f => some (0x2F800000 + f.bits, some (f.ext))
  | .mflip f => some (0x30000000 + f.bits, some (0))
  | .acpyReg f => some (0x30800000 + f.bits, some (f.ext))
  | .acpyTile f => some (0x30800000 + f.bits, some (0x1000 + f.ext))
  | .acpyMem f => some (0x30880000 + f.bits, some (0x2000 + f.ext))
  | .acpyStat f => some (0x30800000 + f.bits, some (0x3000 + f.ext))
  | .ackd f => some (0x31000000 + f.bits, some (f.ext))
  | .azero f => some (0x31800000 + f.bits, some (f.ext))
  | .tld f => some (0x32000000 + f.bits, some (f.ext))
  | .tst f => some (0x32800000 + f.bits, some (f.ext))
  | .tldsh f => some (0x33000000 + f.bits, some (f.ext))
  | .tstsh f => some (0x33800000 + f.bits, some (f.ext))
  | .tmovGet f => some (0x34000000 + f.bits, some (f.ext))
  | .tmovPut f => some (0x34000000 + f.bits, some (0x1000 + f.ext))
  | .mbmap f => some (0x34880000 + f.bits, some (f.ext))
  | .mwait f => some (0x35000000 + f.bits, some (0))
  | .mwaitRel f => some (0x35000000 + f.bits, some (0x1000))
  | .aset f => some (0x35800000 + f.bits, some (f.ext))
  | .qbind f => some (0x36080000 + f.bits, none)
  | .qwr f => some (0x36800000 + f.bits, none)
  | .qrd f => some (0x37000000 + f.bits, none)
  | .qstat f => some (0x37800000 + f.bits, none)
  | .sadd f => some (0x80000000 + f.bits, none)
  | .ssub f => some (0x80800000 + f.bits, none)
  | .smul f => some (0x81000000 + f.bits, none)
  | .smad f => some (0x81800000 + f.bits, none)
  | .smin f => some (0x82000000 + f.bits, none)
  | .smax f => some (0x82800000 + f.bits, none)
  | .sand f => some (0x83000000 + f.bits, none)
  | .sor f => some (0x83800000 + f.bits, none)
  | .sxor f => some (0x84000000 + f.bits, none)
  | .sshl f => some (0x84800000 + f.bits, none)
  | .sshr f => some (0x85000000 + f.bits, none)
  | .ssra f => some (0x85800000 + f.bits, none)
  | .scmp f => some (0x86000000 + f.bits, none)
  | .smovl f => some (0x86800000 + f.bits, some (f.ext))
  | .klog f => some (0x87000000 + f.bits, none)
  | .sbra f => some (0x87800000 + f.bits, none)
  | .scall f => some (0x88000000 + f.bits, none)
  | .sret f => some (0x88800000 + f.bits, none)
  | .ssr f => some (0x89080000 + f.bits, none)
  | .sget f => some (0x89880000 + f.bits, none)
  | .sld f => some (0x8A000000 + f.bits, some (f.ext))
  | .sst f => some (0x8A800000 + f.bits, some (f.ext))
  | .satom f => some (0x8B000000 + f.bits, some (f.ext))
  | .sldsh f => some (0x8B800000 + f.bits, some (f.ext))
  | .sstsh f => some (0x8C000000 + f.bits, some (f.ext))
  | .satsh f => some (0x8C800000 + f.bits, some (f.ext))
  | .fenceSc f => some (0x8D000000 + f.bits, none)
  | .fenceRel f => some (0x8D001000 + f.bits, none)
  | .fenceAcq f => some (0x8D002000 + f.bits, none)
  | .bar f => some (0x8D880000 + f.bits, none)
  | .barxInit f => some (0x8E000000 + f.bits, none)
  | .barxExpect f => some (0x8E001000 + f.bits, none)
  | .barxArrive f => some (0x8E002000 + f.bits, none)
  | .barxArrexp f => some (0x8E003000 + f.bits, none)
  | .barxInval f => some (0x8E004000 + f.bits, none)
  | .barw f => some (0x8E800000 + f.bits, none)
  | .sstep f => some (0x8F000000 + f.bits, none)
  | .tlwait f => some (0x8F800000 + f.bits, none)
  | .gset f => some (0x90000000 + f.bits, none)
  | .gsetClr f => some (0x90001000 + f.bits, none)
  | .sms f => some (0x90800000 + f.bits, none)
  | .waitpred f => some (0x91000000 + f.bits, none)
  | .tlread f => some (0x91800000 + f.bits, none)
  | .cpy f => some (0x92000000 + f.bits, some (f.ext))
  | .gath f => some (0x92800000 + f.bits, some (f.ext))
  | .scat f => some (0x93000000 + f.bits, some (f.ext))
  | .coll f => some (0x93800000 + f.bits, some (f.ext))
  | .vdec f => some (0x94000000 + f.bits, some (f.ext))
  | .tdeclDecl f => some (0x94800000 + f.bits, some (0))
  | .tdeclFrz f => some (0x94800000 + f.bits, some (0x1))
  | .tdeclRet f => some (0x94800000 + f.bits, some (0x2))
  | .enq f => some (0x95000000 + f.bits, some (f.ext))
  | .enqw f => some (0x95800000 + f.bits, some (f.ext))
  | .trap f => some (0x96080000 + f.bits, none)
  | .brk f => some (0x96880000 + f.bits, none)
  | .swpt f => some (0xD7080000 + f.bits, none)
  | .yield f => some (0x97800000 + f.bits, none)
  | .snop f => some (0x98000000 + f.bits, none)
  | .sleep f => some (0x98800000 + f.bits, none)
  | .mret f => some (0x99000000 + f.bits, none)
  | .mretGrp f => some (0x99001000 + f.bits, none)
  | .mretRes f => some (0x99002000 + f.bits, none)
  | .mretPc f => some (0x99003000 + f.bits, none)
  | .msend f => some (0x99800000 + f.bits, none)
  | .mrecv f => some (0x9A000000 + f.bits, none)
  | .gsave f => some (0x9A880000 + f.bits, none)
  | .gload f => some (0x9B000000 + f.bits, none)
  | .haltb f => some (0x9B800000 + f.bits, none)
  | .scan f => some (0x9C000000 + f.bits, none)
  | .ctbw f => some (0x9C800000 + f.bits, none)
  | .ctbiPage f => some (0x9D000000 + f.bits, none)
  | .ctbiAsid f => some (0x9D001000 + f.bits, none)
  | .ctbiAll f => some (0x9D002000 + f.bits, none)
  | .wcfg f => some (0x9D800000 + f.bits, none)
  | .mcrr f => some (0x9E080000 + f.bits, none)
  | .mcrw f => some (0x9E880000 + f.bits, none)
  | .mpark f => some (0x9F000000 + f.bits, none)
  | .gkill f => some (0x9F800000 + f.bits, none)
  | .powerOn => none
  | .illegalOpcode .. => none
  | .fetchFault .. => none
  | .loadResultReturn .. => none
  | .accessFaultReturn .. => none
  | .ctbRefill .. => none
  | .portWalkComplete .. => none
  | .heldFaultAdmit .. => none
  | .sideLogReplay .. => none
  | .parkedLoadReplay .. => none
  | .swapPairLine .. => none
  | .swapPairComplete .. => none
  | .cacheEviction .. => none
  | .leaseRenewal .. => none
  | .forcedPublish .. => none
  | .memoryScrub .. => none
  | .groupWake .. => none
  | .starvationSwap .. => none
  | .sleepExpiry .. => none
  | .mastTimerExpiry .. => none
  | .eventDelivery .. => none
  | .engineCommandComplete .. => none
  | .engineFault .. => none
  | .enginePieceLanding .. => none
  | .ldasyPieceLanding .. => none
  | .videoSampleDecoded .. => none
  | .tileRowLanding .. => none
  | .matrixInstructionComplete .. => none
  | .variantSwitchRequest .. => none
  | .variantReplacement .. => none
  | .switchRequestTimeout .. => none
  | .sliceBoundary .. => none
  | .blockRestore .. => none
  | .preemption .. => none
  | .blockSaveComplete .. => none
  | .groupHaltComplete .. => none
  | .gangPlacement .. => none
  | .blockRetirement .. => none
  | .ringConsume .. => none
  | .launchStart .. => none
  | .startReady .. => none
  | .startMsg .. => none
  | .abortMsg .. => none
  | .startBarrierTimeout .. => none
  | .doneMsg .. => none
  | .shadowCommit .. => none
  | .launchCompletion .. => none
  | .imageLoad .. => none
  | .errorKillTimeout .. => none
  | .replayRestart .. => none
  | .fbbaseWrite .. => none
  | .fbtailWrite .. => none
  | .resolveSuccess .. => none
  | .resolveFail .. => none
  | .victq .. => none
  | .eccpop .. => none
  | .bpladd .. => none
  | .asidbaseWrite .. => none
  | .invcmdDropPage .. => none
  | .invcmdDropAsid .. => none
  | .invcmdDropAll .. => none
  | .invcmdWritebackRange .. => none
  | .invcmdComplete .. => none
  | .msixTargetWrite .. => none
  | .apertureAccess .. => none
  | .inboundMemoryRequest .. => none
  | .transmitDescriptor .. => none
  | .frameReceive .. => none
  | .createWorld .. => none
  | .worldAttest .. => none
  | .worldSession .. => none
  | .mkey .. => none
  | .sealinst .. => none
  | .heartbeat .. => none
  | .destroyWorld .. => none
  | .dbgunlock .. => none
  | .dbglock .. => none
  | .dread .. => none
  | .heartbeatExpiry .. => none
  | .functionLevelReset .. => none
  | .injectAccumulator .. => none
  | .poisonMemoryLine .. => none
  | .poisonScratchGranule .. => none
  | .mapreqRetire .. => none
  | .shadowPoolWrite .. => none
  | .scanAbort .. => none
  | .scanComplete .. => none
  | .flitReceive .. => none
  | .retryRequest .. => none
  | .linkTrainingLoss .. => none
  | .pauseOn .. => none
  | .pauseOff .. => none
  | .tailWrite .. => none
  | .rreset .. => none
  | .rbaseWrite .. => none
  | .winbaseWrite .. => none
  | .fasidWrite .. => none
  | .bar4Access .. => none
  | .callMessage .. => none
  | .replyMsg .. => none
  | .faultfwd .. => none
  | .readyMsg .. => none
  | .bootDone .. => none
  | .readyTimeout .. => none
  | .fread .. => none
  | .fwrite .. => none
  | .fsize .. => none
  | .sopen .. => none
  | .ssend .. => none
  | .srecv .. => none
  | .sclose .. => none
  | .modrst .. => none
  | .powerWindow .. => none
  | .plimitWrite .. => none
  | .ttripWrite .. => none
  | .thermalTrip .. => none
  | .overcurrent .. => none
  | .registerWrite .. => none
  | .launchPacket .. => none
  | .refusal .. => none
  | .linkUp .. => none
  | .ethernetLinkChange .. => none
  | .rootPortLinkChange .. => none
  | .priorityFlowControl .. => none
  | .powerLoss => none
  | .mainmastStateError => none

/-- The bytes of a number of n bytes, least significant first. -/
def leBytes : Nat → Nat → List (BitVec 8)
  | 0, _ => []
  | n + 1, w => BitVec.ofNat 8 w :: leBytes n (w / 256)

/-- The instruction that the decoder reads from an instruction whose bits are w, numbered as the opcode table numbers them: the first
word's bit 0 is bit 0, the second word's bits count on from 32, and bits above nbits are 0. -/
def decodeTableWord (nbits w : Nat) : Option Instr :=
  match decode (leBytes 8 (w % 2 ^ nbits)) with
  | some (.ok i, _) => some i
  | _ => none

end Sys2Proof
end

