-- ==== Sys2Proof/Word.lean ====
section
/-!
DEFINITION. The word types of the NH9640 and the carrier of its sparse storage: a list of (key, value) pairs.
-/
namespace Sys2Proof

/-- A byte of memory. -/
abbrev Byte := BitVec 8
/-- A 32-bit register (R8). -/
abbrev Word := BitVec 32
/-- A 64-bit value: a register pair (R10), a PC (R13), a device register. -/
abbrev DWord := BitVec 64
/-- Sparse storage: keys rise strictly; what an unlisted key reads as belongs to each use. -/
abbrev SMap (α : Type) := List (Nat × α)

end Sys2Proof
end

