-- ==== Sys2Proof/Config.lean ====
section
/-!
DEFINITION. What the spec leaves open: free values (opaque constants without a body: nothing can be proved of their values, so a
claim holds whatever they are), what a device is made with, and the functions whose accuracy alone the spec states (R109). Each is named in the assumption log.
-/
namespace Sys2Proof.Config

/-- A free 64-bit value, fresh for each value of the state's counter `free` (log entry 3). -/
opaque freeValue : Nat → BitVec 64
/-- R109 `frsq`: 1/√x of a positive finite operand; used where it lies within 1 ulp (log entry 4). -/
opaque rsqrtBits : BitVec 32 → BitVec 32
/-- R109 `fexp2` of a finite operand that is no integer from -149 to 127; used where it lies within 2 ulp (log entry 4). -/
opaque exp2Bits : BitVec 32 → BitVec 32
/-- R109 `flog2` of a positive finite operand other than 1; used where it lies within the bound (log entry 4). -/
opaque log2Bits : BitVec 32 → BitVec 32
/-- R109 `fsin` of a finite non-zero operand; used where it lies within 2^-22 (log entry 4). -/
opaque sinBits : BitVec 32 → BitVec 32
/-- R109 `fcos` of a finite operand; used where it lies within 2^-22 (log entry 4). -/
opaque cosBits : BitVec 32 → BitVec 32
/-- The fused secret's seed of the device identity key (R371, log entry 5). -/
opaque identitySeed : List (BitVec 8)
/-- The public key of the debug authority (R373, log entry 5). -/
opaque debugAuthority : List (BitVec 8)
/-- The value that key generation draws at CREATE number n (R369), and the nonces of R367. -/
opaque freshKey : Nat → Nat
/-- What a video stream decodes to (R417-R420; outside standards give it, log entry 7): byte i of plane data of sample k. -/
opaque videoByte : List (BitVec 8) → Nat → Nat → BitVec 8
/-- Where the yard core's pool for blocks' areas and failure lists begins in an address space (R15, R29, R395; log entry 49). -/
opaque areaPool : Nat → BitVec 64
/-- Whether byte i of sample k is missing because the data ran out or a syntax error stood inside the sample (R420). -/
opaque videoMissing : List (BitVec 8) → Nat → Nat → Bool
/-- How decoding a stream goes on after k samples: 0 a sample, 1 the last sample, 2 the last and incomplete, 3 no sample (log entry 7). -/
opaque videoStep : Nat → List (BitVec 8) → Nat → Nat
/-- Width × 2^16 + height of sample k (log entry 7). -/
opaque videoDim : List (BitVec 8) → Nat → Nat
/-- The output form of a stream by codec: 0 4:2:0 8 bit, 1 4:2:0 10 bit, 2 grey, 3 grey 10 bit, 4 three planes, 5 and 6 AV1 monochrome
of 8 and 10 bit (log entry 7). -/
opaque videoForm : Nat → List (BitVec 8) → Nat
/-- The chroma width and height of three planes (4:2:2 or 4:4:4): whether the width is halved (log entry 7). -/
opaque videoHalf : List (BitVec 8) → Bool
/-- The decode engine that the yard core assigns to a video context (R417): launch index, context. -/
opaque videoEngine : Nat → Nat → Nat
/-- SAMPLE of the k-th sample in decode order (R420, log entry 7). -/
opaque videoOrder : List (BitVec 8) → Nat → Nat
/-- What another device of the domain answers to a read (R247, R306): free value counter, address. -/
opaque remoteByte : Nat → Nat → BitVec 8
/-- Whether another party has stored to a byte of another device's memory since this device last read or stored it (log entry 7): free
value counter, address. -/
opaque remoteStored : Nat → Nat → Bool
/-- What another participant contributes to a collective (R222): command, rank and byte offset. -/
opaque peerByte : Nat → Nat → Nat → BitVec 8

/-- Where the mainmast puts the private region of shard c within its part of the fast tier, and its length, in pages (R320, R350; log entry 77). -/
opaque heapPage : Nat → Nat
opaque heapPages : Nat → Nat

/-- The configured share of a function (R287): 0 places nothing (log entry 9). -/
opaque share : Nat → Nat
/-- Whether the mainmast grants a logical cluster to a function (R266, R287, R356; log entry 9). -/
opaque granted : Nat → Nat → Bool

end Sys2Proof.Config
end

