-- ==== Sys2Proof/Machine/Map.lean ====
section
/-!
DEFINITION. The named operations over sparse storage (`SMap`): a list of (key, value) pairs with strictly rising keys. A store of
plain values has a default that an unlisted key reads as, and lists no entry equal to it; a store of objects lists those that exist.
Memory is such a store of bytes whose default is 0 (log entry 6).
-/
namespace Sys2Proof.Machine

variable {α : Type}

/-- The object under key k, if one is listed. -/
def find (m : SMap α) (k : Nat) : Option α :=
  match m with
  | [] => none
  | (j, x) :: r => if j = k then some x else find r k

/-- The value under key k, `d` where none is listed. -/
def getD (m : SMap α) (k : Nat) (d : α) : α :=
  match m with
  | [] => d
  | (j, x) :: r => if j = k then x else getD r k d

/-- Lists object x under key k, in place of any other. -/
def put (m : SMap α) (k : Nat) (x : α) : SMap α :=
  match m with
  | [] => [(k, x)]
  | (j, y) :: r => if k < j then (k, x) :: (j, y) :: r else if k = j then (k, x) :: r else (j, y) :: put r k x

/-- Drops key k, wherever it is listed. -/
def del (m : SMap α) (k : Nat) : SMap α :=
  match m with
  | [] => []
  | (j, y) :: r => if j = k then del r k else (j, y) :: del r k

/-- Writes value x under key k of a store whose default is d: the default itself is not listed. -/
def setD [DecidableEq α] (m : SMap α) (k : Nat) (x d : α) : SMap α :=
  if x = d then del m k else put m k x

/-- Changes the object under key k, where one is listed. -/
def upd (m : SMap α) (k : Nat) (f : α → α) : SMap α :=
  match m with
  | [] => []
  | (j, y) :: r => if j = k then (j, f y) :: r else (j, y) :: upd r k f

/-- Drops every key that satisfies p. -/
def delIf (m : SMap α) (p : Nat → Bool) : SMap α := m.filter fun e => !p e.1

/-- Puts x before the first element that `le` does not place before it. -/
def insertBy (le : α → α → Bool) (x : α) : List α → List α
  | [] => [x]
  | y :: r => if le x y then x :: y :: r else y :: insertBy le x r

/-- A list in the order of `le`; elements that `le` does not tell apart keep their order. -/
def sortBy (le : α → α → Bool) : List α → List α
  | [] => []
  | x :: r => insertBy le x (sortBy le r)

/-- The keys rise strictly. -/
def sorted : SMap α → Bool
  | [] => true
  | [_] => true
  | (i, _) :: (j, y) :: r => decide (i < j) && sorted ((j, y) :: r)

/-- Memory's canonical form: rising addresses, no listed byte equal to what an unlisted address reads as. -/
def Memory.wf (m : List Host.Cell) : Bool := sorted m && m.all fun e => e.2 != 0#8

/-- The byte of memory at physical address a (log entry 6: an unlisted byte reads 0). -/
def Memory.read (m : List Host.Cell) (a : Nat) : Byte := getD m a 0#8

/-- Stores a byte at physical address a. -/
def Memory.write (m : List Host.Cell) (a : Nat) (b : Byte) : List Host.Cell := setD m a b 0#8

/-- n bytes of memory from address a, as a little-endian number (R79). -/
def Memory.readLe (m : List Host.Cell) (a : Nat) : Nat → Nat
  | 0 => 0
  | n + 1 => (Memory.read m a).toNat + 256 * Memory.readLe m (a + 1) n

/-- Stores the n low bytes of x from address a, little-endian (R79). -/
def Memory.writeLe (m : List Host.Cell) (a : Nat) (n : Nat) (x : Nat) : List Host.Cell :=
  match n with
  | 0 => m
  | n + 1 => Memory.writeLe (Memory.write m a (BitVec.ofNat 8 x)) (a + 1) n (x / 256)

/-- Bits [hi:lo] of a number. -/
def bits (x hi lo : Nat) : Nat := x / 2 ^ lo % 2 ^ (hi + 1 - lo)

/-- Bit i of a number. -/
def bit (x i : Nat) : Bool := x / 2 ^ i % 2 == 1

/-- Sign extension: the low n bits of x as a two's-complement integer (R99). -/
def sextInt (n x : Nat) : Int := if x % 2 ^ n < 2 ^ (n - 1) then (x % 2 ^ n : Nat) else (x % 2 ^ n : Nat) - 2 ^ n

/-- An integer modulo 2^n. -/
def wrapNat (n : Nat) (z : Int) : Nat := (z % (2 ^ n : Nat)).toNat

/-- clampS(n, z) (R99). -/
def clampS (n : Nat) (z : Int) : Int := min (max z (-(2 ^ (n - 1) : Nat))) ((2 ^ (n - 1) : Nat) - 1)

/-- The n-th byte, from the least significant, of a number. -/
def byteAt (x n : Nat) : Byte := BitVec.ofNat 8 (x / 256 ^ n)

/-- The n low bytes of x, least significant first. -/
def toBytes (n x : Nat) : List Byte :=
  match n with
  | 0 => []
  | n + 1 => BitVec.ofNat 8 x :: toBytes n (x / 256)

/-- The number that bytes, least significant first, form. -/
def ofBytes : List Byte → Nat
  | [] => 0
  | b :: r => b.toNat + 256 * ofBytes r

/-- The lane numbers of a mask, ascending. -/
def lanesOf (m : Word) : List Nat := (List.range 32).filter fun l => m.getLsbD l

/-- The mask with only lane l. -/
def laneBit (l : Nat) : Word := BitVec.ofNat 32 (2 ^ l)

/-- The mask of the lanes that satisfy p. -/
def maskOf (p : Nat → Bool) : Word := (List.range 32).foldl (fun m l => if p l then m ||| laneBit l else m) 0#32

end Sys2Proof.Machine
end

