-- ==== Sys2Proof/Machine/Float.lean ====
section
/-!
DEFINITION. Floating-point values and arithmetic (R75-R78, R84, R85, R91, R92, R107-R110): a value is a NaN, an infinity or an exact
dyadic number; every operation computes exactly and rounds once.
-/
namespace Sys2Proof.Machine

/-- A floating format: exponent and fraction widths (R75). -/
structure FFmt where
  ebits : Nat
  fbits : Nat
  deriving DecidableEq, Repr

/-- FP32 (R75). -/
def fp32 : FFmt := ⟨8, 23⟩
/-- FP16 (R75). -/
def fp16 : FFmt := ⟨5, 10⟩
/-- BF16 (R75). -/
def bf16 : FFmt := ⟨8, 7⟩

/-- The exponent bias. -/
def FFmt.bias (f : FFmt) : Nat := 2 ^ (f.ebits - 1) - 1
/-- The all-ones exponent. -/
def FFmt.emax (f : FFmt) : Nat := 2 ^ f.ebits - 1
/-- An infinity's bits. -/
def FFmt.infBits (f : FFmt) (neg : Bool) : Nat := f.emax * 2 ^ f.fbits + (if neg then 2 ^ (f.ebits + f.fbits) else 0)
/-- The canonical NaN (R75, R78). -/
def FFmt.nanBits (f : FFmt) : Nat := f.emax * 2 ^ f.fbits + 2 ^ (f.fbits - 1)
/-- The largest finite value's bits. -/
def FFmt.maxBits (f : FFmt) (neg : Bool) : Nat := f.infBits neg - 1
/-- The smallest exponent of a unit in the last place. -/
def FFmt.emin (f : FFmt) : Int := 1 - (f.bias : Int) - (f.fbits : Int)

/-- A floating value: `fin neg m e` is ±m × 2^e exactly. -/
inductive FVal where
  | nan
  | inf (neg : Bool)
  | fin (neg : Bool) (m : Nat) (e : Int)
  deriving DecidableEq, Repr

/-- The four rounding modes (R84). -/
inductive RMode where
  | rne
  | rz
  | rd
  | ru
  deriving DecidableEq, Repr

/-- RMODE slot field (R84, R86). -/
def RMode.ofSlot (n : Nat) : RMode := match n with | 0 => .rne | 1 => .rz | 2 => .rd | _ => .ru

/-- The value that bits x encode, subnormals at full value (R75, R76). -/
def FFmt.val (f : FFmt) (x : Nat) : FVal :=
  let frac := x % 2 ^ f.fbits
  let ex := x / 2 ^ f.fbits % 2 ^ f.ebits
  let neg := bit x (f.ebits + f.fbits)
  if ex = f.emax then (if frac = 0 then .inf neg else .nan)
  else if ex = 0 then .fin neg frac f.emin
  else .fin neg (2 ^ f.fbits + frac) (f.emin + (ex : Int) - 1)

/-- Whether the magnitude is rounded up: remainder r of 2^sh, kept part q, sticky already in r. -/
def roundUp (mode : RMode) (neg : Bool) (q r half : Nat) : Bool :=
  match mode with
  | .rne => decide (r > half) || (decide (r = half) && decide (q % 2 = 1))
  | .rz => false
  | .rd => neg && decide (r ≠ 0)
  | .ru => !neg && decide (r ≠ 0)

/-- The overflow result (R84). -/
def FFmt.overflow (f : FFmt) (mode : RMode) (neg : Bool) : Nat :=
  match mode, neg with
  | .rne, n => f.infBits n
  | .rz, n => f.maxBits n
  | .rd, true => f.infBits true
  | .rd, false => f.maxBits false
  | .ru, true => f.maxBits true
  | .ru, false => f.infBits false

/-- round_to(f, ±m × 2^e, mode) (R84): one rounding, subnormal results kept (R76); m = 0 gives a zero of the sign. -/
def FFmt.round (f : FFmt) (mode : RMode) (neg : Bool) (m : Nat) (e : Int) : Nat :=
  let sg := if neg then 2 ^ (f.ebits + f.fbits) else 0
  if m = 0 then sg
  else
    let top : Int := (Nat.log2 m : Int) + e
    let lsb : Int := max (top - (f.fbits : Int)) f.emin
    let q0 : Nat := if lsb ≤ e then m * 2 ^ (e - lsb).toNat else m / 2 ^ (lsb - e).toNat
    let r : Nat := if lsb ≤ e then 0 else m % 2 ^ (lsb - e).toNat
    let half : Nat := if lsb ≤ e then 1 else 2 ^ ((lsb - e).toNat - 1)
    let q := if lsb < e then q0 else if lsb = e then q0 else if roundUp mode neg q0 r half then q0 + 1 else q0
    -- q < 2^(fbits+1) or q = 2^(fbits+1); the encoding is linear in q
    let enc := (lsb - f.emin).toNat * 2 ^ f.fbits + q
    if enc ≥ f.infBits false then f.overflow mode neg else sg + enc

/-- The bits of a value in a format, rounded (R84, R85). -/
def FFmt.bitsOf (f : FFmt) (mode : RMode) (v : FVal) : Nat :=
  match v with
  | .nan => f.nanBits
  | .inf n => f.infBits n
  | .fin n m e => f.round mode n m e

/-- A signed integer coefficient of a value. -/
def sInt (neg : Bool) (m : Nat) : Int := if neg then -(m : Int) else m

/-- The exact sum of two values; `mode` settles the sign of an exact zero sum (R84, R107). -/
def FVal.add (mode : RMode) (x y : FVal) : FVal :=
  match x, y with
  | .nan, _ => .nan
  | _, .nan => .nan
  | .inf a, .inf b => if a = b then .inf a else .nan
  | .inf a, .fin .. => .inf a
  | .fin .., .inf b => .inf b
  | .fin n1 m1 e1, .fin n2 m2 e2 =>
    if m1 = 0 ∧ m2 = 0 then .fin (if n1 = n2 then n1 else mode == .rd) 0 e1
    else
      let e := min e1 e2
      let z : Int := sInt n1 m1 * (2 ^ (e1 - e).toNat : Nat) + sInt n2 m2 * (2 ^ (e2 - e).toNat : Nat)
      if z = 0 then .fin (mode == .rd) 0 e else .fin (decide (z < 0)) z.natAbs e

/-- The exact product of two values (R107). -/
def FVal.mul (x y : FVal) : FVal :=
  match x, y with
  | .nan, _ => .nan
  | _, .nan => .nan
  | .inf a, .inf b => .inf (a != b)
  | .inf a, .fin n m _ => if m = 0 then .nan else .inf (a != n)
  | .fin n m _, .inf a => if m = 0 then .nan else .inf (a != n)
  | .fin n1 m1 e1, .fin n2 m2 e2 => .fin (n1 != n2) (m1 * m2) (e1 + e2)

/-- The value with its sign inverted. -/
def FVal.neg (x : FVal) : FVal :=
  match x with
  | .nan => .nan
  | .inf n => .inf (!n)
  | .fin n m e => .fin (!n) m e

/-- x + y in a format, RNE (R107). -/
def FFmt.add (f : FFmt) (x y : Nat) : Nat := f.bitsOf .rne ((f.val x).add .rne (f.val y))
/-- x - y in a format, RNE (R107). -/
def FFmt.sub (f : FFmt) (x y : Nat) : Nat := f.bitsOf .rne ((f.val x).add .rne (f.val y).neg)
/-- x × y in a format, RNE (R107). -/
def FFmt.mul (f : FFmt) (x y : Nat) : Nat := f.bitsOf .rne ((f.val x).mul (f.val y))
/-- x × y + z in a format with one rounding, RNE (R107). -/
def FFmt.fma (f : FFmt) (x y z : Nat) : Nat := f.bitsOf .rne (((f.val x).mul (f.val y)).add .rne (f.val z))

/-- Exact comparison of two values that are no NaN: -1, 0 or 1; zeros are equal. -/
def FVal.cmp (x y : FVal) : Int :=
  match x, y with
  | .inf a, .inf b => if a = b then 0 else if a then -1 else 1
  | .inf a, _ => if a then -1 else 1
  | _, .inf b => if b then 1 else -1
  | .fin n1 m1 e1, .fin n2 m2 e2 =>
    let e := min e1 e2
    let z : Int := sInt n1 m1 * (2 ^ (e1 - e).toNat : Nat) - sInt n2 m2 * (2 ^ (e2 - e).toNat : Nat)
    if z < 0 then -1 else if z = 0 then 0 else 1
  | _, _ => 0

/-- Whether FP32 bits are a NaN. -/
def isNan32 (x : Nat) : Bool := fp32.val x == .nan

/-- The order of R108 on FP32 bits that are no NaN: -0.0 below +0.0. -/
def fless32 (x y : Nat) : Bool :=
  match (fp32.val x).cmp (fp32.val y) with
  | -1 => true
  | 0 => bit x 31 && !bit y 31
  | _ => false

/-- `fmin` (R108). -/
def fmin32 (x y : Nat) : Nat :=
  if isNan32 x && isNan32 y then fp32.nanBits else if isNan32 x then y else if isNan32 y then x
  else if fless32 y x then y else x

/-- `fmax` (R108). -/
def fmax32 (x y : Nat) : Nat :=
  if isNan32 x && isNan32 y then fp32.nanBits else if isNan32 x then y else if isNan32 y then x
  else if fless32 x y then y else x

/-- `fabs` (R107). -/
def fabs32 (x : Nat) : Nat := if isNan32 x then fp32.nanBits else x % 2 ^ 31
/-- `fneg` (R107). -/
def fneg32 (x : Nat) : Nat := if isNan32 x then fp32.nanBits else (x + 2 ^ 31) % 2 ^ 32

/-- `frcp` (R109): correctly rounded; the quotient keeps at least 40 bits and a sticky bit. -/
def frcp32 (x : Nat) : Nat :=
  match fp32.val x with
  | .nan => fp32.nanBits
  | .inf n => if n then 2 ^ 31 else 0
  | .fin n m e =>
    if m = 0 then fp32.infBits n
    else
      let q := 2 ^ 64 / m
      fp32.round .rne n (2 * q + (if 2 ^ 64 % m = 0 then 0 else 1)) (-e - 65)

/-- The integer square root of n, bit by bit from bit i (structural). -/
def isqrt (n : Nat) : Nat → Nat → Nat
  | 0, r => r
  | i + 1, r => isqrt n i (if (r + 2 ^ i) * (r + 2 ^ i) ≤ n then r + 2 ^ i else r)

/-- `fsqrt` (R109): correctly rounded. -/
def fsqrt32 (x : Nat) : Nat :=
  match fp32.val x with
  | .nan => fp32.nanBits
  | .inf n => if n then fp32.nanBits else fp32.infBits false
  | .fin n m e =>
    if m = 0 then (if n then 2 ^ 31 else 0)
    else if n then fp32.nanBits
    else
      let odd := e % 2 ≠ 0
      let m' := (if odd then 2 * m else m) * 2 ^ 90
      let e' : Int := ((if odd then e - 1 else e) - 90) / 2
      let r := isqrt m' 60 0
      fp32.round .rne false (2 * r + (if r * r = m' then 0 else 1)) (e' - 1)

/-! ### The functions of R109 that the spec bounds (log entry 4)

The spec bounds these results and does not state their bits. The result is the free bits that `Config` gives for the operand where they
lie within the bound, and else the value correctly rounded. Values are fixed-point numbers with 160 fraction bits; `slack` is the
error that the computation of the exact value leaves, far below the bound. -/

/-- Fixed-point one. -/
def one160 : Nat := 2 ^ 160
/-- The unit in the last place of FP32 at a fixed-point magnitude. -/
def ulp160 (a : Nat) : Nat := 2 ^ (max (a.log2 - 23) 11)

/-- Free bits `c` where they lie within `tol` of the exact value, else that value rounded to nearest even. `a` is the exact value but for the error
of its computation, which `slack` covers: what is taken never lies beyond the bound (R109). -/
def within160 (c : Nat) (a : Int) (tol : Nat) : Nat :=
  let slack := tol / 2 ^ 37 + 2
  let ok : Bool := match fp32.val c with
    | .fin n m e => decide ((sInt n (m * 2 ^ (e + 160).toNat) - a).natAbs ≤ tol - slack)
    | .inf n => decide (2 ^ 288 ≤ (if n then -a else a) + (tol - slack : Nat))
    | .nan => false
  if ok then c else fp32.round .rne (decide (a < 0)) a.natAbs (-160)

/-- Terms of a power series: term n + k from term n by the factor `x` over `d n`, alternating with `alt`. -/
def series160 (x : Nat) (d : Nat → Nat) (alt : Bool) : Nat → Nat → Int → Nat → Int
  | 0, _, acc, _ => acc
  | k + 1, n, acc, term =>
    let next := term * x / one160 / d n
    series160 x d alt k (n + 1) (if alt ∧ n % 2 = 1 then acc - next else acc + next) next

/-- 2^f for a fraction f: the exponential of f ln 2. -/
def exp2Frac (f : Nat) : Nat :=
  (series160 (f * 0xb17217f7d1cf79abc9e3b39803f2f6af40f34326 / one160) (fun n => n) false 48 1 one160 one160).toNat
/-- sin and cos of an angle from 0 to π/2. -/
def sinArc (t : Nat) : Int := series160 (t * t / one160) (fun n => 2 * n * (2 * n + 1)) true 24 1 t t
/-- The cosine. -/
def cosArc (t : Nat) : Int := series160 (t * t / one160) (fun n => (2 * n - 1) * (2 * n)) true 24 1 one160 one160

/-- Fraction bits of log2 of y in [1, 2), one by squaring. -/
def log2Frac : Nat → Nat → Nat → Nat
  | 0, _, acc => acc
  | k + 1, y, acc =>
    let z := y * y / one160
    if 2 * one160 ≤ z then log2Frac k (z / 2) (2 * acc + 1) else log2Frac k z (2 * acc)

/-- The quarter turns and the angle within the quarter of m × 2^e radians; 2/π stands with 400 fraction bits. -/
def quarters (m : Nat) (e : Int) : Nat × Nat :=
  let u := m * 0xa2f9836e4e441529fc2757d1f534ddc0db6295993c439041fe5163abdebbc561b7246e3a424dd2e006492eea09d1921cfe1d * 2 ^ e.toNat / 2 ^ (240 + (-e).toNat)
  (u / one160 % 4, u % one160 * 0x1921fb54442d18469898cc51701b839a252049c11 / one160)

/-- `frsq` (R109): within 1 ulp. -/
def frsq32 (x : Nat) : Nat :=
  match fp32.val x with
  | .nan => fp32.nanBits
  | .inf n => if n then fp32.nanBits else 0
  | .fin n m e =>
    if m = 0 then fp32.infBits n
    else if n then fp32.nanBits
    else
      let a := isqrt (2 ^ (320 - e).toNat / m) 236 0
      within160 (Config.rsqrtBits (BitVec.ofNat 32 x)).toNat a (ulp160 a)

/-- The integer that a value is, if it is one. -/
def FVal.toInt? (v : FVal) : Option Int :=
  match v with
  | .fin n m e =>
    if 0 ≤ e then some (sInt n (m * 2 ^ e.toNat))
    else if m % 2 ^ (-e).toNat = 0 then some (sInt n (m / 2 ^ (-e).toNat)) else none
  | _ => none

/-- 2^x as a fixed-point number, for x = ±m × 2^e; 0 below 2^-300 and 2^300 above it. -/
def exp2Of (n : Bool) (m : Nat) (e : Int) : Nat :=
  let big : Bool := decide (300 * 2 ^ (-e).toNat ≤ m * 2 ^ e.toNat)
  if big then (if n then 0 else 2 ^ 460)
  else
    let v : Int := sInt n (m * 2 ^ (e + 160).toNat)
    let k := v / one160
    let y := exp2Frac (v % one160).toNat
    if 0 ≤ k then y * 2 ^ k.toNat else y / 2 ^ (-k).toNat

/-- `fexp2` (R109): exact on integers from -149 to 127, else within 2 ulp. -/
def fexp2b32 (x : Nat) : Nat :=
  match fp32.val x with
  | .nan => fp32.nanBits
  | .inf n => if n then 0 else fp32.infBits false
  | .fin n m e =>
    let free := (Config.exp2Bits (BitVec.ofNat 32 x)).toNat
    let a := exp2Of n m e
    match (FVal.fin n m e).toInt? with
    | some k => if -149 ≤ k ∧ k ≤ 127 then fp32.round .rne false 1 k else within160 free a (2 * ulp160 a)
    | none => within160 free a (2 * ulp160 a)

/-- `flog2` (R109): within 2 ulp, or 2^-22 for an operand from 0.5 to 2. -/
def flog2b32 (x : Nat) : Nat :=
  match fp32.val x with
  | .nan => fp32.nanBits
  | .inf n => if n then fp32.nanBits else fp32.infBits false
  | .fin n m e =>
    if m = 0 then fp32.infBits true
    else if n then fp32.nanBits
    else if x = 0x3F800000 then 0
    else
      let k := m.log2
      let frac := log2Frac 60 (m * 2 ^ (160 - k)) 0
      let a : Int := (e + (k : Int)) * one160 + frac * 2 ^ 100
      let tol := if 0x3F000000 ≤ x ∧ x ≤ 0x40000000 then max (2 ^ 138) (2 * ulp160 a.natAbs) else 2 * ulp160 a.natAbs
      within160 (Config.log2Bits (BitVec.ofNat 32 x)).toNat a tol

/-- `fsin` (R109): within 2^-22. -/
def fsin32 (x : Nat) : Nat :=
  match fp32.val x with
  | .nan => fp32.nanBits
  | .inf _ => fp32.nanBits
  | .fin n m e =>
    if m = 0 then (if n then 2 ^ 31 else 0)
    else
      let q := quarters m e
      let v := if q.1 % 2 = 0 then sinArc q.2 else cosArc q.2
      let a := if q.1 < 2 then v else -v
      within160 (Config.sinBits (BitVec.ofNat 32 x)).toNat (if n then -a else a) (2 ^ 138)

/-- `fcos` (R109): within 2^-22. -/
def fcos32 (x : Nat) : Nat :=
  match fp32.val x with
  | .nan => fp32.nanBits
  | .inf _ => fp32.nanBits
  | .fin _ m e =>
    let q := quarters m e
    let v := if q.1 % 2 = 0 then cosArc q.2 else sinArc q.2
    within160 (Config.cosBits (BitVec.ofNat 32 x)).toNat (if q.1 = 1 ∨ q.1 = 2 then -v else v) (2 ^ 138)

/-- Rounds an exact value to an integer (R85). -/
def FVal.roundInt (mode : RMode) (neg : Bool) (m : Nat) (e : Int) : Int :=
  if 0 ≤ e then sInt neg (m * 2 ^ e.toNat)
  else
    let sh := (-e).toNat
    let q := m / 2 ^ sh
    sInt neg (if roundUp mode neg q (m % 2 ^ sh) (2 ^ (sh - 1)) then q + 1 else q)

/-- `fcvi` (R112): FP32 to INT32, clamped; NaN gives 0. -/
def fcvi32 (mode : RMode) (x : Nat) : Int :=
  match fp32.val x with
  | .nan => 0
  | .inf n => if n then -(2 ^ 31 : Nat) else (2 ^ 31 - 1 : Nat)
  | .fin n m e => clampS 32 (FVal.roundInt mode n m e)

/-- `icvf` (R112): INT32 to FP32. -/
def icvf32 (mode : RMode) (z : Int) : Nat := fp32.round mode (decide (z < 0)) z.natAbs 0

/-- Float to another float format (R85). -/
def fconv (src dst : FFmt) (mode : RMode) (x : Nat) : Nat := dst.bitsOf mode (src.val x)

/-- floor(log2) of a non-zero dyadic value. -/
def FVal.top (m : Nat) (e : Int) : Int := (Nat.log2 m : Int) + e

/-- dot_pass (R92): the terms are exact values; the window keeps multiples of 2^(E-63), and what falls below sets sticky. -/
def dotPass (terms : List FVal) : Nat :=
  let pinf := terms.any (· == .inf false)
  let ninf := terms.any (· == .inf true)
  if terms.any (· == .nan) || (pinf && ninf) then 0x7FC00000
  else if pinf then fp32.infBits false
  else if ninf then fp32.infBits true
  else
    let nz := terms.filter fun t => match t with | .fin _ m _ => m != 0 | _ => false
    match nz with
    | [] => if terms.all (fun t => match t with | .fin n _ _ => n | _ => false) then 2 ^ 31 else 0
    | t0 :: _ =>
      let tops := nz.map fun t => match t with | .fin _ m e => FVal.top m e | _ => 0
      let e0 := match t0 with | .fin _ m e => FVal.top m e | _ => 0
      let E := tops.foldl max e0
      let w := E - 63
      let parts := nz.map fun t =>
        match t with
        | .fin n m e =>
          if w ≤ e then (sInt n (m * 2 ^ (e - w).toNat), false)
          else (sInt n (m / 2 ^ (w - e).toNat), decide (m % 2 ^ (w - e).toNat ≠ 0))
        | _ => (0, false)
      let S : Int := (parts.map (·.1)).foldl (· + ·) 0
      let sticky := parts.any (·.2)
      if S = 0 then 0
      else
        let neg := decide (S < 0)
        fp32.round .rne neg (4 * S.natAbs + (if sticky then 1 else 0)) (w - 2)

/-- The FP32 agreement of R91 under CKTOL. -/
def ckAgree (tol x y : Nat) : Bool :=
  match fp32.val x, fp32.val y with
  | .nan, .nan => true
  | .nan, _ => false
  | _, .nan => false
  | .inf a, .inf b => a == b
  | .inf _, _ => false
  | _, .inf _ => false
  | .fin n1 m1 e1, .fin n2 m2 e2 =>
    let e := min e1 e2
    let z : Int := sInt n1 m1 * (2 ^ (e1 - e).toNat : Nat) - sInt n2 m2 * (2 ^ (e2 - e).toNat : Nat)
    let mx := max (x % 2 ^ 31) (y % 2 ^ 31)
    let ulpE : Int := max (fp32.emin) (fp32.emin + (mx / 2 ^ 23 : Nat) - 1)
    let d := z.natAbs
    -- |x - y| = d × 2^e against tol × 2^ulpE
    if ulpE ≤ e then decide (d * 2 ^ (e - ulpE).toNat ≤ tol) else decide (d ≤ tol * 2 ^ (ulpE - e).toNat)

end Sys2Proof.Machine
end

