-- ==== Sys2Proof/Machine/Flags.lean ====
section
/-!
DEFINITION. Conditions and the values they compare (R104, R110, R126, R204, R205), shifts (R103), atomics' new values (R153).
-/
namespace Sys2Proof.Machine
open Sys2Proof

/-- The integer conditions of R104 on n-bit values. -/
def icond {n : Nat} (c : Nat) (x y : BitVec n) : Bool :=
  match c with
  | 0 => x == y
  | 1 => x != y
  | 2 => x.slt y
  | 3 => x.sle y
  | 4 => y.slt x
  | 5 => y.sle x
  | 6 => x.ult y
  | _ => y.ule x

/-- The FP32 conditions of R110. -/
def fcond (c x y : Nat) : Bool :=
  let un := isNan32 x || isNan32 y
  let o := (fp32.val x).cmp (fp32.val y)
  match c with
  | 0 => !un && o == 0
  | 1 => un || o != 0
  | 2 => !un && o == -1
  | 3 => !un && o != 1
  | 4 => !un && o == 1
  | 5 => !un && o != -1
  | 6 => !un
  | _ => un

/-- The predicate operations of R126. -/
def plogOp (c : Nat) (x y : Bool) : Bool := match c with | 0 => x && y | 1 => x || y | _ => x != y

/-- Shift left by all of y (R103, R204). -/
def shlAll {n : Nat} (x : BitVec n) (y : Nat) : BitVec n := if y ≥ n then 0#n else x <<< y
/-- Shift right, zeros in. -/
def shrAll {n : Nat} (x : BitVec n) (y : Nat) : BitVec n := if y ≥ n then 0#n else x >>> y
/-- Shift right, sign bits in. -/
def sraAll {n : Nat} (x : BitVec n) (y : Nat) : BitVec n := if y ≥ n then (if x.msb then BitVec.allOnes n else 0#n) else x.sshiftRight y

/-- Signed minimum. -/
def sminBv {n : Nat} (x y : BitVec n) : BitVec n := if y.slt x then y else x
/-- Signed maximum. -/
def smaxBv {n : Nat} (x y : BitVec n) : BitVec n := if x.slt y then y else x
/-- Unsigned minimum. -/
def uminBv {n : Nat} (x y : BitVec n) : BitVec n := if y.ult x then y else x
/-- Unsigned maximum. -/
def umaxBv {n : Nat} (x y : BitVec n) : BitVec n := if x.ult y then y else x

/-- The new value of an atomic operation (R153) on n-bit values: old value m, operand y, second operand y2 of compare-and-swap. -/
def atomNew {n : Nat} (op : Nat) (m y y2 : BitVec n) : BitVec n :=
  match op with
  | 0 => m + y
  | 1 => sminBv m y
  | 2 => smaxBv m y
  | 3 => uminBv m y
  | 4 => umaxBv m y
  | 5 => m &&& y
  | 6 => m ||| y
  | 7 => m ^^^ y
  | 8 => y
  | 9 => if m = y then y2 else m
  | 10 => BitVec.ofNat n (fp32.add m.toNat y.toNat)
  | 11 => if y.ule m then 0#n else m + 1#n
  | _ => if m = 0#n ∨ y.ult m then y else m - 1#n

/-- An atomic on the bytes at its home: the old bytes, the new bytes (R153). -/
def atomBytes (size op : Nat) (old : List Byte) (y y2 : Nat) : List Byte :=
  if size = 2 then toBytes 4 (atomNew op (BitVec.ofNat 32 (ofBytes old)) (BitVec.ofNat 32 y) (BitVec.ofNat 32 y2)).toNat
  else toBytes 8 (atomNew op (BitVec.ofNat 64 (ofBytes old)) (BitVec.ofNat 64 y) (BitVec.ofNat 64 y2)).toNat

end Sys2Proof.Machine
end

