-- ==== Sys2Proof/Machine/Crypto.lean ====
section
/-!
DEFINITION. The functions that the rules take from outside standards (R348, R360, R368, R371-R373): AES-256 (FIPS 197), XTS with 16-byte units
(IEEE Std 1619), GHASH (SP 800-38D), SHA-512 (FIPS 180-4), HMAC (RFC 2104), HKDF (RFC 5869), AES key wrap (RFC 3394), X25519 (RFC 7748), Ed25519
(RFC 8032), CRC-32C. Keys are numbers, byte 0 lowest. Log entry 5.
-/
namespace Sys2Proof.Machine
open Sys2Proof

/-- Byte i of a number. -/
def octet (x i : Nat) : Nat := x / 2 ^ (8 * i) % 256

/-- The number that bytes stand for, the first one highest. -/
def bigEndian (bs : List Nat) : Nat := bs.foldl (fun x b => 256 * x + b) 0

/-- The n bytes of a number, the highest first. -/
def bigBytes (n x : Nat) : List Nat := (List.range n).map fun i => octet x (n - 1 - i)

/-! ### AES-256 (FIPS 197) -/

/-- The S-box: byte x of this number is the image of x. -/
def aesBox : Nat :=
  0x16BB54B00F2D99416842E6BF0D89A18CDF2855CEE9871E9B948ED9691198F8E19E1DC186B95735610EF6034866B53E708A8BBD4B1F74DDE8C6B4A61C2E2578BA08AE7A65EAF4566CA94ED58D6D37C8E779E4959162ACD3C25C2406490A3A32E0DB0B5EDE14B8EE4688902A22DC4F816073195D643D7EA7C41744975FEC130CCDD2F3FF1021DAB6BCF5389D928F40A351A89F3C507F02F94585334D43FBAAEFD0CF584C4A39BECB6A5BB1FC20ED00D153842FE329B3D63B52A05A6E1B1A2C830975B227EBE28012079A059618C323C7041531D871F1E5A534CCF73F362693FDB7C072A49CAFA2D4ADF04759FA7DC982CA76ABD7FE2B670130C56F6BF27B777C63
/-- The inverse S-box. -/
def aesUnbox : Nat :=
  0x7D0C2155631469E126D677BA7E042B17619953833CBBEBC8B0F52AAE4D3BE0A0EF9CC9939F7AE52D0D4AB519A97F51605FEC8027591012B131C7078833A8DD1FF45ACD78FEC0DB9A2079D2C64B3E56FC1BBE18AA0E62B76F89C5291D711AF1476EDF751CE837F9E28535ADE72274AC9673E6B4F0CECFF297EADC674F4111913A6B8A130103BDAFC1020F3FCA8F1E2CD00645B3B80558E4F70AD3BC8C00ABD890849D8DA75746155EDAB9EDFD5048706C92B6655DCC5CA4D41698688664F6F87225D18B6D49A25B76B224D92866A12E084EC3FA420B954CEE3D23C2A632947B54CBE9DEC444438E3487FF2F9B8239E37CFBD7F3819EA340BF38A53630D56A0952

/-- A byte times x in GF(2^8). -/
def gfDouble (a : Nat) : Nat := if a < 128 then 2 * a else (2 * a) ^^^ 0x11B

/-- A byte times a factor below 16 in GF(2^8). -/
def gfTimes (a k : Nat) : Nat :=
  (if k % 2 = 1 then a else 0) ^^^ (if k / 2 % 2 = 1 then gfDouble a else 0) ^^^ (if k / 4 % 2 = 1 then gfDouble (gfDouble a) else 0)
  ^^^ (if k / 8 % 2 = 1 then gfDouble (gfDouble (gfDouble a)) else 0)

/-- Bytes XORed one by one. -/
def xorBytes (a b : List Nat) : List Nat := List.zipWith (· ^^^ ·) a b

/-- The next four bytes of the key schedule, word i of it, from those so far. -/
def aesWord (w : List (List Nat)) (i : Nat) : List Nat :=
  let last := w.getD (i - 1) []
  let boxed (l : List Nat) : List Nat := l.map fun b => octet aesBox b
  let t := if i % 8 = 0 then xorBytes (boxed (last.drop 1 ++ last.take 1)) [2 ^ (i / 8 - 1), 0, 0, 0] else if i % 8 = 4 then boxed last else last
  xorBytes (w.getD (i - 8) []) t

/-- The fifteen round keys. -/
def aesKeys (key : Nat) : List (List Nat) :=
  let w := (List.range 52).foldl (fun (w : List (List Nat)) i => w ++ [aesWord w (i + 8)]) ((List.range 8).map fun i => (List.range 4).map fun j => octet key (4 * i + j))
  (List.range 15).map fun r => ((w.drop (4 * r)).take 4).flatten

/-- Row r of column c moves to column c - r (`back`: to c + r). -/
def shiftRows (s : List Nat) (back : Bool) : List Nat :=
  (List.range 16).map fun i => s.getD ((i / 4 + if back then 4 - i % 4 else i % 4) % 4 * 4 + i % 4) 0

/-- Each column times the matrix whose first row is `row`. -/
def mixColumns (row s : List Nat) : List Nat :=
  (List.range 16).map fun i => (List.range 4).foldl (fun x k => x ^^^ gfTimes (s.getD (i / 4 * 4 + k) 0) (row.getD ((k + 4 - i % 4) % 4) 0)) 0

/-- One block under a key: sixteen bytes to sixteen bytes. -/
def aesBytes (key : Nat) (x : List Nat) : List Nat :=
  let ks := aesKeys key
  let round (s : List Nat) : List Nat := shiftRows (s.map fun b => octet aesBox b) false
  let s := (List.range 13).foldl (fun s r => xorBytes (mixColumns [2, 3, 1, 1] (round s)) (ks.getD (r + 1) [])) (xorBytes x (ks.getD 0 []))
  xorBytes (round s) (ks.getD 14 [])

/-- The inverse of `aesBytes`. -/
def aesUnbytes (key : Nat) (x : List Nat) : List Nat :=
  let ks := aesKeys key
  let round (s : List Nat) : List Nat := (shiftRows s true).map fun b => octet aesUnbox b
  let s := (List.range 13).foldl (fun s r => mixColumns [14, 11, 13, 9] (xorBytes (round s) (ks.getD (13 - r) []))) (xorBytes x (ks.getD 14 []))
  xorBytes (round s) (ks.getD 0 [])

/-- A 128-bit block with byte 0 in bits [127:120], and one with byte 0 in bits [7:0], change places. -/
def flipBlock (x : BitVec 128) : BitVec 128 := BitVec.ofNat 128 (bigEndian ((List.range 16).map fun i => octet x.toNat i))

/-- AES-256 of a block whose bits [127:120] are byte 0 (R360). -/
def aes256 (key : Nat) (x : BitVec 128) : BitVec 128 := BitVec.ofNat 128 (bigEndian (aesBytes key (bigBytes 16 x.toNat)))

/-- The bytes of a block with byte 0 in bits [7:0]. -/
def blockBytes (x : BitVec 128) : List Nat := (List.range 16).map fun i => octet x.toNat i

/-- One XTS unit (IEEE Std 1619): the low half of the key pair for the data, the high half for the tweak. -/
def xtsUnit (f : Nat → List Nat → List Nat) (pair unit : Nat) (x : BitVec 128) : BitVec 128 :=
  let t := aesBytes (pair / 2 ^ 256) ((List.range 16).map fun i => octet unit i)
  BitVec.ofNat 128 (bigEndian (xorBytes (f (pair % 2 ^ 256) (xorBytes (blockBytes x) t)) t).reverse)

/-- XTS encryption of a 16-byte unit, byte 0 in bits [7:0]: key pair, data-unit number, block. -/
def xtsEnc (pair unit : Nat) (x : BitVec 128) : BitVec 128 := xtsUnit aesBytes pair unit x
/-- XTS decryption. -/
def xtsDec (pair unit : Nat) (x : BitVec 128) : BitVec 128 := xtsUnit aesUnbytes pair unit x

/-- The counter-mode pad of a counter block, byte 0 in bits [7:0] (R360). -/
def ctrPad (key : Nat) (cb : BitVec 128) : BitVec 128 := flipBlock (aes256 key cb)

/-! ### GHASH (SP 800-38D) -/

/-- The product in GF(2^128), the first bit highest. -/
def ghashMul (x y : Nat) : Nat :=
  ((List.range 128).foldl (fun (r : Nat × Nat) i =>
    (if x.testBit (127 - i) then r.1 ^^^ r.2 else r.1, if r.2 % 2 = 1 then (r.2 / 2) ^^^ (0xE1 * 2 ^ 120) else r.2 / 2)) (0, y)).1

/-- GHASH of blocks whose byte 0 is in bits [7:0], under H. -/
def ghash (h : BitVec 128) (blocks : List (BitVec 128)) : BitVec 128 :=
  BitVec.ofNat 128 (blocks.foldl (fun y b => ghashMul (y ^^^ (flipBlock b).toNat) h.toNat) 0)

/-! ### SHA-512 (FIPS 180-4), HMAC (RFC 2104), HKDF (RFC 5869) -/

/-- The round constants, 64 bits each: the fractions of the cube roots of the first 80 primes. -/
def shaRounds : Nat :=
  0x6C44198C4A4758175FCB6FAB3AD6FAEC597F299CFC657E2A4CC5D4BECB3E42B6431D67C49C100D4C3C9EBE0A15C9BEBC32CAAB7B40C7249328DB77F523047D841B710B35131C471B113F9804BEF90DAE0A637DC5A2C898A606F067AA72176FBAF57D4F7FEE6ED178EADA7DD6CDE0EB1ED186B8C721C0C207CA273ECEEA26619CC67178F2E372532BBEF9A3F7B2C67915A4506CEBDE82BDE990BEFFFA23631E288CC702081A6439EC84C87814A1F0AB7278A5636F43172F60748F82EE5DEFB2FC682E6FF3D6B2B8A35B9CCA4F7763E3734ED8AA4AE3418ACB391C0CB3C5C95A6334B0BCB5E19B48A82748774CDF8EEB991E376C085141AB5319A4C116B8D2D0C8106AA07032BBD1B8F40E35855771202AD69906245565A910D192E819D6EF5218C76C51A30654BE30C24B8B70D0F89791A81A664BBC423001A2BFE8A14CF1036492722C851482353B81C2C92E47EDAEE6766A0ABB3C77B2A8650A73548BAF63DE53380D139D95B3DF4D2C6DFC5AC42AED2E1B21385C26C92627B70A8546D22FFC142929670A0E6E7006CA6351E003826FD5A79147930AA725C6E00BF33DA88FC2BF597FC7BEEF0EE4B00327C898FB213FA831C66D2DB43210983E5152EE66DFAB76F988DA831153B55CB0A9DCBD41FBD44A7484AA6EA6E4832DE92C6F592B0275240CA1CC77AC9C650FC19DC68B8CD5B5EFBE4786384F25E3E49B69C19EF14AD2C19BF174CF6926949BDC06A725C7123580DEB1FE3B1696B172BE5D74F27B896F550C7DC3D5FFB4E2243185BE4EE4B28C12835B0145706FBED807AA98A3030242AB1C5ED5DA6D8118923F82A4AF194F9B59F111F1B605D0193956C25BF348B538E9B5DBA58189DBBCB5C0FBCFEC4D3B2F7137449123EF65CD428A2F98D728AE22
/-- The initial hash value: the fractions of the square roots of the first 8 primes. -/
def shaStart : Nat :=
  0x5BE0CD19137E21791F83D9ABFB41BD6B9B05688C2B3E6C1F510E527FADE682D1A54FF53A5F1D36F13C6EF372FE94F82BBB67AE8584CAA73B6A09E667F3BCC908

/-- 64-bit rotation to the right. -/
def ror64 (x n : Nat) : Nat := x / 2 ^ n + x % 2 ^ n * 2 ^ (64 - n)

/-- The message schedule of a 128-byte block. -/
def shaSchedule (block : List Nat) : List Nat :=
  (List.range 64).foldl (fun (w : List Nat) i =>
    let a := w.getD (i + 1) 0
    let b := w.getD (i + 14) 0
    w ++ [((ror64 b 19 ^^^ ror64 b 61 ^^^ b / 2 ^ 6) + w.getD (i + 9) 0 + (ror64 a 1 ^^^ ror64 a 8 ^^^ a / 2 ^ 7) + w.getD i 0) % 2 ^ 64])
    ((List.range 16).map fun i => bigEndian ((block.drop (8 * i)).take 8))

/-- One round on the working variables a to h. -/
def shaRound (v : List Nat) (kw : Nat) : List Nat :=
  match v with
  | [a, b, c, d, e, f, g, h] =>
    let t := h + (ror64 e 14 ^^^ ror64 e 18 ^^^ ror64 e 41) + ((e &&& f) ^^^ ((2 ^ 64 - 1 - e) &&& g)) + kw
    let u := (ror64 a 28 ^^^ ror64 a 34 ^^^ ror64 a 39) + ((a &&& b) ^^^ (a &&& c) ^^^ (b &&& c))
    [(t + u) % 2 ^ 64, a, b, c, (d + t) % 2 ^ 64, e, f, g]
  | _ => v

/-- The hash value after a block. -/
def shaBlock (h block : List Nat) : List Nat :=
  let w := shaSchedule block
  let v := (List.range 80).foldl (fun v i => shaRound v (shaRounds / 2 ^ (64 * i) % 2 ^ 64 + w.getD i 0)) h
  List.zipWith (fun x y => (x + y) % 2 ^ 64) h v

/-- SHA-512 on byte values. -/
def shaBytes (m : List Nat) : List Nat :=
  let n := m.length
  let padded := m ++ 0x80 :: List.replicate ((239 - n % 128) % 128) 0 ++ bigBytes 16 (8 * n)
  ((List.range (padded.length / 128)).foldl (fun h i => shaBlock h ((padded.drop (128 * i)).take 128))
    ((List.range 8).map fun i => shaStart / 2 ^ (64 * i) % 2 ^ 64)).flatMap fun x => bigBytes 8 x

/-- HMAC-SHA-512 under a key of at most 128 bytes. -/
def hmacBytes (key m : List Nat) : List Nat :=
  let k := key ++ List.replicate (128 - key.length) 0
  shaBytes (k.map (· ^^^ 0x5C) ++ shaBytes (k.map (· ^^^ 0x36) ++ m))

/-- The first 64 bytes that HKDF-SHA-512 derives. -/
def hkdfBytes (salt ikm info : List Nat) : List Nat := hmacBytes (hmacBytes salt ikm) (info ++ [1])

/-! ### AES key wrap (RFC 3394) -/

/-- One step of unwrapping, t from 24 down to 1: A and the four 8-byte blocks. -/
def unwrapStep (kw : Nat) (r : List Nat × List (List Nat)) (t : Nat) : List Nat × List (List Nat) :=
  let i := (t - 1) % 4
  let b := aesUnbytes kw (bigBytes 8 (bigEndian r.1 ^^^ t) ++ r.2.getD i [])
  (b.take 8, r.2.set i (b.drop 8))

/-- Unwraps forty bytes: the 256-bit key, or `none` where the integrity check fails. -/
def unwrapBytes (kw : Nat) (wrapped : List Nat) : Option (List Nat) :=
  let r := (List.range 24).foldl (fun r i => unwrapStep kw r (24 - i)) (wrapped.take 8, (List.range 4).map fun i => (wrapped.drop (8 + 8 * i)).take 8)
  if r.1 = List.replicate 8 0xA6 then some r.2.flatten else none

/-! ### Curve25519 (RFC 7748, RFC 8032) -/

/-- The field's prime. -/
def p25519 : Nat := 2 ^ 255 - 19

/-- b to the power e modulo m, for e below 2^256. -/
def powMod (b e m : Nat) : Nat :=
  (List.range 256).foldl (fun r i => let q := r * r % m; if e.testBit (255 - i) then q * b % m else q) 1

/-- The inverse in the field. -/
def inv25519 (x : Nat) : Nat := powMod x (p25519 - 2) p25519

/-- x minus y in the field. -/
def sub25519 (x y : Nat) : Nat := (x + p25519 - y % p25519) % p25519

/-- One step of the Montgomery ladder on the points x2/z2 and x3/z3, whose difference has the u-coordinate u. -/
def ladderStep (u : Nat) (r : Nat × Nat × Nat × Nat) (k : Bool) : Nat × Nat × Nat × Nat :=
  let (x2, z2, x3, z3) := if k then (r.2.2.1, r.2.2.2, r.1, r.2.1) else r
  let p := p25519
  let aa := (x2 + z2) * (x2 + z2) % p
  let bb := sub25519 x2 z2 * sub25519 x2 z2 % p
  let e := sub25519 aa bb
  let da := sub25519 x3 z3 * (x2 + z2) % p
  let cb := (x3 + z3) * sub25519 x2 z2 % p
  let n : Nat × Nat × Nat × Nat :=
    (aa * bb % p, e * (aa + 121665 * e) % p, (da + cb) * (da + cb) % p, u * (sub25519 da cb * sub25519 da cb % p) % p)
  if k then (n.2.2.1, n.2.2.2, n.1, n.2.1) else n

/-- X25519 of a scalar and a u-coordinate, both as numbers whose byte 0 is lowest. -/
def x25519 (scalar u : Nat) : Nat :=
  let k := scalar % 2 ^ 254 / 8 * 8 + 2 ^ 254
  let u := u % 2 ^ 255 % p25519
  let r := (List.range 255).foldl (fun r i => ladderStep u r (k.testBit (254 - i))) (1, 0, u, 1)
  r.1 * inv25519 r.2.1 % p25519

/-- The constant d of the twisted Edwards curve. -/
def d25519 : Nat := sub25519 0 (121665 * inv25519 121666)

/-- The order of the base point. -/
def l25519 : Nat := 2 ^ 252 + 27742317777372353535851937790883648493

/-- The sum of two points in extended coordinates (X, Y, Z, T). -/
def edAdd (a b : Nat × Nat × Nat × Nat) : Nat × Nat × Nat × Nat :=
  let p := p25519
  let x := sub25519 a.2.1 a.1 * sub25519 b.2.1 b.1 % p
  let y := (a.2.1 + a.1) * (b.2.1 + b.1) % p
  let c := 2 * a.2.2.2 * d25519 * b.2.2.2 % p
  let d := 2 * a.2.2.1 * b.2.2.1 % p
  let e := sub25519 y x
  let f := sub25519 d c
  (e * f % p, (d + c) * (y + x) % p, f * (d + c) % p, e * (y + x) % p)

/-- n times a point, n below 2^256. -/
def edMul (n : Nat) (a : Nat × Nat × Nat × Nat) : Nat × Nat × Nat × Nat :=
  (List.range 256).foldl (fun r i => let q := edAdd r r; if n.testBit (255 - i) then edAdd q a else q) (0, 1, 1, 0)

/-- The x-coordinate of a y-coordinate with the sign bit asked for. -/
def edX (y : Nat) (odd : Bool) : Option Nat :=
  let p := p25519
  if p ≤ y then none
  else
    let u := sub25519 (y * y) 1
    let v := (d25519 * y % p * y + 1) % p
    let w := u * inv25519 v % p
    let x0 := powMod w ((p + 3) / 8) p
    let x1 := if x0 * x0 % p = w then x0 else x0 * powMod 2 ((p - 1) / 4) p % p
    if x1 * x1 % p ≠ w ∨ (x1 = 0 ∧ odd) then none
    else some (if decide (x1 % 2 = 1) = odd then x1 else (p - x1) % p)

/-- A point as its 32 bytes, as a number. -/
def edEncode (a : Nat × Nat × Nat × Nat) : Nat :=
  let z := inv25519 a.2.2.1
  a.2.1 * z % p25519 + a.1 * z % p25519 % 2 * 2 ^ 255

/-- The point that 32 bytes, as a number, stand for. -/
def edDecode (n : Nat) : Option (Nat × Nat × Nat × Nat) :=
  let y := n % 2 ^ 255
  (edX y (n.testBit 255)).map fun x => (x, y, 1, x * y % p25519)

/-- The base point. -/
def edBase : Nat × Nat × Nat × Nat := (edDecode (4 * inv25519 5 % p25519)).getD (0, 1, 1, 0)

/-- The number that bytes stand for, the first one lowest. -/
def littleEndian (bs : List Nat) : Nat := bigEndian bs.reverse

/-- The secret scalar and the prefix of a 32-byte seed. -/
def edSecret (seed : List Nat) : Nat × List Nat :=
  let h := shaBytes seed
  (littleEndian (h.take 32) % 2 ^ 254 / 8 * 8 + 2 ^ 254, h.drop 32)

/-- The public key of a seed, as bytes. -/
def edPublic (seed : List Nat) : List Nat := (bigBytes 32 (edEncode (edMul (edSecret seed).1 edBase))).reverse

/-- The 64-byte signature of a message. -/
def edSign (seed m : List Nat) : List Nat :=
  let k := edSecret seed
  let r := littleEndian (shaBytes (k.2 ++ m)) % l25519
  let point := (bigBytes 32 (edEncode (edMul r edBase))).reverse
  let h := littleEndian (shaBytes (point ++ edPublic seed ++ m)) % l25519
  point ++ (bigBytes 32 ((r + h * k.1) % l25519)).reverse

/-- Whether a signature of a message verifies under a public key. -/
def edVerify (pub m sig : List Nat) : Bool :=
  let s := littleEndian (sig.drop 32)
  match edDecode (littleEndian pub), edDecode (littleEndian (sig.take 32)) with
  | some a, some r =>
    let h := littleEndian (shaBytes (sig.take 32 ++ pub ++ m)) % l25519
    decide (sig.length = 64) && decide (s < l25519) && edEncode (edMul s edBase) = edEncode (edAdd r (edMul h a))
  | _, _ => false

/-! ### CRC-32C -/

/-- CRC-32C of bytes. -/
def crcBytes (bs : List Nat) : Nat :=
  (bs.foldl (fun c b => (List.range 8).foldl (fun c _ => if c % 2 = 1 then (c / 2) ^^^ 0x82F63B78 else c / 2) (c ^^^ b)) 0xFFFFFFFF) ^^^ 0xFFFFFFFF

/-! ### On the model's bytes -/

/-- A function on byte values as one on bytes. -/
def onBytes (f : List Nat → List Nat) (bs : List Byte) : List Byte := (f (bs.map (·.toNat))).map fun x => BitVec.ofNat 8 x

/-- SHA-512. -/
def sha512 (m : List Byte) : List Byte := onBytes shaBytes m
/-- HMAC-SHA-512 under a 32-byte key. -/
def hmac512 (key : Nat) (m : List Byte) : List Byte := onBytes (hmacBytes (bigBytes 32 key).reverse) m
/-- The keys that SESSION derives (R372): KS in the low half, KW in the high half. -/
def sessionKeys (priv ownpub nonce : Nat) : Nat :=
  littleEndian (hkdfBytes (bigBytes 32 nonce).reverse (bigBytes 32 (x25519 priv ownpub)).reverse ("NH9640 session".toList.map Char.toNat))
/-- AES-256 key unwrap under KW (R372): `none` where the integrity check fails. -/
def keyUnwrap (kw : Nat) (wrapped : List Byte) : Option Nat := (unwrapBytes kw (wrapped.map (·.toNat))).map littleEndian
/-- The X25519 public key of a private key (R371). -/
def x25519Public (priv : Nat) : List Byte := (bigBytes 32 (x25519 priv 9)).reverse.map fun x => BitVec.ofNat 8 x
/-- The seed of the device identity key, from the fused secret (R371). -/
def identitySeed : List Nat := (Config.identitySeed ++ List.replicate 32 0#8).take 32 |>.map (·.toNat)
/-- The Ed25519 signature of a report by the device identity key (R371). -/
def signReport (m : List Byte) : List Byte := onBytes (edSign identitySeed) m
/-- DEVID: bytes 0-7 of SHA-512 of the identity public key (R371). -/
def deviceId : List Byte := ((shaBytes (edPublic identitySeed)).take 8).map fun x => BitVec.ofNat 8 x
/-- Whether the debug authority signed DEVID and DNONCE (R373). -/
def debugTokenOk (sig m : List Byte) : Bool := edVerify (Config.debugAuthority.map (·.toNat)) (m.map (·.toNat)) (sig.map (·.toNat))
/-- CRC-32C of a frame's bytes 26-37 (R348). -/
def crc32c (bs : List Byte) : Nat := crcBytes (bs.map (·.toNat))

end Sys2Proof.Machine
end

