-- ==== Sys2Proof/Machine/State.lean ====
section
/-!
DEFINITION. The whole module as plain data: every piece of state the spec gives the NH9640, the pending work of its agents, and
what a step needs to choose the next agent (`agenda`, `cur`). A sparse map lists only what differs from its field's default.
Every structure's docstring names the rules its fields come from.
-/
namespace Sys2Proof.Machine

/-- A rejoin mask register (R16). A mask of 0 is a free register. -/
structure Rejoin where
  mask : Word := 0
  addr : DWord := 0
  deriving DecidableEq, Repr

/-- A bound queue register (R17, R226). -/
structure QBinding where
  ctx : Word
  pop : Bool
  deriving DecidableEq, Repr

/-- Why a lane is held at its PC (R124, R130, R163, R330). -/
inductive Hold where
  /-- Free to issue. -/
  | free
  /-- Held at a `wait` on rejoin register j (R124). -/
  | wait (j : Nat)
  /-- Held at a group-wide operation with member mask M (R130); `guard` is the lane's guard, `i` the operation, `ops` its operands at its
  arrival. -/
  | member (mask : Word) (guard : Bool) (i : Instr) (ops : List Word)
  /-- Held until the group's lanes converge (R163). -/
  | converge
  /-- Held at an event with its code and the PC that `mret` gives it (R233, R330); whether the event was delivered. -/
  | event (code : Nat) (resume : DWord) (delivered : Bool)
  deriving DecidableEq, Repr

/-- A transient result in the bypass network (R56, R101): register, the lanes that hold a value, the values, instructions left. -/
structure Transient where
  reg : Nat
  lanes : Word
  vals : SMap Word
  left : Nat
  deriving DecidableEq, Repr

/-- The register that a long-latency result goes to (R54). -/
inductive Dest where
  | vec (lane reg : Nat)
  | uni (reg : Nat)
  deriving DecidableEq, Repr

/-- A long-latency result on its way (R54, R55): the value is bound, the registers are not yet written. -/
structure Pending where
  writes : List (Dest × Word)
  deriving DecidableEq, Repr

/-- A parked load of the load-replay area (R31, R159). -/
structure Parked where
  w0 : Nat
  w1 : Nat
  lanes : Word
  one : Bool
  row : Bool
  pc : DWord
  addrs : SMap Nat
  /-- Its place in the group's program order among waiting accesses (R248). -/
  seq : Nat := 0
  /-- A restore owes it: the group does not issue before it has returned (R31). -/
  restored : Bool := false
  deriving DecidableEq, Repr

/-- A weight plane (R176, R179, R184): kind 0 none, 1 float, 2 integer; a weight that is listed is a term; `cw` the checksum column. -/
structure Plane where
  kind : Nat := 0
  k : Nat := 0
  spar : Nat := 0
  slot : Nat := 0
  w : SMap Word := []
  cw : SMap Word := []
  skind : Nat := 0
  eoff : Nat := 0
  saddr : Nat := 0
  bitmap : Nat := 0
  deriving DecidableEq, Repr

/-- A tile row on its way into a tile (R180, R194). -/
structure TileRow where
  tile : Nat
  row : Nat
  words : List Word
  /-- Its place in the order of the group's accesses and matrix work (the state's `order`). -/
  seq : Nat := 0
  deriving DecidableEq, Repr

/-- A matrix instruction in the pipe (R180): the instruction, its lanes, its PC, the operands read at issue. -/
structure MatWork where
  instr : Instr
  lanes : Word
  pc : DWord
  vals : List Word
  /-- Its place in the order of the group's accesses and matrix work (the state's `order`). -/
  seq : Nat := 0
  deriving DecidableEq, Repr

/-- A fault or event on its way to a mast core (R33, R327): code, lanes, PC, ADDR, DETAIL, MINFO value, and whether the group
is halted by it. -/
structure FaultRec where
  code : Nat
  lanes : Word
  pc : DWord
  addr : DWord
  detail : DWord
  value : Word
  halts : Bool
  clk : Nat
  deriving DecidableEq, Repr

/-- Where an uncorrectable error lies among what a group owns (R378, R386): a word of a vector register, a uniform register, word row × 32 + w of a tile, a
word of an accumulator tile or its side areas (element row × 64 + column, 2048 + row sum, 2080 + column sum, 2144 the status word), a lane predicate, a
uniform predicate, a rejoin mask, an entry of a lane's return stack by its depth under spilled ones, the load-replay area. -/
inductive ErrPlace where
  | vreg (lane r : Nat)
  | sreg (r : Nat)
  | tile (t w : Nat)
  | acc (a w : Nat)
  | pred (p : Nat)
  | upred (p : Nat)
  | rejoin (j : Nat)
  | stack (lane depth : Nat)
  | waiting
  deriving DecidableEq, Repr

/-- The states of a resident group (R289). -/
inductive GPhase where
  | aReady
  | aStall
  | aPark
  | pReady (w : Bool)
  | pPark
  | retired
  deriving DecidableEq, Repr

/-- What a parked or stalled group waits for (R289). -/
inductive Waiting where
  | nothing
  | results
  | sleep (until_ : Nat)
  | bar (n : Nat)
  | barw (addr : Nat) (phase : Word)
  /-- The phase has completed; an access before one of its arrivals still waits in the side log (R259). -/
  | barDone (addr : Nat)
  | timeline (ctx n : Nat)
  | predecessor
  | room (ctx : Nat)
  | engine
  | swpt (n : Nat)
  | sideLog
  /-- A `fence.sc` or `fence.rel` that has not completed (R162, R262). -/
  | fence
  | replayRoom
  | superstep
  | parkedByMast
  /-- The page of a `tdecl` range is on its way (R362). -/
  | page (asid va : Nat)
  /-- The page of an instruction fetch is on its way (R441): the lanes at the path's PC do not issue. -/
  | fetch (asid va : Nat)
  deriving DecidableEq, Repr

/-- A group (R8, R13, R22, R31, R289). Keys: `v` lane × 64 + register; `p` predicate, one lane bit each; `tile` tile × 1024 + row × 32 +
word; `acc` tile × 2048 + row × 64 + column; `rs` tile × 32 + row; `cs` tile × 64 + column; `pc`, `meet`, `stack`, `spill`, `hold` lane. -/
structure Group where
  bid : Nat
  num : Nat
  cluster : Nat
  sp : Nat
  slot : Nat
  v : SMap Word := []
  s : SMap Word := []
  p : SMap Word := []
  k : Word := 0
  tile : SMap Word := []
  acc : SMap Word := []
  rs : SMap Word := []
  cs : SMap Word := []
  accStatus : SMap Word := []
  j : SMap Rejoin := []
  q : SMap QBinding := []
  pc : SMap DWord := []
  meet : SMap DWord := []
  stack : SMap (List DWord) := []
  spill : SMap Nat := []
  exited : Word := 0
  helper : Word := 0
  gstat : Word := 0
  hold : SMap Hold := []
  transient : List Transient := []
  pending : List Pending := []
  replay : List Parked := []
  /-- Entries that `qrd` has reserved and that have not arrived (R227). -/
  awaits : Nat := 0
  fills : List TileRow := []
  pipe : List MatWork := []
  late : List FaultRec := []
  event : Option FaultRec := none
  lastFault : Option FaultRec := none
  sideCount : Nat := 0
  /-- The active and shadow planes that a restore still owes (R198). -/
  planeOwed : Option (Plane × Plane) := none
  phase : GPhase := .pReady false
  waiting : Waiting := .nothing
  /-- The PC of the path that parked or stalled the group. -/
  waitPc : DWord := 0
  /-- The PCs of the calls and returns whose spill or reload waits (R120). -/
  spilling : List DWord := []
  /-- The place of the last acquire load in the order of waiting accesses: engine commands follow what stands before it (R258). -/
  acqAt : Nat := 0
  /-- Halted by `haltb`, by the dispatcher or by a late fault: it issues nothing (R158, R237, R289). -/
  halted : Bool := false
  /-- The poisoned entries of its storage (R378). -/
  errs : List ErrPlace := []
  /-- Halted by `haltb` (R236, R237). -/
  byHalt : Bool := false
  /-- Its active slot (R289). -/
  active : Option Nat := none
  age : Nat := 0
  /-- The clk at which it parked, was swapped out or became ready. -/
  since : Nat := 0
  /-- The clk at which it entered the active set. -/
  entered : Nat := 0
  ts : Nat := 0
  deriving DecidableEq, Repr

/-- Where a placed block stands (R285). -/
inductive BPhase where
  | resident
  | saved (reason : Nat)
  | gone
  deriving DecidableEq, Repr

/-- A block (R7, R18, R164, R269, R282, R345). `banks`: the scratchpad banks at offsets 0, 16384, … -/
structure Block where
  lid : Nat
  item : Nat
  gang : Nat
  blk : Nat
  cluster : Nat
  variant : Nat
  ngroups : Nat
  arg : DWord
  groupItem : Bool
  banks : List Nat := []
  guards : SMap Nat := []
  bars : SMap (List Nat) := []
  /-- Scratchpad offsets of the barrier objects that `barx.init` made (R165, R169). -/
  objects : List Nat := []
  bgen : Nat := 0
  /-- Its generation has retired: a save of it has begun since its placement or restore (R345, R352). -/
  genRetired : Bool := false
  save : Nat := 0
  tls : Nat := 0
  /-- Bytes of its save area and thread-local area together (R15, R282). -/
  areaBytes : Nat := 0
  phase : BPhase := .resident
  /-- Held until a coresident release (R272). -/
  held : Bool := false
  request : Option (Nat × Nat) := none
  withdrawnAt : Option Nat := none
  residentAt : Nat := 0
  placedAt : Nat := 0
  savedAt : Nat := 0
  swpt : Nat := 255
  /-- A save whose MAGIC is not yet written: reason and the clk it began (R37). -/
  saving : Option (Nat × Nat) := none
  struck : Option (Nat × Nat) := none
  /-- When the fault of the error that struck it was delivered to its mast core (R387). -/
  warned : Option Nat := none
  /-- Places in the program order of the parked loads that a save holds: group number × 16 + entry (R246, R248). -/
  parkedSeqs : SMap Nat := []
  /-- The side-log entries of each %group when the save began (R31). -/
  sideCounts : SMap Nat := []
  /-- Fault records of a running save: group number and record, those found at its start and those that came after (R407). -/
  faults : List (Nat × FaultRec) := []
  nested : List (Nat × FaultRec) := []
  /-- By %group, the last fault delivered to a group whose lanes `mret` has not resumed since (R404). -/
  told : SMap FaultRec := []
  deriving DecidableEq, Repr

/-- An engine command (R212, R214, R215): opcode, numbers, descriptor, options, guard, issuer and progress. -/
structure Cmd where
  op : Nat
  num : Nat
  count : Nat
  regs : List Word
  opts : Nat
  imm : Nat
  ntf : Bool
  guard : Option (Nat × Nat)
  gid : Nat
  bid : Nat
  pc : DWord
  asid : Nat
  /-- The lanes that issued it. -/
  lanes : Word := 0
  landed : List Nat := []
  /-- Bytes that have landed. -/
  bytes : Nat := 0
  /-- The address T(i) of element i, once the engine has it (R221). -/
  taken : SMap Nat := []
  /-- A collective's contribution, once read (R222). -/
  data : Option (List Byte) := none
  /-- How a video command ended: 0 running, 1 cleanly, 2 incomplete (R420). -/
  ended : Nat := 0
  failed : Option (Nat × Nat) := none
  discarded : Bool := false
  /-- ASID and address of the pieces that wait for their page (R219). -/
  waits : List (Nat × Nat) := []
  deriving DecidableEq, Repr

/-- An item in a device-side queue (R225, R271). `next` is the next gang of a grid to place. -/
structure Item where
  num : Nat
  count : Nat
  grid : Bool
  arg : DWord
  guard : Option (Nat × Nat)
  next : Nat := 0
  discarded : Bool := false
  /-- The gang number of its first gang (R269). -/
  gang : Nat := 0
  deriving DecidableEq, Repr

/-- An engine context (R20, R211, R214, R226, R227, R271). -/
structure Ctx where
  ring : Nat
  rlog : Nat
  /-- The decode engine of a video context, assigned at admission (R417). -/
  engine : Nat := 0
  taken : Nat := 0
  counter : Nat := 0
  cmds : List Cmd := []
  push : List DWord := []
  /-- The pop FIFO of 256 entries, and behind a full one the record that waits (R432). -/
  pop : List DWord := []
  /-- Reservations of `qrd`: group, lane and register of each, in FIFO order. -/
  reserved : List (Nat × Nat × Nat) := []
  items : List Item := []
  /-- Numbers completed out of order (enqueue contexts). -/
  settled : List Nat := []
  room : Nat := 0
  deriving DecidableEq, Repr

/-- The launch record's fields (R263). -/
structure LaunchRec where
  lflags : Nat := 0
  prio : Nat := 0
  world : Nat := 0
  kernel : Nat := 0
  image : Nat := 0
  param : Nat := 0
  pbytes : Nat := 0
  tlslane : Nat := 0
  groups : Nat := 1
  gangblk : Nat := 1
  vmask : Nat := 1
  ndev : Nat := 1
  gen : Nat := 0
  resblk : Nat := 0
  ctxtab : Nat := 0
  counts : List Nat := []
  qlog : List Nat := []
  doneaddr : Nat := 0
  devlist : Nat := 0
  wring : Nat := 0
  wval : Nat := 0
  fmt : List (BitVec 128) := []
  deriving DecidableEq, Repr

/-- A variant record with its switch-point descriptors (R71, R72): n, NLIVE, SPLIVE, SWPTOFF, LIVE. -/
structure Variant where
  vregs : Nat := 16
  tiles : Nat := 0
  accs : Nat := 0
  maxact : Nat := 32
  scratch : Nat := 0
  entry : Nat := 0
  seed : Nat := 0
  start : Nat := 0
  len : Nat := 0
  swpts : List (Nat × Nat × Nat × List Nat) := []
  deriving DecidableEq, Repr

/-- A kernel of a loaded image (R69, R70): where the code section stands and the variants. -/
structure Kernel where
  code : Nat := 0
  kflags : Nat := 0
  groups : Nat := 1
  gangblk : Nat := 1
  variants : SMap Variant := []
  deriving DecidableEq, Repr

/-- A failure-list entry (R395). -/
structure Failure where
  num : Nat
  gang : Nat
  ctx : Nat
  kind : Nat
  code : Nat
  pc : Nat
  addr : Nat
  save : Nat
  lanes : Nat
  blk : Nat
  deriving DecidableEq, Repr

/-- A shadow of a 64 KiB grain (R390): its frame and the 16-byte sectors the launch has written. -/
structure Shadow where
  frame : Nat
  written : List Nat
  deriving DecidableEq, Repr

/-- A gang of a launch that has not retired (R281, R389): item number, gang number, argument, relaunches used, live blocks. -/
structure Gang where
  ctx : Nat
  num : Nat
  gang : Nat
  arg : DWord
  groupItem : Bool
  relaunches : Nat := 0
  blocks : List Nat := []
  queued : Bool := false
  /-- The code under which it was reported failed (R395), until its item retires. -/
  failed : Option Nat := none
  deriving DecidableEq, Repr

/-- Where a launch stands (R274, R277, R278). -/
inductive LPhase where
  | admitted
  | barrier
  | running
  | committing
  | ended
  deriving DecidableEq, Repr

/-- A launch on this device (R263-R278, R390-R395). -/
structure Launch where
  lid : Word
  fn : Nat
  ring : Nat
  index : Nat
  asid : Nat
  record : LaunchRec
  kernel : Kernel
  phase : LPhase := .admitted
  ctxs : SMap Ctx := []
  spawn : Nat := 0
  gangNext : Nat := 0
  gangs : SMap Gang := []
  enqBlocks : Nat := 0
  placedBlocks : Nat := 0
  released : Bool := false
  turn : Nat := 0
  sms : Bool := false
  attempts : Nat := 0
  retired : Nat := 0
  nfail : Nat := 0
  failures : List Failure := []
  status : Nat := 0
  replayable : Bool := false
  replaying : Bool := false
  pcopy : List Byte := []
  /-- Records of items that its end has still to write: context, number, code (R261, R394). -/
  owed : List (Nat × Nat × Nat) := []
  shadows : SMap Shadow := []
  superstep : List Nat := []
  readyFrom : List Nat := []
  /-- The ranks whose done this device holds, its own once it has sent it (R275). -/
  doneFrom : List Nat := []
  admittedAt : Nat := 0
  seedDone : Bool := false
  /-- Its place among the ring's consumed indices, which the ring completion count counts (R277). -/
  consumedAt : Option Nat := none
  /-- This device's rank and the devices of the launch (R265). -/
  rank : Nat := 0
  devs : List Nat := []
  /-- The areas of its REASON 4 saves that are kept: gang, address, bytes (R388). -/
  kept : List (Nat × Nat × Nat) := []
  /-- Where its failure list stands, and its bytes (R395). -/
  failAt : Option (Nat × Nat) := none
  /-- Step 4 of its replay is finished (R393); it may start its seed group at the end of it. -/
  prepared : Bool := false
  go : Bool := false
  /-- It has written through ASID 0 (R386, R402). -/
  wroteShared : Bool := false
  deriving DecidableEq, Repr

/-- A sub-partition's matrix engine (R176, R177). -/
structure MatEngine where
  holder : Option Nat := none
  active : Plane := {}
  shadow : Plane := {}
  bitmap : Nat := 2 ^ 128 - 1
  /-- The clk and the group of each request, in request order. -/
  waiters : List (Nat × Nat) := []
  /-- The issue stage's copy of the planes' descriptors: kind, K, SPAR, slot of the active and of the shadow plane (R176). -/
  issueActive : Nat × Nat × Nat × Nat := (0, 0, 0, 0)
  issueShadow : Nat × Nat × Nat × Nat := (0, 0, 0, 0)
  deriving DecidableEq, Repr

/-- A CTB entry (R239, R324): attribute word fields, the page's first address, the frame of a MAST entry. -/
structure CtbEntry where
  mast : Bool
  asid : Nat
  va : Nat
  psize : Nat
  world : Nat
  sealed_ : Bool
  res : Nat
  x : Bool
  w : Bool
  rd : Bool
  pa : Nat
  deriving DecidableEq, Repr

/-- One access of a side-log entry (R159, R314): lane, address, size in bytes, atomic operation, data; `space` 0 global, 1 scratchpad,
2 gang window (R244, R248). -/
structure SideOp where
  lane : Nat
  addr : Nat
  size : Nat
  atop : Option Nat
  y : Nat
  y2 : Nat
  space : Nat := 0
  deriving DecidableEq, Repr

/-- A side-log entry (R159, R314): the accesses of one instruction that fall in one page; `page` is the page's first address, 2^56 for a
bank's accesses, and `psize` its bytes. -/
structure SideLog where
  gid : Nat
  bid : Nat
  lid : Nat
  asid : Nat
  page : Nat
  psize : Nat := 4096
  pc : DWord
  ops : List SideOp
  /-- Its place in the group's program order among waiting accesses (R248). -/
  seq : Nat := 0
  /-- Stores of the stream class (R244). -/
  stream : Bool := false
  /-- A release: what its group holds is published before it (R149, R253). -/
  rel : Bool := false
  /-- The lanes that the fault of an access of the whole group names (R202). -/
  whole : Word := 0
  /-- POL of the instruction (R143). -/
  pol : Nat := 0
  /-- The entry is poisoned (R378). -/
  bad : Bool := false
  deriving DecidableEq, Repr

/-- An `ldasy` piece that has not landed (R156): scratchpad destination, bytes, barrier object, and the source while it waits. -/
structure Piece where
  gid : Nat
  bid : Nat
  dst : Nat
  obj : Nat
  src : Nat
  asid : Nat
  size : Nat
  stream : Bool
  data : Option (List Byte)
  lane : Nat := 0
  pc : DWord := 0
  /-- The place of its source read in the group's program order (R156, R248). -/
  seq : Nat := 0
  /-- GRAIN and POL of the instruction (R143). -/
  grain : Nat := 0
  pol : Nat := 0
  deriving DecidableEq, Repr

/-- A byte of a stream store held below its home (R251): the party that stored it last, the parties whose stores it replaced before they
were published, its place in the order of held stores, whether a release wrote it, its world, the instruction and lane (R158), and the lanes that
the fault of a uniform store names (R202). -/
structure Held where
  val : Byte
  party : Nat
  others : List Nat := []
  seq : Nat := 0
  release : Bool := false
  world : Nat := 0
  pc : DWord := 0
  lane : Nat := 0
  whole : Word := 0
  /-- Its sector of the L1 is poisoned (R378). -/
  bad : Bool := false
  deriving DecidableEq, Repr

/-- A line's copy in an L1 (R298, R300): the 16-byte sectors it holds, the lease end and write timestamp it was granted, its place in the
order of fills, and a mask of its poisoned sectors (R378). -/
structure L1Line where
  data : SMap (BitVec 128) := []
  lease : Nat := 0
  wts : Nat := 0
  seq : Nat := 0
  bad : Nat := 0
  deriving DecidableEq, Repr

/-- An event that waits at a mast core beside those of groups (R328): code, block identity fields, DETAIL. -/
structure CoreEvent where
  code : Nat
  bid : Nat
  sp : Nat
  slot : Nat
  addr : DWord
  detail : DWord
  pc : DWord
  deriving DecidableEq, Repr

/-- What a stalled mast core waits for (R229, R236-R238, R406). -/
inductive CoreWait where
  | nothing
  | sleep (until_ : Option Nat)
  /-- An instruction that stalls in place and issues again (`fence`, `tlwait`, `gsave`): events wait (R406). -/
  | retry
  | halt (gids : List Nat)
  | scan (set until_ reg : Nat)
  | saving (bid : Nat)
  deriving DecidableEq, Repr

/-- A mast core (R24-R28, R208, R213, R235, R322, R331). -/
structure Mast where
  pc : DWord := 0
  s : SMap Word := []
  k : Word := 0
  depth : Nat := 0
  ie : Bool := false
  priv : Bool := true
  mcode : Word := 0
  minfo : Word := 0
  mentry : Word := 0
  mfree0 : Word := 0
  mfree1 : Word := 0
  mgrp : Word := 0
  mlane : Word := 0
  mprio : Word := 0
  msave : Word := 0
  mtime : Word := 0
  merr : Word := 0
  sram : SMap Byte := []
  /-- The poisoned 8-byte granules of its SRAM, by number (R378). -/
  bad : SMap Bool := []
  stack : List DWord := []
  mailbox : List (Nat × List Byte) := []
  ctxs : SMap Ctx := []
  events : List CoreEvent := []
  ownFault : Option CoreEvent := none
  msix : DWord := 0
  wait : CoreWait := .nothing
  running : Bool := false
  stopped : Bool := false
  /-- The clk of its release (R349). -/
  releasedAt : Nat := 0
  frameDepth : SMap Nat := []
  ts : Nat := 0
  deriving DecidableEq, Repr

/-- A cluster (R24, R176, R240, R251, R298, R324, R345). Scratchpad key: bank × 16384 + byte; `l1held` key: ASID × 2^56 + address; `l1`
key: ASID × 2^49 + line. `spTs` is the timestamp of the cluster's scratchpad accesses (R245). -/
structure Cluster where
  mast : Mast := {}
  ctb : List CtbEntry := []
  scratch : SMap Byte := []
  poison : SMap Bool := []
  spWorld : SMap Nat := []
  bankWorld : SMap Nat := []
  engines : SMap MatEngine := []
  l1held : SMap Held := []
  l1 : SMap L1Line := []
  spTs : Nat := 0
  bgen : Nat := 0
  /-- By sub-partition × 2 + pipe (1 the uniform one): the active slot that the pipe last issued from, and the clk after that issue (R290). -/
  pipes : SMap (Nat × Nat) := []
  sideLogs : SMap (List SideLog) := []
  pieces : List Piece := []
  /-- After a failed scan the dispatcher places nothing here (R412); held in reset after retirement (R400). -/
  closed : Bool := false
  inReset : Bool := false
  /-- Group slots (sub-partition × 32 + slot) that a save of REASON 2 or 3 vacated, each with its block (R352). -/
  barred : List (Nat × Nat) := []
  deriving DecidableEq, Repr

/-- A leaf as a port holds it (R306, R308): frame of the 4 KiB page, RES, permissions, type, remote owner. -/
structure Leaf where
  pa : Nat
  psize : Nat
  res : Nat
  sealed_ : Bool
  x : Bool
  w : Bool
  rd : Bool
  remote : Option Nat
  entry : Nat
  deriving DecidableEq, Repr

/-- An entry of a memory port's TLB (R308): the ASID and first address of the page, and its leaf. -/
structure TlbEntry where
  asid : Nat
  va : Nat
  leaf : Leaf
  deriving DecidableEq, Repr

/-- An entry of a die's fault buffer (R311, R315). -/
structure FbEntry where
  seq : Nat
  asid : Nat
  page : Nat
  cause : Nat
  flags : Nat
  count : Nat
  origin : Nat
  clk : Nat
  resolved : Bool
  psize : Nat := 4096
  /-- Origins of the module's own accesses that have joined: each joins once, however often it is tried again (log entry 142). -/
  once : List Nat := []
  deriving DecidableEq, Repr

/-- A running swap pair (R317, R318): ASIDs and pages of H and C, lines, lines already exchanged. -/
structure Swap where
  asidH : Nat
  vaH : Nat
  asidC : Nat
  vaC : Nat
  paH : Nat
  paC : Nat
  entryH : Nat
  entryC : Nat
  lines : Nat
  done : Nat
  deriving DecidableEq, Repr

/-- A die: memory-system control page (R310), fault unit, port TLBs, reliability page (R382-R384, R398). -/
structure Die where
  msctl : DWord := 0x40
  fbbase : DWord := 0
  fbhead : DWord := 0
  fbtail : DWord := 0
  msstat : DWord := 0
  fbovf : DWord := 0
  invaddr : DWord := 0
  invlen : DWord := 0
  /-- A running maintenance operation: OP, ASID, INVADDR, INVLEN (R312). -/
  inv : Option (Nat × Nat × Nat × Nat) := none
  bplidx : DWord := 0
  asidbase : DWord := 0
  swapcnt : DWord := 0
  squashcnt : DWord := 0
  victq : List DWord := []
  eccq : List DWord := []
  /-- Uncorrected events that wait at their source for room in the queue, oldest first (R319). -/
  eccWait : List DWord := []
  /-- Corrected errors of each frame, by PA[51:12] (R319). -/
  ceFrames : SMap Nat := []
  bpl0 : List Nat := []
  bpl1 : List Nat := []
  entries : List FbEntry := []
  heldFaults : List FbEntry := []
  swap : Option Swap := none
  /-- By memory port, most recently filled first (R308). -/
  tlb : SMap (List TlbEntry) := []
  /-- ASID-table entries the ports have read (R307): CTRL, ROOT and the twelve range words. -/
  asids : SMap (List Nat) := []
  maxevict : SMap Nat := []
  fictl : DWord := 0
  fidata : DWord := 0
  fiaddr : DWord := 0
  fistat : DWord := 0
  mapbusy : Option Nat := none
  mapresult : Nat := 0
  maps : SMap DWord := []
  counters : SMap DWord := []
  /-- Poisoned scratchpad granules of physical clusters that serve no logical one (R384): cluster × 2^16 + granule. -/
  idlePoison : SMap Bool := []
  deriving DecidableEq, Repr

/-- A launch ring (R429-R431) and the settled indices that RCOUNT has not yet counted (R277). -/
structure Ring where
  rbase : DWord := 0
  rvec : Nat := 0
  enable : Bool := false
  rlog : Nat := 0
  tail : Word := 0
  overrun : Bool := false
  /-- Stopped by an overrun: only RRESET restarts it (R431). -/
  stopped : Bool := false
  lost : Bool := false
  rcount : Nat := 0
  consumed : Nat := 0
  settled : List Nat := []
  /-- The value of an RRESET whose RDIDX and WRIDX are still to be written (R429). -/
  resetTo : Option Nat := none
  deriving DecidableEq, Repr

/-- A tensor record of an image (R74): name, bytes, log2 of its alignment, whether it is sealed. -/
structure TensorRec where
  name : List Byte
  bytes : Nat
  align : Nat
  sealed_ : Bool
  deriving DecidableEq, Repr

/-- A loaded Eweave image (R69, R73, R74): its device address, its kernels, its tensor records. -/
structure Image where
  base : Nat
  kernels : List Kernel
  tensors : List TensorRec := []
  deriving DecidableEq, Repr

/-- A function: its ring page, yard core, counters, shadow pool and world-command page (R266, R267, R273, R367, R396, R428, R440). -/
structure Fn where
  rings : SMap Ring := []
  winbase : DWord := 0
  fasid : DWord := 0
  lastgen : Word := 0
  seq : Nat := 0
  clusters : List Nat := []
  share : Nat := 0
  images : List Image := []
  pool : Nat := 0
  rollbk : DWord := 0
  replay : DWord := 0
  shlost : DWord := 0
  shbase : DWord := 0
  shlen : DWord := 0
  wrec : SMap Byte := []
  /-- The submitted command record (R367). -/
  wcmd : List Byte := []
  wresp : SMap Byte := []
  wbusy : Bool := false
  /-- The clk of its submission, for the mainmast's collections (R373), and how far a command that runs on has come: the lines that SEALINST has
  installed (R366). -/
  wsubAt : Nat := 0
  wprog : Option Nat := none
  wdone : Bool := false
  torn : Bool := false
  /-- What the yard core's reads of launch parameters wait for: the parameter address, ASID and address (R266). -/
  yardWaits : List (Nat × Nat × Nat) := []
  /-- Parameter addresses whose page a RESOLVE failed (R266, R316). -/
  yardFails : List Nat := []
  /-- Replicated launch records that have come and are not yet admitted or refused: ring and bytes (R273). -/
  packets : List (Nat × List Byte) := []
  /-- The status that the last image load returned: whether the image was malformed (R73). -/
  imageBad : Option Bool := none
  dnonce : Nat := 0
  vectors : List Nat := []
  deriving DecidableEq, Repr

/-- A message between the yard cores of one virtual function on several devices (R273-R275, R393). -/
inductive YardMsg where
  | packet (ring : Nat) (record : List Byte)
  | refusal (status : Nat)
  | ready
  | start
  | abort
  | done (retired nfail : Nat)
  | replay
  deriving DecidableEq, Repr

/-- A message that a yard core has sent: function, device it goes to, GEN, content. -/
structure Outgoing where
  fn : Nat
  device : Nat
  gen : Nat
  msg : YardMsg
  deriving DecidableEq, Repr

/-- What another device asks of this device's shared region (R247, R306): the device, 0 nothing, 1 a read, 2 a store, 3 an atomic, the offset, the size in
bytes (of an atomic its SIZE), the operation of an atomic, the data. -/
structure FarReq where
  device : Nat
  kind : Nat
  off : Nat
  size : Nat
  op : Nat
  data : List Byte
  /-- The program timestamp that it carries (R245, R247). -/
  ts : Nat := 0
  deriving DecidableEq, Repr

/-- What this device has answered to another: a fault code or 0, and the bytes read. -/
structure FarAnswer where
  device : Nat
  code : Nat
  data : List Byte
  /-- The timestamp that the access took (R245, R247). -/
  ts : Nat := 0
  deriving DecidableEq, Repr

/-- A live tensor declaration (R362). -/
structure Decl where
  tid : Nat
  ver : Nat
  base : Nat
  bytes : Nat
  frozen : Bool
  deriving DecidableEq, Repr

/-- A protected world (R355, R356, R362, R364, R369-R374). Keys are numbers that no instruction reads.
`seq` is the least SEQ that an authenticated command may carry. -/
structure World where
  alive : Bool := false
  asid : Nat := 0
  ways : Nat := 0
  debugok : Bool := false
  hbperiod : Nat := 0
  nonce : List Byte := []
  kc : Nat := 0
  xts : Nat := 0
  priv : Nat := 0
  ks : Option Nat := none
  kw : Nat := 0
  seq : Nat := 0
  slots : SMap Nat := []
  deadline : Nat := 0
  decls : List Decl := []
  pairs : List (Nat × Nat) := []
  /-- Its teardown has begun and waits for saves in progress (R375). -/
  ending : Bool := false
  deriving DecidableEq, Repr

/-- A home sector: 16 bytes of a line in an L2 slice, its frame, its poison mark and the world whose ways hold it (R298, R359, R380). -/
structure Sector where
  data : BitVec 128
  dirty : Bool
  poison : Bool
  pa : Nat
  world : Nat := 0
  deriving DecidableEq, Repr

/-- How a home slice uses a line (R143): the read budget that RC left, the placement hint of POL (1 first for eviction, 2 kept), the
place of its fill in the order. -/
structure LineUse where
  rc : Nat := 0
  hint : Nat := 0
  seq : Nat := 0
  deriving DecidableEq, Repr

/-- A line in a memory-side cache (R298): its number, which of its 16-byte sectors the cache holds and which of them are dirty, as bit masks. -/
structure MscLine where
  line : Nat
  held : Nat
  dirty : Nat
  deriving DecidableEq, Repr

/-- A line's timestamps at its home (R245): write timestamp and read-lease end. -/
structure LineTs where
  wts : Nat := 0
  lease : Nat := 0
  deriving DecidableEq, Repr

/-- A line's spare bits in memory (R360). `asid` and `va` are the model's own: the name under which the line was sealed (R302). -/
structure Spare where
  mac : DWord := 0
  sealed_ : Bool := false
  asid : Nat := 0
  va : Nat := 0
  deriving DecidableEq, Repr

/-- A fabric link (R421-R425): status fields, the sequence expected, paused channels, flits not acknowledged, replays of one flit. -/
structure Link where
  retries : Nat := 0
  crcerr : Nat := 0
  peer : Nat := 0
  down : Bool := false
  up : Bool := false
  expected : Nat := 0
  paused : List Nat := []
  sent : List Nat := []
  replays : Nat := 0
  retryAsked : Bool := false
  /-- The sequence number of the next flit sent, and the flit last replayed (R422). -/
  next : Nat := 0
  replayed : Option Nat := none
  /-- What the flits on their way to this device carry, in their order: requests for its shared region, or nothing (KIND 0). It is the far end's, an
  input of the model (R247, R306). -/
  arriving : List FarReq := []
  /-- The channels of the flits that a pause keeps from starting, in order (R423). -/
  held : List Nat := []
  deriving DecidableEq, Repr

/-- An Ethernet port (R348). Ring registers: key ring × 8 + 0 BASE, 1 LOG, 2 HEAD, 3 TAIL, 4 VEC. -/
structure Eth where
  linkup : Bool := false
  fec : Bool := false
  emac : DWord := 0
  ectl : DWord := 0
  rings : SMap DWord := []
  pausedPrio : List Nat := []
  sent : List (List Byte) := []
  deriving DecidableEq, Repr

/-- A file as its shard knows it (R347): the drive, the first LBA of its extent, its size in bytes. -/
structure File where
  size : Nat
  drive : Nat
  lba : Nat
  deriving DecidableEq, Repr

/-- An open socket (R334): owner, index, port, EtherType, received frames, recorded calls (key, result, frame). -/
structure Socket where
  owner : Nat
  /-- The launch that opened it: its sockets close at its completion (R334). -/
  lid : Nat
  index : Nat
  port : Nat
  etype : Nat
  frames : List (List Byte) := []
  calls : List (List Nat × Nat × List Byte) := []
  deriving DecidableEq, Repr

/-- A system call in service (R335, R336, R341): the cluster, group, placement generation and lanes that wait, the tag of its CALL message,
and its key: launch, block, group, trap PC, call number and arguments. -/
structure KCall where
  origin : Nat
  gid : Nat
  bgen : Nat
  tag : Nat
  lanes : Word
  redo : Bool
  launch : Nat
  block : Nat
  group : Nat
  pc : Nat
  call : Nat
  args : List Nat
  /-- Its CALL message found the mailbox full and is still to be sent (R343). -/
  unsent : Bool := false
  deriving DecidableEq, Repr

/-- How far an owner has come with a call: it waits for a queue slot, its command or frame is under way, its result is to be sent. -/
inductive ServePhase where
  | waiting
  | command
  | reply
  deriving DecidableEq, Repr

/-- An owner's record of a call in service (R336): REPEAT, the result, the command's slot or the frame's descriptor, and whether its REPLY has found
the mailbox full (R343). -/
structure Served where
  owner : Nat
  call : KCall
  phase : ServePhase := .waiting
  again : Bool := false
  /-- The call as its running command was issued, where a redelivered one has taken its place since. -/
  towards : Option KCall := none
  result : Word := 0
  slot : Nat := 0
  tried : Bool := false
  deriving DecidableEq, Repr

/-- A shard's NVMe I/O queue pair on a drive (R342, R347): 64 entries each way, the expected phase. -/
structure QueuePair where
  tail : Nat := 0
  head : Nat := 0
  phase : Bool := true
  deriving DecidableEq, Repr

/-- The flash image and the straps that a boot reads (R399, R437). -/
structure Flash where
  headerOk : Bool := true
  signatureOk : Bool := true
  yardsOk : Bool := true
  bytes : List Byte := []
  kernel : List Byte := []
  nsh : Nat := 1280
  fshard : List Nat := []
  ethown : List Nat := []
  rcown : Nat := 0
  retired : List Nat := []
  deriving DecidableEq, Repr

/-- Who issues the next instruction: a group on the path at a PC, or a mast core. -/
inductive Agent where
  | nobody
  | group (gid : Nat) (pc : DWord)
  | mast (cl : Nat)
  deriving DecidableEq, Repr

/-- One entry of the agenda: the clk that pass before it, and who moves. -/
inductive Move where
  | issue (dt : Nat) (who : Agent)
  | event (dt : Nat) (i : Instr)
  deriving DecidableEq, Repr

/-- The machine's state. Keys: `mem` physical byte address; `l2` (version × 65536 + ASID) × 2^52 + address / 16; `lineTs` and `dir`
ASID × 2^49 + line; `lineUse` (version × 65536 + ASID) × 2^49 + line; `spare` and `memPoison` physical line and sector; `groups` block id × 32 + %group. -/
structure State where
  clk : Nat := 0
  free : Nat := 0
  order : Nat := 1
  agenda : List Move := []
  cur : Agent := .nobody
  booted : Bool := false
  mem : List Host.Cell := []
  memPoison : SMap Bool := []
  spare : SMap Spare := []
  l2 : SMap Sector := []
  lineTs : SMap LineTs := []
  /-- The largest timestamp that any access has taken (R245). -/
  tsTop : Nat := 0
  /-- The directory of the home slices (R255, R299): the clusters that hold narrow stream stores of a line. -/
  dir : SMap (List Nat) := []
  lineUse : SMap LineUse := []
  /-- The memory-side caches (R298): by stack, the lines held, most recently used first. -/
  msc : SMap (List MscLine) := []
  /-- Lines of other devices at this device's home slices (R251): stream stores held, bytes copied. Key: ASID × 2^56 + address. -/
  devHeld : SMap Held := []
  devCopy : SMap Byte := []
  /-- What this device last read or stored of another's shared region. Key: device × 2^48 + offset (R247). -/
  remote : SMap Byte := []
  /-- What the yard cores have sent to other devices, oldest first (R273-R275). -/
  outbox : List Outgoing := []
  /-- Requests of other devices that wait for their page here, and what has been answered, oldest first (R306, R311). -/
  farWaits : List FarReq := []
  farAnswers : List FarAnswer := []
  /-- Arrivals whose earlier accesses still wait in the side log (R259): object key, group, place in the order. -/
  owes : List (Nat × Nat × Nat) := []
  groups : SMap Group := []
  blocks : SMap Block := []
  launches : SMap Launch := []
  nextBid : Nat := 1
  nextLid : Nat := 1
  clusters : SMap Cluster := []
  dies : SMap Die := []
  fns : SMap Fn := []
  worlds : SMap World := []
  debugOpen : Bool := false
  keyDraws : Nat := 0
  links : SMap Link := []
  routing : SMap DWord := []
  device : Nat := 0
  eth : SMap Eth := []
  rootLinks : SMap DWord := []
  dropcnt : DWord := 0
  urcnt : DWord := 0
  rcctl : DWord := 0
  /-- Namespace 1 of each drive, by byte address; and the files that the shards found there at boot (R347). -/
  drives : SMap (SMap Byte) := []
  files : SMap File := []
  sockets : List Socket := []
  /-- Closed sockets, whose recorded calls still answer a redelivered one (R334). -/
  closedSockets : List Socket := []
  calls : List KCall := []
  /-- The owners' records of calls in service, oldest first (R336); the queue pairs, by owner × 8 + drive (R342). -/
  served : List Served := []
  queues : SMap QueuePair := []
  /-- CALL messages that a shard is to send on and whose owner's mailbox was full, oldest first (R342, R343). -/
  unforwarded : List (Nat × List Byte) := []
  /-- What the shards have done of the boot's steps 3 to 6: shard × 8 + step (R349). -/
  bootWork : List Nat := []
  bootReported : Bool := false
  /-- HEAP and HEAPLEN that the mainmast has given to a logical cluster (R350): they stay with it (R400). -/
  heaps : SMap (Nat × Nat) := []
  readyShards : List Nat := []
  /-- The shards whose spare was booted after a missing READY (R349). -/
  retried : List Nat := []
  fwmeas : List Byte := []
  /-- The data of the last read that a requester outside the module made through BAR 4, the aperture or a root port; `none` where it was
  refused (R345, R346, R428). -/
  reply : Option (List Byte) := none
  phase : Nat := 0
  cause : Nat := 0
  estop : Bool := false
  /-- The clk of the error stop (R439). -/
  estopAt : Nat := 0
  throt : Bool := false
  hostless : Bool := false
  ready : Bool := false
  plimit : DWord := 15000
  /-- The limit of the running window (R439), and the clk in which the last window ended (R434). -/
  limit : DWord := 15000
  windowAt : Nat := 0
  pwr : DWord := 0
  icore : DWord := 0
  tmax : DWord := 0
  ttrip : DWord := 105
  flash : Flash := {}
  deriving DecidableEq, Repr

/-- The machine right after a module reset: every field at the value its rule states, and where none is stated at the value the
assumption log names. -/
def State.reset : State := {}

/-- What stops the model itself. -/
inductive Fault where
  /-- Raised by a mast core's load, store or fetch whose physical address R304 calls reserved: the spec gives no outcome
  of an access there. Safe: the model stops where the hardware does something unstated. -/
  | reservedPhysicalAddress
  deriving DecidableEq, Repr

/-- Why an instruction has no meaning. -/
inductive Refusal where
  /-- Raised by a dispatch arm whose instruction has no meaning yet. Safe: nothing is claimed of it. -/
  | notModelled (mnemonic : String)
  deriving DecidableEq, Repr

/-- The outcome of a step. -/
abbrev Out := Host.Outcome State Fault Refusal

end Sys2Proof.Machine
end

