-- ==== Sys2Proof/Machine/Ops.lean ====
section
/-!
DEFINITION. The named operations over registers, groups and mast cores; raising a group's fault or event (R330); delivering an
event to a mast core (R326, the ONE operation that takes an exception) and the return from it (R233 mode 0).
-/
namespace Sys2Proof.Machine
open Sys2Proof

/-! ### Objects of the state -/

/-- Changes group gid. -/
def State.updG (s : State) (gid : Nat) (f : Group → Group) : State := { s with groups := upd s.groups gid f }
/-- Changes block bid. -/
def State.updB (s : State) (bid : Nat) (f : Block → Block) : State := { s with blocks := upd s.blocks bid f }
/-- Changes launch lid. -/
def State.updL (s : State) (lid : Nat) (f : Launch → Launch) : State := { s with launches := upd s.launches lid f }
/-- Logical cluster c. -/
def State.cluster (s : State) (c : Nat) : Cluster := getD s.clusters c {}
/-- Changes logical cluster c. -/
def State.updC (s : State) (c : Nat) (f : Cluster → Cluster) : State := { s with clusters := setD s.clusters c (f (s.cluster c)) {} }
/-- The mast core of logical cluster c. -/
def State.mast (s : State) (c : Nat) : Mast := (s.cluster c).mast
/-- Changes the mast core of cluster c. -/
def State.updM (s : State) (c : Nat) (f : Mast → Mast) : State := s.updC c fun k => { k with mast := f k.mast }
/-- Die d. -/
def State.die (s : State) (d : Nat) : Die := getD s.dies d {}
/-- Changes die d. -/
def State.updD (s : State) (d : Nat) (f : Die → Die) : State := { s with dies := setD s.dies d (f (s.die d)) {} }
/-- Function f (0-15 virtual, 16 physical). -/
def State.fn (s : State) (f : Nat) : Fn := getD s.fns f {}
/-- Changes function f. -/
def State.updF (s : State) (n : Nat) (f : Fn → Fn) : State := { s with fns := setD s.fns n (f (s.fn n)) {} }
/-- World w. -/
def State.world (s : State) (w : Nat) : World := getD s.worlds w {}
/-- Changes world w. -/
def State.updW (s : State) (w : Nat) (f : World → World) : State := { s with worlds := setD s.worlds w (f (s.world w)) {} }

/-- The block of a group. -/
def State.blockOf (s : State) (g : Group) : Option Block := find s.blocks g.bid
/-- The launch of a block. -/
def State.launchOf (s : State) (b : Block) : Option Launch := find s.launches b.lid
/-- The launch of a group. -/
def State.launchOfG (s : State) (g : Group) : Option Launch := (s.blockOf g).bind s.launchOf
/-- The variant under which a block is placed (R70, R71). -/
def Launch.variantOf (l : Launch) (b : Block) : Variant := (find l.kernel.variants b.variant).getD {}
/-- The current variant of a group, the smallest budget where none is known. -/
def State.variantOf (s : State) (g : Group) : Variant :=
  match s.blockOf g with
  | some b => match s.launchOf b with
    | some l => l.variantOf b
    | none => {}
  | none => {}
/-- The world of a group's launch (R355). -/
def State.worldOf (s : State) (g : Group) : Nat := match s.launchOfG g with | some l => l.record.world | none => 0
/-- The ASID of a group's launch (R301, R440). -/
def State.asidOf (s : State) (g : Group) : Nat := match s.launchOfG g with | some l => l.asid | none => 0
/-- The groups of a block, ascending. -/
def State.groupsOf (s : State) (bid : Nat) : List (Nat × Group) := s.groups.filter fun e => e.2.bid = bid
/-- The matrix engine of a sub-partition (R176). -/
def State.engine (s : State) (c sp : Nat) : MatEngine := getD (s.cluster c).engines sp {}
/-- Changes the matrix engine of a sub-partition. -/
def State.updEngine (s : State) (c sp : Nat) (f : MatEngine → MatEngine) : State :=
  s.updC c fun k => { k with engines := setD k.engines sp (f (getD k.engines sp {})) {} }
/-- The die and the physical cluster index on it of logical cluster c (R398). -/
def State.physOf (s : State) (c : Nat) : Nat × Nat :=
  let d := c / 80
  let n := c % 80 / 8
  (d, 9 * n + bits (getD (s.die d).maps n 0#64).toNat (4 * (c % 8) + 3) (4 * (c % 8)))
/-- Adds 1 to a 32-bit half of a counter word of a cluster's counters (R383), saturating. -/
def State.countHalf (s : State) (c word half : Nat) : State :=
  let (d, p) := s.physOf c
  s.updD d fun x =>
    let v := (getD x.counters (p * 8 + word) 0#64).toNat
    let h := if half = 0 then v % 2 ^ 32 else v / 2 ^ 32
    let h' := min (h + 1) (2 ^ 32 - 1)
    { x with counters := setD x.counters (p * 8 + word) (BitVec.ofNat 64 (if half = 0 then v / 2 ^ 32 * 2 ^ 32 + h' else h' * 2 ^ 32 + v % 2 ^ 32)) 0#64 }
/-- Adds 1 to a whole counter word, saturating. -/
def State.countWord (s : State) (c word : Nat) : State :=
  let (d, p) := s.physOf c
  s.updD d fun x =>
    let v := getD x.counters (p * 8 + word) 0#64
    { x with counters := setD x.counters (p * 8 + word) (if v = BitVec.allOnes 64 then v else v + 1#64) 0#64 }
/-- A fresh free value (log entry 3) and the state that has spent it. -/
def State.fresh (s : State) : DWord × State := (Config.freeValue s.free, { s with free := s.free + 1 })

/-! ### Registers of a group (R8, R13) -/

/-- v[r] of lane l. -/
def Group.vreg (g : Group) (l r : Nat) : Word := getD g.v (l * 64 + r) 0#32
/-- Writes v[r] of lane l. -/
def Group.setV (g : Group) (l r : Nat) (x : Word) : Group := { g with v := setD g.v (l * 64 + r) x 0#32 }
/-- s[r]. -/
def Group.sreg (g : Group) (r : Nat) : Word := getD g.s r 0#32
/-- Writes s[r]. -/
def Group.setS (g : Group) (r : Nat) (x : Word) : Group := { g with s := setD g.s r x 0#32 }
/-- Predicate p[n] of every lane; p7 reads true (R11). -/
def Group.preds (g : Group) (n : Nat) : Word := if n = 7 then BitVec.allOnes 32 else getD g.p n 0#32
/-- Writes predicate p[n] of the lanes of m; p7 is discarded (R11). -/
def Group.setPreds (g : Group) (n : Nat) (m vals : Word) : Group :=
  if n = 7 then g else { g with p := setD g.p n ((getD g.p n 0#32 &&& ~~~m) ||| (vals &&& m)) 0#32 }
/-- k[n]; k7 reads true (R11). -/
def predOf (k : Word) (n : Nat) : Bool := n = 7 || k.getLsbD n
/-- k with bit n written; k7 is discarded (R11). -/
def setPredOf (k : Word) (n : Nat) (b : Bool) : Word :=
  if n = 7 then k else (k &&& ~~~laneBit n) ||| (if b then laneBit n else 0#32)
/-- PC of lane l. -/
def Group.pcOf (g : Group) (l : Nat) : DWord := getD g.pc l 0#64
/-- A 64-bit value as a PC: bits [63:56] and [1:0] of a PC are 0 (R13). -/
def asPc (x : DWord) : DWord := x &&& 0x00FFFFFFFFFFFFFC#64
/-- Sets the PC of the lanes of m. -/
def Group.setPc (g : Group) (m : Word) (x : DWord) : Group :=
  { g with pc := (lanesOf m).foldl (fun p l => setD p l x 0#64) g.pc }
/-- Meeting register of lane l (R13). -/
def Group.meetOf (g : Group) (l : Nat) : DWord := getD g.meet l (BitVec.allOnes 64)
/-- Writes the meeting register of lane l. -/
def Group.setMeet (g : Group) (l : Nat) (x : DWord) : Group := { g with meet := setD g.meet l x (BitVec.allOnes 64) }
/-- Return stack of lane l, oldest entry first (R13). -/
def Group.stackOf (g : Group) (l : Nat) : List DWord := getD g.stack l []
/-- Writes the return stack of lane l. -/
def Group.setStack (g : Group) (l : Nat) (x : List DWord) : Group := { g with stack := setD g.stack l x [] }
/-- Spill depth of lane l. -/
def Group.spillOf (g : Group) (l : Nat) : Nat := getD g.spill l 0
/-- Writes the spill depth of lane l. -/
def Group.setSpill (g : Group) (l : Nat) (x : Nat) : Group := { g with spill := setD g.spill l x 0 }
/-- Why lane l is held. -/
def Group.holdOf (g : Group) (l : Nat) : Hold := getD g.hold l .free
/-- Holds the lanes of m. -/
def Group.setHold (g : Group) (m : Word) (h : Hold) : Group :=
  { g with hold := (lanesOf m).foldl (fun p l => setD p l h .free) g.hold }
/-- Rejoin register j[n] (R16). -/
def Group.rejoin (g : Group) (n : Nat) : Rejoin := getD g.j n {}
/-- Writes rejoin register j[n]. -/
def Group.setRejoin (g : Group) (n : Nat) (x : Rejoin) : Group := { g with j := setD g.j n x {} }
/-- Tile word: tile t, row, word (R12). -/
def Group.tileWord (g : Group) (t row w : Nat) : Word := getD g.tile (t * 1024 + row * 32 + w) 0#32
/-- Writes a tile word. -/
def Group.setTile (g : Group) (t row w : Nat) (x : Word) : Group := { g with tile := setD g.tile (t * 1024 + row * 32 + w) x 0#32 }
/-- Byte i of row `row` of tile t. -/
def Group.tileByte (g : Group) (t row i : Nat) : Byte := byteAt (g.tileWord t row (i / 4)).toNat (i % 4)
/-- Writes a whole row of a tile from 32 words. -/
def Group.setTileRow (g : Group) (t row : Nat) (ws : List Word) : Group :=
  (List.range 32).foldl (fun g w => g.setTile t row w (ws.getD w 0#32)) g
/-- The lanes that have not exited. -/
def Group.live (g : Group) : Word := ~~~g.exited
/-- The issued lanes I of an issue at P (R98): not exited, at P, not held. -/
def Group.issued (g : Group) (P : DWord) : Word :=
  maskOf fun l => !g.exited.getLsbD l && g.pcOf l == P && g.holdOf l == .free
/-- Sets sticky bit b of %gstat (R22). -/
def Group.sticky (g : Group) (b : Nat) : Group := { g with gstat := g.gstat ||| laneBit b }

/-- The sticky bits of %gstat (R22). -/
def stXmask : Nat := 0
/-- TDROP -/
def stTdrop : Nat := 2
/-- ENQFULL -/
def stEnqfull : Nat := 3
/-- RSPILL -/
def stRspill : Nat := 4
/-- VSWITCH -/
def stVswitch : Nat := 5
/-- SLICED -/
def stSliced : Nat := 6
/-- CKFIX -/
def stCkfix : Nat := 7

/-- The value of v[r] of lane l that an operand read sees: a pending transient result first (R56, R101); of two that name the register and the lane the
newer (DESIGN CHOICE, log entry 161). -/
def Group.readV (g : Group) (l r : Nat) : Word :=
  match g.transient.find? fun t => t.reg = r && t.lanes.getLsbD l with
  | some t => getD t.vals l 0#32
  | none => g.vreg l r

/-- The transient entries after one more lane-set instruction has issued (R56). -/
def Group.tickTransient (g : Group) : Group :=
  { g with transient := (g.transient.map fun t => { t with left := t.left - 1 }).filter fun t => t.left ≠ 0 }

/-- Discards every pending transient result and sets TDROP if there was one (R22, R56). -/
def Group.dropTransient (g : Group) : Group :=
  if g.transient.isEmpty then g else { g with transient := [] }.sticky stTdrop

/-- The matrix instructions whose result goes to a vector register (R54). -/
def matResult : Instr → Bool
  | .acpyReg _ => true
  | .acpyStat _ => true
  | .tmovGet _ => true
  | _ => false

/-- The matrix instructions that access memory or scratchpad from the pipe (R181). -/
def matMem : Instr → Bool
  | .mldwMem _ => true
  | .acpyMem _ => true
  | .tst _ => true
  | .tstsh _ => true
  | _ => false

/-- Whether an access of the matrix pipe has not been performed; later accesses of the group stall behind it (R142, R181). -/
def Group.pipeMem (g : Group) : Bool := g.pipe.any fun w => matMem w.instr

/-- Whether a long-latency result is outstanding (R55): on its way, parked, in the matrix pipe, or an entry that `qrd` reserved (R227). -/
def Group.outstanding (g : Group) : Bool :=
  !g.pending.isEmpty || !g.replay.isEmpty || g.awaits != 0 || g.pipe.any fun w => matResult w.instr

/-- The lanes of a group as a numbered list, for a value per lane. -/
def perLane (m : Word) (f : Nat → Word) : SMap Word := (lanesOf m).map fun l => (l, f l)

/-! ### Lanes that exit, and holds that end (R121, R124, R131) -/

/-- Whether the members of a rejoin register are all held at a `wait` on it. -/
def Group.allHeld (g : Group) (n : Nat) : Bool :=
  (lanesOf (g.rejoin n).mask).all fun l => g.holdOf l == .wait n

/-- The release of R124 for register n: members resume after their `wait` and get their meeting address back. -/
def Group.releaseOne (g : Group) (n : Nat) : Group :=
  let r := g.rejoin n
  if r.mask ≠ 0#32 ∧ g.allHeld n then
    let g' := (lanesOf r.mask).foldl (fun g l =>
      (({ g with pc := setD g.pc l (asPc (g.pcOf l + 4#64)) 0#64 }).setMeet l r.addr).setHold (laneBit l) .free) g
    g'.setRejoin n {}
  else g

/-- The release check of R124 over all rejoin registers. -/
def Group.release (g : Group) : Group := (List.range 16).foldl Group.releaseOne g

/-- Takes the lanes of m out of every rejoin mask; a mask that becomes 0 frees its register (R121, R124). -/
def Group.leaveRejoin (g : Group) (m : Word) : Group :=
  (List.range 16).foldl (fun g n =>
    let r := g.rejoin n
    let k := r.mask &&& ~~~m
    if r.mask = 0#32 then g else g.setRejoin n (if k = 0#32 then {} else { r with mask := k })) g

/-- Makes the lanes of m exited: helpers lose their flag, rejoin masks lose them, waits are released (R100, R121). -/
def Group.exitLanes (g : Group) (m : Word) : Group :=
  (({ g with exited := g.exited ||| m, helper := g.helper &&& ~~~m }).setHold m .free).leaveRejoin m |>.release

/-! ### Raising a fault or an event of a group (R100, R158, R230, R330) -/

/-- A fault record from its parts. -/
def faultRec (code : Nat) (lanes : Word) (pc : DWord) (addr detail : DWord) (clk : Nat) : FaultRec :=
  { code := code, lanes := lanes, pc := pc, addr := addr, detail := detail, value := addr.setWidth 32, halts := false, clk := clk }

/-- Posts an event whose lanes stay at P: the lanes are held with `resume` as the PC that `mret` mode 1 gives them. A group holds at
most one undelivered event: a path that raises another stalls, and nothing changes (R329). -/
def State.post (s : State) (gid : Nat) (r : FaultRec) (resume : DWord) : State :=
  s.updG gid fun g =>
    match g.event with
    | some _ => g
    | none => { g with event := some r, lastFault := some r }.setHold r.lanes (.event r.code resume false)

/-- A precise fault of the issuing path (R100, R202, R330): code, faulting lanes, P, ADDR, detail. -/
def State.raise (s : State) (gid code : Nat) (lanes : Word) (P addr detail : DWord) : State :=
  s.post gid (faultRec code lanes P addr detail s.clk) P

/-- Whether a save that sets a block aside has begun: no lane of it is held any more, nor held anew (R352). -/
def State.leaving (s : State) (bid : Nat) : Bool :=
  match find s.blocks bid with
  | some b => (match b.saving with | some (reason, _) => decide (reason < 5) | none => false)
  | none => false

/-- A fault found after issue (R158, R200): the group is halted, and the lanes are held at the PC where they stand; a second one waits. -/
def State.raiseLate (s : State) (gid code : Nat) (lanes : Word) (P addr detail : DWord) : State :=
  let r := { faultRec code lanes P addr detail s.clk with halts := true }
  let s1 := s.updG gid fun g =>
    let lanes' := lanes &&& g.live
    let g := { g with halted := true }
    match g.event with
    | some _ => { g with late := g.late ++ [r] }
    | none => (if s.leaving (gid / 32) then [] else lanesOf lanes').foldl (fun g l => g.setHold (laneBit l) (.event code (g.pcOf l) false))
        { g with event := some r, lastFault := some r }
  s1.updB (gid / 32) fun b => if b.saving.isSome then { b with nested := b.nested ++ [(gid % 32, r)] } else b

/-- Marks a block's gang error-struck with a code (R386); the first mark stands. -/
def State.strike (s : State) (bid code : Nat) : State :=
  match find s.blocks bid with
  | none => s
  | some b => { s with blocks := s.blocks.map fun e =>
      if e.2.lid = b.lid ∧ e.2.gang = b.gang ∧ e.2.struck.isNone then (e.1, { e.2 with struck := some (code, s.clk) }) else e }

/-! ### The mast core's memory and registers (R25, R322) -/

/-- n bytes of private SRAM from an offset. -/
def Mast.rd (m : Mast) (off n : Nat) : Nat := ofBytes ((List.range n).map fun i => getD m.sram (off + i) 0#8)
/-- Whether n bytes of private SRAM touch a poisoned granule (R381). -/
def Mast.badAt (m : Mast) (off n : Nat) : Bool := m.bad.any fun (e : Nat × Bool) => decide (e.1 * 8 < off + n) && decide (off < e.1 * 8 + 8)
/-- The marks left once n bytes are written: a granule whose every byte is written loses its own (R380). -/
def Mast.healed (m : Mast) (off n : Nat) : SMap Bool := delIf m.bad fun k => decide (off ≤ k * 8) && decide (k * 8 + 8 ≤ off + n)
/-- Writes n bytes of private SRAM. -/
def Mast.wr (m : Mast) (off n x : Nat) : Mast :=
  { m with sram := (List.range n).foldl (fun r i => setD r (off + i) (byteAt x i) 0#8) m.sram, bad := m.healed off n }
/-- Writes a list of bytes of private SRAM. -/
def Mast.wrBytes (m : Mast) (off : Nat) (bs : List Byte) : Mast :=
  { m with sram := ((List.range bs.length).foldl (fun r i => setD r (off + i) (bs.getD i 0#8) 0#8) m.sram), bad := m.healed off bs.length }
/-- s[r] of the mast core. -/
def Mast.sreg (m : Mast) (r : Nat) : Word := getD m.s r 0#32
/-- Writes s[r] of the mast core. -/
def Mast.setS (m : Mast) (r : Nat) (x : Word) : Mast := { m with s := setD m.s r x 0#32 }

/-- An event record's content (R327); `sync` marks the core's own fault, `grp` an event of a group. -/
structure Ev where
  code : Nat
  sync : Bool := false
  grp : Bool := false
  sp : Nat := 0xFF
  slot : Nat := 0
  halted : Bool := false
  sliced : Bool := false
  lanes : Word := 0#32
  pc : DWord := 0#64
  addr : DWord := 0#64
  detail : DWord := 0#64
  launch : Word := 0#32
  block : Nat := 0
  group : Nat := 0
  world : Nat := 0
  bgen : Nat := 0
  save : Nat := 0
  value : Word := 0#32
  deriving DecidableEq, Repr

/-- The 64 bytes of an event record (R327). -/
def Ev.record (e : Ev) (clk : Nat) : List Byte :=
  toBytes 1 e.code ++ toBytes 1 e.sp ++ toBytes 1 e.slot
  ++ toBytes 1 ((if e.sync then 1 else 0) + (if e.halted then 2 else 0) + (if e.sliced then 4 else 0))
  ++ toBytes 4 e.lanes.toNat ++ toBytes 8 e.pc.toNat ++ toBytes 8 e.addr.toNat ++ toBytes 8 e.detail.toNat
  ++ toBytes 4 e.launch.toNat ++ toBytes 4 e.block ++ toBytes 4 e.group ++ toBytes 1 e.world ++ toBytes 1 0
  ++ toBytes 2 (e.bgen % 2 ^ 14) ++ toBytes 8 e.save ++ toBytes 8 clk

/-- TAKING AN EXCEPTION (R326): the resume entry and the record are written, events are masked, the core is privileged one level
deeper, MCODE, MINFO (and for a group's event MGRP, MLANE) are written, and the PC goes to the entry of the code. -/
def Mast.take (m : Mast) (e : Ev) (resume : DWord) (clk : Nat) : Mast :=
  let re := 0x3EB00 + 0x10 * m.depth
  let m1 := m.wr re 8 resume.toNat
  let m2 := m1.wr (re + 8) 8 ((if m.priv then 1 else 0) + (if m.ie then 2 else 0))
  let m3 := m2.wrBytes (0x3EC00 + 0x40 * m.depth) (e.record clk)
  { m3 with
    ie := false, priv := true, depth := m.depth + 1
    mcode := BitVec.ofNat 32 e.code, minfo := e.value
    mgrp := if e.grp then BitVec.ofNat 32 (e.sp + 4 * e.slot) else m.mgrp
    mlane := if e.grp then e.lanes else m.mlane
    pc := (m.mentry.setWidth 64) + BitVec.ofNat 64 (16 * e.code)
    wait := .nothing }

/-- THE RETURN (R233 mode 0) through resume entry DEPTH - 1; the trap frames of the level are free again (R331). Only for DEPTH > 0. The
entry's RPC is taken whole, also where its bits [1:0] are not 0 (DESIGN CHOICE, log entry 162). -/
def Mast.ret0 (m : Mast) : Mast :=
  let d := m.depth - 1
  let re := 0x3EB00 + 0x10 * d
  let fl := m.rd (re + 8) 1
  { m with pc := BitVec.ofNat 64 (m.rd re 8), priv := bit fl 0, ie := bit fl 1, depth := d
           frameDepth := m.frameDepth.filter fun e => e.2 < m.depth }

/-- Stops a mast core (R332): MERR.STOPPED, the undelivered events of the cluster withdrawn, every resident gang error-struck. -/
def State.stopMast (s : State) (c : Nat) : State :=
  let s1 : State := s.updM c fun m => { m with stopped := true, merr := m.merr ||| laneBit 9, events := [] }
  let s2 : State := { s1 with groups := s1.groups.map fun (e : Nat × Group) => if e.2.cluster = c then (e.1, { e.2 with event := none, late := [] }) else e }
  s2.blocks.foldl (fun (s : State) (e : Nat × Block) => if e.2.cluster = c ∧ e.2.phase = .resident then s.strike e.1 0x42 else s) s2

/-- A synchronous fault of the mast core's own instruction (R326, R332): delivered at once whatever IE holds, with the faulting PC as
resume PC; at DEPTH 15 the core stops. -/
def State.mastFault (s : State) (c code : Nat) (addr detail : DWord) : State :=
  let m := s.mast c
  if m.depth ≥ 15 then s.stopMast c
  else s.updM c fun m => m.take { code := code, sync := true, pc := m.pc, addr := addr, detail := detail, value := addr.setWidth 32 } m.pc s.clk

/-- The trap frame of R230 (protected worlds: the register area as zeros, R358). -/
def trapFrame (g : Group) (r : FaultRec) (mgrp : Word) (world : Nat) : List Byte :=
  toBytes 4 (g.sreg 0).toNat ++ toBytes 4 r.lanes.toNat ++ toBytes 4 r.value.toNat ++ toBytes 4 mgrp.toNat
  ++ toBytes 8 r.pc.toNat ++ toBytes 8 0
  ++ (List.range 6).flatMap (fun i => (List.range 32).flatMap fun l =>
      toBytes 4 (if world = 0 ∧ r.lanes.getLsbD l then (g.vreg l i).toNat else 0))
  ++ toBytes 224 0

/-- The event record of a group's event (R327, R358). -/
def State.groupEv (s : State) (g : Group) (r : FaultRec) : Ev :=
  let w := s.worldOf g
  let b := s.blockOf g
  { code := r.code, grp := true, sp := g.sp, slot := g.slot, halted := r.halts || g.halted
    sliced := g.gstat.getLsbD stSliced, lanes := r.lanes, pc := r.pc
    addr := if w = 0 then r.addr else r.addr &&& ~~~0xFFF#64
    detail := if w = 0 then r.detail else 0#64
    launch := match s.launchOfG g with | some l => l.lid | none => 0#32
    block := match b with | some b => b.blk | none => 0
    group := g.num, world := w
    bgen := match b with | some b => b.bgen | none => 0
    save := match b with | some b => b.save | none => 0
    value := if r.code = 0x50 ∨ r.code = 0x51 then r.value else if w = 0 then r.value else r.value &&& ~~~0xFFF#32 }

/-- What a pending event of a cluster is (R328, R329). -/
inductive EvSrc where
  | none
  | group (gid : Nat)
  | core (idx : Nat)
  | mailbox
  | io
  | timer
  deriving DecidableEq, Repr

/-- The rank of a group's event code among the classes of R329. -/
def evClass (code : Nat) : Nat := if code < 0x50 then 2 else 4

/-- The pending group event of least rank (class, SP, SLOT) that may be delivered: a trap waits for its frame (R331). -/
def State.bestGroup (s : State) (c : Nat) : Option (Nat × Nat × Nat) :=
  let m := s.mast c
  s.groups.foldl (fun best e =>
    match e.2.event with
    | some r =>
      let ok := e.2.cluster = c && !((r.code = 0x50 || r.code = 0x51) && (find m.frameDepth e.2.sp).isSome)
      let rank := evClass r.code * 1024 + e.2.sp * 32 + e.2.slot
      if ok then (match best with
        | some (k, gid, cls) => if rank < k then some (rank, e.1, evClass r.code) else some (k, gid, cls)
        | none => some (rank, e.1, evClass r.code)) else best
    | none => best) none

/-- The next event to deliver at cluster c in the order of R329 (own faults are delivered at once). -/
def State.nextEvent (s : State) (c : Nat) : EvSrc :=
  let m := s.mast c
  let g := s.bestGroup c
  let place (e : CoreEvent) : Nat := e.sp * 32 + e.slot
  let coreIdx := m.events.findIdx? fun (e : CoreEvent) => m.events.all fun (x : CoreEvent) => decide (place e ≤ place x)
  match g, coreIdx with
  | some (_, gid, 2), _ => .group gid
  | _, some i => .core i
  | some (_, gid, _), none => .group gid
  | none, none =>
    if m.mailbox ≠ [] then .mailbox
    else if m.msix ≠ 0#64 then .io
    else if m.mtime ≠ 0#32 ∧ m.mtime.toNat ≤ s.clk then .timer
    else .none

/-- The fault of an error-struck gang has been delivered (R387): the time to its kill runs from the first delivery. -/
def State.warn (s : State) (bid : Nat) : State :=
  match find s.blocks bid with
  | none => s
  | some b => { s with blocks := s.blocks.map fun e =>
      if e.2.lid = b.lid ∧ e.2.gang = b.gang ∧ e.2.struck.isSome ∧ e.2.warned.isNone then (e.1, { e.2 with warned := some s.clk }) else e }

/-- Delivers the next event at a mast core, if IE = 1 and DEPTH < 15 (R326). -/
def State.deliverNext (s : State) (c : Nat) : State :=
  let m := s.mast c
  if !m.ie || m.depth ≥ 15 || m.stopped || !m.running then s
  else
    match s.nextEvent c with
    | .none => s
    | .group gid =>
      match find s.groups gid with
      | none => s
      | some g =>
        match g.event with
        | none => s
        | some r =>
          let e := s.groupEv g r
          let trapLike := r.code = 0x50 || r.code = 0x51
          let s1 := s.updM c fun m =>
            let m := if trapLike then
                { m.wrBytes (0x3F000 + 0x400 * g.sp) (trapFrame g r (BitVec.ofNat 32 (e.sp + 4 * e.slot)) e.world) with
                  frameDepth := put m.frameDepth g.sp (m.depth + 1) }
              else m
            m.take e m.pc s.clk
          let s2 := if r.code < 0x50 then (s1.updB g.bid fun b => { b with told := put b.told g.num r }).warn g.bid else s1
          s2.updG gid fun g =>
            let g1 : Group := { g with event := none, hold := g.hold.map fun (h : Nat × Hold) =>
              match h.2 with
              | .event c p false => if r.lanes.getLsbD h.1 then (h.1, .event c p true) else h
              | x => (h.1, x) }
            -- a late fault that waited now takes its place
            match g1.late with
            | [] => g1
            | r2 :: rest => (if s.leaving g.bid then [] else lanesOf (r2.lanes &&& g1.live)).foldl
                (fun (g : Group) l => if g.holdOf l == .free then g.setHold (laneBit l) (.event r2.code (g.pcOf l) false) else g)
                { g1 with late := rest, event := some r2, lastFault := some r2 }
    | .core i =>
      match m.events[i]? with
      | none => s
      | some ev =>
        let b := find s.blocks ev.bid
        let l := b.bind s.launchOf
        let e : Ev := { code := ev.code, sp := ev.sp, slot := ev.slot, pc := ev.pc, addr := ev.addr, detail := ev.detail
                        launch := match l with | some l => l.lid | none => 0#32
                        block := match b with | some b => b.blk | none => 0
                        world := match l with | some l => l.record.world | none => 0
                        bgen := match b with | some b => b.bgen | none => 0
                        save := match b with | some b => b.save | none => 0
                        value := ev.addr.setWidth 32 }
        s.updM c fun m => { m with events := m.events.eraseIdx i }.take e m.pc s.clk
    | .mailbox => s.updM c fun m => m.take { code := 0x53 } m.pc s.clk
    | .io => s.updM c fun m => { m with msix := 0#64 }.take { code := 0x55, detail := m.msix } m.pc s.clk
    | .timer => s.updM c fun m => m.take { code := 0x54 } m.pc s.clk

end Sys2Proof.Machine
end

