-- ==== Sys2Proof/Machine/Mem.lean ====
section
/-!
DEFINITION. The memory system below the instructions (R298-R321, R355-R366, R378-R392): translation, the home slices, sealing,
shadow versions, the fault unit, publication of stream stores. Every access of a group, a mast core or an engine ends here.
-/
namespace Sys2Proof.Machine
open Sys2Proof

/-! ### Addresses -/

/-- The shared region is tagged ASID 0 (R301). -/
def inShared (va : Nat) : Bool := va / 2 ^ 48 == 0xFF
/-- The ASID that tags a line (R301). -/
def canonAsid (asid va : Nat) : Nat := if inShared va then 0 else asid
/-- The home slice's die of a line (R299). -/
def homeDie (asid va : Nat) : Nat :=
  (bits va 15 7 ^^^ bits va 24 16 ^^^ bits va 33 25 ^^^ bits va 42 34 ^^^ bits va 51 43 ^^^ bits va 55 52 ^^^ asid % 512) / 32
/-- The home slice of a line on its die (R299): h[4:0]. -/
def homeSlice (asid va : Nat) : Nat :=
  (bits va 15 7 ^^^ bits va 24 16 ^^^ bits va 33 25 ^^^ bits va 42 34 ^^^ bits va 51 43 ^^^ bits va 55 52 ^^^ asid % 512) % 32
/-- The memory port that serves a home slice (R308): four a die, eight slices each (log entry 17). -/
def homePort (asid va : Nat) : Nat := homeSlice asid va / 8
/-- The key of a 16-byte sector in L2: version, ASID, address. -/
def l2key (ver asid va : Nat) : Nat := (ver * 65536 + asid) * 2 ^ 52 + va / 16
/-- The key of a line: of its timestamps, its directory entry and its copy in an L1. -/
def lineKey (asid va : Nat) : Nat := asid * 2 ^ 49 + va / 128
/-- The key of a line of a version in its slice's ways. -/
def wayKey (ver asid va : Nat) : Nat := (ver * 65536 + asid) * 2 ^ 49 + va / 128
/-- Whether a physical address lies in the fast or the capacity tier (R304). -/
def inTier (pa : Nat) : Bool := decide (pa < 0x20000000000) || (decide (0x100000000000 ≤ pa) && decide (pa < 0x1C0000000000))
/-- Whether a physical address lies in the fast tier. -/
def inFast (pa : Nat) : Bool := decide (pa < 0x20000000000)
/-- Whether a physical address lies in device register space (R304). -/
def inDevice (pa : Nat) : Bool := decide (0xF000000000000 ≤ pa) && decide (pa < 0x10000000000000)

/-! ### Physical memory as the memory ports see it -/

/-- The bytes of a number as a 128-bit sector and back. -/
def sectorByte (d : BitVec 128) (i : Nat) : Byte := (d >>> (8 * i)).setWidth 8
/-- A sector with byte i replaced. -/
def setSectorByte (d : BitVec 128) (i : Nat) (b : Byte) : BitVec 128 :=
  (d &&& ~~~((0xFF#128) <<< (8 * i))) ||| ((b.setWidth 128) <<< (8 * i))

/-- A dirty L2 sector whose frame is the sector at pa. -/
def State.dirtyAt (s : State) (pa : Nat) : Option (Nat × Sector) :=
  s.l2.find? fun e => e.2.pa / 16 = pa / 16 && e.2.dirty

/-- A byte at a physical address, as table reads and the module's own reads see it: dirty home copies included (R308). -/
def State.physByte (s : State) (pa : Nat) : Byte :=
  match s.dirtyAt pa with
  | some e => sectorByte e.2.data (pa % 16)
  | none => Memory.read s.mem pa

/-- n bytes at a physical address, little-endian. -/
def State.physRead (s : State) (pa n : Nat) : Nat := ofBytes ((List.range n).map fun i => s.physByte (pa + i))

/-- A byte the module writes at a physical address: memory, and any home copy of the sector. -/
def State.physSetByte (s : State) (pa : Nat) (b : Byte) : State :=
  { s with
    mem := Memory.write s.mem pa b
    l2 := s.l2.map fun (e : Nat × Sector) =>
      if e.2.pa / 16 = pa / 16 then (e.1, { e.2 with data := setSectorByte e.2.data (pa % 16) b }) else e }

/-- Bytes the module writes at a physical address. -/
def State.physWrite (s : State) (pa : Nat) (bs : List Byte) : State :=
  ((List.range bs.length).foldl (fun s i => s.physSetByte (pa + i) (bs.getD i 0#8)) s)

/-! ### The memory-side caches (R298) -/

/-- The lines that one memory-side cache holds: 64 MiB of 128-byte lines. -/
def mscLines : Nat := 524288

/-- Sectors of a line of the fast tier, `mask`, pass through its stack's memory-side cache, to be read or, `dirty`, written back from above.
`mem` holds the value that the cache or else the stack gives, so that a line's leaving the cache changes no byte of it. -/
def State.mscUse (s : State) (pa mask : Nat) (dirty : Bool) : State :=
  if inFast pa then
    let k := pa / 2 ^ 36
    let l := getD s.msc k []
    let old := (l.find? fun e => e.line = pa / 128).getD { line := pa / 128, held := 0, dirty := 0 }
    let new : MscLine := { old with held := old.held ||| mask, dirty := if dirty then old.dirty ||| mask else old.dirty }
    { s with msc := setD s.msc k ((new :: l.filter fun e => e.line != pa / 128).take mscLines) [] }
  else s

/-- A line leaves the memory-side cache (R317). -/
def State.mscDrop (s : State) (pa : Nat) : State :=
  if inFast pa then { s with msc := setD s.msc (pa / 2 ^ 36) ((getD s.msc (pa / 2 ^ 36) []).filter fun e => e.line != pa / 128) [] } else s

/-! ### Page walks (R305-R308) -/

/-- What a walk yields: a leaf, or a fault code and its detail. -/
inductive Walk where
  | leaf (l : Leaf)
  | bad (code detail : Nat)
  deriving DecidableEq, Repr

/-- The detail field of a failed walk (R306). -/
def walkDetail (level : Nat) (malformed : Bool) : Nat := level + (if malformed then 8 else 0)

/-- A walk that ends at a level, at an entry that is not valid or malformed (R306). -/
def Walk.stop (level : Nat) (malformed : Bool) : Walk := .bad 0x10 (walkDetail level malformed)

/-- Whether the sector of a physical address is poisoned where a table read finds it (R321). -/
def State.physPoison (s : State) (pa : Nat) : Bool :=
  match s.dirtyAt pa with
  | some e => e.2.poison
  | none => getD s.memPoison (pa / 16) false

/-- The ASID-table entry (R307), read at the first use after an invalidation by ASID. -/
def State.asidEntry (s : State) (d asid : Nat) : List Nat × State :=
  match find (s.die d).asids asid with
  | some e => (e, s)
  | none =>
    let base := (s.die d).asidbase.toNat + 128 * asid
    let e := s.physRead base 8 :: s.physRead (base + 8) 8 :: (List.range 12).map fun i => s.physRead (base + 32 + 8 * i) 8
    (e, s.updD d fun x => { x with asids := put x.asids asid e })

/-- The world of an ASID (R301, R307): bits [6:2] of CTRL. -/
def asidWorld (e : List Nat) : Nat := bits (e.headD 0) 6 2

/-- A local or remote leaf entry found at a level, checked as R306 says. -/
def State.leafOf (s : State) (e level entry va : Nat) : Walk :=
  if bit e 2 then
    if bits e 50 48 ≠ 0 ∨ bits e 11 5 ≠ 0 ∨ level = 4 ∨ bits e 63 51 = s.device then .stop level true
    else
      let size := if level = 3 then 2 ^ 35 else if level = 2 then 2 ^ 29 else if level = 1 then 2 ^ 21 else 4096
      .leaf { pa := bits e 47 12 * 4096, psize := size, res := 0, sealed_ := false, x := false, w := bit e 4, rd := bit e 3
              remote := some (bits e 63 51), entry := entry }
  else
    let contig := bit e 9
    let size := if level = 3 then 2 ^ 35 else if level = 2 then 2 ^ 29 else if level = 1 then 2 ^ 21
      else if contig then 65536 else 4096
    let idx := bits va 20 12
    let group := entry - 8 * (idx % 16)
    let run := (List.range 16).map fun i => s.physRead (group + 8 * i) 8
    let first := run.headD 0
    let runOk := (List.range 16).all fun i =>
      let x := run.getD i 0
      x % 4096 = first % 4096 && bits x 51 12 = bits first 51 12 + i && bits x 63 52 = 0
    let pa := bits (if contig then first else e) 51 12 * 4096
    if contig && level = 0 && (List.range 16).any fun i => s.physPoison (group + 8 * i) then .bad 0x40 0
    else if bits e 63 52 ≠ 0 ∨ bits e 11 10 ≠ 0 ∨ level = 4 ∨ !inTier pa ∨ (contig ∧ (level ≠ 0 ∨ !runOk)) ∨ pa % size ≠ 0 then .stop level true
    else .leaf { pa := pa, psize := size, res := bits e 8 7, sealed_ := bit e 6, x := bit e 5, w := bit e 4, rd := bit e 3
                 remote := none, entry := entry }

/-- The walk from a table down the levels: (level, lowest index bit, index width) (R305, R306). A poisoned entry gives F_ECC_UNCORRECTED (R321). -/
def State.walkFrom (s : State) (va table : Nat) : List (Nat × Nat × Nat) → Walk
  | [] => .stop 0 true
  | (level, lo, width) :: rest =>
    let entry := table + 8 * (va / 2 ^ lo % 2 ^ width)
    let e := s.physRead entry 8
    if s.physPoison entry then .bad 0x40 0
    else if !bit e 0 then .stop level false
    else if bit e 1 then s.leafOf e level entry va
    else if bits e 63 52 ≠ 0 ∨ bits e 11 2 ≠ 0 ∨ level = 0 then .stop level true
    else s.walkFrom va (bits e 51 12 * 4096) rest

/-- The five levels of R305. -/
def walkLevels : List (Nat × Nat × Nat) := [(4, 47, 9), (3, 35, 12), (2, 29, 6), (1, 21, 8), (0, 12, 9)]

/-- A walk for an address of an ASID. -/
def State.walk (s : State) (d asid va : Nat) : Walk × State :=
  let e0 := (s.die d).asidbase.toNat + 128 * asid
  if (find (s.die d).asids asid).isNone && (List.range 8).any fun i => s.physPoison (e0 + 16 * i) then (.bad 0x40 0, s)
  else
  let (e, s1) := s.asidEntry d asid
  if !bit (e.headD 0) 0 then (.stop 4 false, s1)
  else (s1.walkFrom va (e.getD 1 0) walkLevels, s1)

/-- The frame that a contiguity range predicts (R307, R308). -/
def predicted (e : List Nat) (va : Nat) : Option Nat :=
  (List.range 6).findSome? fun i =>
    let w0 := e.getD (2 + 2 * i) 0
    let w1 := e.getD (3 + 2 * i) 0
    let vb := bits w0 55 21 * 2 ^ 21
    let len := bits w0 20 0 * 2 ^ 21
    if vb ≤ va ∧ va < vb + len then some (bits w1 51 21 * 2 ^ 21 + (va - vb)) else none

/-- The entry of a port's TLB that covers an address (R308). -/
def Die.tlbFind (d : Die) (port asid va : Nat) : Option Leaf :=
  ((getD d.tlb port []).find? fun e => e.asid = asid && decide (e.va ≤ va) && decide (va < e.va + e.leaf.psize)).map (·.leaf)

/-- Lists a leaf in a port's TLB of 4,096 entries; a full one drops the entry that it filled first (R308, log entry 17). -/
def Die.tlbPut (d : Die) (port asid va : Nat) (l : Leaf) : Die :=
  { d with tlb := put d.tlb port (({ asid := asid, va := va / l.psize * l.psize, leaf := l } :: getD d.tlb port []).take 4096) }

/-- The port's translation (R308): the TLB, else a walk; a leaf of RES 2 or 3 is not kept; a predicted access that the walk does not confirm counts
in SQUASHCNT. A CTB refill starts no access. -/
def State.portLeaf (s : State) (asid va : Nat) (access : Bool := true) : Walk × State :=
  let d := homeDie asid va
  match (s.die d).tlbFind (homePort asid va) asid va with
  | some l => (.leaf l, s)
  | none =>
    let (w, s1) := s.walk d asid va
    let pred := match find (s1.die d).asids asid with
      | some e => if access && bit (e.headD 0) 0 && bit (e.headD 0) 1 && !(s1.die d).msctl.getLsbD 16 then predicted e va else none
      | none => none
    let wrong := match pred, w with
      | none, _ => false
      | some p, .leaf l => !(l.remote.isNone && l.res = 0 && l.pa + va % l.psize = p)
      | some _, .bad _ _ => true
    let s2 := if wrong then s1.updD d fun x => { x with squashcnt := x.squashcnt + 1#64 } else s1
    match w with
    | .leaf l => (w, if l.res < 2 then s2.updD d fun x => x.tlbPut (homePort asid va) asid va l else s2)
    | .bad _ _ => (w, s2)

/-- A translation that a port makes for a check: the entries it reads are kept (R307, R308). -/
def State.translated (s : State) (asid va : Nat) : State := (s.portLeaf (canonAsid asid va) va false).2

/-- The page of an address by the leaf that maps it: first address and bytes; 4 KiB where none does. -/
def State.spanOf (s : State) (asid va : Nat) : Nat × Nat :=
  match (s.portLeaf (canonAsid asid va) va false).1 with
  | .leaf l => (va / l.psize * l.psize, l.psize)
  | .bad _ _ => (va / 4096 * 4096, 4096)

/-! ### Sealing (R359-R361) -/

/-- The counter block CB(t, v, x, w) (R360). -/
def cbBlock (t v x w : Nat) : BitVec 128 :=
  BitVec.ofNat 128 (t % 2 ^ 32 * 2 ^ 96 + v % 2 ^ 32 * 2 ^ 64 + x % 2 ^ 48 * 2 ^ 16 + w % 2 ^ 16)

/-- The live declaration of a world that holds an address. -/
def World.declOf (w : World) (va : Nat) : Option Decl := w.decls.find? fun d => d.base ≤ va && va < d.base + d.bytes

/-- The key of a declaration's lines (R360): a model key slot for a `sealed-compute` page, none where the slot is empty, else KC. -/
def World.declKey (w : World) (d : Decl) (sealedPage : Bool) : Option Nat := if sealedPage then find w.slots (d.tid / 2 ^ 30) else some w.kc

/-- The cipher of the 16-byte block at an address (R360), to seal it (`enc`) or to open it: counter mode inside a declaration, XTS outside.
`none`: no cipher exists. -/
def World.cipher (w : World) (va : Nat) (sealedPage enc : Bool) : Option (BitVec 128 → BitVec 128) :=
  match w.declOf va with
  | some d => (w.declKey d sealedPage).map fun key x => x ^^^ ctrPad key (cbBlock d.tid d.ver ((va - d.base) / 16) 0)
  | none => if sealedPage then none else some (if enc then xtsEnc w.xts (va / 16) else xtsDec w.xts (va / 16))

/-- The key and J of the MAC of the line that holds an address (R360). A line that a declaration covers in part counts as one of the first
declaration in it, by the difference of line numbers (log entry 136). -/
def World.macKey (w : World) (va : Nat) (sealedPage : Bool) : Option (Nat × BitVec 128) :=
  match (List.range 8).findSome? fun i => w.declOf (va / 128 * 128 + 16 * i) with
  | some d => (w.declKey d sealedPage).map fun key => (key, cbBlock d.tid d.ver (va / 128 - d.base / 128) 0xFFFF)
  | none => if sealedPage then none else some (w.kc, BitVec.ofNat 128 (0xFFFFFFFF * 2 ^ 96 + bits va 55 7 * 2 ^ 47 + 0xFFFF))

/-- Block i of the line at a physical address, as stored. -/
def State.memBlock (s : State) (line i : Nat) : BitVec 128 := BitVec.ofNat 128 (Memory.readLe s.mem (line + 16 * i) 16)

/-- The MAC of a line's eight ciphertext blocks (R360). -/
def macOf (key : Nat) (j : BitVec 128) (blocks : List (BitVec 128)) : DWord :=
  ((ghash (aes256 key 0#128) blocks ^^^ aes256 key j) >>> 64).setWidth 64

/-- The plaintext of the sector at pa of a sealed line under the name va, or `none` where the MAC does not match (R360, R361). -/
def State.openLine (s : State) (w : World) (va pa : Nat) (sealedPage : Bool) : Option (BitVec 128) :=
  let line := pa / 128 * 128
  match w.macKey va sealedPage, w.cipher va sealedPage false with
  | some (key, j), some dec =>
    if macOf key j ((List.range 8).map fun i => s.memBlock line i) ≠ (getD s.spare (pa / 128) {}).mac then none
    else some (dec (s.memBlock line (pa / 16 % 8)))
  | _, _ => none

/-- The other name that a line's frame was last written back under, where two pages map the frame against R302's rule: ASID, address, world,
whether its page is `sealed-compute`. -/
def State.aliasOf (s : State) (asid va pa : Nat) : Option (Nat × Nat × Nat × Bool) :=
  let sp : Spare := getD s.spare (pa / 128) {}
  let other := sp.va + va % 128
  let d := homeDie sp.asid other
  if (sp.asid != asid || other / 128 != va / 128) && (sp.asid = asid || inShared va || inShared other) then
    match s.walk d sp.asid other with
    | (.leaf l, s1) =>
      if l.remote.isNone && l.pa + other % l.psize = pa / 128 * 128 + va % 128 then
        some (sp.asid, other, asidWorld (s1.asidEntry d sp.asid).1, l.sealed_) else none
    | (.bad _ _, _) => none
  else none

/-- What the frame at pa holds as it was stored through the other name of its line (R302). -/
def State.aliasBlock (s : State) (asid va pa : Nat) : Option (BitVec 128) :=
  (s.aliasOf asid va pa).bind fun x =>
    if x.2.2.1 = 0 then some (s.memBlock (pa / 128 * 128) (pa / 16 % 8)) else s.openLine (s.world x.2.2.1) x.2.1 pa x.2.2.2

/-- The plaintext of the sector at pa of a protected world's page, or F_INTEGRITY (R361). A frame that two pages map raises no fault: it reads as what
was stored through the other name (R302). -/
def State.unseal (s : State) (world asid va pa : Nat) (sealedPage : Bool) : Option (BitVec 128) :=
  let w := s.world world
  if (w.cipher va sealedPage false).isNone then none
  else if !(getD s.spare (pa / 128) {}).sealed_ then
    match s.aliasBlock asid va pa with
    | some d => some d
    | none => if (w.declOf va).isSome then none else some 0#128
  else match s.openLine w va pa sealedPage with
    | some d => some d
    | none => s.aliasBlock asid va pa

/-- Block `pa` of a host-world line as memory gives it. A shared-region page that lies on the frame of a protected page reads what that page's world
stored (R302). -/
def State.hostBlock (s : State) (asid va pa : Nat) : BitVec 128 :=
  let raw := s.memBlock (pa / 128 * 128) (pa / 16 % 8)
  if inShared va && (getD s.spare (pa / 128) {}).sealed_ then (s.aliasBlock asid va pa).getD raw else raw

/-- Writes eight plaintext blocks sealed to a line (R360). What no cipher can open again, an undeclared block of a `sealed-compute` page among it, is
written as on an ordinary page (R362). -/
def State.sealLine (s : State) (world asid va line : Nat) (sealedPage : Bool) (plain : List (BitVec 128)) : State :=
  let w := s.world world
  let va := va / 128 * 128
  let seal_ (i : Nat) (x : BitVec 128) : BitVec 128 :=
    match w.cipher (va + 16 * i) sealedPage true with
    | some e => e x
    | none => match w.cipher (va + 16 * i) false true with | some e => e x | none => x
  let c := (List.range 8).map fun i => seal_ i (plain.getD i 0#128)
  let k := match w.macKey va sealedPage with
    | some k => k
    | none => (w.macKey va false).getD (0, 0#128)
  { s with
    mem := (List.range 8).foldl (fun m i => Memory.writeLe m (line + 16 * i) 16 (c.getD i 0#128).toNat) s.mem
    spare := setD s.spare (line / 128) { mac := macOf k.1 k.2 c, sealed_ := true, asid := asid, va := va } {} }

/-! ### Shadow versions (R390) -/

/-- The key of a 64 KiB grain of a launch. -/
def grainKey (asid va : Nat) : Nat := asid * 2 ^ 40 + va / 65536

/-- The version an access of launch `lid` (0: no launch) reads: its shadow where the grain has one, else the committed version 0. -/
def State.verOf (s : State) (lid asid va : Nat) : Nat :=
  match find s.launches lid with
  | some l => if (find l.shadows (grainKey asid va)).isSome then lid + 1 else 0
  | none => 0

/-! ### Home slices -/

/-- Where a physical sector stands while a swap pair runs: a line already exchanged lies in the other frame (R318). -/
def State.routed (s : State) (pa : Nat) : Nat :=
  s.dies.foldl (fun p e =>
    match e.2.swap with
    | none => p
    | some w =>
      let n := w.lines * 128
      if w.paH ≤ pa ∧ pa < w.paH + n ∧ (pa - w.paH) / 128 < w.done then w.paC + (pa - w.paH)
      else if w.paC ≤ pa ∧ pa < w.paC + n ∧ (pa - w.paC) / 128 < w.done then w.paH + (pa - w.paC)
      else p) pa

/-- Whether a page takes part in a running swap pair. -/
def State.swapping (s : State) (asid va : Nat) : Bool :=
  s.dies.any fun e => match e.2.swap with
    | none => false
    | some w => (w.asidH = asid && w.vaH ≤ va && va < w.vaH + w.lines * 128) || (w.asidC = asid && w.vaC ≤ va && va < w.vaC + w.lines * 128)

/-- The outcome of bringing a sector to its home slice. -/
inductive Touch where
  /-- The sector stands in L2. -/
  | ok
  /-- The page is far and migrates, or absent: the access waits (R313); the CAUSE of a fault entry and the page. -/
  | wait (cause psize : Nat)
  /-- Another device owns the line (R247). -/
  | remote (dev offset : Nat)
  /-- A fault: code and detail. -/
  | fail (code detail : Nat)
  deriving DecidableEq, Repr

/-- How R313 sorts a leaf: by its RES, which R306 states, also where its frame's tier does not agree with it (R304; DESIGN CHOICE, log entry 137). -/
def sortLeaf (l : Leaf) (moving : Bool) : Option Nat :=
  if l.res = 3 then some 1
  else if l.res = 2 ∧ l.psize ≤ 2 ^ 21 ∧ !moving then some 2
  else none

/-! ### Checks of a page -/

/-- What an access does, for the checks of R157 and R309. -/
inductive AccKind where
  | load
  | store
  | atomic
  | copy
  | fetch
  deriving DecidableEq, Repr

/-- An access as the home slices see it: launch key, world and ASID of the party; what the checks of the leaf concern, none for the module's
own reads and writes; whether it is one of the closed paths to sealed weights (R365); FLAGS and ORIGIN of a fault entry (R311), and whether it is an
access that the module tries again by itself. -/
structure Req where
  lid : Nat := 0
  world : Nat := 0
  asid : Nat
  kind : Option AccKind := none
  opened : Bool := false
  flags : Nat := 0
  origin : Nat := 0
  once : Bool := false
  deriving DecidableEq, Repr

/-- The fault of R157 and R441 at a page's attributes, in the table's order but for alignment and sealed pages. -/
def pageFault (sealed_ x w rd : Bool) (pageWorld world va : Nat) (k : AccKind) : Option Nat :=
  let perm := match k with | .load => !rd | .copy => !rd | .fetch => !x && !sealed_ | _ => !w || sealed_
  if perm then some 0x11
  else if pageWorld ≠ world ∧ !inShared va then some 0x35
  else none

/-- The sealed fault of R157. -/
def sealedCode (k : AccKind) : Nat := match k with | .copy => 0x31 | _ => 0x30

/-- The check of R441 of a fetched word at its page's attributes: the fault code, if any. -/
def fetchCheck (sealed_ x : Bool) (pageWorld world va : Nat) : Option Nat :=
  if pageWorld ≠ world ∧ !inShared va then some 0x35
  else if sealed_ then some 0x30
  else if !x then some 0x11
  else none

/-- What the port finds when it checks a leaf against the access (R309). -/
def Req.leafFault (q : Req) (pageWorld va : Nat) (l : Leaf) : Option Nat :=
  match q.kind with
  | none => none
  | some .fetch => fetchCheck l.sealed_ l.x pageWorld q.world va
  | some k =>
    match pageFault l.sealed_ l.x l.w l.rd pageWorld q.world va k with
    | some c => some c
    | none => if l.sealed_ && !q.opened then some (sealedCode k) else none

/-- The world whose keys and ways an address uses: the shared region is host-world (R357). -/
def Req.waysOf (q : Req) (va : Nat) : Nat := if inShared va then 0 else q.world

/-! ### Lines of a home slice (R298-R300) -/

/-- The lease of a die, 0 read as 1 (R310). -/
def Die.leaseOf (d : Die) : Nat := if bits d.msctl.toNat 15 0 = 0 then 1 else bits d.msctl.toNat 15 0

/-- A line's timestamps: a line that the slice does not hold takes MAXEVICT for both (R300). -/
def State.lineTsOf (s : State) (asid va : Nat) : LineTs :=
  match find s.lineTs (lineKey asid va) with
  | some l => l
  | none => let m := getD (s.die (homeDie asid va)).maxevict (homeSlice asid va) 0; { wts := m, lease := m }

/-- A line leaves its slice: its lease end is folded into MAXEVICT (R300). -/
def State.foldLease (s : State) (asid va : Nat) : State :=
  let l := s.lineTsOf asid va
  let s1 := s.updD (homeDie asid va) fun x => { x with maxevict := setD x.maxevict (homeSlice asid va) (max (getD x.maxevict (homeSlice asid va) 0) l.lease) 0 }
  { s1 with lineTs := del s1.lineTs (lineKey asid va) }

/-- Writes a line's dirty sectors back to their frame and drops the line from L2; its lease is folded (R300, R359, R360, R380). -/
def State.evictLine (s : State) (ver asid va : Nat) : State :=
  let line := va / 128 * 128
  let keys := (List.range 8).map fun i => l2key ver asid (line + 16 * i)
  let present := keys.filterMap fun k => (find s.l2 k).map fun x => (k, x)
  let gone (s : State) : State :=
    ({ s with l2 := delIf s.l2 fun k => keys.contains k, lineUse := del s.lineUse (wayKey ver asid va) }).foldLease asid va
  match present.filter fun e => e.2.dirty with
  | [] => gone s
  | (k0, x0) :: more =>
    let dirty := (k0, x0) :: more
    let world := x0.world
    -- the write-back translates afresh; where no local leaf is found the frame of the fill is used
    let (w, s1) := if ver = 0 then s.portLeaf asid va else (.stop 0 false, s)
    let (base, sealedPage) := match w with
      | .leaf l => if l.remote.isNone then (s1.routed (l.pa + line % l.psize), l.sealed_) else (x0.pa / 128 * 128, false)
      | .bad _ _ => (x0.pa / 128 * 128, false)
    let s2 : State := if world = 0 then
        let m := dirty.foldl (fun (m : List Host.Cell) (e : Nat × Sector) => Memory.writeLe m (base + 16 * (e.1 % 8)) 16 e.2.data.toNat) s1.mem
        { s1 with mem := m, spare := setD s1.spare (base / 128) (if (getD s1.spare (base / 128) {}).sealed_ then { asid := asid, va := line } else {}) {} }
      else
        let plain := (List.range 8).map fun i =>
          match find s1.l2 (l2key ver asid (line + 16 * i)) with
          | some x => x.data
          | none => (s1.unseal world asid (line + 16 * i) (base + 16 * i) sealedPage).getD 0#128
        s1.sealLine world asid line base sealedPage plain
    -- a line with an absent sector whose check fails keeps failing its check (R361, log entry 158)
    let lost := world ≠ 0 && (List.range 8).any fun i =>
      (find s1.l2 (l2key ver asid (line + 16 * i))).isNone && (s1.unseal world asid (line + 16 * i) (base + 16 * i) sealedPage).isNone
    let mark (p : Spare) : Spare := if lost then { p with mac := p.mac ^^^ 1#64 } else p
    let s3 : State := { s2 with
      spare := upd s2.spare (base / 128) mark
      memPoison := dirty.foldl (fun (p : SMap Bool) (e : Nat × Sector) => setD p (base / 16 + e.1 % 8) e.2.poison false) s2.memPoison }
    gone (s3.mscUse base (if world = 0 then dirty.foldl (fun n e => n ||| 2 ^ (e.1 % 8)) 0 else 255) true)

/-- The lines of a set of a home slice, each with the world whose ways hold it. The set is VA[25:16] (log entry 114). -/
def State.setLines (s : State) (asid va : Nat) : List (Nat × Nat) :=
  ((s.l2.filter fun (e : Nat × Sector) =>
    let a := e.1 / 2 ^ 52 % 65536
    let v := e.1 % 2 ^ 52 * 16
    v / 65536 % 1024 = va / 65536 % 1024 && homeSlice a v = homeSlice asid va && homeDie a v = homeDie asid va).map fun (e : Nat × Sector) =>
      (e.1 / 8, e.2.world)).eraseDups

/-- The ways of a set that a world's lines may hold: its reserved ways, or what no world reserves of the 32 (R298, R355, R359). -/
def State.waysFor (s : State) (world : Nat) : Nat :=
  if world = 0 then 32 - (s.worlds.foldl (fun n (e : Nat × World) => if e.2.alive then n + e.2.ways else n) 0) else (s.world world).ways

/-- Which line leaves first: those that POL marked, then by fill, those that POL asks to keep last (R143, log entry 114). -/
def State.leavesFirst (s : State) (k : Nat) : Nat :=
  let u := getD s.lineUse k {}
  (if u.hint = 1 then 0 else if u.hint = 2 then 2 else 1) * 2 ^ 64 + u.seq

/-- The first of a world's lines leave a set until it holds at least `room` fewer of them than the world has ways (R298). -/
def State.trimSet (s : State) (asid va world room : Nat) : State :=
  let own := (s.setLines asid va).filter fun e => e.2 = world
  ((sortBy (fun (a b : Nat × Nat) => decide (s.leavesFirst a.1 ≤ s.leavesFirst b.1)) own).take (own.length + room - s.waysFor world)).foldl
    (fun (s : State) (e : Nat × Nat) => s.evictLine (e.1 / 2 ^ 65) (e.1 / 2 ^ 49 % 65536) (e.1 % 2 ^ 49 * 128)) s

/-- Makes room in a set for a line of a version. -/
def State.wayRoom (s : State) (ver asid va world : Nat) : State :=
  if (s.setLines asid va).any fun e => e.1 = wayKey ver asid va then s else s.trimSet asid va world 1

/-- The host world's lines leave the ways that the protected worlds reserve (R298, R356). -/
def State.yieldWays (s : State) : State :=
  ((s.l2.filter fun (e : Nat × Sector) => e.2.world = 0).map fun (e : Nat × Sector) => (e.1 / 2 ^ 52 % 65536, e.1 % 2 ^ 52 / 8)).eraseDups.foldl
    (fun (s : State) (e : Nat × Nat) => s.trimSet e.1 (e.2 * 128) 0 0) s

/-- Installs the sector at a frame in its home slice; an unsealing fill that fails its check gives F_INTEGRITY (R361). -/
def State.install (s : State) (world ver asid va pa : Nat) (sealedPage : Bool) : Touch × State :=
  let data := if world = 0 then some (s.hostBlock asid va (pa / 16 * 16)) else s.unseal world asid va (pa / 16 * 16) sealedPage
  match data with
  | none => (.fail 0x36 0, s)
  | some d =>
    let s1 := (s.wayRoom ver asid va world).mscUse pa (2 ^ (pa / 16 % 8)) false
    let k := wayKey ver asid va
    (.ok, { s1 with
      l2 := put s1.l2 (l2key ver asid va) { data := d, dirty := false, poison := getD s.memPoison (pa / 16) false, pa := pa / 16 * 16, world := world }
      lineUse := if (find s1.lineUse k).isSome then s1.lineUse else put s1.lineUse k { seq := s.clk } })

/-- Installs those sectors of an aligned block that its home slice does not hold, where one sector of it stands at a frame (R303). -/
def State.installBlock (s : State) (world ver asid va pa n : Nat) (sealedPage : Bool) : State :=
  (List.range (n / 16)).foldl (fun (s : State) i =>
    let v := va / n * n + 16 * i
    if (find s.l2 (l2key ver asid v)).isSome then s else (s.install world ver asid v (pa / n * n + 16 * i) sealedPage).2) s

/-- Brings the sector of an address to its home slice: hit, or fill through the port, which checks the leaf, from the page's frame or the shadow's
(R308, R309, R313, R361, R390). A transfer of the capacity tier brings 64 bytes (R303); a sealed line comes whole, since its MAC covers it (R361). -/
def State.touch (s : State) (q : Req) (va : Nat) : Touch × State :=
  let asid := canonAsid q.asid va
  let ver := s.verOf q.lid asid va
  match find s.l2 (l2key ver asid va) with
  | some _ => (.ok, s)
  | none =>
    let (w, s1) := s.portLeaf asid va
    match w with
    | .bad c x => (.fail c x, s1)
    | .leaf l =>
      let (e, s2) := s1.asidEntry (homeDie asid va) asid
      let fill (pa : Nat) : Touch × State :=
        -- a host-world page has no key to open it with (R364)
        if l.sealed_ && q.opened && q.waysOf va = 0 then (.fail 0x36 0, s2)
        else match s2.install (q.waysOf va) ver asid va pa l.sealed_ with
          | (.ok, s3) => (.ok, if q.waysOf va ≠ 0 then s3.installBlock (q.waysOf va) ver asid va pa 128 l.sealed_
              else if inFast pa then s3 else s3.installBlock (q.waysOf va) ver asid va pa 64 l.sealed_)
          | r => r
      match q.leafFault (asidWorld e) va l with
      | some c => (.fail c 0, s2)
      | none =>
        match l.remote with
        | some dev => if q.world ≠ 0 then (.fail 0x35 0, s2) else (.remote dev (l.pa + va % l.psize), s2)
        | none =>
          match (find s.launches q.lid).bind fun x => find x.shadows (grainKey asid va) with
          | some sh => fill (sh.frame + va % 65536)
          | none =>
            match sortLeaf l (s2.swapping asid va) with
            | some cause => (.wait cause l.psize, s2)
            | none => fill (s2.routed (l.pa + va % l.psize))

/-- The byte of an address in its home sector (after `touch` answered ok). -/
def State.homeByte (s : State) (lid asid va : Nat) : Byte :=
  match find s.l2 (l2key (s.verOf lid asid va) asid va) with
  | some x => sectorByte x.data (va % 16)
  | none => 0#8

/-- Whether the home sector of an address is poisoned (R380). -/
def State.homePoison (s : State) (lid asid va : Nat) : Bool :=
  match find s.l2 (l2key (s.verOf lid asid va) asid va) with
  | some x => x.poison
  | none => false

/-- Stores bytes within one 16-byte sector at its home: a full sector clears the poison mark (R380); the line's read budget ends (R143). -/
def State.homeStore (s : State) (lid asid va : Nat) (bs : List Byte) : State :=
  let ver := s.verOf lid asid va
  { s with
    l2 := upd s.l2 (l2key ver asid va) fun x =>
      { x with data := (List.range bs.length).foldl (fun d i => setSectorByte d (va % 16 + i) (bs.getD i 0#8)) x.data
               dirty := true, poison := x.poison && decide (bs.length < 16) }
    lineUse := upd s.lineUse (wayKey ver asid va) fun u => { u with rc := 0 } }

/-! ### Timestamps (R245, R300) -/

/-- A load at program timestamp ts: the new program timestamp, and the line's lease extended. -/
def State.tsLoad (s : State) (asid va ts : Nat) : Nat × State :=
  let l := s.lineTsOf asid va
  let t := max ts l.wts
  (t, { s with lineTs := put s.lineTs (lineKey asid va) { l with lease := max l.lease (t + (s.die (homeDie asid va)).leaseOf) }
               tsTop := max s.tsTop t })

/-- A store or atomic: beyond the line's lease end. -/
def State.tsStore (s : State) (asid va ts : Nat) : Nat × State :=
  let l := s.lineTsOf asid va
  let t := max ts (l.lease + 1)
  (t, { s with lineTs := put s.lineTs (lineKey asid va) { wts := t, lease := t }, tsTop := max s.tsTop t })

/-- The program timestamp of a group passes every timestamp used so far: what an acquire, a barrier and a restore do (R245, R246, R253). -/
def State.passTs (s : State) (gid : Nat) : State :=
  ({ s with tsTop := s.tsTop + 1 }).updG gid fun g => { g with ts := s.tsTop + 1 }

/-- The same for a mast core. -/
def State.passTsM (s : State) (c : Nat) : State :=
  ({ s with tsTop := s.tsTop + 1 }).updM c fun m => { m with ts := s.tsTop + 1 }

/-! ### The fault unit (R313-R317) -/

/-- Whether an entry slot is free: FBTAIL has passed it and it is resolved (R315). -/
def Die.slotFree (d : Die) : Bool :=
  d.fbbase ≠ 0#64 && d.entries.all fun e => e.resolved && decide (e.seq < d.fbtail.toNat) || decide (e.seq + 4096 > d.fbhead.toNat)

/-- The 32 bytes of a fault-buffer entry (R311). -/
def FbEntry.bytes (e : FbEntry) : List Byte :=
  toBytes 8 (e.page % 2 ^ 56) ++ toBytes 2 e.asid ++ toBytes 1 e.cause ++ toBytes 1 e.flags ++ toBytes 4 e.count
  ++ toBytes 8 e.clk ++ toBytes 4 e.seq ++ toBytes 2 e.origin ++ toBytes 2 0

/-- Writes an entry to the buffer in memory. -/
def State.writeEntry (s : State) (d : Nat) (e : FbEntry) : State :=
  s.physWrite ((s.die d).fbbase.toNat + 32 * (e.seq % 4096)) e.bytes

/-- The unresolved entry of a die that a fault joins (R315); a CAUSE 3 entry stands alone (R317). -/
def Die.joined (x : Die) (e : FbEntry) : Option FbEntry :=
  if e.cause = 3 then none else x.entries.find? fun y => y.asid = e.asid && y.page = e.page && !y.resolved

/-- A fault joins the unresolved entry of its page or takes the next slot (R315). -/
def State.enterFault (s : State) (d : Nat) (e : FbEntry) : State :=
  let x := s.die d
  match x.joined e with
  | some y =>
    let y' := { y with count := min (y.count + 1) (2 ^ 32 - 1), flags := y.flags ||| e.flags, once := y.once ++ e.once }
    (s.updD d fun x => { x with entries := x.entries.map fun z => if z.seq = y.seq then y' else z }).writeEntry d y'
  | none =>
    let e' := { e with seq := x.fbhead.toNat % 2 ^ 32 }
    (s.updD d fun x => { x with entries := (x.entries.filter fun y => y.seq + 4096 > x.fbhead.toNat || !y.resolved) ++ [e']
                                fbhead := x.fbhead + 1#64 }).writeEntry d e'

/-- Whether an access that the module tries again has joined its page's entry or fault already. -/
def Die.knows (x : Die) (e : FbEntry) : Bool :=
  e.once.any fun o => (x.entries ++ x.heldFaults).any fun y => y.asid = e.asid && y.page = e.page && !y.resolved && y.once.contains o

/-- A fault on a page joins an unresolved entry, takes a slot, or is held for want of one, behind those already held (R315). -/
def State.faultEntry (s : State) (d asid page psize cause flags origin : Nat) (once : Bool := false) : State :=
  let x := s.die d
  let e : FbEntry := { seq := 0, asid := asid, page := page, cause := cause, flags := flags, count := 1, origin := origin, clk := s.clk
                       resolved := cause = 3, psize := psize, once := if once then [origin] else [] }
  if x.knows e then s
  else if (x.joined e).isSome || (x.slotFree && x.heldFaults.isEmpty) then s.enterFault d e
  else s.updD d fun x => { x with
    heldFaults := x.heldFaults ++ [e]
    msstat := x.msstat ||| (if x.fbbase = 0#64 then 2#64 else 1#64)
    fbovf := if x.fbovf = BitVec.allOnes 64 then x.fbovf else x.fbovf + 1#64 }

/-- A victim of VICTQ (R310, R317): ASID and page. -/
def victimOf (v : DWord) : Nat × Nat := (bits v.toNat 63 48, bits v.toNat 43 0 * 4096)

/-- Pops victims until one is usable for hot page (asid, page) of a size: mapped near, same world, same size, not in a swap (R304, R317). -/
def State.popVictim (s : State) (d asid psize : Nat) : List DWord → Option (Nat × Nat × Leaf) × List DWord × State
  | [] => (none, [], s)
  | v :: rest =>
    let (a, p) := victimOf v
    let a := canonAsid a p
    let (w, s1) := s.walk d a p
    let (ea, s2) := s1.asidEntry d a
    let (eh, s3) := s2.asidEntry d asid
    match w with
    | .leaf l =>
      if l.remote.isNone ∧ inFast l.pa ∧ l.res < 2 ∧ l.psize = psize ∧ asidWorld ea = asidWorld eh ∧ !s3.swapping a p then (some (a, p / psize * psize, l), rest, s3)
      else s3.popVictim d asid psize rest
    | .bad _ _ => s3.popVictim d asid psize rest

/-- An access finds a page far `migrate-on-touch` or absent (R313): a swap pair starts, or a fault entry is joined or written. `flags`
say who waits; `origin` is the cluster. A die exchanges one pair at a time; meanwhile the access waits without an entry (log entry 8). -/
def State.faultPage (s : State) (asid va cause psize flags origin : Nat) (once : Bool := false) : State :=
  let d := homeDie asid va
  let page := va / psize * psize
  let big := if psize ≥ 2 ^ 29 then 16 else 0
  if cause = 2 then
    if (s.die d).swap.isSome then s
    else
      let (v, rest, s0) := s.popVictim d asid psize (s.die d).victq
      let (wh, s0) := s0.walk d asid va
      let s1 := s0.updD d fun x => { x with victq := rest }
      match v, wh with
      | some (a, p, lc), .leaf lh =>
        s1.updD d fun x => { x with swap := some { asidH := asid, vaH := page, asidC := a, vaC := p, paH := lh.pa, paC := lc.pa
                                                   entryH := lh.entry, entryC := lc.entry, lines := psize / 128, done := 0 } }
      | _, _ => s1.faultEntry d asid page psize 2 (flags + big) origin once
  else s.faultEntry d asid page psize cause (flags + big) origin once

/-- Whether a page's fault waits for its RESOLVE: an unresolved entry, or a fault held at its source (R315). -/
def State.pageFaulted (s : State) (asid va : Nat) : Bool :=
  let a := canonAsid asid va
  let d := s.die (homeDie a va)
  (d.entries.any fun e => !e.resolved && e.asid = a && decide (e.page ≤ va) && decide (va < e.page + e.psize))
  || d.heldFaults.any fun e => !e.resolved && e.asid = a && decide (e.page ≤ va) && decide (va < e.page + e.psize)

/-! ### Whole accesses at the home -/

/-- The 16-byte pieces of an access: address and length of each (R148, R243). -/
def pieces (va n : Nat) : List (Nat × Nat) :=
  if n = 0 then []
  else
    let first := min n (16 - va % 16)
    if n ≤ first then [(va, n)] else [(va, first), (va + first, n - first)]

/-- The 16-byte sectors of a byte range: address and length of the part in each. -/
def sectorsOf (va n : Nat) : List (Nat × Nat) :=
  if n = 0 then [] else (List.range ((va % 16 + n + 15) / 16)).map fun i =>
    let a := max va (va / 16 * 16 + 16 * i)
    (a, min (va + n) (va / 16 * 16 + 16 * i + 16) - a)

/-! ### ECC events (R319) -/

/-- The die and the stack bit of a memory line: two stacks and six packages a die. -/
def eccHome (pa : Nat) : Nat × Nat := if inFast pa then (pa / 2 ^ 37, pa / 2 ^ 36 % 2) else (bits pa 43 37 / 6, bits pa 43 37 / 3 % 2)

/-- An ECC event enters a die's queue (R319): it merges with the youngest queued event of the same line; a full queue drops a corrected event, and an
uncorrected one waits at its source. Where merged events differ in kind, uncorrected wins, else the larger number (DESIGN CHOICE, log entry 138). -/
def Die.eccIn (x : Die) (w : DWord) : Die :=
  let kind (v : DWord) : Nat := bits v.toNat 62 61
  let young := x.eccq.getLast?.filter fun y => bits y.toNat 51 7 = bits w.toNat 51 7
  match young with
  | some y =>
    let k := if kind y = 1 ∨ kind w = 1 then 1 else max (kind y) (kind w)
    let n := min 255 (bits y.toNat 59 52 + bits w.toNat 59 52)
    { x with eccq := x.eccq.dropLast ++ [BitVec.ofNat 64 (2 ^ 63 + k * 2 ^ 61 + bits w.toNat 60 60 * 2 ^ 60 + n * 2 ^ 52 + bits w.toNat 51 7 * 128)] }
  | none =>
    if x.eccq.length < 256 then { x with eccq := x.eccq ++ [w] }
    else if kind w = 1 then { x with eccWait := x.eccWait ++ [w] }
    else { x with msstat := x.msstat ||| 8#64 }

/-- An ECC event of a line (R319): kind 0 corrected, 1 uncorrected, 2 eighth corrected of a frame. -/
def State.eccEvent (s : State) (pa kind : Nat) : State :=
  s.updD (eccHome pa).1 fun x => x.eccIn (BitVec.ofNat 64 (2 ^ 63 + kind * 2 ^ 61 + (eccHome pa).2 * 2 ^ 60 + 2 ^ 52 + pa / 128 * 128))

/-- The oldest event leaves the queue; one that waits at its source takes the slot (R319). -/
def Die.eccOut (x : Die) : Die :=
  let y := { x with eccq := x.eccq.drop 1 }
  match x.eccWait with
  | w :: rest => { y with eccWait := rest }.eccIn w
  | [] => y

/-- The ECC events of the poisoned sectors that an access of the home copies consumes. -/
def State.eccRead (s : State) (lid asid va n : Nat) : State :=
  (pieces va n).foldl (fun s p =>
    match find s.l2 (l2key (s.verOf lid asid p.1) asid p.1) with
    | some x => if x.poison then s.eccEvent x.pa 1 else s
    | none => s) s

/-- The outcome of an access: bytes read (empty for a store), a wait, or a fault found after issue. -/
inductive Acc where
  | ok (bytes : List Byte)
  | wait
  | fail (code detail : Nat)
  deriving DecidableEq, Repr

/-- Brings every piece of an access to its home; the first piece that cannot come decides. -/
def State.touchAll (s : State) (q : Req) : List (Nat × Nat) → Touch × State
  | [] => (.ok, s)
  | (va, _) :: rest =>
    match s.touch q va with
    | (.ok, s1) => s1.touchAll q rest
    | r => r

/-- Whether a device can be reached (R424): its routing entry is valid and one of its links is up. -/
def State.reachable (s : State) (dev : Nat) : Bool :=
  let r := (getD s.routing dev 0#64).toNat
  decide (dev < 4608) && bit r 31 && (List.range 18).any fun k => bit r k && (getD s.links k {}).up

/-- n flits start on a link, with the next sequence numbers (R422). -/
def Link.start (l : Link) (n : Nat) : Link :=
  { l with sent := l.sent ++ (List.range n).map fun i => (l.next + i) % 4096, next := (l.next + n) % 4096 }

/-- A flit of a channel is to start: while the channel is paused (R423), or the 512-flit replay buffer is full (R422), it waits. -/
def Link.send (l : Link) (ch : Nat) : Link := if l.paused.contains ch || decide (512 ≤ l.sent.length) then { l with held := l.held ++ [ch] } else l.start 1

/-- The flits that wait on a link try to start again, in order. -/
def Link.drain (l : Link) : Link := l.held.foldl Link.send { l with held := [] }

/-- Sends a flit towards a device (R421, R422, R424), channel 0 a request, 1 a response, 2 an engine's piece: on link k of the links that are up, k from the
line address. -/
def State.sendFlit (s : State) (ch dev va : Nat) : State :=
  let r := (getD s.routing dev 0#64).toNat
  let ups := (List.range 18).filter fun k => bit r k && (getD s.links k {}).up
  match ups[va / 128 % ups.length]? with
  | none => s
  | some k =>
    { s with links := setD s.links k ((getD s.links k {}).send ch) {} }

/-- The channel of a request (R421): engines and collectives have their own. -/
def Req.channel (q : Req) : Nat := if q.flags = 4 then 2 else 0

/-- The first piece of an access whose page is away, after `touchAll` answered so. -/
def State.firstAway (s : State) (q : Req) (ps : List (Nat × Nat)) : Option Nat :=
  (ps.find? fun p => match (s.touch q p.1).1 with | .wait _ _ => true | _ => false).map (·.1)

/-- The key of a byte of another device's shared region. -/
def remoteKey (dev off : Nat) : Nat := dev * 2 ^ 48 + off

/-- Bytes of another device's shared region, as this device's read k finds them: a byte that this device has stored or read reads as then
unless another party has stored there since, which is open (R247, log entry 7). -/
def State.remoteRead (s : State) (dev off n : Nat) : List Byte :=
  (List.range n).map fun i => match find s.remote (remoteKey dev (off + i)) with
    | some b => if Config.remoteStored s.free (off + i) then Config.remoteByte s.free (off + i) else b
    | none => Config.remoteByte s.free (off + i)

/-- Notes what bytes of another device's shared region held when this device last read or stored them. -/
def State.remoteNote (s : State) (dev off : Nat) (bs : List Byte) : State :=
  { s with remote := (List.range bs.length).foldl (fun m i => put m (remoteKey dev (off + i)) (bs.getD i 0#8)) s.remote }

/-- Reads n bytes at the home, in one event; poison raises F_ECC_UNCORRECTED (R381); a page that is not there starts the fault unit. -/
def State.homeRead (s : State) (q : Req) (va n : Nat) : Acc × State :=
  let asid := canonAsid q.asid va
  let ps := pieces va n
  match s.touchAll q ps with
  | (.ok, s1) =>
    if ps.any fun p => s1.homePoison q.lid asid p.1 then (.fail 0x40 0, s1.eccRead q.lid asid va n)
    else (.ok ((List.range n).map fun i => s1.homeByte q.lid asid (va + i)), s1)
  | (.remote dev off, s1) =>
    if s1.reachable dev then
      let bs := s1.remoteRead dev off n
      (.ok bs, { (s1.sendFlit q.channel dev va).remoteNote dev off bs with free := s1.free + 1 })
    else (.fail 0x10 16, s1)
  | (.wait cause psize, s1) => (.wait, s1.faultPage asid (match s1.firstAway q ps with | some v => v | none => va) cause psize q.flags q.origin q.once)
  | (.fail c d, s1) => (.fail c d, s1)

/-- Stores bytes at the home sectors of one version, all pieces or none. -/
def State.storeAt (s : State) (q : Req) (va : Nat) (bs : List Byte) : Touch × State :=
  let ps := pieces va bs.length
  match s.touchAll q ps with
  | (.ok, s1) => (.ok, ps.foldl (fun s p => s.homeStore q.lid (canonAsid q.asid va) p.1 ((bs.drop (p.1 - va)).take p.2)) s1)
  | r => r

/-- Whether an address lies in a frozen declaration of the world of an ASID (R363). -/
def State.frozenAt (s : State) (world va : Nat) : Bool :=
  match (s.world world).declOf va with | some d => d.frozen | none => false

/-- Poisoned data that comes to its home keeps its mark there (R380). -/
def State.homePoisoned (s : State) (lid asid va : Nat) : State :=
  { s with l2 := upd s.l2 (l2key (s.verOf lid asid va) asid va) fun x => { x with poison := true } }

/-- What the leaf of an address says of an access, whether or not its line stands at its home (R157, R309). -/
def State.leafCheck (s : State) (q : Req) (va : Nat) : Option Nat :=
  let asid := canonAsid q.asid va
  match (s.portLeaf asid va).1 with
  | .bad c _ => some c
  | .leaf l => q.leafFault (asidWorld (s.asidEntry (homeDie asid va) asid).1) va l

/-- Commits one written sector of a shadow to the committed version, as a store at that moment would, its poison mark with it (R380, R392). A page that
waits keeps the sector; one that is unmapped or takes no store, a frozen declaration among them (R363), drops it. -/
def State.commitSector (s : State) (lid : Nat) (gk : Nat) (sec : Nat) : State :=
  let asid := gk / 2 ^ 40
  let va := sec * 16
  let world := match find s.launches lid with | some l => l.record.world | none => 0
  let q : Req := { world := world, asid := asid, kind := some .store, origin := 0x7FF, once := true }
  let drop (s : State) : State := s.updL lid fun l => { l with shadows := upd l.shadows gk fun sh => { sh with written := sh.written.erase sec } }
  match s.touch { lid := lid, world := world, asid := asid } va with
  | (.ok, s1) =>
    let bs := (List.range 16).map fun i => s1.homeByte lid asid (va + i)
    if s1.frozenAt (q.waysOf va) va || (s1.leafCheck q va).isSome then drop s1
    else match s1.storeAt q va bs with
      | (.wait cause psize, s2) => s2.faultPage asid va cause psize 0 0x7FF true
      | (.ok, s2) => drop ((if s1.homePoison lid asid va then s2.homePoisoned 0 asid va else s2).tsStore asid va 0).2
      | (.remote dev off, s2) => drop (if s2.reachable dev then (s2.sendFlit 0 dev va).remoteNote dev off bs else s2)
      | (.fail _ _, s2) => drop s2
  | (_, s1) => drop s1

/-- Commits every written sector of a launch's shadows; a grain with none left returns its frame to the pool (R392). -/
def State.commitShadows (s : State) (lid : Nat) : State :=
  match find s.launches lid with
  | none => s
  | some l =>
    let s1 : State := l.shadows.foldl (fun (s : State) (e : Nat × Shadow) => e.2.written.foldl (fun (s : State) sec => s.commitSector lid e.1 sec) s) s
    let done := match find s1.launches lid with
      | some l1 => (l1.shadows.filter fun (e : Nat × Shadow) => e.2.written.isEmpty).map (fun (e : Nat × Shadow) => e.1)
      | none => []
    let s2 := s1.updL lid fun l => { l with shadows := l.shadows.filter fun e => !e.2.written.isEmpty }
    { s2 with l2 := delIf s2.l2 fun k => done.any fun gk => k / 2 ^ 52 = (lid + 1) * 65536 + gk / 2 ^ 40 && k % 2 ^ 52 / 4096 = gk % 2 ^ 40 }

/-- Discards a launch's shadows (R393, R394). -/
def State.discardShadows (s : State) (lid : Nat) : State :=
  let s1 := s.updL lid fun l => { l with shadows := [] }
  { s1 with l2 := delIf s1.l2 fun k => k / 2 ^ 68 = lid + 1 }

/-- A free frame of a function's shadow pool (R390, R396). -/
def State.freeFrame (s : State) (n : Nat) : Option Nat :=
  let fn := s.fn n
  let used := s.launches.flatMap fun (e : Nat × Launch) => if e.2.fn = n then e.2.shadows.map fun x => x.2.frame else []
  ((List.range (fn.shlen.toNat / 65536)).map fun i => fn.shbase.toNat + 65536 * i).find? fun f => !used.contains f

/-- The replayable launch whose write takes a shadow of the grain of an address (R390): the grain has none, and the page is this device's and lets the
write through. -/
def State.shadowWanted (s : State) (q : Req) (va : Nat) : Option Launch :=
  let asid := canonAsid q.asid va
  match find s.launches q.lid with
  | none => none
  | some l =>
    if !l.replayable || (find l.shadows (grainKey asid va)).isSome then none
    else match (s.portLeaf asid va).1 with
      | .leaf x => if x.remote.isNone && (s.leafCheck q va).isNone then some l else none
      | .bad _ _ => none

/-- The first page of the grain of an address that must come before the grain can be copied to its shadow (R313, R390): its address, CAUSE and size. -/
def State.shadowNeeds (s : State) (q : Req) (va : Nat) : Option (Nat × Nat × Nat) :=
  let asid := canonAsid q.asid va
  match s.shadowWanted q va with
  | none => none
  | some l =>
    if (s.freeFrame l.fn).isNone then none
    else (List.range 16).findSome? fun pg =>
      let v := va / 65536 * 65536 + 4096 * pg
      match (s.portLeaf asid v).1 with
      | .leaf x => if x.remote.isSome then none else (sortLeaf x (s.swapping asid v)).map fun cause => (v, cause, x.psize)
      | .bad _ _ => none

/-- Takes a shadow frame for a grain on the launch's first write (R390, R391): the grain's pages of this device are copied as stored. -/
def State.shadowFor (s : State) (q : Req) (va : Nat) : State :=
  let asid := canonAsid q.asid va
  match s.shadowWanted q va with
  | none => s
  | some l => match s.freeFrame l.fn with
    | none =>
      -- R391: the pool is empty: the shadows are committed at once and the launch loses replayability
      ((s.commitShadows q.lid).updL q.lid fun l => { l with replayable := false }).updF l.fn fun x =>
        { x with shlost := if x.shlost = BitVec.allOnes 64 then x.shlost else x.shlost + 1#64 }
    | some f =>
      let base := va / 65536 * 65536
      -- the grain's cached lines go to memory first, so the copy is taken as stored
      let lines := (s.l2.filter fun e => e.1 / 2 ^ 52 = asid && (e.1 % 2 ^ 52) / 4096 = base / 65536).map fun e => e.1 % 2 ^ 52 * 16 / 128
      let s1 := lines.foldl (fun s ln => s.evictLine 0 asid (ln * 128)) s
      let s2 := (List.range 16).foldl (fun (s : State) pg =>
        match (s.portLeaf asid (base + 4096 * pg)).1 with
        | .leaf lf =>
          if lf.remote.isSome then s
          else
            let src := s.routed (lf.pa + (base + 4096 * pg) % lf.psize)
            let dst := f + 4096 * pg
            let moved := s.mem.filter fun e => src ≤ e.1 && e.1 < src + 4096
            let cleared := delIf s.mem fun a => dst ≤ a && a < dst + 4096
            { s with
              mem := moved.foldl (fun m e => Memory.write m (dst + (e.1 - src)) e.2) cleared
              spare := (List.range 32).foldl (fun m i => setD m (dst / 128 + i) (getD m (src / 128 + i) {}) {}) s.spare
              memPoison := (List.range 256).foldl (fun m i => setD m (dst / 16 + i) (getD m (src / 16 + i) false) false) s.memPoison }
        | .bad _ _ => s) s1
      s2.updL q.lid fun l => { l with shadows := put l.shadows (grainKey asid va) { frame := f, written := [] } }

/-- Marks the sectors of an access as written by the launch (R390), and the launch as one that writes the shared region (R402). -/
def State.markWritten (s : State) (lid asid va : Nat) : State :=
  let mark (sh : Shadow) : Shadow := if sh.written.contains (va / 16) then sh else { sh with written := sh.written ++ [va / 16] }
  s.updL lid fun l => { l with shadows := upd l.shadows (grainKey asid va) mark, wroteShared := l.wroteShared || inShared va }

/-- Stores bytes at the home, in one event per piece but all or none of them; a frozen declaration refuses (R363), and a first write waits until the
grain can be shadowed (R390). -/
def State.homeWrite (s : State) (q : Req) (va : Nat) (bs : List Byte) : Acc × State :=
  let asid := canonAsid q.asid va
  let ps := pieces va bs.length
  if ps.any fun p => s.frozenAt (q.waysOf va) p.1 || s.frozenAt (q.waysOf va) (p.1 + p.2 - 1) then (.fail 0x34 0, s)
  else
    match ps.findSome? fun p => s.shadowNeeds q p.1 with
    | some (v, cause, psize) => (.wait, s.faultPage asid v cause psize q.flags q.origin q.once)
    | none =>
    let s0 := ps.foldl (fun s p => s.shadowFor q p.1) s
    match s0.touchAll q ps with
    | (.ok, s1) =>
      (.ok [], ps.foldl (fun s p => (s.homeStore q.lid asid p.1 ((bs.drop (p.1 - va)).take p.2)).markWritten q.lid asid p.1) s1)
    | (.remote dev off, s1) => if s1.reachable dev then (.ok [], (s1.sendFlit q.channel dev va).remoteNote dev off bs) else (.fail 0x10 16, s1)
    | (.wait cause psize, s1) => (.wait, s1.faultPage asid (match s1.firstAway q ps with | some v => v | none => va) cause psize q.flags q.origin q.once)
    | (.fail c d, s1) => (.fail c d, s1)

/-- A write by the module itself at a virtual address (completion records, save areas): all of it or, where a page is away or cannot be
written, nothing (R261). `origin` is the cluster that it is for, 0x7FF for a yard core (R311, log entry 139). -/
def State.hwStore (s : State) (world asid va : Nat) (bs : List Byte) (origin : Nat := 0x7FF) : Acc × State :=
  let q : Req := { world := world, asid := asid, origin := origin }
  let ps := sectorsOf va bs.length
  match s.touchAll q ps with
  | (.ok, s1) => ps.foldl (fun (r : Acc × State) p => match r.1 with
      | .ok _ => r.2.homeWrite q p.1 ((bs.drop (p.1 - va)).take p.2)
      | _ => r) (.ok [], s1)
  | (.remote dev off, s1) => if s1.reachable dev then (.ok [], (s1.sendFlit q.channel dev va).remoteNote dev off bs) else (.fail 0x10 16, s1)
  | (.wait cause psize, s1) => (.wait, s1.faultPage (canonAsid asid va) (match s1.firstAway q ps with | some v => v | none => va) cause psize 0 origin true)
  | (.fail c d, s1) => (.fail c d, s1)

/-- The same where the caller has no use for the outcome. -/
def State.hwWrite (s : State) (world asid va : Nat) (bs : List Byte) : State := (s.hwStore world asid va bs).2

/-- Reads a range of bytes sector by sector; the first that waits or fails decides. -/
def State.readRange (s : State) (q : Req) (va n : Nat) : Acc × State :=
  (sectorsOf va n).foldl (fun (r : Acc × State) p => match r.1 with
    | .ok bs => (match r.2.homeRead q p.1 p.2 with
      | (.ok b, s1) => (.ok (bs ++ b), s1)
      | x => x)
    | _ => r) (.ok [], s)

/-- A read by the module itself at a virtual address. -/
def State.hwRead (s : State) (world asid va n : Nat) (origin : Nat := 0x7FF) : Acc × State :=
  s.readRange { world := world, asid := asid, origin := origin, once := true } va n

/-! ### Stream stores held below their home (R251-R256) -/

/-- The key of a byte in an L1. -/
def l1key (asid va : Nat) : Nat := asid * 2 ^ 56 + va

/-- The launch of a party (a group id). -/
def State.lidOfParty (s : State) (p : Nat) : Nat := match find s.groups p with | some g => (match s.blockOf g with | some b => b.lid | none => 0) | none => 0

/-- Whether a party stored a held byte, last or before another store replaced its own. -/
def Held.by_ (h : Held) (party : Nat) : Bool := h.party = party || h.others.contains party

/-- Runs of neighbouring held bytes that one instruction stored within a sector: each goes to its home in one event. -/
def heldRuns : List (Nat × Held) → List (List (Nat × Held))
  | [] => []
  | e :: r => match heldRuns r with
    | (f :: run) :: more =>
      if f.1 = e.1 + 1 ∧ f.1 % 16 ≠ 0 ∧ f.2.party = e.2.party ∧ f.2.pc = e.2.pc ∧ f.2.release = e.2.release then (e :: f :: run) :: more
      else [e] :: (f :: run) :: more
    | more => [e] :: more

/-- A stream store that failed at its home: party, instruction, code, address, detail, lane (R158). -/
structure Unheld where
  party : Nat
  pc : DWord
  code : Nat
  addr : Nat
  detail : Nat
  lane : Nat
  whole : Word
  deriving DecidableEq, Repr

/-- Whether side-log entries of a group stand before a place in its program order. -/
def State.loggedBefore (s : State) (gid before : Nat) : Bool :=
  s.clusters.any fun (e : Nat × Cluster) => e.2.sideLogs.any fun (l : Nat × List SideLog) => l.2.any fun x => x.gid = gid && decide (x.seq < before)

/-- A held store whose page is away returns to the side log of its group's sub-partition (R309), in the group's order; `none` where the log is full or
the group is not resident. -/
def State.logHeld (s : State) (asid va : Nat) (run : List (Nat × Held)) (h : Held) : Option State :=
  (find s.groups h.party).bind fun g =>
    let log := getD (s.cluster g.cluster).sideLogs g.sp []
    let page := s.spanOf asid va
    let o : SideOp := { lane := h.lane, addr := va, size := run.length, atop := none, y := ofBytes (run.map fun e => e.2.val), y2 := 0 }
    let same (e : SideLog) : Bool := e.gid = h.party && e.pc = h.pc && e.asid = asid && e.page = page.1 && e.stream && e.rel = h.release
    let e : SideLog := { gid := h.party, bid := g.bid, lid := s.lidOfParty h.party, asid := asid, page := page.1, psize := page.2, pc := h.pc, ops := [o]
                         seq := h.seq, stream := true, rel := h.release, whole := h.whole }
    let log' := if log.any same then some (log.map fun e => if same e then { e with ops := e.ops ++ [o] } else e)
      else if log.length ≥ 64 then none else some (insertBy (fun a b => decide (a.seq ≤ b.seq)) e log)
    log'.map fun l => s.updC g.cluster fun k => { k with sideLogs := put k.sideLogs g.sp l }

/-- Publishes one run: it takes its place at the home (R245, R251). A store whose page is away goes to the side log; one that fails leaves with
its fault. `drop` takes bytes out of where they are held. -/
def State.publishRun (s : State) (origin : Nat) (drop : State → List Nat → State) (run : List (Nat × Held)) : State × List Unheld :=
  match run with
  | [] => (s, [])
  | (key, h) :: _ =>
    let asid := key / 2 ^ 56
    let va := key % 2 ^ 56
    let q : Req := { lid := s.lidOfParty h.party, world := h.world, asid := asid, kind := some .store, flags := 2, origin := origin }
    match s.homeWrite q va (run.map fun e => e.2.val) with
    | (.wait, s1) => (match s1.logHeld asid va run h with | some s2 => drop s2 (run.map (·.1)) | none => s1, [])
    | (.ok _, s1) =>
      let s2 := if run.any fun e => e.2.bad then s1.homePoisoned q.lid asid va else s1
      (drop (s2.tsStore asid va 0).2 (run.map (·.1)), [])
    | (.fail c d, s1) => (drop s1 (run.map (·.1)), [{ party := h.party, pc := h.pc, code := c, addr := va, detail := d, lane := h.lane, whole := h.whole }])

/-- Stream stores that failed at publication halt their groups, once for each instruction (R158); a uniform store names its whole group (R202). -/
def State.reportUnheld (s : State) (l : List Unheld) : State :=
  (l.map fun u => (u.party, u.pc)).eraseDups.foldl (fun (s : State) (k : Nat × DWord) =>
    let mine := l.filter fun u => u.party = k.1 && u.pc = k.2
    match mine with
    | [] => s
    | u :: _ =>
      let s1 := s.raiseLate u.party u.code (mine.foldl (fun (m : Word) u => m ||| (if u.whole = 0#32 then laneBit u.lane else u.whole)) 0#32) u.pc (BitVec.ofNat 64 u.addr) (BitVec.ofNat 64 u.detail)
      if u.code = 0x40 ∨ u.code = 0x36 ∨ u.code = 0x41 then s1.strike (u.party / 32) u.code else s1) s

/-- The copies of a line in cluster c are dropped, those of every version. -/
def State.dropCopies (s : State) (c asid va : Nat) : State :=
  s.updC c fun k => { k with l1 := delIf k.l1 fun x => x % 2 ^ 65 = lineKey asid va }

/-- Held bytes of cluster c leave its L1; a line of which it holds none any more leaves the directory (R255). -/
def State.unhold (s : State) (c : Nat) (keys : List Nat) : State :=
  let s1 := s.updC c fun k => { k with l1held := delIf k.l1held fun x => keys.contains x }
  (keys.map fun k => k / 128).eraseDups.foldl (fun (s : State) (line : Nat) =>
    let s := s.updC c fun k => { k with l1 := delIf k.l1 fun x => x % 2 ^ 65 = line }
    if (s.cluster c).l1held.any fun e => e.1 / 128 = line then s
    else { s with dir := setD s.dir line ((getD s.dir line []).erase c) [] }) s1

/-- The held bytes that leave with those selected: a line that a release wrote goes only after what the release covers (R251). -/
def covered (all sel : List (Nat × Held)) : List (Nat × Held) :=
  all.filter fun e => sel.any (fun x => x.1 = e.1) ||
    sel.any fun x => x.2.release && decide (e.2.seq < x.2.seq) && (e.2.by_ x.2.party || x.2.others.any fun p => e.2.by_ p)

/-- Publishes held bytes in the order of their stores; what a release wrote stays while something that it covers does, in an L1 or a side log. -/
def State.publishAll (s : State) (origin : Nat) (held : State → List (Nat × Held)) (drop : State → List Nat → State) (sel : List (Nat × Held)) : State :=
  let set := covered (held s) (covered (held s) sel)
  let r := (heldRuns (sortBy (fun (a b : Nat × Held) => decide (a.2.seq ≤ b.2.seq)) set)).foldl (fun (r : State × List Unheld) run =>
    let blocked := run.any fun x => x.2.release && (r.1.loggedBefore x.2.party x.2.seq || (held r.1).any fun e => decide (e.2.seq < x.2.seq) && e.2.by_ x.2.party)
    if blocked then r
    else
      let o := r.1.publishRun origin drop run
      (o.1, r.2 ++ o.2)) (s, [])
  r.1.reportUnheld r.2

/-- Publishes the held bytes of cluster c that satisfy p (address key and byte). -/
def State.publishIf (s : State) (c : Nat) (p : Nat → Held → Bool) : State :=
  s.publishAll c (fun s => (s.cluster c).l1held) (fun s ks => s.unhold c ks) ((s.cluster c).l1held.filter fun e => p e.1 e.2)

/-- Publishes held bytes of other devices' lines at this device's home slices (R251). -/
def State.publishDev (s : State) (p : Nat → Held → Bool) : State :=
  s.publishAll 0 (fun s => s.devHeld) (fun s ks => { s with devHeld := delIf s.devHeld fun x => ks.contains x }) (s.devHeld.filter fun e => p e.1 e.2)

/-- The held bytes of one line of cluster c, and of this device. -/
def State.publishLine (s : State) (c asid va : Nat) : State :=
  (s.publishIf c fun k _ => k / 128 = l1key asid va / 128).publishDev fun k _ => k / 128 = l1key asid va / 128

/-- The release of a party: everything it holds is published (R253). -/
def State.releaseParty (s : State) (c party : Nat) : State := (s.publishIf c fun _ h => h.by_ party).publishDev fun _ h => h.by_ party

/-- Whether a party still holds unpublished stream stores. -/
def State.holdsAny (s : State) (c party : Nat) : Bool :=
  ((s.cluster c).l1held.any fun e => e.2.by_ party) || s.devHeld.any fun e => e.2.by_ party

/-- The acquire of a cluster: every stream copy is replaced at its next use (R253). -/
def State.acquire (s : State) (c : Nat) : State := { s.updC c fun k => { k with l1 := [] } with devCopy := [] }

/-- A line leaves every L1 but cluster c's own, with what its holders' parties stored before: the forced publish of R255 that an acquire
access from outside triggers. The directory names the holders. -/
def State.forcePublish (s : State) (c asid va : Nat) : State :=
  (getD s.dir (lineKey asid va) []).foldl (fun s c' => if c' = c then s else
    let hs := (s.cluster c').l1held.filter fun e => e.1 / 128 = l1key asid va / 128
    hs.foldl (fun s h => s.releaseParty c' h.2.party) s) s

/-- Whether an L1 other than cluster c's still holds stream stores of a line. -/
def State.heldElsewhere (s : State) (c asid va : Nat) : Bool := (getD s.dir (lineKey asid va) []).any fun c' => c' != c

/-! ### Copies in an L1 (R298, R300) -/

/-- Makes room in a set of cluster c's L1 for a line: 16 lines a set, the set VA[13:7]; the copy filled first leaves, or else the line held
longest is published (R298, log entry 114). -/
def State.l1Room (s : State) (c asid va : Nat) : State :=
  let k := s.cluster c
  let set := va / 128 % 128
  let copies := k.l1.filter fun (e : Nat × L1Line) => e.1 % 128 = set
  let held := (k.l1held.filter fun (e : Nat × Held) => e.1 / 128 % 128 = set).map fun (e : Nat × Held) => (e.2.seq, e.1 / 128)
  let lines := ((copies.map fun (e : Nat × L1Line) => e.1 % 2 ^ 65) ++ held.map fun (e : Nat × Nat) => e.2).eraseDups
  if lines.contains (lineKey asid va) ∨ lines.length < 16 then s
  else match sortBy (fun (a b : Nat × L1Line) => decide (a.2.seq ≤ b.2.seq)) copies with
    | (x, _) :: _ => s.updC c fun k => { k with l1 := del k.l1 x }
    | [] => match sortBy (fun (a b : Nat × Nat) => decide (a.1 ≤ b.1)) held with
      | (_, line) :: _ => s.publishIf c fun k _ => k / 128 = line
      | [] => s

/-- Whether the L1 of cluster c has a way for a line. -/
def State.l1Fits (s : State) (c asid va : Nat) : Bool :=
  let k := s.cluster c
  let set := va / 128 % 128
  let lines := (((k.l1.filter fun (e : Nat × L1Line) => e.1 % 128 = set).map fun (e : Nat × L1Line) => e.1 % 2 ^ 65) ++
    (k.l1held.filter fun (e : Nat × Held) => e.1 / 128 % 128 = set).map fun (e : Nat × Held) => e.1 / 128).eraseDups
  lines.contains (lineKey asid va) || decide (lines.length < 16)

/-- The cluster takes a copy of a line: every sector that the home slice holds and that is not poisoned, with the line's lease (R300). -/
def State.l1Fill (s : State) (c lid asid va : Nat) : State :=
  let ver := s.verOf lid asid va
  let line := va / 128 * 128
  let data := (List.range 8).filterMap fun i => (find s.l2 (l2key ver asid (line + 16 * i))).bind fun x => if x.poison then none else some (i, x.data)
  let s1 := s.l1Room c asid va
  if data.isEmpty ∨ !s1.l1Fits c asid va then s
  else
    let t := s1.lineTsOf asid va
    s1.updC c fun k => { k with l1 := put k.l1 (wayKey ver asid va) { data := data, lease := t.lease, wts := t.wts, seq := s.clk } }

/-- The copy of the sector of an address in cluster c's L1. -/
def State.l1Sector (s : State) (c lid asid va : Nat) : Option (BitVec 128) :=
  (find (s.cluster c).l1 (wayKey (s.verOf lid asid va) asid va)).bind fun l => find l.data (va / 16 % 8)

/-- The held byte that a party of a launch finds in cluster c's L1. -/
def State.l1Held (s : State) (c lid asid va : Nat) : Option Byte :=
  (find (s.cluster c).l1held (l1key asid va)).bind fun h =>
    if s.verOf (s.lidOfParty h.party) asid va = s.verOf lid asid va then some h.val else none

/-- The byte that cluster c's L1 gives: a held store, else a copy. -/
def State.l1Byte (s : State) (c lid asid va : Nat) : Option Byte :=
  match s.l1Held c lid asid va with
  | some b => some b
  | none => (s.l1Sector c lid asid va).map fun d => sectorByte d (va % 16)

/-- Whether bytes that cluster c's L1 gives lie in a poisoned sector of it (R378, R381). -/
def State.l1Bad (s : State) (c lid asid va n : Nat) : Bool :=
  (List.range n).any fun i =>
    ((find (s.cluster c).l1held (l1key asid (va + i))).any fun h => h.bad) ||
    (find (s.cluster c).l1 (wayKey (s.verOf lid asid va) asid (va + i))).any fun l => (find l.data ((va + i) / 16 % 8)).isSome && l.bad.testBit ((va + i) / 16 % 8)

/-- A sector of another device's memory becomes a copy in cluster c's L1 (R251). -/
def State.l1FillRemote (s : State) (c : Nat) (q : Req) (va : Nat) : State :=
  let asid := canonAsid q.asid va
  match s.homeRead q (va / 16 * 16) 16 with
  | (.ok bs, s1) =>
    let s2 := s1.l1Room c asid va
    let k := wayKey (s2.verOf q.lid asid va) asid va
    let l := getD (s2.cluster c).l1 k { seq := s.clk }
    if s2.l1Fits c asid va then
      s2.updC c fun x => { x with l1 := put x.l1 k { l with data := put l.data (va / 16 % 8) (BitVec.ofNat 128 (ofBytes bs)) } }
    else s2
  | (_, s1) => s1

/-- Whether an address belongs to another device. -/
def State.isRemote (s : State) (asid va : Nat) : Bool × State :=
  match s.portLeaf (canonAsid asid va) va with
  | (.leaf l, s1) => (l.remote.isSome, s1)
  | (.bad _ _, s1) => (false, s1)

/-! ### The cluster translation buffer (R157, R239, R324) -/

/-- The entry of a cluster's CTB that covers an address, of the MAST kind or not. -/
def Cluster.ctbFind (k : Cluster) (mast : Bool) (asid va : Nat) : Option CtbEntry :=
  k.ctb.find? fun e => e.mast = mast && e.asid = asid && e.va ≤ va && va < e.va + e.psize

/-- Lists an entry as most recently used; at most 1,024 entries, 256 of them MAST (R324). -/
def Cluster.ctbPut (k : Cluster) (e : CtbEntry) : Cluster :=
  let rest := k.ctb.filter fun x => !(x.mast = e.mast && x.asid = e.asid && x.va < e.va + e.psize && e.va < x.va + x.psize)
  let l := e :: rest
  let masts := l.filter fun x => x.mast
  let l1 := if masts.length > 256 then (match masts.getLast? with | some x => l.erase x | none => l) else l
  let lanes := l1.filter fun x => !x.mast
  let l2 := if l1.length > 1024 then (match lanes.getLast? with | some x => l1.erase x | none => l1) else l1
  { k with ctb := l2 }

/-- The attributes of an address for a lane access of cluster c: the CTB, else a refill through the port (R157, R308). -/
def State.attrs (s : State) (c asid va : Nat) : (Except (Nat × Nat) CtbEntry) × State :=
  let asid := canonAsid asid va
  match (s.cluster c).ctbFind false asid va with
  | some e => (.ok e, s.updC c fun k => k.ctbPut e)
  | none =>
    let (w, s1) := s.portLeaf asid va false
    match w with
    | .bad c x => (.error (c, x), s1)
    | .leaf l =>
      let (e, s1) := s1.asidEntry (homeDie asid va) asid
      let world := asidWorld e
      if l.remote.isSome ∧ world ≠ 0 then (.error (0x35, 0), s1)
      else
        let e : CtbEntry := { mast := false, asid := asid, va := va / l.psize * l.psize, psize := l.psize, world := world
                              sealed_ := l.sealed_, res := l.res, x := l.x, w := l.w, rd := l.rd, pa := 0 }
        (.ok e, s1.updC c fun k => k.ctbPut e)

/-! ### Scratchpad (R150, R151, R356) -/

/-- The scratchpad key of offset a of a block: bank × 16384 + byte. -/
def Block.spKey (b : Block) (a : Nat) : Nat := (b.banks.getD (a / 16384) 0) * 16384 + a % 16384

/-- A byte of a block's scratchpad. -/
def State.spByte (s : State) (b : Block) (a : Nat) : Byte := getD (s.cluster b.cluster).scratch (b.spKey a) 0#8

/-- n bytes of a block's scratchpad. -/
def State.spRead (s : State) (b : Block) (a n : Nat) : List Byte := (List.range n).map fun i => s.spByte b (a + i)

/-- Whether a byte range of a block's scratchpad touches a poisoned 8-byte granule (R378, R381). -/
def State.spPoison (s : State) (b : Block) (a n : Nat) : Bool :=
  (List.range n).any fun i => getD (s.cluster b.cluster).poison (b.spKey (a + i) / 8) false

/-- Stores bytes into a block's scratchpad; a granule whose every byte is written loses its poison mark (R380, R384). -/
def State.spWrite (s : State) (b : Block) (a : Nat) (bs : List Byte) : State :=
  s.updC b.cluster fun k =>
    let n := bs.length
    { k with
      scratch := (List.range n).foldl (fun m i => setD m (b.spKey (a + i)) (bs.getD i 0#8) 0#8) k.scratch
      poison := delIf k.poison fun g =>
        (List.range n).any (fun i => b.spKey (a + i) / 8 = g) &&
        (List.range 8).all fun j => (List.range n).any fun i => b.spKey (a + i) = 8 * g + j }

end Sys2Proof.Machine
end

