-- ==== Sys2Proof/Machine/Sched.lean ====
section
/-!
DEFINITION. The active and pending sets of a sub-partition (R289-R294): promotion, parking, waking, swapping.
-/
namespace Sys2Proof.Machine
open Sys2Proof

/-- Whether a group is in its sub-partition's active set. -/
def Group.inActive (g : Group) : Bool := match g.phase with | .aReady => true | .aStall => true | .aPark => true | _ => false

/-- Whether a group is resident in a sub-partition (R289). -/
def Group.residentAt (g : Group) (c sp : Nat) : Bool := g.cluster = c && g.sp = sp && g.phase != .retired

/-- Whether a group's block has an active place left under MAXACT (R282, R292); `without` is the group that leaves. -/
def State.maxactOk (s : State) (g : Group) (without : Nat) : Bool :=
  ((s.groups.filter fun (e : Nat × Group) => e.2.bid = g.bid && e.2.inActive && e.1 != without).length : Nat) < (s.variantOf g).maxact

/-- Whether a pending group can be promoted (R292): it is not halted, by `haltb` or by the dispatcher for a save (R289). One that was woken in the clk of its swap-out is not returned in that clk (R294). -/
def State.promotable (s : State) (c sp without : Nat) (e : Nat × Group) : Bool :=
  e.2.residentAt c sp && !e.2.halted && (match e.2.phase with | .pReady _ => true | _ => false) && s.maxactOk e.2 without &&
  !(e.2.phase == .pReady true && e.2.since = s.clk) &&
  (match s.blockOf e.2 with | some b => b.phase == .resident && b.saving.isNone | none => false)

/-- The wake bit of a pending group. -/
def Group.wakeBit (g : Group) : Bool := match g.phase with | .pReady w => w | _ => false

/-- Whether group a stands before group b in the order of R292. -/
def State.promotedBefore (s : State) (a b : Nat × Group) : Bool :=
  let placed (g : Group) : Nat := match s.blockOf g with | some k => k.placedAt | none => 0
  match a.2.wakeBit, b.2.wakeBit with
  | true, false => true
  | false, true => false
  | true, true => decide (a.2.since < b.2.since) || (a.2.since = b.2.since && decide (a.2.slot < b.2.slot))
  | false, false =>
    decide (a.2.age < b.2.age) ||
    (a.2.age = b.2.age && (decide (a.2.num < b.2.num) ||
      (a.2.num = b.2.num && (decide (placed a.2 < placed b.2) || (placed a.2 = placed b.2 && decide (a.1 < b.1))))))

/-- The group that a promotion takes (R292), of those that were ready before clk `until_`. -/
def State.candidateBefore (s : State) (c sp without until_ : Nat) : Option (Nat × Group) :=
  (s.groups.filter fun e => s.promotable c sp without e && decide (e.2.since < until_)).foldl (fun best e =>
    match best with
    | none => some e
    | some b => if s.promotedBefore e b then some e else some b) none

/-- The group that a promotion takes (R292). -/
def State.candidate (s : State) (c sp without : Nat) : Option (Nat × Group) := s.candidateBefore c sp without (s.clk + 1)

/-- The lowest free active slot of a sub-partition (R289). -/
def State.freeSlot (s : State) (c sp : Nat) : Option Nat :=
  (List.range 8).find? fun i => !s.groups.any fun (e : Nat × Group) => e.2.residentAt c sp && e.2.active == some i

/-- Promotes a group into an active slot; its wake bit is cleared (R292). -/
def State.promote (s : State) (gid slot : Nat) : State :=
  s.updG gid fun g => { g with phase := .aReady, active := some slot, entered := s.clk, waiting := .nothing }

/-- The A-PARK group that is swapped out first: the longest parked (R291). -/
def State.longestParked (s : State) (c sp : Nat) : Option (Nat × Group) :=
  (s.groups.filter fun (e : Nat × Group) => e.2.residentAt c sp && e.2.phase == .aPark).foldl (fun best e =>
    match best with
    | none => some e
    | some b => if decide (e.2.since < b.2.since) then some e else some b) none

/-- Fills the sub-partition's active set: free slots first, then the places of parked groups, for groups that became ready in an earlier clk
(R291, R292). -/
def State.schedule (s : State) (c sp : Nat) : Nat → State
  | 0 => s
  | n + 1 =>
    match s.freeSlot c sp with
    | some slot => (match s.candidate c sp 0 with
      | some e => (s.promote e.1 slot).schedule c sp n
      | none => s)
    | none =>
      match s.longestParked c sp with
      | none => s
      | some p => match s.candidateBefore c sp p.1 s.clk with
        | none => s
        | some e =>
          let slot := p.2.active.getD 0
          let s1 := s.updG p.1 fun g => { g with phase := .pPark, active := none, since := s.clk }
          (s1.promote e.1 slot).schedule c sp n

/-- Fills the four sub-partitions' active sets of a cluster: MAXACT counts a block's groups in all of them (R282). -/
def State.scheduleAll (s : State) (c : Nat) : State := (List.range 4).foldl (fun (s : State) sp => s.schedule c sp 32) s

/-- Time passes: in the next clk A-PARK groups give way to groups that have become ready, and what a swap-out barred from its own clk may return
(R291, R294). A group that enters so may issue in that same clk: R291 says from which clk on only for the swap at the park (DESIGN CHOICE, log
entry 149). -/
def State.advance (s : State) (dt : Nat) : State :=
  if dt = 0 || !s.groups.any (fun (e : Nat × Group) => match e.2.phase with | .pReady _ => true | _ => false) then { s with clk := s.clk + dt }
  else
    let s1 : State := { s with clk := s.clk + 1 }
    { ((s1.groups.map fun (e : Nat × Group) => e.2.cluster).eraseDups).foldl State.scheduleAll s1 with clk := s.clk + dt }

/-- Parks the current group on a long-latency dependence (R289, R291): pending transient results are discarded (R56, R174); a ready
pending group takes its slot. -/
def State.park (s : State) (gid : Nat) (w : Waiting) : State :=
  match find s.groups gid with
  | none => s
  | some g =>
    let pc := match s.cur with | .group _ p => p | _ => g.waitPc
    let s1 := s.updG gid fun g => { g.dropTransient with phase := .aPark, waiting := w, waitPc := pc, since := s.clk }
    match s1.candidate g.cluster g.sp gid with
    | none => s1
    | some e => ((s1.updG gid fun g => { g with phase := .pPark, active := none }).promote e.1 (g.active.getD 0)).scheduleAll g.cluster

/-- The event that a parked group waits for arrives (R289, R294): in the clk of its swap-out the wake bit is set. -/
def State.wake (s : State) (gid : Nat) : State :=
  match find s.groups gid with
  | none => s
  | some g =>
    match g.phase with
    | .aPark => s.updG gid fun g => { g with phase := .aReady, waiting := .nothing }
    | .pPark => (s.updG gid fun g => { g with phase := .pReady (decide (g.since = s.clk)), waiting := .nothing, since := s.clk }).scheduleAll g.cluster
    | _ => s

/-- `yield` (R229, R291): a ready pending group takes the slot of an active one. -/
def State.yieldTo (s : State) (gid : Nat) : State :=
  match find s.groups gid with
  | none => s
  | some g => match s.candidate g.cluster g.sp gid with
    | none => s
    | some e => ((s.updG gid fun g => { g.dropTransient with phase := .pReady false, active := none, since := s.clk }).promote e.1 (g.active.getD 0)).scheduleAll g.cluster

end Sys2Proof.Machine
end

