-- ==== Sys2Proof/Machine/Issue.lean ====
section
/-!
DEFINITION. What an issue is: the issued and executing lanes (R98, R202), who may issue, stalls, the checks of R59-R61, the wait of a
switch marker (R55), and what every path shares afterwards.
-/
namespace Sys2Proof.Machine
open Sys2Proof

/-- The registers an instruction names, for the budget check (R9, R44). -/
structure Uses where
  v : List Nat := []
  s : List Nat := []
  t : List Nat := []
  a : List Nat := []
  deriving DecidableEq, Repr

/-- Every named register lies within the variant's budget (R9). -/
def Uses.within (u : Uses) (x : Variant) : Bool :=
  u.v.all (· < x.vregs) && u.s.all (· < x.vregs) && u.t.all (· < x.tiles) && u.a.all (· < x.accs)

/-- How many registers a data operand of SIZE names (R47). -/
def dataRegs (size : Nat) : Nat := if size = 3 then 2 else if size = 4 then 4 else 1

/-- Consecutive registers from r. -/
def regRun (r n : Nat) : List Nat := (List.range n).map (r + ·)

/-! ### Poisoned entries that an instruction reads (R378, R381) -/

/-- The registers that an instruction writes as a whole without reading them: every other one that it names it reads. -/
def freshOf (i : Instr) : Uses :=
  match i with
  | .iadd f | .isub f | .iadds f | .isubs f | .imul f | .imulh f | .imin f | .imax f | .andI f | .orI f | .xorI f | .andn f | .shl f | .shr f | .sra f
  | .fadd f | .fsub f | .fmul f | .fmin f | .fmax f | .hadd f | .hmul f | .badd f | .bmul f => { v := [f.d] }
  | .iaddw f => { v := [f.d, f.d + 1] }
  | .shli f | .shri f | .srai f => { v := [f.d] }
  | .popc f | .clz f | .fabs f | .fneg f | .frcp f | .frsq f | .fsqrt f | .fexp2 f | .flog2 f | .fsin f | .fcos f => { v := [f.d] }
  | .movl f => { v := [f.d] }
  | .icvf f | .fcvi f | .fcvh f | .icvn f => { v := [f.d] }
  | .hcvf f => { v := [f.d, f.d + 1] }
  | .bpk f | .bunpk f | .bpsel f => { v := [f.d] }
  | .pmovGet f => { v := [f.d] }
  | .srd f => { v := if 8 ≤ f.sel.val then [f.d, f.d + 1] else [f.d] }
  | .shfl f => { v := if 4 ≤ f.op.val then [f.d, f.d + 1] else [f.d] }
  | .vote f | .redi f | .redf f | .scani f => { v := [f.d] }
  | .qswp f => { v := [f.d] }
  | .qbcast f => { v := [f.d] }
  | .qfill f => { v := [f.d] }
  | .ld f | .lds f | .ldacq f | .ldsh f | .ldssh f | .ldg f | .ldbc f => { v := regRun f.d (dataRegs f.size) }
  | .gwaddr f => { v := [f.d] }
  | .qrd f => { v := [f.v, f.v + 1] }
  | .qstat f => { v := [f.v] }
  | .acpyReg f => { v := regRun f.c (f.n1 + 1) }
  | .acpyStat f => { v := [f.c] }
  | .tmovGet f => { v := regRun f.c (f.n1 + 1) }
  | .sadd f | .ssub f | .smul f | .smin f | .smax f | .sand f | .sor f | .sxor f | .sshl f | .sshr f | .ssra f => { s := regRun f.d (f.w + 1) }
  | .smovl f => { s := regRun f.d (f.w + 1) }
  | .ssr f => { s := regRun f.d (f.w + 1) }
  | .sget f => { s := [f.d] }
  | .tlread f => { s := regRun f.d (f.w + 1) }
  | .sld f | .sldsh f => { s := regRun f.d (dataRegs f.size) }
  | _ => {}

/-- The registers an instruction reads beside those that its form names: the run of `tmov.put` and `aset` (R193, R195). -/
def runOf (i : Instr) : List Nat :=
  match i with
  | .tmovPut f => regRun f.c (f.n1 + 1)
  | .aset f => regRun f.c (f.n1 + 1)
  | _ => []

/-- Whether a lane also reads other lanes' words of its source: they count whole (R114, R115, R137; log entry 133). -/
def crossLane (i : Instr) : Bool :=
  match i with
  | .bpk _ | .bunpk _ | .qswp _ | .qbcast _ | .shfl _ => true
  | _ => false

/-- An instruction of a group at issue (R98): group, PC, length in bytes, issued lanes I, executing lanes E. -/
structure Issue where
  gid : Nat
  g : Group
  pc : DWord
  len : Nat
  I : Word
  E : Word
  deriving DecidableEq, Repr

/-- The tiles that an `mma` streams for the group that holds the engine (R179, R187): TA and the length of its run. -/
def State.runOfMma (s : State) (gid : Nat) (g : Group) (flip : Fin 2) : Nat :=
  let e := s.engine g.cluster g.sp
  let d := if flip.val = 1 then e.issueShadow else e.issueActive
  if e.holder != some gid then 1 else if d.1 = 1 then d.2.1 / 64 else if d.1 = 2 then d.2.1 / 128 else 1

/-- TYPE of the format slot that a matrix instruction names (R86). -/
def State.slotTypeOf (s : State) (g : Group) (i : Instr) : Nat :=
  let ty (n : Nat) : Nat := match s.launchOfG g with | some l => bits (l.record.fmt.getD n 0#128).toNat 7 0 | none => 0
  match i with
  | .acpyTile f => ty f.fmt
  | _ => 0

/-- Whether an instruction reads word w of tile t for lane l (R184, R188, R194, R195). -/
def State.readsTile (s : State) (it : Issue) (i : Instr) (l t w : Nat) : Bool :=
  match i with
  | .mldwTile f => (t = f.ta.val || t = f.ta.val + 1) && it.E &&& ~~~it.g.helper != 0#32
  | .mma f => decide (f.ta.val ≤ t) && decide (t < f.ta.val + s.runOfMma it.gid it.g f.flip) && w / 32 = l
  | .tst f | .tstsh f => t = f.ta.val && w / 32 = l && !it.g.helper.getLsbD l
  | .tmovGet f => t = f.ta.val && w / 32 = l && decide (f.j0.val ≤ w % 32) && decide (w % 32 ≤ f.j0.val + f.n1.val)
  | _ => false

/-- Whether an instruction that ran in the lanes E wrote word w of tile t (R192, R194, R195). -/
def writesTile (i : Instr) (ty : Nat) (E : Word) (t w : Nat) : Bool :=
  match i with
  | .tld f | .tldsh f => t = f.ta.val && E.getLsbD (w / 32)
  | .tmovPut f => t = f.ta.val && E.getLsbD (w / 32) && decide (f.j0.val ≤ w % 32) && decide (w % 32 ≤ f.j0.val + f.n1.val)
  | .acpyTile f => t = f.ta.val && E.getLsbD (w / 32) && (ty != 4 || w % 32 / 16 = f.h.val)
  | _ => false

/-- Whether `aset` writes word x of its tile from the registers of the lanes E (R193). -/
def asetWrites (f : AsetForm) (E : Word) (x : Nat) : Bool :=
  decide (x < 2048) && E.getLsbD (x / 64) && decide (f.j0.val ≤ x % 64) && decide (x % 64 ≤ f.j0.val + f.n1.val)

/-- Whether an instruction reads word x of accumulator tile a for lane l (R188, R190-R193); a drain check reads the whole tile. Of the status word the
conversion of a float slot reads TYPE (log entry 120). -/
def readsAcc (i : Instr) (ty : Nat) (E : Word) (l a x : Nat) : Bool :=
  let row := decide (x < 2048) && x / 64 = l
  let cols (j n : Nat) : Bool := row && decide (j ≤ x % 64) && decide (x % 64 < j + n)
  match i with
  | .mma f => a = f.acc.val && f.zc.val = 0 && (row || x = 2048 + l || (decide (2080 ≤ x) && decide (x < 2144)))
  | .acpyReg f => a = f.acc.val && (f.ckd.val = 1 || cols f.j0 (f.n1 + 1))
  | .acpyTile f => a = f.acc.val && (f.ckd.val = 1 || (if ty = 1 ∨ ty = 6 then cols (32 * f.h) 32 else row) || ((ty = 2 || ty = 3) && x = 2144))
  | .acpyMem f => a = f.acc.val && (f.ckd.val = 1 || row)
  | .acpyStat f => a = f.acc.val && x = 2144
  | .ackd f => a = f.acc.val
  | .aset f => a = f.acc.val && decide (x < 2048) && !asetWrites f E x
  | _ => false

/-- Whether an instruction that ran in the lanes E wrote word x of accumulator tile a (R188, R192, R193). -/
def writesAcc (i : Instr) (E : Word) (a x : Nat) : Bool :=
  match i with
  | .azero f => a = f.acc.val
  | .mma f => a = f.acc.val && f.zc.val = 1
  | .acpyReg f => a = f.acc.val && f.zc.val = 1
  | .acpyTile f => a = f.acc.val && f.zc.val = 1
  | .acpyMem f => a = f.acc.val && f.zc.val = 1
  | .aset f => a = f.acc.val && (asetWrites f E x || (decide (2048 ≤ x) && decide (x < 2144)))
  | _ => false

/-- Whether an instruction reads entry d of lane l's return stack (R118, R138): a return its newest, a call on a full stack its oldest, which it spills,
`qfill` those that it copies from the lowest lane of a quad. -/
def readsStack (it : Issue) (i : Instr) (l d : Nat) : Bool :=
  let n := (it.g.stackOf l).length
  let newest := decide (0 < n) && d = it.g.spillOf l + n - 1
  let oldest := decide (8 ≤ n) && d = it.g.spillOf l
  match i with
  | .ret _ | .sret _ => newest
  | .call _ | .callrVector _ | .callrUniform _ | .scall _ => oldest
  | .qfill _ =>
    decide (it.g.spillOf l ≤ d) && decide (d < it.g.spillOf l + n) && ((List.range 4).map (l / 4 * 4 + ·)).all (fun m => decide (l ≤ m) || !it.E.getLsbD m) &&
      ((List.range 4).map (l / 4 * 4 + ·)).any fun m => it.g.exited.getLsbD m
  | _ => false

/-- The lane or uniform predicates and rejoin masks that an instruction under guard gd reads: its guard among them. -/
def readsEntry (i : Instr) (uniform : Bool) (gd : Nat) (e : ErrPlace) : Bool :=
  match e, i with
  | .pred p, .plog f => p = gd || p = f.x.val || p = f.y.val
  | .pred _, .pmovGet _ => true
  | .pred p, _ => !uniform && p = gd
  | .upred p, .klog f => p = gd || p = f.x.val || p = f.y.val
  | .upred p, _ => uniform && p = gd
  | .rejoin j, .waitI f => j = f.j.val
  | .rejoin j, .join f => j = f.j.val
  | .rejoin _, .qfill _ => true
  | _, _ => false

/-- Whether an instruction that names the registers u reads entry e in lane l (R381). -/
def State.readsPlace (s : State) (it : Issue) (i : Instr) (u : Uses) (uniform : Bool) (gd l : Nat) (e : ErrPlace) : Bool :=
  let f := freshOf i
  match e with
  | .vreg k r => (k = l || crossLane i) && (u.v.diff f.v ++ runOf i).contains r
  | .sreg r => (u.s.diff f.s).contains r
  | .tile t w => s.readsTile it i l t w
  | .acc a x => readsAcc i (s.slotTypeOf it.g i) it.E l a x
  | .stack k d => k = l && readsStack it i l d
  | e => readsEntry i uniform gd e

/-- Whether an instruction that ran in the lanes E wrote entry e as a whole: the poison is gone (R380). -/
def State.rewrites (s : State) (it : Issue) (i : Instr) (E : Word) (e : ErrPlace) : Bool :=
  let f := freshOf i
  match e, i with
  | .vreg k r, _ => E.getLsbD k && f.v.contains r
  | .sreg r, _ => f.s.contains r
  | .tile t w, _ => writesTile i (s.slotTypeOf it.g i) E t w
  | .acc a x, _ => writesAcc i E a x
  | .pred p, .plog f => E = BitVec.allOnes 32 && p = f.p.val
  | .pred p, .icmp f => E = BitVec.allOnes 32 && p = f.p.val
  | .pred p, .fcmp f => E = BitVec.allOnes 32 && p = f.p.val
  | .pred _, .pmovSet _ => E = BitVec.allOnes 32
  | .upred p, .scmp f => p = f.p.val
  | .upred p, .klog f => p = f.p.val
  | .stack k d, .call _ | .stack k d, .callrVector _ | .stack k d, .callrUniform _ | .stack k d, .scall _ =>
    E.getLsbD k && d = it.g.spillOf k + (it.g.stackOf k).length
  | _, _ => false

/-- The PC after the instruction: the sum as a PC (R13, log entry 119). -/
def Issue.nextPc (it : Issue) : DWord := asPc (it.pc + BitVec.ofNat 64 it.len)

/-- The lanes of m take the next PC. -/
def Issue.past (it : Issue) (m : Word) (s : State) : State := s.updG it.gid fun g => g.setPc m it.nextPc

/-- Whether a group's accesses stall at issue: behind accesses of the matrix pipe (R142, R181), and behind a `qrd` that has not received its
entries, which orders them as an acquire does (R258, log entry 124). -/
def Group.holdsBack (g : Group) : Bool := g.pipeMem || g.awaits != 0

/-- Whether an instruction that accesses memory must wait before it issues: as above, and, for an ordinary access, behind the side-log entries
that a restored group still counts (R246). -/
def Issue.mustWait (it : Issue) (stream : Bool) : Bool := it.g.holdsBack || (!stream && it.g.sideCount != 0)

/-- The same for an access that enters the matrix pipe, whose order keeps it behind earlier ones there (R180, R181). -/
def Issue.mustWaitPipe (it : Issue) : Bool := it.g.awaits != 0 || it.g.sideCount != 0

/-- Every lane of I takes the next PC, after f has changed the group (R98). -/
def Issue.done (it : Issue) (s : State) (f : Group → Group) : State := s.updG it.gid fun g => (f g).setPc it.I it.nextPc

/-- Whether a restored group holds the engine while its planes are still to be reloaded (R198): it does not issue before. -/
def State.reloading (s : State) (g : Group) : Bool :=
  g.planeOwed.isSome &&
  match (s.engine g.cluster g.sp).holder with
  | some h => (find s.groups h).any fun x => x.bid = g.bid && x.num = g.num
  | none => false

/-- Whether the path of a group at pc may issue as far as the group's own state goes: it is ready, or stalled by this path's own
instruction (R162, R289). A fetch that a page delays holds only its own lanes (R441), and a call or return whose spill waits goes on whatever its group
waits for (R120). -/
def Group.pathOpen (g : Group) (pc : DWord) : Bool :=
  match g.phase with
  | .aReady => true
  | .aPark => g.spilling.contains pc
  | .pPark => g.spilling.contains pc
  | .aStall => g.waitPc == pc || g.issued g.waitPc == 0#32 || (match g.waiting with | .fetch _ _ => true | _ => false)
  | _ => false

/-- Whether a group stands at a fence that waits only for what its matrix pipe does within the bounds of R338: the fence completes before a halt
(R262). -/
def State.fenceFirst (s : State) (gid : Nat) (g : Group) : Bool :=
  g.phase == .aStall && g.waiting == .fence && g.replay.isEmpty && g.sideCount = 0 && g.pipeMem && !(g.pipe.any fun w => match w.instr with | .mldwMem _ => true | _ => false) &&
  !s.clusters.any fun (e : Nat × Cluster) => (e.2.sideLogs.any fun (l : Nat × List SideLog) => l.2.any fun x => x.gid = gid) || e.2.pieces.any fun p => p.gid = gid

/-- Whether a group may issue its path at pc: active and ready, not halted, its block resident, not held for a coresident release (R272), no
F_RESTORED of its block still to be delivered (R328), and no load that a restore owes still out (R31). -/
def State.mayIssue (s : State) (g : Group) (pc : DWord) : Bool :=
  g.pathOpen pc && !g.halted && !s.reloading g && !(g.replay.any fun p => p.restored) &&
  (match s.blockOf g with
    | some b => b.phase == .resident && !b.held && (b.saving.isNone || s.fenceFirst (g.bid * 32 + g.num) g) && !(s.mast g.cluster).events.any fun e => e.code = 0x56 && e.bid = g.bid
    | none => false)

/-- The PC of the path that is current, for a group's records. -/
def State.curPc (s : State) (g : Group) : DWord := match s.cur with | .group _ p => p | _ => g.waitPc

/-- A group that stalls at issue stays in its slot: until the stall ends it issues nothing else (R162, R289). -/
def State.stall (s : State) (gid : Nat) (w : Waiting) : State :=
  s.updG gid fun g => { g with phase := .aStall, waiting := w, waitPc := s.curPc g }

/-- An access that must wait: the issue stalls for the pipe and for `qrd`, the group parks for its side-log count (R246, R289). -/
def Issue.waitTurn (it : Issue) (s : State) : State :=
  if it.g.holdsBack then s.stall it.gid .engine else s.park it.gid .sideLog

/-- The same for one that is to enter the pipe. -/
def Issue.waitTurnPipe (it : Issue) (s : State) : State := if it.g.awaits != 0 then s.stall it.gid .engine else s.park it.gid .sideLog

/-- A group that issues is ready again, but for a fetch of another path that a page still delays. -/
def State.unstall (s : State) (gid : Nat) : State :=
  s.updG gid fun g =>
    if g.phase = .aStall ∧ (g.waitPc = s.curPc g ∨ g.issued g.waitPc = 0#32) then { g with phase := .aReady, waiting := .nothing } else g

/-- What an issue check of a lane-set instruction does (R59-R61): the fault, or past it where only helpers are concerned. Whether a word so
passed over counts among the three instructions of R56 the spec leaves open; the model does not count it (DESIGN CHOICE, log entry 115). -/
def Issue.laneFault (it : Issue) (s : State) (code : Nat) : State :=
  let solid := ~~~it.g.helper
  if it.E ≠ 0#32 then
    if it.E &&& solid = 0#32 then it.past it.I s else s.raise it.gid code it.E it.pc 0#64 0#64
  else
    if it.I &&& solid = 0#32 then it.past it.I s else s.raise it.gid code (it.I &&& solid) it.pc 0#64 0#64

/-- The issue fault of an instruction of a group, if any, in the order of R60 (illegal opcodes never decode). -/
def State.issueFault (s : State) (g : Group) (i : Instr) (u : Uses) (slots : Bool) : Option Nat :=
  if !i.wf || !slots then some 0x02 else if !u.within (s.variantOf g) then some 0x04 else none

/-- Whether an instruction at pc with the switch marker must wait (R55): something is outstanding, or a call or return of another path waits for its
spill; one that waits for its own has passed its marker (R120). -/
def swWaits (sw : Fin 2) (g : Group) (pc : DWord) : Bool := sw.val = 1 && !g.spilling.contains pc && (g.outstanding || !g.spilling.isEmpty)

/-- A group parked for its results goes on when none is outstanding (R55). -/
def State.unparkResults (s : State) (gid : Nat) : State :=
  match find s.groups gid with
  | some g => if g.waiting == .results && !swWaits 1 g g.waitPc then s.wake gid else s
  | none => s

/-- Whether a mast core may execute: released, running, not stopped and not stalled (R24, R332). -/
def Mast.mayRun (m : Mast) : Bool := m.running && !m.stopped && m.wait == .nothing

end Sys2Proof.Machine
end

