-- ==== Sys2Proof/Machine/GroupWide.lean ====
section
/-!
DEFINITION. Group-wide operations (R130-R136): member masks, what completes one, its results, and the ones that complete because lanes
exit (R131, R139).
-/
namespace Sys2Proof.Machine
open Sys2Proof

/-- opb(l) (R99): the b operand of lane l, from either file. -/
def Group.opb (g : Group) (e : Fin 2) (b : Nat) (l : Nat) : Word := if e.val = 1 then g.sreg b else g.readV l b

/-! ### Member masks (R49, R130) -/

/-- The member mask M of a G form. -/
def Group.members (g : Group) (mreg : Nat) (mall : Fin 2) : Word := if mall.val = 1 then BitVec.allOnes 32 else g.sreg mreg

/-! ### Group-wide operations: completion (R130, R131) -/

/-- Whether a lane is held at P for a group-wide operation with mask M. -/
def Group.heldMember (g : Group) (P : DWord) (M : Word) (l : Nat) : Bool :=
  g.pcOf l == P && match g.holdOf l with | .member m _ _ _ => m == M | _ => false

/-- The contributors of a completing operation: held lanes whose guard was true. -/
def Group.contributors (g : Group) (P : DWord) (M : Word) : Word :=
  maskOf fun l => g.heldMember P M l && match g.holdOf l with | .member _ gd _ _ => gd | _ => false

/-- The operands of lane l of a group-wide operation, when it arrives: x, the register after it, y. -/
def Group.operandsOf (g : Group) (i : Instr) (l : Nat) : List Word :=
  match i with
  | .shfl f => [g.readV l f.a, g.readV l (f.a + 1), g.opb f.e f.b l]
  | .vote f => [g.readV l f.a]
  | .redi f => [g.readV l f.a]
  | .redf f => [g.readV l f.a]
  | .scani f => [g.readV l f.a]
  | _ => []

/-- Operand k of a held lane. -/
def Group.held (g : Group) (l k : Nat) : Word := match g.holdOf l with | .member _ _ _ ops => ops.getD k 0#32 | _ => 0#32

/-- Completes a group-wide operation if every non-exited lane of M is held at P: `res g C l` are the register values lane l of C gets. A mask that
names exited lanes sets XMASK, also where it names no other (R131). -/
def Group.completeMember (g : Group) (P : DWord) (M : Word) (len : Nat) (res : Group → Word → Nat → List (Nat × Word)) : Group :=
  let need := M &&& g.live
  if (lanesOf need).all fun l => g.heldMember P M l then
    let C := g.contributors P M
    let g1 := (lanesOf C).foldl (fun g' l => (res g C l).foldl (fun g' w => g'.setV l w.1 w.2) g') g
    let g2 := (g1.setHold need .free).setPc need (asPc (P + BitVec.ofNat 64 len))
    if M &&& g.exited ≠ 0#32 then g2.sticky stXmask else g2
  else g

/-- The results of an instruction of the G form for lane l of C (R132-R136), from the operands of the held lanes. When those are
read, at a lane's arrival or at completion, the spec leaves open; the model reads them at its arrival, transients with them (DESIGN CHOICE, log
entry 116). -/
def groupResult (i : Instr) (g : Group) (C : Word) (l : Nat) : List (Nat × Word) :=
  match i with
  | .shfl f =>
    let op := f.op.val
    let y := g.held l 2
    let src : Option Nat := match op % 4 with
      | 0 => some (y.toNat % 32)
      | 1 => some ((((l : Int) + y.toInt) % 32).toNat)
      | 2 => let k := (l : Int) + y.toInt; if 0 ≤ k ∧ k < 32 then some k.toNat else none
      | _ => some (l ^^^ (y.toNat % 32))
    let val (r : Nat) : Word := match src with
      | some k => if C.getLsbD k then g.held k r else 0#32
      | none => 0#32
    if op ≥ 4 then [(f.d, val 0), (f.d + 1, val 1)] else [(f.d, val 0)]
  | .vote f =>
    let inp (k : Nat) : Bool := g.held k 0 != 0#32
    let ls := lanesOf C
    let v : Word := match f.op.val with
      | 0 => maskOf fun k => C.getLsbD k && inp k
      | 1 => BitVec.ofNat 32 (ls.countP inp)
      | 2 => match ls.find? inp with | some k => BitVec.ofNat 32 k | none => 32#32
      | 3 => if ls.all inp then 1#32 else 0#32
      | 4 => if ls.any inp then 1#32 else 0#32
      | _ => match ls with
        | [] => 1#32
        | k :: _ => if ls.all fun j => g.held j 0 == g.held k 0 then 1#32 else 0#32
    [(f.d, v)]
  | .redi f =>
    let xs := (lanesOf C).map fun k => g.held k 0
    let v : Word := match f.op.val with
      | 0 => xs.foldl (· + ·) 0#32
      | 1 => xs.foldl sminBv 0x7FFFFFFF#32
      | 2 => xs.foldl smaxBv 0x80000000#32
      | 3 => xs.foldl uminBv 0xFFFFFFFF#32
      | 4 => xs.foldl umaxBv 0#32
      | 5 => xs.foldl (· &&& ·) 0xFFFFFFFF#32
      | 6 => xs.foldl (· ||| ·) 0#32
      | 7 => xs.foldl (· ^^^ ·) 0#32
      | _ => BitVec.ofInt 32 (clampS 32 ((xs.map BitVec.toInt).foldl (· + ·) 0))
    [(f.d, v)]
  | .redf f =>
    let ident : Nat := match f.op.val with | 0 => 0x80000000 | 1 => 0x7F800000 | _ => 0xFF800000
    let comb : Nat → Nat → Nat := match f.op.val with | 0 => fp32.add | 1 => fmin32 | _ => fmax32
    let rec tree (fuel : Nat) (t : List Nat) : Nat :=
      match fuel with
      | 0 => t.headD 0
      | n + 1 => tree n ((List.range (t.length / 2)).map fun i => comb (t.getD (2 * i) 0) (t.getD (2 * i + 1) 0))
    [(f.d, BitVec.ofNat 32 (tree 5 ((List.range 32).map fun k => if C.getLsbD k then (g.held k 0).toNat else ident)))]
  | .scani f =>
    let xs := (lanesOf C).filter fun k => if f.op.val = 0 then k ≤ l else k < l
    [(f.d, xs.foldl (fun t k => t + g.held k 0) 0#32)]
  | _ => []

/-- The lanes held at P for a group-wide operation with another mask than M. -/
def Group.otherMask (g : Group) (P : DWord) (M : Word) : Bool :=
  (lanesOf g.live).any fun l => g.pcOf l == P && match g.holdOf l with | .member m _ _ _ => m != M | _ => false

/-- Completes the group-wide operation that lane l is held at, if it can (R130, R131). -/
def Group.settleLane (g : Group) (l : Nat) : Group :=
  match g.holdOf l with
  | .member M _ i _ => g.completeMember (g.pcOf l) M 8 (groupResult i)
  | _ => g

/-- Completes every group-wide operation whose last missing member has left (R131, R139). -/
def Group.settleMembers (g : Group) : Group := (List.range 32).foldl Group.settleLane g

/-- Lets the lanes held for convergence issue again once every remaining lane of the group stands at the same instruction (R163). -/
def Group.settleConverge (g : Group) : Group :=
  match (lanesOf g.live).head? with
  | none => g
  | some l0 =>
    if (lanesOf g.live).all fun l => g.holdOf l == .converge && g.pcOf l == g.pcOf l0 then g.setHold g.live .free else g

/-- The lanes of m exit; what waited for them goes on (R121, R131, R139, R163). -/
def Group.leave (g : Group) (m : Word) : Group := ((g.exitLanes m).settleMembers).settleConverge

end Sys2Proof.Machine
end

