-- ==== Sys2Proof/Machine/Run.lean ====
section
/-!
DEFINITION. Issuing an instruction of the lane set, of the uniform set for a group or a mast core, of the privileged set (R59-R61, R98,
R202, R203, R232), and precise execution faults (R100).
-/
namespace Sys2Proof.Machine
open Sys2Proof

/-- Lanes of F, all helpers, exit (R100), which may complete a group-wide operation (R130); the instruction goes on without them. -/
def Issue.without (it : Issue) (s : State) (F : Word) : Issue × State :=
  let s1 := s.updG it.gid fun g => g.leave F
  ({ it with I := it.I &&& ~~~F, E := it.E &&& ~~~F, g := { (find s1.groups it.gid).getD it.g with transient := it.g.transient } }, s1)

/-- The marks of the entries that an instruction wrote as a whole in the lanes that it moved on go (R380). -/
def Issue.heal (it : Issue) (i : Instr) (s : State) : State :=
  s.updG it.gid fun g =>
    let moved := maskOf fun l => it.E.getLsbD l && g.pcOf l != it.pc
    if moved = 0#32 then g else { g with errs := g.errs.filter fun e => !s.rewrites it i moved e }

/-- Runs an instruction past its issue checks unless it reads a poisoned entry (R381): then F_ECC_UNCORRECTED, the instruction has no effect, the
group is halted and its gang error-struck (R387), and the error is counted (R383). Where only helpers read one they exit (R100). -/
def Issue.clean (it : Issue) (i : Instr) (u : Uses) (gd : Nat) (uniform : Bool) (s : State) (body : Issue → State → State) : State :=
  if it.g.errs = [] then body it s
  else
    let reads (l : Nat) : Bool := it.I.getLsbD l && it.g.errs.any fun e =>
      (it.E.getLsbD l || (match e with | .pred _ => true | .upred _ => true | _ => false)) && s.readsPlace it i u uniform gd l e
    let F := if uniform then (if (List.range 32).any reads then it.I else 0#32) else maskOf reads
    if F = 0#32 then it.heal i (body it s)
    else
      let solid := if uniform then F else F &&& ~~~it.g.helper
      if solid = 0#32 then let r := it.without s F; r.1.heal i (body r.1 r.2)
      else ((s.countWord it.g.cluster 1).raiseLate it.gid 0x40 solid it.pc 0#64 0#64).strike it.g.bid 0x40

/-- Issues a lane-set instruction: `slots` says that every named format slot is bound and of an accepted type (R90); `body` acts on
the state whose transient counts have advanced. -/
def laneIssue (s : State) (i : Instr) (sw : Fin 2) (gd : Fin 8) (len : Nat) (u : Uses) (slots : Bool)
    (body : Issue → State → State) : Out :=
  match s.cur with
  | .nobody => .next s
  | .mast c => .next (if (s.mast c).mayRun then s.mastFault c 0x01 0#64 0#64 else s)
  | .group gid pc =>
    match find s.groups gid with
    | none => .next s
    | some g =>
      let I := g.issued pc
      if I = 0#32 ∨ !s.mayIssue g pc then .next s
      else if swWaits sw g pc then .next (s.park gid .results)
      else
        let it : Issue := { gid := gid, g := g, pc := pc, len := len, I := I, E := I &&& g.preds gd.val }
        match s.issueFault g i u slots with
        | some code => .next (it.laneFault s code)
        | none => .next (it.clean i u gd.val false ((s.unstall gid).updG gid Group.tickTransient) body)

/-- A fault that lanes of E raise while an instruction executes (R100): code, address, detail of each failing lane. Where only helpers
fail they exit, which may complete a group-wide operation (R130), and the instruction acts without them; else nothing changes but the fault
of the lowest failing lane. `whole` names the uniform forms, whose mask is I (R207). -/
def Issue.guarded (it : Issue) (s0 s : State) (fault : Nat → Option (Nat × DWord × DWord)) (act : Issue → State → State)
    (whole : Bool := false) : State :=
  let F := maskOf fun l => it.E.getLsbD l && (fault l).isSome
  if F = 0#32 then act it s
  else
    let solid := F &&& ~~~it.g.helper
    if solid = 0#32 then
      let r := it.without s F
      act r.1 r.2
    else
      match (lanesOf solid).head? with
      | some l => match fault l with
        | some (code, addr, detail) => s0.raise it.gid code (if whole then it.I else solid) it.pc addr detail
        | none => s0
      | none => s0

/-- Issues a uniform-set instruction of a group (R202). E is I where the guard holds and some lane of I is no helper, else empty: the
instruction then has no effect and the lanes go on. -/
def uniGroup (s : State) (i : Instr) (sw : Fin 2) (gd : Fin 8) (len : Nat) (u : Uses) (slots : Bool) (gid : Nat) (pc : DWord)
    (body : Issue → State → State) : Out :=
  match find s.groups gid with
  | none => .next s
  | some g =>
    let I := g.issued pc
    if I = 0#32 ∨ !s.mayIssue g pc then .next s
    else if swWaits sw g pc then .next (s.park gid .results)
    else
      let on := predOf g.k gd.val && !(I &&& ~~~g.helper == 0#32)
      let it : Issue := { gid := gid, g := g, pc := pc, len := len, I := I, E := if on then I else 0#32 }
      match s.issueFault g i u slots with
      | some code => .next (s.raise gid code I pc 0#64 0#64)
      | none =>
        .next (it.clean i u gd.val true (s.unstall gid) fun it s => if on then body it s else it.past I s)

/-- A mast core's instruction goes on at the next PC (R203). -/
def State.mastNext (s : State) (c : Nat) (len : Nat) (f : Mast → Mast) : State :=
  s.updM c fun m => let m' := f m; { m' with pc := m.pc + BitVec.ofNat 64 len }

/-- Issues a uniform-set instruction of a mast core (R203): reserved fields, and what `ok` adds to them for a mast core, then the guard, then
the effect (R60). -/
def uniMast (s : State) (i : Instr) (gd : Fin 8) (len : Nat) (c : Nat) (body : Mast → State → Out) (ok : Bool := true) : Out :=
  let m := s.mast c
  if !m.mayRun then .next s
  else if !i.wf || !ok then .next (s.mastFault c 0x02 0#64 0#64)
  else if !predOf m.k gd.val then .next (s.mastNext c len id)
  else body m s

/-- Issues a uniform-set instruction for whoever is current; `ok` is what a mast core's issue checks add to those of the form (R203). -/
def uniIssue (s : State) (i : Instr) (sw : Fin 2) (gd : Fin 8) (len : Nat) (u : Uses) (slots : Bool)
    (body : Issue → State → State) (mast : Nat → Mast → State → Out) (ok : Bool := true) : Out :=
  match s.cur with
  | .nobody => .next s
  | .group gid pc => uniGroup s i sw gd len u slots gid pc body
  | .mast c => uniMast s i gd len c (mast c) ok

/-- A uniform opcode that a mast core may not execute (R203): F_ILLEGAL_OPCODE. -/
def mastIllegal (c : Nat) (_ : Mast) (s : State) : Out := .next (s.mastFault c 0x01 0#64 0#64)

/-- Issues a uniform opcode that no mast core executes: illegal there whatever its fields and guard hold (R60, R203). -/
def uniGroupOnly (s : State) (i : Instr) (sw : Fin 2) (gd : Fin 8) (len : Nat) (u : Uses) (slots : Bool)
    (body : Issue → State → State) : Out :=
  match s.cur with
  | .nobody => .next s
  | .group gid pc => uniGroup s i sw gd len u slots gid pc body
  | .mast c => if (s.mast c).mayRun then mastIllegal c (s.mast c) s else .next s

/-- Issues a privileged opcode (R24, R59, R203, R232): F_PRIV for a group, which first waits at a switch marker (R55), and in unprivileged mode,
before any other check but the opcode. -/
def privIssue (s : State) (i : Instr) (sw : Fin 2) (gd : Fin 8) (body : Nat → Mast → State → Out) : Out :=
  match s.cur with
  | .nobody => .next s
  | .group gid pc =>
    match find s.groups gid with
    | none => .next s
    | some g =>
      let I := g.issued pc
      if I = 0#32 ∨ !s.mayIssue g pc then .next s
      else if swWaits sw g pc then .next (s.park gid .results)
      else .next ((s.unstall gid).raise gid 0x03 I pc 0#64 0#64)
  | .mast c =>
    let m := s.mast c
    if !m.mayRun then .next s
    else if !m.priv then .next (s.mastFault c 0x03 0#64 0#64)
    else uniMast s i gd 4 c (body c)

/-- A reserved operand value of a privileged instruction (R232). -/
def mastReserved (s : State) (c : Nat) : Out := .next (s.mastFault c 0x02 0#64 0#64)

end Sys2Proof.Machine
end

