-- ==== Sys2Proof/Machine/Fetch.lean ====
section
/-!
DEFINITION. Fetching an instruction's words (R42, R323, R441), what a word that does not decode does (R59-R61), and the placement
that State.withFetchWord makes (log entry 2).
-/
namespace Sys2Proof.Machine
open Sys2Proof

/-- What a fetch yields. -/
inductive Fetched where
  /-- The first word, and the second of a two-word form. -/
  | words (w x : Nat)
  /-- A fault: code, ADDR, detail. -/
  | fault (code addr detail : Nat)
  /-- The page of a word at an address is on its way (R441): nothing issues. -/
  | delayed (va : Nat)
  deriving DecidableEq, Repr

/-- One 4-byte fetch of a group through the CTB and the page's leaf (R441). -/
def State.fetchWord (s : State) (c lid world asid va : Nat) : (Except (Option (Nat × Nat)) Nat) × State :=
  if va ≥ 2 ^ 56 then (.error (some (0x10, 0)), s)
  else
    match s.attrs c asid va with
    | (.error (code, d), s1) => (.error (some (code, d)), s1)
    | (.ok e, s1) =>
      match fetchCheck e.sealed_ e.x e.world world va with
      | some code => (.error (some (code, 0)), s1)
      | none =>
        let s2 := s1.publishLine c (canonAsid asid va) va
        match s2.homeRead { lid := lid, world := world, asid := asid, kind := some .fetch, flags := 1, origin := c } va 4 with
        | (.ok bs, s3) => (.ok (ofBytes bs), s3)
        | (.wait, s3) => (.error none, s3)
        | (.fail code d, s3) => (.error (some (code, d)), s3)

/-- The words at a group's PC (R42, R441). -/
def State.fetchGroup (s : State) (g : Group) (pc : DWord) : Fetched × State :=
  let lid := match s.blockOf g with | some b => b.lid | none => 0
  let world := s.worldOf g
  let asid := s.asidOf g
  match s.fetchWord g.cluster lid world asid pc.toNat with
  | (.error none, s1) => (.delayed pc.toNat, s1)
  | (.error (some (c, d)), s1) => (.fault c pc.toNat d, s1)
  | (.ok w, s1) =>
    if isTwoWord w then
      match s1.fetchWord g.cluster lid world asid (pc.toNat + 4) with
      | (.error none, s2) => (.delayed (pc.toNat + 4), s2)
      | (.error (some (c, d)), s2) => (.fault c (pc.toNat + 4) d, s2)
      | (.ok x, s2) => (.words w x, s2)
    else (.words w 0, s1)

/-- What a mast core's own address reaches (R322, R323): private SRAM, or a CTB entry's physical address; or a fault code and ADDR. -/
inductive MastPlace where
  | sram (off : Nat)
  | tier (va pa : Nat)
  | device (pa : Nat)
  | reserved (pa : Nat)
  | fault (code addr : Nat)
  deriving DecidableEq, Repr

/-- The place of a mast core's access of n bytes (R322, R323); `kind` 0 load, 1 store, 2 fetch. -/
def State.mastPlace (s : State) (c va n kind : Nat) : MastPlace :=
  if va < 0x40000 then (if va + n ≤ 0x40000 then .sram va else .fault 0x10 0x40000)
  else if va ≥ 2 ^ 56 then .fault 0x10 va
  else
    match (s.cluster c).ctbFind true 0 va with
    | none => .fault 0x10 va
    | some e =>
      if (kind = 0 ∧ !e.rd) ∨ (kind = 1 ∧ !e.w) ∨ (kind = 2 ∧ !e.x) then .fault 0x11 va
      else if e.world ≠ 0 then .fault 0x35 va
      else if e.sealed_ then .fault (if kind = 1 then 0x11 else 0x30) va
      else
        let pa := e.pa + (va - e.va)
        if inTier pa then .tier va pa
        else if inDevice pa then (if kind = 2 then .fault 0x11 va else .device pa)
        else .reserved pa

/-- A mast core's access makes its MAST entry the most recently used (R324). -/
def State.mastUse (s : State) (c va : Nat) : State :=
  s.updC c fun k => match k.ctbFind true 0 va with | some e => k.ctbPut e | none => k

/-- Brings a mast core's tier sector to its home (ASID 0, address), filling from the entry's physical address (R323). -/
def State.mastTouch (s : State) (va pa : Nat) : State :=
  match find s.l2 (l2key 0 0 va) with
  | some _ => s
  | none =>
    let s1 := (s.install 0 0 0 va pa false).2
    if inFast pa then s1 else s1.installBlock 0 0 0 va pa 64 false

/-- The parts of a mast core's access at their homes. -/
def State.mastTouchAll (s : State) (va pa n : Nat) : State := (pieces va n).foldl (fun s p => s.mastTouch p.1 (pa + (p.1 - va))) s

/-- The program timestamp of a mast core after an ordinary access of its own (R245). -/
def State.stampMast (s : State) (c va : Nat) (store : Bool) : State :=
  let ts := (s.mast c).ts
  let r := if store then s.tsStore 0 va ts else s.tsLoad 0 va ts
  r.2.updM c fun m => { m with ts := r.1 }

/-- Reads n bytes of a tier page for a mast core: `none` where a sector is poisoned (R381). -/
def State.mastTierRead (s : State) (c va pa n : Nat) : Option (List Byte) × State :=
  let s1 := (s.mastUse c va).mastTouchAll va pa n
  if (pieces va n).any fun p => s1.homePoison 0 0 p.1 then (none, s1.eccRead 0 0 va n)
  else (some ((List.range n).map fun i => s1.homeByte 0 0 (va + i)), s1.stampMast c va false)

/-- Stores bytes to a tier page for a mast core. -/
def State.mastTierWrite (s : State) (c va pa : Nat) (bs : List Byte) : State :=
  ((pieces va bs.length).foldl (fun s p => s.homeStore 0 0 p.1 ((bs.drop (p.1 - va)).take p.2)) ((s.mastUse c va).mastTouchAll va pa bs.length)).stampMast c va true

/-- What every L1 holds of the line that a mast core's or a host's atomic names reaches its home first (R255, R256). -/
def State.forceOut (s : State) (va : Nat) : State := s.forcePublish (2 ^ 11) 0 va

/-- One 4-byte fetch of a mast core (R322, R323): the word, or a fault code and address; `none` for a reserved physical address. -/
def State.mastFetchWord (s : State) (c va : Nat) : Option (Except (Nat × Nat) Nat) × State :=
  match s.mastPlace c va 4 2 with
  | .sram off => (some (if (s.mast c).badAt off 4 then .error (0x40, va) else .ok ((s.mast c).rd off 4)), s)
  | .tier va pa =>
    match s.mastTierRead c va pa 4 with
    | (some bs, s1) => (some (.ok (ofBytes bs)), s1)
    | (none, s1) => (some (.error (0x40, va)), s1)
  | .device _ => (some (.error (0x11, va)), s)
  | .reserved _ => (none, s)
  | .fault code addr => (some (.error (code, addr)), s)

/-- What a word that does not decode does to the current agent (R59-R61): its fault in the order of R60, after the wait of a switch marker
(R55). -/
def State.undecoded (s : State) (w : Nat) (reserved : Bool) : State :=
  let uniform := bit w 31
  let op := bits w 29 23
  let priv := uniform && decide (0x32 ≤ op) && decide (op ≤ 0x3F)
  match s.cur with
  | .nobody => s
  | .mast c =>
    let m := s.mast c
    if !m.mayRun then s
    else
      let illegal := !reserved || !uniform || (0x1B ≤ op && op ≤ 0x1E) || (0x20 ≤ op && op ≤ 0x22) || (0x27 ≤ op && op ≤ 0x2F)
      s.mastFault c (if illegal then 0x01 else if priv && !m.priv then 0x03 else 0x02) 0#64 0#64
  | .group gid pc =>
    match find s.groups gid with
    | none => s
    | some g =>
      let I := g.issued pc
      if I = 0#32 ∨ !s.mayIssue g pc then s
      else if swWaits (if bit w 30 then 1 else 0) g pc then s.park gid .results
      else
        let s := s.unstall gid
        let code := if !reserved then 0x01 else if priv then 0x03 else 0x02
        if uniform then s.raise gid code I pc 0#64 0#64
        else
          let it : Issue := { gid := gid, g := g, pc := pc, len := if reserved && isTwoWord w then 8 else 4, I := I
                              E := I &&& g.preds (bits w 22 20) }
          it.laneFault s code

/-- Places a word where a group fetches: its CTB entry (executable, world 0) and the home sector(s). -/
def State.placeCode (s : State) (c asid va : Nat) (bs : List Byte) : State :=
  let s1 := s.updC c fun k => k.ctbPut { mast := false, asid := asid, va := va / 4096 * 4096, psize := 4096, world := 0, sealed_ := false
                                         res := 0, x := true, w := true, rd := true, pa := 0 }
  let s2 : State := { s1 with l2 := put s1.l2 (l2key 0 asid va) { data := BitVec.ofNat 128 (ofBytes bs), dirty := false, poison := false, pa := va } }
  s2

/-- The contexts of the launch that withFetchWord installs: one of each kind. -/
def fetchCtxs : SMap Ctx := (List.range 6).map fun k => (k * 4096, { ring := 0, rlog := 0, room := 1 })

/-- The launch, block and group that withFetchWord installs: the largest budget, so that an instruction meets only its own checks. -/
def fetchLaunch : Launch :=
  { lid := 1#32, fn := 0, ring := 0, index := 0, asid := 0, record := { groups := 1 }, ctxs := fetchCtxs, gangNext := 1
    gangs := [(0, { ctx := 0, num := 0, gang := 0, arg := 0#64, groupItem := false, blocks := [1] })]
    kernel := { variants := [(0, { vregs := 64, tiles := 8, accs := 4, maxact := 32, scratch := 16384 })] }, phase := .running, spawn := 1 }

/-- The block of that launch. -/
def fetchBlock : Block :=
  { lid := 1, item := 0, gang := 0, blk := 0, cluster := 0, variant := 0, ngroups := 1, arg := 0#64, groupItem := false, banks := [0] }

/-- A group whose 32 lanes stand at 0x10000. -/
def fetchGroupInit : Group :=
  ({ bid := 1, num := 0, cluster := 0, sp := 0, slot := 0, phase := .aReady, active := some 0 : Group }).setPc (BitVec.allOnes 32) 0x10000#64

end Sys2Proof.Machine
end

