-- ==== Sys2Proof/Machine/Operands.lean ====
section
/-!
DEFINITION. Operand forms: lane and uniform operands (R43, R44, R99), destination writes with the transient bit (R56, R101), memory
addresses (R47, R140, R161), data registers (R141, R154), format slots (R86, R90) and member masks (R49, R130).
-/
namespace Sys2Proof.Machine
open Sys2Proof

/-- The registers an R form names beside its destination. -/
def rUses (d a : Nat) (e : Fin 2) (b : Nat) : Uses := if e.val = 1 then { v := [d, a], s := [b] } else { v := [d, a, b] }

/-- put(d, l, ·) for the lanes of E (R56, R99): the register, or a transient entry for the next three lane-set instructions. -/
def Group.put (g : Group) (E : Word) (t : Fin 2) (d : Nat) (f : Nat → Word) : Group :=
  if t.val = 1 then
    if E = 0#32 then g else { g with transient := { reg := d, lanes := E, vals := perLane E f, left := 3 } :: g.transient }
  else (lanesOf E).foldl (fun g l => g.setV l d (f l)) g

/-- A lane-set instruction with one 32-bit vector result that faults nowhere: `f it l` is the value of lane l. -/
def vectorOp (s : State) (i : Instr) (sw : Fin 2) (gd : Fin 8) (len : Nat) (u : Uses) (slots : Bool) (t : Fin 2) (d : Nat)
    (f : Group → Nat → Word) : Out :=
  laneIssue s i sw gd len u slots fun it s => it.done s fun g => g.put it.E t d (f it.g)

/-- As `vectorOp` for a result pair d, d + 1 (R10, `put64` of R99). -/
def vectorOp64 (s : State) (i : Instr) (sw : Fin 2) (gd : Fin 8) (len : Nat) (u : Uses) (slots : Bool) (t : Fin 2) (d : Nat)
    (f : Group → Nat → DWord) : Out :=
  laneIssue s i sw gd len u slots fun it s => it.done s fun g =>
    (g.put it.E t d fun l => (f it.g l).setWidth 32).put it.E t (d + 1) fun l => ((f it.g l) >>> 32).setWidth 32

/-- A lane-set instruction whose result is a lane predicate (R104). -/
def predicateOp (s : State) (i : Instr) (sw : Fin 2) (gd : Fin 8) (u : Uses) (p : Nat) (f : Group → Nat → Bool) : Out :=
  laneIssue s i sw gd 4 u true fun it s => it.done s fun g => g.setPreds p it.E (maskOf fun l => it.E.getLsbD l && f it.g l)

/-- A 64-bit value from a register and the next (R10). -/
def pair (lo hi : Word) : DWord := hi ++ lo

/-- The pair at v[r] of lane l. -/
def Group.readV64 (g : Group) (l r : Nat) : DWord := pair (g.readV l r) (g.readV l (r + 1))
/-- The pair at s[r]. -/
def Group.sreg64 (g : Group) (r : Nat) : DWord := pair (g.sreg r) (g.sreg (r + 1))
/-- Writes the pair at s[r]. -/
def Group.setS64 (g : Group) (r : Nat) (x : DWord) : Group := (g.setS r (x.setWidth 32)).setS (r + 1) ((x >>> 32).setWidth 32)
/-- The pair at s[r] of a mast core. -/
def Mast.sreg64 (m : Mast) (r : Nat) : DWord := pair (m.sreg r) (m.sreg (r + 1))
/-- Writes the pair at s[r] of a mast core. -/
def Mast.setS64 (m : Mast) (r : Nat) (x : DWord) : Mast := (m.setS r (x.setWidth 32)).setS (r + 1) ((x >>> 32).setWidth 32)

/-! ### Branch targets (R45) -/

/-- P + 4 × the signed n-bit offset. -/
def branchSum (P : DWord) (n off : Nat) : DWord := P + BitVec.ofInt 64 (4 * sextInt n off)

/-- The same as a lane's PC or meeting point (R13, log entry 119). -/
def branchTarget (P : DWord) (n off : Nat) : DWord := asPc (branchSum P n off)

/-! ### Memory operands (R46, R47, R140) -/

/-- nbytes(SIZE) (R140). -/
def nbytes (size : Nat) : Nat := if size = 5 then 4 else 2 ^ size

/-- lane_addr(l) (R140). -/
def Group.laneAddr (g : Group) (bc : Fin 2) (base size off l : Nat) : DWord :=
  let a := if bc.val = 0 then g.readV64 l base else g.sreg64 base + BitVec.ofNat 64 (l * nbytes size)
  a + BitVec.ofInt 64 (sextInt 16 off)

/-- lane_addr32(l) (R140). -/
def Group.laneAddr32 (g : Group) (bc : Fin 2) (base size off l : Nat) : Word :=
  let a := if bc.val = 0 then g.readV l base else g.sreg base + BitVec.ofNat 32 (l * nbytes size)
  a + BitVec.ofInt 32 (sextInt 16 off)

/-- The address of a uniform access (R161). -/
def uniAddr (base : DWord) (off : Nat) : DWord := base + BitVec.ofInt 64 (sextInt 16 off)
/-- The scratchpad address of a uniform access. -/
def uniAddr32 (base : Word) (off : Nat) : Word := base + BitVec.ofInt 32 (sextInt 16 off)

/-- The registers a global M form names (R44, R47). -/
def mUses (bc : Fin 2) (d n base : Nat) : Uses :=
  if bc.val = 0 then { v := regRun d n ++ [base, base + 1] } else { v := regRun d n, s := [base, base + 1] }
/-- The registers a scratchpad or gang-window M form names. -/
def shUses (bc : Fin 2) (d n base : Nat) : Uses :=
  if bc.val = 0 then { v := regRun d n ++ [base] } else { v := regRun d n, s := [base] }

/-- The words a load of `size` puts into its data registers (R141): zero- or sign-extended bytes. -/
def loadWords (size : Nat) (signed : Bool) (bs : List Byte) : List Word :=
  if size = 3 then [BitVec.ofNat 32 (ofBytes (bs.take 4)), BitVec.ofNat 32 (ofBytes (bs.drop 4))]
  else if size = 4 then (List.range 4).map fun i => BitVec.ofNat 32 (ofBytes ((bs.drop (4 * i)).take 4))
  else if signed then [BitVec.ofInt 32 (sextInt (8 * bs.length) (ofBytes bs))]
  else [BitVec.ofNat 32 (ofBytes bs)]

/-- The bytes a store of `size` takes from its data registers (R141). -/
def storeBytes (size : Nat) (ws : List Word) : List Byte := (ws.flatMap fun w => toBytes 4 w.toNat).take (nbytes size)

/-- Values bound for data registers of lane l, register r up. -/
def vecWrites (l r : Nat) (ws : List Word) : List (Dest × Word) := (List.range ws.length).map fun i => (.vec l (r + i), ws.getD i 0#32)
/-- Values bound for uniform registers r up. -/
def uniWrites (r : Nat) (ws : List Word) : List (Dest × Word) := (List.range ws.length).map fun i => (.uni (r + i), ws.getD i 0#32)

/-- Notes a long-latency result of a group (R54): bound now, written by LOAD_RESULT_RETURN. -/
def State.bind (s : State) (gid : Nat) (ws : List (Dest × Word)) : State :=
  if ws.isEmpty then s else s.updG gid fun g => { g with pending := g.pending ++ [{ writes := ws }] }

/-! ### Format slots (R19, R86, R90) -/

/-- Format slot n of a group's launch. -/
def State.slot (s : State) (g : Group) (n : Nat) : BitVec 128 :=
  match s.launchOfG g with | some l => l.record.fmt.getD n 0#128 | none => 0#128

/-- A field of a slot. -/
def slotField (x : BitVec 128) (hi lo : Nat) : Nat := bits x.toNat hi lo
/-- TYPE (R86). -/
def slotType (x : BitVec 128) : Nat := slotField x 7 0
/-- PST (R86). -/
def slotPst (x : BitVec 128) : Nat := slotField x 11 8
/-- PRD (R86). -/
def slotPrd (x : BitVec 128) : Nat := slotField x 15 12
/-- CENTRE (R86). -/
def slotCentre (x : BitVec 128) : Bool := bit x.toNat 16
/-- GSIZE (R86). -/
def slotGsize (x : BitVec 128) : Nat := slotField x 19 18
/-- RMODE (R86). -/
def slotMode (x : BitVec 128) : RMode := RMode.ofSlot (slotField x 21 20)
/-- CKTOL (R86). -/
def slotTol (x : BitVec 128) : Nat := slotField x 47 32
/-- SZADDR (R86). -/
def slotSz (x : BitVec 128) : Nat := slotField x 119 64

/-- The format slot that the current group's instruction names, if the current agent is a group. -/
def State.curSlot (s : State) (n : Nat) : BitVec 128 :=
  match s.cur with
  | .group gid _ => (match find s.groups gid with | some g => s.slot g n | none => 0#128)
  | _ => 0#128

end Sys2Proof.Machine
end

