-- ==== Sys2Proof/Machine/Access.lean ====
section
/-!
DEFINITION. Access operations of groups: the checks of R157, loads, stores and atomics at their performance points (R142, R153, R251),
parked loads and the side log (R159, R248, R314), scratchpad and gang window (R150, R151).
-/
namespace Sys2Proof.Machine
open Sys2Proof

/-- Who accesses: group, cluster, launch key, world, ASID, sub-partition, block. -/
structure Who where
  gid : Nat
  c : Nat
  sp : Nat
  bid : Nat
  lid : Nat
  world : Nat
  asid : Nat
  deriving DecidableEq, Repr

/-- The party of an issue. -/
def State.who (s : State) (it : Issue) : Who :=
  { gid := it.gid, c := it.g.cluster, sp := it.g.sp, bid := it.g.bid
    lid := match s.blockOf it.g with | some b => b.lid | none => 0
    world := s.worldOf it.g, asid := s.asidOf it.g }

/-- The access of a party at the home slices; FLAGS of a fault entry say that loads (1) or side-log stores (2) wait (R311). -/
def Who.req (w : Who) (k : AccKind) (returns : Bool := false) : Req :=
  let loads := returns || (match k with | .load => true | .copy => true | _ => false)
  { lid := w.lid, world := w.world, asid := w.asid, kind := some k, flags := if loads then 1 else 2, origin := w.c }

/-! ### Precise faults (R157) -/

/-- Whether a page's attributes permit an access of R157's table. -/
def CtbEntry.permits (e : CtbEntry) (k : AccKind) : Bool := (pageFault e.sealed_ e.x e.w e.rd e.world e.world 0 k).isNone

/-- The precise fault of a global access of n bytes (R140, R148, R157): code, ADDR, detail, row by row of R157's table over the pages it touches.
`bad` says that it is misaligned. A poisoned table entry is found after issue (R321). -/
def State.accFault (s : State) (w : Who) (k : AccKind) (addr : DWord) (n : Nat) (bad : Bool) : Option (Nat × DWord × DWord) :=
  let va := addr.toNat
  if va ≥ 2 ^ 56 then some (0x10, addr, 0#64)
  else
    let ends := if va / 4096 = (va + n - 1) / 4096 then [va] else [va, va + n - 1]
    let ats := ends.map fun x => if x ≥ 2 ^ 56 then (.error (0x10, 0)) else (s.attrs w.c w.asid x).1
    match ats.findSome? fun a => match a with | .error (0x10, d) => some d | _ => none with
    | some d => some (0x10, addr, BitVec.ofNat 64 d)
    | none =>
      if ats.any fun a => match a with | .ok e => !e.permits k | .error _ => false then some (0x11, addr, 0#64)
      else if ats.any fun a => match a with | .ok e => e.world ≠ w.world && !inShared va | .error x => x.1 = 0x35 then some (0x35, addr, 0#64)
      else if bad then some (0x12, addr, 0#64)
      else if ats.any fun a => match a with | .ok e => e.sealed_ | .error _ => false then some (sealedCode k, addr, 0#64)
      else none

/-- The CTB after the checks of some addresses: misses are refilled (R157). -/
def State.refill (s : State) (w : Who) (addrs : List DWord) : State :=
  addrs.foldl (fun s a => if a.toNat < 2 ^ 56 then (s.attrs w.c w.asid a.toNat).2 else s) s

/-! ### Waiting accesses (R159, R248, R249, R252) -/

/-- One access of a group, for the order it keeps with others: what it does, its class, whether it acquires or releases, its space (0 global,
1 scratchpad, 2 gang window) and its bytes. -/
structure AccOp where
  kind : AccKind := .load
  stream : Bool := false
  acq : Bool := false
  rel : Bool := false
  space : Nat := 0
  va : Nat
  n : Nat
  deriving DecidableEq, Repr

/-- Whether an access only reads. -/
def AccOp.reads (x : AccOp) : Bool := match x.kind with | .load => true | .copy => true | _ => false

/-- Whether two accesses share a byte of global memory. -/
def AccOp.overlaps (x y : AccOp) : Bool := x.space = 0 && y.space = 0 && decide (x.va < y.va + y.n) && decide (y.va < x.va + x.n)

/-- Whether an access touches a page that another touches, by the leaves that map them. -/
def State.sharePage (s : State) (asid : Nat) (x y : AccOp) : Bool :=
  x.space = 0 && y.space = 0 && [x.va, x.va + x.n - 1].any fun v =>
    let p := s.spanOf asid v
    decide (p.1 < y.va + y.n) && decide (y.va < p.1 + p.2)

/-- Whether an earlier access x and a later access y of one group are performed in that order: an acquire and a release (R149), ordinary
accesses (R248), a load and a store of any class (R252), accesses that share a byte (R142, R249). -/
def AccOp.keeps (x y : AccOp) : Bool := x.acq || y.rel || (!x.stream && !y.stream) || (x.reads && !y.reads) || x.overlaps y

/-- What an instruction does at one address, where it is one that can wait for a page. -/
def accessOf (i : Instr) (va : Nat) : Option AccOp :=
  match i with
  | .ld f => some { stream := f.cls.val = 1, va := va, n := nbytes f.size }
  | .lds f => some { stream := f.cls.val = 1, va := va, n := nbytes f.size }
  | .ldacq f => some { stream := f.cls.val = 1, acq := true, va := va, n := nbytes f.size }
  | .ldbc f => some { stream := f.cls.val = 1, va := va, n := nbytes f.size }
  | .ldasy f => some { kind := .copy, stream := f.cls.val = 1, va := va, n := nbytes f.size }
  | .sld f => some { stream := f.cls.val = 1, va := va, n := nbytes f.size }
  | .tld _ => some { va := va, n := 128 }
  | .atom f => some { kind := .atomic, va := va, n := nbytes f.size }
  | .red f => some { kind := .atomic, va := va, n := nbytes f.size }
  | .satom f => some { kind := .atomic, va := va, n := nbytes f.size }
  | .st f => some { kind := .store, stream := f.cls.val = 1, va := va, n := nbytes f.size }
  | .strel f => some { kind := .store, stream := f.cls.val = 1, rel := true, va := va, n := nbytes f.size }
  | .sst f => some { kind := .store, stream := f.cls.val = 1, va := va, n := nbytes f.size }
  | .ldsh f => some { space := 1, va := va, n := nbytes f.size }
  | .ldssh f => some { space := 1, va := va, n := nbytes f.size }
  | .sldsh f => some { space := 1, va := va, n := nbytes f.size }
  | .tldsh _ => some { space := 1, va := va, n := 128 }
  | .ldg f => some { space := 2, va := va, n := nbytes f.size }
  | .stsh f => some { kind := .store, space := 1, va := va, n := nbytes f.size }
  | .sstsh f => some { kind := .store, space := 1, va := va, n := nbytes f.size }
  | .stg f => some { kind := .store, space := 2, va := va, n := nbytes f.size }
  | .atsh f => some { kind := .atomic, space := 1, va := va, n := nbytes f.size }
  | .redsh f => some { kind := .atomic, space := 1, va := va, n := nbytes f.size }
  | .satsh f => some { kind := .atomic, space := 1, va := va, n := nbytes f.size }
  | .atg f => some { kind := .atomic, space := 2, va := va, n := nbytes f.size }
  | _ => none

/-- What an instruction does at one address; only for those that `accessOf` knows. -/
def accAt (i : Instr) (va : Nat) : AccOp := (accessOf i va).getD { va := va, n := 1 }

/-- The accesses of a parked load that still wait. -/
def Parked.accs (p : Parked) : List AccOp :=
  match decodeWords p.w0 p.w1 with
  | .ok i => p.addrs.filterMap fun (a : Nat × Nat) => accessOf i a.2
  | .error _ => []

/-- The accesses of a side-log entry. -/
def SideLog.accs (e : SideLog) : List AccOp :=
  e.ops.map fun o => { kind := if o.atop.isSome then .atomic else .store, stream := e.stream, rel := e.rel, space := o.space, va := o.addr, n := o.size }

/-- The source read of an `ldasy` piece. -/
def Piece.acc (p : Piece) : AccOp := { kind := .copy, stream := p.stream, va := p.src, n := p.size }

/-- The side log of a sub-partition. -/
def State.sideLog (s : State) (c sp : Nat) : List SideLog := getD (s.cluster c).sideLogs sp []

/-- The accesses of a group that wait and stand before a place in its program order. -/
def State.waitingOf (s : State) (gid before : Nat) : List AccOp :=
  (match find s.groups gid with | some g => (g.replay.filter fun p => decide (p.seq < before)).flatMap Parked.accs | none => [])
  ++ s.clusters.flatMap fun (e : Nat × Cluster) =>
    (e.2.sideLogs.flatMap fun (l : Nat × List SideLog) => (l.2.filter fun x => x.gid = gid && decide (x.seq < before)).flatMap SideLog.accs)
    ++ (e.2.pieces.filter fun p => p.gid = gid && p.data.isNone && decide (p.seq < before)).map Piece.acc

/-- Whether a later access of a group at a place in its order must wait behind what waits (R248, R249, R252). -/
def State.mustFollow (s : State) (gid before : Nat) (y : AccOp) : Bool := (s.waitingOf gid before).any fun x => x.keeps y

/-- Whether a page that an access touches holds earlier side-log entries of the sub-partition (R159). -/
def State.pageLogged (s : State) (w : Who) (before : Nat) (y : AccOp) : Bool :=
  y.space = 0 && (s.sideLog w.c w.sp).any fun e => decide (e.seq < before) && e.asid = canonAsid w.asid y.va &&
    decide (e.page < y.va + y.n) && decide (y.va < e.page + e.psize)

/-- Whether an acquire of a group waits: later engine commands wait behind it (R149, R258). -/
def State.acquireWaits (s : State) (gid : Nat) : Bool := (s.waitingOf gid s.order).any fun x => x.acq

/-! ### Performing accesses (R245, R251) -/

/-- The program timestamp of the party after an access at the home (R245); a load's is `tick` more than before, so that a copy is outlived. What
another device's line takes there no fabric message says here: the timestamp passes every one used so far (R247, log entry 140). -/
def State.stamp (s : State) (w : Who) (va : Nat) (store : Bool) (tick : Nat := 1) : State :=
  match find s.groups w.gid with
  | none => s
  | some g =>
    if (s.isRemote w.asid va).1 then (s.isRemote w.asid va).2.passTs w.gid
    else
      let r := if store then s.tsStore (canonAsid w.asid va) va g.ts else s.tsLoad (canonAsid w.asid va) va (g.ts + tick)
      r.2.updG w.gid fun g => { g with ts := r.1 }

/-- The copy that serves an ordinary load of a party: its lease covers the load's timestamp, which is the result's first part (R245). -/
def State.leased (s : State) (w : Who) (va n : Nat) (tick : Nat := 1) : Option (Nat × List Byte) :=
  let a := canonAsid w.asid va
  match find s.groups w.gid, find (s.cluster w.c).l1 (wayKey (s.verOf w.lid a va) a va) with
  | some g, some l =>
    let t := max (g.ts + tick) l.wts
    if va / 16 = (va + n - 1) / 16 ∧ t ≤ l.lease then (find l.data (va / 16 % 8)).map fun d => (t, (List.range n).map fun i => sectorByte d (va % 16 + i))
    else none
  | _, _ => none

/-- Whether cluster c holds a stream store to a line. -/
def State.holdsLine (s : State) (c asid va : Nat) : Bool := (s.cluster c).l1held.any fun (e : Nat × Held) => e.1 / 128 = l1key asid va / 128

/-- Whether cluster c's L1, or this device's home slice of another's memory, holds a stream store to a line. -/
def State.lineHeld (s : State) (c asid va : Nat) : Bool := s.holdsLine c asid va || s.devHeld.any fun (e : Nat × Held) => e.1 / 128 = l1key asid va / 128

/-- The lines of an access of n bytes: one or two addresses. -/
def lineEnds (va n : Nat) : List Nat := if va / 128 = (va + n - 1) / 128 then [va] else [va, va + n - 1]

/-- Whether this cluster's own L1 answers a load: an ordinary one under a lease with nothing held of the line, a narrow stream one from what is
held or copied. -/
def State.l1Serves (s : State) (w : Who) (va n : Nat) (stream : Bool) (scope : Nat) (tick : Nat := 1) : Bool :=
  let a := canonAsid w.asid va
  if stream then decide (scope ≤ 3) && (pieces va n).all fun p =>
    ((List.range p.2).all fun i => (s.l1Held w.c w.lid a (p.1 + i)).isSome) ||
    ((s.l1Sector w.c w.lid a p.1).isSome && (List.range p.2).all fun i => (s.l1Held w.c w.lid a (p.1 + i)).isNone)
  else !s.holdsLine w.c a va && (s.leased w va n tick).isSome

/-- Takes a copy of the lines of a load into the L1, unless POL bypasses it (R143, R251). -/
def State.fillL1 (s : State) (w : Who) (q : Req) (va n : Nat) (bypass : Bool) : State :=
  if bypass then s
  else if (s.isRemote w.asid va).1 then (pieces va n).foldl (fun s p => s.l1FillRemote w.c q p.1) s
  else (lineEnds va n).foldl (fun s x => s.l1Fill w.c w.lid (canonAsid w.asid x) x) s

/-- Another device's bytes as this device's home slice gives them to a stream load of scope 4 or 5 (R251). -/
def State.farLoad (s : State) (q : Req) (va n : Nat) : Acc × State :=
  let a := canonAsid q.asid va
  let got (i : Nat) : Option Byte := match find s.devHeld (l1key a (va + i)) with
    | some h => some h.val
    | none => find s.devCopy (l1key a (va + i))
  let whole := (List.range n).all fun i => (find s.devHeld (l1key a (va + i))).isSome
  let clean := (List.range n).all fun i => (find s.devHeld (l1key a (va + i))).isNone
  if whole || (clean && (List.range n).all fun i => (got i).isSome) then (.ok ((List.range n).map fun i => (got i).getD 0#8), s)
  else
    match (s.publishDev fun k _ => k / 128 = l1key a va / 128).homeRead q va n with
    | (.ok bs, s1) => (.ok bs, { s1 with devCopy := (List.range n).foldl (fun m i => put m (l1key a (va + i)) (bs.getD i 0#8)) s1.devCopy })
    | r => r

/-- What cluster c holds or copies of the lines of an access leaves its L1: stores published, copies dropped. -/
def State.clearLines (s : State) (w : Who) (va n : Nat) : State :=
  (lineEnds va n).foldl (fun s x => (s.publishLine w.c (canonAsid w.asid va) x).dropCopies w.c (canonAsid w.asid va) x) s

/-- Whether stores to the lines of an access could not be published yet: an access at the home waits for them. -/
def State.linesHeld (s : State) (w : Who) (va n : Nat) : Bool := (lineEnds va n).any fun x => s.lineHeld w.c (canonAsid w.asid va) x

/-- The bytes that the L1 gives, or F_ECC_UNCORRECTED where they are poisoned there (R378, R381). -/
def State.l1Answer (s : State) (w : Who) (va n : Nat) (bs : List Byte) : Acc :=
  if s.l1Bad w.c w.lid (canonAsid w.asid va) va n then .fail 0x40 0 else .ok bs

/-- An uncorrectable error that a load meets in its cluster's L1 is counted (R383). -/
def State.countBad (s : State) (w : Who) (va n : Nat) : State :=
  if s.l1Bad w.c w.lid (canonAsid w.asid va) va n then s.countWord w.c 1 else s

/-- A load of n bytes performed now (R251), whose timestamp is at least `tick` more than the party's. An ordinary load is served by a copy under its
lease or by the home; a stream load of scope 4 and above by the home, or for another device's memory by this device's; a narrower one by what the
L1 holds or copies of each piece, else, once what it holds of the line is published, by the home. -/
def State.loadNow (s : State) (w : Who) (va n : Nat) (stream : Bool) (scope : Nat) (bypass : Bool := false) (tick : Nat := 1) (kind : AccKind := .load) :
    Acc × State :=
  let a := canonAsid w.asid va
  let q := w.req kind
  if stream && s.l1Serves w va n stream scope then
    (s.l1Answer w va n ((List.range n).map fun i => (s.l1Byte w.c w.lid a (va + i)).getD 0#8), s.countBad w va n)
  else if !stream && s.l1Serves w va n stream scope tick then
    match s.leased w va n tick with
    | some (t, bs) => (s.l1Answer w va n bs, ({ s with tsTop := max s.tsTop t }.updG w.gid fun g => { g with ts := t }).countBad w va n)
    | none => (.wait, s)
  else
    let s1 := s.clearLines w va n
    if s1.linesHeld w va n then (.wait, s1)
    else if stream && decide (4 ≤ scope) then (if decide (scope ≤ 5) && (s1.isRemote w.asid va).1 then (s1.translated w.asid va).farLoad q va n else s1.homeRead q va n)
    else
      match s1.homeRead q va n with
      | (.ok bs, s2) =>
        (.ok bs, (if stream then s2 else (lineEnds va n).foldl (fun s x => s.stamp w x false tick) s2).fillL1 w q va n (bypass || (!stream && (s2.isRemote w.asid va).1)))
      | r => r

/-- Whether the accesses of n bytes at some addresses are one event (R142): all in one line, none misaligned. -/
def oneEvent (vas : List Nat) (n : Nat) : Bool := vas.all fun va => va % n = 0 && va / 128 = vas.headD 0 / 128

/-- The start of a load of several lanes: where it is one event, the L1 serves every lane of it or none (R142, R145, R250). -/
def State.gather (s : State) (w : Who) (vas : List Nat) (n : Nat) (stream : Bool) (scope : Nat) : State :=
  if oneEvent vas n && !vas.all (fun va => s.l1Serves w va n stream scope) then s.clearLines w (vas.headD 0) n else s

/-- By how much lane l's load moves the timestamp: a load that is one event has one (R142, R245). -/
def tickOf (vas : List Nat) (n : Nat) (first : Bool) : Nat := if oneEvent vas n && !first then 0 else 1

/-- A store of bytes at the home (R251). -/
def State.storeNow (s : State) (w : Who) (va : Nat) (bs : List Byte) (stream : Bool) : Acc × State :=
  let a := canonAsid w.asid va
  let s1 := s.clearLines w va bs.length
  if s1.linesHeld w va bs.length then (.wait, s1)
  else
    match s1.homeWrite (w.req .store) va bs with
    | (.ok r, s2) => (.ok r, (lineEnds va bs.length).foldl (fun s x => if stream then (s.tsStore a x 0).2 else s.stamp w x true) s2)
    | r => r

/-- What a release does first (R149, R251, R253): the party's stream stores are published; whether some of it still waits, in an L1 or, back in
the side log (R309), before a place in its order. -/
def State.releaseFirst (s : State) (w : Who) (before : Nat) : Bool × State :=
  let s1 := s.releaseParty w.c w.gid
  (s1.holdsAny w.c w.gid || s1.loggedBefore w.gid before, s1)

/-- A store at the home of an instruction that may release; `before` is its place in the group's order. -/
def State.storeHome (s : State) (w : Who) (before va : Nat) (bs : List Byte) (stream rel : Bool) : Acc × State :=
  if !rel then s.storeNow w va bs stream
  else match s.releaseFirst w before with
    | (true, s1) => (.wait, s1)
    | (false, s1) => s1.storeNow w va bs stream

/-- Whether the page of an address keeps a stream store from being held, as the cluster's attributes give it: far to migrate, or absent (R159, R309). -/
def State.awayPage (s : State) (c asid va : Nat) : Bool :=
  match (s.attrs c asid va).1 with
  | .ok e => decide (e.res = 3) || (decide (e.res = 2) && decide (e.psize ≤ 2 ^ 21) && !s.swapping (canonAsid asid va) va)
  | .error _ => true

/-- Whether a store may be held below its home: its pages are there and no byte of it is frozen. -/
def State.mayHold (s : State) (w : Who) (va n : Nat) : Bool :=
  [va, va + n - 1].all fun x => !s.awayPage w.c w.asid x && !s.frozenAt w.world x

/-- The held byte of a store, over what was held there before. -/
def heldOver (m : SMap Held) (k : Nat) (h : Held) : Held :=
  match find m k with
  | some o => { h with others := (o.party :: o.others).eraseDups.erase h.party }
  | none => h

/-- Holds the bytes of a stream store in cluster c's L1, which the line's directory entry notes (R251, R255). -/
def State.holdL1 (s : State) (c asid va : Nat) (bs : List Byte) (h : Held) : State :=
  let s1 := (lineEnds va bs.length).foldl (fun s x => s.l1Room c asid x) s
  let s2 := s1.updC c fun k => { k with
    l1held := (List.range bs.length).foldl (fun m i => put m (l1key asid (va + i)) (heldOver m (l1key asid (va + i)) { h with val := bs.getD i 0#8 })) k.l1held }
  (lineEnds va bs.length).foldl (fun s x =>
    let l := getD s.dir (lineKey asid x) []
    { s with dir := setD s.dir (lineKey asid x) (if l.contains c then l else l ++ [c]) [] }) { s2 with order := s2.order + 1 }

/-- The same at this device's home slice, for another device's memory (R251). -/
def State.holdDev (s : State) (asid va : Nat) (bs : List Byte) (h : Held) : State :=
  { s with
    devHeld := (List.range bs.length).foldl (fun m i => put m (l1key asid (va + i)) (heldOver m (l1key asid (va + i)) { h with val := bs.getD i 0#8 })) s.devHeld
    devCopy := delIf s.devCopy fun k => decide (l1key asid va ≤ k) && decide (k < l1key asid va + bs.length)
    order := s.order + 1 }

/-- A store of one lane. A stream store of scope 3 and below is held in the L1, one of scope 4 or 5 to another device's memory at this
device's home slice, every other one is performed at the home (R251). `rel` marks a release (R253); `whole` the lanes that the fault of a
uniform store names (R202). -/
def State.storeAtPoint (s : State) (w : Who) (va : Nat) (bs : List Byte) (stream rel : Bool) (scope : Nat) (pc : DWord) (lane : Nat) (whole : Word := 0#32) :
    Acc × State :=
  let a := canonAsid w.asid va
  let h : Held := { val := 0#8, party := w.gid, seq := s.order, release := rel, world := w.world, pc := pc, lane := lane, whole := whole }
  let room := (lineEnds va bs.length).all fun x => (s.l1Room w.c a x).l1Fits w.c a x
  if stream && decide (scope ≤ 3) && s.mayHold w va bs.length && room then (.ok [], s.holdL1 w.c a va bs h)
  else if stream && decide (scope ≤ 5) && (s.isRemote w.asid va).1 && s.mayHold w va bs.length then
    let s0 := s.translated w.asid va
    let (waits, s1) := if rel then s0.releaseFirst w s.order else (false, s0)
    if waits then (.wait, s1)
    else (.ok [], ((lineEnds va bs.length).foldl (fun s x => (s.publishIf w.c fun k _ => k / 128 = l1key a x / 128).dropCopies w.c a x) s1).holdDev a va bs h)
  else s.storeHome w s.order va bs stream rel

/-- A global atomic (R153, R155, R256): the line is forced out of every other L1 first; the old bytes are returned; `returns` says that the instruction
writes them. One of scope 0-3 is performed in the L1 and its bytes move to the home in the same event: until then no other party could
reach the line (log entry 141). -/
def State.atomicNow (s : State) (w : Who) (va size op y y2 : Nat) (scope : Nat := 6) (returns : Bool := true) : Acc × State :=
  let a := canonAsid w.asid va
  let n := nbytes size
  let q := w.req .atomic returns
  let s1 := (s.forcePublish w.c a va).clearLines w va n
  if s1.heldElsewhere w.c a va || s1.linesHeld w va n then (.wait, s1)
  else
    match s1.homeRead q va n with
    | (.ok old, s2) =>
      (match s2.homeWrite q va (atomBytes size op old y y2) with
      | (.ok _, s3) =>
        let s4 := s3.stamp w va true
        (.ok old, if decide (scope ≤ 3) && !(s4.isRemote w.asid va).1 then s4.l1Fill w.c w.lid a va else s4)
      | r => r)
    | r => r

/-- The acquire of a group (R253): its cluster's stream copies are replaced, its program timestamp passes every one used. -/
def State.acquireBy (s : State) (gid c : Nat) : State := (s.acquire c).passTs gid

/-- An acquire load at its home (R149, R253, R255): what narrower holders released is published first; then the load; then the acquire. -/
def State.acquireNow (s : State) (w : Who) (va n : Nat) (stream : Bool) (scope : Nat) : Acc × State :=
  let a := canonAsid w.asid va
  let s1 := s.forcePublish w.c a va
  if s1.heldElsewhere w.c a va then (.wait, s1)
  else
    match (s1.acquire w.c).loadNow w va n stream scope true with
    | (.ok bs, s2) => (.ok bs, s2.acquireBy w.gid w.c)
    | r => r

/-! ### Running an instruction's lanes -/

/-- What the lanes of an access came to: results bound, lanes parked with their addresses, store accesses for the side log, the accesses
that wait, lanes whose access failed after issue (code, address, detail, lanes). -/
structure Ran where
  s : State
  /-- The accesses before this place in the group's order stand before those that run. -/
  before : Nat
  writes : List (Dest × Word) := []
  parked : SMap Nat := []
  log : List SideOp := []
  waiting : List AccOp := []
  failed : Option (Nat × Nat × Nat) := none
  failLanes : Word := 0#32
  /-- The lanes whose fault is not raised: helpers (R100, R138). -/
  silent : Word := 0#32
  deriving DecidableEq, Repr

/-- Notes a fault found after issue: the first one's code and address, every lane (R158); a helper's code and address are not raised (R138). -/
def Ran.fail (r : Ran) (l code addr detail : Nat) : Ran :=
  { r with
    failed := (match r.failed with | some x => some x | none => if r.silent.getLsbD l then none else some (code, addr, detail))
    failLanes := r.failLanes ||| laneBit l }

/-- A late fault of a group, with its gang struck where the error is uncorrectable (R158, R381, R386, R387). Helper lanes are not named; where
they alone fail they exit (R100, R138). `whole` says that the access was one for the group, whose record names every lane (R202). -/
def State.lateFault (s : State) (w : Who) (code : Nat) (lanes : Word) (pc addr detail : DWord) (whole : Bool := false) : State :=
  let helper := match find s.groups w.gid with | some g => g.helper | none => 0#32
  let solid := lanes &&& ~~~helper
  if solid = 0#32 then s.updG w.gid fun g => g.leave lanes
  else
    let s1 := s.raiseLate w.gid code (if whole then lanes else solid) pc addr detail
    if code = 0x40 ∨ code = 0x36 ∨ code = 0x41 then s1.strike w.bid code else s1

/-- The aligned blocks of a line that a group access of touched 16-byte sectors requests (R303): offset and size of each. -/
def requests (grain : Nat) (touched : List Nat) : List (Nat × Nat) :=
  let n := if grain = 0 then (([1, 2, 4].find? fun n => touched.all fun x => x / n = touched.headD 0 / n).getD 8) else 2 ^ (grain - 1)
  (touched.map fun x => x / n).eraseDups.map fun b => (16 * n * b, 16 * n)

/-- A clean line leaves its slice without write-back (R143). -/
def State.dropClean (s : State) (ver asid va : Nat) : State :=
  let keys := (List.range 8).map fun i => l2key ver asid (va / 128 * 128 + 16 * i)
  if keys.any fun k => match find s.l2 k with | some x => x.dirty | none => false then s
  else ({ s with l2 := delIf s.l2 fun k => keys.contains k, lineUse := del s.lineUse (wayKey ver asid va) }).foldLease asid va

/-- What the hints of a group access do at one line that it has brought to, or found at, its home slice (R143, R303): `old` says that the slice held
the line before, `touched` which sectors the lanes touch. -/
def State.lineHints (s : State) (w : Who) (va : Nat) (old : Bool) (touched : List Nat) (rc grain pol : Nat) (loads : Bool) : State :=
  let a := canonAsid w.asid va
  let ver := s.verOf w.lid a va
  let line := va / 128 * 128
  match touched.findSome? fun i => find s.l2 (l2key ver a (line + 16 * i)) with
  | none => s
  | some x =>
    let s1 := if loads then (requests grain touched).foldl (fun (s : State) b =>
      s.installBlock ((w.req .load).waysOf va) ver a (line + b.1) (x.pa / 128 * 128 + b.1) b.2 false) s else s
    let u : LineUse := getD s1.lineUse (wayKey ver a va) {}
    let left := if !loads then u.rc else if old then u.rc - 1 else rc - 1
    let spent := loads && left = 0 && (if old then u.rc != 0 else rc != 0)
    let s2 := { s1 with lineUse := put s1.lineUse (wayKey ver a va) { u with rc := left, hint := if pol = 2 then 1 else if pol = 3 then 2 else u.hint } }
    if spent then s2.dropClean ver a va else s2

/-- The hints of a group access at the addresses of its lanes (R143, R303); `s0` is the state before it ran. -/
def State.settleHints (s s0 : State) (w : Who) (vas : List Nat) (n : Nat) (stream : Bool) (scope rc grain pol : Nat) (loads : Bool) : State :=
  let home := vas.filter fun va => !(loads && s0.l1Serves w va n stream scope)
  let secs := (home.flatMap fun va => (pieces va n).map fun p => p.1 / 16).eraseDups
  (secs.map fun x => x / 8).eraseDups.foldl (fun (s : State) line =>
    let a := canonAsid w.asid (line * 128)
    s.lineHints w (line * 128) (find s0.lineUse (wayKey (s0.verOf w.lid a (line * 128)) a (line * 128))).isSome
      ((secs.filter fun x => x / 8 = line).map fun x => x % 8) rc grain pol loads) s

/-- Reads the source of an `ldasy` piece that has not been read, unless it must wait (R156): the bytes are kept until it lands; a fault found now
is its group's. -/
def State.readPiece (s : State) (w : Who) (p : Piece) : State :=
  if p.data.isSome || s.pageFaulted w.asid p.src || s.mustFollow w.gid p.seq p.acc || s.pageLogged w p.seq p.acc then s
  else
    let sub (s : State) (f : List Piece) : State := s.updC w.c fun k => { k with pieces := k.pieces.flatMap fun x => if x = p then f else [x] }
    match s.loadNow w p.src p.size p.stream 0 (p.pol = 1) 1 .copy with
    | (.ok bs, s1) => sub (s1.settleHints s w [p.src] p.size p.stream 0 0 p.grain p.pol true) [{ p with data := some bs }]
    | (.wait, s1) => s1
    | (.fail c d, s1) => (sub s1 []).lateFault w c (laneBit p.lane) p.pc (BitVec.ofNat 64 p.src) (BitVec.ofNat 64 d)

/-- Reads the sources of a group's earlier `ldasy` pieces, before an access that must follow them (R249, R252). -/
def State.bindPieces (s : State) (w : Who) (before : Nat) : State :=
  ((s.cluster w.c).pieces.filter fun p => p.gid = w.gid && decide (p.seq < before)).foldl (fun s p => s.readPiece w p) s

/-- Performs an access, unless it must wait: behind what waits (R159, R248, R252), behind an earlier lane of its own instruction that waits, or
with one that waits for the same page (R142, R250). -/
def Ran.attempt (r : Ran) (w : Who) (y : AccOp) (f : State → Acc × State) : Acc × State :=
  if r.waiting.any fun x => x.keeps y || r.s.sharePage w.asid x y then (.wait, r.s)
  else
    let s1 := if r.s.mustFollow w.gid r.before y then r.s.bindPieces w r.before else r.s
    if s1.mustFollow w.gid r.before y || s1.pageLogged w r.before y then (.wait, s1) else f s1

/-- One lane's load: its result words, or that it is parked, or that it failed. -/
def Ran.load (r : Ran) (w : Who) (l : Nat) (y : AccOp) (ws : List Byte → List (Dest × Word)) (f : State → Acc × State) : Ran :=
  match r.attempt w y f with
  | (.ok bs, s) => { r with s := s, writes := r.writes ++ ws bs }
  | (.wait, s) => { r with s := s, parked := put r.parked l y.va, waiting := r.waiting ++ [y] }
  | (.fail c d, s) => ({ r with s := s }).fail l c y.va d

/-- A store access cut at its page's end: a side-log entry holds the accesses of one page (R314). -/
def State.cutOp (s : State) (asid : Nat) (o : SideOp) : List SideOp :=
  let p := s.spanOf asid o.addr
  let k := p.1 + p.2 - o.addr
  if o.space ≠ 0 ∨ o.size ≤ k then [o]
  else [{ o with size := k, y := o.y % 2 ^ (8 * k) }, { o with addr := o.addr + k, size := o.size - k, y := o.y / 2 ^ (8 * k) }]

/-- One lane's store or reduction: done, to the side log, or failed. -/
def Ran.store (r : Ran) (w : Who) (l : Nat) (y : AccOp) (op : SideOp) (f : State → Acc × State) : Ran :=
  match r.attempt w y f with
  | (.ok _, s) => { r with s := s }
  | (.wait, s) => { r with s := s, log := r.log ++ s.cutOp w.asid op, waiting := r.waiting ++ [y] }
  | (.fail c d, s) => ({ r with s := s }).fail l c y.va d

/-- The page that a side-log entry of an access concerns, its first address and bytes; one beyond every page for a bank's. -/
def State.opPage (s : State) (asid : Nat) (o : SideOp) : Nat × Nat := if o.space = 0 then s.spanOf asid o.addr else (2 ^ 56, 0)

/-- POL of a global store or reduction (R143). -/
def polOf (i : Instr) : Nat :=
  match i with
  | .st f => f.pol
  | .strel f => f.pol
  | .sst f => f.pol
  | .red f => f.pol
  | _ => 0

/-- The side-log entries of one instruction: one for each page (R314). -/
def State.sideEntries (s : State) (w : Who) (pc : DWord) (ops : List SideOp) (seq : Nat) (i : Instr) (whole : Word) : List SideLog :=
  (ops.map (s.opPage w.asid)).eraseDups.map fun p =>
    { gid := w.gid, bid := w.bid, lid := w.lid, asid := canonAsid w.asid p.1, page := p.1, psize := p.2, pc := pc
      ops := ops.filter fun o => s.opPage w.asid o = p, seq := seq, stream := (accAt i 0).stream, rel := (accAt i 0).rel, whole := whole, pol := polOf i }

/-- Whether cluster c's side logs refuse new entries: a fault is held for want of a slot on its die (R315). -/
def State.logRefused (s : State) (c : Nat) : Bool := !(s.die (c / 80)).heldFaults.isEmpty

/-- Ends an instruction: parked lanes take a replay entry, stores a side-log entry per page; without room nothing happened and the
group parks or stalls (R159, R314); results are outstanding (R54); late faults halt the group (R158). -/
def Ran.finish (r : Ran) (s0 : State) (it : Issue) (w : Who) (i : Instr) (one row : Bool) : State :=
  let uniform := one && (encode i).any fun x => bit x.1 31
  let es := s0.sideEntries w it.pc r.log s0.order i (if uniform then it.I else 0#32)
  if !r.parked.isEmpty && it.g.replay.length ≥ 16 then s0.park it.gid .replayRoom
  else if (s0.sideLog w.c w.sp).length + es.length > 64 ∨ (!es.isEmpty && s0.logRefused w.c) then s0.stall it.gid .sideLog
  else
    let s1 := if es.isEmpty then r.s else r.s.updC w.c fun k => { k with sideLogs := put k.sideLogs w.sp (getD k.sideLogs w.sp [] ++ es) }
    let s2 := if r.parked.isEmpty then s1 else
      let wd := (encode i).getD (0, none)
      s1.updG it.gid fun g => { g with replay := g.replay ++ [{ w0 := wd.1, w1 := wd.2.getD 0, lanes := maskOf fun l => (find r.parked l).isSome
                                                                one := one, row := row, pc := it.pc, addrs := r.parked, seq := s0.order }] }
    let s2 : State := if es.isEmpty && r.parked.isEmpty then s2 else { s2 with order := max s2.order (s0.order + 1) }
    let s3 := (s2.bind it.gid r.writes).updG it.gid fun g => g.setPc it.I it.nextPc
    match r.failed with
    | some (c, a, d) => s3.lateFault w c r.failLanes it.pc (BitVec.ofNat 64 a) (BitVec.ofNat 64 d) uniform
    | none => if r.failLanes = 0#32 then s3 else s3.updG it.gid fun g => g.leave r.failLanes

/-- Runs a per-lane operation over lanes in ascending order (R142), behind what already waits. -/
def runLanes (s : State) (it : Issue) (m : Word) (f : Ran → Nat → Ran) : Ran := (lanesOf m).foldl f { s := s, before := s.order, silent := it.g.helper }

/-! ### Scratchpad and gang window (R150, R151) -/

/-- The gang of a block. -/
def State.gangOf (s : State) (b : Block) : Option Gang := (s.launchOf b).bind fun l => find l.gangs b.gang

/-- How many blocks a block's gang has. -/
def State.gangSize (s : State) (b : Block) : Nat := match s.gangOf b with | some g => g.blocks.length | none => 1

/-- The member of a block's gang with a rank. -/
def State.member (s : State) (b : Block) (rank : Nat) : Option Block :=
  match s.gangOf b with
  | some g => (g.blocks[rank]?).bind fun bid => find s.blocks bid
  | none => if rank = 0 then some b else none

/-- SCRATCH of a block's current variant. -/
def State.scratchOf (s : State) (b : Block) : Nat := match s.launchOf b with | some l => (l.variantOf b).scratch | none => 0

/-- Where a scratchpad or gang-window address lies: the block and offset, or the fault code (R150). -/
def State.spPlace (s : State) (b : Block) (window : Bool) (a : Word) (n : Nat) : Except Nat (Block × Nat) :=
  if !window then (if a.toNat + n ≤ s.scratchOf b then .ok (b, a.toNat) else .error 0x13)
  else
    let rank := bits a.toNat 30 28
    let off := bits a.toNat 18 0
    if !bit a.toNat 31 ∨ bits a.toNat 27 19 ≠ 0 ∨ rank ≥ s.gangSize b then .error 0x14
    else
      match s.member b rank with
      | none => .error 0x14
      | some m => if off + n > s.scratchOf m then .error 0x14 else .ok (m, off)

/-- The precise fault of a scratchpad access: alignment, then the range (R148, R150, R157). -/
def State.spFault (s : State) (g : Group) (window : Bool) (a : Word) (n : Nat) : Option (Nat × DWord × DWord) :=
  match s.blockOf g with
  | none => some (0x13, a.setWidth 64, 0#64)
  | some b =>
    if a.toNat % n ≠ 0 then some (0x12, a.setWidth 64, 0#64)
    else match s.spPlace b window a n with
      | .error c => some (c, a.setWidth 64, 0#64)
      | .ok _ => none

/-- The timestamps of a scratchpad access (R245): the cluster's banks carry one, which a store passes and no access precedes. -/
def State.spStamp (s : State) (gid c : Nat) (store : Bool) : State :=
  match find s.groups gid with
  | none => s
  | some g =>
    let t := max g.ts ((s.cluster c).spTs + if store then 1 else 0)
    { (s.updC c fun k => { k with spTs := t }).updG gid fun g => { g with ts := t } with tsTop := max s.tsTop t }

/-- n free bytes, and the state that has spent them (log entry 3). -/
def State.freeBytes (s : State) (n : Nat) : List Byte × State :=
  ((List.range n).map fun i => byteAt (Config.freeValue (s.free + i / 8)).toNat (i % 8), { s with free := s.free + (n + 7) / 8 })

/-- Reads n bytes of scratchpad through an address; a poisoned granule fails after issue (R381). What a gang member that has exited holds the
spec leaves open: its bytes are free values (DESIGN CHOICE, log entry 117). -/
def State.spLoad (s : State) (gid : Nat) (g : Group) (window : Bool) (a : Word) (n : Nat) : Acc × State :=
  match s.blockOf g with
  | none => (.fail 0x13 0, s)
  | some b =>
    match s.spPlace b window a n with
    | .error c => (.fail c 0, s)
    | .ok (m, off) =>
      if m.phase = .gone then (let r := s.freeBytes n; (.ok r.1, r.2))
      else if s.spPoison m off n then (.fail 0x40 0, s.countWord m.cluster 1)
      else (.ok (s.spRead m off n), s.spStamp gid m.cluster false)

/-- Stores bytes through a scratchpad address; nothing where the gang member has exited (log entry 117). -/
def State.spStore (s : State) (gid : Nat) (g : Group) (window : Bool) (a : Word) (bs : List Byte) : Acc × State :=
  match s.blockOf g with
  | none => (.fail 0x13 0, s)
  | some b =>
    match s.spPlace b window a bs.length with
    | .error c => (.fail c 0, s)
    | .ok (m, off) => if m.phase = .gone then (.ok [], s) else (.ok [], (s.spWrite m off bs).spStamp gid m.cluster true)

/-- An atomic on scratchpad at its bank (R153). -/
def State.spAtomic (s : State) (gid : Nat) (g : Group) (window : Bool) (a : Word) (size op y y2 : Nat) : Acc × State :=
  match s.spLoad gid g window a (nbytes size) with
  | (.ok old, s1) =>
    (match s1.spStore gid g window a (atomBytes size op old y y2) with
    | (.ok _, s2) => (.ok old, s2)
    | r => r)
  | r => r

/-- The operands y, y2 of an atomic from its data registers (R153, R154). -/
def atomOperands (size op : Nat) (rd : Nat → Word) (d : Nat) : Nat × Nat :=
  if size = 2 then ((rd d).toNat, if op = 9 then (rd (d + 1)).toNat else 0)
  else ((pair (rd d) (rd (d + 1))).toNat, if op = 9 then (pair (rd (d + 2)) (rd (d + 3))).toNat else 0)

/-- The addresses of an access that a lane checks are its own; a fault of the whole group names one address. -/
def sameFault (f : Option (Nat × DWord × DWord)) (_ : Nat) : Option (Nat × DWord × DWord) := f

/-- How many registers an atomic's data operand names (R154). -/
def atomRegs (size op : Nat) : Nat := (if size = 3 then 2 else 1) * (if op = 9 then 2 else 1)

end Sys2Proof.Machine
end

