-- ==== Sys2Proof/Machine/LaneMem.lean ====
section
/-!
DEFINITION. Lane memory instructions 0x4A-0x5D (R140-R160): global loads and stores, scratchpad and gang window, atomics, asynchronous
loads.
-/
namespace Sys2Proof.Machine
open Sys2Proof

/-! ### Global loads and stores (R144-R149) -/

/-- Whether a SIZE 5 access's line address is misaligned (R145). -/
def lineBad (g : Group) (base off size : Nat) : Bool :=
  size = 5 && decide ((g.sreg64 base + BitVec.ofInt 64 (sextInt 16 off)).toNat % 128 ≠ 0)

/-- A per-lane global load (R140-R145, R148). An acquire load notes its place for later engine commands (R258). -/
def laneLoad (i : Instr) (f : MForm) (signed acquire : Bool) (s : State) : Out :=
  laneIssue s i f.sw f.g 8 (mUses f.bc f.d (dataRegs f.size) f.base) true fun it s1 =>
    let stream : Bool := f.cls.val = 1
    if it.mustWait stream then it.waitTurn s else
    let w := s.who it
    let n := nbytes f.size
    let addr (l : Nat) : DWord := it.g.laneAddr f.bc f.base f.size f.off l
    let bad (l : Nat) : Bool := if acquire then decide ((addr l).toNat % n ≠ 0) else lineBad it.g f.base f.off f.size
    let s2 := s1.refill w ((lanesOf it.E).map addr)
    it.guarded s s2 (fun l => s2.accFault w .load (addr l) n (bad l)) fun it s3 =>
      let s4 := if acquire && it.E != 0#32 then s3.updG it.gid fun g => { g with acqAt := s3.order } else s3
      let vas := (lanesOf it.E).map fun l => (addr l).toNat
      let r := runLanes (if acquire then s4 else s4.gather w vas n stream f.scope) it it.E fun r l =>
        r.load w l (accAt i (addr l).toNat) (fun bs => vecWrites l f.d (loadWords f.size signed bs)) fun s =>
          if acquire then s.acquireNow w (addr l).toNat n stream f.scope
          else s.loadNow w (addr l).toNat n stream f.scope (f.pol.val = 1) (tickOf vas n (decide ((lanesOf it.E).headD 0 = l)))
      { r with s := r.s.settleHints s4 w vas n stream f.scope f.rc f.grain f.pol true }.finish s it w i false false

/-- `ld` (R144). -/
def execLd (f : MForm) (s : State) : Out := laneLoad (.ld f) f false false s
/-- `lds` (R144). -/
def execLds (f : MForm) (s : State) : Out := laneLoad (.lds f) f true false s
/-- `ldacq` (R144, R149, R253). -/
def execLdacq (f : MForm) (s : State) : Out := laneLoad (.ldacq f) f false true s

/-- The bytes that lane l stores (R141). -/
def laneBytes (g : Group) (d size l : Nat) : List Byte := storeBytes size ((regRun d (dataRegs size)).map fun r => g.readV l r)

/-- A per-lane global store (R140-R145, R148); helpers store nothing (R160). POL 1 bypasses the L1 (R143). -/
def laneStore (i : Instr) (f : MForm) (release : Bool) (s : State) : Out :=
  laneIssue s i f.sw f.g 8 (mUses f.bc f.d (dataRegs f.size) f.base) true fun it s1 =>
    let stream : Bool := f.cls.val = 1
    if it.mustWait stream then it.waitTurn s else
    let w := s.who it
    let n := nbytes f.size
    let addr (l : Nat) : DWord := it.g.laneAddr f.bc f.base f.size f.off l
    let bad (l : Nat) : Bool := if release then decide ((addr l).toNat % n ≠ 0) else lineBad it.g f.base f.off f.size
    let s2 := s1.refill w ((lanesOf it.E).map addr)
    it.guarded s s2 (fun l => s2.accFault w .store (addr l) n (bad l)) fun it s3 =>
      let m := it.E &&& ~~~it.g.helper
      let scope : Nat := if f.pol.val = 1 ∧ f.scope.val ≤ 3 then 4 else f.scope
      let r := runLanes s3 it m fun r l =>
        let bs := laneBytes it.g f.d f.size l
        r.store w l (accAt i (addr l).toNat) { lane := l, addr := (addr l).toNat, size := n, atop := none, y := ofBytes bs, y2 := 0 } fun s =>
          s.storeAtPoint w (addr l).toNat bs stream release scope it.pc l
      { r with s := r.s.settleHints s3 w ((lanesOf m).map fun l => (addr l).toNat) n stream scope 0 f.grain f.pol false }.finish s it w i false false

/-- `st` (R144). -/
def execSt (f : MForm) (s : State) : Out := laneStore (.st f) f false s
/-- `strel` (R144, R149, R253). -/
def execStrel (f : MForm) (s : State) : Out := laneStore (.strel f) f true s

/-- `ldbc` (R146): one access for every lane of E. -/
def execLdbc (f : MForm) (s : State) : Out :=
  laneIssue s (.ldbc f) f.sw f.g 8 { v := regRun f.d (dataRegs f.size), s := [f.base, f.base + 1] } true fun it s1 =>
    let stream : Bool := f.cls.val = 1
    if it.mustWait stream then it.waitTurn s else
    let w := s.who it
    let n := nbytes f.size
    let addr := uniAddr (it.g.sreg64 f.base) f.off
    if it.E = 0#32 then it.past it.I s1
    else
      let s2 := s1.refill w [addr]
      it.guarded s s2 (sameFault (s2.accFault w .load addr n false)) fun it s3 =>
        let low := (lanesOf it.E).headD 0
        let r := ({ s := s3, before := s3.order } : Ran).load w low (accAt (.ldbc f) addr.toNat)
          (fun bs => (lanesOf it.E).flatMap fun l => vecWrites l f.d (loadWords f.size false bs)) fun s => s.loadNow w addr.toNat n stream f.scope (f.pol.val = 1)
        let all := if r.parked.isEmpty then r.parked else (lanesOf it.E).map fun l => (l, addr.toNat)
        { r with s := r.s.settleHints s3 w [addr.toNat] n stream f.scope f.rc f.grain f.pol true, parked := all
                 failLanes := if r.failed.isSome then it.E else r.failLanes }.finish s it w (.ldbc f) true false

/-- The lanes whose page lets `pref` or `evict` act (R147): mapped, permitted, not sealed, and near (R304). -/
def State.hintOk (s : State) (w : Who) (addr : DWord) : Bool :=
  decide (addr.toNat < 2 ^ 56) &&
  (match (s.attrs w.c w.asid addr.toNat).1 with
    | .ok e => e.permits .load && (e.world = w.world || inShared addr.toNat) && !e.sealed_
    | .error _ => false) &&
  match (s.portLeaf (canonAsid w.asid addr.toNat) addr.toNat false).1 with
  | .leaf l => l.remote.isNone && inFast l.pa && decide (l.res < 2)
  | .bad _ _ => false

/-- The translations that `pref` and `evict` make for those checks (R307). -/
def State.hintWalks (s : State) (w : Who) (addrs : List DWord) : State :=
  addrs.foldl (fun (s : State) x => if x.toNat < 2 ^ 56 then s.translated w.asid x.toNat else s) s

/-- `pref` (R147): brings the lines into L2, and into the L1 unless POL is 1; changes no value. -/
def execPref (f : MForm) (s : State) : Out :=
  laneIssue s (.pref f) f.sw f.g 8 (mUses f.bc f.d 1 f.base) true fun it s1 =>
    let w := s.who it
    let addr (l : Nat) : DWord := it.g.laneAddr f.bc f.base f.size f.off l
    let ls := (lanesOf (it.E &&& ~~~it.g.helper)).filter fun l => s1.hintOk w (addr l)
    let s2 := ls.foldl (fun s l => (s.touch { w.req .load with kind := none } (addr l).toNat).2) (s1.hintWalks w ((lanesOf (it.E &&& ~~~it.g.helper)).map addr))
    let s3 := s2.settleHints s1 w (ls.map fun l => (addr l).toNat) (nbytes f.size) true 6 f.rc f.grain f.pol true
    it.past it.I (if f.pol.val = 1 then s3 else ls.foldl (fun s l => s.l1Fill w.c w.lid (canonAsid w.asid (addr l).toNat) (addr l).toNat) s3)

/-- `evict` (R147): the line leaves the L1 (its stream stores published), and with POL 1 also L2. -/
def execEvict (f : MForm) (s : State) : Out :=
  laneIssue s (.evict f) f.sw f.g 8 (mUses f.bc f.d 1 f.base) true fun it s1 =>
    let w := s.who it
    let addr (l : Nat) : DWord := it.g.laneAddr f.bc f.base f.size f.off l
    it.past it.I ((lanesOf (it.E &&& ~~~it.g.helper)).foldl (fun s l =>
      let va := (addr l).toNat
      let a := canonAsid w.asid va
      if s.hintOk w (addr l) then
        let s' := (s.publishLine w.c a va).dropCopies w.c a va
        if f.pol.val = 1 then s'.evictLine (s'.verOf w.lid a va) a va else s'
      else s) (s1.hintWalks w ((lanesOf (it.E &&& ~~~it.g.helper)).map addr)))

/-! ### Global atomics (R153-R155) -/

/-- A per-lane global atomic; `ret` returns the old value. Helpers perform none (R160). -/
def laneAtomic (i : Instr) (f : MaForm) (ret : Bool) (s : State) : Out :=
  laneIssue s i f.sw f.g 8 (mUses f.bc f.d (atomRegs f.size f.atop) f.base) true fun it s1 =>
    if it.mustWait false then it.waitTurn s else
    let w := s.who it
    let n := nbytes f.size
    let addr (l : Nat) : DWord := it.g.laneAddr f.bc f.base f.size f.off l
    let s2 := s1.refill w ((lanesOf it.E).map addr)
    it.guarded s s2 (fun l => s2.accFault w .atomic (addr l) n (decide ((addr l).toNat % n ≠ 0))) fun it s3 =>
      let m := it.E &&& ~~~it.g.helper
      let r := runLanes s3 it m fun r l =>
        let y := atomOperands f.size f.atop (it.g.readV l) f.d
        let act (s : State) : Acc × State := s.atomicNow w (addr l).toNat f.size f.atop y.1 y.2 f.scope ret
        if ret then r.load w l (accAt i (addr l).toNat) (fun bs => vecWrites l f.d (loadWords f.size false bs)) act
        else r.store w l (accAt i (addr l).toNat) { lane := l, addr := (addr l).toNat, size := n, atop := some f.atop, y := y.1, y2 := y.2 } act
      { r with s := r.s.settleHints s3 w ((lanesOf m).map fun l => (addr l).toNat) n false 6 0 0 f.pol false }.finish s it w i false false

/-- `atom` (R155). -/
def execAtom (f : MaForm) (s : State) : Out := laneAtomic (.atom f) f true s
/-- `red` (R155). -/
def execRed (f : MaForm) (s : State) : Out := laneAtomic (.red f) f false s

/-! ### Scratchpad and gang window (R150-R152) -/

/-- A per-lane scratchpad or gang-window load: an ordinary access (R151). -/
def laneShLoad (i : Instr) (f : MForm) (window signed : Bool) (s : State) : Out :=
  laneIssue s i f.sw f.g 8 (shUses f.bc f.d (dataRegs f.size) f.base) true fun it s1 =>
    if it.mustWait false then it.waitTurn s else
    let w := s.who it
    let n := nbytes f.size
    let addr (l : Nat) : Word := it.g.laneAddr32 f.bc f.base f.size f.off l
    it.guarded s s1 (fun l => s1.spFault it.g window (addr l) n) fun it s2 =>
      (runLanes s2 it it.E fun r l =>
        r.load w l (accAt i (addr l).toNat) (fun bs => vecWrites l f.d (loadWords f.size signed bs)) fun s =>
          s.spLoad it.gid it.g window (addr l) n).finish s it w i false false

/-- `ldsh` (R151). -/
def execLdsh (f : MForm) (s : State) : Out := laneShLoad (.ldsh f) f false false s
/-- `ldssh` (R151). -/
def execLdssh (f : MForm) (s : State) : Out := laneShLoad (.ldssh f) f false true s
/-- `ldg` (R151). -/
def execLdg (f : MForm) (s : State) : Out := laneShLoad (.ldg f) f true false s

/-- A per-lane scratchpad or gang-window store. -/
def laneShStore (i : Instr) (f : MForm) (window : Bool) (s : State) : Out :=
  laneIssue s i f.sw f.g 8 (shUses f.bc f.d (dataRegs f.size) f.base) true fun it s1 =>
    if it.mustWait false then it.waitTurn s else
    let w := s.who it
    let n := nbytes f.size
    let addr (l : Nat) : Word := it.g.laneAddr32 f.bc f.base f.size f.off l
    it.guarded s s1 (fun l => s1.spFault it.g window (addr l) n) fun it s2 =>
      (runLanes s2 it (it.E &&& ~~~it.g.helper) fun r l =>
        let bs := laneBytes it.g f.d f.size l
        r.store w l (accAt i (addr l).toNat)
          { lane := l, addr := (addr l).toNat, size := n, atop := none, y := ofBytes bs, y2 := 0, space := if window then 2 else 1 } fun s =>
          s.spStore it.gid it.g window (addr l) bs).finish s it w i false false

/-- `stsh` (R151). -/
def execStsh (f : MForm) (s : State) : Out := laneShStore (.stsh f) f false s
/-- `stg` (R151). -/
def execStg (f : MForm) (s : State) : Out := laneShStore (.stg f) f true s

/-- A per-lane scratchpad or gang-window atomic. -/
def laneShAtomic (i : Instr) (f : MaForm) (window ret : Bool) (s : State) : Out :=
  laneIssue s i f.sw f.g 8 (shUses f.bc f.d (atomRegs f.size f.atop) f.base) true fun it s1 =>
    if it.mustWait false then it.waitTurn s else
    let w := s.who it
    let n := nbytes f.size
    let addr (l : Nat) : Word := it.g.laneAddr32 f.bc f.base f.size f.off l
    it.guarded s s1 (fun l => s1.spFault it.g window (addr l) n) fun it s2 =>
      (runLanes s2 it (it.E &&& ~~~it.g.helper) fun r l =>
        let y := atomOperands f.size f.atop (it.g.readV l) f.d
        let act (s : State) : Acc × State := s.spAtomic it.gid it.g window (addr l) f.size f.atop y.1 y.2
        if ret then r.load w l (accAt i (addr l).toNat) (fun bs => vecWrites l f.d (loadWords f.size false bs)) act
        else r.store w l (accAt i (addr l).toNat)
          { lane := l, addr := (addr l).toNat, size := n, atop := some f.atop, y := y.1, y2 := y.2, space := if window then 2 else 1 } act).finish s it w i false false

/-- `atsh` (R151). -/
def execAtsh (f : MaForm) (s : State) : Out := laneShAtomic (.atsh f) f false true s
/-- `redsh` (R151). -/
def execRedsh (f : MaForm) (s : State) : Out := laneShAtomic (.redsh f) f false false s
/-- `atg` (R151). -/
def execAtg (f : MaForm) (s : State) : Out := laneShAtomic (.atg f) f true true s

/-- `gwaddr` (R152); its result is long-latency (R54). It makes no access: ADDR of its fault, which the spec does not state, is 0 (DESIGN CHOICE,
log entry 118). -/
def execGwaddr (f : GwForm) (s : State) : Out :=
  laneIssue s (.gwaddr f) f.sw f.g 4 (rUses f.d f.a f.e f.b) true fun it s1 =>
    let rank (l : Nat) : Nat := (it.g.readV l f.a).toNat
    let off (l : Nat) : Nat := (it.g.opb f.e f.b l).toNat
    let bad (l : Nat) : Option (Nat × DWord × DWord) :=
      match s.blockOf it.g with
      | none => some (0x14, 0#64, 0#64)
      | some b =>
        if rank l ≥ s.gangSize b then some (0x14, 0#64, 0#64)
        else match s.member b (rank l) with
          | none => some (0x14, 0#64, 0#64)
          | some m => if off l ≥ s.scratchOf m then some (0x14, 0#64, 0#64) else none
    it.guarded s s1 bad fun it s2 =>
      it.past it.I (s2.bind it.gid ((lanesOf it.E).flatMap fun l =>
        vecWrites l f.d [BitVec.ofNat 32 (0x80000000 + rank l * 2 ^ 28 + off l)]))

/-! ### Asynchronous loads (R156) -/

/-- The fault of an object address (R150, R165): 16-aligned and in range, local or through the window. -/
def State.objFault (s : State) (g : Group) (a : Word) : Option (Nat × DWord × DWord) := s.spFault g (bit a.toNat 31) a 16

/-- The fault of one `ldasy` lane, row by row of R157's table: the source's page, then the alignment of source, destination and object, then
the range of destination and object, then a sealed source. -/
def State.ldasyFault (s : State) (w : Who) (g : Group) (src : DWord) (dst obj : Word) (n : Nat) : Option (Nat × DWord × DWord) :=
  let f := s.accFault w .copy src n (decide (src.toNat % n ≠ 0))
  if f.any fun x => x.1 ≠ 0x31 then f
  else if dst.toNat % n ≠ 0 then some (0x12, dst.setWidth 64, 0#64)
  else if obj.toNat % 16 ≠ 0 then some (0x12, obj.setWidth 64, 0#64)
  else match s.spFault g false dst n with
    | some x => some x
    | none => match s.objFault g obj with
      | some x => some x
      | none => f

/-- `ldasy` (R156): one piece per lane; an ordinary source is read in program order, a stream source when the piece lands or a later access
must follow it. -/
def execLdasy (f : MForm) (s : State) : Out :=
  laneIssue s (.ldasy f) f.sw f.g 8 (mUses f.bc f.d 2 f.base) true fun it s1 =>
    let stream : Bool := f.cls.val = 1
    if it.mustWait stream then it.waitTurn s else
    let w := s.who it
    let n := nbytes f.size
    let addr (l : Nat) : DWord := it.g.laneAddr f.bc f.base f.size f.off l
    let dst (l : Nat) : Word := it.g.readV l f.d
    let obj (l : Nat) : Word := it.g.readV l (f.d + 1)
    let s2 := s1.refill w ((lanesOf it.E).map addr)
    it.guarded s s2 (fun l => s2.ldasyFault w it.g (addr l) (dst l) (obj l) n) fun it s3 =>
      let m := it.E &&& ~~~it.g.helper
      if m = 0#32 then it.past it.I s3
      else
        let r := runLanes s3 it m fun r l =>
          let p (data : Option (List Byte)) : Piece :=
            { gid := w.gid, bid := w.bid, dst := (dst l).toNat, obj := (obj l).toNat, src := (addr l).toNat, asid := w.asid, size := n, stream := stream
              data := data, lane := l, pc := it.pc, seq := s3.order, grain := f.grain, pol := f.pol }
          let add (s : State) (data : Option (List Byte)) : State := s.updC w.c fun k => { k with pieces := k.pieces ++ [p data] }
          if stream then { r with s := add r.s none }
          else match r.attempt w (p none).acc fun s => s.loadNow w (addr l).toNat n false 0 (f.pol.val = 1) 1 .copy with
            | (.ok bs, s') => { r with s := (add s' (some bs)).settleHints r.s w [(addr l).toNat] n false 0 0 f.grain f.pol true }
            | (.wait, s') => { r with s := add s' none, waiting := r.waiting ++ [(p none).acc] }
            | (.fail c d, s') => ({ r with s := s' }).fail l c (addr l).toNat d
        { r with s := { r.s with order := max r.s.order (s3.order + 1) } }.finish s it w (.ldasy f) false false

end Sys2Proof.Machine
end

