-- ==== Sys2Proof/Machine/LaneInt.lean ====
section
/-!
DEFINITION. Lane integer and logic instructions, 0x00-0x17 (R102-R106).
-/
namespace Sys2Proof.Machine
open Sys2Proof

/-- An R-form instruction with one result: op x y d per lane of E (R99, R102). -/
def alu (i : Instr) (f : RForm) (s : State) (op : Word → Word → Word → Word) : Out :=
  vectorOp s i f.sw f.g 4 (rUses f.d f.a f.e f.b) true f.t f.d fun g l => op (g.readV l f.a) (g.opb f.e f.b l) (g.readV l f.d)

/-- A unary R-form instruction (R102, R107). -/
def alu1 (i : Instr) (f : R1Form) (s : State) (op : Word → Word) : Out :=
  vectorOp s i f.sw f.g 4 { v := [f.d, f.a] } true f.t f.d fun g l => op (g.readV l f.a)

/-- An I6-form instruction (R102, R103). -/
def aluImm (i : Instr) (f : I6Form) (s : State) (op : Word → Nat → Word) : Out :=
  vectorOp s i f.sw f.g 4 { v := [f.d, f.a] } true f.t f.d fun g l => op (g.readV l f.a) f.i

/-- Number of 1 bits. -/
def popCount (x : Word) : Word := BitVec.ofNat 32 ((List.range 32).countP fun i => x.getLsbD i)
/-- Number of leading 0 bits, 32 for 0. -/
def leadingZeros (x : Word) : Word := if x = 0#32 then 32#32 else BitVec.ofNat 32 (31 - Nat.log2 x.toNat)

/-- `iadd` (R102). -/
def execIadd (f : RForm) (s : State) : Out := alu (.iadd f) f s fun x y _ => x + y
/-- `isub` (R102). -/
def execIsub (f : RForm) (s : State) : Out := alu (.isub f) f s fun x y _ => x - y
/-- `iadds` (R102). -/
def execIadds (f : RForm) (s : State) : Out := alu (.iadds f) f s fun x y _ => BitVec.ofInt 32 (clampS 32 (x.toInt + y.toInt))
/-- `isubs` (R102). -/
def execIsubs (f : RForm) (s : State) : Out := alu (.isubs f) f s fun x y _ => BitVec.ofInt 32 (clampS 32 (x.toInt - y.toInt))
/-- `imul` (R102). -/
def execImul (f : RForm) (s : State) : Out := alu (.imul f) f s fun x y _ => x * y
/-- `imulh` (R102). -/
def execImulh (f : RForm) (s : State) : Out := alu (.imulh f) f s fun x y _ => ((x.signExtend 64 * y.signExtend 64) >>> 32).setWidth 32
/-- `imad` (R102). -/
def execImad (f : RForm) (s : State) : Out := alu (.imad f) f s fun x y d => x * y + d
/-- `imin` (R102). -/
def execImin (f : RForm) (s : State) : Out := alu (.imin f) f s fun x y _ => sminBv x y
/-- `imax` (R102). -/
def execImax (f : RForm) (s : State) : Out := alu (.imax f) f s fun x y _ => smaxBv x y
/-- `and` (R102). -/
def execAndI (f : RForm) (s : State) : Out := alu (.andI f) f s fun x y _ => x &&& y
/-- `or` (R102). -/
def execOrI (f : RForm) (s : State) : Out := alu (.orI f) f s fun x y _ => x ||| y
/-- `xor` (R102). -/
def execXorI (f : RForm) (s : State) : Out := alu (.xorI f) f s fun x y _ => x ^^^ y
/-- `andn` (R102). -/
def execAndn (f : RForm) (s : State) : Out := alu (.andn f) f s fun x y _ => x &&& ~~~y
/-- `shl` (R102). -/
def execShl (f : RForm) (s : State) : Out := alu (.shl f) f s fun x y _ => shlAll x y.toNat
/-- `shr` (R102). -/
def execShr (f : RForm) (s : State) : Out := alu (.shr f) f s fun x y _ => shrAll x y.toNat
/-- `sra` (R102). -/
def execSra (f : RForm) (s : State) : Out := alu (.sra f) f s fun x y _ => sraAll x y.toNat
/-- `shli` (R103). -/
def execShli (f : I6Form) (s : State) : Out := aluImm (.shli f) f s fun x n => shlAll x n
/-- `shri` (R103). -/
def execShri (f : I6Form) (s : State) : Out := aluImm (.shri f) f s fun x n => shrAll x n
/-- `srai` (R103). -/
def execSrai (f : I6Form) (s : State) : Out := aluImm (.srai f) f s fun x n => sraAll x n
/-- `popc` (R102). -/
def execPopc (f : R1Form) (s : State) : Out := alu1 (.popc f) f s popCount
/-- `clz` (R102). -/
def execClz (f : R1Form) (s : State) : Out := alu1 (.clz f) f s leadingZeros
/-- `icmp` (R104). -/
def execIcmp (f : PForm) (s : State) : Out :=
  predicateOp s (.icmp f) f.sw f.g (if f.e.val = 1 then { v := [f.a], s := [f.b] } else { v := [f.a, f.b] }) f.p
    fun g l => icond f.c (g.readV l f.a) (g.opb f.e f.b l)
/-- `movl` (R105). -/
def execMovl (f : LForm) (s : State) : Out :=
  vectorOp s (.movl f) f.sw f.g 8 { v := [f.d] } true f.t f.d fun _ _ => BitVec.ofNat 32 f.lit
/-- `iaddw` (R106): 64-bit wrapped add on pairs. -/
def execIaddw (f : RForm) (s : State) : Out :=
  vectorOp64 s (.iaddw f) f.sw f.g 4
    (if f.e.val = 1 then { v := [f.d, f.d + 1, f.a, f.a + 1], s := [f.b, f.b + 1] } else { v := [f.d, f.d + 1, f.a, f.a + 1, f.b, f.b + 1] })
    true f.t f.d
    fun g l => g.readV64 l f.a + (if f.e.val = 1 then g.sreg64 f.b else g.readV64 l f.b)

end Sys2Proof.Machine
end

