-- ==== Sys2Proof/Machine/LaneFloat.lean ====
section
/-!
DEFINITION. Lane floating point and conversion instructions, 0x18-0x35 (R107-R116).
-/
namespace Sys2Proof.Machine
open Sys2Proof

/-- A value-level function on 32-bit words. -/
def onNat (f : Nat → Nat → Nat → Nat) (x y z : Word) : Word := BitVec.ofNat 32 (f x.toNat y.toNat z.toNat)

/-- A packed instruction on two 16-bit elements (R77). -/
def packed (f : Nat → Nat → Nat → Nat) (x y z : Word) : Word :=
  BitVec.ofNat 32 (f (bits x.toNat 15 0) (bits y.toNat 15 0) (bits z.toNat 15 0)
    + 65536 * f (bits x.toNat 31 16) (bits y.toNat 31 16) (bits z.toNat 31 16))

/-- `fadd` (R107). -/
def execFadd (f : RForm) (s : State) : Out := alu (.fadd f) f s (onNat fun x y _ => fp32.add x y)
/-- `fsub` (R107). -/
def execFsub (f : RForm) (s : State) : Out := alu (.fsub f) f s (onNat fun x y _ => fp32.sub x y)
/-- `fmul` (R107). -/
def execFmul (f : RForm) (s : State) : Out := alu (.fmul f) f s (onNat fun x y _ => fp32.mul x y)
/-- `ffma` (R107). -/
def execFfma (f : RForm) (s : State) : Out := alu (.ffma f) f s (onNat fp32.fma)
/-- `fmin` (R108). -/
def execFmin (f : RForm) (s : State) : Out := alu (.fmin f) f s (onNat fun x y _ => fmin32 x y)
/-- `fmax` (R108). -/
def execFmax (f : RForm) (s : State) : Out := alu (.fmax f) f s (onNat fun x y _ => fmax32 x y)
/-- `hadd` (R107). -/
def execHadd (f : RForm) (s : State) : Out := alu (.hadd f) f s (packed fun x y _ => fp16.add x y)
/-- `hmul` (R107). -/
def execHmul (f : RForm) (s : State) : Out := alu (.hmul f) f s (packed fun x y _ => fp16.mul x y)
/-- `hfma` (R107). -/
def execHfma (f : RForm) (s : State) : Out := alu (.hfma f) f s (packed fp16.fma)
/-- `badd` (R107). -/
def execBadd (f : RForm) (s : State) : Out := alu (.badd f) f s (packed fun x y _ => bf16.add x y)
/-- `bmul` (R107). -/
def execBmul (f : RForm) (s : State) : Out := alu (.bmul f) f s (packed fun x y _ => bf16.mul x y)
/-- `bfma` (R107). -/
def execBfma (f : RForm) (s : State) : Out := alu (.bfma f) f s (packed bf16.fma)
/-- `fabs` (R107). -/
def execFabs (f : R1Form) (s : State) : Out := alu1 (.fabs f) f s fun x => BitVec.ofNat 32 (fabs32 x.toNat)
/-- `fneg` (R107). -/
def execFneg (f : R1Form) (s : State) : Out := alu1 (.fneg f) f s fun x => BitVec.ofNat 32 (fneg32 x.toNat)
/-- `frcp` (R109). -/
def execFrcp (f : R1Form) (s : State) : Out := alu1 (.frcp f) f s fun x => BitVec.ofNat 32 (frcp32 x.toNat)
/-- `frsq` (R109). -/
def execFrsq (f : R1Form) (s : State) : Out := alu1 (.frsq f) f s fun x => BitVec.ofNat 32 (frsq32 x.toNat)
/-- `fsqrt` (R109). -/
def execFsqrt (f : R1Form) (s : State) : Out := alu1 (.fsqrt f) f s fun x => BitVec.ofNat 32 (fsqrt32 x.toNat)
/-- `fexp2` (R109). -/
def execFexp2 (f : R1Form) (s : State) : Out := alu1 (.fexp2 f) f s fun x => BitVec.ofNat 32 (fexp2b32 x.toNat)
/-- `flog2` (R109). -/
def execFlog2 (f : R1Form) (s : State) : Out := alu1 (.flog2 f) f s fun x => BitVec.ofNat 32 (flog2b32 x.toNat)
/-- `fsin` (R109). -/
def execFsin (f : R1Form) (s : State) : Out := alu1 (.fsin f) f s fun x => BitVec.ofNat 32 (fsin32 x.toNat)
/-- `fcos` (R109). -/
def execFcos (f : R1Form) (s : State) : Out := alu1 (.fcos f) f s fun x => BitVec.ofNat 32 (fcos32 x.toNat)
/-- `fcmp` (R110). -/
def execFcmp (f : PForm) (s : State) : Out :=
  predicateOp s (.fcmp f) f.sw f.g (if f.e.val = 1 then { v := [f.a], s := [f.b] } else { v := [f.a, f.b] }) f.p
    fun g l => fcond f.c (g.readV l f.a).toNat (g.opb f.e f.b l).toNat

/-- The rounding mode that ROUND selects, with the slot's RMODE for ROUND 0 (R84). -/
def roundOf (r : Nat) (slot : BitVec 128) : RMode :=
  match r with | 0 => slotMode slot | 1 => .rne | 2 => .rz | 3 => .rd | _ => .ru

/-- The 16-bit float format of a slot (R111). -/
def halfFmt (slot : BitVec 128) : FFmt := if slotType slot = 2 then fp16 else bf16

/-- `icvf` (R111, R112). -/
def execIcvf (f : CvForm) (s : State) : Out :=
  let sl := s.curSlot f.f
  vectorOp s (.icvf f) f.sw f.g 4 { v := [f.d, f.a] } (f.r.val ≠ 0 || slotType sl ≠ 0) f.t f.d
    fun g l => BitVec.ofNat 32 (icvf32 (roundOf f.r sl) (g.readV l f.a).toInt)
/-- `fcvi` (R111, R112). -/
def execFcvi (f : CvForm) (s : State) : Out :=
  let sl := s.curSlot f.f
  vectorOp s (.fcvi f) f.sw f.g 4 { v := [f.d, f.a] } (f.r.val ≠ 0 || slotType sl ≠ 0) f.t f.d
    fun g l => BitVec.ofInt 32 (fcvi32 (roundOf f.r sl) (g.readV l f.a).toNat)
/-- `fcvh` (R111, R112). -/
def execFcvh (f : CvForm) (s : State) : Out :=
  let sl := s.curSlot f.f
  vectorOp s (.fcvh f) f.sw f.g 4 { v := [f.d, f.a, f.a + 1] } (slotType sl = 2 || slotType sl = 3) f.t f.d
    fun g l => BitVec.ofNat 32 (fconv fp32 (halfFmt sl) (roundOf f.r sl) (g.readV l f.a).toNat
      + 65536 * fconv fp32 (halfFmt sl) (roundOf f.r sl) (g.readV l (f.a + 1)).toNat)
/-- `hcvf` (R111, R112): exact. -/
def execHcvf (f : Cv0Form) (s : State) : Out :=
  let sl := s.curSlot f.f
  vectorOp64 s (.hcvf f) f.sw f.g 4 { v := [f.d, f.d + 1, f.a] } (slotType sl = 2 || slotType sl = 3) f.t f.d
    fun g l => BitVec.ofNat 64 (fconv (halfFmt sl) fp32 .rne (bits (g.readV l f.a).toNat 15 0)
      + 2 ^ 32 * fconv (halfFmt sl) fp32 .rne (bits (g.readV l f.a).toNat 31 16))

/-- icvn's value (R113). -/
def icvnVal (n mode : Nat) (x : Word) : Word :=
  match mode with
  | 0 => BitVec.ofInt 32 (sextInt n x.toNat)
  | 1 => BitVec.ofInt 32 (clampS n x.toInt)
  | _ => BitVec.ofInt 32 (min (max x.toInt 0) (2 ^ n - 1))
/-- `icvn` (R111, R113). -/
def execIcvn (f : CvForm) (s : State) : Out :=
  let sl := s.curSlot f.f
  vectorOp s (.icvn f) f.sw f.g 4 { v := [f.d, f.a] } (slotType sl = 4 || slotType sl = 5) f.t f.d
    fun g l => icvnVal (if slotType sl = 4 then 8 else 16) f.r (g.readV l f.a)

/-- `bpk`'s word for lane l (R114): bit i is bit p-1-l of clampS(p, element of lane i). -/
def bpkVal (p : Nat) (x : Nat → Word) (l : Nat) : Word :=
  if l < p then maskOf fun i => bit (wrapNat p (clampS p (x i).toInt)) (p - 1 - l) else 0#32
/-- `bpk` (R111, R114): reads the a register of all 32 lanes. -/
def execBpk (f : Cv0Form) (s : State) : Out :=
  let sl := s.curSlot f.f
  vectorOp s (.bpk f) f.sw f.g 4 { v := [f.d, f.a] } (slotType sl = 0x10) f.t f.d
    fun g l => bpkVal (slotPst sl) (fun i => g.readV i f.a) l

/-- The value of q top planes t of a p-plane element (R82, R115, R116). -/
def bpVal (p q : Nat) (centre : Bool) (t : Nat) : Int :=
  let t' := sextInt q t
  t' * (2 ^ (p - q) : Nat) + (if centre && decide (q < p) then (2 ^ (p - q - 1) : Nat) else 0)
/-- `bunpk` (R111, R115). -/
def execBunpk (f : Cv0Form) (s : State) : Out :=
  let sl := s.curSlot f.f
  vectorOp s (.bunpk f) f.sw f.g 4 { v := [f.d, f.a] } (slotType sl = 0x10) f.t f.d
    fun g l =>
      let t := (List.range (slotPrd sl)).foldl (fun t j => 2 * t + (if (g.readV j f.a).getLsbD l then 1 else 0)) 0
      BitVec.ofInt 32 (bpVal (slotPst sl) (slotPrd sl) (slotCentre sl) t)
/-- `bpsel` (R111, R116): floor(sext(p, x) / 2^(p-q)) is the top q bits of the p-bit pattern. -/
def execBpsel (f : Cv0Form) (s : State) : Out :=
  let sl := s.curSlot f.f
  vectorOp s (.bpsel f) f.sw f.g 4 { v := [f.d, f.a] } (slotType sl = 0x10) f.t f.d
    fun g l =>
      let p := slotPst sl
      let q := slotPrd sl
      BitVec.ofInt 32 (bpVal p q (slotCentre sl) ((g.readV l f.a).toNat % 2 ^ p / 2 ^ (p - q)))

end Sys2Proof.Machine
end

