-- ==== Sys2Proof/Machine/Control.lean ====
section
/-!
DEFINITION. Lane control, divergence, predicates, special registers, group-wide operations, quad exchange (R117-R139) and the uniform
control instructions that act on lanes alike (R206-R208).
-/
namespace Sys2Proof.Machine
open Sys2Proof

/-! ### The return stack (R14, R118, R120) -/

/-- %tls of lane l of a group (R15): 0 where TLSLANE is 0. -/
def State.tlsOf (s : State) (g : Group) (l : Nat) : Nat :=
  match s.blockOf g with
  | none => 0
  | some b => match s.launchOf b with
    | none => 0
    | some la => if la.record.tlslane = 0 then 0 else b.tls + la.record.tlslane * (32 * g.num + l)

/-- TLSLANE of a group's launch. -/
def State.tlsLane (s : State) (g : Group) : Nat := match s.launchOfG g with | some la => la.record.tlslane | none => 0

/-- What a spill or reload at one lane can do (R14, R120): go through, wait for migration, fail as F_RETSTACK with an underlying code, meet another
precise fault at an address, or fail after issue (code, address, detail). -/
inductive Spill where
  | ok (entry : DWord)
  | wait
  | fail (code : Nat)
  | fault (code addr : Nat)
  | late (code addr detail : Nat)
  deriving DecidableEq, Repr

/-- The codes that count as an access that cannot be performed (R120). -/
def stackCode (code : Nat) : Bool := code = 0x10 || code = 0x11 || code = 0x35

/-- The stack access of R120 at an address: an ordinary 8-byte access at lane scope. `st` is the entry to store, none for a reload. -/
def State.stackAccess (s : State) (w : Who) (va : Nat) (st : Option DWord) : Spill × State :=
  let k : AccKind := if st.isSome then .store else .load
  let s1 := s.refill w [BitVec.ofNat 64 va]
  match s1.accFault w k (BitVec.ofNat 64 va) 8 false with
  | some (code, _, _) => (if stackCode code then .fail code else .fault code va, s1)
  | none =>
    let y : AccOp := { kind := k, va := va, n := 8 }
    let s2 := if s1.mustFollow w.gid s1.order y then s1.bindPieces w s1.order else s1
    if s2.pageFaulted w.asid va || s2.mustFollow w.gid s2.order y || s2.pageLogged w s2.order y then (.wait, s2)
    else
      match (match st with | some x => s2.storeNow w va (toBytes 8 x.toNat) false | none => s2.loadNow w va 8 false 0) with
      | (.ok bs, s3) => (.ok (BitVec.ofNat 64 (ofBytes bs)), s3)
      | (.wait, s3) => (.wait, s3)
      | (.fail code d, s3) => (if stackCode code then .fail code else .late code va d, s3)

/-- A push of P + 4 for one lane (R14, R118): the spill's outcome and the state. A helper lane's spill stores nothing (R13, R160). -/
def State.pushLane (s : State) (w : Who) (g : Group) (l : Nat) : Spill × State :=
  if (g.stackOf l).length < 8 then (.ok 0#64, s)
  else
    let d := g.spillOf l
    if d + 1 > 65535 ∨ 8 * d + 8 > s.tlsLane g then (.fail 0, s)
    else if g.helper.getLsbD l then (.ok 0#64, s)
    else s.stackAccess w (s.tlsOf g l + 8 * d) (g.stackOf l).head?

/-- What a return of one lane finds (R14, R118): the entry on its stack, or the spilled one. -/
def State.popLane (s : State) (w : Who) (g : Group) (l : Nat) : Spill × State :=
  match (g.stackOf l).getLast? with
  | some x => (.ok x, s)
  | none => if g.spillOf l = 0 then (.fail 0, s) else s.stackAccess w (s.tlsOf g l + 8 * (g.spillOf l - 1)) none

/-- What the stack accesses of some lanes came to: the entries, whether one waits, the lanes that failed after issue. -/
structure Tried where
  s : State
  vals : SMap DWord := []
  waits : Bool := false
  late : List (Nat × Nat × Nat × Nat) := []
  deriving DecidableEq, Repr

/-- One lane's stack access among those of an instruction. -/
def Tried.lane (op : State → Nat → Spill × State) (t : Tried) (l : Nat) : Tried :=
  match op t.s l with
  | (.ok x, s) => { t with s := s, vals := put t.vals l x }
  | (.wait, s) => { t with s := s, waits := true }
  | (.fail c, s) => { t with s := s, late := t.late ++ [(l, c, 0, 0)] }
  | (.fault c a, s) => { t with s := s, late := t.late ++ [(l, c, a, 0)] }
  | (.late c a d, s) => { t with s := s, late := t.late ++ [(l, c, a, d)] }

/-- The precise fault of one lane's stack access (R14, R120). -/
def Spill.precise (o : Spill) : Option (Nat × DWord × DWord) :=
  match o with
  | .fail c => some (0x07, 0#64, BitVec.ofNat 64 c)
  | .fault c a => some (c, BitVec.ofNat 64 a, 0#64)
  | _ => none

/-- A call or return whose accesses wait has not issued: it is long-latency for its lanes and tries again (R120). -/
def Issue.spillWaits (it : Issue) (s : State) : State :=
  s.updG it.gid fun g => { g with transient := it.g.transient, spilling := if g.spilling.contains it.pc then g.spilling else it.pc :: g.spilling }

/-- The end of a call or return (R118): `f` changes the group for each lane that went through; lanes whose access failed after issue stay at P,
and the group halts (R158). -/
def Issue.spillDone (it : Issue) (w : Who) (t : Tried) (f : Group → Nat → DWord → Group) : State :=
  let bad : Word := t.late.foldl (fun m e => m ||| laneBit e.1) 0#32
  let s1 := t.s.updG it.gid fun g =>
    (lanesOf (it.E &&& ~~~bad)).foldl (fun g l => f g l (getD t.vals l 0#64)) ({ g with spilling := g.spilling.erase it.pc }.setPc (it.I &&& ~~~it.E) it.nextPc)
  match t.late with
  | [] => s1.unparkResults it.gid
  | (_, c, a, d) :: _ => (s1.unparkResults it.gid).lateFault w c bad it.pc (BitVec.ofNat 64 a) (BitVec.ofNat 64 d)

/-- The stack accesses of a call or return: precise faults first (R100), then every lane's access, then the effect. `mem` says which lanes access
memory. -/
def Issue.stackRun (it : Issue) (s0 s : State) (whole : Bool) (mem : Nat → Bool) (op : State → Who → Group → Nat → Spill × State)
    (f : Issue → Group → Nat → DWord → Group) : State :=
  if it.mustWait false && (lanesOf it.E).any mem then it.waitTurn s0
  else
    let w := s.who it
    it.guarded s0 s (fun l => (op s w it.g l).1.precise) (fun it s =>
      let t := (lanesOf it.E).foldl (Tried.lane fun s l => op s w it.g l) { s := s }
      if t.waits then it.spillWaits t.s else it.spillDone w t (f it)) whole

/-- A call of the lanes of E to per-lane targets (R118): every push first, then the branches; a lane whose spill waits delays it. -/
def callTo (s0 : State) (it : Issue) (whole : Bool) (target : Nat → DWord) (s : State) : State :=
  it.stackRun s0 s whole (fun l => decide ((it.g.stackOf l).length ≥ 8)) State.pushLane fun it g l _ =>
    let g1 := if (g.stackOf l).length ≥ 8 then ((g.setSpill l (g.spillOf l + 1)).setStack l ((g.stackOf l).drop 1)).sticky stRspill else g
    (g1.setStack l (g1.stackOf l ++ [it.nextPc])).setPc (laneBit l) (target l)

/-- A return of the lanes of E (R118). A reloaded entry is a PC: its bits [63:56] and [1:0], which a PC does not have (R13), are dropped (DESIGN
CHOICE, log entry 119). -/
def retFrom (s0 : State) (it : Issue) (whole : Bool) (s : State) : State :=
  it.stackRun s0 s whole (fun l => (it.g.stackOf l).isEmpty && it.g.spillOf l != 0) State.popLane fun _ g l x =>
    (match g.stackOf l with
      | [] => g.setSpill l (g.spillOf l - 1)
      | st => g.setStack l st.dropLast).setPc (laneBit l) (asPc x)

/-! ### Branches (R117-R119, R206-R208) -/

/-- `bra` (R117). -/
def execBra (f : BForm) (s : State) : Out :=
  laneIssue s (.bra f) f.sw f.g 4 {} true fun it s =>
    s.updG it.gid fun g => (g.setPc it.I it.nextPc).setPc it.E (branchTarget it.pc 20 f.o)

/-- `call` (R118). -/
def execCall (f : BForm) (s : State) : Out :=
  laneIssue s (.call f) f.sw f.g 4 {} true fun it s1 => callTo s it false (fun _ => branchTarget it.pc 20 f.o) s1

/-- `ret` (R118). -/
def execRet (f : NForm) (s : State) : Out :=
  laneIssue s (.ret f) f.sw f.g 4 {} true fun it s1 => retFrom s it false s1

/-- The fault of a register-indirect target (R119): code, ADDR, detail. -/
def targetFault (x : DWord) : Option (Nat × DWord × DWord) :=
  if bits x.toNat 1 0 ≠ 0 then some (0x12, x, 0#64) else if bits x.toNat 63 56 ≠ 0 then some (0x10, x, 0#64) else none

/-- A register-indirect jump (R119). -/
def jumpTo (s0 : State) (it : Issue) (target : Nat → DWord) (s : State) : State :=
  it.guarded s0 s (fun l => targetFault (target l)) fun it s =>
    s.updG it.gid fun g => (lanesOf it.E).foldl (fun g l => g.setPc (laneBit l) (target l)) (g.setPc it.I it.nextPc)

/-- `jmpr` with a vector pair (R119). -/
def execJmprVector (f : AForm) (s : State) : Out :=
  laneIssue s (.jmprVector f) f.sw f.g 4 { v := [f.a, f.a + 1] } true fun it s1 => jumpTo s it (fun l => it.g.readV64 l f.a) s1
/-- `jmpr` with a uniform pair (R119). -/
def execJmprUniform (f : OpBForm) (s : State) : Out :=
  laneIssue s (.jmprUniform f) f.sw f.g 4 { s := [f.b, f.b + 1] } true fun it s1 => jumpTo s it (fun _ => it.g.sreg64 f.b) s1
/-- `callr` with a vector pair (R118, R119). -/
def execCallrVector (f : AForm) (s : State) : Out :=
  laneIssue s (.callrVector f) f.sw f.g 4 { v := [f.a, f.a + 1] } true fun it s1 =>
    it.guarded s s1 (fun l => targetFault (it.g.readV64 l f.a)) fun it' s2 => callTo s it' false (fun l => it.g.readV64 l f.a) s2
/-- `callr` with a uniform pair (R118, R119). -/
def execCallrUniform (f : OpBForm) (s : State) : Out :=
  laneIssue s (.callrUniform f) f.sw f.g 4 { s := [f.b, f.b + 1] } true fun it s1 =>
    it.guarded s s1 (fun _ => targetFault (it.g.sreg64 f.b)) fun it' s2 => callTo s it' false (fun _ => it.g.sreg64 f.b) s2

/-- `sbra` (R206), for a group and for a mast core (R203). -/
def execSbra (f : BForm) (s : State) : Out :=
  uniIssue s (.sbra f) f.sw f.g 4 {} true
    (fun it s => s.updG it.gid fun g => g.setPc it.I (branchTarget it.pc 20 f.o))
    fun c _ s => .next (s.updM c fun m => { m with pc := branchSum m.pc 20 f.o })

/-- `scall` (R207; on a mast core R208). -/
def execScall (f : BForm) (s : State) : Out :=
  uniIssue s (.scall f) f.sw f.g 4 {} true
    (fun it s1 => callTo s it true (fun _ => branchTarget it.pc 20 f.o) s1)
    fun c m s => .next (
      if m.stack.length ≥ 16 then s.mastFault c 0x07 0#64 0#64
      else s.updM c fun m => { m with stack := m.stack ++ [m.pc + 4#64], pc := branchSum m.pc 20 f.o })

/-- `sret` (R207; on a mast core R208). -/
def execSret (f : NForm) (s : State) : Out :=
  uniIssue s (.sret f) f.sw f.g 4 {} true
    (fun it s1 => retFrom s it true s1)
    fun c m s => .next (
      match m.stack.getLast? with
      | none => s.mastFault c 0x07 0#64 0#64
      | some x => s.updM c fun m => { m with stack := m.stack.dropLast, pc := x })

/-! ### Group-wide operations (R130-R136) -/

/-- A group-wide operation (R130, R131): members arrive and are held; it completes once every non-exited member is held. -/
def groupOp (i : Instr) (sw : Fin 2) (gd : Fin 8) (mreg : Nat) (mall : Fin 2) (u : Uses) (s : State) : Out :=
  laneIssue s i sw gd 8 u true fun it s1 =>
    let M := it.g.members mreg mall
    let bad (l : Nat) : Option (Nat × DWord × DWord) :=
      if (it.E.getLsbD l && !M.getLsbD l) || it.g.otherMask it.pc M then some (0x06, 0#64, 0#64) else none
    ({ it with E := it.E ||| (it.I &&& M) } : Issue).guarded s s1 bad fun it' s2 =>
      s2.updG it.gid fun g =>
        let arr := it'.I &&& M
        let g1 := (lanesOf arr).foldl (fun (g : Group) l => g.setHold (laneBit l) (.member M (it.E.getLsbD l) i (it'.g.operandsOf i l))) g
        (g1.setPc (it'.I &&& ~~~M) it.nextPc).completeMember it.pc M 8 (groupResult i)

/-- Registers of a G form without b. -/
def gUses (d a mreg : Nat) (mall : Fin 2) : Uses := if mall.val = 1 then { v := [d, a] } else { v := [d, a], s := [mreg] }

/-- `shfl` (R132). -/
def execShfl (f : ShflForm) (s : State) : Out :=
  let wide := decide (f.op.val ≥ 4)
  let vs := if wide then [f.d.val, f.d.val + 1, f.a.val, f.a.val + 1] else [f.d.val, f.a.val]
  let ms := if f.mall.val = 1 then [] else [f.mreg.val]
  groupOp (.shfl f) f.sw f.g f.mreg f.mall
    (if f.e.val = 1 then { v := vs, s := f.b.val :: ms } else { v := vs ++ [f.b.val], s := ms }) s
/-- `vote` (R133). -/
def execVote (f : GForm) (s : State) : Out := groupOp (.vote f) f.sw f.g f.mreg f.mall (gUses f.d f.a f.mreg f.mall) s
/-- `redi` (R134). -/
def execRedi (f : GForm) (s : State) : Out := groupOp (.redi f) f.sw f.g f.mreg f.mall (gUses f.d f.a f.mreg f.mall) s
/-- `redf` (R135). -/
def execRedf (f : GForm) (s : State) : Out := groupOp (.redf f) f.sw f.g f.mreg f.mall (gUses f.d f.a f.mreg f.mall) s
/-- `scani` (R136). -/
def execScani (f : GForm) (s : State) : Out := groupOp (.scani f) f.sw f.g f.mreg f.mall (gUses f.d f.a f.mreg f.mall) s

/-! ### Divergence and rejoin (R123, R124) -/

/-- `join` (R123). -/
def execJoin (f : JForm) (s : State) : Out :=
  laneIssue s (.join f) f.sw f.g 4 {} true fun it s1 =>
    it.guarded s s1 (fun _ => if (it.g.rejoin f.j).mask ≠ 0#32 then some (0x05, 0#64, 0#64) else none) fun it s2 =>
      it.done s2 fun g =>
        match (lanesOf it.E).head? with
        | none => g
        | some low =>
          let g1 := g.setRejoin f.j { mask := it.E, addr := g.meetOf low }
          (lanesOf it.E).foldl (fun g l => g.setMeet l (branchTarget it.pc 16 f.o)) g1

/-- `wait` (R124). -/
def execWaitI (f : WForm) (s : State) : Out :=
  laneIssue s (.waitI f) f.sw f.g 4 {} true fun it s =>
    s.updG it.gid fun g =>
      let h := it.E &&& (g.rejoin f.j).mask
      ((g.setPc (it.I &&& ~~~h) it.nextPc).setHold h (.wait f.j)).release

/-! ### Predicates and special registers (R126-R129, R209, R210) -/

/-- `plog` (R126). -/
def execPlog (f : PlogForm) (s : State) : Out :=
  laneIssue s (.plog f) f.sw f.g 4 {} true fun it s =>
    it.done s fun g => g.setPreds f.p it.E (maskOf fun l =>
      plogOp f.c ((it.g.preds f.x).getLsbD l != (f.nx.val == 1)) ((it.g.preds f.y).getLsbD l != (f.ny.val == 1)))

/-- `pmov.get` (R127). -/
def execPmovGet (f : DForm) (s : State) : Out :=
  vectorOp s (.pmovGet f) f.sw f.g 4 { v := [f.d] } true (0 : Fin 2) f.d fun g l =>
    (List.range 8).foldl (fun x n => if (g.preds n).getLsbD l then x ||| laneBit n else x) 0#32

/-- `pmov.set` (R127). -/
def execPmovSet (f : AForm) (s : State) : Out :=
  laneIssue s (.pmovSet f) f.sw f.g 4 { v := [f.a] } true fun it s =>
    it.done s fun g => (List.range 7).foldl (fun g n => g.setPreds n it.E (maskOf fun l => (it.g.readV l f.a).getLsbD n)) g

/-- The sticky bits of %gstat that read-and-clear clears (R22). -/
def stickyMask : Word := 0xFD#32

/-- The status word as it is read (R22): the sticky bits and VAR. -/
def State.gstatOf (s : State) (g : Group) : Nat := match s.blockOf g with | some b => (g.gstat.toNat + b.variant * 256) % 2 ^ 32 | none => g.gstat.toNat

/-- A special register of lane l (R21). -/
def State.special (s : State) (g : Group) (sel l : Nat) : DWord :=
  let b := s.blockOf g
  match sel with
  | 0 => BitVec.ofNat 64 l
  | 1 => BitVec.ofNat 64 (l / 4)
  | 2 => BitVec.ofNat 64 g.num
  | 3 => BitVec.ofNat 64 (match b with | some b => b.blk | none => 0)
  | 4 => BitVec.ofNat 64 (match b with | some b => b.gang | none => 0)
  | 5 => (match s.launchOfG g with | some la => la.lid | none => 0#32).setWidth 64
  | 6 => BitVec.ofNat 64 (s.device % 2 ^ 13)
  | 7 => BitVec.ofNat 64 (s.gstatOf g)
  | 8 => BitVec.ofNat 64 s.clk
  | _ => BitVec.ofNat 64 (s.tlsOf g l)

/-- `srd` (R128). -/
def execSrd (f : SrdForm) (s : State) : Out :=
  let wide := decide (f.sel.val ≥ 8)
  laneIssue s (.srd f) f.sw f.g 4 { v := if wide then [f.d, f.d + 1] else [f.d] } true fun it s1 =>
    let s2 := if f.rc.val = 1 ∧ it.E ≠ 0#32 then s1.updG it.gid fun g => { g with gstat := g.gstat &&& ~~~stickyMask } else s1
    it.done s2 fun g =>
      let g1 := g.put it.E (0 : Fin 2) f.d fun l => (s.special it.g f.sel l).setWidth 32
      if wide then g1.put it.E (0 : Fin 2) (f.d + 1) fun l => ((s.special it.g f.sel l) >>> 32).setWidth 32 else g1

/-- `nop` (R129). -/
def execNop (f : NForm) (s : State) : Out := laneIssue s (.nop f) f.sw f.g 4 {} true fun it s => it.done s id

/-! ### Quad exchange (R137, R138) -/

/-- `qswp` (R137). -/
def execQswp (f : QswpForm) (s : State) : Out :=
  vectorOp s (.qswp f) f.sw f.g 4 { v := [f.d, f.a] } true (0 : Fin 2) f.d fun g l => g.readV (l ^^^ f.k.val) f.a
/-- `qbcast` (R137). -/
def execQbcast (f : QbcForm) (s : State) : Out :=
  vectorOp s (.qbcast f) f.sw f.g 4 { v := [f.d, f.a] } true (0 : Fin 2) f.d fun g l => g.readV (4 * (l / 4) + f.n) f.a

/-- The lowest lane of E in the quad of lane m. -/
def quadLow (E : Word) (m : Nat) : Option Nat := ((List.range 4).map (4 * (m / 4) + ·)).find? fun l => E.getLsbD l

/-- `qfill` (R138): exited lanes of a quad that holds a lane of E become helpers. -/
def execQfill (f : DaForm) (s : State) : Out :=
  laneIssue s (.qfill f) f.sw f.g 4 { v := [f.d, f.a] } true fun it s =>
    s.updG it.gid fun g =>
      let revived := maskOf fun m => it.g.exited.getLsbD m && (quadLow it.E m).isSome
      let g0 := g.setPc it.I it.nextPc
      let g1 := (lanesOf revived).foldl (fun g m =>
        match quadLow it.E m with
        | none => g
        | some h =>
          let g := (((g.setPc (laneBit m) it.nextPc).setMeet m (it.g.meetOf h)).setStack m (it.g.stackOf h)).setSpill m 0
          let g := (List.range 16).foldl (fun g n =>
            if (it.g.rejoin n).mask.getLsbD h then g.setRejoin n { g.rejoin n with mask := (g.rejoin n).mask ||| laneBit m } else g) g
          g.setV m f.d (it.g.readV h f.a)) g0
      let g2 := { g1 with exited := g1.exited &&& ~~~revived, helper := g1.helper ||| revived }
      g2.put it.E (0 : Fin 2) f.d fun l => it.g.readV l f.a

end Sys2Proof.Machine
end

