-- ==== Sys2Proof/Machine/Uniform.lean ====
section
/-!
DEFINITION. Uniform arithmetic, compare, predicate logic and reads of group state (R204, R205, R209, R210), for groups and mast cores.
-/
namespace Sys2Proof.Machine
open Sys2Proof

/-- The registers a UR form names: pairs where W = 1 (R204). -/
def urUses (f : UrForm) : Uses :=
  let n := f.w.val + 1
  { s := regRun f.d n ++ regRun f.a n ++ (if f.i.val = 1 then [] else regRun f.b n) }

/-- The new values of the destination of a UR operation (R204): `rd` reads registers; op32 and op64 take x, y, d. -/
def urResult (f : UrForm) (rd : Nat → Word) (op32 : Word → Word → Word → Word) (op64 : DWord → DWord → DWord → DWord) : List Word :=
  if f.w.val = 1 then
    let p (r : Nat) : DWord := pair (rd r) (rd (r + 1))
    let z := op64 (p f.a) (if f.i.val = 1 then BitVec.ofNat 64 f.b else p f.b) (p f.d)
    [z.setWidth 32, (z >>> 32).setWidth 32]
  else [op32 (rd f.a) (if f.i.val = 1 then BitVec.ofNat 32 f.b else rd f.b) (rd f.d)]

/-- Writes consecutive uniform registers of a group. -/
def Group.setRun (g : Group) (r : Nat) (ws : List Word) : Group := (List.range ws.length).foldl (fun g i => g.setS (r + i) (ws.getD i 0#32)) g
/-- Writes consecutive registers of a mast core. -/
def Mast.setRun (m : Mast) (r : Nat) (ws : List Word) : Mast := (List.range ws.length).foldl (fun m i => m.setS (r + i) (ws.getD i 0#32)) m

/-- A UR-form arithmetic instruction (R204), the same on a mast core (R203). -/
def ualu (i : Instr) (f : UrForm) (s : State) (op32 : Word → Word → Word → Word) (op64 : DWord → DWord → DWord → DWord) : Out :=
  uniIssue s i f.sw f.g 4 (urUses f) true
    (fun it s => it.done s fun g => g.setRun f.d (urResult f it.g.sreg op32 op64))
    fun c m s => .next (s.mastNext c 4 fun m' => m'.setRun f.d (urResult f m.sreg op32 op64))

/-- `sadd` (R204). -/
def execSadd (f : UrForm) (s : State) : Out := ualu (.sadd f) f s (fun x y _ => x + y) fun x y _ => x + y
/-- `ssub` (R204). -/
def execSsub (f : UrForm) (s : State) : Out := ualu (.ssub f) f s (fun x y _ => x - y) fun x y _ => x - y
/-- `smul` (R204). -/
def execSmul (f : UrForm) (s : State) : Out := ualu (.smul f) f s (fun x y _ => x * y) fun x y _ => x * y
/-- `smad` (R204). -/
def execSmad (f : UrForm) (s : State) : Out := ualu (.smad f) f s (fun x y d => x * y + d) fun x y d => x * y + d
/-- `smin` (R204). -/
def execSmin (f : UrForm) (s : State) : Out := ualu (.smin f) f s (fun x y _ => sminBv x y) fun x y _ => sminBv x y
/-- `smax` (R204). -/
def execSmax (f : UrForm) (s : State) : Out := ualu (.smax f) f s (fun x y _ => smaxBv x y) fun x y _ => smaxBv x y
/-- `sand` (R204). -/
def execSand (f : UrForm) (s : State) : Out := ualu (.sand f) f s (fun x y _ => x &&& y) fun x y _ => x &&& y
/-- `sor` (R204). -/
def execSor (f : UrForm) (s : State) : Out := ualu (.sor f) f s (fun x y _ => x ||| y) fun x y _ => x ||| y
/-- `sxor` (R204). -/
def execSxor (f : UrForm) (s : State) : Out := ualu (.sxor f) f s (fun x y _ => x ^^^ y) fun x y _ => x ^^^ y
/-- `sshl` (R204). -/
def execSshl (f : UrForm) (s : State) : Out := ualu (.sshl f) f s (fun x y _ => shlAll x y.toNat) fun x y _ => shlAll x y.toNat
/-- `sshr` (R204). -/
def execSshr (f : UrForm) (s : State) : Out := ualu (.sshr f) f s (fun x y _ => shrAll x y.toNat) fun x y _ => shrAll x y.toNat
/-- `ssra` (R204). -/
def execSsra (f : UrForm) (s : State) : Out := ualu (.ssra f) f s (fun x y _ => sraAll x y.toNat) fun x y _ => sraAll x y.toNat

/-- The comparison of `scmp` (R205). -/
def scmpVal (f : UpForm) (rd : Nat → Word) : Bool :=
  if f.w.val = 1 then
    let p (r : Nat) : DWord := pair (rd r) (rd (r + 1))
    icond f.c (p f.a) (if f.i.val = 1 then BitVec.ofNat 64 f.b else p f.b)
  else icond f.c (rd f.a) (if f.i.val = 1 then BitVec.ofNat 32 f.b else rd f.b)

/-- `scmp` (R205). -/
def execScmp (f : UpForm) (s : State) : Out :=
  let n := f.w.val + 1
  uniIssue s (.scmp f) f.sw f.g 4 { s := regRun f.a n ++ (if f.i.val = 1 then [] else regRun f.b n) } true
    (fun it s => it.done s fun g => { g with k := setPredOf g.k f.p (scmpVal f it.g.sreg) })
    fun c m s => .next (s.mastNext c 4 fun m' => { m' with k := setPredOf m'.k f.p (scmpVal f m.sreg) })

/-- The words `smovl` writes (R205). -/
def smovlWords (f : UlForm) : List Word :=
  let z : DWord := (BitVec.ofNat 32 f.lit).signExtend 64
  if f.w.val = 1 then [z.setWidth 32, (z >>> 32).setWidth 32] else [BitVec.ofNat 32 f.lit]

/-- `smovl` (R205). -/
def execSmovl (f : UlForm) (s : State) : Out :=
  uniIssue s (.smovl f) f.sw f.g 8 { s := regRun f.d (f.w.val + 1) } true
    (fun it s => it.done s fun g => g.setRun f.d (smovlWords f))
    fun c _ s => .next (s.mastNext c 8 fun m => m.setRun f.d (smovlWords f))

/-- The value of `klog` (R205). -/
def klogVal (f : PlogForm) (k : Word) : Bool := plogOp f.c (predOf k f.x != (f.nx.val == 1)) (predOf k f.y != (f.ny.val == 1))

/-- `klog` (R205). -/
def execKlog (f : PlogForm) (s : State) : Out :=
  uniIssue s (.klog f) f.sw f.g 4 {} true
    (fun it s => it.done s fun g => { g with k := setPredOf g.k f.p (klogVal f it.g.k) })
    fun c m s => .next (s.mastNext c 4 fun m' => { m' with k := setPredOf m'.k f.p (klogVal f m.k) })

/-- `ssr` (R209); on a mast core only %dev and %clk (R203). -/
def execSsr (f : SsrForm) (s : State) : Out :=
  let words (x : DWord) : List Word := if f.w.val = 1 then [x.setWidth 32, (x >>> 32).setWidth 32] else [x.setWidth 32]
  uniIssue s (.ssr f) f.sw f.g 4 { s := regRun f.d (f.w.val + 1) } true
    (fun it s1 =>
      let s2 := if f.rc.val = 1 then s1.updG it.gid fun g => { g with gstat := g.gstat &&& ~~~stickyMask } else s1
      it.done s2 fun g => g.setRun f.d (words (s.special it.g f.sel 0)))
    (fun c _ s => .next (
      if f.sel.val = 6 then s.mastNext c 4 fun m => m.setRun f.d (words (BitVec.ofNat 64 (s.device % 2 ^ 13)))
      else s.mastNext c 4 fun m => m.setRun f.d (words (BitVec.ofNat 64 s.clk)))) (f.sel.val = 6 || f.sel.val = 8)

/-- The word of group state that `sget` reads (R210). -/
def State.groupWord (s : State) (g : Group) (I : Word) (sel : Nat) : Word :=
  if sel ≤ 6 then g.preds sel &&& g.live
  else if sel = 7 then I
  else if sel = 8 then g.live
  else if sel = 9 then g.helper
  else if sel = 0x0A then
    let v := s.variantOf g
    BitVec.ofNat 32 (v.vregs + 256 * v.tiles + 65536 * v.accs)
  else (g.rejoin (sel - 16)).mask

/-- `sget` (R210); a mast core has no group state (R203). -/
def execSget (f : SgetForm) (s : State) : Out :=
  uniIssue s (.sget f) f.sw f.g 4 { s := [f.d] } true
    (fun it s1 => it.done s1 fun g => g.setS f.d (s.groupWord it.g it.I f.i))
    (fun c _ s => .next (s.mastFault c 0x02 0#64 0#64)) false

/-- `snop` (R229). -/
def execSnop (f : NForm) (s : State) : Out :=
  uniIssue s (.snop f) f.sw f.g 4 {} true (fun it s => it.done s id) fun c _ s => .next (s.mastNext c 4 id)

end Sys2Proof.Machine
end

