-- ==== Sys2Proof/Machine/Engine.lean ====
section
/-!
DEFINITION. Engine contexts and the issue of engine commands (R211-R223, R225), queue registers (R226-R228). What the engines then do
piece by piece is in EngineRun.lean.
-/
namespace Sys2Proof.Machine
open Sys2Proof

/-! ### Contexts (R20, R211, R213) -/

/-- The owner key of a mast core's contexts; a launch's contexts are owned by its key. -/
def mastOwner (c : Nat) : Nat := 2 ^ 40 + c

/-- A context of an owner. A mast core has KIND 0-2, INDEX 0-15 (R213). -/
def State.ctx (s : State) (own n : Nat) : Option Ctx :=
  if own ≥ 2 ^ 40 then
    if n / 4096 ≤ 2 ∧ n % 4096 < 16 then some (getD (s.mast (own - 2 ^ 40)).ctxs n { ring := 0, rlog := 0 }) else none
  else (find s.launches own).bind fun l => find l.ctxs n

/-- Changes a context of an owner. -/
def State.updCtx (s : State) (own n : Nat) (f : Ctx → Ctx) : State :=
  if own ≥ 2 ^ 40 then s.updM (own - 2 ^ 40) fun m => { m with ctxs := put m.ctxs n (f (getD m.ctxs n { ring := 0, rlog := 0 })) }
  else s.updL own fun l => { l with ctxs := upd l.ctxs n f }

/-- A guard slot of a block (R18): 0 unresolved, 1 true, 2 false. -/
def State.guardOf (s : State) (bid slot : Nat) : Nat := match find s.blocks bid with | some b => getD b.guards slot 0 | none => 2

/-- A command samples its guard slot (R172, R214): true lets it run, false discards it. -/
def State.sampleCmd (s : State) (c : Cmd) : Cmd :=
  match c.guard with
  | none => c
  | some (bid, slot) => match s.guardOf bid slot with
    | 1 => { c with guard := none }
    | 2 => { c with guard := none, discarded := true }
    | _ => c

/-- The command at a queue's head samples its guard. -/
def State.sampleHead (s : State) (own n : Nat) : State :=
  s.updCtx own n fun x =>
    { x with cmds := match x.cmds with | [] => [] | c :: r => s.sampleCmd c :: r
             items := match x.items with
               | [] => []
               | i :: r => (match i.guard with
                 | some (bid, slot) => if s.guardOf bid slot = 1 then { i with guard := none } else if s.guardOf bid slot = 2 then { i with guard := none, discarded := true } else i
                 | none => i) :: r }

/-! ### Issue checks (R212, R218) -/

/-- What a check at issue finds: code, ADDR, detail of the fault. -/
abbrev Check := Option (Nat × DWord × DWord)

/-- The first fault of a list of checks. -/
def firstFault (l : List Check) : Check := l.findSome? id

/-- A check that fails with a code. -/
def checkThat (ok : Bool) (code : Nat) (addr : DWord) : Check := if ok then none else some (code, addr, 0#64)

/-- The context number that a UE form names (R212). -/
def ctxNumber (f : UeForm) (kind : Nat) (rd : Nat → Word) : Nat := if f.i.val = 1 then kind * 4096 + f.b else (rd f.b).toNat

/-- A scratchpad range of an engine command, against the issuing block (R218). -/
def State.spRange (s : State) (g : Group) (a : Word) (n : Nat) : Check :=
  if n = 0 then none
  else match s.blockOf g with
    | none => some (0x13, a.setWidth 64, 0#64)
    | some b => match s.spPlace b (bit a.toNat 31) a n with
      | .error c => some (c, a.setWidth 64, 0#64)
      | .ok _ => none

/-- The BAR address of a command with NOTIFY (R165, R218). -/
def State.barCheck (s : State) (g : Group) (ntf : Fin 2) (a : Word) : Check :=
  if ntf.val = 0 then none else s.objFault g a

/-- The first byte of a memory range (R157, R218): `sealed` is the code of a sealed page met as a source. A sealed RECV of `coll` is a collective
buffer and a sealed destination at once: which of its two codes counts the spec leaves open; the model gives F_ADDR_PERM here, and
F_SEALED_COLLECTIVE where the engine meets the page later (DESIGN CHOICE, log entry 122). -/
def State.memRange (s : State) (w : Who) (k : AccKind) (addr : DWord) (n : Nat) (sealed_ : Nat) : Check :=
  if n = 0 then none
  else (s.accFault w k addr 1 false).map fun x => (if x.1 = 0x31 then sealed_ else x.1, x.2)

/-- A mast core's memory range: its own map (R213, R323); SRAM ranges are checked by place. -/
def State.mastRange (s : State) (c : Nat) (store : Bool) (addr : DWord) (n : Nat) : Check :=
  if n = 0 then none
  else match s.mastPlace c addr.toNat 1 (if store then 1 else 0) with
    | .fault code a => some (if code = 0x30 then 0x31 else code, BitVec.ofNat 64 a, 0#64)
    | _ => none

/-- Where a scratchpad address of a mast core lies (R325): cluster key of its first byte, or the fault code. -/
def State.mastSp (s : State) (c : Nat) (a : Word) (n : Nat) : Except Nat Nat :=
  if bits a.toNat 30 19 ≠ 0 then .error 0x02
  else
    let off := bits a.toNat 18 0
    let k := s.cluster c
    if !bit a.toNat 31 then
      if getD k.bankWorld (off / 16384) 0 ≠ 0 then .error 0x35
      else if off + n > 2 ^ 19 then .error 0x13 else .ok off
    else
      match s.groups.find? fun e => e.2.cluster = c && e.2.phase != .retired && e.2.sp = bits k.mast.mgrp.toNat 1 0 && e.2.slot = bits k.mast.mgrp.toNat 6 2 with
      | none => .error 0x02
      | some e => match s.blockOf e.2 with
        | none => .error 0x02
        | some b => if off + n > s.scratchOf b then .error 0x13
          else if s.worldOf e.2 ≠ 0 then .error 0x35
          else .ok (b.spKey off)

/-- A mast core's scratchpad range of an engine command. -/
def State.mastSpRange (s : State) (c : Nat) (a : Word) (n : Nat) : Check :=
  if n = 0 then none else match s.mastSp c a n with | .error code => some (code, a.setWidth 64, 0#64) | .ok _ => none

/-- The registers a UE form names in a group: the run, the context register, the destination (R212). -/
def ueUses (f : UeForm) (run : Nat) : Uses :=
  { s := regRun f.a run ++ (if f.i.val = 1 then [] else [f.b.val]) ++ regRun f.d (f.w.val + 1) }

/-- The number as the words of d (R212). -/
def numWords (f : UeForm) (n : Nat) : List Word :=
  if f.w.val = 1 then [BitVec.ofNat 32 n, BitVec.ofNat 32 (n / 2 ^ 32)] else [BitVec.ofNat 32 n]

/-- A command as it is queued. -/
def mkCmd (f : UeForm) (op num : Nat) (regs : List Word) (gid bid : Nat) (pc : DWord) (asid : Nat) : Cmd :=
  { op := op, num := num, count := 1, regs := regs, opts := f.opts, imm := f.imm, ntf := f.ntf.val = 1
    guard := if f.gv.val = 1 then some (bid, f.gslot) else none, gid := gid, bid := bid, pc := pc, asid := asid }

/-- The launch key of a group. -/
def State.lidOf (s : State) (g : Group) : Nat := match s.blockOf g with | some b => b.lid | none => 0

/-- The acquire loads of a group as its engine commands follow them (R149, R258): what the group holds from before the last one is published;
`true` while such a load, or an access before the last one, still waits. -/
def State.afterAcquires (s : State) (gid : Nat) (g : Group) : Bool × State :=
  if s.acquireWaits gid || !(s.waitingOf gid g.acqAt).isEmpty || (g.acqAt != 0 && g.sideCount != 0) then (true, s)
  else
    let early (h : Held) : Bool := h.by_ gid && decide (h.seq < g.acqAt)
    let s1 := (s.publishIf g.cluster fun _ h => early h).publishDev fun _ h => early h
    (((s1.cluster g.cluster).l1held.any fun e => early e.2) || s1.devHeld.any fun e => early e.2, s1)

/-- Issues an engine command of a group (R212, R214, R218): the checks in order, the wait for what it follows, then its number, the queue, d. -/
def State.command (s : State) (it : Issue) (f : UeForm) (op kind run : Nat) (checks : Who → List Word → List Check) : State :=
  let w := s.who it
  let regs := (regRun f.a run).map it.g.sreg
  let n := ctxNumber f kind it.g.sreg
  let own := s.lidOf it.g
  let unbound := checkThat (decide (n / 4096 = kind) && (s.ctx own n).isSome) 0x22 0#64
  match firstFault (unbound :: checks w regs) with
  | some (code, addr, detail) => s.raise it.gid code it.I it.pc addr detail
  | none =>
    match s.ctx own n, s.afterAcquires it.gid it.g with
    | none, _ => s
    | some _, (true, s1) => s1.stall it.gid .sideLog
    | some x, (false, s1) =>
      let num := x.taken + 1
      let s2 := (s1.updCtx own n fun x => { x with taken := num, cmds := x.cmds ++ [{ mkCmd f op num regs it.gid w.bid it.pc w.asid with lanes := it.I }] }).sampleHead own n
      it.done s2 fun g => g.setRun f.d (numWords f num)

/-- What a mast core's engine command adds to the checks of the form (R203, R212): GV 0, and a descriptor run within the register file. -/
def mastRunOk (f : UeForm) (run : Nat) : Bool := f.gv.val = 0 && f.a.val + run ≤ 64

/-- Issues an engine command of a mast core (R203, R213). -/
def State.mastCommand (s : State) (c : Nat) (m : Mast) (f : UeForm) (op kind run : Nat) (checks : List Word → List Check) : State :=
  let regs := (regRun f.a run).map m.sreg
  let n := ctxNumber f kind m.sreg
  let own := mastOwner c
  let unbound := checkThat (decide (n / 4096 = kind) && (s.ctx own n).isSome) 0x22 0#64
  match firstFault (unbound :: checks regs) with
  | some (code, addr, detail) => s.mastFault c code addr detail
  | none =>
    match s.ctx own n with
    | none => s
    | some x =>
      let num := x.taken + 1
      let s1 := s.updCtx own n fun x => { x with taken := num, cmds := x.cmds ++ [mkCmd f op num regs 0 0 m.pc 0] }
      s1.mastNext c 8 fun m => m.setRun f.d (numWords f num)

/-- Register i of a descriptor run. -/
def rg (regs : List Word) (i : Nat) : Word := regs.getD i 0#32
/-- Pair i, i + 1 of a descriptor run. -/
def rg64 (regs : List Word) (i : Nat) : DWord := pair (rg regs i) (rg regs (i + 1))

/-- The checks of `cpy` in a group (R218, R220). -/
def State.cpyChecks (s : State) (g : Group) (f : UeForm) (w : Who) (regs : List Word) : List Check :=
  let n := (rg regs 4).toNat
  let ssp := bit f.opts 0
  let dsp := bit f.opts 1
  [ if ssp then s.spRange g (rg regs 0) n else none
  , if dsp then s.spRange g (rg regs 2) n else none
  , s.barCheck g f.ntf (rg regs 5)
  , if ssp then none else s.memRange w .copy (rg64 regs 0) n 0x31
  , if dsp then none else s.memRange w .store (rg64 regs 2) n 0x11 ]

/-- The checks of `cpy` on a mast core (R213, R325). NOTIFY asks for a barrier object, of which a mast core has none: the spec gives no rule for it there;
the model raises F_RESERVED_FIELD, for `gath` and `scat` too (DESIGN CHOICE, log entry 123). -/
def State.cpyChecksMast (s : State) (c : Nat) (f : UeForm) (regs : List Word) : List Check :=
  let n := (rg regs 4).toNat
  let ssp := bit f.opts 0
  let dsp := bit f.opts 1
  [ if ssp then s.mastSpRange c (rg regs 0) n else none
  , if dsp then s.mastSpRange c (rg regs 2) n else none
  , checkThat (f.ntf.val = 0) 0x02 0#64
  , if ssp then none else s.mastRange c false (rg64 regs 0) n
  , if dsp then none else s.mastRange c true (rg64 regs 2) n ]

/-- `cpy` (R220). -/
def execCpy (f : UeForm) (s : State) : Out :=
  uniIssue s (.cpy f) f.sw f.g 8 (ueUses f 6) true
    (fun it s1 => s1.command it f 0x24 0 6 (s1.cpyChecks it.g f))
    (fun c m s => .next (s.mastCommand c m f 0x24 0 6 (s.cpyChecksMast c f))) (mastRunOk f 6)

/-- The checks of `gath` and `scat` in a group (R218, R221). -/
def State.gathChecks (s : State) (g : Group) (f : UeForm) (scat : Bool) (w : Who) (regs : List Word) : List Check :=
  let n := (rg regs 4).toNat
  let es := f.imm.val
  let bsp := bit f.opts 0
  let qf := bit f.opts 1
  [ if bsp then s.spRange g (rg regs 2) (n * es) else none
  , s.barCheck g f.ntf (rg regs 5)
  , s.memRange w (if scat then .store else .copy) (rg64 regs 0) n 0x31
  , if bsp then none else s.memRange w (if scat then .copy else .store) (rg64 regs 2) n 0x31
  , if qf then none else s.memRange w .copy (rg64 regs 6) n 0x31 ]

/-- The checks of `gath` and `scat` on a mast core. -/
def State.gathChecksMast (s : State) (c : Nat) (f : UeForm) (scat : Bool) (regs : List Word) : List Check :=
  let n := (rg regs 4).toNat
  let es := f.imm.val
  let bsp := bit f.opts 0
  let qf := bit f.opts 1
  [ if bsp then s.mastSpRange c (rg regs 2) (n * es) else none
  , checkThat (f.ntf.val = 0) 0x02 0#64
  , s.mastRange c scat (rg64 regs 0) n
  , if bsp then none else s.mastRange c (!scat) (rg64 regs 2) n
  , if qf then none else s.mastRange c false (rg64 regs 6) n ]

/-- `gath` (R221). -/
def execGath (f : UeForm) (s : State) : Out :=
  uniIssue s (.gath f) f.sw f.g 8 (ueUses f 8) true
    (fun it s1 => s1.command it f 0x25 1 8 (s1.gathChecks it.g f false))
    (fun c m s => .next (s.mastCommand c m f 0x25 1 8 (s.gathChecksMast c f false))) (mastRunOk f 8)
/-- `scat` (R221). -/
def execScat (f : UeForm) (s : State) : Out :=
  uniIssue s (.scat f) f.sw f.g 8 (ueUses f 8) true
    (fun it s1 => s1.command it f 0x26 2 8 (s1.gathChecks it.g f true))
    (fun c m s => .next (s.mastCommand c m f 0x26 2 8 (s.gathChecksMast c f true))) (mastRunOk f 8)

/-- The participants of a group's launch. -/
def State.ndevOf (s : State) (g : Group) : Nat := match s.launchOfG g with | some l => l.record.ndev | none => 1

/-- The size in bytes of an element of a type code (R87); BPN data is counted in bytes. -/
def typeBytes (t : Nat) : Nat := match t with | 1 => 4 | 2 => 2 | 3 => 2 | 4 => 1 | 5 => 2 | 6 => 4 | _ => 1

/-- The bytes of SEND and of RECV of a collective (R222). -/
def collBytes (op ty count d : Nat) : Nat × Nat :=
  match op with
  | 3 => (count * typeBytes ty, count / d * typeBytes ty)
  | 4 => (count, d * count)
  | 5 => (count, count)
  | 6 => (count, count)
  | _ => (count * typeBytes ty, count * typeBytes ty)

/-- The descriptor limits of `coll` (R96, R97, R222). -/
def collOk (op ty pst count root zero d : Nat) (send recv : DWord) : Bool :=
  let bpn := ty == 0x10
  (if op ≤ 3 then ty == 1 || ty == 3 else true)
  && (if op = 3 ∨ op = 6 then count % d == 0 else true)
  && (if op = 5 then decide (root < d) else root == 0) && zero == 0
  && (if bpn then decide (2 ≤ pst) && decide (pst ≤ 8) && count % (128 * pst * (if op = 6 then d else 1)) == 0
        && send.toNat % 128 == 0 && recv.toNat % 128 == 0 else pst == 0)

/-- `coll` (R222). -/
def execColl (f : UeForm) (s : State) : Out :=
  uniGroupOnly s (.coll f) f.sw f.g 8 (ueUses f 8) true
    (fun it s1 => s1.command it f 0x27 3 8 fun w regs =>
      let op := bits f.imm 3 0
      let ty := bits f.imm 11 4
      let n := (rg regs 4).toNat
      let d := s.ndevOf it.g
      let b := collBytes op ty n d
      [ checkThat (collOk op ty (bits f.opts 3 0) n (rg regs 6).toNat (rg regs 7).toNat d (rg64 regs 0) (rg64 regs 2)) 0x02 0#64
      , s1.barCheck it.g f.ntf (rg regs 5)
      , s1.memRange w .copy (rg64 regs 0) b.1 0x33
      , s1.memRange w .store (rg64 regs 2) b.2 0x33 ])

/-- The limits of `vdec`'s descriptor (R419). -/
def vdecOk (maxdim pitch : Nat) (dst : DWord) : Bool :=
  let w := maxdim % 65536
  let h := maxdim / 65536
  decide (16 ≤ w) && decide (w ≤ 16384) && decide (16 ≤ h) && decide (h ≤ 16384) && pitch % 64 == 0 && decide (pitch ≤ 2 ^ 20)
  && decide (w ≤ pitch) && dst.toNat % 64 == 0

/-- `vdec` (R223). -/
def execVdec (f : UeForm) (s : State) : Out :=
  uniGroupOnly s (.vdec f) f.sw f.g 8 (ueUses f 8) true
    (fun it s1 => s1.command it f 0x28 4 8 fun w regs =>
      [ checkThat (vdecOk (rg regs 6).toNat (rg regs 7).toNat (rg64 regs 2)) 0x02 0#64
      , s1.barCheck it.g f.ntf (rg regs 5)
      , s1.memRange w .copy (rg64 regs 0) (rg regs 4).toNat 0x31
      , s1.memRange w .store (rg64 regs 2) 1 0x31 ])

/-! ### Queue registers (R17, R226-R228) -/

/-- The binding of queue register n. -/
def Group.qbinding (g : Group) (n : Nat) : Option QBinding := find g.q n

/-- `qbind` (R226). -/
def execQbind (f : QbindForm) (s : State) : Out :=
  laneIssue s (.qbind f) f.sw f.g 4 { s := [f.b] } true fun it s1 =>
    if it.E &&& ~~~it.g.helper = 0#32 then it.past it.I s1
    else
      let n := (it.g.sreg f.b).toNat
      let kind := n / 4096
      let ok := (s.ctx (s.lidOf it.g) n).isSome && (if f.pop.val = 1 then kind == 4 else kind == 1 || kind == 2)
      if ok then it.done s1 fun g => { g with q := put g.q f.q { ctx := it.g.sreg f.b, pop := f.pop.val = 1 } }
      else s.raise it.gid 0x22 (it.E &&& ~~~it.g.helper) it.pc 0#64 0#64

/-- `qwr` (R227): all entries in one event, or a stall while the FIFO lacks room. -/
def execQwr (f : QForm) (s : State) : Out :=
  laneIssue s (.qwr f) f.sw f.g 4 { v := [f.v, f.v + 1] } true fun it s1 =>
    let m := it.E &&& ~~~it.g.helper
    let bad : Option (Nat × DWord × DWord) := match it.g.qbinding f.q with
      | some b => if b.pop then some (0x22, 0#64, 0#64) else none
      | none => some (0x22, 0#64, 0#64)
    it.guarded s s1 (sameFault bad) fun it s2 =>
      match it.g.qbinding f.q with
      | none => it.past it.I s2
      | some b =>
        let own := s.lidOf it.g
        let es := (lanesOf m).map fun l => it.g.readV64 l f.v
        match s2.ctx own b.ctx.toNat with
        | none => it.past it.I s2
        | some x =>
          if x.push.length + es.length > 256 then s.stall it.gid (.room b.ctx.toNat)
          else it.past it.I (s2.updCtx own b.ctx.toNat fun x => { x with push := x.push ++ es })

/-- Hands entries of a pop FIFO to its reservations in FIFO order (R227); the group that receives one follows the sample's bytes as an acquire
would (R258). -/
def State.servePops (s : State) (own n : Nat) : Nat → State
  | 0 => s
  | k + 1 =>
    match s.ctx own n with
    | some x =>
      (match x.pop, x.reserved with
      | e :: es, (gid, l, r) :: rs =>
        let s1 := s.updCtx own n fun x => { x with pop := es, reserved := rs }
        let s2 := s1.updG gid fun g => { g with awaits := g.awaits - 1 }
        let s3 := match find s2.groups gid with | some g => s2.acquireBy gid g.cluster | none => s2
        (s3.bind gid (vecWrites l r [e.setWidth 32, (e >>> 32).setWidth 32])).servePops own n k
      | _, _ => s)
    | none => s

/-- `qrd` (R227): reserves entries in lane order; helper lanes receive 0. -/
def execQrd (f : QForm) (s : State) : Out :=
  laneIssue s (.qrd f) f.sw f.g 4 { v := [f.v, f.v + 1] } true fun it s1 =>
    let m := it.E &&& ~~~it.g.helper
    let bad : Option (Nat × DWord × DWord) := match it.g.qbinding f.q with
      | some b => if b.pop then none else some (0x22, 0#64, 0#64)
      | none => some (0x22, 0#64, 0#64)
    it.guarded s s1 (sameFault bad) fun it s2 =>
      match it.g.qbinding f.q with
      | none => it.past it.I s2
      | some b =>
        let own := s.lidOf it.g
        let n := b.ctx.toNat
        let s3 := s2.updCtx own n fun x => { x with reserved := x.reserved ++ (lanesOf m).map fun l => (it.gid, l, f.v.val) }
        let s4 := s3.bind it.gid ((lanesOf (it.E &&& it.g.helper)).flatMap fun l => vecWrites l f.v [0#32, 0#32])
        let s5 := s4.updG it.gid fun g => { g with awaits := g.awaits + (lanesOf m).length }
        it.past it.I (s5.servePops own n 32)

/-- `qstat` (R228). -/
def execQstat (f : QForm) (s : State) : Out :=
  vectorOp s (.qstat f) f.sw f.g 4 { v := [f.v] } true (0 : Fin 2) f.v fun g _ =>
    match g.qbinding f.q with
    | none => 0#32
    | some b =>
      let x := s.ctx (s.lidOf g) b.ctx.toNat
      let level := match x with
        | none => 0
        | some x => if b.pop then min 256 x.pop.length - x.reserved.length else 256 - x.push.length
      BitVec.ofNat 32 (level + 65536 + (if b.pop then 131072 else 0))

end Sys2Proof.Machine
end

