-- ==== Sys2Proof/Machine/MatrixOps.lean ====
section
/-!
DEFINITION. The matrix engine (R176-R201): holder and planes, reading weights, passes, drain checks, and what each instruction of the
matrix pipe does when it completes.
-/
namespace Sys2Proof.Machine
open Sys2Proof

/-! ### Accumulator tiles (R12, R178) -/

/-- Element (row, column) of accumulator tile a. -/
def Group.accEl (g : Group) (a r n : Nat) : Word := getD g.acc (a * 2048 + r * 64 + n) 0#32
/-- Writes an element. -/
def Group.setAcc (g : Group) (a r n : Nat) (x : Word) : Group := { g with acc := setD g.acc (a * 2048 + r * 64 + n) x 0#32 }
/-- Row sum r. -/
def Group.rowSum (g : Group) (a r : Nat) : Word := getD g.rs (a * 32 + r) 0#32
/-- Writes a row sum. -/
def Group.setRow (g : Group) (a r : Nat) (x : Word) : Group := { g with rs := setD g.rs (a * 32 + r) x 0#32 }
/-- Column sum n. -/
def Group.colSum (g : Group) (a n : Nat) : Word := getD g.cs (a * 64 + n) 0#32
/-- Writes a column sum. -/
def Group.setCol (g : Group) (a n : Nat) (x : Word) : Group := { g with cs := setD g.cs (a * 64 + n) x 0#32 }
/-- The status word: [0] SAT, [1] TYPE, [2] FIXED. -/
def Group.accStat (g : Group) (a : Nat) : Word := getD g.accStatus a 0#32
/-- Writes the status word. -/
def Group.setStat (g : Group) (a : Nat) (x : Word) : Group := { g with accStatus := setD g.accStatus a x 0#32 }
/-- A status word with bit b set to v. -/
def withBit (x : Word) (b : Nat) (v : Bool) : Word := (x &&& ~~~laneBit b) ||| (if v then laneBit b else 0#32)

/-- All rows, sums and the status word to 0 (R188, R193). -/
def Group.zeroAcc (g : Group) (a : Nat) : Group :=
  { g with acc := delIf g.acc fun k => k / 2048 = a, rs := delIf g.rs fun k => k / 32 = a, cs := delIf g.cs fun k => k / 64 = a
           accStatus := del g.accStatus a }

/-! ### Exact sums -/

/-- The exact sum of some values; +0 where there is none. -/
def exactSum : List FVal → FVal
  | [] => .fin false 0 0
  | x :: r => r.foldl (FVal.add .rne) x

/-- The exact sum of FP32 words, rounded once (R184, R188, R190). -/
def sum32 (xs : List Word) : Word := BitVec.ofNat 32 (fp32.bitsOf .rne (exactSum (xs.map fun x => fp32.val x.toNat)))

/-- The sum modulo 2^32. -/
def sumMod (xs : List Word) : Word := xs.foldl (· + ·) 0#32

/-- The sum that a tile's type forms (R190): `int` for an integer tile. -/
def tileSum (int : Bool) (xs : List Word) : Word := if int then sumMod xs else sum32 xs

/-! ### Planes (R179, R184) -/

/-- What a weight slot and a form of `mldw` give (R179): kind, depth K; `none` for any other combination. -/
def planeShape (ty prd kindBit spar : Nat) (tile : Bool) : Option (Nat × Nat) :=
  if tile then (if ty = 3 ∧ kindBit = 0 ∧ spar = 0 then some (1, 64) else none)
  else if kindBit = 0 then
    (if ty = 3 then some (1, if spar = 1 ∨ spar = 3 then 128 else 64)
     else if ty = 16 ∧ (spar = 0 ∨ spar = 2) then some (1, 64) else none)
  else if ty = 4 ∧ spar = 0 then some (2, 128)
  else if ty = 16 ∧ spar = 0 ∧ (prd = 8 ∨ prd = 4 ∨ prd = 2) then some (2, 1024 / prd)
  else none

/-- The length m of an activation tile run (R179). -/
def runLength (kind k : Nat) : Nat := if kind = 1 then k / 64 else if kind = 2 then k / 128 else 1

/-- The checksum column of a plane (R184). -/
def Plane.checksums (p : Plane) : Plane :=
  { p with cw := (List.range p.k).foldl (fun m k =>
      let ws := (List.range 64).filterMap fun n => find p.w (k * 64 + n)
      let v := if p.kind = 1 then BitVec.ofNat 32 (fp32.bitsOf .rne (exactSum (ws.map fun w => bf16.val w.toNat))) else sumMod ws
      setD m k v 0#32) [] }

/-- Sixteen-byte pieces fetched from memory, by address / 16. -/
abbrev Fetch16 := SMap (List Byte)

/-- A byte of fetched memory. -/
def fetched (f : Fetch16) (a : Nat) : Byte := (getD f (a / 16) []).getD (a % 16) 0#8
/-- n fetched bytes as a number. -/
def fetchedLe (f : Fetch16) (a n : Nat) : Nat := ofBytes ((List.range n).map fun i => fetched f (a + i))

/-- What a read of the matrix path came to: the bytes, a wait, or a fault (code, address, detail). -/
inductive MatRead where
  | ok (f : Fetch16)
  | wait
  | fail (code addr detail : Nat)
  deriving DecidableEq, Repr

/-- A piece for a weight plane at its home: the path that opens a sealed page (R364). -/
def State.planeRead (s : State) (w : Who) (va : Nat) : Acc × State :=
  let s1 := s.clearLines w va 16
  if s1.linesHeld w va 16 then (.wait, s1)
  else
    match s1.homeRead { w.req .load with opened := true } va 16 with
    | (.ok bs, s2) => (.ok bs, s2.stamp w va false)
    | r => r

/-- Reads one 16-byte piece for a weight plane (R181, R184, R197), in its place among the accesses of the group that wait: a sealed page may be
read here, and nothing of it goes to an L1. -/
def State.matLoad (s : State) (w : Who) (before va : Nat) : Acc × State :=
  let y : AccOp := { va := va, n := 16 }
  let s1 := if s.mustFollow w.gid before y then s.bindPieces w before else s
  if s1.mustFollow w.gid before y || s1.pageLogged w before y then (.wait, s1)
  else
    match s1.accFault w .load (BitVec.ofNat 64 va) 16 false with
    | some (code, _, d) => if code = 0x30 then s1.planeRead w va else (.fail code d.toNat, s1)
    | none => s1.planeRead w va

/-- Reads the pieces at the listed piece numbers; `before` is the place of the reader in the group's order. -/
def State.matFetch (s : State) (w : Who) (before : Nat) (f : Fetch16) : List Nat → MatRead × State
  | [] => (.ok f, s)
  | p :: rest =>
    match s.matLoad w before (16 * p) with
    | (.ok bs, s1) => s1.matFetch w before (put f p bs) rest
    | (.wait, s1) => (.wait, s1)
    | (.fail c d, s1) => (.fail c (16 * p) d, s1)

/-- The pieces that cover a byte range. -/
def piecesOf (va n : Nat) : List Nat := if n = 0 then [] else (List.range ((va + n - 1) / 16 - va / 16 + 1)).map (va / 16 + ·)

/-- bpn_read (R82) over fetched bytes. -/
def bpnRead (f : Fetch16) (B e : Nat) (sl : BitVec 128) : Int :=
  let c := e / 1024
  let i := e % 1024
  let t := (List.range (slotPrd sl)).foldl (fun t j =>
    2 * t + (if (fetched f (B + (c * slotPst sl + j) * 128 + i / 8)).getLsbD (i % 8) then 1 else 0)) 0
  bpVal (slotPst sl) (slotPrd sl) (slotCentre sl) t

/-- bpn_int (R83). -/
def bpnInt (f : Fetch16) (B e : Nat) (sl : BitVec 128) : Int :=
  let v := bpnRead f B e sl
  if slotGsize sl = 0 then v else v - sextInt 8 (fetchedLe f (slotSz sl + 4 * (e / 64)) 4 / 65536)

/-- bpn_bf16 (R83): the product is exact and rounds once. -/
def bpnBf16 (f : Fetch16) (B e : Nat) (sl : BitVec 128) : Nat :=
  if slotGsize sl = 0 then
    let v := bpnRead f B e sl
    bf16.round (slotMode sl) (decide (v < 0)) v.natAbs 0
  else
    let z := bpnInt f B e sl
    bf16.bitsOf (slotMode sl) ((bf16.val (fetchedLe f (slotSz sl + 4 * (e / 64)) 2)).mul (.fin (decide (z < 0)) z.natAbs 0))

/-- The pieces that nv stored vectors occupy (R185), companion records included. -/
def storedPieces (sl : BitVec 128) (spar B e0 nv : Nat) : List Nat :=
  let ty := slotType sl
  let raw := if ty = 3 then (if spar = 1 ∨ spar = 3 then piecesOf B (72 * nv) else piecesOf B (128 * nv))
    else if ty = 4 then piecesOf B (64 * nv)
    else (List.range nv).flatMap fun i =>
      let e := e0 + 64 * i
      (List.range (slotPrd sl)).flatMap fun j => piecesOf (B + (e / 1024 * slotPst sl + j) * 128 + e % 1024 / 8) 8
  let comp := if ty = 16 ∧ slotGsize sl = 1 then (List.range nv).flatMap fun i => piecesOf (slotSz sl + 4 * ((e0 + 64 * i) / 64)) 4 else []
  (raw ++ comp).eraseDups

/-- An index word with x < y in every group (R185). -/
def indexOk (word : Nat) : Bool := (List.range 16).all fun g => decide (bits word (4 * g + 1) (4 * g) < bits word (4 * g + 3) (4 * g + 2))

/-- Element k of stored vector i, omitted elements `none` (R185). -/
def vectorEl (f : Fetch16) (sl : BitVec 128) (kind spar B e0 nv i k : Nat) : Option Word :=
  let ty := slotType sl
  if ty = 3 then
    if spar = 1 ∨ spar = 3 then
      let word := fetchedLe f (B + 64 * nv + 8 * i) 8
      let g := k / 4
      let x := bits word (4 * g + 1) (4 * g)
      let y := bits word (4 * g + 3) (4 * g + 2)
      if k % 4 = x then some (BitVec.ofNat 32 (fetchedLe f (B + 64 * i + 4 * g) 2))
      else if k % 4 = y then some (BitVec.ofNat 32 (fetchedLe f (B + 64 * i + 4 * g + 2) 2))
      else none
    else some (BitVec.ofNat 32 (fetchedLe f (B + 128 * i + 2 * k) 2))
  else if ty = 4 then some (BitVec.ofInt 32 (sextInt 8 (fetched f (B + 64 * i + k)).toNat))
  else if kind = 2 then some (BitVec.ofInt 32 (bpnInt f B (e0 + 64 * i + k) sl))
  else some (BitVec.ofNat 32 (bpnBf16 f B (e0 + 64 * i + k) sl))

/-- The live column vectors in ascending order, and all of them (R184). -/
def liveVectors (spar bitmap S : Nat) : List Nat := (List.range (64 * S)).filter fun j => spar < 2 || bit bitmap j

/-- Reads a plane from memory (R184, R185): the plane, a wait, or a fault. -/
def State.readPlane (s : State) (w : Who) (before : Nat) (sl : BitVec 128) (fmt kind k spar B e0 bitmap : Nat) : (Except (Option (Nat × Nat × Nat)) Plane) × State :=
  let S := k / 64
  let live := liveVectors spar bitmap S
  let nv := live.length
  match s.matFetch w before [] (storedPieces sl spar B e0 nv) with
  | (.wait, s1) => (.error none, s1)
  | (.fail c a d, s1) => (.error (some (c, a, d)), s1)
  | (.ok f, s1) =>
    let sparse := slotType sl = 3 && (spar = 1 || spar = 3)
    match if sparse then (List.range nv).find? fun i => !indexOk (fetchedLe f (B + 64 * nv + 8 * i) 8) else none with
    | some i => (.error (some (0x08, B + 64 * nv + 8 * i, 0)), s1)
    | none =>
      let ws := (List.range nv).foldl (fun m i =>
        let j := live.getD i 0
        (List.range 64).foldl (fun (m : SMap Word) x =>
          match vectorEl f sl kind spar B e0 nv i x with
          | some v => put m ((64 * (j % S) + x) * 64 + j / S) v
          | none => m) m) ([] : SMap Word)
      (.ok ({ kind := kind, k := k, spar := spar, slot := fmt, w := ws, skind := 2, eoff := e0, saddr := B, bitmap := bitmap } : Plane).checksums, s1)

/-- The plane of a tile pair (R184). -/
def Group.tilePlane (g : Group) (ta fmt : Nat) : Plane :=
  let el (k n : Nat) : Word :=
    let w := g.tileWord (ta + k / 32) (k % 32) (n / 2)
    if n % 2 = 0 then w &&& 0xFFFF#32 else w >>> 16
  let ws := (List.range 4096).map fun i => (i, el (i / 64) (i % 64))
  ({ kind := 1, k := 64, spar := 0, slot := fmt, w := ws, skind := 1 } : Plane).checksums

/-! ### The holder (R177) -/

/-- A plane's descriptor as the issue stage copies it (R176). -/
def Plane.descr (p : Plane) : Nat × Nat × Nat × Nat := (p.kind, p.k, p.spar, p.slot)

/-- An engine as an acquisition or a release leaves it: planes of kind none, the bitmap all ones. -/
def MatEngine.cleared (e : MatEngine) : MatEngine :=
  { e with active := {}, shadow := {}, bitmap := 2 ^ 128 - 1, issueActive := (0, 0, 0, 0), issueShadow := (0, 0, 0, 0) }

/-- The party of a group, outside an instruction. -/
def State.whoOf (s : State) (gid : Nat) (g : Group) : Who :=
  { gid := gid, c := g.cluster, sp := g.sp, bid := g.bid
    lid := match s.blockOf g with | some b => b.lid | none => 0
    world := s.worldOf g, asid := s.asidOf g }

/-- Reloads one owed plane (R198): as it is from a tile record, through the `mldw` memory path otherwise. -/
def State.reloadPlane (s : State) (w : Who) (g : Group) (p : Plane) : (Except (Option (Nat × Nat × Nat)) Plane) × State :=
  if p.skind = 2 then s.readPlane w 0 (s.slot g p.slot) p.slot p.kind p.k p.spar p.saddr p.eoff p.bitmap else (.ok p, s)

/-- Reloads the planes that a restore owes a holder (R198). A page on its way keeps them owed; a fault leaves the plane of kind none. -/
def State.reloadPlanes (s : State) (gid : Nat) : State :=
  match find s.groups gid with
  | none => s
  | some g =>
    match g.planeOwed with
    | none => s
    | some (a, b) =>
      if (s.engine g.cluster g.sp).holder ≠ some gid then s
      else
        let w := s.whoOf gid g
        match s.reloadPlane w g a with
        | (.error none, s1) => s1
        | (ra, s1) =>
          match s1.reloadPlane w g b with
          | (.error none, s2) => s2
          | (rb, s2) =>
            let pa := match ra with | .ok p => p | .error _ => {}
            let pb := match rb with | .ok p => p | .error _ => {}
            let s3 := (s2.updEngine g.cluster g.sp fun e =>
              { e with active := pa, shadow := pb, issueActive := pa.descr, issueShadow := pb.descr }).updG gid fun g => { g with planeOwed := none }
            let bad := match ra, rb with
              | .error (some x), _ => some x
              | _, .error (some x) => some x
              | _, _ => none
            match bad with
            | some (c, ad, d) => s3.lateFault w c g.live (g.pcOf 0) (BitVec.ofNat 64 ad) (BitVec.ofNat 64 d)
            | none => s3

/-- A release of the engine (R177): both planes empty, the first waiter becomes holder and wakes. -/
def State.releaseEngine (s : State) (c sp : Nat) : State :=
  let e := s.engine c sp
  match e.waiters with
  | [] => s.updEngine c sp fun e => { e.cleared with holder := none }
  | (_, w) :: rest =>
    let s1 := (s.updEngine c sp fun e => { e.cleared with holder := some w, waiters := rest }).reloadPlanes w
    match find s1.groups w with
    | some g => if g.waiting == .engine then s1.wake w else s1
    | none => s1

/-- Takes a group out of an engine: its request is withdrawn, and a holder releases (R177, R201). -/
def State.leaveEngine (s : State) (gid : Nat) : State :=
  match find s.groups gid with
  | none => s
  | some g =>
    let s1 := s.updEngine g.cluster g.sp fun e => { e with waiters := e.waiters.filter fun x => x.2 != gid }
    if (s.engine g.cluster g.sp).holder = some gid then s1.releaseEngine g.cluster g.sp else s1

/-- A group asks for the engine (R177): the state with the group as holder, or `none` where another group holds it. -/
def State.takeEngine (s : State) (gid : Nat) (g : Group) : Option State :=
  let e := s.engine g.cluster g.sp
  if e.holder = some gid then some s
  else if e.holder.isNone && e.waiters.isEmpty then some (s.updEngine g.cluster g.sp fun e => { e.cleared with holder := some gid })
  else none

/-- Queues a request for the engine: in request order, those of one clk in ascending %group (R177). -/
def State.queueEngine (s : State) (gid : Nat) (g : Group) : State :=
  let after (x : Nat × Nat) : Bool := x.1 = s.clk && match find s.groups x.2 with
    | some h => decide (g.num < h.num) || (g.num = h.num && decide (gid < x.2))
    | none => false
  s.updEngine g.cluster g.sp fun e =>
    if e.waiters.any fun x => x.2 = gid then e
    else { e with waiters := (e.waiters.filter fun x => !after x) ++ [(s.clk, gid)] ++ e.waiters.filter after }

/-- Queues a request and parks the group for the engine (R177). -/
def State.waitEngine (s : State) (gid : Nat) (g : Group) : State := (s.queueEngine gid g).park gid .engine

/-! ### The pipe (R180) -/

/-- The tiles that a matrix instruction in the pipe reads or writes. -/
def MatWork.tiles (w : MatWork) : List Nat :=
  match w.instr with
  | .mldwTile f => [f.ta, f.ta + 1]
  | .mma f => (List.range (w.vals.headD 1#32).toNat).map (f.ta + ·)
  | .tst f => [f.ta]
  | .tstsh f => [f.ta]
  | .tmovGet f => [f.ta]
  | .tmovPut f => [f.ta]
  | .acpyTile f => [f.ta]
  | _ => []

/-- The tile of a parked row load (R31): TA of its extension word. -/
def Parked.tile (p : Parked) : Nat := bits p.w1 21 19

/-- Whether a tile is fill-pending for work of a place in the order (R180). -/
def Group.fillPending (g : Group) (t seq : Nat) : Bool :=
  (g.fills.any fun f => f.tile = t && decide (f.seq < seq)) || (g.replay.any fun p => p.row && p.tile = t && decide (p.seq < seq))

/-- Whether a tile row may land: no earlier work of the pipe still uses its tile, no earlier row of it is on its way (R180). -/
def Group.mayLand (g : Group) (idx : Nat) : Bool :=
  match g.fills[idx]? with
  | none => false
  | some f =>
    !(g.pipe.any fun w => decide (w.seq < f.seq) && w.tiles.contains f.tile) &&
    !((g.fills.take idx).any fun x => x.tile = f.tile && x.row = f.row) &&
    !(g.replay.any fun p => p.row && p.tile = f.tile && decide (p.seq < f.seq))

/-- Enters the pipe at issue with the operands read (R180). -/
def State.pushWork (s : State) (it : Issue) (i : Instr) (vals : List Word) : State :=
  let s1 := s.updG it.gid fun g => { g with pipe := g.pipe ++ [{ instr := i, lanes := it.E, pc := it.pc, vals := vals, seq := s.order }] }
  it.past it.I { s1 with order := s.order + 1 }

/-! ### Passes (R92, R94, R188) -/

/-- Activation (lane, k) of a run from tile ta: a BF16 pattern, or an INT8 value. -/
def Group.activation (g : Group) (kind ta l k : Nat) : Word :=
  if kind = 1 then
    let w := g.tileWord (ta + k / 64) l (k % 64 / 2)
    if k % 2 = 0 then w &&& 0xFFFF#32 else w >>> 16
  else BitVec.ofInt 32 (sextInt 8 (g.tileByte (ta + k / 128) l (k % 128)).toNat)

/-- One integer pass (R94): the clamped sum, and whether it clamped. -/
def intPass (c : Word) (products : List Int) : Word × Bool :=
  let z := products.foldl (· + ·) c.toInt
  let y := clampS 32 z
  (BitVec.ofInt 32 y, decide (y ≠ z))

/-- One float pass (R92). -/
def floatPass (c : Word) (products : List FVal) : Word := BitVec.ofNat 32 (dotPass (fp32.val c.toNat :: products))

/-- Segment h of an `mma` on a float plane. -/
def Group.floatSegment (g0 : Group) (p : Plane) (E : Word) (ta a h : Nat) (g : Group) : Group :=
  let ks := (List.range 64).map (64 * h + ·)
  let A (l k : Nat) : FVal := bf16.val (g0.activation 1 ta l k).toNat
  let W (k n : Nat) : Option FVal := (find p.w (k * 64 + n)).map fun w => bf16.val w.toNat
  let g1 := (lanesOf E).foldl (fun g l =>
    let g := (List.range 64).foldl (fun g n =>
      g.setAcc a l n (floatPass (g.accEl a l n) (ks.filterMap fun k => (W k n).map fun w => (A l k).mul w))) g
    g.setRow a l (floatPass (g.rowSum a l) (ks.map fun k => (A l k).mul (fp32.val (getD p.cw k 0#32).toNat)))) g
  let ca (k : Nat) : FVal := fp32.val (fp32.bitsOf .rne (exactSum ((lanesOf E).map fun l => A l k)))
  (List.range 64).foldl (fun g n =>
    g.setCol a n (floatPass (g.colSum a n) (ks.filterMap fun k => (W k n).map fun w => (ca k).mul w))) g1

/-- Segment h of an `mma` on an integer plane: elements clamp (R94), sums wrap. -/
def Group.intSegment (g0 : Group) (p : Plane) (E : Word) (ta a h : Nat) (g : Group) : Group :=
  let ks := (List.range 64).map (64 * h + ·)
  let A (l k : Nat) : Int := (g0.activation 2 ta l k).toInt
  let W (k n : Nat) : Option Int := (find p.w (k * 64 + n)).map BitVec.toInt
  let g1 := (lanesOf E).foldl (fun g l =>
    let g := (List.range 64).foldl (fun g n =>
      let r := intPass (g.accEl a l n) (ks.filterMap fun k => (W k n).map fun w => A l k * w)
      let g := g.setAcc a l n r.1
      if r.2 then g.setStat a (withBit (g.accStat a) 0 true) else g) g
    g.setRow a l (g.rowSum a l + BitVec.ofInt 32 ((ks.map fun k => A l k * (getD p.cw k 0#32).toInt).foldl (· + ·) 0))) g
  let ca (k : Nat) : Int := ((lanesOf E).map fun l => A l k).foldl (· + ·) 0
  (List.range 64).foldl (fun g n =>
    g.setCol a n (g.colSum a n + BitVec.ofInt 32 ((ks.filterMap fun k => (W k n).map fun w => ca k * w).foldl (· + ·) 0))) g1

/-- The accumulator work of `mma` (R188) on a plane. -/
def Group.stream (g : Group) (p : Plane) (E : Word) (ta a : Nat) (zc : Bool) : Group :=
  let g1 := if zc then g.zeroAcc a else g
  let g2 := (List.range (p.k / 64)).foldl (fun x h => if p.kind = 1 then g.floatSegment p E ta a h x else g.intSegment p E ta a h x) g1
  g2.setStat a (withBit (g2.accStat a) 1 (decide (p.kind = 2)))

/-! ### Drain checks (R190) -/

/-- Row r of a tile, and column n. -/
def Group.accRow (g : Group) (a r : Nat) : List Word := (List.range 64).map (g.accEl a r)
/-- Column n. -/
def Group.accCol (g : Group) (a n : Nat) : List Word := (List.range 32).map fun r => g.accEl a r n

/-- What a drain check comes to: the group, whether it corrected, whether it failed. -/
structure Drain where
  g : Group
  fixed : Bool := false
  bad : Bool := false
  deriving DecidableEq, Repr

/-- drain_check(T, f) (R190). -/
def Group.drainCheck (g : Group) (a tol : Nat) : Drain :=
  let st := g.accStat a
  let int := st.getLsbD 1
  if int && st.getLsbD 0 then { g := g }
  else
    let agree (x y : Word) : Bool := if int then x == y else ckAgree tol x.toNat y.toNat
    let badRows := (List.range 32).filter fun r => !agree (tileSum int (g.accRow a r)) (g.rowSum a r)
    let badCols := (List.range 64).filter fun n => !agree (tileSum int (g.accCol a n)) (g.colSum a n)
    let g0 := g.setStat a (withBit st 2 false)
    match badRows, badCols with
    | [], [] => { g := g0 }
    | [r], [n] =>
      let others := (List.range 64).filter (· ≠ n)
      let v : Word := if int then g.rowSum a r - sumMod (others.map (g.accEl a r))
        else BitVec.ofNat 32 (fp32.bitsOf .rne ((fp32.val (g.rowSum a r).toNat).add .rne
          (exactSum (others.map fun n' => fp32.val (g.accEl a r n').toNat)).neg))
      let g1 := g0.setAcc a r n v
      if agree (tileSum int (g1.accRow a r)) (g.rowSum a r) && agree (tileSum int (g1.accCol a n)) (g.colSum a n) then
        { g := (g1.setStat a (withBit (g1.accStat a) 2 true)).sticky stCkfix, fixed := true }
      else { g := g0, bad := true }
    | _, _ => { g := g0, bad := true }

/-- An injection that waits for the tile's next drain check strikes it first (R384, WHEN 1). -/
def State.strikeBeforeDrain (s : State) (gid a : Nat) : State :=
  match find s.groups gid with
  | none => s
  | some g =>
    let (d, p) := s.physOf g.cluster
    let f := (s.die d).fictl.toNat
    if bit (s.die d).fistat.toNat 0 && bits f 3 1 = 0 && bit f 5 && bits f 19 13 = p && bits f 21 20 = g.sp && bits f 26 22 = g.slot
        && bits f 28 27 = a then
      let v := (s.die d).fidata.setWidth 32
      let el := g.accEl a (bits f 33 29) (bits f 39 34)
      (s.updG gid fun g => g.setAcc a (bits f 33 29) (bits f 39 34) (if bit f 4 then v else el ^^^ v)).updD d fun x =>
        { x with fictl := x.fictl &&& ~~~1#64, fistat := 2#64 }
    else s

/-- A pending injection into an accumulator is withdrawn when its target group retires, is killed or is saved (R403). -/
def State.dropInjection (s : State) (g : Group) : State :=
  let (d, p) := s.physOf g.cluster
  let f := (s.die d).fictl.toNat
  if bit (s.die d).fistat.toNat 0 && bits f 3 1 = 0 && bits f 19 13 = p && bits f 21 20 = g.sp && bits f 26 22 = g.slot then
    s.updD d fun x => { x with fictl := x.fictl &&& ~~~1#64, fistat := 4#64 }
  else s

/-- A drain check of a group's tile, with its counters (R190, R383, R385): the state, and whether it passed. -/
def State.drain (s : State) (gid a tol : Nat) : State × Bool :=
  let s0 := s.strikeBeforeDrain gid a
  match find s0.groups gid with
  | none => (s0, true)
  | some g =>
    let r := g.drainCheck a tol
    if r.bad then (s0.countHalf g.cluster (4 + g.sp / 2) (g.sp % 2), false)
    else
      let s1 := s0.updG gid fun _ => r.g
      (if r.fixed then s1.countHalf g.cluster (2 + g.sp / 2) (g.sp % 2) else s1, true)

/-! ### Completion in the pipe -/

/-- Row l of a tile as `acpy.tile` forms it (R192): the 32 words, from the old row. How a status TYPE that disagrees with the slot is read the spec
leaves open: a float slot converts the elements of an integer tile as INT32 values, INT8 takes the raw words of a float tile as signed
integers (DESIGN CHOICE, log entry 120). -/
def Group.convRow (g : Group) (a l ty : Nat) (mode : RMode) (h ta : Nat) : List Word :=
  let el (n : Nat) : Word := g.accEl a l n
  let src (n : Nat) : FVal := if (g.accStat a).getLsbD 1 then (let z := (el n).toInt; .fin (decide (z < 0)) z.natAbs 0) else fp32.val (el n).toNat
  let half (n : Nat) : Nat := (if ty = 3 then bf16 else fp16).bitsOf mode (src n)
  if ty = 2 ∨ ty = 3 then (List.range 32).map fun w => BitVec.ofNat 32 (half (2 * w) + 65536 * half (2 * w + 1))
  else if ty = 4 then (List.range 32).map fun w =>
    if w / 16 = h then
      BitVec.ofNat 32 ((List.range 4).foldl (fun x b => x + wrapNat 8 (clampS 8 (el (4 * (w % 16) + b)).toInt) * 256 ^ b) 0)
    else g.tileWord ta l w
  else (List.range 32).map fun w => el (32 * h + w)

/-- Stores a run of bytes of a lane as 16-byte pieces (R181), in the order of ordinary stores: of a lane whose store failed, none after it, nor, where
`all`, of any other lane (R158, R200). -/
def Ran.storeRun (r : Ran) (w : Who) (l va : Nat) (bs : List Byte) (all : Bool) : Ran :=
  (List.range (bs.length / 16)).foldl (fun (r : Ran) i =>
    if r.failLanes.getLsbD l || (all && r.failed.isSome) then r
    else
      let a := va + 16 * i
      let b := (bs.drop (16 * i)).take 16
      r.store w l { kind := .store, va := a, n := 16 } { lane := l, addr := a, size := 16, atop := none, y := ofBytes b, y2 := 0 } fun s =>
        match s.accFault w .store (BitVec.ofNat 64 a) 16 false with
        | some (c, _, d) => (.fail c d.toNat, s)
        | none => s.storeNow w a b false) r

/-- Drops the head of the pipe. -/
def State.popWork (s : State) (gid : Nat) : State := s.updG gid fun g => { g with pipe := g.pipe.drop 1 }

/-- Ends stores of the pipe: what waits goes to the side log (R192, R194); without room nothing has happened and the work stays in the pipe. Where one
failed, DETAIL holds its address, and the stores stand where `kept`, else none of them (R200). -/
def Ran.finishPipe (r : Ran) (s0 : State) (gid : Nat) (w : Who) (wk : MatWork) (kept : Bool) (after : State → State) : State :=
  let es := s0.sideEntries w wk.pc r.log wk.seq wk.instr 0#32
  let late (s : State) (x : Nat × Nat × Nat) : State :=
    (s.popWork gid).lateFault w x.1 r.failLanes wk.pc (BitVec.ofNat 64 x.2.1) (BitVec.ofNat 64 x.2.1)
  match r.failed, kept with
  | some x, false => late s0 x
  | f, _ =>
    if (s0.sideLog w.c w.sp).length + es.length > 64 ∨ (!es.isEmpty && s0.logRefused w.c) then s0
    else
      let s1 := if es.isEmpty then r.s else r.s.updC w.c fun k => { k with sideLogs := put k.sideLogs w.sp (getD k.sideLogs w.sp [] ++ es) }
      match f with
      | some x => late s1 x
      | none => after (s1.popWork gid)

/-- Runs the stores of a pipe instruction over lanes in ascending order, in the instruction's own place among the accesses that wait. -/
def pipeLanes (s : State) (wk : MatWork) (m : Word) (f : Ran → Nat → Ran) : Ran := (lanesOf m).foldl f { s := s, before := wk.seq }

/-- The fault of a pipe instruction at its lanes, with the address or accumulator number as DETAIL (R200). -/
def State.pipeFault (s : State) (gid : Nat) (w : Who) (wk : MatWork) (code addr detail : Nat) : State :=
  (s.popWork gid).lateFault w code wk.lanes wk.pc (BitVec.ofNat 64 addr) (BitVec.ofNat 64 detail)

/-- A copy out of an accumulator tile: the drain check first where CKD is set, then the copy, then the zeroing (R192). -/
def State.drained (s : State) (gid : Nat) (w : Who) (wk : MatWork) (ckd : Bool) (a tol : Nat) (copy : State → State) : State :=
  if ckd then
    match s.drain gid a tol with
    | (s1, true) => copy s1
    | (s1, false) => s1.pipeFault gid w wk 0x41 0 a
  else copy s

/-- What a matrix instruction does at issue to the issue stage's copies of the planes' descriptors (R176). -/
def MatWork.copies (wk : MatWork) (s : State) (gid : Nat) (e : MatEngine) : MatEngine :=
  let swap : MatEngine := { e with issueActive := e.issueShadow, issueShadow := e.issueActive }
  match wk.instr with
  | .mldwTile f => { e with issueShadow := (1, 64, 0, f.fmt.val) }
  | .mldwMem f =>
    let sl := match find s.groups gid with | some g => s.slot g f.fmt | none => 0
    (match planeShape (slotType sl) (slotPrd sl) f.kind f.spar false with
    | some (kind, k) => { e with issueShadow := (kind, k, f.spar.val, f.fmt.val) }
    | none => e)
  | .mflip _ => swap
  | .mma f => if f.flip.val = 1 then swap else e
  | _ => e

/-- The issue stage's copies, formed again from the planes as they stand and from the works still in the pipe (R176, R200). -/
def MatEngine.recopied (e : MatEngine) (s : State) (gid : Nat) (rest : List MatWork) : MatEngine :=
  rest.foldl (fun e wk => wk.copies s gid e) { e with issueActive := e.active.descr, issueShadow := e.shadow.descr }

/-- Completes the instruction at the head of a group's pipe (R180-R196); where it must wait, nothing changes but the fault unit. -/
def State.completeWork (s : State) (gid : Nat) (g : Group) (wk : MatWork) : State :=
  let w := s.whoOf gid g
  let eng := s.engine g.cluster g.sp
  let updE (s : State) (f : MatEngine → MatEngine) : State := s.updEngine g.cluster g.sp f
  match wk.instr with
  | .mldwTile f =>
    updE (s.popWork gid) fun e => { e with shadow := g.tilePlane f.ta f.fmt, bitmap := 2 ^ 128 - 1 }
  | .mldwMem f =>
    let sl := s.slot g f.fmt
    match planeShape (slotType sl) (slotPrd sl) f.kind f.spar false with
    | none => s.popWork gid
    | some (kind, k) =>
      match s.readPlane w wk.seq sl f.fmt kind k f.spar (pair (wk.vals.getD 0 0#32) (wk.vals.getD 1 0#32)).toNat (wk.vals.getD 2 0#32).toNat eng.bitmap with
      | (.ok p, s1) => updE (s1.popWork gid) fun e => { e with shadow := p, bitmap := 2 ^ 128 - 1 }
      | (.error none, s1) => s1
      | (.error (some (c, a, _)), s1) =>
        updE (s1.pipeFault gid w wk c a a) fun e => ({ e with shadow := {}, bitmap := 2 ^ 128 - 1 } : MatEngine).recopied s gid (g.pipe.drop 1)
  | .mbmap _ =>
    updE (s.popWork gid) fun e => { e with bitmap := (List.range 4).foldl (fun x i => x + (wk.vals.getD i 0#32).toNat * 2 ^ (32 * i)) 0 }
  | .mflip _ => updE (s.popWork gid) fun e => { e with active := e.shadow, shadow := e.active }
  | .mma f =>
    let s1 := if f.flip.val = 1 then updE s fun e => { e with active := e.shadow, shadow := e.active } else s
    let p := (s1.engine g.cluster g.sp).active
    (s1.popWork gid).updG gid fun g => if p.kind = 0 then g else g.stream p wk.lanes f.ta f.acc (f.zc.val = 1)
  | .acpyReg f =>
    s.drained gid w wk (f.ckd.val = 1) f.acc (slotTol (s.slot g f.fmt)) fun s1 =>
      match find s1.groups gid with
      | none => s1
      | some g1 =>
        let s2 := (s1.popWork gid).bind gid ((lanesOf wk.lanes).flatMap fun l =>
          vecWrites l f.c ((List.range (f.n1 + 1)).map fun i => g1.accEl f.acc l (f.j0 + i)))
        if f.zc.val = 1 then s2.updG gid fun g => g.zeroAcc f.acc else s2
  | .acpyTile f =>
    let sl := s.slot g f.fmt
    s.drained gid w wk (f.ckd.val = 1) f.acc (slotTol sl) fun s1 =>
      (s1.popWork gid).updG gid fun g1 =>
        let g2 := (lanesOf wk.lanes).foldl (fun (x : Group) l => x.setTileRow f.ta l (g1.convRow f.acc l (slotType sl) (slotMode sl) f.h f.ta)) g1
        if f.zc.val = 1 then g2.zeroAcc f.acc else g2
  | .acpyMem f =>
    s.drained gid w wk (f.ckd.val = 1) f.acc (slotTol (s.slot g f.fmt)) fun s1 =>
      match find s1.groups gid with
      | none => s1
      | some g1 =>
        let base := pair (wk.vals.getD 0 0#32) (wk.vals.getD 1 0#32)
        let r := pipeLanes s1 wk (wk.lanes &&& ~~~g1.helper) fun r l =>
          r.storeRun w l (base + BitVec.ofNat 64 (l * (wk.vals.getD 2 0#32).toNat)).toNat ((g1.accRow f.acc l).flatMap fun x => toBytes 4 x.toNat) true
        r.finishPipe s gid w wk true fun s2 => if f.zc.val = 1 then s2.updG gid fun g => g.zeroAcc f.acc else s2
  | .acpyStat f =>
    let s1 := (s.popWork gid).bind gid ((lanesOf wk.lanes).flatMap fun l => vecWrites l f.c [g.accStat f.acc])
    if f.clr.val = 1 then s1.updG gid fun g => g.setStat f.acc (withBit (g.accStat f.acc) 0 false) else s1
  | .ackd f => s.drained gid w wk true f.acc (slotTol (s.slot g f.fmt)) fun s1 => s1.popWork gid
  | .azero f => (s.popWork gid).updG gid fun g => g.zeroAcc f.acc
  | .aset f =>
    (s.popWork gid).updG gid fun g =>
      let g1 := (lanesOf wk.lanes).foldl (fun (g : Group) l => (List.range (f.n1 + 1)).foldl (fun (g : Group) i =>
        g.setAcc f.acc l (f.j0 + i) (wk.vals.getD (i * 32 + l) 0#32)) g) g
      let int := f.int.val = 1
      let g2 := (List.range 32).foldl (fun (x : Group) r => x.setRow f.acc r (tileSum int (g1.accRow f.acc r))) g1
      let g3 := (List.range 64).foldl (fun (x : Group) n => x.setCol f.acc n (tileSum int (g1.accCol f.acc n))) g2
      g3.setStat f.acc (withBit (g3.accStat f.acc) 1 int)
  | .tst f =>
    let r := pipeLanes s wk (wk.lanes &&& ~~~g.helper) fun r l =>
      r.storeRun w l (pair (wk.vals.getD (2 * l) 0#32) (wk.vals.getD (2 * l + 1) 0#32)).toNat
        ((List.range 32).flatMap fun i => toBytes 4 (g.tileWord f.ta l i).toNat) false
    r.finishPipe s gid w wk false id
  | .tstsh f =>
    let r := pipeLanes s wk (wk.lanes &&& ~~~g.helper) fun r l =>
      let a := wk.vals.getD l 0#32
      let space := if bit a.toNat 31 then 2 else 1
      let bs := (List.range 32).flatMap fun i => toBytes 4 (g.tileWord f.ta l i).toNat
      r.store w l { kind := .store, space := space, va := a.toNat, n := 128 }
        { lane := l, addr := a.toNat, size := 128, atop := none, y := ofBytes bs, y2 := 0, space := space } fun s => s.spStore gid g (space = 2) a bs
    r.finishPipe s gid w wk false id
  | .tmovGet f =>
    (s.popWork gid).bind gid ((lanesOf wk.lanes).flatMap fun l =>
      vecWrites l f.c ((List.range (f.n1 + 1)).map fun i => g.tileWord f.ta l (f.j0 + i)))
  | .tmovPut f =>
    (s.popWork gid).updG gid fun g => (lanesOf wk.lanes).foldl (fun (g : Group) l => (List.range (f.n1 + 1)).foldl (fun (g : Group) i =>
      g.setTile f.ta l (f.j0 + i) (wk.vals.getD (i * 32 + l) 0#32)) g) g
  | _ => s.popWork gid

/-- One completion of a group's pipe, if its head may complete (R180); a holder that has retired then releases (R177, R201). -/
def State.stepPipe (s : State) (gid : Nat) : State :=
  let s0 := s.reloadPlanes gid
  match find s0.groups gid with
  | none => s0
  | some g =>
    match g.pipe with
    | [] => s0
    | wk :: rest =>
      if wk.tiles.any fun t => g.fillPending t wk.seq then s0
      else
        let s1 := s0.completeWork gid g wk
        match rest, g.phase, find s1.groups gid with
        | [], .retired, some g1 => if g1.pipe.isEmpty then s1.leaveEngine gid else s1
        | _, _, _ => s1

/-- A save abandons the `mldw.mem` at the head of a group's pipe, which waits for its data: the plane is recorded as memory-sourced and the
restore reloads it (R201). An `mma` behind it in the pipe needs the weights, so the save then waits for them (log entry 121). -/
def State.abandonFill (s : State) (gid : Nat) : State :=
  match find s.groups gid with
  | none => s
  | some g =>
    match g.pipe with
    | [] => s
    | wk :: rest =>
      match wk.instr with
      | .mldwMem f =>
        let sl := s.slot g f.fmt
        (match planeShape (slotType sl) (slotPrd sl) f.kind f.spar false with
        | some (kind, k) =>
          if rest.any fun x => match x.instr with | .mma _ => true | _ => false then s
          else
            (s.updEngine g.cluster g.sp fun e =>
              { e with shadow := { kind := kind, k := k, spar := f.spar, slot := f.fmt, skind := 2, eoff := (wk.vals.getD 2 0#32).toNat
                                   saddr := (pair (wk.vals.getD 0 0#32) (wk.vals.getD 1 0#32)).toNat, bitmap := e.bitmap }
                       bitmap := 2 ^ 128 - 1 }).popWork gid
        | none => s)
      | _ => s

/-- Completes a group's pipe as far as it goes. -/
def State.runPipe (s : State) (gid : Nat) : Nat → State
  | 0 => s
  | n + 1 => (s.stepPipe gid).runPipe gid n

end Sys2Proof.Machine
end

