-- ==== Sys2Proof/Machine/Matrix.lean ====
section
/-!
DEFINITION. The matrix instructions at issue (R179-R199): their checks in the order of R199, the operands read, and their entry into the
matrix pipe. What they do there is in MatrixOps.lean.
-/
namespace Sys2Proof.Machine
open Sys2Proof

/-- The lanes of E that are no helpers. -/
def Issue.solid (it : Issue) : Word := it.E &&& ~~~it.g.helper

/-- A precise fault of a matrix instruction that acts: every lane of I stays at P, the lanes of E are named (R100, R199). Helpers that alone would
raise it pass a fault of R59 (R61) and exit on another (R100). -/
def Issue.matFault (it : Issue) (s : State) (code : Nat) (addr detail : DWord) : State :=
  if it.solid ≠ 0#32 then s.raise it.gid code it.solid it.pc addr detail
  else if code = 0x02 ∨ code = 0x04 then it.laneFault s code
  else let r := it.without s it.E; r.1.past r.1.I r.2

/-- Runs checks in order, then the instruction: code, ADDR, DETAIL of each. -/
def Issue.matChecked (it : Issue) (s0 s : State) (checks : List (Option (Nat × DWord × DWord))) (act : State → State) : State :=
  match checks.findSome? id with
  | some (code, addr, detail) => it.matFault s0 code addr detail
  | none => act s

/-- Becomes holder or parks for the engine (R177, R198), then makes the issue checks and acts (R184): an instruction that fails them has acquired
the engine all the same. -/
def Issue.withEngine (it : Issue) (s0 s : State) (checks : List (Option (Nat × DWord × DWord))) (act : State → State) : State :=
  match s.takeEngine it.gid it.g with
  | some s1 => it.matChecked ((s0.takeEngine it.gid it.g).getD s0) s1 checks act
  | none => s.waitEngine it.gid it.g

/-- What the limits of an instruction's fields come to at issue, once the faults of R60 have passed (R192, R195, R199). -/
def Issue.limited (it : Issue) (s0 s : State) (limits : List (Option Nat)) (act : State → State) : State :=
  match limits.findSome? id with
  | some code => it.laneFault s0 code
  | none => act s

/-- Whether a restored group must first wait for its planes (R198). -/
def Issue.owed (it : Issue) (s : State) : Bool := it.g.planeOwed.isSome && (s.engine it.g.cluster it.g.sp).holder != some it.gid

/-- Updates the issue stage's copies of the planes' descriptors (R176). -/
def Issue.copies (it : Issue) (s : State) (f : MatEngine → MatEngine) : State := s.updEngine it.g.cluster it.g.sp f

/-- The slot types that `mldw` accepts (R90, R179): BF16, INT8, BPN. -/
def weightType (ty : Nat) : Bool := ty = 3 || ty = 4 || ty = 16

/-- `mldw` from a tile pair (R184). -/
def execMldwTile (f : MldwTForm) (s : State) : Out :=
  let sl := s.curSlot f.fmt
  laneIssue s (.mldwTile f) f.sw f.g 8 { t := [f.ta], a := [0] } (weightType (slotType sl)) fun it s1 =>
    if it.solid = 0#32 then it.past it.I s1
    else
      it.withEngine s s1
        [ if (planeShape (slotType sl) (slotPrd sl) f.kind f.spar true).isNone then some (0x02, 0#64, 0#64) else none
        , if f.ta.val + 1 < (s1.variantOf it.g).tiles then none else some (0x04, 0#64, 0#64) ] fun s2 =>
        (it.copies s2 fun e => { e with issueShadow := (1, 64, 0, f.fmt.val) }).pushWork it (.mldwTile f) []

/-- `mldw` from memory (R184, R185). -/
def execMldwMem (f : MldwMForm) (s : State) : Out :=
  let sl := s.curSlot f.fmt
  let bpn := slotType sl = 16
  laneIssue s (.mldwMem f) f.sw f.g 8 { s := f.a.val :: (f.a + 1) :: (if bpn then [f.b.val] else []), a := [0] } (weightType (slotType sl)) fun it s1 =>
    if it.solid = 0#32 then it.past it.I s1
    else if it.mustWaitPipe then it.waitTurnPipe s
    else
      let B := it.g.sreg64 f.a
      let e0 : Word := if bpn then it.g.sreg f.b else 0#32
      let w := s.who it
      let shape := planeShape (slotType sl) (slotPrd sl) f.kind f.spar false
      it.withEngine s (s1.refill w [B])
        [ if shape.isNone then some (0x02, 0#64, 0#64) else none
        , if !bpn && f.b.val ≠ 0 then some (0x02, 0#64, 0#64) else none
        , match s1.accFault w .load B 1 (decide (B.toNat % 128 ≠ 0 ∨ e0.toNat % 64 ≠ 0)) with
          | some x => if x.1 = 0x30 then none else some x
          | none => none ] fun s2 =>
        (it.copies s2 fun e => match shape with
          | some (kind, k) => { e with issueShadow := (kind, k, f.spar.val, f.fmt.val) }
          | none => e).pushWork it (.mldwMem f) [B.setWidth 32, (B >>> 32).setWidth 32, e0]

/-- `mbmap` (R186). -/
def execMbmap (f : MbmapForm) (s : State) : Out :=
  laneIssue s (.mbmap f) f.sw f.g 8 { s := f.a.val :: (f.a + 1) :: (if f.high.val = 1 then [f.b.val, f.b + 1] else []), a := [0] } true fun it s1 =>
    if it.solid = 0#32 then it.past it.I s1
    else
      it.withEngine s s1 [] fun s2 =>
        s2.pushWork it (.mbmap f) ([it.g.sreg f.a, it.g.sreg (f.a + 1)] ++
          (if f.high.val = 1 then [it.g.sreg f.b, it.g.sreg (f.b + 1)] else [0#32, 0#32]))

/-- Whether the group holds the engine (R187). -/
def Issue.isHolder (it : Issue) (s : State) : Bool := (s.engine it.g.cluster it.g.sp).holder == some it.gid

/-- `mflip` (R187). -/
def execMflip (f : NForm) (s : State) : Out :=
  laneIssue s (.mflip f) f.sw f.g 8 {} true fun it s1 =>
    if it.solid = 0#32 then it.past it.I s1
    else if it.owed s1 then s1.waitEngine it.gid it.g
    else it.matChecked s s1 [if it.isHolder s1 then none else some (0x08, 0#64, 0#64)] fun s2 =>
      (it.copies s2 fun e => { e with issueActive := e.issueShadow, issueShadow := e.issueActive }).pushWork it (.mflip f) []

/-- The slot types that `mma` accepts (R90, R187): BF16, INT8. -/
def activationType (ty : Nat) : Bool := ty = 3 || ty = 4

/-- `mma` (R187, R188). -/
def execMma (f : MmaForm) (s : State) : Out :=
  let sl := s.curSlot f.fmt
  laneIssue s (.mma f) f.sw f.g 8 { t := [f.ta], a := [f.acc] } (activationType (slotType sl)) fun it s1 =>
    if it.E = 0#32 then it.past it.I s1
    else if it.owed s1 then s1.waitEngine it.gid it.g
    else
      let e := s1.engine it.g.cluster it.g.sp
      let d := if f.flip.val = 1 then e.issueShadow else e.issueActive
      let holder := it.isHolder s1
      let m := if holder then runLength d.1 d.2.1 else 1
      it.matChecked s s1
        [ if f.ta.val % m ≠ 0 then some (0x02, 0#64, 0#64) else none
        , if f.ta.val + m > (s1.variantOf it.g).tiles then some (0x04, 0#64, 0#64) else none
        , if holder && d.1 ≠ 0 && (slotType sl = if d.1 = 1 then 3 else 4) then none else some (0x08, 0#64, 0#64) ] fun s2 =>
        (it.copies s2 fun e => if f.flip.val = 1 then { e with issueActive := e.issueShadow, issueShadow := e.issueActive } else e).pushWork it
          (.mma f) [BitVec.ofNat 32 m]

/-- A matrix instruction that acts when E is not empty: the faults of R60, then the limits of its fields (R199). -/
def pipeOp (s : State) (i : Instr) (sw : Fin 2) (gd : Fin 8) (u : Uses) (slots : Bool) (limits : Issue → List (Option Nat))
    (vals : Issue → List Word) : Out :=
  laneIssue s i sw gd 8 u slots fun it s1 =>
    it.limited s s1 (limits it) fun s2 => if it.E = 0#32 then it.past it.I s2 else s2.pushWork it i (vals it)

/-- The limits of a run of n registers from c that meets positions j0 to j0 + n - 1 of a row of `width` (R192, R193, R195, R199). -/
def State.runLimits (s : State) (g : Group) (c j0 n width : Nat) : List (Option Nat) :=
  [if j0 + n ≤ width then none else some 0x02, if c + n ≤ (s.variantOf g).vregs then none else some 0x04]

/-- `acpy` MODE 0 (R192). -/
def execAcpyReg (f : AcpyRForm) (s : State) : Out :=
  pipeOp s (.acpyReg f) f.sw f.g { v := [f.c.val], a := [f.acc] } (slotType (s.curSlot f.fmt) ≠ 0)
    (fun it => s.runLimits it.g f.c f.j0 (f.n1 + 1) 64) fun _ => []
/-- `acpy` MODE 1 (R192). -/
def execAcpyTile (f : AcpyTForm) (s : State) : Out :=
  let ty := slotType (s.curSlot f.fmt)
  pipeOp s (.acpyTile f) f.sw f.g { t := [f.ta], a := [f.acc] } (ty = 1 || ty = 2 || ty = 3 || ty = 4 || ty = 6)
    (fun _ => [if f.h.val = 1 ∧ (ty = 2 ∨ ty = 3) then some 0x02 else none]) fun _ => []
/-- `acpy` MODE 2 (R192). -/
def execAcpyMem (f : AcpyMForm) (s : State) : Out :=
  laneIssue s (.acpyMem f) f.sw f.g 8 { s := [f.a, f.a + 1, f.b], a := [f.acc] } (slotType (s.curSlot f.fmt) ≠ 0) fun it s1 =>
    if it.E = 0#32 then it.past it.I s1
    else if it.mustWaitPipe then it.waitTurnPipe s
    else
      let B := it.g.sreg64 f.a
      let st := it.g.sreg f.b
      let w := s.who it
      let s2 := s1.refill w [B]
      it.guarded s s2 (sameFault (s2.accFault w .store B 1 (decide (B.toNat % 16 ≠ 0 ∨ st.toNat % 16 ≠ 0)))) fun it s3 =>
        if it.E = 0#32 then it.past it.I s3 else s3.pushWork it (.acpyMem f) [B.setWidth 32, (B >>> 32).setWidth 32, st]
/-- `acpy` MODE 3 (R192). -/
def execAcpyStat (f : AcpySForm) (s : State) : Out :=
  pipeOp s (.acpyStat f) f.sw f.g { v := [f.c], a := [f.acc] } true (fun _ => []) fun _ => []
/-- `ackd` (R191). -/
def execAckd (f : AckdForm) (s : State) : Out :=
  pipeOp s (.ackd f) f.sw f.g { a := [f.acc] } (slotType (s.curSlot f.fmt) ≠ 0) (fun _ => []) fun _ => []
/-- `azero` (R193). -/
def execAzero (f : AzeroForm) (s : State) : Out := pipeOp s (.azero f) f.sw f.g { a := [f.acc] } true (fun _ => []) fun _ => []

/-- The vector registers c to c + n - 1 of every lane, register by register. -/
def vectorRun (g : Group) (c n : Nat) : List Word := (List.range n).flatMap fun i => (List.range 32).map fun l => g.readV l (c + i)

/-- `aset` (R193). -/
def execAset (f : AsetForm) (s : State) : Out :=
  pipeOp s (.aset f) f.sw f.g { v := [f.c.val], a := [f.acc] } true (fun it => s.runLimits it.g f.c f.j0 (f.n1 + 1) 64)
    fun it => vectorRun it.g f.c (f.n1 + 1)
/-- `tmov.get` (R195). -/
def execTmovGet (f : TmovForm) (s : State) : Out :=
  pipeOp s (.tmovGet f) f.sw f.g { v := [f.c.val], t := [f.ta] } true (fun it => s.runLimits it.g f.c f.j0 (f.n1 + 1) 32) fun _ => []
/-- `tmov.put` (R195). -/
def execTmovPut (f : TmovForm) (s : State) : Out :=
  pipeOp s (.tmovPut f) f.sw f.g { v := [f.c.val], t := [f.ta] } true (fun it => s.runLimits it.g f.c f.j0 (f.n1 + 1) 32)
    fun it => vectorRun it.g f.c (f.n1 + 1)

/-! ### Tile rows (R194) -/

/-- The address of lane l's row in memory. -/
def tldRowAddr (f : TldForm) (g : Group) (l : Nat) : DWord :=
  if f.bc.val = 0 then g.readV64 l f.a else g.sreg64 f.a + BitVec.ofNat 64 (l * (g.sreg f.b).toNat)
/-- The scratchpad address of lane l's row. -/
def tldRowAddr32 (f : TldForm) (g : Group) (l : Nat) : Word :=
  if f.bc.val = 0 then g.readV l f.a else g.sreg f.a + BitVec.ofNat 32 (l * (g.sreg f.b).toNat)
/-- The registers of `tld` and `tst`. -/
def tldUses (f : TldForm) : Uses :=
  if f.bc.val = 0 then { v := [f.a, f.a + 1], t := [f.ta] } else { s := [f.a, f.a + 1, f.b], t := [f.ta] }
/-- The registers of `tldsh` and `tstsh`. -/
def tldUsesSh (f : TldForm) : Uses := if f.bc.val = 0 then { v := [f.a], t := [f.ta] } else { s := [f.a, f.b], t := [f.ta] }

/-- The fault of one row in memory (R194): alignment first, then R157. -/
def State.rowFault (s : State) (w : Who) (k : AccKind) (a : DWord) : Option (Nat × DWord × DWord) := s.accFault w k a 128 (decide (a.toNat % 16 ≠ 0))

/-- The fault of one row in scratchpad (R150, R194). -/
def State.rowFaultSh (s : State) (g : Group) (a : Word) : Option (Nat × DWord × DWord) :=
  match s.blockOf g with
  | none => some (0x13, a.setWidth 64, 0#64)
  | some b =>
    if a.toNat % 16 ≠ 0 then some (0x12, a.setWidth 64, 0#64)
    else match s.spPlace b (bit a.toNat 31) a 128 with
      | .error c => some (c, a.setWidth 64, 0#64)
      | .ok _ => none

/-- The words of a 128-byte row. -/
def rowWords (bs : List Byte) : List Word := (List.range 32).map fun i => BitVec.ofNat 32 (ofBytes ((bs.drop (4 * i)).take 4))

/-- Reads a row as eight 16-byte pieces (R181). -/
def State.readRow (s : State) (w : Who) (va : Nat) : Nat → Acc × State
  | 0 => (.ok [], s)
  | n + 1 =>
    match s.loadNow w va 16 false 0 with
    | (.ok bs, s1) => (match s1.readRow w (va + 16) n with
      | (.ok r, s2) => (.ok (bs ++ r), s2)
      | r => r)
    | r => r

/-- Notes a row that has been read: it is on its way into its tile (R180). -/
def State.addFill (s : State) (gid ta l seq : Nat) (bs : List Byte) : State :=
  s.updG gid fun g => { g with fills := g.fills ++ [{ tile := ta, row := l, words := rowWords bs, seq := seq }] }

/-- A row that has been read is on its way; what else the read came to stands. -/
def filling (r : Acc × State) (gid ta l seq : Nat) : Acc × State :=
  match r with
  | (.ok bs, s) => (.ok [], s.addFill gid ta l seq bs)
  | _ => r

/-- `tld` (R194): each row's access stands in program order at issue; a row whose page is on its way is parked (R31). -/
def execTld (f : TldForm) (s : State) : Out :=
  laneIssue s (.tld f) f.sw f.g 8 (tldUses f) true fun it s1 =>
    if it.mustWait false then it.waitTurn s
    else
      let w := s.who it
      let addr (l : Nat) : DWord := tldRowAddr f it.g l
      let s2 := s1.refill w ((lanesOf it.E).map addr)
      it.guarded s s2 (fun l => s2.rowFault w .load (addr l)) fun it s3 =>
        let r := runLanes s3 it it.E fun r l =>
          r.load w l (accAt (.tld f) (addr l).toNat) (fun _ => []) fun s' => filling (s'.readRow w (addr l).toNat 8) it.gid f.ta l s.order
        ({ r with s := { r.s with order := max r.s.order (s.order + 1) } }).finish s it w (.tld f) false true

/-- `tldsh` (R194). -/
def execTldsh (f : TldForm) (s : State) : Out :=
  laneIssue s (.tldsh f) f.sw f.g 8 (tldUsesSh f) true fun it s1 =>
    if it.mustWait false then it.waitTurn s
    else
      let w := s.who it
      let addr (l : Nat) : Word := tldRowAddr32 f it.g l
      it.guarded s s1 (fun l => s1.rowFaultSh it.g (addr l)) fun it s3 =>
        let r := runLanes s3 it it.E fun r l =>
          r.load w l (accAt (.tldsh f) (addr l).toNat) (fun _ => []) fun s' =>
            filling (s'.spLoad it.gid it.g (bit (addr l).toNat 31) (addr l) 128) it.gid f.ta l s.order
        ({ r with s := { r.s with order := max r.s.order (s.order + 1) } }).finish s it w (.tldsh f) false true

/-- `tst` (R194): addresses are read at issue, the tile in the pipe. -/
def execTst (f : TldForm) (s : State) : Out :=
  laneIssue s (.tst f) f.sw f.g 8 (tldUses f) true fun it s1 =>
    if it.mustWaitPipe then it.waitTurnPipe s else
    let w := s.who it
    let addr (l : Nat) : DWord := tldRowAddr f it.g l
    let s2 := s1.refill w ((lanesOf it.E).map addr)
    it.guarded s s2 (fun l => s2.rowFault w .store (addr l)) fun it s3 =>
      if it.E = 0#32 then it.past it.I s3
      else s3.pushWork it (.tst f) ((List.range 32).flatMap fun l => [(addr l).setWidth 32, ((addr l) >>> 32).setWidth 32])

/-- `tstsh` (R194). -/
def execTstsh (f : TldForm) (s : State) : Out :=
  laneIssue s (.tstsh f) f.sw f.g 8 (tldUsesSh f) true fun it s1 =>
    if it.mustWaitPipe then it.waitTurnPipe s else
    let addr (l : Nat) : Word := tldRowAddr32 f it.g l
    it.guarded s s1 (fun l => s1.rowFaultSh it.g (addr l)) fun it s3 =>
      if it.E = 0#32 then it.past it.I s3 else s3.pushWork it (.tstsh f) ((List.range 32).map addr)

/-! ### Waiting (R196) -/

/-- Whether every earlier matrix instruction of a group has completed (R196). -/
def Group.matrixDone (g : Group) : Bool := g.pipe.isEmpty && g.fills.isEmpty && !(g.replay.any fun p => p.row)

/-- `mwait` (R196). -/
def execMwait (f : NForm) (s : State) : Out :=
  laneIssue s (.mwait f) f.sw f.g 8 {} true fun it s1 =>
    if it.solid = 0#32 then it.past it.I s1
    else if it.g.matrixDone then it.past it.I s1 else s.stall it.gid .engine

/-- `mwait.rel` (R196, R177). -/
def execMwaitRel (f : NForm) (s : State) : Out :=
  laneIssue s (.mwaitRel f) f.sw f.g 8 {} true fun it s1 =>
    if it.solid = 0#32 then it.past it.I s1
    else if it.g.matrixDone then
      it.past it.I (if it.isHolder s1 then s1.releaseEngine it.g.cluster it.g.sp else s1)
    else s.stall it.gid .engine

/-! ### Events of the pipe -/

/-- MATRIX_INSTRUCTION_COMPLETE (R180): the head of a group's pipe completes; a plane that a restore owes is reloaded first (R198). -/
def execMatrixInstructionComplete (gid : Nat) (s : State) : Out := .next (s.stepPipe gid)

/-- TILE_ROW_LANDING (R180): a row lands in its tile once no lock holds it off. -/
def execTileRowLanding (gid idx : Nat) (s : State) : Out :=
  match find s.groups gid with
  | none => .next s
  | some g =>
    match g.fills[idx]? with
    | none => .next s
    | some f =>
      if g.mayLand idx then .next (s.updG gid fun g => { g.setTileRow f.tile f.row f.words with fills := g.fills.eraseIdx idx }) else .next s

end Sys2Proof.Machine
end

