-- ==== Sys2Proof/Machine/Sync.lean ====
section
/-!
DEFINITION. `exit` and group retirement (R121), fences (R162), barriers and barrier objects (R163-R170), timelines, guards and launch
order (R171-R173), `trap`, `brk`, `swpt`, `yield`, `sleep` (R229-R231).
-/
namespace Sys2Proof.Machine
open Sys2Proof

/-! ### Convergence (R163) -/

/-- Holds the issuing path until every non-exited lane of the group stands at P, then acts once for all of them (R163). -/
def converge (it : Issue) (s : State) (act : Issue → State → State) : State :=
  let others := it.g.live &&& ~~~it.I
  if (lanesOf others).all fun l => it.g.pcOf l == it.pc && it.g.holdOf l == .converge then
    act { it with I := it.g.live, E := it.g.live } (s.updG it.gid fun g => g.setHold others .free)
  else s.updG it.gid fun g => g.setHold it.I .converge

/-- The lanes that parked the group go on after their instruction of `len` bytes. -/
def State.passWait (s : State) (gid len : Nat) : State :=
  s.updG gid fun g => g.setPc (g.issued g.waitPc) (asPc (g.waitPc + BitVec.ofNat 64 len))

/-! ### Fences (R162, R246, R248) -/

/-- Whether every earlier access of a group has been performed. -/
def State.accessesDone (s : State) (gid : Nat) (g : Group) : Bool :=
  !(s.sideLog g.cluster g.sp).any (fun e => e.gid = gid) && g.sideCount = 0 && g.replay.isEmpty && !g.pipeMem &&
  !(s.cluster g.cluster).pieces.any fun p => p.gid = gid && p.data.isNone

/-- Whether every earlier load of a group has been performed. -/
def State.readsDone (s : State) (gid : Nat) (g : Group) : Bool :=
  g.replay.isEmpty && !(g.pipe.any fun w => match w.instr with | .mldwMem _ => true | _ => false) &&
  !(s.cluster g.cluster).pieces.any fun p => p.gid = gid && p.data.isNone

/-- Whether every earlier load and atomic of a group has been performed: no reduction waits in the side log either. -/
def State.loadsDone (s : State) (gid : Nat) (g : Group) : Bool :=
  s.readsDone gid g && g.sideCount = 0 && !(s.sideLog g.cluster g.sp).any fun e => e.gid = gid && e.ops.any fun o => o.atop.isSome

/-- Whether every engine command of a group has completed. -/
def State.commandsDone (s : State) (gid : Nat) (g : Group) : Bool :=
  match s.launchOfG g with
  | none => true
  | some l => l.ctxs.all fun (e : Nat × Ctx) => e.2.cmds.all fun c => c.gid != gid

/-- Publishes what the group holds, once its accesses are performed (R253): whether that is done, with nothing of it back in the side log (R309), and the
state. -/
def State.releaseGroup (s : State) (gid : Nat) (g : Group) : Bool × State :=
  if !s.accessesDone gid g then (false, s)
  else let s1 := s.releaseParty g.cluster gid; (!s1.holdsAny g.cluster gid && s1.accessesDone gid g, s1)

/-- The release of a `barx` arrival (R166, R181, R253): what the pipe and the loads of the group access is performed, and what it holds is published. Its
entries of the side log are not waited for, since chapter 17's run arrives with one (R409): they hold back the phase's `barw` returns. -/
def State.releaseBarrier (s : State) (gid : Nat) (g : Group) : Bool × State :=
  if g.pipeMem || !s.readsDone gid g then (false, s)
  else let s1 := s.releaseParty g.cluster gid; (!s1.holdsAny g.cluster gid, s1)

/-- An acquire of a group at a scope (R253): copies below the scope are replaced, the program timestamp passes every one used. The L1 is the point
of scopes 0-3 itself, this device's home slices that of 4 and 5 (R251). -/
def State.acquireAt (s : State) (gid c scope : Nat) : State :=
  (if scope ≤ 3 then s else if scope ≤ 5 then { s.acquire c with devCopy := s.devCopy } else s.acquire c).passTs gid

/-- The acquire of a mast core: of its cluster, at a scope. -/
def State.acquireMast (s : State) (c scope : Nat) : State :=
  (if scope ≤ 3 then s else if scope ≤ 5 then { s.acquire c with devCopy := s.devCopy } else s.acquire c).passTsM c

/-- `fence.sc` of a group at a scope (R257): whether its conditions hold, and the state. -/
def State.fenceSc (s : State) (gid : Nat) (g : Group) (scope : Nat) : Bool × State :=
  if !s.commandsDone gid g then (false, s)
  else let r := s.releaseGroup gid g; if r.1 then (true, r.2.acquireAt gid g.cluster scope) else r

/-- A mast core's stall in place (R203, R406): the instruction issues again, events wait. -/
def State.mastRetry (s : State) (c : Nat) : State := s.updM c fun m => { m with wait := .retry }

/-- `fence.sc` (R162). -/
def execFenceSc (f : FenceForm) (s : State) : Out :=
  uniIssue s (.fenceSc f) f.sw f.g 4 {} true
    (fun it s1 => match s1.fenceSc it.gid it.g f.scope with | (true, s2) => it.past it.I s2 | (false, s2) => s2.stall it.gid .fence)
    fun c m s => .next (if m.ctxs.all fun (e : Nat × Ctx) => e.2.cmds.isEmpty then (s.acquireMast c f.scope).mastNext c 4 id else s.mastRetry c)
/-- `fence.rel` (R162). It publishes at every scope: a release synchronises whatever its scope is (R254, R255). -/
def execFenceRel (f : FenceForm) (s : State) : Out :=
  uniIssue s (.fenceRel f) f.sw f.g 4 {} true
    (fun it s1 => match s1.releaseGroup it.gid it.g with | (true, s2) => it.past it.I s2 | (false, s2) => s2.stall it.gid .fence)
    fun c _ s => .next (s.mastNext c 4 id)
/-- `fence.acq` (R162): it acts only at its own scope (R255). -/
def execFenceAcq (f : FenceForm) (s : State) : Out :=
  uniIssue s (.fenceAcq f) f.sw f.g 4 {} true
    (fun it s1 => if s1.loadsDone it.gid it.g then it.past it.I (s1.acquireAt it.gid it.g.cluster f.scope) else s1.stall it.gid .sideLog)
    fun c _ s => .next ((s.acquireMast c f.scope).mastNext c 4 id)

/-! ### Block barriers (R164) and supersteps (R170) -/

/-- Whether every group of a block has arrived at barrier n or has retired. -/
def State.barDone (s : State) (bid n : Nat) : Bool :=
  match find s.blocks bid with
  | none => false
  | some b =>
    let arr := getD b.bars n []
    (s.groupsOf bid).all fun e => e.2.phase == .retired || arr.contains e.1

/-- Opens barrier n of a block: the parked groups acquire and go on (R164). -/
def State.openBar (s : State) (bid n : Nat) : State :=
  match find s.blocks bid with
  | none => s
  | some b =>
    let s1 := s.updB bid fun b => { b with bars := del b.bars n }
    (getD b.bars n []).foldl (fun s gid =>
      match find s.groups gid with
      | some g => if g.waiting == .bar n then ((s.passWait gid 4).acquireAt gid g.cluster 3).wake gid else s
      | none => s) s1

/-- Opens every barrier of a block whose last missing group has retired (R164). -/
def State.settleBars (s : State) (bid : Nat) : State :=
  match find s.blocks bid with
  | none => s
  | some b => (b.bars.map fun (e : Nat × List Nat) => e.1).foldl (fun s n => if s.barDone bid n then s.openBar bid n else s) s

/-- Whether the retired groups of a launch have nothing left to publish: stores that wait in a side log or are held in an L1, commands (R259). -/
def State.launchQuiet (s : State) (lid : Nat) (l : Launch) : Bool :=
  (l.ctxs.all fun (e : Nat × Ctx) => e.2.cmds.all fun c => c.guard.isSome) &&
  s.clusters.all (fun (e : Nat × Cluster) =>
    (e.2.sideLogs.all fun (x : Nat × List SideLog) => x.2.all fun y => y.lid != lid) && e.2.l1held.all fun (h : Nat × Held) => s.lidOfParty h.2.party != lid) &&
  s.devHeld.all fun (h : Nat × Held) => s.lidOfParty h.2.party != lid

/-- The retired groups of a launch publish what they hold. -/
def State.publishRetired (s : State) (lid : Nat) : State :=
  s.groups.foldl (fun (s : State) (e : Nat × Group) => if e.2.phase == .retired && s.lidOf e.2 = lid then s.releaseParty e.2.cluster e.1 else s) s

/-- Whether every group of a launch on this device has arrived at its superstep or has retired, what the retired ones issued is published (R259),
and nothing of it is still to be placed. -/
def State.superDone (s : State) (lid : Nat) : Bool :=
  match find s.launches lid with
  | none => false
  | some l =>
    !l.superstep.isEmpty && s.launchQuiet lid l && (l.ctxs.all fun (e : Nat × Ctx) => e.2.items.isEmpty) && (l.gangs.all fun (e : Nat × Gang) => !e.2.queued) &&
    s.blocks.all fun (e : Nat × Block) => e.2.lid != lid || e.2.phase == .gone ||
      (s.groupsOf e.1).all fun x => x.2.phase == .retired || l.superstep.contains x.1

/-- Releases the superstep of a launch (R170): every arrived group acquires and goes on. -/
def State.openSuper (s : State) (lid : Nat) : State :=
  match find s.launches lid with
  | none => s
  | some l =>
    let s1 := s.updL lid fun l => { l with superstep := [] }
    l.superstep.foldl (fun s gid =>
      match find s.groups gid with
      | some g => if g.waiting == .superstep then ((s.passWait gid 4).acquireAt gid g.cluster 6).wake gid else s
      | none => s) s1

/-- Releases a superstep that is complete. -/
def State.closeSuper (s : State) (lid : Nat) : State :=
  let s1 := s.publishRetired lid
  if s1.superDone lid then s1.openSuper lid else s1

/-- Releases a superstep that a retirement has completed; with other devices taking part their arrivals come as GROUP_WAKE. -/
def State.settleSuper (s : State) (lid : Nat) : State :=
  match find s.launches lid with
  | none => s
  | some l => if l.record.ndev = 1 then s.closeSuper lid else s

/-- `bar` (R163, R164). -/
def execBar (f : BarForm) (s : State) : Out :=
  uniGroupOnly s (.bar f) f.sw f.g 4 {} true fun it s1 => converge it s1 fun it s2 =>
    match s2.fenceSc it.gid it.g 3 with
    | (false, s3) => s3.stall it.gid .sideLog
    | (true, s3) =>
      let s4 := s3.updB it.g.bid fun b => { b with bars := setD b.bars f.n (it.gid :: (getD b.bars f.n []).filter (· ≠ it.gid)) [] }
      if s4.barDone it.g.bid f.n then it.past it.I ((s4.openBar it.g.bid f.n).passTs it.gid) else s4.park it.gid (.bar f.n)

/-- `sstep` (R163, R170). -/
def execSstep (f : NForm) (s : State) : Out :=
  uniGroupOnly s (.sstep f) f.sw f.g 4 {} true fun it s1 =>
    match s1.launchOfG it.g with
    | none => s1
    | some l =>
      if !bit l.record.lflags 2 then s.raise it.gid 0x25 it.I it.pc 0#64 0#64
      else converge it s1 fun it s2 =>
        match s2.fenceSc it.gid it.g 6 with
        | (false, s3) => s3.stall it.gid .sideLog
        | (true, s3) =>
          let lid := s3.lidOf it.g
          let s4 := s3.updL lid fun l => { l with superstep := it.gid :: l.superstep.filter (· ≠ it.gid) }
          if l.record.ndev = 1 ∧ s4.superDone lid then it.past it.I ((s4.openSuper lid).acquireAt it.gid it.g.cluster 6) else s4.park it.gid .superstep

/-! ### Exit and retirement (R121, R177) -/

/-- What the retirement of a group sets in motion: the engine passes on once its pipe is empty, barriers and supersteps count it. -/
def State.afterRetire (s : State) (gid : Nat) (g : Group) : State :=
  let s1 := (if g.pipe.isEmpty then s.leaveEngine gid else s).dropInjection g
  let s2 := s1.settleBars g.bid
  let s3 := s2.settleSuper (s2.lidOf g)
  s3.scheduleAll g.cluster

/-- The group retires when no lane is both non-exited and non-helper (R121). -/
def State.retireCheck (s : State) (gid : Nat) : State :=
  match find s.groups gid with
  | none => s
  | some g =>
    if g.phase != .retired && g.live &&& ~~~g.helper == 0#32 then
      (s.updG gid fun g => { g.exitLanes g.live with phase := .retired, active := none, waiting := .nothing }).afterRetire gid g
    else s

/-- `exit` (R121). -/
def execExitI (f : NForm) (s : State) : Out :=
  laneIssue s (.exitI f) f.sw f.g 4 {} true fun it s1 =>
    let s2 := s1.updG it.gid fun g => (g.setPc it.I it.nextPc).leave it.E
    s2.retireCheck it.gid

/-! ### Barrier objects (R165-R169) -/

/-- A byte-counting barrier object (R165). -/
structure BarObj where
  pend : Int
  arr : Nat
  count : Nat
  phase : Nat
  valid : Bool
  overrun : Bool
  deriving DecidableEq, Repr

/-- The object at an offset of a block's scratchpad; a block that is not resident has no live one (R169). -/
def State.objAt (s : State) (b : Block) (off : Nat) : BarObj :=
  if b.phase ≠ .resident then { pend := 0, arr := 0, count := 0, phase := 0, valid := false, overrun := false } else
  let w (i : Nat) : Nat := ofBytes (s.spRead b (off + 4 * i) 4)
  { pend := sextInt 32 (w 0), arr := w 1 / 65536, count := w 1 % 65536, phase := w 2, valid := bit (w 3) 0, overrun := bit (w 3) 1 }

/-- Writes an object. -/
def State.setObj (s : State) (b : Block) (off : Nat) (o : BarObj) : State :=
  if b.phase ≠ .resident then s else
  s.spWrite b off (toBytes 4 (wrapNat 32 o.pend) ++ toBytes 4 (o.count % 65536 + 65536 * (o.arr % 65536)) ++ toBytes 4 o.phase
    ++ toBytes 4 ((if o.valid then 1 else 0) + (if o.overrun then 2 else 0)))

/-- What the bank's evaluation comes to (R167). -/
inductive ObjOutcome where
  | open_
  | completed
  | overran
  deriving DecidableEq, Repr

/-- The evaluation of R167. -/
def BarObj.eval (o : BarObj) : BarObj × ObjOutcome :=
  if o.arr = o.count ∧ o.pend = 0 then ({ o with phase := (o.phase + 1) % 2 ^ 32, arr := 0 }, .completed)
  else if o.arr > o.count ∨ (o.arr = o.count ∧ o.pend < 0) ∨ o.pend > 2 ^ 31 - 1 ∨ o.pend < -(2 ^ 31) then ({ o with overrun := true }, .overran)
  else (o, .open_)

/-- The key by which a `barw` names its object: block and offset. -/
def objKey (bid off : Nat) : Nat := bid * 2 ^ 20 + off

/-- The groups parked at a `barw` on an object that wait for a phase to end. -/
def State.waitersOf (s : State) (key phase : Nat) : List Nat :=
  (s.groups.filter fun (e : Nat × Group) => match e.2.waiting with | .barw k p => k = key && p.toNat = phase | _ => false).map (·.1)

/-- The groups parked at a `barw` on an object, whatever phase they wait for. -/
def State.barWaiters (s : State) (key : Nat) : List Nat :=
  (s.groups.filter fun (e : Nat × Group) => match e.2.waiting with | .barw k _ => k = key | _ => false).map (·.1)

/-- Whether an arrival counted at an object has accesses before it that still wait in the side log: no `barw` on the object returns before
they are performed (R259, log entry 125). -/
def State.owing (s : State) (key : Nat) : Bool := s.owes.any fun o => o.1 = key && !(s.waitingOf o.2.1 o.2.2).isEmpty

/-- Notes an arrival of a group at an object; those whose accesses have been performed are forgotten. -/
def State.oweAt (s : State) (key gid : Nat) : State :=
  { s with owes := (s.owes ++ [(key, gid, s.order)]).filter fun o => !(s.waitingOf o.2.1 o.2.2).isEmpty }

/-- Releases a waiter: it acquires and goes on (R168). -/
def State.releaseWaiter (s : State) (gid : Nat) : State :=
  match find s.groups gid with
  | some g => ((s.passWait gid 4).acquireBy gid g.cluster).wake gid
  | none => s

/-- A waiter takes a fault (R166-R169); behind an undelivered event of its group the fault waits with its lanes held (R329). ADDR is the owner's
offset of the object, for one reached through the gang window too (DESIGN CHOICE, log entry 39). -/
def State.failWaiter (s : State) (code key gid : Nat) : State :=
  match find s.groups gid with
  | some g =>
    let r := faultRec code (g.issued g.waitPc) g.waitPc (BitVec.ofNat 64 (key % 2 ^ 20)) 0#64 s.clk
    (if g.event.isSome then s.updG gid fun g => { g with late := g.late ++ [r] }.setHold r.lanes (.event code g.waitPc false)
     else s.post gid r g.waitPc).wake gid
  | none => s

/-- Stores an object after an operation or landing, evaluates it and acts on its waiters (R167). -/
def State.evalObj (s : State) (b : Block) (bid off : Nat) (o : BarObj) : State :=
  let r := o.eval
  let s1 := s.setObj b off r.1
  let key := objKey bid off
  match r.2 with
  | .open_ => s1
  | .completed => (s1.waitersOf key o.phase).foldl (fun s g =>
      if s1.owing key then s.updG g fun x => { x with waiting := .barDone key } else s.releaseWaiter g) s1
  | .overran => (s1.waitersOf key o.phase).foldl (fun s g => s.failWaiter 0x20 key g) s1

/-- The block that a block object stands for, by its member identity: its key. -/
def State.bidOf (s : State) (b : Block) : Nat :=
  match s.blocks.find? fun (e : Nat × Block) => e.2.lid = b.lid && e.2.blk = b.blk && e.2.cluster = b.cluster && e.2.phase == b.phase with
  | some e => e.1
  | none => 0

/-- The object that an address of a block names (R150, R165): its block's key, the block, its offset. -/
def State.objPlace (s : State) (b : Block) (a : Word) : Option (Nat × Block × Nat) :=
  match s.spPlace b (bit a.toNat 31) a 16 with
  | .ok (m, off) => some (s.bidOf m, m, off)
  | .error _ => none

/-- A landing of n bytes counted at an object (R156, R217): dropped where the object is not live or overran. -/
def State.countLanding (s : State) (b : Block) (a : Word) (n : Nat) : State :=
  match s.objPlace b a with
  | none => s
  | some (bid, m, off) =>
    let o := s.objAt m off
    if !o.valid || o.overrun then s else s.evalObj m bid off { o with pend := o.pend - n }

/-- A `barx` operation (R166): `range` accepts the operand, `op` is its effect; `rel` releases first, `init` and `inval` orphan waiters. -/
def barx (i : Instr) (sw : Fin 2) (gd : Fin 8) (u : Uses) (areg : Nat) (val : Group → Nat) (range : Nat → Bool) (fresh rel orphan : Bool)
    (op : Nat → BarObj → BarObj) (s : State) : Out :=
  uniGroupOnly s i sw gd 4 u true fun it0 s1 =>
    let go (it : Issue) (s2 : State) : State :=
      let a := it.g.sreg areg
      let v := val it.g
      if !range v then s.raise it.gid 0x02 it.I it.pc 0#64 0#64
      else
        match s2.objFault it.g a with
        | some (c, ad, d) => s.raise it.gid c it.I it.pc ad d
        | none =>
          match (s2.blockOf it.g).bind fun b => s2.objPlace b a with
          | none => s2
          | some (bid, m, off) =>
            if m.phase == .resident && s2.spPoison m off 16 then it.past it.I ((s2.countWord m.cluster 1).lateFault (s2.whoOf it.gid it.g) 0x40 it.I it.pc (a.setWidth 64) 0#64 true)
            else
              let o := s2.objAt m off
              if !fresh && !o.valid then s.raise it.gid 0x21 it.I it.pc (a.setWidth 64) 0#64
              else if !fresh && o.overrun then s.raise it.gid 0x20 it.I it.pc (a.setWidth 64) 0#64
              else
                match (if rel then s2.releaseBarrier it.gid it.g else (true, s2)) with
                | (false, s3) => s3.stall it.gid .sideLog
                | (true, s3) =>
                  let key := objKey bid off
                  let s3 := if rel then s3.oweAt key it.gid else s3
                  let s4 := if orphan && o.valid then (s3.waitersOf key o.phase).foldl (fun s g => s.failWaiter 0x21 key g) s3 else s3
                  let s5 := if fresh then s4.updB bid fun b => { b with objects := if b.objects.contains off then b.objects else off :: b.objects } else s4
                  it.past it.I (s5.evalObj m bid off (op v o))
    if rel then converge it0 s1 go else go it0 s1

/-- The operand of `barx`. -/
def barxVal (f : BarxForm) (g : Group) : Nat := if f.i.val = 1 then f.b else (g.sreg f.b).toNat
/-- The registers of `barx` with an operand. -/
def barxUses (f : BarxForm) : Uses := { s := f.a.val :: (if f.i.val = 1 then [] else [f.b.val]) }

/-- `barx.init` (R166). -/
def execBarxInit (f : BarxForm) (s : State) : Out :=
  barx (.barxInit f) f.sw f.g (barxUses f) f.a (barxVal f) (fun v => decide (1 ≤ v ∧ v ≤ 65535)) true false true
    (fun v _ => { pend := 0, arr := 0, count := v, phase := 0, valid := true, overrun := false }) s
/-- `barx.expect` (R166). -/
def execBarxExpect (f : BarxForm) (s : State) : Out :=
  barx (.barxExpect f) f.sw f.g (barxUses f) f.a (barxVal f) (fun v => decide (v ≤ 0x7FFFFFFF)) false false false
    (fun v o => { o with pend := o.pend + v }) s
/-- `barx.arrive` (R166). -/
def execBarxArrive (f : AForm) (s : State) : Out :=
  barx (.barxArrive f) f.sw f.g { s := [f.a] } f.a (fun _ => 0) (fun _ => true) false true false (fun _ o => { o with arr := o.arr + 1 }) s
/-- `barx.arrexp` (R166). -/
def execBarxArrexp (f : BarxForm) (s : State) : Out :=
  barx (.barxArrexp f) f.sw f.g (barxUses f) f.a (barxVal f) (fun v => decide (v ≤ 0x7FFFFFFF)) false true false
    (fun v o => { o with pend := o.pend + v, arr := o.arr + 1 }) s
/-- `barx.inval` (R166). -/
def execBarxInval (f : AForm) (s : State) : Out :=
  barx (.barxInval f) f.sw f.g { s := [f.a] } f.a (fun _ => 0) (fun _ => true) false false true (fun _ o => { o with valid := false }) s

/-- `barw` (R168). -/
def execBarw (f : AbForm) (s : State) : Out :=
  uniGroupOnly s (.barw f) f.sw f.g 4 { s := [f.a, f.b] } true fun it s1 =>
    let a := it.g.sreg f.a
    match s1.objFault it.g a with
    | some (c, ad, d) => s.raise it.gid c it.I it.pc ad d
    | none =>
      match (s1.blockOf it.g).bind fun b => s1.objPlace b a with
      | none => s1
      | some (bid, m, off) =>
        if m.phase == .resident && s1.spPoison m off 16 then it.past it.I ((s1.countWord m.cluster 1).lateFault (s1.whoOf it.gid it.g) 0x40 it.I it.pc (a.setWidth 64) 0#64 true)
        else
          let o := s1.objAt m off
          if !o.valid then s.raise it.gid 0x21 it.I it.pc (a.setWidth 64) 0#64
          else if o.overrun then s.raise it.gid 0x20 it.I it.pc (a.setWidth 64) 0#64
          else if o.phase = (it.g.sreg f.b).toNat || s1.owing (objKey bid off) then s1.park it.gid (.barw (objKey bid off) (it.g.sreg f.b))
          else it.past it.I (s1.acquireBy it.gid it.g.cluster)

/-- A block's exit or kill clears its barrier objects; gang members that wait on one are orphaned (R169). -/
def State.orphanObjects (s : State) (bid : Nat) : State :=
  match find s.blocks bid with
  | none => s
  | some b =>
    b.objects.foldl (fun s off =>
      let s1 := s.setObj b off { s.objAt b off with valid := false }
      (s1.barWaiters (objKey bid off)).foldl (fun s g => s.failWaiter 0x21 (objKey bid off) g) s1) s

/-! ### Timelines (R171, R406) -/

/-- The number n that `tlwait` waits for. -/
def tlwNumber (f : TlwForm) (rd : Nat → Word) : Nat :=
  if f.i.val = 1 then f.b else if f.w.val = 1 then (pair (rd f.b) (rd (f.b + 1))).toNat else (rd f.b).toNat
/-- The registers of `tlwait`. -/
def tlwUses (f : TlwForm) : Uses := { s := f.a.val :: (if f.i.val = 1 then [] else regRun f.b (f.w.val + 1)) }

/-- The group that MGRP names, if it is resident (R25). -/
def State.mgrp (s : State) (c : Nat) : Option (Nat × Group) :=
  let m := (s.mast c).mgrp.toNat
  s.groups.find? fun e => e.2.residentAt c (bits m 1 0) && e.2.slot = bits m 6 2 &&
    (match s.blockOf e.2 with | some b => b.phase == .resident | none => false)

/-- The context that a mast core's `tlwait` or `tlread` names (R406), or the fault. -/
def State.mastTimeline (s : State) (c : Nat) (x : Word) (read : Bool) : Except Nat (Nat × Nat) :=
  let lctx := x.getLsbD 31
  let taken := x.getLsbD 30
  if (taken && (!lctx || !read)) || bits x.toNat 29 16 ≠ 0 then .error 0x02
  else
    let n := bits x.toNat 15 0
    if lctx then
      match s.mgrp c with
      | none => .error 0x22
      | some (_, g) => let own := s.lidOf g; if (s.ctx own n).isSome then .ok (own, n) else .error 0x22
    else if (s.ctx (mastOwner c) n).isSome then .ok (mastOwner c, n) else .error 0x22

/-- `tlwait` (R171, R406). -/
def execTlwait (f : TlwForm) (s : State) : Out :=
  uniIssue s (.tlwait f) f.sw f.g 4 (tlwUses f) true
    (fun it s1 =>
      let n := (it.g.sreg f.a).toNat
      match s1.ctx (s1.lidOf it.g) n with
      | none => s.raise it.gid 0x22 it.I it.pc 0#64 0#64
      | some x =>
        if tlwNumber f it.g.sreg ≤ x.counter then it.past it.I (s1.acquireBy it.gid it.g.cluster)
        else s1.park it.gid (.timeline n (tlwNumber f it.g.sreg)))
    fun c m s =>
      match s.mastTimeline c (m.sreg f.a) false with
      | .error code => .next (s.mastFault c code 0#64 0#64)
      | .ok (own, n) => match s.ctx own n with
        | none => .next s
        | some x => .next (if tlwNumber f m.sreg ≤ x.counter then (s.acquireMast c 6).mastNext c 4 id else s.mastRetry c)

/-- The words of a counter value. -/
def tlrWords (f : TlrForm) (n : Nat) : List Word :=
  if f.w.val = 1 then [BitVec.ofNat 32 n, BitVec.ofNat 32 (n / 2 ^ 32)] else [BitVec.ofNat 32 n]

/-- `tlread` (R171, R406). -/
def execTlread (f : TlrForm) (s : State) : Out :=
  uniIssue s (.tlread f) f.sw f.g 4 { s := f.a.val :: regRun f.d (f.w.val + 1) } true
    (fun it s1 =>
      match s1.ctx (s1.lidOf it.g) (it.g.sreg f.a).toNat with
      | none => s.raise it.gid 0x22 it.I it.pc 0#64 0#64
      | some x => it.past it.I ((s1.acquireBy it.gid it.g.cluster).bind it.gid (uniWrites f.d (tlrWords f x.counter))))
    fun c m s =>
      match s.mastTimeline c (m.sreg f.a) true with
      | .error code => .next (s.mastFault c code 0#64 0#64)
      | .ok (own, n) => match s.ctx own n with
        | none => .next s
        | some x => .next ((s.acquireMast c 6).mastNext c 4 fun m' => m'.setRun f.d (tlrWords f (if (m.sreg f.a).getLsbD 30 then x.taken else x.counter)))

/-! ### Guards and launch order (R172, R173) -/

/-- Sets guard slot n of a block: 0 unresolved, 1 true, 2 false. -/
def State.setGuard (s : State) (bid n v : Nat) : State := s.updB bid fun b => { b with guards := setD b.guards n v 0 }

/-- The heads of all contexts of a launch sample a resolved slot (R172). -/
def State.sampleAll (s : State) (lid : Nat) : State :=
  match find s.launches lid with
  | none => s
  | some l => (l.ctxs.map fun (e : Nat × Ctx) => e.1).foldl (fun s n => s.sampleHead lid n) s

/-- `gset` (R172). -/
def execGset (f : GsetForm) (s : State) : Out :=
  uniGroupOnly s (.gset f) f.sw f.g 4 { s := if f.i.val = 1 then [] else [f.b.val] } true fun it s1 =>
    let v : Nat := if f.i.val = 1 then f.b else (it.g.sreg f.b).toNat
    if s1.guardOf it.g.bid f.n ≠ 0 then s.raise it.gid 0x23 it.I it.pc 0#64 0#64
    else if v = 0 then it.past it.I ((s1.setGuard it.g.bid f.n 2).sampleAll (s1.lidOf it.g))
    else
      match s1.releaseGroup it.gid it.g with
      | (false, s2) => s2.stall it.gid .sideLog
      | (true, s2) => it.past it.I ((s2.setGuard it.g.bid f.n 1).sampleAll (s1.lidOf it.g))

/-- `gset.clr` (R172). -/
def execGsetClr (f : GclrForm) (s : State) : Out :=
  uniGroupOnly s (.gsetClr f) f.sw f.g 4 {} true fun it s1 => it.past it.I (s1.setGuard it.g.bid f.n 0)

/-- `sms` (R173, R278). -/
def execSms (f : NForm) (s : State) : Out :=
  uniGroupOnly s (.sms f) f.sw f.g 4 {} true fun it s1 => it.past it.I (s1.updL (s1.lidOf it.g) fun l => { l with sms := true })

/-- Whether the predecessor of a launch in its ring has yet to write its completion record (R173, R278). -/
def State.predecessorLive (s : State) (l : Launch) : Bool :=
  s.launches.any fun (e : Nat × Launch) => e.2.fn = l.fn && e.2.ring = l.ring && decide (e.2.index < l.index) && e.2.phase != .ended

/-- `waitpred` (R173). -/
def execWaitpred (f : NForm) (s : State) : Out :=
  uniGroupOnly s (.waitpred f) f.sw f.g 4 {} true fun it s1 =>
    match s1.launchOfG it.g with
    | none => s1
    | some l => if s1.predecessorLive l then s1.park it.gid .predecessor else it.past it.I (s1.acquireBy it.gid it.g.cluster)

/-! ### Traps and the scheduler's instructions (R229-R231) -/

/-- `trap` and `brk` (R230): the non-helper lanes of I are held at P and one event goes to the mast core; with an event of the group
still undelivered the path stalls: nothing changes (R329). -/
def trapLike (i : Instr) (f : TrapForm) (code : Nat) (s : State) : Out :=
  uniGroupOnly s i f.sw f.g 4 {} true fun it s1 =>
    if it.g.event.isSome then s
    else
      let lanes := it.I &&& ~~~it.g.helper
      let v : Word := BitVec.ofNat 32 (f.n + (if it.g.gstat.getLsbD stSliced then 256 else 0))
      let s2 := it.past (it.I &&& it.g.helper) s1
      s2.post it.gid { faultRec code lanes it.pc 0#64 0#64 s.clk with value := v } it.nextPc

/-- `trap` (R230). -/
def execTrap (f : TrapForm) (s : State) : Out := trapLike (.trap f) f 0x51 s
/-- `brk` (R229, R230). -/
def execBrk (f : TrapForm) (s : State) : Out := trapLike (.brk f) f 0x50 s

/-- Whether `swpt n` at P is the switch point that a posted request waits for (R231). -/
def State.swptRequested (s : State) (g : Group) (n : Nat) (P : DWord) : Bool :=
  match s.blockOf g with
  | none => false
  | some b => b.request.isSome && (match s.launchOf b with
    | none => false
    | some l => (l.variantOf b).swpts.any fun p => p.1 = n && l.kernel.code + p.2.2.1 = P.toNat)

/-- `swpt` (R231): it always carries the switch marker. -/
def execSwpt (f : SwptForm) (s : State) : Out :=
  uniGroupOnly s (.swpt f) (1 : Fin 2) f.g 4 {} true fun it s1 =>
    if s1.swptRequested it.g f.n it.pc then s1.park it.gid (.swpt f.n) else it.past it.I s1

/-- `yield` (R229). -/
def execYield (f : NForm) (s : State) : Out :=
  uniGroupOnly s (.yield f) f.sw f.g 4 {} true fun it s1 => (it.past it.I s1).yieldTo it.gid

/-- `sleep` (R229): a group parks for at least 64 × v clk; a mast core stalls until an event, MTIME or the interval. -/
def execSleep (f : SleepForm) (s : State) : Out :=
  let v (rd : Nat → Word) : Nat := if f.i.val = 1 then f.b else (rd f.b).toNat
  uniIssue s (.sleep f) f.sw f.g 4 { s := if f.i.val = 1 then [] else [f.b.val] } true
    (fun it s1 => if v it.g.sreg = 0 then it.past it.I s1 else s1.park it.gid (.sleep (s.clk + 64 * v it.g.sreg)))
    fun c m s => .next (s.mastNext c 4 fun m' =>
      { m' with wait := .sleep (if v m.sreg = 0 then none else some (s.clk + 64 * v m.sreg)) })

/-- SLEEP_EXPIRY (R229): the interval of a parked group has passed. -/
def execSleepExpiry (gid : Nat) (s : State) : Out :=
  match find s.groups gid with
  | none => .next s
  | some g => match g.waiting with
    | .sleep t => .next (if t ≤ s.clk then (s.passWait gid 4).wake gid else s)
    | _ => .next s

/-! ### Waking (R289, R294) -/

/-- Whether what a parked group waits for has come about. -/
def State.wakeable (s : State) (gid : Nat) (g : Group) : Bool :=
  (g.phase == .aPark || g.phase == .pPark) &&
  match g.waiting with
  | .results => !swWaits (1 : Fin 2) g g.waitPc
  | .timeline n k => (match s.ctx (s.lidOf g) n with | some x => decide (k ≤ x.counter) | none => true)
  | .predecessor => (match s.launchOfG g with | some l => !s.predecessorLive l | none => true)
  | .room n => (match s.ctx (s.lidOf g) n with | some x => decide (x.items.length < x.room) | none => true)
  | .engine => (s.engine g.cluster g.sp).holder == some gid
  | .replayRoom => decide (g.replay.length < 16)
  | .sideLog => g.sideCount = 0
  | .barw key p => (match find s.blocks (key / 2 ^ 20) with
    | some b => let o := s.objAt b (key % 2 ^ 20); !o.valid || o.overrun || (o.phase != p.toNat && !s.owing key)
    | none => false)
  | .barDone key => !s.owing key
  | .nothing => true
  | _ => false

/-- GROUP_WAKE (R289, R294): the event that a parked group waits for arrives. For a superstep it is that what retired groups issued is published
(R259), and with other devices the report that the last of them has arrived (R170). -/
def execGroupWake (gid : Nat) (s : State) : Out :=
  match find s.groups gid with
  | none => .next s
  | some g =>
    if g.waiting == .superstep then .next (s.closeSuper (s.lidOf g))
    else if !s.wakeable gid g then .next s
    else .next (match g.waiting with | .barDone _ => s.releaseWaiter gid | _ => s.wake gid)

/-- STARVATION_SWAP (R293): a ready group that has waited 16,384 clk takes the place of the longest active one. -/
def execStarvationSwap (c sp : Nat) (s : State) : Out :=
  let active := s.groups.filter fun (e : Nat × Group) => e.2.residentAt c sp && e.2.inActive
  if active.any fun e => e.2.phase == .aPark then .next s
  else
    let oldest := active.foldl (fun best e =>
      match best with
      | none => some e
      | some b => if decide (e.2.entered < b.2.entered) then some e else some b) (none : Option (Nat × Group))
    match oldest with
    | none => .next s
    | some o =>
      let starved := (s.groups.filter fun (e : Nat × Group) => s.promotable c sp o.1 e && decide (e.2.since + 16384 < s.clk)).foldl (fun best e =>
        match best with
        | none => some e
        | some b => if s.promotedBefore e b then some e else some b) (none : Option (Nat × Group))
      match starved with
      | none => .next s
      | some e =>
        let s1 := s.updG o.1 fun g => { g.dropTransient with phase := .pReady false, active := none, since := s.clk }
        .next (s1.promote e.1 (o.2.active.getD 0))

end Sys2Proof.Machine
end

