-- ==== Sys2Proof/Machine/MemEvents.lean ====
section
/-!
DEFINITION. The steps of the memory system's own agents (R158, R159, R300, R308-R321, R379): results that return, walks, replays, swap
pairs, evictions, the fault unit's registers and the maintenance operations.
-/
namespace Sys2Proof.Machine
open Sys2Proof

/-! ### Results and late faults -/

/-- Writes one returned result: a lane that has exited discards it (R139). -/
def Group.landWrite (g : Group) (w : Dest × Word) : Group :=
  match w.1 with
  | .vec l r => if g.exited.getLsbD l then g else g.setV l r w.2
  | .uni r => g.setS r w.2

/-- Whether a `gsave` of a block runs: its state stays as it is (R37). -/
def State.dumping (s : State) (bid : Nat) : Bool :=
  match find s.blocks bid with
  | some b => (match b.saving with | some (reason, _) => decide (5 ≤ reason) | none => false)
  | none => false

/-- LOAD_RESULT_RETURN (R54, R55): an outstanding result is written. -/
def execLoadResultReturn (gid idx : Nat) (s : State) : Out :=
  match find s.groups gid with
  | none => .next s
  | some g =>
    match g.pending[idx]? with
    | none => .next s
    | some p =>
      if s.dumping g.bid then .next s
      else .next ((s.updG gid fun g => p.writes.foldl Group.landWrite { g with pending := g.pending.eraseIdx idx }).unparkResults gid)

/-- ACCESS_FAULT_RETURN (R158): a fault that waits behind another of its group takes its place once that one is delivered. -/
def execAccessFaultReturn (gid : Nat) (s : State) : Out :=
  match find s.groups gid with
  | none => .next s
  | some g =>
    match g.event, g.late with
    | none, r :: rest => .next ((s.updG gid fun g => { g with late := rest }).raiseLate gid r.code r.lanes r.pc r.addr r.detail)
    | _, _ => .next s

/-! ### Attributes and walks -/

/-- CTB_REFILL (R157, R308): a page's attributes arrive. -/
def execCtbRefill (c asid va : Nat) (s : State) : Out := .next (s.attrs c asid va).2

/-- HELD_FAULT_ADMIT (R315, R321): the oldest held fault takes a slot that has freed, or joins an entry of its page made meanwhile. -/
def execHeldFaultAdmit (d : Nat) (s : State) : Out :=
  let x := s.die d
  match x.heldFaults with
  | [] => .next s
  | e :: rest =>
    .next (if (x.joined e).isSome || x.slotFree then (s.updD d fun x => { x with heldFaults := rest }).enterFault d e else s)

/-! ### Replays (R159, R248, R316) -/

/-- The group that holds the place of a side-log entry or parked load among the accesses of saved blocks: whether a parked load that a save holds
stands before it (R246, R248). -/
def State.savedBefore (s : State) (gid seq : Nat) : Bool :=
  match find s.blocks (gid / 32) with
  | some b => b.parkedSeqs.any fun e => e.1 / 16 = gid % 32 && decide (e.2 < seq)
  | none => false

/-- Whether entry k of a side log may replay: no earlier entry of its group or page, and no earlier access of its group whose order with one of its own
is kept (R159, R248). -/
def State.logReady (s : State) (log : List SideLog) (k : Nat) : Bool :=
  match log[k]? with
  | none => false
  | some e =>
    !((log.take k).any fun x => x.gid = e.gid || (x.page = e.page && decide (x.page < 2 ^ 56) && x.asid = e.asid)) && !s.savedBefore e.gid e.seq &&
    !(s.waitingOf e.gid e.seq).any fun x => e.accs.any fun y => x.keeps y

/-- Adds an entry to a launch's failure list (R395). -/
def State.addFailure (s : State) (lid : Nat) (f : Failure) : State := s.updL lid fun l => { l with failures := l.failures ++ [f] }

/-- Failed lanes of a side-log entry, those of the whole group for a uniform store (R202, R316, R395): the code goes to its group if resident, else a failure of KIND 3 is recorded for its
item. -/
def State.failLogged (s : State) (w : Who) (e : SideLog) (lanes : Word) (code addr detail : Nat) : State :=
  let lanes := if e.whole = 0#32 then lanes else e.whole
  if (find s.groups e.gid).isSome then s.lateFault w code lanes e.pc (BitVec.ofNat 64 addr) (BitVec.ofNat 64 detail) (e.whole != 0#32)
  else
    let b := find s.blocks e.bid
    s.addFailure e.lid
      { num := (match b with | some b => b.item | none => 0), gang := (match b with | some b => b.gang | none => 0), ctx := 0, kind := 3, code := code
        pc := e.pc.toNat, addr := addr, save := 0, lanes := lanes.toNat, blk := (match b with | some b => b.blk | none => 0) }

/-- The party of a side-log entry, its group resident or not. -/
def State.logWho (s : State) (c sp : Nat) (e : SideLog) : Who :=
  { gid := e.gid, c := c, sp := sp, bid := e.bid, lid := e.lid
    asid := match find s.launches e.lid with | some l => l.asid | none => e.asid
    world := match find s.launches e.lid with | some l => l.record.world | none => 0 }

/-- What the replay of a side-log entry has come to: the accesses that still wait, the first failure (code, address, detail), the failed
lanes. -/
structure Replay where
  s : State
  left : List SideOp := []
  failed : Option (Nat × Nat × Nat) := none
  lanes : Word := 0#32
  deriving DecidableEq, Repr

/-- Whether the page of an access still waits for the fault unit: its entry is unresolved, or a swap pair moves it (R315-R318). -/
def State.pageMoves (s : State) (asid va : Nat) : Bool := s.pageFaulted asid va || s.swapping (canonAsid asid va) va

/-- A scratchpad or gang-window store of a side-log entry at its bank (R248): it waits while its block is saved, and a block that is gone has
no bank for it. -/
def State.bankReplay (s : State) (e : SideLog) (o : SideOp) : Acc × State :=
  match find s.groups e.gid, find s.blocks e.bid with
  | some g, some b =>
    if b.phase ≠ .resident then (.wait, s)
    else match o.atop with
      | none => s.spStore e.gid g (o.space = 2) (BitVec.ofNat 32 o.addr) (toBytes o.size o.y)
      | some op => s.spAtomic e.gid g (o.space = 2) (BitVec.ofNat 32 o.addr) (if o.size = 8 then 3 else 2) op o.y o.y2
  | none, some b => (if b.phase = .gone then .ok [] else .wait, s)
  | _, none => (.ok [], s)

/-- One access of a side-log entry, behind an earlier one of it that still waits (R142). It has joined its page's fault entry once and waits
while that is unresolved (R315, R316). -/
def Replay.op (r : Replay) (w : Who) (e : SideLog) (o : SideOp) : Replay :=
  let out :=
    if !r.left.isEmpty then (Acc.wait, r.s)
    else if o.space ≠ 0 then r.s.bankReplay e o
    else if r.s.pageMoves w.asid o.addr then (Acc.wait, r.s) else match o.atop with
      | none => r.s.storeHome w e.seq o.addr (toBytes o.size o.y) e.stream e.rel
      | some op => r.s.atomicNow w o.addr (if o.size = 8 then 3 else 2) op o.y o.y2 6 false
  match out with
  | (.ok _, s1) => { r with s := s1 }
  | (.wait, s1) => { r with s := s1, left := r.left ++ [o] }
  | (.fail c d, s1) => { r with s := s1, failed := (match r.failed with | some f => some f | none => some (c, o.addr, d)), lanes := r.lanes ||| laneBit o.lane }

/-- An entry leaves its side log, or stays with the accesses that still wait; a restored group's count falls (R246). -/
def State.settleEntry (s : State) (c sp : Nat) (e : SideLog) (left : List SideOp) : State :=
  let is (x : SideLog) : Bool := x.gid = e.gid && x.seq = e.seq && x.page = e.page && x.pc = e.pc
  let log := (s.sideLog c sp).flatMap fun x => if !is x then [x] else if left.isEmpty then [] else [{ x with ops := left }]
  let s1 := s.updC c fun x => { x with sideLogs := setD x.sideLogs sp log [] }
  if left.isEmpty then s1.updG e.gid fun g => { g with sideCount := g.sideCount - 1 } else s1

/-- Whether the load-replay area and the side-log entries of a group are poisoned (R378). -/
def State.entriesPoisoned (s : State) (gid : Nat) : Bool := match find s.groups gid with | some g => g.errs.contains .waiting | none => false

/-- Replays entry k of a side log if its turn has come. A poisoned entry performs nothing: F_ECC_UNCORRECTED (R381). -/
def State.replayEntry (s : State) (c sp k : Nat) : State :=
  let log := s.sideLog c sp
  match log[k]? with
  | none => s
  | some e =>
    if !s.logReady log k then s
    else
      let w := s.logWho c sp e
      let lost := e.bad || s.entriesPoisoned e.gid
      let r0 : Replay := { s := s.bindPieces w e.seq }
      let r : Replay := if lost then { r0 with s := r0.s.countWord c 1, failed := some (0x40, 0, 0), lanes := maskOf fun l => e.ops.any fun o => o.lane = l }
        else e.ops.foldl (fun (r : Replay) o => r.op w e o) r0
      let s1 := match r.failed with
        | some (code, a, d) => r.s.failLogged w e r.lanes code a d
        | none => r.s
      let done := (e.ops.filter fun o => o.space = 0 && !r.left.contains o).map (·.addr)
      (s1.settleHints s w done (match e.ops with | o :: _ => o.size | [] => 1) e.stream 6 0 0 e.pol false).settleEntry c sp e r.left

/-- One parked access of a lane, performed unless its page still waits or it must wait behind another (R31, R248, R315, R316). -/
def Ran.again (r : Ran) (w : Who) (l : Nat) (y : AccOp) (ws : List Byte → List (Dest × Word)) (f : State → Acc × State) : Ran :=
  r.load w l y ws fun s => if y.space = 0 && s.pageMoves w.asid y.va then (.wait, s) else f s

/-- Performs the access of lane l of a parked load (R31). The operands of an atomic are read from the registers now: a replay entry holds none, and
when they are read the spec leaves open (DESIGN CHOICE, log entry 126). -/
def Ran.redo (r : Ran) (w : Who) (p : Parked) (l va tick : Nat) : Ran :=
  let g := (find r.s.groups w.gid).getD { bid := w.bid, num := 0, cluster := w.c, sp := w.sp, slot := 0 }
  let glob (i : Instr) (size : Nat) (stream : Bool) (scope : Nat) (pol : Nat) (ws : List Byte → List (Dest × Word)) : Ran :=
    r.again w l (accAt i va) ws fun s => s.loadNow w va (nbytes size) stream scope (pol = 1) tick
  let bank (i : Instr) (size : Nat) (window : Bool) (ws : List Byte → List (Dest × Word)) : Ran :=
    r.again w l (accAt i va) ws fun s => s.spLoad w.gid g window (BitVec.ofNat 32 va) (nbytes size)
  let atom (i : Instr) (size op scope : Nat) (y : Nat × Nat) (ws : List Byte → List (Dest × Word)) : Ran :=
    r.again w l (accAt i va) ws fun s => s.atomicNow w va size op y.1 y.2 scope
  let batom (i : Instr) (size op : Nat) (window : Bool) (y : Nat × Nat) (ws : List Byte → List (Dest × Word)) : Ran :=
    r.again w l (accAt i va) ws fun s => s.spAtomic w.gid g window (BitVec.ofNat 32 va) size op y.1 y.2
  let vec (d : Nat) (signed : Bool) (size : Nat) (bs : List Byte) : List (Dest × Word) := vecWrites l d (loadWords size signed bs)
  let uni (d : Nat) (size : Nat) (bs : List Byte) : List (Dest × Word) := uniWrites d (loadWords size false bs)
  let row (i : Instr) (ta : Nat) (rd : State → Acc × State) : Ran := r.again w l (accAt i va) (fun _ => []) fun s => filling (rd s) w.gid ta l p.seq
  match decodeWords p.w0 p.w1 with
  | .ok i => (match i with
    | .ld f => glob i f.size (f.cls.val = 1) f.scope f.pol (vec f.d false f.size)
    | .lds f => glob i f.size (f.cls.val = 1) f.scope f.pol (vec f.d true f.size)
    | .ldacq f => r.again w l (accAt i va) (vec f.d false f.size) fun s => s.acquireNow w va (nbytes f.size) (f.cls.val = 1) f.scope
    | .ldbc f => glob i f.size (f.cls.val = 1) f.scope f.pol fun bs => (lanesOf p.lanes).flatMap fun l => vecWrites l f.d (loadWords f.size false bs)
    | .sld f => glob i f.size (f.cls.val = 1) f.scope f.pol (uni f.d f.size)
    | .atom f => atom i f.size f.atop f.scope (atomOperands f.size f.atop (g.vreg l) f.d) (vec f.d false f.size)
    | .satom f => atom i f.size f.atop f.scope (atomOperands f.size f.atop g.sreg f.d) (uni f.d f.size)
    | .ldsh f => bank i f.size false (vec f.d false f.size)
    | .ldssh f => bank i f.size false (vec f.d true f.size)
    | .ldg f => bank i f.size true (vec f.d false f.size)
    | .sldsh f => bank i f.size false (uni f.d f.size)
    | .atsh f => batom i f.size f.atop false (atomOperands f.size f.atop (g.vreg l) f.d) (vec f.d false f.size)
    | .atg f => batom i f.size f.atop true (atomOperands f.size f.atop (g.vreg l) f.d) (vec f.d false f.size)
    | .satsh f => batom i f.size f.atop false (atomOperands f.size f.atop g.sreg f.d) (uni f.d f.size)
    | .tld f => row i f.ta fun s => s.readRow w va 8
    | .tldsh f => row i f.ta fun s => s.spLoad w.gid g (bit va 31) (BitVec.ofNat 32 va) 128
    | _ => r)
  | .error _ => r

/-- What R142 and R143 ask of the accesses of a parked load together: bytes of each, class, SCOPE, RC, GRAIN, POL, and whether it is a load; `none` for a
bank's. -/
def Parked.hints (p : Parked) : Option (Nat × Bool × Nat × Nat × Nat × Nat × Bool) :=
  let load (f : MForm) := some (nbytes f.size, decide (f.cls.val = 1), f.scope.val, f.rc.val, f.grain.val, f.pol.val, true)
  match decodeWords p.w0 p.w1 with
  | .ok (.ld f) => load f
  | .ok (.lds f) => load f
  | .ok (.ldacq f) => load f
  | .ok (.ldbc f) => load f
  | .ok (.sld f) => some (nbytes f.size, decide (f.cls.val = 1), f.scope.val, f.rc.val, f.grain.val, f.pol.val, true)
  | .ok (.atom f) => some (nbytes f.size, false, 6, 0, 0, f.pol.val, false)
  | .ok (.satom f) => some (nbytes f.size, false, 6, 0, 0, f.pol.val, false)
  | _ => none

/-- Whether a parked load is one that R142 makes one event where its lanes share a line. -/
def Parked.plain (p : Parked) : Bool := match decodeWords p.w0 p.w1 with | .ok (.ld _) => true | .ok (.lds _) => true | _ => false

/-- The accesses of some lanes of a parked load performed, those that need not wait. -/
def State.runParked (s : State) (w : Who) (g : Group) (p : Parked) (todo : List Nat) : Ran :=
  let va (l : Nat) : Nat := getD p.addrs l 0
  let vas := todo.map va
  let h := p.hints.getD (1, false, 6, 0, 0, 0, false)
  let s1 := if p.plain then s.gather w vas h.1 h.2.1 h.2.2.1 else s
  let r := todo.foldl (fun (r : Ran) l => r.redo w p l (va l) (if p.plain then tickOf vas h.1 (decide (todo.headD 0 = l)) else 1))
    { s := s1, before := p.seq, silent := if p.one then 0#32 else g.helper }
  let done := (todo.filter fun l => (find r.parked l).isNone).map va
  if p.hints.isNone then r
  else { r with s := r.s.settleHints s w done h.1 h.2.1 h.2.2.1 h.2.2.2.1 h.2.2.2.2.1 h.2.2.2.2.2.1 h.2.2.2.2.2.2 }

/-- Performs parked load idx of a group: the lanes whose page is there and that follow nothing that waits; the entry keeps the others. A fault
found now carries the entry's PC (R31, R158). What a restore owes is in the registers before the group issues (R31). -/
def State.replayParked (s : State) (gid idx : Nat) : State :=
  match find s.groups gid with
  | none => s
  | some g =>
    match g.replay[idx]? with
    | none => s
    | some p =>
      let w := s.whoOf gid g
      if s.dumping g.bid then s
      else if s.entriesPoisoned gid then
        let s1 := (s.countWord g.cluster 1).updG gid fun g => { g with replay := g.replay.eraseIdx idx }
        (s1.lateFault w 0x40 p.lanes p.pc 0#64 0#64 (bit p.w0 31)).unparkResults gid
      else
        let lanes := lanesOf (p.lanes &&& (if p.one then BitVec.allOnes 32 else g.live))
        let todo := if p.one then lanes.take 1 else lanes
        let r := s.runParked w g p todo
        let left : Word := maskOf fun l => (find r.parked l).isSome
        let keep (q : Parked) : Parked := { q with lanes := left, addrs := q.addrs.filter fun (a : Nat × Nat) => left.getLsbD a.1 }
        let rest (q : List Parked) : List Parked := if r.parked.isEmpty then q.eraseIdx idx else if p.one then q else q.modify idx keep
        let s0 := r.s.updG gid fun g => { g with replay := rest g.replay }
        let s1 := if p.restored then s0.updG gid fun g => r.writes.foldl Group.landWrite g else s0.bind gid r.writes
        let uniform := bit p.w0 31
        let s2 := match r.failed with
          | some (c, a, d) => s1.lateFault w c (if p.one then p.lanes else r.failLanes) p.pc (BitVec.ofNat 64 a) (BitVec.ofNat 64 d) uniform
          | none => if r.failLanes = 0#32 then s1 else s1.updG gid fun g => g.leave r.failLanes
        s2.unparkResults gid

/-- PARKED_LOAD_REPLAY (R159): a parked load is performed once its page is mapped. -/
def execParkedLoadReplay (gid idx : Nat) (s : State) : Out := .next (s.replayParked gid idx)

/-- Whether a global access touches a page. -/
def AccOp.onPage (y : AccOp) (asid page psize : Nat) (own : Nat) : Bool :=
  y.space = 0 && canonAsid own y.va = asid && decide (y.va < page + psize) && decide (page < y.va + y.n)

/-- Whether an access waits for an entry of die d for a page: a sector of it on the page has its home there (R316, R321). -/
def AccOp.waitsFor (y : AccOp) (d asid page psize own : Nat) : Bool :=
  y.onPage asid page psize own && (sectorsOf y.va y.n).any fun p => decide (page ≤ p.1) && decide (p.1 < page + psize) && homeDie asid p.1 = d

/-- The parked loads and side-log entries that wait for a page: place in the order, and which. -/
def State.waitersOn (s : State) (asid page psize : Nat) : List (Nat × (Nat × Nat × Nat)) :=
  s.groups.flatMap (fun (e : Nat × Group) => (e.2.replay.filter fun p => p.accs.any fun y => y.onPage asid page psize (s.asidOf e.2)).map
    fun p => (p.seq, (0, e.1, 0)))
  ++ s.clusters.flatMap fun (e : Nat × Cluster) => e.2.sideLogs.flatMap fun (l : Nat × List SideLog) =>
    (l.2.filter fun x => x.accs.any fun y => y.onPage asid page psize (s.logWho e.1 l.1 x).asid).map fun x => (x.seq, (1, e.1, l.1))

/-- Replays one waiter of a page by its place. -/
def State.replayWaiter (asid page psize : Nat) (s : State) (w : Nat × (Nat × Nat × Nat)) : State :=
  match w with
  | (seq, 0, gid, _) => (match find s.groups gid with
    | some g => (match g.replay.findIdx? (fun p => p.seq = seq) with | some i => s.replayParked gid i | none => s)
    | none => s)
  | (seq, _, c, sp) => (match (s.sideLog c sp).findIdx? (fun x => x.seq = seq && x.accs.any fun y => y.onPage asid page psize (s.logWho c sp x).asid) with | some i => s.replayEntry c sp i | none => s)

/-! ### Requests of other devices (R247, R301, R306) -/

/-- The address of a request: the line of the shared region, in ASID 0 (R306). -/
def FarReq.va (r : FarReq) : Nat := 0x00FF000000000000 + r.off

/-- Answers another device, with the timestamp that the access took. -/
def State.answerFar (s : State) (r : FarReq) (code : Nat) (bs : List Byte) (ts : Nat := 0) : State :=
  { s.sendFlit 1 r.device r.va with farAnswers := s.farAnswers ++ [{ device := r.device, code := code, data := bs, ts := ts }] }

/-- A request of another device is performed at this device's home slice, translated and faulted here (R306): ordinary accesses take their place in
S at the line (R247); one whose page is on its way waits (R311). -/
def State.serveFar (s : State) (r : FarReq) : State :=
  let q (k : AccKind) : Req := { asid := 0, kind := some k, flags := 8, origin := 0x7FFF }
  let n := if r.kind = 3 then nbytes r.size else r.size
  if r.off + n > 2 ^ 48 then s.answerFar r 0x10 []
  else
    let s0 := if r.kind = 3 then s.forcePublish (2 ^ 11) 0 r.va else s
    -- the request carries its party's timestamp, the answer the one that the access took
    let stamped (bs : List Byte) (x : Nat × State) : Acc × Nat × State := (.ok bs, x.1, x.2)
    let other (x : Acc × State) : Acc × Nat × State := (x.1, 0, x.2)
    let got := if r.kind = 3 && s0.heldElsewhere (2 ^ 11) 0 r.va then (.wait, 0, s0) else match r.kind with
      | 1 => (match s0.homeRead (q .load) r.va n with | (.ok bs, s1) => stamped bs (s1.tsLoad 0 r.va r.ts) | x => other x)
      | 2 => (match s0.homeWrite (q .store) r.va (fitTo n r.data) with | (.ok bs, s1) => stamped bs (s1.tsStore 0 r.va r.ts) | x => other x)
      | _ => (match s0.homeRead (q .atomic) r.va n with
        | (.ok old, s1) =>
          (match s1.homeWrite (q .atomic) r.va (atomBytes r.size r.op old (ofBytes (r.data.take n)) (ofBytes ((r.data.drop n).take n))) with
          | (.ok _, s2) => stamped old (s2.tsStore 0 r.va r.ts)
          | x => other x)
        | x => other x)
    match got with
    | (.ok bs, ts, s1) => s1.answerFar r 0 bs ts
    | (.fail code _, _, s1) => s1.answerFar r code []
    | (.wait, _, s1) => { s1 with farWaits := s1.farWaits ++ [r] }
where
  /-- n bytes: the list, cut or filled with zeros. -/
  fitTo (n : Nat) (bs : List Byte) : List Byte := (bs ++ List.replicate n 0#8).take n

/-- Whether a request touches a page. -/
def FarReq.onPage (r : FarReq) (asid page psize : Nat) : Bool :=
  asid = 0 && decide (r.va < page + psize) && decide (page < r.va + (if r.kind = 3 then nbytes r.size else r.size))

/-- The requests of other devices that wait go on where their page no longer waits for the fault unit. -/
def State.replayFar (s : State) : State :=
  let ready (r : FarReq) : Bool := !s.pageMoves 0 r.va
  (s.farWaits.filter ready).foldl State.serveFar { s with farWaits := s.farWaits.filter fun r => !ready r }

/-- SIDE_LOG_REPLAY (R159, R248): the port replays, in order, the entries whose page is mapped; requests of other devices that waited for
what a group holds go on with them. -/
def execSideLogReplay (c sp : Nat) (s : State) : Out :=
  .next ((s.sideLog c sp).foldl (fun (s : State) e =>
    match (s.sideLog c sp).findIdx? (· == e) with
    | some k => s.replayEntry c sp k
    | none => s) s).replayFar

/-- Replays every waiter of a page in its original order (R248, R316, R317); one that faults again joins an entry anew. -/
def State.replayPage (s : State) (asid page psize : Nat) : State :=
  ((sortBy (fun a b => decide (a.1 ≤ b.1)) (s.waitersOn asid page psize)).foldl (State.replayWaiter asid page psize) s).replayFar

/-- PORT_WALK_COMPLETE (R308, R313): a walk's leaf comes to its port. Where the page is still away and no entry of it is open, its waiters are sorted
again. -/
def execPortWalkComplete (d asid va : Nat) (s : State) : Out :=
  let a := canonAsid asid va
  if homeDie a va ≠ d then .next s
  else
    let (w, s1) := s.portLeaf a va false
    match w with
    | .bad _ _ => .next s1
    | .leaf l => .next (if (sortLeaf l (s1.swapping a va)).isSome && !s1.pageMoves a va then s1.replayPage a (va / l.psize * l.psize) l.psize else s1)

/-! ### Swap pairs (R317, R318) -/

/-- Exchanges line i of two frames as stored: data, spare bits, poison; cached sectors follow their line; the memory-side
caches give both up. -/
def State.exchangeLine (s : State) (a b : Nat) : State :=
  let m := (List.range 128).foldl (fun (m : List Host.Cell) i =>
    Memory.write (Memory.write m (a + i) (Memory.read s.mem (b + i))) (b + i) (Memory.read s.mem (a + i))) s.mem
  { s with
    mem := m
    spare := setD (setD s.spare (a / 128) (getD s.spare (b / 128) {}) {}) (b / 128) (getD s.spare (a / 128) {}) {}
    memPoison := (List.range 8).foldl (fun (p : SMap Bool) i =>
      setD (setD p (a / 16 + i) (getD s.memPoison (b / 16 + i) false) false) (b / 16 + i) (getD s.memPoison (a / 16 + i) false) false) s.memPoison
    l2 := s.l2.map fun (e : Nat × Sector) =>
      if e.2.pa / 128 = a / 128 then (e.1, { e.2 with pa := b + e.2.pa % 128 })
      else if e.2.pa / 128 = b / 128 then (e.1, { e.2 with pa := a + e.2.pa % 128 }) else e }.mscDrop a |>.mscDrop b

/-- Whether a line in memory carries poison. -/
def State.linePoisoned (s : State) (pa : Nat) : Bool := (List.range 8).any fun i => getD s.memPoison (pa / 128 * 8 + i) false

/-- SWAP_PAIR_LINE (R317, R318): the next line of a die's swap pair is exchanged. A poisoned line is reported with CAUSE 3. -/
def execSwapPairLine (d : Nat) (s : State) : Out :=
  match (s.die d).swap with
  | none => .next s
  | some w =>
    if w.done ≥ w.lines then .next s
    else
      let a := w.paH + 128 * w.done
      let b := w.paC + 128 * w.done
      let s1 := if s.linePoisoned a then (s.eccEvent a 1).faultEntry d w.asidH w.vaH (w.lines * 128) 3 0 0 else s
      let s2 := if s.linePoisoned b then (s1.eccEvent b 1).faultEntry d w.asidC w.vaC (w.lines * 128) 3 0 0 else s1
      .next ((s2.exchangeLine a b).updD d fun x => { x with swap := some { w with done := w.done + 1 } })

/-- An entry with bits [51:12] and [8:7] of another. -/
def mixLeaf (own other : Nat) : Nat :=
  let m := (2 ^ 52 - 2 ^ 12) + 0x180
  (own &&& (2 ^ 64 - 1 - m)) + (other &&& m)

/-- An ordinary store of the module to 8 bytes of a table: the write timestamps of the home lines that hold them move (R245). -/
def State.storeEntry (s : State) (pa x : Nat) : State :=
  let lines := ((s.l2.filter fun (e : Nat × Sector) => e.2.pa / 128 = pa / 128).map fun (e : Nat × Sector) => (e.1 / 2 ^ 52 % 65536, e.1 % 2 ^ 52 / 8 * 128)).eraseDups
  lines.foldl (fun (s : State) (l : Nat × Nat) => (s.tsStore l.1 l.2 0).2) (s.physWrite pa (toBytes 8 x))

/-- Exchanges the frames and residencies of two leaves of n entries (R317). -/
def State.exchangeLeaves (s : State) (eh ec n : Nat) : State :=
  (List.range n).foldl (fun (s : State) i =>
    let h := s.physRead (eh + 8 * i) 8
    let c := s.physRead (ec + 8 * i) 8
    (s.storeEntry (eh + 8 * i) (mixLeaf h c)).storeEntry (ec + 8 * i) (mixLeaf c h)) s

/-- Drops entries from a die's port TLBs. -/
def Die.tlbDrop (d : Die) (f : TlbEntry → Bool) : Die :=
  { d with tlb := d.tlb.map fun (e : Nat × List TlbEntry) => (e.1, e.2.filter fun x => !f x) }

/-- Drops a page from every port TLB. -/
def State.dropPage (s : State) (asid page psize : Nat) : State :=
  { s with dies := s.dies.map fun (e : Nat × Die) =>
      (e.1, e.2.tlbDrop fun x => x.asid = asid && decide (x.va < page + psize) && decide (page < x.va + x.leaf.psize)) }

/-- Sets RES in every CTB entry that holds a page. -/
def State.setRes (s : State) (asid page psize res : Nat) : State :=
  { s with clusters := s.clusters.map fun (e : Nat × Cluster) =>
      let ctb := e.2.ctb.map fun x => if !x.mast && x.asid = asid && decide (x.va < page + psize) && decide (page < x.va + x.psize) then { x with res := res } else x
      (e.1, { e.2 with ctb := ctb }) }

/-- SWAP_PAIR_COMPLETE (R317): leaves exchanged, TLBs and CTBs updated, the hot page's waiters replayed. -/
def execSwapPairComplete (d : Nat) (s : State) : Out :=
  match (s.die d).swap with
  | none => .next s
  | some w =>
    if w.done < w.lines then .next s
    else
      let n := w.lines * 128
      let contig := n = 65536
      let eh := if contig then w.entryH / 128 * 128 else w.entryH
      let ec := if contig then w.entryC / 128 * 128 else w.entryC
      let resH := bits (s.physRead eh 8) 8 7
      let resC := bits (s.physRead ec 8) 8 7
      let s1 := s.exchangeLeaves eh ec (if contig then 16 else 1)
      let s2 := (((s1.dropPage w.asidH w.vaH n).dropPage w.asidC w.vaC n).setRes w.asidH w.vaH n resC).setRes w.asidC w.vaC n resH
      let s3 := s2.updD d fun x => { x with swap := none, swapcnt := x.swapcnt + 1#64 }
      .next (s3.replayPage w.asidH w.vaH n)

/-! ### Caches (R255, R300, R379) -/

/-- Every version of a line that L2 holds. -/
def State.versionsOf (s : State) (asid va : Nat) : List Nat :=
  ((s.l2.filter fun (e : Nat × Sector) => e.1 / 2 ^ 52 % 65536 = asid && e.1 % 2 ^ 52 / 8 = va / 128).map fun (e : Nat × Sector) => e.1 / 2 ^ 68).eraseDups

/-- A line leaves its home slice in every version. -/
def State.evictHome (s : State) (asid va : Nat) : State :=
  ((s.versionsOf asid va).foldl (fun (s : State) v => s.evictLine v asid va) s).foldLease asid va

/-- CACHE_EVICTION (R251, R300): a line leaves an L1 (level 1), its stream stores published, or its home slice (level 2). -/
def execCacheEviction (level c asid line : Nat) (s : State) : Out :=
  let va := line * 128
  let a := canonAsid asid va
  .next (if level = 1 then (s.publishLine c a va).dropCopies c a va else s.evictHome a va)

/-- LEASE_RENEWAL (R300): the home compares a copy's write timestamp with the line's: equal, it extends the lease, of the line and of the copy, past
every program timestamp of the cluster; else it returns the line's data, where it holds them. -/
def execLeaseRenewal (c asid line : Nat) (s : State) : Out :=
  let va := line * 128
  let a := canonAsid asid va
  let ts := s.groups.foldl (fun m (e : Nat × Group) => if e.2.cluster = c then max m e.2.ts else m) (s.mast c).ts
  let t := s.lineTsOf a va
  .next (((s.cluster c).l1.filter fun (e : Nat × L1Line) => e.1 % 2 ^ 65 = lineKey a va).foldl (fun (s : State) (e : Nat × L1Line) =>
    let s1 := (s.tsLoad a va ts).2
    let lease := (s1.lineTsOf a va).lease
    if e.2.wts = t.wts then s1.updC c fun k => { k with l1 := put k.l1 e.1 { e.2 with lease := lease } }
    else
      let data := (List.range 8).filterMap fun i => (find s1.l2 (l2key (e.1 / 2 ^ 65) a (va + 16 * i))).bind fun x => if x.poison then none else some (i, x.data)
      s1.updC c fun k => { k with l1 := if data.isEmpty then del k.l1 e.1 else put k.l1 e.1 { e.2 with data := data, lease := lease, wts := t.wts, bad := 0 } }) s)

/-- FORCED_PUBLISH (R255): a narrow holder publishes what its parties stored, and the line. -/
def execForcedPublish (c asid line : Nat) (s : State) : Out :=
  let a := canonAsid asid (line * 128)
  let hs := (s.cluster c).l1held.filter fun (e : Nat × Held) => e.1 / 128 = l1key a (line * 128) / 128
  .next (hs.foldl (fun (s : State) (h : Nat × Held) => s.releaseParty c h.2.party) s)

/-! ### The memory-system control page (R310-R320) -/

/-- FBBASE_WRITE (R310): only a multiple of 131,072 is taken. -/
def execFbbaseWrite (d val : Nat) (s : State) : Out :=
  .next (if val % 131072 = 0 then s.updD d fun x => { x with fbbase := BitVec.ofNat 64 val } else s)

/-- FBTAIL_WRITE (R310, R315). -/
def execFbtailWrite (d val : Nat) (s : State) : Out := .next (s.updD d fun x => { x with fbtail := BitVec.ofNat 64 val })

/-- Sets MSSTAT.DROP (R312, R316). -/
def State.dropped (s : State) (d : Nat) : State := s.updD d fun x => { x with msstat := x.msstat ||| 16#64 }

/-- Ends the entry with a sequence number, if it is unresolved (R316). -/
def State.resolveEntry (s : State) (d seq : Nat) : Option (FbEntry × State) :=
  match (s.die d).entries.find? fun e => e.seq = seq && !e.resolved with
  | none => none
  | some e => some (e, s.updD d fun x => { x with entries := x.entries.map fun y => if y.seq = seq then { y with resolved := true } else y })

/-- RESOLVE_SUCCESS (R316): the page is walked again and its waiters are replayed. -/
def execResolveSuccess (d seq : Nat) (s : State) : Out :=
  match s.resolveEntry d seq with
  | none => .next (s.dropped d)
  | some (e, s1) => .next (s1.replayPage e.asid e.page e.psize)

/-- Fails the parked loads of a group on a page with a code (R158, R316): ADDR is the page, DETAIL the entry's SEQ (R407). -/
def State.failParked (s : State) (d code asid page psize seq : Nat) (gid : Nat) : State :=
  match find s.groups gid with
  | none => s
  | some g =>
    let w := s.whoOf gid g
    let hit (p : Parked) (va : Nat) : Bool := match decodeWords p.w0 p.w1 with
      | .ok i => (accessOf i va).any fun y => y.waitsFor d asid page psize w.asid
      | .error _ => false
    let bad (p : Parked) : Word := maskOf fun l => p.lanes.getLsbD l && hit p (getD p.addrs l 0)
    let s1 := s.updG gid fun g => { g with replay := (g.replay.map fun p => { p with lanes := p.lanes &&& ~~~bad p, addrs := p.addrs.filter fun a => !(bad p).getLsbD a.1 }).filter fun p => p.lanes != 0#32 }
    (g.replay.foldl (fun (s : State) p =>
      if bad p = 0#32 then s
      else s.lateFault w code (bad p) p.pc (BitVec.ofNat 64 page) (BitVec.ofNat 64 seq) (bit p.w0 31)) s1).unparkResults gid

/-- Drops the side-log entries of a page, each with its code (R316). -/
def State.failLogs (s : State) (d code asid page psize seq : Nat) : State :=
  s.clusters.foldl (fun (s : State) (c : Nat × Cluster) => c.2.sideLogs.foldl (fun (s : State) (l : Nat × List SideLog) =>
    l.2.foldl (fun (s : State) e =>
      let w := s.logWho c.1 l.1 e
      if e.accs.any fun y => y.waitsFor d asid page psize w.asid then
        (s.failLogged w e (e.ops.foldl (fun (m : Word) o => m ||| laneBit o.lane) 0#32) code page seq).settleEntry c.1 l.1 e []
      else s) s) s) s

/-- Marks the commands of a context whose pieces wait for a page as failed (R219, R316). -/
def Ctx.failWaiting (x : Ctx) (d code asid page psize : Nat) : Ctx :=
  { x with cmds := x.cmds.map fun c =>
      match c.waits.find? fun w => w.1 = asid && decide (page ≤ w.2) && decide (w.2 < page + psize) && homeDie asid w.2 = d with
      | some w => if c.failed.isNone then { c with failed := some (code, w.2), waits := [] } else c
      | none => c }

/-- Fails the engine pieces of every context that wait for a page. -/
def State.failEngines (s : State) (d code asid page psize : Nat) : State :=
  let fl (m : SMap Ctx) : SMap Ctx := m.map fun (e : Nat × Ctx) => (e.1, e.2.failWaiting d code asid page psize)
  { s with
    launches := s.launches.map fun (e : Nat × Launch) => (e.1, { e.2 with ctxs := fl e.2.ctxs })
    clusters := s.clusters.map fun (e : Nat × Cluster) => (e.1, { e.2 with mast := { e.2.mast with ctxs := fl e.2.mast.ctxs } }) }

/-- Fails the `ldasy` pieces that wait for a page: one fault for each instruction goes to its group (R158, R407). -/
def State.failPieces (s : State) (d code asid page psize seq : Nat) : State :=
  s.clusters.foldl (fun (s : State) (c : Nat × Cluster) =>
    let hit (p : Piece) : Bool := p.data.isNone && p.acc.waitsFor d asid page psize p.asid
    let s1 := s.updC c.1 fun k => { k with pieces := k.pieces.filter fun p => !hit p }
    let bad := c.2.pieces.filter hit
    (bad.map fun p => (p.gid, p.pc)).eraseDups.foldl (fun (s : State) p =>
      match find s.groups p.1 with
      | some g => s.lateFault (s.whoOf p.1 g) code ((bad.filter fun x => x.gid = p.1 && x.pc = p.2).foldl (fun (m : Word) x => m ||| laneBit x.lane) 0#32)
          p.2 (BitVec.ofNat 64 page) (BitVec.ofNat 64 seq)
      | none => s) s1) s

/-- A fetch of a group's path fails (R441): the lanes I at its PC are named and held. A path of helpers alone exits (R138); a group whose fetch consumes an
error is halted and its gang struck (R386, R387). -/
def State.fetchFail (s : State) (gid : Nat) (g : Group) (code : Nat) (I : Word) (pc addr detail : DWord) : State :=
  if I &&& ~~~g.helper = 0#32 then s.updG gid fun g => g.leave I
  else if code = 0x40 ∨ code = 0x36 then s.lateFault (s.whoOf gid g) code I pc addr detail true
  else s.raise gid code I pc addr detail

/-- Raises the code as a fetch fault on the paths whose fetch the page delays (R441): ADDR is that of the word that could not be fetched, PC the
instruction's (R42). -/
def State.failFetches (s : State) (d code asid page psize : Nat) : State :=
  s.groups.foldl (fun (s : State) (e : Nat × Group) =>
    (lanesOf e.2.live).foldl (fun (s : State) l =>
      match find s.groups e.1 with
      | none => s
      | some g =>
        let P := g.pcOf l
        if g.holdOf l ≠ .free then s
        else match (s.fetchGroup g P).1 with
          | .delayed va =>
            if canonAsid (s.asidOf g) va = asid ∧ page ≤ va ∧ va < page + psize ∧ homeDie asid va = d then s.fetchFail e.1 g code (g.issued P) P (BitVec.ofNat 64 va) 0#64 else s
          | _ => s) s) s

/-- Raises the code on the groups whose `tdecl` waits for the page (R362): ADDR is the page. -/
def State.failDecls (s : State) (d code asid page psize : Nat) : State :=
  s.groups.foldl (fun (s : State) (e : Nat × Group) =>
    match e.2.phase, e.2.waiting with
    | .aStall, .page a v =>
      if canonAsid a v = asid ∧ page ≤ v ∧ v < page + psize ∧ homeDie asid v = d then
        s.updG e.1 (fun g => { g with phase := .aReady, waiting := .nothing }) |>.raise e.1 code (e.2.issued e.2.waitPc) e.2.waitPc (BitVec.ofNat 64 page) 0#64
      else s
    | _, _ => s) s

/-- Where the stack access of a lane that calls or returns lies, if it spills or reloads. -/
def State.stackPlace (s : State) (g : Group) (l : Nat) : Option Nat :=
  if (g.stackOf l).length ≥ 8 then some (s.tlsOf g l + 8 * g.spillOf l)
  else if (g.stackOf l).isEmpty && g.spillOf l != 0 then some (s.tlsOf g l + 8 * (g.spillOf l - 1)) else none

/-- Fails the calls and returns whose stack access waits for the page (R120, R316): F_RETSTACK with the code as detail, or F_ECC_UNCORRECTED, which
halts the group (R158). -/
def State.failSpills (s : State) (d code asid page psize : Nat) : State :=
  s.groups.foldl (fun (s : State) (e : Nat × Group) =>
    e.2.spilling.foldl (fun (s : State) P =>
      let bad := maskOf fun l => (e.2.issued P).getLsbD l && (s.stackPlace e.2 l).any fun va =>
        ({ va := va, n := 8 } : AccOp).waitsFor d asid page psize (s.asidOf e.2)
      if bad = 0#32 then s
      else
        let s1 := (s.updG e.1 fun g => { g with spilling := g.spilling.erase P }).unparkResults e.1
        if stackCode code then
          let solid := bad &&& ~~~e.2.helper
          if solid = 0#32 then s1.updG e.1 fun g => g.leave bad
          else s1.raise e.1 0x07 (match s1.fetchGroup e.2 P with | (.words w _, _) => if bit w 31 then e.2.issued P else solid | _ => solid) P 0#64 (BitVec.ofNat 64 code)
        else s1.lateFault (s.whoOf e.1 e.2) code bad P (BitVec.ofNat 64 page) 0#64) s) s

/-- The yard cores that wait for the page to read a launch's parameters find it failed (R266). -/
def State.failYards (s : State) (d asid page psize : Nat) : State :=
  let hit (w : Nat × Nat × Nat) : Bool := canonAsid w.2.1 w.2.2 = asid && homeDie asid w.2.2 = d && decide (page ≤ w.2.2) && decide (w.2.2 < page + psize)
  { s with fns := s.fns.map fun (e : Nat × Fn) => (e.1, { e.2 with
      yardFails := e.2.yardFails ++ (e.2.yardWaits.filter hit).map fun w => w.1
      yardWaits := e.2.yardWaits.filter fun w => !hit w }) }

/-- The requests of other devices that wait for the page fail (R306, R316). -/
def State.failFar (s : State) (d code asid page psize : Nat) : State :=
  let hit (r : FarReq) : Bool := r.onPage asid page psize && homeDie asid r.va = d
  (s.farWaits.filter hit).foldl (fun (s : State) r => s.answerFar r code []) { s with farWaits := s.farWaits.filter fun r => !hit r }

/-- Drops the sectors of a page whose commit waited for it (R392): of the launches that commit, and of those whose shadows are committed because they
lost replayability (R391). -/
def State.failCommits (s : State) (d asid page psize : Nat) : State :=
  let hit (gk sec : Nat) : Bool := gk / 2 ^ 40 = asid && decide (page ≤ sec * 16) && decide (sec * 16 < page + psize) && homeDie asid (sec * 16) = d
  { s with launches := s.launches.map fun (e : Nat × Launch) =>
      if e.2.phase == .committing || !e.2.replayable then
        (e.1, { e.2 with shadows := e.2.shadows.map fun (x : Nat × Shadow) => (x.1, { x.2 with written := x.2.written.filter fun sec => !hit x.1 sec }) })
      else e }

/-- RESOLVE_FAIL (R316, R321): every waiter of the die's entry fails with the code. -/
def execResolveFail (d seq code : Nat) (s : State) : Out :=
  if code ≠ 0x10 ∧ code ≠ 0x11 ∧ code ≠ 0x35 ∧ code ≠ 0x40 then .next (s.dropped d)
  else
    match s.resolveEntry d seq with
    | none => .next (s.dropped d)
    | some (e, s1) =>
      let s2 := (s1.groups.map fun (x : Nat × Group) => x.1).foldl (fun (s : State) gid => s.failParked d code e.asid e.page e.psize seq gid) s1
      let s3 := ((s2.failLogs d code e.asid e.page e.psize seq).failEngines d code e.asid e.page e.psize).failPieces d code e.asid e.page e.psize seq
      .next ((((s3.failFetches d code e.asid e.page e.psize).failDecls d code e.asid e.page e.psize).failSpills d code e.asid e.page e.psize).failYards
        d e.asid e.page e.psize |>.failFar d code e.asid e.page e.psize |>.failCommits d e.asid e.page e.psize)

/-- VICTQ (R310): pushes a victim; ignored when 64 are queued. -/
def execVictq (d val : Nat) (s : State) : Out :=
  .next (if (s.die d).victq.length ≥ 64 then s else s.updD d fun x => { x with victq := x.victq ++ [BitVec.ofNat 64 val] })

/-- ECCPOP (R319): a read pops the oldest event. -/
def execEccpop (d : Nat) (s : State) : Out := .next (s.updD d Die.eccOut)

/-- BPLADD (R310, R320): appends a frame to its stack's bad-page list; a full list sets BPLFULL. -/
def execBpladd (d val : Nat) (s : State) : Out :=
  let fr := bits val 51 12 * 4096
  let st := (eccHome fr).2
  .next (s.updD d fun x =>
    let l := if st = 0 then x.bpl0 else x.bpl1
    if l.length ≥ 1024 then { x with msstat := x.msstat ||| 4#64 }
    else if st = 0 then { x with bpl0 := x.bpl0 ++ [fr] } else { x with bpl1 := x.bpl1 ++ [fr] })

/-- ASIDBASE_WRITE (R310): only a multiple of 8 MiB is taken. -/
def execAsidbaseWrite (d val : Nat) (s : State) : Out :=
  .next (if val % 2 ^ 23 = 0 then s.updD d fun x => { x with asidbase := BitVec.ofNat 64 val } else s)

/-! ### Maintenance operations (R312) -/

/-- Changes every die of the device. -/
def State.allDies (s : State) (f : Die → Die) : State := (List.range 16).foldl (fun (s : State) d => s.updD d f) s

/-- Whether a line of an ASID lies in a byte range. -/
def inRange (va a n : Nat) : Bool := decide (a ≤ va) && decide (va < a + n)

/-- What a maintenance operation does on every die. -/
def State.maintain (s : State) (op asid addr len : Nat) : State :=
  match op with
  | 1 =>
    let a := canonAsid asid addr
    s.allDies fun x => x.tlbDrop fun e => e.asid = a && addr / e.leaf.psize = e.va / e.leaf.psize
  | 2 => s.allDies fun x => { x.tlbDrop fun e => e.asid = asid with asids := del x.asids asid }
  | 3 => s.allDies fun x => { x with tlb := [] }
  | 4 =>
    let own (va : Nat) (tag : Nat) : Bool := inRange va addr len && tag = canonAsid asid va
    let s1 := (s.clusters.map fun (e : Nat × Cluster) => e.1).foldl (fun (s : State) c =>
      (s.publishIf c fun k _ => own (k % 2 ^ 56) (k / 2 ^ 56)).updC c fun k => { k with l1 := delIf k.l1 fun x => own (x % 2 ^ 49 * 128) (x / 2 ^ 49 % 65536) })
      { s.publishDev fun k _ => own (k % 2 ^ 56) (k / 2 ^ 56) with devCopy := delIf s.devCopy fun x => own (x % 2 ^ 56) (x / 2 ^ 56) }
    let lines := ((s1.l2.filter fun (e : Nat × Sector) => own (e.1 % 2 ^ 52 * 16) (e.1 / 2 ^ 52 % 65536)).map fun (e : Nat × Sector) =>
      (e.1 / 2 ^ 52 % 65536, e.1 % 2 ^ 52 * 16 / 128)).eraseDups
    lines.foldl (fun (s : State) l => s.evictHome l.1 (l.2 * 128)) s1
  | _ => s

/-- Starts a maintenance operation on every die (R312): a write while BUSY, or OP 4 with a misaligned range, sets DROP. -/
def State.startInv (s : State) (d op asid : Nat) : State :=
  let x := s.die d
  let addr := x.invaddr.toNat
  let len := x.invlen.toNat
  if x.inv.isSome ∨ op = 0 ∨ op > 4 ∨ (op = 4 ∧ (addr % 128 ≠ 0 ∨ len % 128 ≠ 0)) then s.dropped d
  else if op = 4 ∧ len = 0 then s
  else (s.maintain op asid addr len).allDies fun x => { x with inv := some (op, asid, addr, len) }

/-- INVCMD_DROP_PAGE (R312, OP 1). -/
def execInvcmdDropPage (d asid : Nat) (s : State) : Out := .next (s.startInv d 1 asid)
/-- INVCMD_DROP_ASID (R312, OP 2). -/
def execInvcmdDropAsid (d asid : Nat) (s : State) : Out := .next (s.startInv d 2 asid)
/-- INVCMD_DROP_ALL (R312, OP 3). -/
def execInvcmdDropAll (d asid : Nat) (s : State) : Out := .next (s.startInv d 3 asid)
/-- INVCMD_WRITEBACK_RANGE (R312, OP 4). -/
def execInvcmdWritebackRange (d asid : Nat) (s : State) : Out := .next (s.startInv d 4 asid)

/-- Whether an L1, or the home slice of another device's lines, still holds stores to lines of an ASID in a range. -/
def State.rangeHeld (s : State) (asid addr len : Nat) : Bool :=
  let own (e : Nat × Held) : Bool := inRange (e.1 % 2 ^ 56) addr len && e.1 / 2 ^ 56 = canonAsid asid (e.1 % 2 ^ 56)
  s.devHeld.any own || s.clusters.any fun (e : Nat × Cluster) => e.2.l1held.any own

/-- INVCMD_COMPLETE (R312): what the operation drops is gone everywhere, and BUSY clears on every die; a line of OP 4 whose stores cannot be
published yet keeps it set. -/
def execInvcmdComplete (d : Nat) (s : State) : Out :=
  match (s.die d).inv with
  | none => .next s
  | some (op, asid, addr, len) =>
    let s1 := s.maintain op asid addr len
    .next (if op = 4 && s1.rangeHeld asid addr len then s1 else s1.allDies fun x => { x with inv := none })

end Sys2Proof.Machine
end

