-- ==== Sys2Proof/Machine/EngineRun.lean ====
section
/-!
DEFINITION. What the engines do after issue (R214-R223, R417-R426): pieces that land, samples, faults, completion records.
-/
namespace Sys2Proof.Machine
open Sys2Proof

/-! ### One side of an engine access -/

/-- The party of a queued command. -/
def State.cmdWho (s : State) (own : Nat) (c : Cmd) : Who :=
  { gid := c.gid, sp := 0, bid := c.bid, lid := own, asid := c.asid
    c := match find s.blocks c.bid with | some b => b.cluster | none => 0
    world := match find s.launches own with | some l => l.record.world | none => 0 }

/-- A piece in the scratchpad of a block; the scratchpad of a saved block waits for its restore. -/
def State.engSp (s : State) (c : Cmd) (a n : Nat) : Except Acc (Block × Nat) :=
  match find s.blocks c.bid with
  | none => .error (.ok [])
  | some b =>
    if b.phase == .gone then .error (.ok [])
    else match s.spPlace b (bit a 31) (BitVec.ofNat 32 a) n with
      | .error code => .error (.fail code 0)
      | .ok (m, off) => if m.phase == .resident then .ok (m, off) else .error (if m.phase == .gone then .ok [] else .wait)

/-- Whether an address lies on a sealed page. -/
def State.sealedAt (s : State) (w : Who) (a : Nat) : Bool :=
  match (s.attrs w.c w.asid a).1 with | .ok e => e.sealed_ | .error _ => false

/-- A mast core's scratchpad byte (R325). A command's piece reaches the block that MGRP names as it lands (DESIGN CHOICE, log entry 163). -/
def State.mastSpByte (s : State) (cl a : Nat) : Acc × State :=
  match s.mastSp cl (BitVec.ofNat 32 a) 1 with
  | .error code => (.fail code 0, s)
  | .ok key => if getD (s.cluster cl).poison (key / 8) false then (.fail 0x40 0, s.countWord cl 1) else (.ok [getD (s.cluster cl).scratch key 0#8], s)

/-- A byte of a mast core's own address space, as a mast context reads it (R213): a device register is no 16-byte piece and reads 0. What
an address that R304 reserves gives a piece the spec does not say; the model fails the command with F_ADDR_UNMAPPED (DESIGN CHOICE, log entry 97). -/
def State.mastByte (s : State) (cl a : Nat) : Acc × State :=
  match s.mastPlace cl a 1 0 with
  | .sram off => (if (s.mast cl).badAt off 1 then .fail 0x40 0 else .ok [getD (s.mast cl).sram off 0#8], s)
  | .tier va pa => (match s.mastTierRead cl va pa 1 with | (some bs, s1) => (.ok bs, s1) | (none, s1) => (.fail 0x40 0, s1))
  | .device _ => (.ok [0#8], s)
  | .reserved _ => (.fail 0x10 0, s)
  | .fault code _ => (.fail (if code = 0x30 then 0x31 else code) 0, s)

/-- Reads n bytes one by one. -/
def readBytes (f : State → Nat → Acc × State) (a : Nat) : Nat → State → Acc × State
  | 0, s => (.ok [], s)
  | n + 1, s =>
    match f s a with
    | (.ok b, s1) => (match readBytes f (a + 1) n s1 with
      | (.ok r, s2) => (.ok (b ++ r), s2)
      | r => r)
    | r => r

/-- An engine's access at the home slices; bit 2 of FLAGS says that an engine waits (R311). -/
def Who.engReq (w : Who) (k : AccKind) : Req := { w.req k with flags := 4 }

/-- Whether an access of up to 16 bytes waits already for a page that is still away: it has joined that page's fault (R315). -/
def State.stillAway (s : State) (c : Cmd) (a n : Nat) : Bool :=
  c.waits.any fun w => w.1 = canonAsid c.asid a && decide (a ≤ w.2) && decide (w.2 < a + n) && s.pageMoves w.1 w.2

/-- The part of an access that lies on a page that is away. -/
def State.awayPart (s : State) (asid a n : Nat) : Nat :=
  match (sectorsOf a n).find? fun p => s.pageMoves (canonAsid asid a) p.1 with | some p => p.1 | none => a

/-- An engine's read of up to 16 bytes (R216, R219): `sealc` is the code of a sealed page. -/
def State.engRead (s : State) (own : Nat) (c : Cmd) (sp : Bool) (a n sealc : Nat) : Acc × State :=
  if own ≥ 2 ^ 40 then readBytes (if sp then fun s a => s.mastSpByte (own - 2 ^ 40) a else fun s a => s.mastByte (own - 2 ^ 40) a) a n s
  else if sp then
    match s.engSp c a n with
    | .error (.ok _) => (.ok (List.replicate n 0#8), s)
    | .error r => (r, s)
    | .ok (m, off) => if s.spPoison m off n then (.fail 0x40 0, s.countWord m.cluster 1) else (.ok (s.spRead m off n), s)
  else
    let w := s.cmdWho own c
    match s.accFault w .copy (BitVec.ofNat 64 a) n false with
    | some (code, _, d) => (.fail (if code = 0x31 then sealc else code) d.toNat, s)
    | none => if s.stillAway c a n then (.wait, s) else match (s.refill w [BitVec.ofNat 64 a]).homeRead (w.engReq .copy) a n with
      | (.fail 0x31 d, s1) => (.fail sealc d, s1)
      | r => r

/-- Stores a piece through a mast core's own address space. -/
def State.mastSetBytes (s : State) (cl a : Nat) (bs : List Byte) : Acc × State :=
  match s.mastPlace cl a bs.length 1 with
  | .sram off => (.ok [], s.updM cl fun m => m.wrBytes off bs)
  | .tier va pa => (.ok [], s.mastTierWrite cl va pa bs)
  | .device _ => (.ok [], s)
  | .reserved _ => (.fail 0x10 0, s)
  | .fault code _ => (.fail code 0, s)

/-- Stores a byte of scratchpad through a mast core's address (R325). -/
def State.mastSpSet (s : State) (cl a : Nat) (b : Byte) : Acc × State :=
  match s.mastSp cl (BitVec.ofNat 32 a) 1 with
  | .error code => (.fail code 0, s)
  | .ok key => (.ok [], s.updC cl fun k => { k with scratch := setD k.scratch key b 0#8 })

/-- Whole granules among scratchpad keys lose their poison mark (R384). -/
def State.healGranules (s : State) (cl : Nat) (keys : List Nat) : State :=
  s.updC cl fun k => { k with poison := delIf k.poison fun g => (List.range 8).all fun j => keys.contains (8 * g + j) }

/-- An engine's write of up to 16 bytes (R216, R219). -/
def State.engWrite (s : State) (own : Nat) (c : Cmd) (sp : Bool) (a : Nat) (bs : List Byte) (sealc : Nat) : Acc × State :=
  if own ≥ 2 ^ 40 then
    let cl := own - 2 ^ 40
    if !sp then s.mastSetBytes cl a bs
    else
      let r := (List.range bs.length).foldl (fun (r : Acc × State) i =>
        match r.1 with
        | .ok _ => r.2.mastSpSet cl (a + i) (bs.getD i 0#8)
        | _ => r) (.ok [], s)
      let keys := (List.range bs.length).filterMap fun i => match s.mastSp cl (BitVec.ofNat 32 (a + i)) 1 with | .ok k => some k | .error _ => none
      (r.1, r.2.healGranules cl keys)
  else if sp then
    match s.engSp c a bs.length with
    | .error r => (r, s)
    | .ok (m, off) => (.ok [], s.spWrite m off bs)
  else
    let w := s.cmdWho own c
    if s.sealedAt w a then (.fail sealc 0, s)
    else match s.accFault w .store (BitVec.ofNat 64 a) bs.length false with
      | some (code, _, d) => (.fail code d.toNat, s)
      | none =>
        if s.stillAway c a bs.length then (.wait, s)
        else match (s.refill w [BitVec.ofNat 64 a]).homeWrite (w.engReq .store) a bs with
        | (.ok r, s1) => (.ok r, (s1.tsStore (canonAsid w.asid a) a 0).2)
        | r => r

/-! ### Pieces of a command (R216, R220, R221) -/

/-- Chunk j of n bytes to destination D: the bytes of one aligned 16-byte piece: destination, offset, length. -/
def chunkOf (D n j : Nat) : Option (Nat × Nat × Nat) :=
  let lo := if j = 0 then D else (D / 16 + j) * 16
  let hi := min (D + n) ((D / 16 + j + 1) * 16)
  if lo < hi then some (lo, lo - D, hi - lo) else none

/-- How many chunks n bytes to D take. -/
def chunkCount (D n : Nat) : Nat := if n = 0 then 0 else (D + n - 1) / 16 - D / 16 + 1

/-- A global or scratchpad address of a descriptor. -/
def Cmd.place (c : Cmd) (sp : Bool) (i : Nat) : Nat := if sp then (rg c.regs i).toNat else (rg64 c.regs i).toNat
/-- COUNT or BYTES of a descriptor. -/
def Cmd.amount (c : Cmd) : Nat := (rg c.regs 4).toNat
/-- The piece numbers of one element of a gather or scatter. -/
def Cmd.stride (c : Cmd) : Nat := c.imm / 16 + 2

/-- The contiguous side and table side of element i: destination and source. -/
def Cmd.elemDst (c : Cmd) (i T : Nat) : Nat := if c.op = 0x25 then c.place (bit c.opts 0) 2 + i * c.imm else T
/-- The source of element i. -/
def Cmd.elemSrc (c : Cmd) (i T : Nat) : Nat := if c.op = 0x25 then T else c.place (bit c.opts 0) 2 + i * c.imm

/-- Rewrites the command at a context's head. -/
def State.updHead (s : State) (own ctx : Nat) (f : Cmd → Cmd) : State :=
  s.updCtx own ctx fun x => { x with cmds := match x.cmds with | [] => [] | c :: r => f c :: r }

/-- The running command at a context's head: not guarded, not discarded, not failed. -/
def State.running (s : State) (own ctx num : Nat) : Option Cmd :=
  match (s.ctx own ctx).bind fun x => x.cmds.head? with
  | some c => if c.num = num && c.guard.isNone && !c.discarded && c.failed.isNone then some c else none
  | none => none

/-- The engine meets an access that waits or fails (R219). -/
def State.noteAcc (s : State) (own ctx : Nat) (c : Cmd) (a : Nat) (r : Acc) (n : Nat := 16) : State :=
  match r with
  | .ok _ => s
  | .wait =>
    let k := (canonAsid c.asid a, s.awayPart c.asid a n)
    s.updHead own ctx fun x => { x with waits := k :: x.waits.filter (· ≠ k) }
  | .fail code _ => s.updHead own ctx fun x => { x with failed := some (code, a) }

/-- With NOTIFY, n bytes that a piece wrote are subtracted at the object (R217). -/
def State.notify (s : State) (c : Cmd) (n : Nat) : State :=
  if c.ntf then (match find s.blocks c.bid with | some b => s.countLanding b (rg c.regs 5) n | none => s) else s

/-- A piece has landed: counted, and with NOTIFY subtracted at the object (R217). -/
def State.pieceLanded (s : State) (own ctx : Nat) (c : Cmd) (piece n : Nat) : State :=
  (s.updHead own ctx fun x => { x with landed := piece :: x.landed, bytes := x.bytes + n, waits := [] }).notify c n

/-- Whether the pieces of a command wait because the block of its barrier object is saved: its PEND is in the image (R217, log entry 127). -/
def State.notifyWaits (s : State) (c : Cmd) : Bool :=
  c.ntf && (match find s.blocks c.bid with | some b => (match b.phase with | .saved _ => true | _ => false) | none => false)

/-- Moves one piece: read, write, landed. -/
def State.movePiece (s : State) (own ctx : Nat) (c : Cmd) (piece : Nat) (dsp ssp : Bool) (dst src n rseal wseal : Nat)
    (change : List Byte → List (Option Byte)) : State :=
  match s.engRead own c ssp src n rseal with
  | (.ok bs, s1) =>
    let out := change bs
    -- runs of bytes to write; a byte that is masked keeps its value
    let r := (List.range out.length).foldl (fun (r : Acc × State) i =>
      match r.1, out.getD i none with
      | .ok _, some b => r.2.engWrite own c dsp (dst + i) [b] wseal
      | _, _ => r) (.ok [], s1)
    let whole := out.filterMap id
    let w := if whole.length = out.length then s1.engWrite own c dsp dst whole wseal else r
    (match w with
    | (.ok _, s2) => s2.pieceLanded own ctx c piece n
    | (o, s2) => s2.noteAcc own ctx c dst o n)
  | (o, s1) => s1.noteAcc own ctx c src o n

/-- The bytes of a `cpy` piece: a destination byte inside the source range is unspecified (R220): a free value. -/
def State.cpyBytes (s : State) (c : Cmd) (dst : Nat) (bs : List Byte) : List (Option Byte) :=
  let ssp := bit c.opts 0
  let dsp := bit c.opts 1
  let S := c.place ssp 0
  let n := c.amount
  (List.range bs.length).map fun i =>
    if ssp = dsp ∧ S ≤ dst + i ∧ dst + i < S + n then some ((Config.freeValue (s.free + i)).setWidth 8) else bs[i]?

/-- A `cpy` piece (R220). -/
def State.landCpy (s : State) (own ctx : Nat) (c : Cmd) (piece : Nat) : State :=
  let ssp := bit c.opts 0
  let dsp := bit c.opts 1
  match chunkOf (c.place dsp 2) c.amount piece with
  | none => s
  | some (dst, off, n) =>
    { s with free := s.free + 16 }.movePiece own ctx c piece dsp ssp dst (c.place ssp 0 + off) n 0x31 0x11 (s.cpyBytes c dst)

/-- The engine gets T(i) (R221): from the index list, or the next entry of the push FIFO, in element order. -/
def State.takeIndex (s : State) (own ctx : Nat) (c : Cmd) (i : Nat) : State :=
  let base := c.place false 0
  let set (s : State) (T : Nat) : State :=
    s.updHead own ctx fun x => { x with taken := put x.taken i T, failed := if T % 4 ≠ 0 then some (0x12, T) else x.failed }
  if bit c.opts 1 then
    match s.ctx own ctx with
    | some x => (match x.push with
      | e :: rest => if i = c.taken.length then set (s.updCtx own ctx fun x => { x with push := rest }) ((base + e.toNat) % 2 ^ 64) else s
      | [] => s)
    | none => s
  else
    match s.engRead own c false ((rg64 c.regs 6).toNat + 4 * i) 4 0x31 with
    | (.ok bs, s1) => set s1 ((base + ofBytes bs * c.imm) % 2 ^ 64)
    | (r, s1) => s1.noteAcc own ctx c ((rg64 c.regs 6).toNat + 4 * i) r 4

/-- Of a `scat` piece the bytes that a landed element of a higher number has not written (R221). -/
def Cmd.scatMask (c : Cmd) (i dst : Nat) (bs : List Byte) : List (Option Byte) :=
  (List.range bs.length).map fun k =>
    let covered := c.taken.any fun e => decide (i < e.1) && decide (e.2 ≤ dst + k) && decide (dst + k < e.2 + c.imm) &&
      c.landed.any fun p => p / c.stride = e.1 && (match chunkOf e.2 c.imm (p % c.stride) with
        | some (d, _, n) => decide (d ≤ dst + k) && decide (dst + k < d + n)
        | none => false)
    if covered then none else bs[k]?

/-- A `gath` or `scat` piece (R221). -/
def State.landGath (s : State) (own ctx num : Nat) (c : Cmd) (piece : Nat) : State :=
  let i := piece / c.stride
  if i ≥ c.amount then s
  else
    let s1 := if (find c.taken i).isSome then s else s.takeIndex own ctx c i
    match s1.running own ctx num with
    | none => s1
    | some c1 =>
      match find c1.taken i with
      | none => s1
      | some T =>
        match chunkOf (c1.elemDst i T) c1.imm (piece % c1.stride) with
        | none => s1
        | some (dst, off, n) =>
          let scat := c1.op = 0x26
          let bsp := bit c1.opts 0
          s1.movePiece own ctx c1 piece (!scat && bsp) (scat && bsp) dst (c1.elemSrc i T + off) n 0x31 (if scat then 0x31 else 0x11)
            (if scat then c1.scatMask i dst else fun bs => bs.map some)

/-! ### Collectives (R222, R426) -/

/-- A combining step in the wire type (R97): 1 FP32, 3 BF16. -/
def combine (op ty x y : Nat) : Nat :=
  let f (a b : Nat) : Nat := if op = 1 then fmax32 a b else if op = 2 then fmin32 a b else fp32.add a b
  if ty = 1 then f x y else fconv fp32 bf16 .rne (f (x * 65536) (y * 65536))

/-- The contribution of a rank: its own bytes as read, another's as that device sends them. -/
def contribution (key own q : Nat) (data : List Byte) (off n : Nat) : Nat :=
  ofBytes ((List.range n).map fun i => if q = own then data.getD (off + i) 0#8 else Config.peerByte key q (off + i))

/-- Element e of a reduction, combined around the ring for its chunk (R426). -/
def reduced (key own d op ty count : Nat) (data : List Byte) (e : Nat) : Nat :=
  let es := typeBytes ty
  let x (q : Nat) : Nat := contribution key own (q % d) data (e * es) es
  let c := ((List.range d).find? fun c => decide (c * count / d ≤ e) && decide (e < (c + 1) * count / d)).getD 0
  (List.range (d - 1)).foldl (fun acc j => combine op ty acc (x (c + j + 2))) (x (c + 1))

/-- Byte o of RECV (R222). -/
def collByte (key own d op ty count root : Nat) (data : List Byte) (o : Nat) : Byte :=
  let es := typeBytes ty
  if d = 1 then data.getD o 0#8
  else match op with
    | 4 => BitVec.ofNat 8 (contribution key own (o / count) data (o % count) 1)
    | 5 => BitVec.ofNat 8 (contribution key own root data o 1)
    | 6 => BitVec.ofNat 8 (contribution key own (o / (count / d)) data (own * (count / d) + o % (count / d)) 1)
    | 3 => byteAt (reduced key own d 0 ty count data (own * count / d + o / es)) (o % es)
    | _ => byteAt (reduced key own d op ty count data (o / es)) (o % es)

/-- Reads a whole contribution, 16 bytes at a time: what came, and the address that it came to. -/
def State.readSend (s : State) (own : Nat) (c : Cmd) (a : Nat) : Nat → Nat → Nat × Acc × State
  | 0, _ => (a, .ok [], s)
  | _, 0 => (a, .ok [], s)
  | fuel + 1, n =>
    let k := min n (16 - a % 16)
    match s.engRead own c false a k 0x33 with
    | (.ok bs, s1) => (match s1.readSend own c (a + k) fuel (n - k) with
      | (a1, .ok r, s2) => (a1, .ok (bs ++ r), s2)
      | r => r)
    | (o, s1) => (a, o, s1)

/-- Lengths of SEND and RECV of a queued collective, and the launch's D and rank. -/
def State.collShape (s : State) (own : Nat) (c : Cmd) : Nat × Nat × Nat × Nat :=
  let (d, r) := match find s.launches own with | some l => (l.record.ndev, l.rank) | none => (1, 0)
  let b := collBytes (bits c.imm 3 0) (bits c.imm 11 4) c.amount d
  (b.1, b.2, d, r)

/-- A collective's piece (R222, R426): SEND is read when its first piece is due; overlapping ranges that are not equal leave RECV
unspecified: free values. -/
def State.landColl (s : State) (own ctx num : Nat) (c : Cmd) (piece : Nat) : State :=
  let send := c.place false 0
  let recv := c.place false 2
  let (sn, rn, d, r) := s.collShape own c
  match chunkOf recv rn piece with
  | none => s
  | some (dst, off, n) =>
    let s1 := match c.data with
      | some _ => s
      | none => (match s.readSend own c send (sn / 16 + 2) sn with
        | (_, .ok bs, s1) => s1.updHead own ctx fun x => { x with data := some bs }
        | (a, o, s1) => s1.noteAcc own ctx c a o)
    match s1.running own ctx num with
    | none => s1
    | some c1 =>
      match c1.data with
      | none => s1
      | some data =>
        let mixed := send ≠ recv ∧ send < recv + rn ∧ recv < send + sn
        let key := (own * 2 ^ 16 + ctx) * 2 ^ 64 + num
        let bs := (List.range n).map fun i =>
          if mixed then (Config.freeValue (s1.free + i)).setWidth 8
          else collByte key r d (bits c.imm 3 0) (bits c.imm 11 4) c.amount (rg c.regs 6).toNat data (off + i)
        match { s1 with free := s1.free + 16 }.engWrite own c1 false dst bs 0x33 with
        | (.ok _, s2) => s2.pieceLanded own ctx c1 piece n
        | (o, s2) => s2.noteAcc own ctx c1 dst o

/-- ENGINE_PIECE_LANDING (R216, R217): one 16-byte piece of the command at a context's head. -/
def execEnginePieceLanding (own ctx num piece : Nat) (s0 : State) : Out :=
  let s := s0.sampleHead own ctx
  match s.running own ctx num with
  | none => .next s
  | some c =>
    if c.landed.contains piece ∨ s.notifyWaits c then .next s
    else .next (match c.op with
      | 0x24 => s.landCpy own ctx c piece
      | 0x25 => s.landGath own ctx num c piece
      | 0x26 => s.landGath own ctx num c piece
      | 0x27 => s.landColl own ctx num c piece
      | _ => s)

/-! ### Completion and failure (R215, R219) -/

/-- Whether every piece of a command has landed. -/
def State.allLanded (s : State) (own : Nat) (c : Cmd) : Bool :=
  match c.op with
  | 0x24 => (List.range (chunkCount (c.place (bit c.opts 1) 2) c.amount)).all c.landed.contains
  | 0x27 => (List.range (chunkCount (c.place false 2) (s.collShape own c).2.1)).all c.landed.contains
  | 0x28 => c.ended != 0
  | _ => (List.range c.amount).all fun i => match find c.taken i with
    | none => false
    | some T => (List.range (chunkCount (c.elemDst i T) c.imm)).all fun j => c.landed.contains (i * c.stride + j)

/-- DONE of a record (R215). For `coll` whether it counts what lands in RECV or COUNT the spec leaves open where the two differ; the model counts
what lands (DESIGN CHOICE, log entry 128). -/
def Cmd.done (c : Cmd) : Nat :=
  let d := match c.op with
    | 0x24 => c.bytes
    | 0x27 => if bits c.imm 3 0 ≤ 3 then c.bytes / typeBytes (bits c.imm 11 4) else c.bytes
    | 0x28 => c.landed.length
    | _ => ((List.range c.amount).filter fun i => match find c.taken i with
      | none => false
      | some T => (List.range (chunkCount (c.elemDst i T) c.imm)).all fun j => c.landed.contains (i * c.stride + j)).length
  min d (2 ^ 32 - 1)

/-- The 16 bytes of a completion record (R215). -/
def completionRecord (num ctx stat code done : Nat) : List Byte :=
  toBytes 8 num ++ toBytes 2 ctx ++ toBytes 1 stat ++ toBytes 1 code ++ toBytes 4 done

/-- Writes a completion record of a launch's context (R215): false while its page is on the way. A mast context has no ring (R213). -/
def State.writeRecord (s : State) (own ctx num stat code done : Nat) (origin : Nat := 0x7FF) : Bool × State :=
  match find s.launches own, s.ctx own ctx with
  | some l, some x =>
    (match s.homeWrite { lid := own, world := l.record.world, asid := l.asid, flags := 4, origin := origin, once := true } (x.ring + 16 * (num % 2 ^ x.rlog)) (completionRecord num ctx stat code done) with
    | (.wait, s1) => (false, s1)
    | (_, s1) => (true, s1))
  | _, _ => (true, s)

/-- The head command ends: its record, then the counter, then the next command samples its guard (R214, R215). -/
def State.endHead (s : State) (own ctx : Nat) (c : Cmd) (stat code : Nat) (after : State → State) : State :=
  match s.writeRecord own ctx c.num stat code (if stat = 1 then 0 else c.done) (s.cmdWho own c).c with
  | (false, s1) => s1
  | (true, s1) => after ((s1.updCtx own ctx fun x => { x with cmds := x.cmds.drop 1, counter := c.num }).sampleHead own ctx)

/-- What a failed command leaves besides its record (R213, R219, R386, R395): the fault at its group, a struck gang, a failure entry. -/
def State.failedCmd (s : State) (own ctx : Nat) (c : Cmd) (code addr : Nat) : State :=
  if own ≥ 2 ^ 40 then
    s.updM (own - 2 ^ 40) fun m => { m with merr := m.merr ||| laneBit 8, minfo := BitVec.ofNat 32 ctx }
  else
    let s1 := s.addFailure own { num := c.num, gang := 0xFFFFFFFF, ctx := ctx % 65536, kind := 2, code := code, pc := c.pc.toNat, addr := addr, save := 0, lanes := c.lanes.toNat
                                 blk := match find s.blocks c.bid with | some b => b.blk | none => 0 }
    if code = 0x60 then s1
    else
      let s2 := if code = 0x40 ∨ code = 0x36 then s1.strike c.bid code else s1
      match find s2.groups c.gid with
      | some g => if g.bid = c.bid && g.phase != .retired then s2.raiseLate c.gid code c.lanes c.pc (BitVec.ofNat 64 addr) 0#64 else s2
      | none => s2

/-- ENGINE_FAULT (R219): the command at the head that has failed ends with FAIL. A collective whose participants disagree fails on every
one of them (R222). -/
def execEngineFault (own ctx num : Nat) (s : State) : Out :=
  match (s.ctx own ctx).bind fun x => x.cmds.head? with
  | none => .next s
  | some c =>
    if c.num ≠ num ∨ c.guard.isSome ∨ c.discarded then .next s
    else
      match c.failed with
      | some (code, addr) => .next (s.endHead own ctx c 2 code fun s => s.failedCmd own ctx c code addr)
      | none =>
        if c.op = 0x27 ∧ (s.collShape own c).2.2.1 > 1 ∧ c.landed = [] then .next (s.endHead own ctx c 2 0x02 fun s => s.failedCmd own ctx c 0x02 0)
        else .next s

/-! ### Video (R417-R420) -/

/-- Whether no record waits behind a full pop FIFO of 256 entries (R432): the sample of one that waits is written, and decoding waits with it. -/
def Ctx.popRoom (x : Ctx) : Bool := decide (x.pop.length ≤ 256)

/-- Whether a context's head is a video command that has been begun and has not ended. -/
def Ctx.decoding (x : Ctx) : Bool :=
  match x.cmds with
  | c :: _ => c.op == 0x28 && !(c.landed.isEmpty && c.waits.isEmpty)
  | [] => false

/-- Whether a decode engine lets a context go on: its command is in progress, or fewer than eight others are (R417). -/
def State.decodes (s : State) (x : Ctx) : Bool :=
  x.decoding || decide (((s.launches.flatMap fun (e : Nat × Launch) => e.2.ctxs).filter fun (e : Nat × Ctx) => e.2.engine == x.engine && e.2.decoding).length < 8)

/-- The planes of a sample at its slot: row offset within the slot, bytes of the row, for every row (R419). -/
def videoRows (form : Nat) (half : Bool) (pitch hmax w h : Nat) : List (Nat × Nat) :=
  let bpv := if form = 1 ∨ form = 3 then 2 else 1
  let y := (List.range h).map fun r => (r * pitch, w * bpv)
  let plane (base rows width : Nat) : List (Nat × Nat) := (List.range rows).map fun r => (base + r * pitch, width)
  if form ≤ 1 then y ++ plane (pitch * hmax) ((h + 1) / 2) ((w + 1) / 2 * 2 * bpv)
  else if form ≤ 3 then y
  else
    let cw := if half then (w + 1) / 2 else w
    y ++ plane (pitch * hmax) h cw ++ plane (2 * pitch * hmax) h cw

/-- The bytes between two slots (R419). -/
def videoSlot (form pitch hmax : Nat) : Nat := if form ≥ 4 then 3 * pitch * hmax else pitch * (hmax + (hmax + 1) / 2)

/-- Writes the rows of a sample; 10-bit values stand in bits [15:6]. -/
def State.writeSample (s : State) (own : Nat) (c : Cmd) (base form : Nat) (val : Nat → Byte) (rows : List (Nat × Nat)) : Option (Nat × Acc) × State :=
  (rows.foldl (fun (r : Nat × Option (Nat × Acc) × State) row =>
    let (n0, bad, st) := r
    if bad.isSome then r
    else
      let a := base + row.1
      let res := (List.range (chunkCount a row.2)).foldl (fun (q : Option (Nat × Acc) × State) j =>
        match q.1, chunkOf a row.2 j with
        | none, some (dst, off, n) =>
          let bs := (List.range n).map fun i => if (form = 1 ∨ form = 3) ∧ (off + i) % 2 = 0 then val (n0 + off + i) &&& 0xC0#8 else val (n0 + off + i)
          (match q.2.engWrite own c false dst bs 0x11 with
          | (.ok _, s1) => (none, s1)
          | (o, s1) => (some (dst, o), s1))
        | _, _ => q) (none, st)
      (n0 + row.2, res.1, res.2)) (0, none, s)).2

/-- Pushes a sample record (R223): reservations take it first. -/
def State.pushSample (s : State) (own ctx : Nat) (rec : Nat) : State :=
  (s.updCtx own ctx fun x => { x with pop := x.pop ++ [BitVec.ofNat 64 rec] }).servePops own ctx 32

/-- VIDEO_SAMPLE_DECODED (R223, R420): the running command of a video context decodes its next sample, or its stream ends. In the
record of a failed sample SAMPLE and LAST are 0 (DESIGN CHOICE, log entry 164). -/
def execVideoSampleDecoded (own ctx : Nat) (s0 : State) : Out :=
  let s := s0.sampleHead own ctx
  match (s.ctx own ctx).bind fun x => x.cmds.head?.map fun c => (x, c) with
  | none => .next s
  | some (x, c) =>
    if c.op ≠ 0x28 ∨ c.guard.isSome ∨ c.discarded ∨ c.failed.isSome ∨ c.ended ≠ 0 ∨ !x.popRoom ∨ !s.decodes x ∨ s.notifyWaits c then .next s
    else
      let num := c.num % 65536 * 2 ^ 48
      let k := c.landed.length
      let stop (s : State) : State := (s.pushSample own ctx (num + 2 ^ 34)).updHead own ctx fun x => { x with failed := some (0x60, 0) }
      let send := c.place false 0
      match s.readSend own c send (c.amount / 16 + 2) c.amount with
      | (_, .ok stream, s1) =>
        let dim := Config.videoDim stream k
        let w := dim / 65536 % 65536
        let h := dim % 65536
        let wmax := (rg c.regs 6).toNat % 65536
        let hmax := (rg c.regs 6).toNat / 65536
        let pitch := (rg c.regs 7).toNat
        let next := Config.videoStep (bits c.imm 3 0) stream k
        let out := Config.videoForm (bits c.imm 3 0) stream
        -- an AV1 monochrome stream (5, 6) writes mid-grey chroma rows
        let form := if out = 5 then 0 else if out = 6 then 1 else out
        let luma := w * h * (if form = 1 then 2 else 1)
        let val (i : Nat) : Byte :=
          if next = 2 && Config.videoMissing stream k i then 0#8
          else if out ≥ 5 ∧ luma ≤ i then (if out = 5 ∨ (i - luma) % 2 = 1 then 0x80#8 else 0#8) else Config.videoByte stream k i
        if c.amount = 0 ∨ next ≥ 3 ∨ w > wmax ∨ h > hmax then .next (stop s1)
        else
          let order := Config.videoOrder stream k % 2 ^ 32
          let base := c.place false 2 + order * videoSlot form pitch hmax
          (match s1.writeSample own c base form val (videoRows form (Config.videoHalf stream) pitch hmax w h) with
          | (some (a, o), s2) => .next (s2.noteAcc own ctx c a o)
          | (none, s2) =>
            let s3 := s2.pushSample own ctx (num + (if next = 1 ∨ next = 2 then 2 ^ 33 else 0) + (if next = 2 then 2 ^ 32 else 0) + order)
            let rows := videoRows form (Config.videoHalf stream) pitch hmax w h
            let s4 := (rows.flatMap fun row => (List.range (chunkCount (base + row.1) row.2)).filterMap (chunkOf (base + row.1) row.2)).foldl
              (fun (s : State) (k : Nat × Nat × Nat) => s.notify c k.2.2) (s3.updHead own ctx fun x => { x with landed := k :: x.landed, waits := [] })
            .next (s4.updHead own ctx fun x => { x with ended := if next = 1 then 1 else if next = 2 then 2 else 0 }))
      | (a, o, s1) => .next (s1.noteAcc own ctx c a o)

/-! ### `ldasy` pieces (R156) -/

/-- Takes a piece out of its cluster's list. -/
def State.dropPiece (s : State) (cl idx : Nat) : State := s.updC cl fun k => { k with pieces := k.pieces.eraseIdx idx }

/-- The party of an `ldasy` piece. -/
def State.pieceWho (s : State) (cl : Nat) (p : Piece) (b : Block) : Who :=
  { gid := p.gid, c := cl, sp := (match find s.groups p.gid with | some g => g.sp | none => 0), bid := p.bid, lid := b.lid, asid := p.asid
    world := match s.launchOf b with | some l => l.record.world | none => 0 }

/-- LDASY_PIECE_LANDING (R156): a piece lands in scratchpad and is counted at its object in one event; a source that waits is read now. -/
def execLdasyPieceLanding (cl idx : Nat) (s : State) : Out :=
  match (s.cluster cl).pieces[idx]? with
  | none => .next s
  | some p =>
    match find s.blocks p.bid with
    | none => .next (s.dropPiece cl idx)
    | some b =>
      let land (s : State) (bs : List Byte) : State :=
        match s.spPlace b false (BitVec.ofNat 32 p.dst) p.size with
        | .ok (m, off) => ((s.spWrite m off bs).countLanding b (BitVec.ofNat 32 p.obj) p.size).dropPiece cl idx
        | .error _ => s.dropPiece cl idx
      match p.data with
      | some bs => .next (land s bs)
      | none =>
        let s1 := s.readPiece (s.pieceWho cl p b) p
        match (s1.cluster cl).pieces[idx]? with
        | some p1 => (match p1.data with
          | some bs => .next (if { p1 with data := none } = p then land s1 bs else s1)
          | none => .next s1)
        | none => .next s1

end Sys2Proof.Machine
end

