-- ==== Sys2Proof/Machine/Save.lean ====
section
/-!
DEFINITION. The block save area (R29-R39, R198, R407): its bytes, its checks, and what a restore takes from it.
-/
namespace Sys2Proof.Machine
open Sys2Proof

/-! ### Halted groups -/

/-- Whether a group's performed accesses and matrix work have come to rest, so that a halt is complete (R175, R201, R237). -/
def Group.quiet (g : Group) : Bool := g.pending.isEmpty && g.pipe.isEmpty && g.fills.isEmpty && g.awaits == 0

/-- The faults that a group's lanes are held at (R407): the record of its last fault, where some lane is held at it. -/
def Group.heldFault (g : Group) : Option FaultRec :=
  match g.lastFault with
  | some r => if r.code < 0x50 ∧ g.hold.any (fun e => match e.2 with | .event c _ _ => c = r.code | _ => false) then some r else none
  | none => none

/-! ### Sizes (R32, R34) -/

/-- The shape of a save: registers, tiles, accumulator tiles, scratchpad bytes, switch point (0xFF none). -/
structure SaveShape where
  vregs : Nat
  tiles : Nat
  accs : Nat
  scratch : Nat
  swpt : Nat
  deriving DecidableEq, Repr

/-- STRIDE (R32). -/
def SaveShape.stride (v : SaveShape) : Nat := 8704 + 128 * v.vregs + 4096 * v.tiles + 8704 * v.accs + (if v.accs > 0 then 17408 else 0)

/-- The switch-point descriptor n of a variant: n, SPLIVE, SWPTOFF, LIVE. -/
def Variant.swptOf (v : Variant) (n : Nat) : Option (Nat × Nat × Nat × List Nat) := v.swpts.find? fun p => p.1 = n

/-- The shape of a save of a block under a variant, in the switch-point form where a switch point is given (R32, R34). -/
def Variant.shape (v : Variant) (n : Nat) : SaveShape :=
  match v.swptOf n with
  | some p => { vregs := p.2.2.2.length, tiles := 0, accs := 0, scratch := p.2.1, swpt := n }
  | none => { vregs := v.vregs, tiles := v.tiles, accs := v.accs, scratch := v.scratch, swpt := 0xFF }

/-- Bytes of zero. -/
def zeros (n : Nat) : List Byte := List.replicate n 0#8

/-! ### Writing (R30-R34) -/

/-- A return stack's 72 bytes (R31). -/
def Group.stackBytes (g : Group) (l : Nat) : List Byte :=
  (List.range 8).flatMap (fun i => toBytes 8 (((g.stackOf l)[i]?).getD 0#64).toNat) ++ toBytes 2 (g.stackOf l).length ++ toBytes 2 (g.spillOf l) ++ zeros 4

/-- A replay entry's 320 bytes (R31). -/
def Parked.bytes (p : Parked) : List Byte :=
  toBytes 4 p.w0 ++ toBytes 4 p.w1 ++ toBytes 4 p.lanes.toNat ++ toBytes 4 ((if p.one then 1 else 0) + (if p.row then 2 else 0))
  ++ toBytes 8 p.pc.toNat ++ zeros 40 ++ (List.range 32).flatMap fun l => toBytes 8 (getD p.addrs l 0)

/-- A plane record's 8,704 bytes (R32, R198). -/
def Plane.bytes (p : Plane) : List Byte :=
  toBytes 1 p.skind ++ toBytes 1 p.slot ++ toBytes 1 (p.spar + (if p.kind = 2 then 4 else 0)) ++ [0#8]
  ++ (if p.skind = 2 then toBytes 4 p.eoff ++ toBytes 8 p.saddr ++ toBytes 16 p.bitmap else zeros 28)
  ++ (if p.skind = 1 then
      (List.range 4096).flatMap (fun i => toBytes 2 (getD p.w i 0#32).toNat) ++ (List.range 64).flatMap (fun k => toBytes 4 (getD p.cw k 0#32).toNat) ++ zeros 224
    else zeros 8672)

/-- The planes a group's save carries: those of the engine it holds, or those that a restore still owes it. -/
def State.planesOf (s : State) (gid : Nat) (g : Group) : Option (Plane × Plane) :=
  match g.planeOwed with
  | some p => some p
  | none =>
    let e := s.engine g.cluster g.sp
    if e.holder = some gid then some (e.active, e.shadow) else none

/-- The side-log entries of a group that have not replayed. -/
def State.sideEntriesOf (s : State) (gid : Nat) : Nat :=
  s.clusters.foldl (fun n (c : Nat × Cluster) => c.2.sideLogs.foldl (fun n (l : Nat × List SideLog) => n + (l.2.filter fun e => e.gid = gid).length) n) 0

/-- The side-log entries of a block's groups, as a save that begins now records them (R31). -/
def State.sideCountsOf (s : State) (bid : Nat) : SMap Nat :=
  (s.groupsOf bid).filterMap fun e => let n := s.sideEntriesOf e.1; if n = 0 then none else some (e.2.num, n)

/-- The fixed part of a group record (R31), with the side-log count of the save's begin; a switch-point save carries no uniform registers and no
replay area. -/
def State.fixedPart (s : State) (gid : Nat) (g : Group) (sw : Bool) : List Byte :=
  let side := match s.blockOf g with | some b => getD b.sideCounts g.num 0 | none => 0
  toBytes 4 g.num ++ toBytes 1 g.sp ++ toBytes 1 (if (s.planesOf gid g).isSome then 1 else 0) ++ zeros 2
  ++ toBytes 4 g.exited.toNat ++ toBytes 4 g.helper.toNat ++ toBytes 4 (s.gstatOf g) ++ toBytes 4 side ++ toBytes 4 (g.k.toNat % 128) ++ zeros 36
  ++ (List.range 32).flatMap (fun l => toBytes 8 (g.pcOf l).toNat)
  ++ (List.range 32).flatMap (fun l => toBytes 8 (g.meetOf l).toNat)
  ++ (List.range 32).flatMap g.stackBytes
  ++ (List.range 7).flatMap (fun n => toBytes 4 (g.preds n).toNat) ++ zeros 36
  ++ (List.range 16).flatMap (fun n => toBytes 4 (g.rejoin n).mask.toNat ++ zeros 4 ++ toBytes 8 (g.rejoin n).addr.toNat)
  ++ (List.range 16).flatMap (fun n => match find g.q n with
      | some b => toBytes 4 b.ctx.toNat ++ toBytes 4 (if b.pop then 3 else 1)
      | none => zeros 8)
  ++ (if sw then zeros 256 else (List.range 64).flatMap fun n => toBytes 4 (g.sreg n).toNat)
  ++ (if sw then zeros 5120 else (List.range 16).flatMap fun i => match g.replay[i]? with | some p => p.bytes | none => zeros 320)

/-- An accumulator tile with its side area (R32). -/
def Group.accBytes (g : Group) (a : Nat) : List Byte :=
  (List.range 2048).flatMap (fun i => toBytes 4 (g.accEl a (i / 64) (i % 64)).toNat)
  ++ (List.range 32).flatMap (fun r => toBytes 4 (g.rowSum a r).toNat) ++ (List.range 64).flatMap (fun n => toBytes 4 (g.colSum a n).toNat)
  ++ toBytes 4 (g.accStat a).toNat ++ zeros 124

/-- A group record (R31, R32, R34). -/
def State.groupRecord (s : State) (gid : Nat) (g : Group) (v : SaveShape) (live : List Nat) : List Byte :=
  let sw := v.swpt ≠ 0xFF
  let vregs := if sw then live.flatMap fun b =>
      if bit b 7 then toBytes 4 (g.sreg (b % 64)).toNat ++ zeros 124 else (List.range 32).flatMap fun l => toBytes 4 (g.vreg l (b % 64)).toNat
    else (List.range v.vregs).flatMap fun r => (List.range 32).flatMap fun l => toBytes 4 (g.vreg l r).toNat
  let planes := (s.planesOf gid g).getD ({}, {})
  s.fixedPart gid g sw ++ vregs
  ++ (List.range v.tiles).flatMap (fun t => (List.range 1024).flatMap fun i => toBytes 4 (g.tileWord t (i / 32) (i % 32)).toNat)
  ++ (List.range v.accs).flatMap g.accBytes
  ++ (if v.accs > 0 then planes.1.bytes ++ planes.2.bytes else [])

/-- A fault record's 64 bytes (R33). -/
def faultBytes (num : Nat) (r : FaultRec) : List Byte :=
  toBytes 1 r.code ++ toBytes 1 num ++ zeros 2 ++ toBytes 4 r.lanes.toNat ++ toBytes 8 r.pc.toNat ++ toBytes 8 r.addr.toNat
  ++ toBytes 8 r.detail.toNat ++ toBytes 8 r.clk ++ zeros 24

/-- Whether a save holds the value of a storage place: one in the switch-point form holds only the registers of LIVE, and no tiles, accumulator tiles and
load-replay area (R31, R34). -/
def ErrPlace.savedIn (sw : Bool) (live : List Nat) : ErrPlace → Bool
  | .vreg _ r => !sw || live.any fun b => !bit b 7 && b % 64 = r
  | .sreg n => !sw || live.any fun b => bit b 7 && b % 64 = n
  | .tile _ _ => !sw
  | .acc _ _ => !sw
  | .waiting => !sw
  | _ => true

/-- Whether some value that a save of a block takes is marked uncorrectable (R30, R38). -/
def State.savedBad (s : State) (bid : Nat) (b : Block) (swpt : Nat) : Bool :=
  let var : Variant := match s.launchOf b with | some l => l.variantOf b | none => {}
  let live := match var.swptOf swpt with | some p => p.2.2.2 | none => []
  s.spPoison b 0 (var.shape swpt).scratch ||
    (s.groupsOf bid).any fun (e : Nat × Group) => e.2.errs.any fun x => x.savedIn ((var.shape swpt).swpt != 0xFF) live

/-- The save area of a block (R29-R34, R407), MAGIC included. -/
def State.saveImage (s : State) (bid : Nat) (b : Block) (reason clk swpt : Nat) : List Byte :=
  let l := (s.launchOf b).getD { lid := 0, fn := 0, ring := 0, index := 0, asid := 0, record := {}, kernel := {} }
  let var := l.variantOf b
  let v := var.shape swpt
  let live := match var.swptOf swpt with | some p => p.2.2.2 | none => []
  let gs := s.groupsOf bid
  let recs := gs.flatMap fun e => s.groupRecord e.1 e.2 v live
  let limit := b.ngroups + 1
  let all := b.faults ++ b.nested
  let fs := if reason = 5 then all.take limit else []
  let poison := s.savedBad bid b swpt
  let scratchOff := 0x100 + b.ngroups * v.stride
  let faultOff := if reason = 5 then scratchOff + v.scratch else 0
  let total := if reason = 5 then faultOff + 64 + 64 * fs.length else scratchOff + v.scratch
  let flags := (if reason = 5 && decide (all.length > limit) then 1 else 0) + (if poison then 2 else 0) + (if b.nested.isEmpty then 0 else 4)
  toBytes 4 0x4E485341 ++ toBytes 2 1 ++ toBytes 2 reason ++ toBytes 4 l.lid.toNat ++ toBytes 4 b.blk ++ toBytes 4 b.gang
  ++ toBytes 1 b.variant ++ toBytes 1 v.swpt ++ toBytes 1 b.ngroups ++ toBytes 1 l.record.world ++ toBytes 8 total
  ++ toBytes 1 v.vregs ++ toBytes 1 v.tiles ++ toBytes 1 v.accs ++ zeros 1 ++ toBytes 4 v.scratch ++ toBytes 4 flags
  ++ toBytes 4 ((List.range 16).foldl (fun x n => x + getD b.guards n 0 * 4 ^ n) 0)
  ++ toBytes 8 0x100 ++ toBytes 8 v.stride ++ toBytes 8 scratchOff ++ toBytes 8 faultOff ++ toBytes 8 clk ++ zeros 168
  ++ recs ++ s.spRead b 0 v.scratch
  ++ (if reason = 5 then toBytes 4 fs.length ++ zeros 60 ++ fs.flatMap fun f => faultBytes f.1 f.2 else [])

/-- Writes bytes at a virtual address in parts: whether a page is on its way, whether a part could not be written, the state. -/
def State.storeParts (s : State) (world asid origin : Nat) : List (Nat × List Byte) → Bool × Bool × State
  | [] => (false, false, s)
  | (a, bs) :: rest =>
    match s.hwStore world asid a bs origin with
    | (.wait, s1) => (true, false, s1)
    | (.ok _, s1) => s1.storeParts world asid origin rest
    | (.fail _ _, s1) => let r := s1.storeParts world asid origin rest; (r.1, true, r.2.2)

/-- The header with PARTIAL set (R30). -/
def partialHeader (bs : List Byte) : List Byte := bs.set 0x28 (bs.getD 0x28 0#8 ||| 1#8)

/-- Writes a block's save area (R29-R37): every group record and the scratchpad image, then the header, with PARTIAL where a section could not be
written (R38), then MAGIC. `false` while a page is on its way: MAGIC is not written. -/
def State.writeSave (s : State) (bid : Nat) (b : Block) (l : Launch) (reason clk swpt : Nat) : Bool × State :=
  let img := s.saveImage bid b reason clk swpt
  let stride := ((l.variantOf b).shape swpt).stride
  let put := s.storeParts l.record.world l.asid b.cluster
  let r := put ((List.range b.ngroups).map (fun j => (b.save + 0x100 + j * stride, (img.drop (0x100 + j * stride)).take stride))
    ++ [(b.save + 0x100 + b.ngroups * stride, img.drop (0x100 + b.ngroups * stride))])
  let head := if r.2.1 then partialHeader (img.take 256) else img.take 256
  if r.1 then (false, r.2.2)
  else
    let h := r.2.2.storeParts l.record.world l.asid b.cluster [(b.save + 4, head.drop 4), (b.save, head.take 4)]
    (!h.1, h.2.2)

/-- The bytes of the largest form that a dispatcher's save of a block of n groups takes under a variant (R34, R282). -/
def Variant.saveSize (v : Variant) (n : Nat) : Nat :=
  let size (x : SaveShape) : Nat := 0x100 + n * x.stride + x.scratch
  (v.swpts.map fun p => size (v.shape p.1)).foldl max (size (v.shape 0xFF))

/-! ### Reading (R39) -/

/-- A field of a save image. -/
def fieldAt (bs : List Byte) (off n : Nat) : Nat := ofBytes ((bs.drop off).take n)

/-- The shape that a placement under a variant asks of a save (R39): for a switch-point save the variant must carry the switch point. -/
def wantShape (bs : List Byte) (l : Launch) (variant : Nat) : Option SaveShape :=
  let swpt := fieldAt bs 0x15 1
  match find l.kernel.variants variant with
  | none => none
  | some v =>
    if swpt = 0xFF then (if fieldAt bs 0x14 1 = variant then some (v.shape 0xFF) else none)
    else if (find l.kernel.variants (fieldAt bs 0x14 1)).isSome && (v.swptOf swpt).isSome then some (v.shape swpt) else none

/-- The checks of R39 of a save image against a placement. -/
def saveOk (bs : List Byte) (b : Block) (l : Launch) (variant : Nat) : Bool :=
  match wantShape bs l variant with
  | none => false
  | some v =>
    let scratchOff := 0x100 + b.ngroups * v.stride
    let faultOff := fieldAt bs 0x48 8
    fieldAt bs 0 4 == 0x4E485341 && fieldAt bs 4 2 == 1 && fieldAt bs 0x17 1 == l.record.world
    && fieldAt bs 0x20 1 == v.vregs && fieldAt bs 0x21 1 == v.tiles && fieldAt bs 0x22 1 == v.accs && fieldAt bs 0x24 4 == v.scratch
    && fieldAt bs 0x30 8 == 0x100 && fieldAt bs 0x16 1 == b.ngroups && fieldAt bs 0x38 8 == v.stride && fieldAt bs 0x40 8 == scratchOff
    && (faultOff == 0 || faultOff == scratchOff + v.scratch)
    && fieldAt bs 0x18 8 == (if faultOff = 0 then scratchOff + v.scratch else faultOff + 64 + 64 * fieldAt bs faultOff 4)

/-- A sparse map of words read from an image: key k from the word at off + 4 k. -/
def wordsAt (bs : List Byte) (off n : Nat) : SMap Word :=
  (List.range n).filterMap fun i => let w := BitVec.ofNat 32 (fieldAt bs (off + 4 * i) 4); if w = 0#32 then none else some (i, w)

/-- A replay entry of an image (R31): none where its lane mask is 0. -/
def parkedAt (bs : List Byte) (off seq : Nat) : Option Parked :=
  let lanes := BitVec.ofNat 32 (fieldAt bs (off + 8) 4)
  if lanes = 0#32 then none
  else some { w0 := fieldAt bs off 4, w1 := fieldAt bs (off + 4) 4, lanes := lanes, one := bit (fieldAt bs (off + 12) 4) 0, row := bit (fieldAt bs (off + 12) 4) 1
              pc := BitVec.ofNat 64 (fieldAt bs (off + 16) 8), addrs := (lanesOf lanes).map fun l => (l, fieldAt bs (off + 64 + 8 * l) 8), seq := seq, restored := true }

/-- A plane record of an image (R198): kind and depth follow from the source, the slot and PDESC. -/
def planeAt (bs : List Byte) (off : Nat) (slot : Nat → BitVec 128) : Plane :=
  let skind := fieldAt bs off 1
  let sl := fieldAt bs (off + 1) 1
  let spar := fieldAt bs (off + 2) 1 % 4
  let kb := if bit (fieldAt bs (off + 2) 1) 2 then 1 else 0
  match skind with
  | 1 => { kind := 1, k := 64, slot := sl, skind := 1
           w := (List.range 4096).map fun i => (i, BitVec.ofNat 32 (fieldAt bs (off + 32 + 2 * i) 2)), cw := wordsAt bs (off + 32 + 8192) 64 }
  | 2 => (match planeShape (slotType (slot sl)) (slotPrd (slot sl)) kb spar false with
    | some (kind, k) => { kind := kind, k := k, spar := spar, slot := sl, skind := 2, eoff := fieldAt bs (off + 4) 4, saddr := fieldAt bs (off + 8) 8
                          bitmap := fieldAt bs (off + 16) 16 }
    | none => {})
  | _ => {}

/-- The fixed part of a group record, into a group that has its place (R31). A PC has no bits [63:56] and [1:0] (R13, log entry 119). -/
def Group.readFixed (g : Group) (bs : List Byte) (off : Nat) (seqs : SMap Nat) (side : Nat) : Group :=
  let w (o n : Nat) : Nat := fieldAt bs (off + o) n
  let stackAt (l : Nat) : List DWord :=
    (List.range (min 8 (w (0x240 + 72 * l + 64) 2))).map fun i => BitVec.ofNat 64 (w (0x240 + 72 * l + 8 * i) 8)
  let qAt (n : Nat) : Option (Nat × QBinding) :=
    let fl := w (0xC80 + 8 * n + 4) 4
    if bit fl 0 then some (n, { ctx := BitVec.ofNat 32 (w (0xC80 + 8 * n) 4), pop := bit fl 1 }) else none
  let g1 : Group := { g with
    exited := BitVec.ofNat 32 (w 8 4), helper := BitVec.ofNat 32 (w 12 4), gstat := BitVec.ofNat 32 (w 16 4) &&& stickyMask
    k := BitVec.ofNat 32 (w 24 4 % 128), sideCount := if w 20 4 = 0 then 0 else side
    p := (List.range 7).filterMap fun n => let x := BitVec.ofNat 32 (w (0xB40 + 4 * n) 4); if x = 0#32 then none else some (n, x)
    q := (List.range 16).filterMap qAt
    s := wordsAt bs (off + 0xD00) 64
    replay := (List.range 16).filterMap fun i => parkedAt bs (off + 0xE00 + 320 * i) (getD seqs (g.num * 16 + i) 0) }
  let g2 := (List.range 32).foldl (fun (g : Group) l =>
    (((g.setPc (laneBit l) (asPc (BitVec.ofNat 64 (w (0x40 + 8 * l) 8)))).setMeet l (BitVec.ofNat 64 (w (0x140 + 8 * l) 8))).setStack l (stackAt l)).setSpill l
      (w (0x240 + 72 * l + 66) 2)) g1
  (List.range 16).foldl (fun (g : Group) n => g.setRejoin n { mask := BitVec.ofNat 32 (w (0xB80 + 16 * n) 4), addr := BitVec.ofNat 64 (w (0xB80 + 16 * n + 8) 8) }) g2

/-- The variable areas of a full save (R32). -/
def Group.readAreas (g : Group) (bs : List Byte) (off : Nat) (v : SaveShape) (slot : Nat → BitVec 128) : Group :=
  let vo := off + 8704
  let tl := vo + 128 * v.vregs
  let ao := tl + 4096 * v.tiles
  let po := ao + 8704 * v.accs
  let vmap := (List.range 32).flatMap fun l => (List.range v.vregs).filterMap fun r =>
    let x := BitVec.ofNat 32 (fieldAt bs (vo + 128 * r + 4 * l) 4); if x = 0#32 then none else some (l * 64 + r, x)
  let acc (base stride n size : Nat) : SMap Word := (List.range v.accs).flatMap fun a => (wordsAt bs (ao + 8704 * a + base) n).map fun e => (a * size + e.1 * stride, e.2)
  let g1 : Group := { g with
    v := vmap, tile := wordsAt bs tl (1024 * v.tiles)
    acc := acc 0 1 2048 2048, rs := acc 8192 1 32 32, cs := acc 8320 1 64 64, accStatus := acc 8576 1 1 1 }
  let a := planeAt bs po slot
  let b := planeAt bs (po + 8704) slot
  if v.accs > 0 ∧ (a.skind ≠ 0 ∨ b.skind ≠ 0) then { g1 with planeOwed := some (a, b) } else g1

/-- The registers of a switch-point save, by the LIVE bytes of the variant of the placement (R34, R72); every lane, exited ones too,
stands behind its `swpt` (R35). -/
def Group.readLive (g : Group) (bs : List Byte) (off : Nat) (live : List Nat) (pc : DWord) : Group :=
  let g0 := ({ g with s := [] } : Group).setPc (BitVec.allOnes 32) pc
  (List.range live.length).foldl (fun (g : Group) i =>
    let b := live.getD i 0
    let at_ (l : Nat) : Word := BitVec.ofNat 32 (fieldAt bs (off + 8704 + 128 * i + 4 * l) 4)
    if bit b 7 then g.setS (b % 64) (at_ 0) else (List.range 32).foldl (fun (g : Group) l => g.setV l (b % 64) (at_ l)) g) g0

/-- A group as a save image gives it, into one that has its place (R31-R34). -/
def State.readGroup (s : State) (bs : List Byte) (b : Block) (l : Launch) (gid : Nat) (g : Group) (v : SaveShape) : Group :=
  let off := 0x100 + g.num * v.stride
  let g1 := g.readFixed bs off b.parkedSeqs (s.sideEntriesOf gid)
  let slot (n : Nat) : BitVec 128 := l.record.fmt.getD n 0#128
  if v.swpt = 0xFF then g1.readAreas bs off v slot
  else match (l.variantOf b).swptOf v.swpt with
    | some p => g1.readLive bs off p.2.2.2 (BitVec.ofNat 64 (l.kernel.code + p.2.2.1 + 4))
    | none => g1

/-- Group-holding planes reacquires its engine after a restore (R198): at once where nobody holds it, else as a waiter. -/
def State.reacquire (s : State) (gid : Nat) : State :=
  match find s.groups gid with
  | none => s
  | some g =>
    if g.planeOwed.isNone then s
    else
      let e := s.engine g.cluster g.sp
      if e.holder = some gid then s.reloadPlanes gid
      else if e.holder.isNone && e.waiters.isEmpty then (s.updEngine g.cluster g.sp fun e => { e.cleared with holder := some gid }).reloadPlanes gid
      else s.queueEngine gid g

/-- A restored group's places: its timestamp passes every one used (R246), VSWITCH is set where the image was of another variant (R34), and what its
side-log entries stand before is at most the present (R258). -/
def Group.resumed (g : Group) (ts order : Nat) (other : Bool) : Group :=
  let g1 : Group := { g with ts := ts, acqAt := if g.sideCount = 0 then g.acqAt else order }
  if other then g1.sticky stVswitch else g1

/-- The guard slots of an image's GUARDS (R30). A slot that holds 0b11, which never occurs (R18), is read as unresolved (log entry 143). -/
def guardsOf (x : Nat) : SMap Nat := (List.range 16).filterMap fun n => let g := x / 4 ^ n % 4; if g = 0 ∨ g = 3 then none else some (n, g)

/-- A restore fills the block's groups, scratchpad and guards from an image (R31-R34): the cluster's stream copies are replaced (R246, R253), parked
loads are reissued, planes reloaded. -/
def State.fillFrom (s : State) (bid : Nat) (b : Block) (l : Launch) (bs : List Byte) (v : SaveShape) (mark : Group → Group) : State :=
  let gids := (s.groupsOf bid).map fun e => e.1
  let ts := s.tsTop + 1
  let other := decide (fieldAt bs 0x14 1 ≠ b.variant)
  let s0 := { s.acquire b.cluster with tsTop := ts, order := s.order + 1 }
  let s1 := gids.foldl (fun (s : State) gid => s.updG gid fun g => mark ((s.readGroup bs b l gid g v).resumed ts s.order other)) s0
  let scratch := (bs.drop (0x100 + b.ngroups * v.stride)).take v.scratch
  let s2 := (s1.spWrite b 0 (scratch ++ zeros ((l.variantOf b).scratch - v.scratch))).updB bid fun b =>
    { b with guards := guardsOf (fieldAt bs 0x2C 4), bars := [], parkedSeqs := [] }
  gids.foldl (fun (s : State) gid =>
    let n := match find s.groups gid with | some g => g.replay.length | none => 0
    (List.range n).foldl (fun (s : State) _ =>
      match find s.groups gid with
      | some g => (match (sortBy (fun a b => decide (a ≤ b)) (g.replay.map fun p => p.seq)).head? with
        | some q => (match g.replay.findIdx? (fun p => p.seq = q) with | some i => s.replayParked gid i | none => s)
        | none => s)
      | none => s) (s.reacquire gid)) s2

end Sys2Proof.Machine
end

