-- ==== Sys2Proof/Machine/Retire.lean ====
section
/-!
DEFINITION. How blocks, items and launches end (R121, R169, R214, R237, R260, R270, R386-R395): exit, kill, recovery of error-struck
gangs, launch replay, failure reports.
-/
namespace Sys2Proof.Machine
open Sys2Proof

/-! ### The end of a block -/

/-- Settles the guarded commands and items of a block that ends (R214): a slot resolved true lets them run, every other discards them. -/
def Ctx.dropGuarded (x : Ctx) (bid : Nat) (guards : SMap Nat) : Ctx :=
  let cmd (c : Cmd) : Cmd := match c.guard with
    | some (b, slot) => if b ≠ bid then c else if getD guards slot 0 = 1 then { c with guard := none } else { c with guard := none, discarded := true }
    | none => c
  let item (i : Item) : Item := match i.guard with
    | some (b, slot) => if b ≠ bid then i else if getD guards slot 0 = 1 then { i with guard := none } else { i with guard := none, discarded := true }
    | none => i
  { x with cmds := x.cmds.map cmd, items := x.items.map item }

/-- Settles a block's guarded commands in every context of its launch. -/
def State.dropGuarded (s : State) (bid : Nat) (b : Block) : State :=
  s.updL b.lid fun l => { l with ctxs := l.ctxs.map fun (e : Nat × Ctx) => (e.1, e.2.dropGuarded bid b.guards) }

/-- Takes the groups of a block out of their sub-partitions: they publish, leave engines and supersteps, and their slots are filled. -/
def State.removeGroups (s : State) (bid : Nat) (b : Block) : State :=
  let gids := (s.groupsOf bid).map fun e => e.1
  let s0 := (s.groupsOf bid).foldl (fun (s : State) (e : Nat × Group) => if e.2.phase == .retired then s else s.dropInjection e.2) s
  let s1 := gids.foldl (fun (s : State) gid => (s.releaseParty b.cluster gid).leaveEngine gid) s0
  let s2 : State := { s1 with groups := delIf s1.groups fun g => g / 32 = bid }
  let s3 := s2.updL b.lid fun l => { l with superstep := l.superstep.filter fun g => g / 32 ≠ bid }
  s3.scheduleAll b.cluster

/-- A block ends, by exit or by a kill (R121, R169, R214): its objects are invalidated, its guarded commands settled, its `ldasy` pieces
dropped; side-log entries still replay. -/
def State.endBlock (s : State) (bid : Nat) : State :=
  match find s.blocks bid with
  | none => s
  | some b =>
    if b.phase = .gone then s
    else
      let s1 := (s.orphanObjects bid).dropGuarded bid b
      let s2 := (s1.updC b.cluster fun k => { k with pieces := k.pieces.filter fun p => p.bid ≠ bid }).removeGroups bid b
      let s3 := s2.updB bid fun b => { b with phase := .gone, saving := none, request := none, held := false }
      (s3.settleSuper b.lid).sampleAll b.lid

/-! ### Items (R215, R269, R270) -/

/-- The counter after number n: the largest n such that every number up to n has settled (R20). -/
def settleFrom (settled : List Nat) (counter : Nat) : Nat → Nat
  | 0 => counter
  | n + 1 => if settled.contains (counter + 1) then settleFrom settled (counter + 1) n else counter

/-- Number n of an enqueue context has completed or been discarded. -/
def Ctx.settle (x : Ctx) (n : Nat) : Ctx :=
  let l := n :: x.settled
  let c := settleFrom l x.counter l.length
  { x with counter := c, settled := l.filter fun k => decide (c < k) }

/-- The live blocks of a gang. -/
def State.liveBlocks (s : State) (g : Gang) : List Nat :=
  g.blocks.filter fun b => match find s.blocks b with | some x => x.phase != .gone | none => false

/-- Whether a store or reduction of a launch still waits in a side log. -/
def State.launchLogged (s : State) (lid : Nat) : Bool :=
  s.clusters.any fun (e : Nat × Cluster) => e.2.sideLogs.any fun (x : Nat × List SideLog) => x.2.any fun y => y.lid = lid

/-- Whether an engine command of a launch may still write: one whose context's head starves for an entry of its FIFO never runs. -/
def Launch.writesLeft (l : Launch) : Bool :=
  l.ctxs.any fun (e : Nat × Ctx) => match e.2.cmds with
    | [] => false
    | c :: _ => !(((c.op = 0x25 || c.op = 0x26) && bit c.opts 1 && e.2.push.isEmpty && decide (c.taken.length < c.amount)) || (c.op = 0x28 && !e.2.popRoom))

/-- The release of a coresident launch's held blocks (R272). -/
def State.checkRelease (s : State) (lid : Nat) : State :=
  match find s.launches lid with
  | none => s
  | some l =>
    let allPlaced := l.seedDone && l.ctxs.all (fun (e : Nat × Ctx) => e.2.items.isEmpty) && l.gangs.all fun (e : Nat × Gang) => !e.2.queued
    if bit l.record.lflags 2 ∧ !l.released ∧ (decide (l.record.resblk ≤ l.placedBlocks) || allPlaced) then
      let s1 := s.updL lid fun l => { l with released := true }
      { s1 with blocks := s1.blocks.map fun (e : Nat × Block) => if e.2.lid = lid then (e.1, { e.2 with held := false }) else e }
    else s

/-- Retires a gang whose every block has ended (R270): its item's record, the counter, the spawn tree. While the record's page is on its
way nothing happens, and the last gang waits for the launch's side-log entries and engine writes (R260). Gang 0 is the seed group, which has no
record. Held blocks of a coresident launch may then be released (R272). -/
def State.finishGang (s : State) (lid gang : Nat) : State :=
  match find s.launches lid with
  | none => s
  | some l =>
    match find l.gangs gang with
    | none => s
    | some g =>
      if g.queued || !(s.liveBlocks g).isEmpty || (l.spawn = 1 && (s.launchLogged lid || l.writesLeft)) then s
      else
        let r := if gang = 0 then (true, s)
          else match g.failed with
            | some code => s.writeRecord lid g.ctx g.num 2 code 0
            | none => s.writeRecord lid g.ctx g.num 0 0 0
        if !r.1 then r.2
        else
          let s1 := if gang = 0 then r.2 else r.2.updCtx lid g.ctx fun x => x.settle g.num
          (s1.updL lid fun l => { l with spawn := l.spawn - 1, retired := l.retired + 1, gangs := del l.gangs gang
                                         seedDone := l.seedDone || decide (gang = 0) }).checkRelease lid

/-- Discards a guarded item at a queue's head (R214, R225): a record with DISC for each number; the spawn tree falls by its count. -/
def State.discardItem (s : State) (lid ctx : Nat) (i : Item) : State :=
  let r := (List.range i.count).foldl (fun (r : Bool × State) k =>
    if r.1 then r.2.writeRecord lid ctx (i.num + k) 1 0 0 else r) (true, s)
  if !r.1 then r.2
  else
    let s1 := r.2.updCtx lid ctx fun x => (List.range i.count).foldl (fun (x : Ctx) k => x.settle (i.num + k)) { x with items := x.items.drop 1 }
    ((s1.updL lid fun l => { l with spawn := l.spawn - i.count, retired := l.retired + i.count }).sampleHead lid ctx).checkRelease lid

/-- ENGINE_COMMAND_COMPLETE (R215): the command at a context's head completes or is discarded, its record is written, the counter
advances. A video command whose last record waits is not at its end (R432). -/
def execEngineCommandComplete (own ctx num : Nat) (s0 : State) : Out :=
  let s := s0.sampleHead own ctx
  match s.ctx own ctx with
  | none => .next s0
  | some x =>
    if ctx / 4096 = 5 then
      match x.items with
      | i :: _ => .next (if i.discarded && decide (i.num = num) then s.discardItem own ctx i else s)
      | [] => .next s
    else
      match x.cmds with
      | c :: _ =>
        if c.num ≠ num ∨ c.guard.isSome ∨ c.failed.isSome then .next s
        else if c.discarded then .next (s.endHead own ctx c 1 0 id)
        else if s.allLanded own c ∧ (c.op ≠ 0x28 ∨ x.popRoom) then .next (s.endHead own ctx c (if c.ended = 2 then 4 else 0) 0 id)
        else .next s
      | [] => .next s

/-! ### Failure reports (R395) -/

/-- Where an error of a gang shows (R404): PC, address, lanes and block of the delivered fault that the lowest group of its lowest block
still has; the address masked in a protected world (R358). -/
def State.faultOf (s : State) (g : Gang) : Nat × Nat × Nat × Nat :=
  let best := s.blocks.foldl (fun (best : Option Block) (e : Nat × Block) =>
    if g.blocks.contains e.1 && !e.2.told.isEmpty then
      match best with
      | some b => if e.2.blk < b.blk then some e.2 else some b
      | none => some e.2
    else best) none
  match best with
  | none => (0, 0, 0, 0)
  | some b =>
    match b.told with
    | [] => (0, 0, 0, 0)
    | (_, r) :: _ =>
      let world := match s.launchOf b with | some l => l.record.world | none => 0
      (r.pc.toNat, if world = 0 then r.addr.toNat else r.addr.toNat / 4096 * 4096, r.lanes.toNat, b.blk)

/-- The failure entry of a gang (R395). -/
def State.gangFailure (s : State) (g : Gang) (code save : Nat) : Failure :=
  let f := s.faultOf g
  { num := g.num, gang := g.gang, ctx := 0, kind := (if g.gang = 0 then 1 else 0) + 16 * g.relaunches, code := code, pc := f.1, addr := f.2.1
    save := save, lanes := f.2.2.1, blk := f.2.2.2 }

/-- Records that a gang's item has failed; it retires once its blocks have ended. -/
def State.noteFailed (s : State) (lid gang code : Nat) (f : Failure) : State :=
  (s.addFailure lid f).updL lid fun l =>
    { l with nfail := min (l.nfail + 1) (2 ^ 32 - 1), gangs := upd l.gangs gang fun g => { g with failed := some code, queued := false } }

/-- Ends blocks of a gang and reports its item failed (R237, R395); a gang reports once. -/
def State.failGang (s : State) (lid gang code save : Nat) (bids : List Nat) : State :=
  match (find s.launches lid).bind fun l => find l.gangs gang with
  | none => bids.foldl State.endBlock s
  | some g =>
    let f := s.gangFailure g code save
    let s1 := bids.foldl State.endBlock s
    (if g.failed.isSome then s1 else s1.noteFailed lid gang code f).finishGang lid gang

/-! ### Messages between yard cores (R273-R275, R393) -/

/-- Sends a message to the yard core of the same function on another device. -/
def State.tell (s : State) (fn device gen : Nat) (msg : YardMsg) : State :=
  { s with outbox := s.outbox ++ [{ fn := fn, device := device, gen := gen, msg := msg }] }

/-- Sends a message to every device of a list but this one. -/
def State.tellAll (s : State) (fn : Nat) (devs : List Nat) (gen : Nat) (msg : YardMsg) : State :=
  (devs.filter (· ≠ s.device)).foldl (fun (s : State) d => s.tell fn d gen msg) s

/-! ### Replay of a launch (R393) and its end (R394) -/

/-- Stops a command that waits for an entry of an empty push FIFO or with its record for room in a full pop FIFO (R393). -/
def Ctx.stopWaiting (x : Ctx) : Ctx :=
  match x.cmds with
  | [] => x
  | c :: rest =>
    let starved := (c.op = 0x25 ∨ c.op = 0x26) ∧ bit c.opts 1 ∧ x.push.isEmpty ∧ c.taken.length < c.amount
    let full := c.op = 0x28 ∧ !x.popRoom
    if c.failed.isNone ∧ !c.discarded ∧ (starved ∨ full) then { x with cmds := { c with failed := some (0x42, 0) } :: rest } else x

/-- The blocks of a launch that have not ended. -/
def State.blocksOfLaunch (s : State) (lid : Nat) : List Nat := (s.blocks.filter fun (e : Nat × Block) => e.2.lid = lid && e.2.phase != .gone).map fun e => e.1

/-- Ends every block of a launch, without saves. -/
def State.endBlocks (s : State) (lid : Nat) : State := (s.blocksOfLaunch lid).foldl State.endBlock s

/-- Drops a launch's side-log entries (R393, R375). -/
def State.dropLogs (s : State) (lid : Nat) : State :=
  { s with clusters := s.clusters.map fun (c : Nat × Cluster) =>
      (c.1, { c.2 with sideLogs := (c.2.sideLogs.map fun (l : Nat × List SideLog) => (l.1, l.2.filter fun e => e.lid ≠ lid)).filter fun (l : Nat × List SideLog) => l.2 != [] }) }

/-- Saturating increment of a counter word. -/
def satInc (x : DWord) : DWord := if x = BitVec.allOnes 64 then x else x + 1#64

/-- The seed gang of a launch, to be placed (R268). It fits as a group item does, in sub-partition 0 alone (DESIGN CHOICE, log entry 166). -/
def seedGang : Gang := { ctx := 0, num := 0, gang := 0, arg := 0#64, groupItem := true, queued := true }

/-- A launch's contexts as they are created (R20, R267): counters 0, nothing queued. -/
def Ctx.renew (x : Ctx) : Ctx := { ring := x.ring, rlog := x.rlog, engine := x.engine, room := x.room }

/-- Whether a launch has started its seed group and not completed. -/
def Launch.started (l : Launch) : Bool := l.phase == .running || l.phase == .committing

/-- Begins the replay of a launch (R393, steps 1 and 2): its blocks are killed, its waiting accesses and unresolved commands dropped. A launch that has not
started keeps what it knows of the start barrier. -/
def State.startReplay (s : State) (lid : Nat) : State :=
  let s1 := ((s.endBlocks lid).dropLogs lid)
  s1.updL lid fun l => { l with
    replaying := true, prepared := false, go := false, readyFrom := if l.started then [] else l.readyFrom
    phase := if l.started then .running else l.phase, gangs := [], failures := [], nfail := 0, retired := 0, doneFrom := [], superstep := []
    ctxs := l.ctxs.map fun (e : Nat × Ctx) => (e.1, { e.2.stopWaiting with items := [] }) }

/-- An error begins the replay of a launch, on every participating device where it has started (R393; log entry 151). -/
def State.replayAll (s : State) (lid : Nat) : State :=
  match find s.launches lid with
  | none => s
  | some l =>
    let s1 := s.startReplay lid
    if l.record.ndev ≠ 1 ∧ l.started then s1.tellAll l.fn l.devs l.record.gen .replay else s1

/-- The seed group of a replayed launch starts again (R393, step 6). -/
def State.restartSeed (s : State) (lid : Nat) : State :=
  s.updL lid fun l => { l with gangNext := 1, gangs := [(0, seedGang)], replaying := false, prepared := false, go := false }

/-- The end of a replay on this device once step 4 is finished (R393, step 6): one device goes on at once; of several rank 0 collects the reports of
all, its own included, and then has every seed group start. -/
def State.endReplay (s : State) (lid : Nat) : State :=
  match find s.launches lid with
  | none => s
  | some l =>
    if !l.prepared then s
    else if l.record.ndev = 1 ∨ l.go then s.restartSeed lid
    else if l.rank = 0 ∧ (List.range l.record.ndev).all (fun r => l.readyFrom.contains r) then (s.tellAll l.fn l.devs l.record.gen .start).restartSeed lid
    else s

/-- Writes the records that a launch's end owes, in order, each before its counter; one whose page is on its way stops the rest (R261). -/
def State.payRecords (s : State) (lid : Nat) : State :=
  let owed := match find s.launches lid with | some l => l.owed | none => []
  (owed.foldl (fun (r : Bool × State) (o : Nat × Nat × Nat) =>
    if !r.1 then r
    else match r.2.writeRecord lid o.1 o.2.1 2 o.2.2 0 with
      | (false, s1) => (false, s1)
      | (true, s1) => (true, (s1.updCtx lid o.1 fun x => x.settle o.2.1).updL lid fun l => { l with owed := l.owed.drop 1 })) (true, s)).2

/-- Ends a launch (R394, R375, R295): its blocks are killed, its shadows discarded, every unretired item is reported failed with a code,
and STATUS is what its completion record will carry. -/
def State.endLaunch (s : State) (lid status code : Nat) : State :=
  match find s.launches lid with
  | none => s
  | some l =>
    if l.phase = .ended then s
    else
      let live := l.gangs.map fun (e : Nat × Gang) => e.2
      let f1 := (live.filter fun g => g.failed.isNone).map fun g =>
        let f := s.gangFailure g code 0
        if g.queued && g.blocks.isEmpty && g.relaunches = 0 && g.gang ≠ 0 then { f with kind := 4 } else f
      let queued := l.ctxs.flatMap fun (e : Nat × Ctx) => e.2.items.flatMap fun i =>
        if i.discarded then [] else ((List.range (i.count - i.next)).map fun k => (e.1, i.num + i.next + k, i.gang + i.next + k))
      let f2 : List Failure := queued.map fun q => { num := q.2.1, gang := q.2.2, ctx := 0, kind := 4, code := code, pc := 0, addr := 0, save := 0, lanes := 0, blk := 0 }
      let s1 := (s.endBlocks lid).discardShadows lid
      let recs := ((live.filter fun g => g.gang ≠ 0).map fun g => (g.ctx, g.num, g.failed.getD code)) ++ queued.map fun q => (q.1, q.2.1, code)
      (s1.updL lid fun l => { l with
        owed := l.owed ++ recs, status := status, spawn := 0, retired := l.retired + live.length + queued.length, nfail := min (l.nfail + f1.length + f2.length) (2 ^ 32 - 1)
        failures := l.failures ++ f1 ++ f2, gangs := [], seedDone := true, replaying := false, prepared := false, go := false
        phase := (if l.phase = .admitted ∨ l.phase = .barrier then .running else l.phase)
        ctxs := l.ctxs.map fun (e : Nat × Ctx) => (e.1, { e.2.stopWaiting with items := [] }) }).payRecords lid

/-! ### Recovery (R387, R388) -/

/-- Whether the save of a resident block of the same gang is in progress: it completes before the gang is killed (R397, R410). -/
def State.gangSaving (s : State) (b : Block) : Bool :=
  s.blocks.any fun (e : Nat × Block) => e.2.lid = b.lid && e.2.gang = b.gang && e.2.saving.isSome && e.2.phase == .resident

/-- The blocks of a gang that its recovery saves with REASON 4: the resident ones. -/
def State.residents (s : State) (g : Gang) : List Nat :=
  (s.liveBlocks g).filter fun bid => match find s.blocks bid with | some b => b.phase == .resident | none => false

/-- The address of the REASON 4 save of rank 0 (R395): 0 where that block has ended already. -/
def State.saveOfRank0 (s : State) (g : Gang) : Nat :=
  ((s.liveBlocks g).findSome? fun b => (find s.blocks b).bind fun x => if x.blk % 8 = 0 then some x.save else none).getD 0

/-- Recovery of an error-struck gang whose saves are written (R388): its blocks, whose areas the launch keeps, are killed; it is rolled back, or its
launch replayed or ended, or its item reported failed. -/
def State.settleRecovery (s : State) (lid gang code : Nat) : State :=
  match find s.launches lid with
  | none => s
  | some l =>
    match find l.gangs gang with
    | none => s
    | some g =>
      if l.replaying then s
      else
        let f := s.gangFailure g code 0
        let bids := s.liveBlocks g
        let areas := bids.filterMap fun bid => (find s.blocks bid).map fun (b : Block) => (g.gang, b.save, b.areaBytes)
        let s1 := bids.foldl State.endBlock (s.updL lid fun l => { l with kept := l.kept ++ areas })
        if bit l.record.lflags 1 ∧ gang ≠ 0 ∧ g.relaunches < 2 then
          let again (g : Gang) : Gang := { g with relaunches := g.relaunches + 1, queued := true, blocks := [] }
          (s1.updL lid fun l => { l with gangs := upd l.gangs gang again }).updF l.fn fun x => { x with rollbk := satInc x.rollbk }
        else if l.replayable then
          if l.attempts < 2 then s1.replayAll lid else s1.endLaunch lid 7 code
        else (s1.noteFailed lid gang code { f with save := s.saveOfRank0 g }).finishGang lid gang

/-- The moment a save of a block begins (R352): its generation retires, its side-log entries are counted. -/
def Block.beginSave (b : Block) (reason clk : Nat) (counts : SMap Nat) : Block :=
  { b with saving := some (reason, clk), genRetired := true, sideCounts := counts, faults := [], nested := [] }

/-- Recovery of an error-struck gang (R388): its resident blocks are halted and saved with REASON 4, and BLOCK_SAVE_COMPLETE goes on with it; a
block whose save for another REASON is in progress takes no second save (R397). -/
def State.recover (s : State) (lid gang code : Nat) : State :=
  match (find s.launches lid).bind fun l => find l.gangs gang with
  | none => s
  | some g =>
    match s.residents g with
    | [] => s.settleRecovery lid gang code
    | bids => bids.foldl (fun (s : State) bid =>
        let counts := s.sideCountsOf bid
        s.updB bid fun b => if b.saving.isSome then b else b.beginSave 4 s.clk counts) s

/-- Kills a block (`whole` false) or its gang (R237, R387): an error-struck gang enters recovery with its code, else the item is reported
failed with F_GANG_KILLED. A cluster stop reports F_GANG_KILLED, the code it struck the gang with. -/
def State.killFor (s : State) (bid : Nat) (whole : Bool) : State :=
  match find s.blocks bid with
  | none => s
  | some b =>
    match b.struck with
    | some (code, _) => s.recover b.lid b.gang code
    | none =>
      let bids := if whole then (s.blocks.filter fun (e : Nat × Block) => e.2.lid = b.lid && e.2.gang = b.gang && e.2.phase != .gone).map fun e => e.1 else [bid]
      s.failGang b.lid b.gang 0x42 0 bids

/-- ERROR_KILL_TIMEOUT (R332, R387): the mainmast kills an error-struck gang 450,000 clk after the delivery of its fault, or after the error where no
group of it is left to take one (log entry 144), at once where its mast core has stopped; a save of it that is in progress completes first (R397). The cluster of a stopped mast core takes no more blocks. -/
def execErrorKillTimeout (bid : Nat) (s : State) : Out :=
  match find s.blocks bid with
  | none => .next s
  | some b =>
    match b.struck with
    | none => .next s
    | some (code, t) =>
      let stopped := (s.mast b.cluster).stopped
      let untold := s.groups.any fun (e : Nat × Group) => (match s.blockOf e.2 with | some x => x.lid = b.lid && x.gang = b.gang | none => false) &&
        (match e.2.event with | some r => r.halts | none => false)
      if b.phase = .gone ∨ s.gangSaving b ∨ !((!untold && decide (b.warned.getD t + 450000 ≤ s.clk)) || stopped) then .next s
      else .next ((if stopped then s.updC b.cluster fun k => { k with closed := true } else s).recover b.lid b.gang code)

/-- Steps 3 to 5 of a replay, and the report of a participant other than rank 0 (R393): shadows discarded, contexts created afresh, the parameter block
copied back; while a page of that is on its way nothing more happens. -/
def State.prepareReplay (s : State) (lid : Nat) (l : Launch) : State :=
  match (s.discardShadows lid).hwStore l.record.world l.asid l.record.param l.pcopy with
  | (.wait, s1) => s1
  | (_, s1) =>
    let s2 := (s1.updL lid fun l => { l with
      ctxs := l.ctxs.map fun (e : Nat × Ctx) => (e.1, e.2.renew)
      failures := [], nfail := 0, retired := 0, spawn := if l.started then 1 else 0, gangNext := 0, gangs := [], enqBlocks := 0, placedBlocks := 0
      released := false, turn := 0, attempts := l.attempts + 1, seedDone := false, superstep := [], prepared := l.started, replaying := l.started
      readyFrom := if l.started && l.rank = 0 then 0 :: l.readyFrom else l.readyFrom }).updF l.fn fun x => { x with replay := satInc x.replay }
    let s3 := if l.started ∧ l.record.ndev ≠ 1 ∧ l.rank ≠ 0 ∧ !l.go then s2.tell l.fn (l.devs.headD 0) l.record.gen .ready else s2
    s3.endReplay lid

/-- REPLAY_RESTART (R393, steps 3 to 6): once the launch's numbered commands have completed or failed the yard core prepares its replay; the seed
group starts again when every participant has done so. At a launch of several devices that runs it is another participant's word that the launch
replays (DESIGN CHOICE, log entry 151). -/
def execReplayRestart (lid : Nat) (s : State) : Out :=
  match find s.launches lid with
  | none => .next s
  | some l =>
    if !l.replaying then .next (if l.record.ndev ≠ 1 ∧ l.started ∧ l.replayable ∧ l.attempts < 2 then s.startReplay lid else s)
    else if l.prepared then .next s
    else if l.ctxs.any fun (e : Nat × Ctx) => e.2.cmds != [] then
      .next (s.updL lid fun l => { l with ctxs := l.ctxs.map fun (e : Nat × Ctx) => (e.1, e.2.stopWaiting) })
    else .next (s.prepareReplay lid l)

/-! ### Errors of the memory and of storage (R28, R378-R383, R386) -/

/-- A launch struck by an error (R386): it is replayed, or ended where it cannot be; a replay absorbs it, and a commit that has begun stands
(R397). -/
def State.strikeLaunch (s : State) (lid : Nat) : State :=
  match find s.launches lid with
  | none => s
  | some l =>
    if l.phase = .ended ∨ l.phase = .committing ∨ l.replaying ∨ (l.status ≠ 0) then s
    else if l.replayable ∧ l.attempts < 2 then s.replayAll lid
    else s.endLaunch lid 7 0x40

/-- The live launches that satisfy p are struck. -/
def State.strikeLaunches (s : State) (p : Launch → Bool) : State :=
  (s.launches.filter fun (e : Nat × Launch) => p e.2).foldl (fun (s : State) (e : Nat × Launch) => s.strikeLaunch e.1) s

/-- The launches struck by an error in a dirty line of an ASID (R386): those of the ASID whose commit has not begun; a line of the shared region, which is
tagged ASID 0, strikes every one that writes there (R402). -/
def State.strikeLine (s : State) (asid : Nat) : State :=
  s.strikeLaunches fun l => l.asid = asid || (asid = 0 && l.wroteShared)

/-- An uncorrectable error in the storage of a resident group: entry x / 2^14, place x % 2^14, by kind. -/
def State.poisonGroup (s : State) (x kind : Nat) : State :=
  let n := x % 16384
  let place : Option ErrPlace := match kind with
    | 8 => some (.vreg (n % 32) (n / 32))
    | 9 => some (.sreg n)
    | 10 => some (.tile (n / 1024) (n % 1024))
    | 11 => some (.acc (n / 4096) (n % 4096))
    | 12 => if n < 7 then some (.pred n) else none
    | 13 => if n < 7 then some (.upred n) else none
    | 14 => some (.rejoin n)
    | 15 => some (.stack (n % 32) (n / 32))
    | 16 => some .waiting
    | _ => none
  match place, find s.groups (x / 16384) with
  | some e, some g => if g.phase = .retired then s else s.updG (x / 16384) fun g => { g with errs := g.errs.insert e }
  | _, _ => s

/-- MEMORY_SCRUB (R28, R378-R383, R386): what an ECC or parity check found. 1: a corrected error of the line at pa, written back without a change;
2: an uncorrectable one, which poisons the quarter-line. For cluster pa % 2^11: 3 a corrected error of the mast core's SRAM, 4 an uncorrectable one,
which poisons granule pa / 2^11, 5 a parity error of the CTB, whose entries are dropped and refilled, 6 a corrected error in another of its
structures, 7 an uncorrectable one, which poisons scratchpad granule pa / 2^11. 8 to 16: one in the storage of a group. 17: one in an L2
sector by its key, which strikes launches where it is dirty, 18 in an engine context's state, 19 in a yard core's private memory: these strike launches.
For cluster pa % 2^11 and n = pa / 2^11: 20 one in sector n % 8 of the L1 copy n / 8, 21 in the stores that the L1 holds of the sector n, 23 in entry
n / 4 of the side log of sub-partition n % 4. 22: one in the memory-side cache's sector at pa. An error in the tag of a cache is one in its sectors. -/
def execMemoryScrub (pa kind : Nat) (s : State) : Out :=
  let c := pa % 2 ^ 11
  let merr (b : Nat) : State := s.updM c fun m => { m with merr := m.merr ||| laneBit b }
  match kind with
  | 1 =>
    if !inTier pa then .next s
    else
      let d := (eccHome pa).1
      let n := getD (s.die d).ceFrames (pa / 4096) 0 + 1
      .next ((s.updD d fun x => { x with ceFrames := put x.ceFrames (pa / 4096) n }).eccEvent pa (if n ≥ 8 then 2 else 0))
  | 2 =>
    if !inTier pa then .next s
    else .next ({ s with memPoison := setD (setD s.memPoison (pa / 32 * 2) true false) (pa / 32 * 2 + 1) true false }.eccEvent pa 1)
  | 3 => .next (if c < 1280 then (merr 0).countWord c 0 else s)
  | 4 => .next (if c < 1280 ∧ pa / 2 ^ 11 < 32768 then ((merr 1).updM c fun m => { m with bad := put m.bad (pa / 2 ^ 11) true }).countWord c 1 else s)
  | 5 => .next (if c < 1280 then (merr 2).updC c fun k => { k with ctb := k.ctb.filter fun x => x.mast } else s)
  | 6 => .next (if c < 1280 then s.countWord c 0 else s)
  | 7 => .next (if c < 1280 ∧ pa / 2 ^ 11 < 32768 then s.updC c fun k => { k with poison := put k.poison (pa / 2 ^ 11) true } else s)
  | 17 =>
    match find s.l2 pa with
    | some x => .next (if x.dirty then
        ({ s with l2 := put s.l2 pa { x with poison := true } } : State).strikeLine (pa / 2 ^ 52 % 65536)
      else { s with l2 := put s.l2 pa { x with poison := true } })
    | none => .next s
  | 18 => .next (s.strikeLaunches fun l => l.lid.toNat = pa)
  | 19 => .next (s.strikeLaunches fun l => l.fn = pa)
  | 20 =>
    let x := pa / 2 ^ 11
    .next (s.updC c fun k => { k with l1 := upd k.l1 (x / 8) fun l => { l with bad := l.bad ||| 2 ^ (x % 8) } })
  | 21 =>
    let x := pa / 2 ^ 11
    if (s.cluster c).l1held.any fun e => e.1 / 16 = x then
      .next ((s.updC c fun k => { k with l1held := k.l1held.map fun (e : Nat × Held) => if e.1 / 16 = x then (e.1, { e.2 with bad := true }) else e }).strikeLine (x / 2 ^ 52))
    else .next s
  | 22 =>
    if (getD s.msc (pa / 2 ^ 36) []).any fun e => e.line = pa / 128 && e.held.testBit (pa / 16 % 8) then .next { s with memPoison := setD s.memPoison (pa / 16) true false }
    else .next s
  | 23 =>
    let x := pa / 2 ^ 11
    let spoil (l : List SideLog) : List SideLog := l.modify (x / 4) fun e => { e with bad := true }
    .next (s.updC c fun k => { k with sideLogs := upd k.sideLogs (x % 4) spoil })
  | k => .next (s.poisonGroup pa k)

end Sys2Proof.Machine
end

