-- ==== Sys2Proof/Machine/Place.lean ====
section
/-!
DEFINITION. The dispatcher's placement (R268-R272, R280-R282): what fits where, placing a gang, block retirement, the halt of groups.
-/
namespace Sys2Proof.Machine
open Sys2Proof

/-! ### What fits (R9, R280, R281) -/

/-- Footprint of a variant (R281). -/
def Variant.footprint (v : Variant) (groups : Nat) : Nat := groups * (128 * v.vregs + 4096 * (v.tiles + 2 * v.accs)) + v.scratch

/-- The variants a launch may place under, in the order of R281: PINVAR alone, or those of VMASK by descending footprint. -/
def Launch.variantOrder (l : Launch) : List (Nat × Variant) :=
  if bit l.record.lflags 3 then l.kernel.variants.filter fun e => e.1 = bits l.record.lflags 5 4
  else sortBy (fun (a b : Nat × Variant) =>
    decide (b.2.footprint l.kernel.groups < a.2.footprint l.kernel.groups) || (a.2.footprint l.kernel.groups = b.2.footprint l.kernel.groups && decide (a.1 ≤ b.1)))
    (l.kernel.variants.filter fun e => bit l.record.vmask e.1)

/-- What the groups resident in a sub-partition take: register-file bytes, tiles, accumulator tiles, slots; blocks in `skip` do not count. A group that
has exited with matrix work outstanding keeps its tiles and accumulator tiles (R201). -/
def State.spUse (s : State) (c sp : Nat) (skip : List Nat) : Nat × Nat × Nat × Nat :=
  s.groups.foldl (fun (u : Nat × Nat × Nat × Nat) (e : Nat × Group) =>
    if e.2.residentAt c sp ∧ !skip.contains e.2.bid then
      let v := s.variantOf e.2
      (u.1 + 128 * v.vregs, u.2.1 + v.tiles, u.2.2.1 + v.accs, u.2.2.2 + 1)
    else if e.2.cluster = c ∧ e.2.sp = sp ∧ !e.2.pipe.isEmpty ∧ !skip.contains e.2.bid then
      let v := s.variantOf e.2
      (u.1, u.2.1 + v.tiles, u.2.2.1 + v.accs, u.2.2.2)
    else u) (0, 0, 0, 0)

/-- The scratchpad banks of a cluster that are fenced to a world and hold no resident block's scratchpad. -/
def State.freeBanks (s : State) (c world : Nat) (skip : List Nat) : List Nat :=
  (List.range 32).filter fun i => getD (s.cluster c).bankWorld i 0 = world &&
    !s.blocks.any fun (e : Nat × Block) => e.2.cluster = c && e.2.phase == .resident && !skip.contains e.1 && e.2.banks.contains i

/-- The group slots of a sub-partition that take no group while the F_PREEMPT of the save that vacated them has not been taken (R352). -/
def State.barredSlots (s : State) (c sp : Nat) : List Nat :=
  let k := s.cluster c
  (k.barred.filterMap fun (p : Nat × Nat) =>
    if p.2 / 32 = sp && k.mast.events.any (fun e => e.code = 0x52 && e.bid = p.1) then some (p.2 % 32) else none).eraseDups

/-- Groups of a block of n that stand on sub-partition sp (R269). -/
def groupsAt (n sp : Nat) : Nat := (n + 3 - sp) / 4

/-- Whether a block of n groups under a variant fits on a cluster (R280); a group item needs sub-partition 0 alone. -/
def State.fitsBlock (s : State) (c world n : Nat) (item : Bool) (v : Variant) (skip : List Nat) : Bool :=
  (List.range 4).all (fun sp =>
    let k := groupsAt n sp
    let u := s.spUse c sp skip
    (item && k = 0) ||
    (getD (s.cluster c).spWorld sp 0 = world && decide (u.1 + k * 128 * v.vregs ≤ 2 ^ 18) && decide (u.2.1 + k * v.tiles ≤ 32)
      && decide (u.2.2.1 + k * v.accs ≤ 16) && decide (u.2.2.2 + (s.barredSlots c sp).length + k ≤ 32)))
  && decide (v.scratch / 16384 ≤ (s.freeBanks c world skip).length)

/-- Whether a logical cluster is in service (R398, R400). -/
def State.inService (s : State) (c : Nat) : Bool := decide (c < 1280) && bits (getD (s.die (c / 80)).maps (c % 80 / 8) 0#64).toNat (4 * (c % 8) + 3) (4 * (c % 8)) != 15

/-- The function whose slice of 4,500,000 clk it is on a cluster that several functions are granted, by their shares (R287). In which slices a
function's turn falls the spec does not say (DESIGN CHOICE, log entry 129). -/
def State.turnOfFn (s : State) (c : Nat) : Option Nat :=
  let fs := (s.fns.filter fun (e : Nat × Fn) => e.2.share != 0 && e.2.clusters.contains c).map fun (e : Nat × Fn) => (e.1, e.2.share)
  let total := fs.foldl (fun n e => n + e.2) 0
  (fs.foldl (fun (r : Option Nat × Nat) e => match r.1 with
    | some _ => r
    | none => if r.2 < e.2 then (some e.1, 0) else (none, r.2 - e.2)) (none, s.clk / 4500000 % total)).1

/-- Whether the dispatcher places blocks of a function on a cluster: granted, in service, not scanning, not held back (R238, R287, R400, R412). -/
def State.placeable (s : State) (fn c : Nat) : Bool :=
  let k := s.cluster c
  (s.fn fn).clusters.contains c && s.turnOfFn c == some fn && s.inService c && !k.closed && !k.inReset && !k.mast.stopped && (match k.mast.wait with | .scan _ _ _ => false | _ => true)

/-- Clusters for the k blocks of a gang under a variant: the first neighbourhood that has k fitting ones (R280). -/
def State.chooseClusters (s : State) (fn world n k : Nat) (item : Bool) (v : Variant) : Option (List Nat) :=
  let ok := (s.fn fn).clusters.filter fun c => s.placeable fn c && s.fitsBlock c world n item v []
  (ok.map fun c => c / 8).eraseDups.findSome? fun h =>
    let cs := (ok.filter fun c => c / 8 = h).eraseDups
    if k ≤ cs.length then some (cs.take k) else none

/-- Whether a choice of clusters serves a gang of k blocks. -/
def State.clustersOk (s : State) (fn world n k : Nat) (item : Bool) (v : Variant) (cls : List Nat) : Bool :=
  cls.length == k && decide cls.Nodup && cls.all fun c => s.placeable fn c && s.fitsBlock c world n item v [] && c / 8 == cls.headD 0 / 8

/-- The variant and clusters under which a gang fits, if any (R281). -/
def State.gangFit (s : State) (l : Launch) (item : Bool) : Option (Nat × Variant × List Nat) :=
  let n := if item then 1 else l.kernel.groups
  let k := if item then 1 else l.kernel.gangblk
  l.variantOrder.findSome? fun e => (s.chooseClusters l.fn l.record.world n k item e.2).map fun cs => (e.1, e.2, cs)

/-! ### Placing (R8, R15, R268, R269, R282, R345) -/

/-- A fresh placement generation of a cluster (R345): the counter's next value, skipping 0 and those of resident blocks. -/
def State.nextGen (s : State) (c : Nat) : Nat :=
  let used := (s.blocks.filter fun (e : Nat × Block) => e.2.cluster = c && e.2.phase == .resident).map fun (e : Nat × Block) => e.2.bgen
  let base := (s.cluster c).bgen
  ((List.range 200).map fun i => (base + 1 + i) % 2 ^ 14).find? (fun g => g != 0 && !used.contains g) |>.getD 1

/-- The lowest free group slot of a sub-partition (R289). -/
def State.freeGroupSlot (s : State) (c sp : Nat) : Nat :=
  ((List.range 32).find? fun i => !(s.barredSlots c sp).contains i && !s.groups.any fun (e : Nat × Group) => e.2.residentAt c sp && e.2.slot = i).getD 0

/-- Gives group j of a block its place on a cluster: pending, ready, of the age of this clk. -/
def State.addGroup (s : State) (bid j c : Nat) (f : Group → Group) : State :=
  let g : Group := { bid := bid, num := j, cluster := c, sp := j % 4, slot := s.freeGroupSlot c (j % 4), phase := .pReady false, age := s.clk, since := s.clk }
  { s with groups := put s.groups (bid * 32 + j) (f g) }

/-- Gives a block its banks and its generation on a cluster. -/
def State.seatBlock (s : State) (bid c variant : Nat) (v : Variant) (world : Nat) : State :=
  let gen := s.nextGen c
  let banks := (s.freeBanks c world [bid]).take (v.scratch / 16384)
  (s.updB bid fun b => { b with cluster := c, variant := variant, banks := banks, bgen := gen, genRetired := false, phase := .resident, residentAt := s.clk, saving := none, told := []
                                request := none }).updC c fun k => { k with bgen := gen }

/-- The registers of a group at its start (R8): the parameter block's address, the item's argument, every lane at the entry. -/
def startGroup (param arg entry : Nat) (g : Group) : Group :=
  ((((g.setPc (BitVec.allOnes 32) (BitVec.ofNat 64 entry)).setS 0 (BitVec.ofNat 32 param)).setS 1 (BitVec.ofNat 32 (param / 2 ^ 32))).setS 2
    (BitVec.ofNat 32 arg)).setS 3 (BitVec.ofNat 32 (arg / 2 ^ 32))

/-- Whether the failure list of a launch is still to be kept (R395): until the completion count of its ring has passed the launch's own count by 64. -/
def State.listKept (s : State) (l : Launch) : Bool :=
  l.phase != .ended || match l.consumedAt with
    | some i => decide ((getD (s.fn l.fn).rings l.ring {}).rcount ≤ i + 1 + 64)
    | none => true

/-- Whether bytes lie apart from the areas of the address space's other blocks and from the saves that its launches keep (R29, R388). -/
def State.areaFree (s : State) (asid a n : Nat) : Bool :=
  (s.blocks.all fun (e : Nat × Block) => e.2.phase == .gone || (match s.launchOf e.2 with | some l => l.asid != asid | none => true) ||
    decide (a + n ≤ e.2.save) || decide (e.2.save + e.2.areaBytes ≤ a)) &&
  (s.launches.all fun (e : Nat × Launch) => e.2.asid != asid || e.2.phase == .ended ||
    e.2.kept.all fun (k : Nat × Nat × Nat) => decide (a + n ≤ k.2.1) || decide (k.2.1 + k.2.2 ≤ a)) &&
  s.launches.all fun (e : Nat × Launch) => e.2.asid != asid || (match e.2.failAt with
    | some (p, k) => !s.listKept e.2 || decide (a + n ≤ p) || decide (p + k ≤ a)
    | none => true)

/-- Whether bytes at a virtual address can be an area of a launch (R15, R29): mapped, in the fast tier, near, readable and writable, apart from
other areas. -/
def State.areaOk (s : State) (asid a n : Nat) : Bool :=
  decide (a + n ≤ 2 ^ 56) && !inShared a && !inShared (a + n) && s.areaFree asid a n &&
  (List.range (n / 4096 + 2)).all fun i =>
    let va := a / 4096 * 4096 + 4096 * i
    decide (a + n ≤ va) || match (s.portLeaf asid va).1 with
      | .leaf l => l.remote.isNone && inFast l.pa && decide (l.res < 2) && l.rd && l.w && !l.sealed_
      | .bad _ _ => false

/-- The base of the pool of an address space from which the yard core takes areas (R29, R395): a range that its firmware keeps apart from the programs'
memory (log entry 49). -/
def poolBase (asid : Nat) : Nat := (Config.areaPool asid).toNat % 2 ^ 55 / 128 * 128

/-- The ends of the areas in use in an address space, where the next one may begin. -/
def State.areaEnds (s : State) (asid : Nat) : List Nat :=
  (s.blocks.filterMap fun (e : Nat × Block) => match s.launchOf e.2 with
    | some l => if l.asid = asid then some ((e.2.save + e.2.areaBytes + 127) / 128 * 128) else none
    | none => none) ++
  s.launches.flatMap fun (e : Nat × Launch) => if e.2.asid = asid then
    (e.2.kept.map fun (k : Nat × Nat × Nat) => (k.2.1 + k.2.2 + 127) / 128 * 128) ++ (match e.2.failAt with | some (p, k) => [(p + k + 127) / 128 * 128] | none => [])
  else []

/-- An area of n bytes for a launch: the first place in the pool that serves. -/
def State.areaFor (s : State) (asid n : Nat) : Option Nat :=
  (poolBase asid :: (sortBy (fun (a b : Nat) => decide (a ≤ b)) (s.areaEnds asid)).filter fun a => decide (poolBase asid ≤ a)).find? fun a => s.areaOk asid a n

/-- The bytes of a block's save area: the largest form that any variant which its launch allows produces (R282), a multiple of 128. -/
def Launch.saveBytes (l : Launch) (n : Nat) : Nat :=
  (((l.kernel.variants.filter fun (e : Nat × Variant) => bit l.record.vmask e.1).map fun (e : Nat × Variant) => e.2.saveSize n).foldl max 256 + 127) / 128 * 128

/-- Places block rank k of a gang on a cluster (R269, R282): its save area and beside it its thread-local area, zero-filled, come from the yard core;
the item's acquire replaces the cluster's stream copies (R253, R260). -/
def State.placeBlock (s : State) (lid : Nat) (l : Launch) (g : Gang) (k c vn : Nat) (v : Variant) : State :=
  let bid := s.nextBid
  let n := if g.groupItem then 1 else l.kernel.groups
  let save := l.saveBytes n
  let local_ := n * 32 * l.record.tlslane
  let base := (s.areaFor l.asid (save + local_)).getD 0
  let tls := if l.record.tlslane = 0 then 0 else base + save
  let b : Block := { lid := lid, item := g.num, gang := g.gang, blk := (8 * g.gang + k) % 2 ^ 32, cluster := c, variant := vn, ngroups := n, arg := g.arg
                     groupItem := g.groupItem, save := base, tls := tls, areaBytes := save + local_, placedAt := s.clk
                     held := bit l.record.lflags 2 && g.gang != 0 && !l.released }
  let s3 : State := { s with nextBid := bid + 1, blocks := put s.blocks bid b }
  let s4 := { (s3.seatBlock bid c vn v l.record.world).acquire c with tsTop := s3.tsTop + 1 }
  let s5 := s4.hwWrite l.record.world l.asid tls (zeros local_)
  let entry := l.kernel.code + (if g.gang = 0 then v.seed else v.entry)
  let s6 := (List.range n).foldl (fun (s : State) j => s.addGroup bid j c fun x => { startGroup l.record.param g.arg.toNat entry x with ts := s4.tsTop }) s5
  (s6.updL lid fun l => { l with gangs := upd l.gangs g.gang fun g => { g with blocks := g.blocks ++ [bid] }
                                 placedBlocks := l.placedBlocks + (if g.gang = 0 ∨ g.relaunches ≠ 0 then 0 else 1) }).scheduleAll c

/-- Whether the yard core has areas for the k blocks of a gang, one after the other. -/
def State.areasFor (s : State) (lid : Nat) (l : Launch) (n k : Nat) : Bool :=
  let size := l.saveBytes n + n * 32 * l.record.tlslane
  ((List.range k).foldl (fun (r : Bool × State) i => match r.2.areaFor l.asid size with
    | none => (false, r.2)
    | some a => (r.1, { r.2 with blocks := put r.2.blocks (2 ^ 64 + i) { lid := lid, item := 0, gang := 0, blk := 0, cluster := 0, variant := 0
                                                                         ngroups := n, arg := 0#64, groupItem := false, save := a, areaBytes := size } })) (true, s)).1

/-- The gang that a queue offers next (R271, R389): 15 the seed group, 14 a relaunch, 0-3 a device-side queue. -/
def State.offered (s : State) (lid : Nat) (l : Launch) (queue : Nat) : Option Gang :=
  if queue = 15 then (find l.gangs 0).bind fun g => if g.queued then some g else none
  else if queue = 14 then (l.gangs.find? fun (e : Nat × Gang) => e.1 ≠ 0 && e.2.queued).map fun (e : Nat × Gang) => e.2
  else
    let n := 5 * 4096 + queue
    match ((s.sampleHead lid n).ctx lid n).bind fun x => x.items.head? with
    | some i => if i.guard.isSome || i.discarded then none
      else some { ctx := n, num := i.num + i.next, gang := i.gang + i.next, arg := i.arg + BitVec.ofNat 64 i.next, groupItem := !i.grid }
    | none => none

/-- Takes the gang that a queue offers: its entry frees with the last gang of the item (R271). -/
def State.takeOffered (s : State) (lid queue : Nat) (g : Gang) : State :=
  let take (x : Ctx) : Ctx := match x.items with
    | [] => x
    | i :: rest => if i.next + 1 < i.count then { x with items := { i with next := i.next + 1 } :: rest } else { x with items := rest }
  let s1 := if queue < 4 then (s.sampleHead lid (5 * 4096 + queue)).updCtx lid (5 * 4096 + queue) take else s
  s1.updL lid fun l => { l with gangs := put l.gangs g.gang { g with queued := false, blocks := [] }, turn := if queue < 4 then (queue + 1) % 4 else l.turn
                                kept := l.kept.filter fun (k : Nat × Nat × Nat) => k.1 ≠ g.gang }

/-- Whether a queue's turn has come: a relaunch that fits comes first (R389), and every queue before it in the round is empty or offers a
gang that does not fit (R271, R281). -/
def State.turnOf (s : State) (lid : Nat) (l : Launch) (queue : Nat) : Bool :=
  let fits (q : Nat) : Bool := match s.offered lid l q with | some g => (s.gangFit l g.groupItem).isSome | none => false
  if queue ≥ 4 then true
  else !fits 14 && ((List.range 4).map fun i => (l.turn + i) % 4).all fun q =>
    -- queues from `turn` up to `queue` in the round
    decide ((queue + 4 - l.turn) % 4 ≤ (q + 4 - l.turn) % 4) || !fits q

/-- Places a launch's next gang from a queue, on given clusters or where it first fits: `none` where it cannot. -/
def State.placeGang (s : State) (lid queue : Nat) (cls : List Nat) : Option State :=
  match find s.launches lid with
  | none => none
  | some l =>
    -- no block of a coresident launch begins while others of it are saved (R286)
    let apart : Bool := bit l.record.lflags 2 && s.blocks.any fun (e : Nat × Block) => e.2.lid = lid && (e.2.saving.isSome || match e.2.phase with | .saved _ => true | _ => false)
    if l.phase ≠ .running ∨ apart ∨ l.replaying ∨ l.status ≠ 0 ∨ (s.fn l.fn).share = 0 ∨ !s.turnOf lid l queue then none
    else
      match s.offered lid l queue with
      | none => none
      | some g => match s.gangFit l g.groupItem with
        | none => none
        | some (vn, v, auto) =>
          let n := if g.groupItem then 1 else l.kernel.groups
          let k := if g.groupItem then 1 else l.kernel.gangblk
          let at_ := if cls = [] then auto else cls
          if !s.clustersOk l.fn l.record.world n k g.groupItem v at_ || !s.areasFor lid l n k then none
          else
            let s1 := s.takeOffered lid queue g
            let s2 := (List.range k).foldl (fun (s : State) i => s.placeBlock lid l { g with queued := false } i (at_.getD i 0) vn v) s1
            some (s2.checkRelease lid)

/-- GANG_PLACEMENT (R271, R281). -/
def execGangPlacement (lid queue : Nat) (cls : List Nat) (s : State) : Out := .next ((s.placeGang lid queue cls).getD s)

/-- BLOCK_RETIREMENT (R260, R270): a block whose groups have retired ends once its side-log entries have replayed, its `ldasy` pieces have
landed and its stream stores are published; a gang whose blocks have ended retires. -/
def execBlockRetirement (bid : Nat) (s : State) : Out :=
  match find s.blocks bid with
  | none => .next s
  | some b =>
    if b.phase = .gone then .next (s.finishGang b.lid b.gang)
    else
      let gs := s.groupsOf bid
      let logged (s : State) : Bool := s.clusters.any fun (c : Nat × Cluster) => c.2.sideLogs.any fun (l : Nat × List SideLog) => l.2.any fun e => e.bid = bid
      let pieces := (s.cluster b.cluster).pieces.any fun p => p.bid = bid
      if b.phase ≠ .resident ∨ b.saving.isSome ∨ gs.isEmpty ∨ !(gs.all fun e => e.2.phase == .retired && e.2.pipe.isEmpty) ∨ logged s ∨ pieces then .next s
      else
        let s1 := gs.foldl (fun (s : State) e => s.releaseParty b.cluster e.1) s
        if logged s1 ∨ gs.any fun e => s1.holdsAny b.cluster e.1 then .next s1
        else .next ((s1.endBlock bid).finishGang b.lid b.gang)

/-- Whether a halted group has come to rest: an `mldw.mem` that waits for its data, which a save abandons (R201), holds nothing up. -/
def Group.restful (g : Group) : Bool :=
  g.pending.isEmpty && g.fills.isEmpty && g.awaits == 0 && g.pipe.all fun w => match w.instr with | .mldwMem _ => true | _ => false

/-- GROUP_HALT_COMPLETE (R237): a group that a mast core's `haltb` halts has come to rest, or is gone. -/
def execGroupHaltComplete (gid : Nat) (s : State) : Out :=
  let rest := match find s.groups gid with | some g => g.restful && !s.fenceFirst gid g || g.phase == .retired | none => true
  if !rest then .next s
  else .next { s with clusters := s.clusters.map fun (c : Nat × Cluster) =>
    match c.2.mast.wait with
    | .halt l =>
      let l' := l.filter (· ≠ gid)
      (c.1, { c.2 with mast := { c.2.mast with wait := if l'.isEmpty then .nothing else .halt l' } })
    | _ => c }

end Sys2Proof.Machine
end

