-- ==== Sys2Proof/Machine/Slice.lean ====
section
/-!
DEFINITION. Saves and restores by the dispatcher (R35-R39, R283-R287): time slices, pre-emption, variant switches.
-/
namespace Sys2Proof.Machine
open Sys2Proof

/-! ### Saving -/

/-- The blocks that are saved together (R286): the resident ones of a coresident launch, else those of the gang. -/
def State.unitOf (s : State) (b : Block) : List Nat :=
  let whole := match s.launchOf b with | some l => bit l.record.lflags 2 | none => false
  (s.blocks.filter fun (e : Nat × Block) => e.2.lid = b.lid && (whole || e.2.gang = b.gang) && e.2.phase == .resident).map fun e => e.1

/-- Withdraws a variant-switch request (R284): the parked groups go on behind their `swpt`. -/
def State.withdraw (s : State) (bid : Nat) : State :=
  match find s.blocks bid with
  | none => s
  | some b =>
    if b.request.isNone then s
    else
      let s1 := s.updB bid fun b => { b with request := none, withdrawnAt := some s.clk }
      ((s1.groupsOf bid).map fun e => e.1).foldl (fun (s : State) gid =>
        match find s.groups gid with
        | some g => (match g.waiting with
          | .swpt _ => (s.passWait gid 4).wake gid
          | _ => s)
        | none => s) s1

/-- The switch point at which every group of a block that has not retired is parked (R284). -/
def State.parkedAtSwpt (s : State) (bid : Nat) : Option Nat :=
  let gs := (s.groupsOf bid).filter fun e => e.2.phase != .retired
  match gs with
  | [] => none
  | e :: _ => match e.2.waiting with
    | .swpt n => if gs.all fun x => x.2.waiting == .swpt n then some n else none
    | _ => none

/-- The conditions of R35 on a group parked at a switch point. -/
def Group.switchable (g : Group) : Bool :=
  (lanesOf g.live).all (fun l => g.pcOf l == g.waitPc) && (List.range 16).all (fun n => (g.rejoin n).mask == 0#32)
  && (List.range 32).all (fun l => (g.stackOf l).isEmpty && g.spillOf l == 0) && !g.outstanding

/-- The switch point of a block whose groups all stand at one and meet R35. -/
def State.switchPoint (s : State) (bid : Nat) : Option Nat :=
  match s.parkedAtSwpt bid with
  | some n => if (s.groupsOf bid).all fun e => e.2.phase == .retired || e.2.switchable then some n else none
  | none => none

/-- Whether a group has come to rest for a save: nothing of it is on its way, and no fault of it found late is still to be delivered. -/
def Group.saveable (g : Group) : Bool := g.quiet && g.late.isEmpty && match g.event with | some r => !r.halts | none => true

/-- The hold of a group's lanes at events ends; an event that was still to be delivered, but for a late fault's, is withdrawn (R351, R352). -/
def Group.endHold (g : Group) : Group :=
  { g with hold := g.hold.filter fun (e : Nat × Hold) => match e.2 with | .event _ _ _ => false | _ => true
           event := g.event.filter fun r => r.halts }

/-- A save, for any REASON, ends the hold of every lane of its block when it begins (R352); a group that `mpark` moved waits for nothing more. -/
def State.endHolds (s : State) (bid : Nat) : State :=
  (s.groupsOf bid).foldl (fun (s : State) (e : Nat × Group) =>
    let s1 := s.updG e.1 Group.endHold
    if e.2.waiting = .parkedByMast then s1.wake e.1 else s1) s

/-- Begins the dispatcher's save of a unit (R285, R287): its groups issue nothing more but a fence of R262. A slice withdraws a pending switch request (R295). -/
def State.startSave (s : State) (bids : List Nat) (reason : Nat) : State :=
  bids.foldl (fun (s : State) bid =>
    let s1 := if reason = 2 ∨ (s.switchPoint bid).isNone then s.withdraw bid else s
    let counts := s1.sideCountsOf bid
    (s1.endHolds bid).updB bid fun b => if b.saving.isSome then b else b.beginSave reason s.clk counts) s

/-- What a save does before it takes the image (R36, R246, R253): stream stores are published, stream copies replaced, transient values dropped.
A stream store whose page is away goes to the side log (R309), where the group's count takes it in. -/
def State.preSave (s : State) (bid : Nat) (b : Block) : State :=
  ((s.groupsOf bid).foldl (fun (s : State) (e : Nat × Group) =>
    let s1 := s.releaseParty b.cluster e.1
    let more := s1.sideEntriesOf e.1 - s.sideEntriesOf e.1
    (s1.updB bid fun b => { b with sideCounts := setD b.sideCounts e.2.num (getD b.sideCounts e.2.num 0 + more) 0 }).updG e.1 Group.dropTransient) s).acquire b.cluster

/-- Writes a block's save area (R29-R37): `false` while a page or a publication is on its way, and then MAGIC is not written. -/
def State.saveArea (s : State) (bid reason swpt : Nat) : Bool × State :=
  match find s.blocks bid with
  | none => (true, s)
  | some b =>
    match s.launchOf b with
    | none => (true, s)
    | some l =>
      let s1 := s.preSave bid b
      if (s1.groupsOf bid).any fun e => s1.holdsAny b.cluster e.1 then (false, s1)
      else s1.writeSave bid b l reason (match b.saving with | some (_, t) => t | none => s1.clk) swpt

/-- Sets a saved block aside: the engine is released and the groups leave the cluster; the places of its parked loads in their groups' order are
kept (R248). An event still to be delivered arises anew after the restore. -/
def State.setAside (s : State) (bid reason swpt : Nat) : State :=
  match find s.blocks bid with
  | none => s
  | some b =>
    let seqs := (s.groupsOf bid).flatMap fun (e : Nat × Group) => (List.range e.2.replay.length).filterMap fun i =>
      (e.2.replay[i]?).map fun p => (e.2.num * 16 + i, p.seq)
    ((s.removeGroups bid b).updB bid fun b => { b with phase := .saved reason, savedAt := s.clk, saving := none, request := none, parkedSeqs := seqs, bars := []
                                                       swpt := swpt, faults := [], nested := [], sideCounts := [] }).scheduleAll b.cluster

/-- SLICE_BOUNDARY (R285, R287): a block that has been resident longest on its cluster for 4,500,000 clk is saved with its unit, where a saved
block of the same or higher priority waits in the rotation; or one whose function's slice of its cluster is over. -/
def execSliceBoundary (bid : Nat) (s : State) : Out :=
  match find s.blocks bid with
  | none => .next s
  | some b =>
    let prio (x : Block) : Nat := match s.launchOf x with | some l => l.record.prio | none => 0
    let waits := s.blocks.any fun (e : Nat × Block) => e.2.cluster = b.cluster && decide (prio b ≤ prio e.2) && (match e.2.phase with | .saved _ => true | _ => false)
    let longest := s.blocks.all fun (e : Nat × Block) => e.2.cluster ≠ b.cluster || e.2.phase != .resident || e.2.saving.isSome || decide (b.residentAt ≤ e.2.residentAt)
    -- the slice of its function is over on a cluster that another function's has begun on (R287)
    let expired : Bool := match s.launchOf b, s.turnOfFn b.cluster with | some l, some fn => fn != l.fn | _, _ => false
    if b.phase ≠ .resident ∨ b.saving.isSome ∨ b.struck.isSome ∨ !(expired || (decide (b.residentAt + 4500000 ≤ s.clk) && waits && longest)) then .next s
    else .next (s.startSave (s.unitOf b) 2)

/-- Whether a block belongs to a launch before another in its ring, whose blocks an early successor never pre-empts (R278). -/
def State.before (s : State) (l : Launch) (b : Block) : Bool :=
  match s.launchOf b with | some x => x.fn = l.fn && x.ring = l.ring && decide (x.index < l.index) | none => false

/-- PREEMPTION (R287): a gang of a launch of higher PRIO that fits nowhere takes the place of the block of lowest PRIO, of these the one
placed last, and its unit; an error-struck gang is passed over (R397). -/
def execPreemption (bid lid : Nat) (s : State) : Out :=
  match find s.blocks bid, find s.launches lid with
  | some b, some l =>
    let prio (x : Block) : Nat := match s.launchOf x with | some l => l.record.prio | none => 0
    let offers := [15, 14, 0, 1, 2, 3].filterMap fun q => s.offered lid l q
    let stuck := offers.any fun g => (s.gangFit l g.groupItem).isNone
    let target (x : Block) : Bool := (s.fn l.fn).clusters.contains x.cluster && x.phase == .resident && x.saving.isNone && x.struck.isNone && decide (prio x < l.record.prio) && !s.before l x
    let first := s.blocks.all fun (e : Nat × Block) => !target e.2 || decide (prio b < prio e.2) || (prio b = prio e.2 && decide (e.2.placedAt ≤ b.placedAt))
    if l.phase ≠ .running ∨ !stuck ∨ !target b ∨ !first then .next s
    else .next (s.startSave (s.unitOf b) 3)
  | _, _ => .next s

/-- Notes F_PREEMPT or F_RESTORED of a block at its cluster's mast core (R328): F_RESTORED has the sub-partition and slot of group 0 (R337). -/
def State.noteCore (s : State) (bid code : Nat) : State :=
  match find s.blocks bid with
  | none => s
  | some b =>
    let at_ : Nat × Nat := match find s.groups (bid * 32) with
      | some g => if code = 0x56 then (g.sp, g.slot) else (0xFF, 0)
      | none => (0xFF, 0)
    s.updM b.cluster fun m => { m with events := m.events ++ [{ code := code, bid := bid, sp := at_.1, slot := at_.2, addr := 0#64, detail := 0#64, pc := 0#64 }] }

/-- The bytes of a save image in a mast core's own map (R236): those of a protected world's block are sealed as 16-byte blocks under the world's XTS
key, at the address they are written to (R358, R359, log entry 145). -/
def State.sealedImage (s : State) (world a : Nat) (bs : List Byte) (enc : Bool) : List Byte :=
  if world = 0 then bs
  else (List.range (bs.length / 16)).flatMap fun i =>
    let x := BitVec.ofNat 128 (fieldAt bs (16 * i) 16)
    toBytes 16 (if enc then xtsEnc (s.world world).xts (a / 16 + i) x else xtsDec (s.world world).xts (a / 16 + i) x).toNat

/-- Writes a save image to MSAVE in the mast core's own map (R236): PARTIAL is set where a byte could not be written (R38), MAGIC comes last (R37). -/
def State.writeOwn (s : State) (c a world : Nat) (bs : List Byte) : State :=
  let out := s.sealedImage world a bs true
  let put (out : List Byte) (r : Bool × State) (i : Nat) : Bool × State := match r.2.mastSetBytes c (a + i) [out.getD i 0#8] with
    | (.ok _, s1) => (r.1, s1)
    | (_, s1) => (false, s1)
  let r := (List.range (out.length - 4)).foldl (fun (r : Bool × State) i => put out r (i + 4)) (true, s)
  let again := s.sealedImage world a (partialHeader bs) true
  let r1 := if r.1 then r else (List.range 16).foldl (fun (r : Bool × State) i => put again r (0x20 + i)) r
  ((List.range 4).foldl (put out) r1).2

/-- Whether the state that a save of a block takes has poison in it (R38). -/
def State.savePoison (s : State) (bid swpt : Nat) : Bool :=
  match find s.blocks bid with
  | some b => s.savedBad bid b swpt
  | none => false

/-- The switch point that the save of a block records: a pre-emption keeps a switch-point save in progress (R38). -/
def State.saveSwpt (s : State) (bid reason : Nat) : Nat := if reason = 3 then (s.switchPoint bid).getD 0xFF else 0xFF

/-- Completes the save of one block, whose area is written, for its reason (R37): REASON 2 and 3 raise F_PREEMPT; poison met on the way strikes the
gang (R38). -/
def State.endSave (s : State) (bid reason : Nat) : State :=
  match find s.blocks bid with
  | none => s
  | some b =>
    let swpt := s.saveSwpt bid reason
    let bad := s.savePoison bid swpt
    let slots := ((s.groupsOf bid).filter fun e => e.2.phase != .retired).map fun (e : Nat × Group) => (bid, e.2.sp * 32 + e.2.slot)
    let keep (k : Cluster) : List (Nat × Nat) := k.barred.filter fun p => k.mast.events.any fun e => e.code = 0x52 && e.bid = p.1
    let s1 := ((s.updC b.cluster fun k => { k with barred := keep k ++ slots }).setAside bid reason swpt).noteCore bid 0x52
    if bad then s1.strike bid 0x40 else s1

/-- After a save the gangs that it found poisoned are recovered (R38). -/
def State.recoverStruck (s : State) (bids : List Nat) : State :=
  bids.foldl (fun (s : State) bid => match find s.blocks bid with
    | some b => (match b.struck with
      | some (code, _) => s.recover b.lid b.gang code
      | none => s)
    | none => s) s

/-- The mast core that waits for a block's save goes on (R236). -/
def State.endMastSave (s : State) (bid : Nat) : State :=
  { s with clusters := s.clusters.map fun (c : Nat × Cluster) =>
      if c.2.mast.wait = .saving bid then (c.1, { c.2 with mast := { c.2.mast with wait := .nothing } }) else c }

/-- The groups of a block that is saved in place give up the engine (R177): their planes are owed to them, and they ask for the engine again. The
request of one that is parked for the engine is withdrawn, and its instruction asks anew (R201). -/
def State.cedeEngines (s : State) (bid : Nat) : State :=
  (s.groupsOf bid).foldl (fun (s : State) (e : Nat × Group) =>
    match s.planesOf e.1 e.2 with
    | some p => ((s.leaveEngine e.1).updG e.1 fun g => { g with planeOwed := some p }).reacquire e.1
    | none => if (s.engine e.2.cluster e.2.sp).waiters.any fun x => x.2 = e.1 then
        (let s1 := s.leaveEngine e.1; if e.2.waiting == .engine then s1.wake e.1 else s1)
      else s) s

/-- The end of a `gsave` (R236-R238): the image goes to MSAVE, the mast core goes on; poison kills the block afterwards (R38). -/
def State.endDump (s : State) (bid : Nat) (b : Block) (reason t0 : Nat) : State :=
  let s0 := s.preSave bid b
  let img := s0.saveImage bid b reason t0 0xFF
  let s1 := match s0.clusters.find? fun (c : Nat × Cluster) => c.2.mast.wait = .saving bid with
    | some x => s0.writeOwn x.1 x.2.mast.msave.toNat (match s0.launchOf b with | some l => l.record.world | none => 0) img
    | none => s0
  let s2 := ((s1.cedeEngines bid).updB bid fun b => { b with saving := none, faults := [], nested := [], sideCounts := [] }).endMastSave bid
  if s.savePoison bid 0xFF then (s2.strike bid 0x40).recoverStruck [bid] else s2

/-- Whether a save of a block may take its image: its groups have come to rest and its `ldasy` pieces have landed (R175, R201). -/
def State.restedFor (s : State) (bid : Nat) (rest : Group → Bool) : Bool :=
  ((s.groupsOf bid).all fun e => rest e.2 && !s.fenceFirst e.1 e.2) && !s.clusters.any fun (c : Nat × Cluster) => c.2.pieces.any fun p => p.bid = bid

/-- The REASON 4 saves of an error-struck gang (R388): each resident block's area is written, and the area of a member that was saved before, which
holds its state, takes the new REASON (log entry 146); then the recovery goes on. A member whose other save is in progress comes first (R397). -/
def State.rollBack (s : State) (b : Block) (bids : List Nat) : State :=
  let others := (s.blocks.filter fun (e : Nat × Block) => e.2.lid = b.lid && e.2.gang = b.gang && e.2.phase != .gone && !bids.contains e.1)
  if others.any fun (e : Nat × Block) => e.2.saving.isSome then s
  else
    let r := bids.foldl (fun (r : Bool × State) i => if r.1 then r.2.saveArea i 4 0xFF else r) (true, s)
    let r1 := others.foldl (fun (r : Bool × State) (e : Nat × Block) =>
      if !r.1 then r
      else match r.2.launchOf e.2 with
        | some l => let h := r.2.storeParts l.record.world l.asid e.2.cluster [(e.2.save + 6, [4#8, 0#8])]; (!h.1, h.2.2)
        | none => r) r
    if r1.1 then r1.2.settleRecovery b.lid b.gang (match b.struck with | some (code, _) => code | none => 0x42) else r1.2

/-- BLOCK_SAVE_COMPLETE (R37): a save writes MAGIC last. The dispatcher's saves of a unit complete together (R286); `gsave` writes to MSAVE. An
`mldw.mem` that waits for its data is abandoned (R201). -/
def execBlockSaveComplete (bid : Nat) (s0 : State) : Out :=
  match find s0.blocks bid with
  | none => .next (s0.endMastSave bid)
  | some b =>
    match b.saving with
    | none => .next (s0.endMastSave bid)
    | some (reason, t0) =>
      let bids := if reason ≥ 5 then [bid] else (s0.unitOf b).filter fun i => match find s0.blocks i with
        | some x => if reason = 4 then x.gang = b.gang && (match x.saving with | some (r, _) => r = 4 | none => false) else x.saving.isSome
        | none => false
      let s := (bids.flatMap fun i => (s0.groupsOf i).map fun e => e.1).foldl State.abandonFill s0
      if reason ≥ 5 then
        let s1 := s.preSave bid b
        .next (if !s.restedFor bid Group.quiet then s else if (s1.groupsOf bid).any fun e => s1.holdsAny b.cluster e.1 then s1 else s1.endDump bid b reason t0)
      else if !bids.all fun i => s.restedFor i (if reason = 4 then Group.quiet else Group.saveable) then .next s
      else if reason = 4 then .next (s.rollBack b bids)
      else
        let r := bids.foldl (fun (r : Bool × State) i => if r.1 then r.2.saveArea i reason (r.2.saveSwpt i reason) else r) (true, s)
        .next (if r.1 then (bids.foldl (fun (s : State) i => s.endSave i reason) r.2).recoverStruck bids else r.2)

/-! ### Restoring -/

/-- The bytes of a block's save area; an error where poison is met (0x40, R386) or a page is on its way (none). -/
def State.readSave (s : State) (world asid origin a n : Nat) : Except (Option Nat) (List Byte) × State :=
  (sectorsOf a n).foldl (fun (r : Except (Option Nat) (List Byte) × State) p =>
    match r.1 with
    | .error _ => r
    | .ok bs => match r.2.hwRead world asid p.1 p.2 origin with
      | (.ok x, s1) => (.ok (bs ++ x), s1)
      | (.fail code _, s1) => (if code = 0x40 then .error (some 0x40) else .ok (bs ++ zeros p.2), s1)
      | (.wait, s1) => (.error none, s1)) (.ok [], s)

/-- How a restore has come out: done, waiting for a page, or failed for a block with the code that its gang is killed with. -/
inductive Restored where
  | done
  | waits
  | failed (bid code : Nat)
  deriving DecidableEq, Repr

/-- The bytes of a save area that a restore under a variant reads (R39): all but a fault section, of which only the record count. -/
def saveReach (head : List Byte) (b : Block) (shape : SaveShape) : Nat :=
  let body := 0x100 + b.ngroups * shape.stride + shape.scratch
  if fieldAt head 0x48 8 = body then body + 4 else body

/-- A block with its save area read and checked, and where it is to be restored. -/
structure Seating where
  bid : Nat
  c : Nat
  vn : Nat
  v : Variant
  l : Launch
  bs : List Byte
  shape : SaveShape
  deriving DecidableEq, Repr

/-- Reads and checks the save area of a block for a restore on a cluster under a variant (R39). -/
def State.readOne (s : State) (bid c vn : Nat) : Except Restored Seating × State :=
  let stop (e : Option Nat) : Restored := match e with | some code => .failed bid code | none => .waits
  match find s.blocks bid with
  | none => (.error .done, s)
  | some b =>
    match s.launchOf b with
    | none => (.error .done, s)
    | some l =>
      match find l.kernel.variants vn with
      | none => (.error (.failed bid 0x42), s)
      | some v =>
        match s.readSave l.record.world l.asid c b.save 256 with
        | (.error e, s1) => (.error (stop e), s1)
        | (.ok head, s1) =>
          let shape := (wantShape head l vn).getD (v.shape 0xFF)
          match s1.readSave l.record.world l.asid c b.save (saveReach head b shape) with
          | (.error e, s2) => (.error (stop e), s2)
          | (.ok bs, s2) =>
            if saveOk bs b l vn then (.ok { bid := bid, c := c, vn := vn, v := v, l := l, bs := bs, shape := shape }, s2)
            else (.error (.failed bid 0x42), s2)

/-- Gives a block its place and fills it from its image (R31-R34, R285). -/
def State.seatSave (s : State) (x : Seating) : State :=
  match find s.blocks x.bid with
  | none => s
  | some b =>
    let reason := fieldAt x.bs 6 2
    let mark (g : Group) : Group :=
      let g1 := if reason = 2 ∨ reason = 3 then g.sticky stSliced else g
      if reason = 1 then g1.sticky stVswitch else g1
    let s1 := s.seatBlock x.bid x.c x.vn x.v x.l.record.world
    -- a group whose every lane had exited stays retired and takes no place
    let s2 := (List.range b.ngroups).foldl (fun (s : State) j =>
      let gone := fieldAt x.bs (0x100 + j * x.shape.stride + 8) 4 = 2 ^ 32 - 1
      s.addGroup x.bid j x.c fun g => if gone then { g with phase := .retired } else g) s1
    let s3 := s2.fillFrom x.bid ((find s2.blocks x.bid).getD b) x.l x.bs x.shape mark
    (s3.noteCore x.bid 0x56).scheduleAll x.c

/-- Restores the members of a unit, each on its cluster under its variant: all of them, or none where a page is away or an area cannot be restored
(R39, R286). -/
def State.restoreAll (s : State) (seats : List (Nat × Nat × Nat)) : Restored × State :=
  let r := seats.foldl (fun (r : Except Restored (List Seating) × State) x => match r.1 with
    | .error _ => r
    | .ok l => (match r.2.readOne x.1 x.2.1 x.2.2 with
      | (.ok y, s1) => (.ok (l ++ [y]), s1)
      | (.error e, s1) => (.error e, s1))) (.ok [], s)
  match r with
  | (.ok l, s1) => (.done, l.foldl State.seatSave s1)
  | (.error e, s1) => (e, s1)

/-- A save area that cannot be restored ends its block's whole gang (R39): poison as an uncorrectable error does (R386), a mismatch as F_GANG_KILLED. -/
def State.restoreFailed (s : State) (bid code : Nat) : State :=
  match find s.blocks bid with
  | none => s
  | some b =>
    let all := (s.blocks.filter fun (e : Nat × Block) => e.2.lid = b.lid && e.2.gang = b.gang && e.2.phase != .gone).map fun e => e.1
    if code = 0x40 then (s.strike bid 0x40).recover b.lid b.gang 0x40 else s.failGang b.lid b.gang 0x42 0 all

/-- A member of a unit as it would stand when restored, so that the next one's fit counts it. -/
def State.tryseat (s : State) (l : Launch) (x : Nat × Nat × Nat) : State :=
  match find s.blocks x.1, find l.kernel.variants x.2.2 with
  | some b, some v => (List.range b.ngroups).foldl (fun (s : State) j => s.addGroup x.1 j x.2.1 id) (s.seatBlock x.1 x.2.1 x.2.2 v l.record.world)
  | _, _ => s

/-- Seats for the further members of a unit (R286): each on a cluster of its neighbourhood where its variant fits beside those already seated, the
members of one gang on distinct clusters. -/
def State.findSeats (s : State) (l : Launch) (seats : List (Nat × Nat × Nat)) : List (Nat × Block) → Option (List (Nat × Nat × Nat))
  | [] => some seats
  | (bid, b) :: rest =>
    let vn := b.variant
    match find l.kernel.variants vn with
    | none => none
    | some v =>
      let own := seats.filter fun x => match find s.blocks x.1 with | some y => y.gang = b.gang | none => false
      let cs := (List.range 8).map fun i => ((own.head?.map fun x => x.2.1 / 8).getD (b.cluster / 8)) * 8 + i
      let resident := s.blocks.filterMap fun (e : Nat × Block) => if e.2.lid = b.lid ∧ e.2.gang = b.gang ∧ e.2.phase = .resident then some e.2.cluster else none
      match cs.find? fun c => !resident.contains c && s.placeable l.fn c && s.fitsBlock c l.record.world b.ngroups b.groupItem v [] with
      | none => none
      | some c => (s.tryseat l (bid, c, vn)).findSeats l (seats ++ [(bid, c, vn)]) rest

/-- Whether a saved block's variant fits on some cluster of its neighbourhood. -/
def State.couldRestore (s : State) (b : Block) : Bool :=
  match s.launchOf b with
  | none => false
  | some l => match find l.kernel.variants b.variant with
    | none => false
    | some v => (List.range 8).any fun i =>
      let c := b.cluster / 8 * 8 + i
      s.placeable l.fn c && s.fitsBlock c l.record.world b.ngroups b.groupItem v []

/-- Whether a saved block is the one of its cluster's rotation that has waited longest, of those that fit somewhere (R285). -/
def State.longestSaved (s : State) (b : Block) : Bool :=
  s.blocks.all fun (e : Nat × Block) => match e.2.phase with
    | .saved _ => e.2.cluster ≠ b.cluster || decide (b.savedAt ≤ e.2.savedAt) || e.2.struck.isSome || !s.couldRestore e.2
    | _ => true

/-- BLOCK_RESTORE (R285, R286): the saved block that has waited longest, and with it every other saved member of its unit, is restored in its
neighbourhood. -/
def execBlockRestore (bid c vn : Nat) (s : State) : Out :=
  match find s.blocks bid with
  | none => .next s
  | some b =>
    match s.launchOf b with
    | none => .next s
    | some l =>
      let whole := bit l.record.lflags 2
      let members := s.blocks.filter fun (e : Nat × Block) => e.1 ≠ bid && e.2.lid = b.lid && (whole || e.2.gang = b.gang) && (match e.2.phase with | .saved _ => true | _ => false)
      let unitSaving := s.blocks.any fun (e : Nat × Block) => e.2.lid = b.lid && (whole || e.2.gang = b.gang) && e.2.saving.isSome
      let saved := match b.phase with | .saved _ => true | _ => false
      let vOk := if b.swpt = 0xFF then vn = b.variant else (l.variantOrder.any fun e => e.1 = vn && (e.2.swptOf b.swpt).isSome)
      match find l.kernel.variants vn with
      | none => .next s
      | some v =>
        if !saved ∨ unitSaving ∨ !vOk ∨ !s.longestSaved b ∨ c / 8 ≠ b.cluster / 8 ∨ !s.placeable l.fn c
            ∨ !s.fitsBlock c l.record.world b.ngroups b.groupItem v [] then .next s
        else
          match (s.tryseat l (bid, c, vn)).findSeats l [(bid, c, vn)] members with
          | none => .next s
          | some seats => match s.restoreAll seats with
            | (.failed bad code, s1) => .next (s1.restoreFailed bad code)
            | (_, s1) => .next s1

/-! ### Variant switches (R283, R284) -/

/-- VARIANT_SWITCH_REQUEST (R283): a request is posted to grow a block into free resources, or to shrink it for a queued gang of equal or
higher priority that would then fit. -/
def execVariantSwitchRequest (bid var : Nat) (s : State) : Out :=
  match find s.blocks bid with
  | none => .next s
  | some b =>
    match s.launchOf b with
    | none => .next s
    | some l =>
      match find l.kernel.variants var with
      | none => .next s
      | some v =>
        let size (x : Variant) : Nat := x.footprint l.kernel.groups
        let cur := size (l.variantOf b)
        let early : Bool := match b.withdrawnAt with | some t => decide (s.clk < t + 4500000) | none => false
        let grow : Bool := decide (cur < size v) && s.fitsBlock b.cluster l.record.world b.ngroups b.groupItem v [bid]
        -- the block under the smaller variant, for the fit of what waits
        let small := s.updB bid fun b => { b with variant := var, banks := b.banks.take (v.scratch / 16384) }
        let helps := s.launches.any fun (e : Nat × Launch) => e.2.phase == .running && decide (l.record.prio ≤ e.2.record.prio) &&
          [15, 14, 0, 1, 2, 3].any fun q => (s.offered e.1 e.2 q).any fun g => (s.gangFit e.2 g.groupItem).isNone && (small.gangFit e.2 g.groupItem).isSome
        let shrink : Bool := decide (size v < cur) && helps
        if b.phase ≠ .resident ∨ b.saving.isSome ∨ b.request.isSome ∨ b.held ∨ early ∨ bit l.record.lflags 3 ∨ !bit l.record.vmask var ∨ var = b.variant
            ∨ !(grow || shrink) then .next s
        else .next (s.updB bid fun b => { b with request := some (var, s.clk) })

/-- VARIANT_REPLACEMENT (R284): every group of the block is parked at one switch point. Once their matrix work has completed (R201) the block is saved
with REASON 1 and restored on its cluster under the target; where the groups differ, R35 fails or the target cannot be reserved, the request is
withdrawn. Groups that park at different switch points withdraw it once the last of them has parked, not as soon as two do: which, R284 does not
say (DESIGN CHOICE, log entry 147). -/
def execVariantReplacement (bid : Nat) (s : State) : Out :=
  match find s.blocks bid with
  | none => .next s
  | some b =>
    match b.request, s.launchOf b with
    | some (var, _), some l =>
      let gs := (s.groupsOf bid).filter fun e => e.2.phase != .retired
      let parked := gs.all fun e => match e.2.waiting with | .swpt _ => true | _ => false
      if !parked ∨ gs.isEmpty ∨ b.saving.isSome then .next s
      else
        match s.switchPoint bid, find l.kernel.variants var with
        | some n, some v =>
          if !s.fitsBlock b.cluster l.record.world b.ngroups b.groupItem v [bid] then .next (s.withdraw bid)
          else if !s.restedFor bid Group.saveable then .next s
          else
            let counts := s.sideCountsOf bid
            let bad := s.savePoison bid n
            let r := (s.updB bid fun b => { b with sideCounts := counts, faults := [], nested := [], genRetired := true }).saveArea bid 1 n
            if !r.1 then .next r.2
            else
              let s1 := r.2.setAside bid 1 n
              if bad then .next ((s1.strike bid 0x40).recoverStruck [bid])
              else match s1.restoreAll [(bid, b.cluster, var)] with
                | (.failed bad code, s2) => .next (s2.restoreFailed bad code)
                | (.waits, _) => .next r.2
                | (.done, s2) => .next s2
        | _, _ => .next (s.withdraw bid)
    | _, _ => .next s

/-- SWITCH_REQUEST_TIMEOUT (R284): 450,000 clk after the request it is withdrawn. -/
def execSwitchRequestTimeout (bid : Nat) (s : State) : Out :=
  match find s.blocks bid with
  | none => .next s
  | some b => match b.request with
    | some (_, t) => .next (if t + 450000 ≤ s.clk then s.withdraw bid else s)
    | none => .next s

end Sys2Proof.Machine
end

