-- ==== Sys2Proof/Machine/Launch.lean ====
section
/-!
DEFINITION. Launches (R69-R73, R86-R88, R263-R279, R392, R429-R431): the launch rings, admission, the start barrier, completion, and the
loading of Eweave images.
-/
namespace Sys2Proof.Machine
open Sys2Proof

/-! ### What the yard core reads and writes -/

/-- A read by which the yard core examines a record, checked as a load of the launch's ASID at the leaf of every page (R266): while its page is on the
way the core waits under the address it reads at, and a page whose fault is resolved with FAIL fails the read. -/
def State.examineRead (s : State) (fn world asid va n : Nat) : Acc × State :=
  if (s.fn fn).yardFails.contains va then (.fail 0x11 0, s.updF fn fun x => { x with yardFails := x.yardFails.filter (· ≠ va) })
  else
    let q : Req := { world := world, asid := asid, kind := some .load, origin := 0x7FF, once := true }
    match (sectorsOf va n).findSome? fun p => s.leafCheck q p.1 with
    | some c => (.fail c 0, s)
    | none =>
      let r := s.readRange q va n
      match r.1 with
      | .wait =>
        let page := (s.firstAway q (sectorsOf va n)).getD va
        (.wait, r.2.updF fn fun x => { x with yardWaits := (va, asid, page) :: x.yardWaits.filter (· ≠ (va, asid, page)) })
      | _ => r

/-- The world of a function (R355): its protected world while that exists. -/
def State.fnWorld (s : State) (fn : Nat) : Nat := if fn < 16 ∧ (s.world (fn + 1)).alive then fn + 1 else 0

/-- The ASID of a function's work (R440). -/
def State.fnAsid (s : State) (fn : Nat) : Nat := bits (s.fn fn).fasid.toNat 15 0

/-- A function's MSI-X vector fires at the host (R427, R430, R431). -/
def State.fireHost (s : State) (fn vec : Nat) : State := s.updF fn fun x => { x with vectors := x.vectors ++ [vec] }

/-! ### Images (R69-R73) -/

/-- The condition of R88 on a format slot; an image default may leave SZADDR 0 with GSIZE 1. -/
def slotOk (x : BitVec 128) (image : Bool) : Bool :=
  let n := x.toNat
  let ty := bits n 7 0
  let gs := bits n 19 18
  let sz := bits n 119 64
  if ty = 0 then n == 0
  else
    [1, 2, 3, 4, 5, 6, 16].contains ty && bits n 127 120 == 0 && bits n 63 48 == 0 && bits n 31 22 == 0 && bits n 17 17 == 0
    && (if ty = 16 then decide (2 ≤ bits n 15 12) && decide (bits n 15 12 ≤ bits n 11 8) && decide (bits n 11 8 ≤ 8) && decide (gs ≤ 1)
        else bits n 11 8 == 0 && bits n 15 12 == 0 && bits n 16 16 == 0 && gs == 0)
    && (if gs = 0 then sz == 0 else sz % 4 == 0 && (image || sz != 0))

/-- The eight slots that 128 bytes hold. -/
def slotsAt (bs : List Byte) (off : Nat) : List (BitVec 128) := (List.range 8).map fun i => BitVec.ofNat 128 (fieldAt bs (off + 16 * i) 16)

/-- Whether a range of bytes holds zeros. -/
def zeroAt (bs : List Byte) (off n : Nat) : Bool := fieldAt bs off n == 0

/-- A switch-point descriptor (R72): N, SPLIVE, SWPTOFF, LIVE. -/
def swptAt (bs : List Byte) (off : Nat) : Nat × Nat × Nat × List Nat :=
  (fieldAt bs off 1, fieldAt bs (off + 4) 4, fieldAt bs (off + 8) 8, (List.range (fieldAt bs (off + 1) 1)).map fun i => fieldAt bs (off + 16 + i) 1)

/-- The checks of R73 on one switch-point descriptor. -/
def swptOk (bs : List Byte) (off code : Nat) (v : Variant) : Bool :=
  let p := swptAt bs off
  let n := fieldAt bs (off + 1) 1
  let word := fieldAt bs (code + p.2.2.1) 4
  decide (p.1 < 64) && decide (n ≤ 16) && zeroAt bs (off + 2) 2 && p.2.1 % 128 == 0 && p.2.2.1 % 4 == 0 && zeroAt bs (off + 16 + n) (16 - n)
  && p.2.2.2.all (fun b => !bit b 6 && decide (b % 64 < v.vregs))
  && decide (v.start ≤ p.2.2.1) && decide (p.2.2.1 + 4 ≤ v.start + v.len)
  && (match decodeWords word 0 with
      | .ok (.swpt f) => f.n.val == p.1
      | _ => false)

/-- A variant record (R71) with its switch points. -/
def variantAt (bs : List Byte) (off nsw : Nat) : Variant :=
  { vregs := fieldAt bs (off + 1) 1, tiles := fieldAt bs (off + 2) 1, accs := fieldAt bs (off + 3) 1, maxact := fieldAt bs (off + 4) 1
    scratch := fieldAt bs (off + 8) 4, entry := fieldAt bs (off + 0x10) 8, seed := fieldAt bs (off + 0x18) 8, start := fieldAt bs (off + 0x20) 8
    len := fieldAt bs (off + 0x28) 8, swpts := (List.range nsw).map fun i => swptAt bs (fieldAt bs (off + 0x30) 8 + 32 * i) }

/-- The checks of R73 on one variant record. -/
def variantOk (bs : List Byte) (off num nsw code codesize : Nat) : Bool :=
  let v := variantAt bs off nsw
  fieldAt bs off 1 == num && zeroAt bs (off + 5) 3 && zeroAt bs (off + 0x0C) 4 && zeroAt bs (off + 0x38) 8
  && [16, 32, 48, 64].contains v.vregs && [0, 2, 4, 8].contains v.tiles && [0, 1, 2, 4].contains v.accs
  && decide (1 ≤ v.maxact) && decide (v.maxact ≤ 32) && v.scratch % 16384 == 0 && decide (v.scratch ≤ 524288)
  && v.entry % 4 == 0 && v.seed % 4 == 0 && v.start % 4 == 0 && v.len % 4 == 0 && decide (v.start + v.len ≤ codesize)
  && decide (v.start ≤ v.entry) && decide (v.entry + 4 ≤ v.start + v.len) && decide (v.start ≤ v.seed) && decide (v.seed + 4 ≤ v.start + v.len)
  && (List.range nsw).all fun i => swptOk bs (fieldAt bs (off + 0x30) 8 + 32 * i) code v

/-- The checks of R73 across the variants of a kernel: the same switch points, of the same shape, within the smallest scratchpad. -/
def variantsAgree (vs : List (Nat × Variant)) : Bool :=
  let least := vs.foldl (fun m e => min m e.2.scratch) 524288
  vs.all fun a => a.2.swpts.all fun p =>
    decide (p.2.1 ≤ least) && vs.all fun b => match b.2.swptOf p.1 with
      | some q => q.2.1 == p.2.1 && q.2.2.2.length == p.2.2.2.length && (List.range p.2.2.2.length).all fun i => bit (p.2.2.2.getD i 0) 7 == bit (q.2.2.2.getD i 0) 7
      | none => false

/-- A kernel record (R70) and whether it passes R73; `base` is where the image stands. -/
def kernelAt (bs : List Byte) (base off : Nat) : Kernel × Bool :=
  let code := fieldAt bs 0x20 8
  let codesize := fieldAt bs 0x28 8
  let nsw := fieldAt bs (off + 0x0F) 1
  let offs := ((List.range 4).map fun v => (v, fieldAt bs (off + 0x10 + 4 * v) 4)).filter fun e => e.2 ≠ 0
  let vs := offs.map fun e => (e.1, variantAt bs e.2 nsw)
  let groups := fieldAt bs (off + 0x0D) 1
  let gang := fieldAt bs (off + 0x0E) 1
  let ok := decide (fieldAt bs (off + 8) 4 < 16) && decide (1 ≤ groups) && decide (groups ≤ 32) && decide (1 ≤ gang) && decide (gang ≤ 8) && decide (nsw ≤ 64)
    && offs.length == fieldAt bs (off + 0x0C) 1 && !offs.isEmpty && zeroAt bs (off + 0xA0) 96
    && (slotsAt bs (off + 0x20)).all (fun x => slotOk x true) && offs.all (fun e => variantOk bs e.2 e.1 nsw code codesize) && variantsAgree vs
  ({ code := base + code, kflags := fieldAt bs (off + 8) 4, groups := groups, gangblk := gang, variants := vs }, ok)

/-- A tensor record (R74) and whether the yard core takes it: its reserved bytes are 0 (R73), and its fields are in the ranges of R74, its name
in the string table (DESIGN CHOICE, log entry 131). -/
def tensorAt (bs : List Byte) (off : Nat) : TensorRec × Bool :=
  let f (o n : Nat) : Nat := fieldAt bs (off + o) n
  ({ name := (bs.drop (fieldAt bs 0x40 8 + f 0 4)).take (f 4 4), bytes := f 8 8, align := f 0x10 1, sealed_ := f 0x11 1 == 1 },
   zeroAt bs (off + 0x12) 14 && decide (4 ≤ f 0x10 1) && decide (f 0x10 1 ≤ 35) && decide (f 0x11 1 ≤ 1) && decide (f 0 4 + f 4 4 ≤ fieldAt bs 0x48 8))

/-- An image from its bytes, if R73 lets the yard core load it. A header that breaks R69's alignments, that counts no kernel or whose TOTAL is not the
image's length, which R73 does not list, is taken as malformed too (DESIGN CHOICE, log entry 160). -/
def parseImage (base : Nat) (bs : List Byte) : Option Image :=
  let nk := fieldAt bs 8 4
  let nt := fieldAt bs 0x0C 4
  let ktab := fieldAt bs 0x10 8
  let ttab := fieldAt bs 0x18 8
  let digest := (bs.drop 0x60).take 64
  let ks := (List.range nk).map fun i => kernelAt bs base (ktab + 256 * i)
  let ts := (List.range nt).map fun i => tensorAt bs (ttab + 32 * i)
  if fieldAt bs 0 4 = 0x56455745 ∧ fieldAt bs 4 2 = 1 ∧ zeroAt bs 6 2 ∧ zeroAt bs 0x58 8 ∧ zeroAt bs 0xA0 96 ∧ nk ≥ 1 ∧ ktab % 256 = 0 ∧ ttab % 32 = 0
      ∧ fieldAt bs 0x20 8 % 256 = 0 ∧ fieldAt bs 0x30 8 % 256 = 0 ∧ fieldAt bs 0x50 8 = bs.length
      ∧ sha512 (bs.take 0x60 ++ zeros 64 ++ bs.drop 0xA0) = digest
      ∧ ts.all (fun t => t.2) ∧ ks.all (fun k => k.2)
  then some { base := base, kernels := ks.map fun k => k.1, tensors := ts.map fun t => t.1 } else none

/-- IMAGE_LOAD (R73): a function's yard core loads the image at a device address; a malformed one, or one whose bytes cannot be read, is refused
as a whole, and the status says so. While a page of it is on its way the load has no outcome yet. -/
def execImageLoad (fn addr size : Nat) (s : State) : Out :=
  match s.hwRead (s.fnWorld fn) (s.fnAsid fn) addr size with
  | (.ok bs, s1) => (match parseImage addr bs with
    | some im => .next (s1.updF fn fun x => { x with images := im :: x.images.filter (fun y => y.base ≠ addr), imageBad := some false })
    | none => .next (s1.updF fn fun x => { x with imageBad := some true }))
  | (.fail _ _, s1) => .next (s1.updF fn fun x => { x with imageBad := some true })
  | (.wait, s1) => .next s1

/-! ### Admission (R263-R267) -/

/-- The fields of a launch record (R263). -/
def parseRecord (bs : List Byte) : LaunchRec :=
  let f (off n : Nat) : Nat := fieldAt bs off n
  { lflags := f 2 2, prio := f 4 1, world := f 5 1, kernel := f 6 2, image := f 8 8, param := f 0x10 8, pbytes := f 0x18 4, tlslane := f 0x1C 4
    groups := f 0x20 1, gangblk := f 0x21 1, vmask := f 0x22 1, ndev := f 0x23 1, gen := f 0x24 4, resblk := f 0x28 8, ctxtab := f 0x30 8
    counts := [f 0x38 2, f 0x3A 2, f 0x3C 2, f 0x3E 1, f 0x3F 1, f 0x40 1], qlog := [f 0x44 1, f 0x45 1, f 0x46 1, f 0x47 1]
    doneaddr := f 0x48 8, devlist := f 0x50 8, wring := f 0x58 2, wval := f 0x60 8, fmt := slotsAt bs 0x80 }

/-- The first check of R266, with R277's on WRING. -/
def recordFormOk (bs : List Byte) (r : LaunchRec) : Bool :=
  fieldAt bs 0 2 == 1 && decide (r.lflags < 64) && decide (r.vmask < 16) && zeroAt bs 0x41 3 && zeroAt bs 0x5A 6 && zeroAt bs 0x68 24
  && bits r.wring 14 8 == 0 && decide (r.prio ≤ 15) && (!bit r.wring 15 || decide (bits r.wring 7 0 < 16))

/-- Blocks of a variant that one empty cluster holds for a world (R280). -/
def State.capacity (s : State) (c world n : Nat) (v : Variant) : Nat :=
  let k := s.cluster c
  let per (sp : Nat) : Nat :=
    let g := groupsAt n sp
    if getD k.spWorld sp 0 ≠ world then 0
    else if g = 0 then 32
    else
      let a := if v.tiles = 0 then 32 else 32 / (g * v.tiles)
      let b := if v.accs = 0 then 32 else 16 / (g * v.accs)
      min (min (2 ^ 18 / (g * 128 * v.vregs)) (32 / g)) (min a b)
  let banks := ((List.range 32).filter fun i => getD k.bankWorld i 0 = world).length
  let m := (List.range 4).foldl (fun x sp => min x (per sp)) 32
  if v.scratch = 0 then m else min m (banks / (v.scratch / 16384))

/-- Gangs of k blocks that clusters of given capacities hold, each gang on distinct clusters. -/
def gangsHeld (caps : List Nat) (k : Nat) : Nat :=
  (List.range 257).foldl (fun best m => if m * k ≤ (caps.map fun c => min c m).sum then m else best) 0

/-- Whether RESBLK blocks fit at once on a function's clusters, as if these held nothing (R266). -/
def State.residentFit (s : State) (fn world : Nat) (r : LaunchRec) (k : Kernel) : Bool :=
  let l : Launch := { lid := 0#32, fn := fn, ring := 0, index := 0, asid := 0, record := r, kernel := k }
  match l.variantOrder.getLast? with
  | none => false
  | some e =>
    let cs := (s.fn fn).clusters.filter s.inService
    let held := ((cs.map fun c => c / 8).eraseDups.map fun h =>
      gangsHeld ((cs.filter fun c => c / 8 = h).map fun c => s.capacity c world k.groups e.2) k.gangblk).sum
    decide (r.resblk ≤ held * k.gangblk)

/-- What the yard core makes of a record. -/
inductive Admit where
  /-- A page is on its way. -/
  | wait
  | refuse (status : Nat)
  | ok (kernel : Kernel) (ctxs : SMap Ctx) (devs : List Nat) (pcopy : List Byte)
  deriving DecidableEq, Repr

/-- The contexts of a context table (R264): `none` where an entry is not valid. -/
def contextsOf (r : LaunchRec) (bs : List Byte) : Option (SMap Ctx) :=
  let nums := (List.range 6).flatMap fun k => (List.range (r.counts.getD k 0)).map fun i => k * 4096 + i
  let es := (List.range nums.length).map fun i => (nums.getD i 0, i)
  if es.all fun e => fieldAt bs (16 * e.2) 8 % 16 == 0 && decide (fieldAt bs (16 * e.2 + 8) 1 ≤ 20) && zeroAt bs (16 * e.2 + 9) 7 then
    some (es.map fun e =>
      let room := if e.1 / 4096 = 5 then 2 ^ (r.qlog.getD (e.1 % 4096) 0) else 0
      (e.1, { ring := fieldAt bs (16 * e.2) 8, rlog := fieldAt bs (16 * e.2 + 8) 1, room := room }))
  else none

/-- Whether a page can be written by a launch of a world (R266, DONEADDR). -/
def State.writable (s : State) (world asid va : Nat) : Bool :=
  let a := canonAsid asid va
  decide (va < 2 ^ 56) && match (s.portLeaf a va).1 with
    | .leaf l => l.w && !l.sealed_ && (l.remote.isNone || world = 0)
    | .bad _ _ => false

/-- The checks of R266 in the order of its table; `multi` says that GEN must be fresh. -/
def State.examine (s : State) (fn : Nat) (bs : List Byte) (r : LaunchRec) : Admit × State :=
  let world := s.fnWorld fn
  let asid := s.fnAsid fn
  let (e, s0) := s.asidEntry 0 asid
  let worldOk := r.world == world && bit (e.headD 0) 0 && asidWorld e == r.world && !(r.ndev > 1 && world != 0) && !(world != 0 && (s.world world).ending)
  let counts := r.counts
  let limits := [256, 256, 256, 16, 64, 4]
  let nent := (List.range 6).foldl (fun n k => n + counts.getD k 0) 0
  if !recordFormOk bs r then (.refuse 1, s0)
  else if !worldOk then (.refuse 6, s0)
  else match ((s0.fn fn).images.find? fun i => i.base = r.image).bind fun i => i.kernels[r.kernel]? with
    | none => (.refuse 2, s0)
    | some k =>
      let named (v : Nat) : Bool := !bit r.vmask v || (find k.variants v).isSome
      let shapeOk := r.groups == k.groups && r.gangblk == k.gangblk && r.vmask != 0 && (List.range 4).all named && (!bit r.lflags 3 || bit r.vmask (bits r.lflags 5 4))
      let countsOk := (List.range 6).all (fun i => decide (counts.getD i 0 ≤ limits.getD i 0)) && r.ctxtab % 16 == 0
        && (List.range 4).all (fun i => decide (r.qlog.getD i 0 ≤ (if i < counts.getD 5 0 then 16 else 0))) && (!bit k.kflags 0 || decide (1 ≤ counts.getD 5 0))
      if !shapeOk then (.refuse 1, s0)
      else if !countsOk then (.refuse 1, s0)
      else match s0.examineRead fn world asid r.ctxtab (16 * nent) with
        | (.wait, s1) => (.wait, s1)
        | (.fail _ _, s1) => (.refuse 1, s1)
        | (.ok tab, s1) => match contextsOf r tab with
          | none => (.refuse 1, s1)
          | some ctxs =>
            if !(r.fmt.all fun x => slotOk x false) then (.refuse 1, s1)
            else if (bit r.lflags 2 && r.resblk == 0) || (!bit r.lflags 2 && r.resblk != 0) || decide (r.resblk ≥ 2 ^ 32) then (.refuse 1, s1)
            else if r.ndev = 0 ∨ r.ndev > 64 ∨ (r.ndev = 1 ∧ r.devlist ≠ 0) then (.refuse 1, s1)
            else match s1.examineRead fn world asid r.devlist (if r.ndev > 1 then 2 * r.ndev else 0) with
              | (.wait, s2) => (.wait, s2)
              | (.fail _ _, s2) => (.refuse 1, s2)
              | (.ok dl, s2) =>
                let devs := if r.ndev > 1 then (List.range r.ndev).map fun i => fieldAt dl (2 * i) 2 else [s.device]
                if !(decide devs.Nodup && devs.all (fun d => decide (d < 2 ^ 13)) && devs.contains s.device) then (.refuse 1, s2)
                else if r.pbytes > 65536 ∨ r.tlslane % 8 ≠ 0 ∨ r.tlslane > 524288 ∨ r.doneaddr % 64 ≠ 0 ∨ !s2.writable world asid r.doneaddr then (.refuse 1, s2)
                else match s2.examineRead fn world asid r.param (if bit r.lflags 0 then r.pbytes else 0) with
                  | (.wait, s3) => (.wait, s3)
                  | (.fail _ _, s3) => (.refuse 1, s3)
                  | (.ok pc, s3) =>
                    let fresh := (r.gen + 2 ^ 32 - (s.fn fn).lastgen.toNat) % 2 ^ 32
                    if bit r.lflags 2 ∧ !s3.residentFit fn world r k then (.refuse 3, s3)
                    else if r.ndev > 1 ∧ (fresh = 0 ∨ fresh ≥ 2 ^ 31) then (.refuse 4, s3)
                    else (.ok k ctxs devs pc, s3)

/-- Creates an admitted launch (R267, R273); its video contexts get their decode engines (R417). -/
def State.addLaunch (s : State) (fn ring : Nat) (r : LaunchRec) (k : Kernel) (ctxs : SMap Ctx) (devs : List Nat) (pc : List Byte) (idx : Option Nat) : State :=
  let lid := s.nextLid
  let x := s.fn fn
  let l : Launch :=
    { lid := BitVec.ofNat 32 (fn * 2 ^ 27 + x.seq % 2 ^ 27), fn := fn, ring := ring, index := lid, asid := s.fnAsid fn, record := r, kernel := k
      ctxs := ctxs.map fun (e : Nat × Ctx) => (e.1, { e.2 with engine := if e.1 / 4096 = 4 then Config.videoEngine lid e.1 % 64 else 0 }), replayable := bit r.lflags 0, pcopy := pc, admittedAt := s.clk, consumedAt := idx, devs := devs
      rank := (devs.findIdx? (· = s.device)).getD 0 }
  { s with nextLid := lid + 1, launches := put s.launches lid l }.updF fn fun x =>
    { x with seq := (x.seq + 1) % 2 ^ 27, lastgen := if r.ndev > 1 then BitVec.ofNat 32 r.gen else x.lastgen }

/-! ### Completion records (R276, R277, R395) -/

/-- The 64 bytes of a launch completion record (R276). -/
def launchRecord (lid status attempts gen nfail retired faillist clk : Nat) : List Byte :=
  toBytes 4 lid ++ toBytes 2 status ++ toBytes 2 attempts ++ toBytes 4 gen ++ toBytes 4 nfail ++ toBytes 8 retired ++ toBytes 8 faillist ++ toBytes 8 clk ++ zeros 24

/-- Whom a refused record of several devices is told to (R273, R274): its status goes to rank 0; where this device is rank 0, abort goes to the others.
A device list that cannot be read names nobody; `none` while its page is on the way. -/
def State.refusalTells (s : State) (fn : Nat) (r : LaunchRec) (status : Nat) : Option (List (Nat × YardMsg)) × State :=
  if r.ndev ≤ 1 ∨ r.ndev > 64 then (some [], s)
  else match s.hwRead (s.fnWorld fn) (s.fnAsid fn) r.devlist (2 * r.ndev) with
    | (.ok dl, s1) =>
      let devs := (List.range r.ndev).map fun i => fieldAt dl (2 * i) 2
      (some (if devs.headD 0 = s.device then (devs.filter (· ≠ s.device)).map fun d => (d, .abort) else [(devs.headD 0, .refusal status)]), s1)
    | (.wait, s1) => (none, s1)
    | (.fail _ _, s1) => (some [], s1)

/-- Sends those messages. -/
def State.tellRefusal (s : State) (fn gen : Nat) (l : List (Nat × YardMsg)) : State := l.foldl (fun (s : State) m => s.tell fn m.1 gen m.2) s

/-- Settles one consumed index of a ring: the count becomes the largest k whose first k indices have settled (R277). -/
def Ring.settleIndex (r : Ring) (idx : Nat) : Ring :=
  let l := (idx + 1) :: r.settled
  let c := settleFrom l r.rcount l.length
  { r with rcount := c, settled := l.filter fun k => decide (c < k) }

/-- Changes a ring of a function. -/
def State.updRing (s : State) (fn n : Nat) (f : Ring → Ring) : State := s.updF fn fun x => { x with rings := setD x.rings n (f (getD x.rings n {})) {} }

/-- A refusal (R266, R430): its record; where DONEADDR cannot be written LOST is set and RVEC fires. False while the page is on its way. -/
def State.refuse (s : State) (fn ring : Nat) (r : LaunchRec) (status : Nat) : Bool × State :=
  let world := s.fnWorld fn
  let lost (s : State) : State := (s.updRing fn ring fun x => { x with lost := true }).fireHost fn (getD (s.fn fn).rings ring {}).rvec
  if r.doneaddr % 64 ≠ 0 ∨ !s.writable world (s.fnAsid fn) r.doneaddr then (true, lost s)
  else
    match s.hwStore world (s.fnAsid fn) r.doneaddr (launchRecord 0 status 0 r.gen 0 0 0 s.clk) with
    | (.ok _, s1) => (true, s1)
    | (.wait, s1) => (false, s1)
    | (.fail _ _, s1) => (true, lost s1)

/-- The bytes of a failure-list entry (R395). -/
def Failure.bytes (f : Failure) : List Byte :=
  toBytes 8 f.num ++ toBytes 4 f.gang ++ toBytes 2 f.ctx ++ toBytes 1 f.kind ++ toBytes 1 f.code ++ toBytes 8 f.pc ++ toBytes 8 f.addr ++ toBytes 8 f.save
  ++ toBytes 4 f.lanes ++ toBytes 4 f.blk ++ zeros 16

/-- The failure list of a launch (R395): at most 4,096 entries. -/
def Launch.failList (l : Launch) : List Byte :=
  let es := l.failures.take 4096
  toBytes 4 0x4E48464C ++ toBytes 2 1 ++ toBytes 2 (if l.failures.length > 4096 then 1 else 0) ++ toBytes 4 es.length ++ toBytes 4 l.lid.toNat ++ zeros 48
  ++ es.flatMap Failure.bytes

/-- Whether the work of every other participant has ended, as far as this device knows (R275, R392): rank 0 holds done from each, another rank holds
rank 0's answer to its own (DESIGN CHOICE, log entry 150). -/
def Launch.allDone (l : Launch) : Bool :=
  l.record.ndev = 1 || if l.rank = 0 then (List.range l.record.ndev).all fun r => r = 0 || l.doneFrom.contains r else l.doneFrom.contains 0

/-- Whether a launch's work has ended on this device (R260, R270): the spawn tree is empty, and no command, block or log entry is left. -/
def State.workEnded (s : State) (lid : Nat) (l : Launch) : Bool :=
  (l.phase == .running || l.phase == .committing) && !l.replaying && l.spawn = 0 && l.gangs.isEmpty && (s.blocksOfLaunch lid).isEmpty
  && l.ctxs.all (fun (e : Nat × Ctx) => e.2.cmds.isEmpty) && !s.launchLogged lid

/-- A device whose work has ended sends done, once: to rank 0, and rank 0, when it holds done from every participant, to the others (R275, R392). -/
def State.sendDone (s : State) (lid : Nat) : State :=
  match find s.launches lid with
  | none => s
  | some l =>
    if l.record.ndev = 1 ∨ l.doneFrom.contains l.rank ∨ (l.rank = 0 ∧ !l.allDone) ∨ (l.status ≠ 0 ∧ l.status ≠ 7) ∨ !s.workEnded lid l then s
    else
      let s1 := s.updL lid fun l => { l with doneFrom := l.rank :: l.doneFrom }
      let msg := YardMsg.done l.retired l.nfail
      if l.rank = 0 then s1.tellAll l.fn l.devs l.record.gen msg else s1.tell l.fn (l.devs.headD 0) l.record.gen msg

/-- SHADOW_COMMIT (R391, R392): the written sectors of a launch whose work has ended on every device are committed, or at once those of one that has lost
replayability; what waits stays for the next try. -/
def execShadowCommit (lid : Nat) (s0 : State) : Out :=
  let s := s0.sendDone lid
  match find s.launches lid with
  | none => .next s
  | some l =>
    if s.workEnded lid l ∧ l.status = 0 ∧ l.allDone then .next ((s.updL lid fun l => { l with phase := .committing }).commitShadows lid)
    else if l.phase = .running ∧ !l.replayable then .next (s.commitShadows lid)
    else .next s

/-- The failure list of a launch is written, once (R395): `true` where there is none or it stands. -/
def State.writeFailList (s : State) (lid : Nat) (l : Launch) : Bool × State :=
  if l.nfail = 0 ∨ l.failAt.isSome then (true, s)
  else match s.areaFor l.asid l.failList.length with
    | none => (false, s)
    | some a => match s.hwStore l.record.world l.asid a l.failList with
      | (.wait, s1) => (false, s1)
      | (_, s1) => (true, s1.updL lid fun l => { l with failAt := some (a, l.failList.length) })

/-- LAUNCH_COMPLETION (R275-R277): the failure list and the completion record are written, and the ring's count follows. A launch whose work has
ended cleanly waits for the other participants; rank 0 waits for them also where it was ended under R394. -/
def execLaunchCompletion (lid : Nat) (s0 : State) : Out :=
  let s := s0.sendDone lid
  match find s.launches lid with
  | none => .next s
  | some l =>
    if s.estop ∨ !s.workEnded lid l ∨ !l.shadows.isEmpty ∨ ((l.status = 0 ∨ (l.status = 7 ∧ l.rank = 0)) ∧ !l.allDone) then .next s
    else if !l.owed.isEmpty then .next (s.payRecords lid)
    else
      let status := if l.status ≠ 0 then l.status else if l.nfail ≠ 0 then 7 else 0
      match s.writeFailList lid l with
      | (false, s1) => .next s1
      | (true, s1) =>
        let list := match (find s1.launches lid).bind Launch.failAt with | some a => a.1 | none => 0
        match s1.hwStore l.record.world l.asid l.record.doneaddr (launchRecord l.lid.toNat status l.attempts l.record.gen l.nfail l.retired list s.clk) with
        | (.wait, s2) => .next s2
        | (_, s2) =>
          let s3 := { s2.updL lid fun l => { l with phase := .ended, status := status } with
            sockets := s2.sockets.filter fun k => k.lid ≠ lid, closedSockets := s2.closedSockets.filter fun k => k.lid ≠ lid }
          .next (match l.consumedAt with
            | some i => s3.updRing l.fn l.ring fun r => r.settleIndex i
            | none => s3)

/-! ### Rings (R429-R431) -/

/-- Whether a launch of a ring has sent ready and waits for start or abort (R274). -/
def State.ringHeld (s : State) (fn ring : Nat) : Bool := s.launches.any fun (e : Nat × Launch) => e.2.fn = fn && e.2.ring = ring && e.2.phase == .barrier

/-- RUNNING of a ring (R429). -/
def Ring.running (r : Ring) : Bool := r.enable && decide (1 ≤ r.rlog) && decide (r.rlog ≤ 16) && !r.stopped

/-- Takes the first replicated record that waits for a ring (R273): it is admitted, or refused with a record and a message; while a page that this
needs is on its way, or the ring is held, it stays. -/
def State.takePacket (s : State) (fn ring : Nat) : State :=
  match (s.fn fn).packets.find? fun p => p.1 = ring with
  | none => s
  | some p =>
    let drop (s : State) : State := s.updF fn fun x => { x with packets := x.packets.erase p }
    let r := parseRecord p.2
    if s.estop ∨ s.ringHeld fn ring then s
    else match s.examine fn p.2 r with
      | (.wait, s1) => s1
      | (.refuse st, s1) => (match s1.refusalTells fn r st with
        | (none, s2) => s2
        | (some msgs, s2) => (match s2.refuse fn ring r st with
          | (false, s3) => s3
          | (true, s3) => drop (s3.tellRefusal fn r.gen msgs)))
      | (.ok k ctxs devs pc, s1) => drop (s1.addLaunch fn ring r k ctxs devs pc none)

/-- Writes RDIDX and WRIDX of a ring that an RRESET has set (R429), unless the page is on its way. -/
def State.resetHeader (s : State) (fn ring : Nat) : State :=
  let r := getD (s.fn fn).rings ring {}
  match r.resetTo with
  | none => s
  | some v => match s.hwStore (s.fnWorld fn) (s.fnAsid fn) r.rbase.toNat (toBytes 4 v ++ toBytes 4 v) with
    | (.wait, s1) => s1
    | (_, s1) => s1.updRing fn ring fun x => { x with resetTo := none }

/-- RING_CONSUME (R273, R430): the consumer takes index RDIDX, advances it, and admits or refuses the entry, an admitted record of several devices
going on to the others (log entry 130); while a page that it needs is on its way it takes nothing. A replicated record that waits comes first. -/
def execRingConsume (fn ring : Nat) (s : State) : Out :=
  let r := getD (s.fn fn).rings ring {}
  let world := s.fnWorld fn
  let asid := s.fnAsid fn
  if (s.fn fn).packets.any fun p => p.1 = ring then .next (s.takePacket fn ring)
  else if !s.booted ∨ s.estop ∨ !r.running ∨ s.ringHeld fn ring then .next s
  else if r.resetTo.isSome then .next (s.resetHeader fn ring)
  else
    match s.hwRead world asid r.rbase.toNat 4 with
    | (.ok ix, s1) =>
      let k := ofBytes ix
      if k = r.tail.toNat then .next s1
      else
        (match s1.hwRead world asid (r.rbase.toNat + 256 + 256 * (k % 2 ^ r.rlog)) 256 with
        | (.ok bs, s2) =>
          let rec_ := parseRecord bs
          let advance (s : State) : Acc × State := s.hwStore world asid r.rbase.toNat (toBytes 4 (k + 1))
          let counted (s : State) : State := s.updRing fn ring fun x => { x with consumed := x.consumed + 1 }
          (match s2.examine fn bs rec_ with
          | (.wait, s3) => .next s3
          | (.refuse st, s3) => (match s3.refusalTells fn rec_ st with
            | (none, s4) => .next s4
            | (some msgs, s4) => (match s4.refuse fn ring rec_ st with
              | (false, s5) => .next s5
              | (true, s5) => (match advance s5 with
                | (.ok _, s6) => .next (((counted s6).tellRefusal fn rec_.gen msgs).updRing fn ring fun x => x.settleIndex r.consumed)
                | (_, s6) => .next s6)))
          | (.ok kn ctxs devs pc, s3) => (match advance s3 with
            | (.ok _, s4) =>
              let s5 := (counted s4).addLaunch fn ring rec_ kn ctxs devs pc (some r.consumed)
              .next (if rec_.ndev > 1 then s5.tellAll fn devs rec_.gen (.packet ring bs) else s5)
            | (_, s4) => .next s4))
        | (_, s2) => .next s2)
    | (_, s1) => .next s1

/-- LAUNCH_PACKET (R273): a yard core receives a launch of several devices that another device's ring has replicated; it waits its turn. -/
def execLaunchPacket (fn ring : Nat) (data : List Nat) (s : State) : Out :=
  .next ((s.updF fn fun x => { x with packets := x.packets ++ [(ring, data.map fun x => BitVec.ofNat 8 x)] }).takePacket fn ring)

/-! ### Starting (R268, R274, R277, R278) -/

/-- Starts the seed group of a launch (R268, R270): it is placed at once where it fits. A launch that replays starts it at the end of its replay. -/
def State.startSeed (s : State) (lid : Nat) : State :=
  if (find s.launches lid).any fun l => l.replaying then s.updL lid fun l => { l with phase := .running, go := true }
  else
    let s1 := s.updL lid fun l => { l with phase := .running, spawn := 1, gangNext := 1, gangs := [(0, seedGang)] }
    (s1.placeGang lid 15 []).getD s1

/-- Whether the launches before one in its ring let it start (R278): none is unfinished, or the one just before it alone, which has executed `sms`. -/
def State.ringLets (s : State) (l : Launch) : Bool :=
  let before := s.launches.filter fun (e : Nat × Launch) => e.2.fn = l.fn && e.2.ring = l.ring && decide (e.2.index < l.index)
  match before.filter fun (e : Nat × Launch) => e.2.phase != .ended with
  | [] => true
  | [e] => before.all (fun (x : Nat × Launch) => decide (x.2.index ≤ e.2.index)) && e.2.sms && (e.2.phase == .running || e.2.phase == .committing)
  | _ => false

/-- Whether every participant is ready at rank 0 (R274). -/
def Launch.allReady (l : Launch) : Bool := (List.range l.record.ndev).all fun r => l.readyFrom.contains r

/-- Rank 0 with every ready message opens the barrier: start goes to every participant, itself included (R274). -/
def State.openBarrier (s : State) (lid : Nat) : State :=
  match find s.launches lid with
  | none => s
  | some l => if l.rank = 0 && l.phase == .barrier && l.allReady then (s.tellAll l.fn l.devs l.record.gen .start).startSeed lid else s

/-- LAUNCH_START (R274, R277, R278): a held launch goes on: on one device its seed starts; on several it enters the start barrier and tells rank 0
that it is ready. -/
def execLaunchStart (lid : Nat) (s : State) : Out :=
  match find s.launches lid with
  | none => .next s
  | some l =>
    let wring := !bit l.record.wring 15 || decide (l.record.wval ≤ (getD (s.fn l.fn).rings (bits l.record.wring 7 0) {}).rcount)
    if l.phase ≠ .admitted ∨ !wring ∨ !s.ringLets l ∨ l.replaying then .next s
    else if l.record.ndev = 1 then .next (s.startSeed lid)
    else
      let s1 := s.updL lid fun l => { l with phase := .barrier, readyFrom := if l.rank = 0 then 0 :: l.readyFrom else l.readyFrom }
      .next (if l.rank = 0 then s1.openBarrier lid else s1.tell l.fn (l.devs.headD 0) l.record.gen .ready)

/-- START_READY (R274, R393): rank 0 receives a ready message, or in a replay the report that a participant has finished step 4; with the last of them it
opens the barrier, or the seed groups start again (log entry 151). -/
def execStartReady (lid rank gen : Nat) (s : State) : Out :=
  match find s.launches lid with
  | none => .next s
  | some l =>
    if l.rank ≠ 0 ∨ gen ≠ l.record.gen ∨ l.record.ndev ≤ 1 ∨ rank ≥ l.record.ndev ∨ (l.phase ≠ .admitted ∧ l.phase ≠ .barrier ∧ !l.replaying) then .next s
    else
      let s1 := s.updL lid fun l => { l with readyFrom := if l.readyFrom.contains rank then l.readyFrom else rank :: l.readyFrom }
      .next (if l.phase = .running then s1.endReplay lid else s1.openBarrier lid)

/-- START (R274, R393): a device starts its seed group, in a replay again. -/
def execStartMsg (lid gen : Nat) (s : State) : Out :=
  match find s.launches lid with
  | none => .next s
  | some l =>
    .next (if gen ≠ l.record.gen ∨ l.rank = 0 then s
      else if l.phase = .barrier then s.startSeed lid
      else if l.phase = .running ∧ l.replaying ∧ l.prepared then s.restartSeed lid
      else s)

/-- ABORT (R274, R295): the launch ends with STATUS 5; a seed group that has started is killed and reported. -/
def execAbortMsg (lid gen : Nat) (s : State) : Out :=
  match find s.launches lid with
  | none => .next s
  | some l => .next (if gen = l.record.gen ∧ l.record.ndev > 1 ∧ l.phase ≠ .ended then s.endLaunch lid 5 0x42 else s)

/-- Rank 0 aborts a launch (R274): it tells every other participant and ends its own part with STATUS 5. -/
def State.abortAll (s : State) (lid : Nat) : State :=
  match find s.launches lid with
  | none => s
  | some l => (s.tellAll l.fn l.devs l.record.gen .abort).endLaunch lid 5 0x42

/-- START_BARRIER_TIMEOUT (R274): 22,500,000 clk after its admission rank 0 aborts without every ready message. -/
def execStartBarrierTimeout (lid : Nat) (s : State) : Out :=
  match find s.launches lid with
  | none => .next s
  | some l =>
    let open_ := l.phase = .admitted ∨ l.phase = .barrier
    .next (if open_ ∧ l.record.ndev > 1 ∧ l.rank = 0 ∧ !l.allReady ∧ l.admittedAt + 22500000 ≤ s.clk then s.abortAll lid else s)

/-- REFUSAL (R274, R295): rank 0 learns that a participant has refused the launch, and aborts, also where some have started. -/
def execRefusal (lid rank _status : Nat) (s : State) : Out :=
  match find s.launches lid with
  | none => .next s
  | some l =>
    .next (if l.phase ≠ .ended ∧ l.record.ndev > 1 ∧ l.rank = 0 ∧ rank < l.record.ndev then s.abortAll lid else s)

/-- DONE (R275, R392): rank 0 adds a participant's totals to its own; another rank learns from rank 0 that every participant's work has ended, and its own
record keeps its own totals. -/
def execDoneMsg (lid rank retired nfail : Nat) (s : State) : Out :=
  match find s.launches lid with
  | none => .next s
  | some l =>
    if rank ≥ l.record.ndev ∨ l.doneFrom.contains rank ∨ l.phase ≠ .running ∨ (rank = 0) = (l.rank = 0) then .next s
    else if l.rank ≠ 0 then .next (s.updL lid fun l => { l with doneFrom := 0 :: l.doneFrom })
    else .next (s.updL lid fun l => { l with doneFrom := rank :: l.doneFrom, retired := l.retired + retired, nfail := min (l.nfail + nfail) (2 ^ 32 - 1) })

end Sys2Proof.Machine
end

