-- ==== Sys2Proof/Machine/Devices.lean ====
section
/-!
DEFINITION. Device register space (R304, R310-R320, R344-R348, R367, R382-R384, R396, R400, R424, R425, R428-R431, R435, R440, R442): what
a read of a register gives and what a write does, with the events that such a write is.
-/
namespace Sys2Proof.Machine
open Sys2Proof

/-- The state that an outcome leads to. -/
def after (o : Out) (s : State) : State := match o with | .next t => t | _ => s

/-! ### Memory-system control pages (R310-R312, R316, R319, R320) -/

/-- A RESOLVE write (R316): FAIL 0 must carry CODE 0. -/
def State.resolveWrite (s : State) (d v : Nat) : State :=
  if bit v 63 then after (execResolveFail d (bits v 31 0) (bits v 39 32) s) s
  else if bits v 39 32 ≠ 0 then s.dropped d
  else after (execResolveSuccess d (bits v 31 0) s) s

/-- An INVCMD write (R312). -/
def State.invWrite (s : State) (d v : Nat) : State :=
  let asid := bits v 63 48
  match bits v 3 0 with
  | 1 => after (execInvcmdDropPage d asid s) s
  | 2 => after (execInvcmdDropAsid d asid s) s
  | 3 => after (execInvcmdDropAll d asid s) s
  | 4 => after (execInvcmdWritebackRange d asid s) s
  | _ => s.dropped d

/-- A write to a register of a die's control page. -/
def State.msWrite (s : State) (d off v : Nat) : State :=
  let x := BitVec.ofNat 64 v
  match off with
  | 0x008 => s.updD d fun k => { k with msctl := BitVec.ofNat 64 (v % 2 ^ 17) }
  | 0x010 => after (execFbbaseWrite d v s) s
  | 0x020 => after (execFbtailWrite d v s) s
  | 0x028 => s.updD d fun k => { k with msstat := k.msstat &&& ~~~x }
  | 0x030 => s.updD d fun k => { k with fbovf := x }
  | 0x038 => s.resolveWrite d v
  | 0x040 => after (execVictq d v s) s
  | 0x060 => s.invWrite d v
  | 0x068 => s.updD d fun k => { k with invaddr := x }
  | 0x070 => s.updD d fun k => { k with invlen := x }
  | 0x090 => after (execBpladd d v s) s
  | 0x0A0 => s.updD d fun k => { k with bplidx := BitVec.ofNat 64 (v % 2 ^ 12) }
  | 0x0B0 => after (execAsidbaseWrite d v s) s
  | _ => s

/-- A read of a register of a die's control page; ECCPOP pops an event. -/
def State.msRead (s : State) (d off : Nat) : Nat × State :=
  let k := s.die d
  match off with
  | 0x000 => (d + 256, s)
  | 0x008 => (k.msctl.toNat, s)
  | 0x010 => (k.fbbase.toNat, s)
  | 0x018 => (k.fbhead.toNat, s)
  | 0x020 => (k.fbtail.toNat, s)
  | 0x028 => (k.msstat.toNat, s)
  | 0x030 => (k.fbovf.toNat, s)
  | 0x048 => (k.victq.length, s)
  | 0x050 => (k.swapcnt.toNat, s)
  | 0x058 => (k.squashcnt.toNat, s)
  | 0x068 => (k.invaddr.toNat, s)
  | 0x070 => (k.invlen.toNat, s)
  | 0x078 => (if k.inv.isSome then 1 else 0, s)
  | 0x080 => ((k.eccq.headD 0#64).toNat, after (execEccpop d s) s)
  | 0x088 => (k.eccq.length, s)
  | 0x098 => (k.bpl0.length + 65536 * k.bpl1.length, s)
  | 0x0A0 => (k.bplidx.toNat, s)
  | 0x0A8 => ((if bit k.bplidx.toNat 11 then k.bpl1 else k.bpl0).getD (bits k.bplidx.toNat 10 0) 0, s)
  | 0x0B0 => (k.asidbase.toNat, s)
  | _ => (0, s)

/-! ### Reliability pages (R382-R384, R396, R398, R400) -/

/-- The logical cluster at a physical one of a die (R398), if one stands there. -/
def State.logicalOf (s : State) (d p : Nat) : Option Nat :=
  ((List.range 8).map fun k => 80 * d + 8 * (p / 9) + k).find? fun c => s.physOf c = (d, p)

/-- The resident group in a slot of a cluster. -/
def State.groupIn (s : State) (c sp slot : Nat) : Option (Nat × Group) := s.groups.find? fun (e : Nat × Group) => e.2.residentAt c sp && e.2.slot = slot

/-- Whether an injection into a world is refused (R384). -/
def State.sealedWorld (s : State) (w : Nat) : Bool := w ≠ 0 && !(s.world w).debugok

/-- Whether FICTL's injection is refused (R384); a CLUS beyond 89 names no cluster. -/
def State.injectRefused (s : State) (d f addr : Nat) : Bool :=
  let unused (keep : List (Nat × Nat)) : Bool := ((List.range 64).all fun i => i = 0 || !bit f i || keep.any fun k => k.2 ≤ i && i ≤ k.1)
  match bits f 3 1 with
  | 0 => !unused [(39, 34), (33, 29), (28, 27), (26, 22), (21, 20), (19, 13), (5, 5), (4, 4), (3, 1)] ||
    (match (s.logicalOf d (bits f 19 13)).bind fun c => s.groupIn c (bits f 21 20) (bits f 26 22) with
      | none => true
      | some e => decide ((s.variantOf e.2).accs ≤ bits f 28 27) || s.sealedWorld (s.worldOf e.2))
  | 1 => !unused [(3, 1)] || bits addr 63 52 ≠ 0 || bits addr 6 0 ≠ 0 || !inTier addr ||
    ((getD s.spare (addr / 128) {}).sealed_ && s.worlds.any fun (e : Nat × World) => e.2.alive && !e.2.debugok)
  | 2 => !unused [(19, 13), (3, 1)] || bits addr 63 19 ≠ 0 || addr % 8 ≠ 0 ||
    (match s.logicalOf d (bits f 19 13) with
      | none => decide (90 ≤ bits f 19 13)
      | some c => s.sealedWorld (getD (s.cluster c).bankWorld (addr / 16384) 0))
  | _ => true

/-- FICTL without its reserved bits [63:40] and [12:6], which read 0 (R6, R384); written with one of them set, the injection is refused. -/
def fictlBits (v : Nat) : Nat := v % 2 ^ 40 / 2 ^ 13 * 2 ^ 13 + v % 2 ^ 6

/-- A write to FICTL (R384): it replaces a pending injection. -/
def State.fictlWrite (s : State) (d w : Nat) : State :=
  let v := fictlBits w
  if !bit v 0 then s.updD d fun k => { k with fictl := BitVec.ofNat 64 v, fistat := k.fistat &&& ~~~1#64 }
  else if s.injectRefused d w (s.die d).fiaddr.toNat then s.updD d fun k => { k with fictl := BitVec.ofNat 64 (v - 1), fistat := 4#64 }
  else s.updD d fun k => { k with fictl := BitVec.ofNat 64 v, fistat := 1#64 }

/-- The injection pending on a die, if it is of a kind. -/
def State.pendingInjection (s : State) (d kind : Nat) : Option Nat :=
  let f := (s.die d).fictl.toNat
  if (s.die d).fistat.getLsbD 0 ∧ bit f 0 ∧ bits f 3 1 = kind then some f else none

/-- An injection has taken effect, or is refused (R384). -/
def State.injected (s : State) (d : Nat) (done : Bool) : State :=
  s.updD d fun k => { k with fictl := k.fictl &&& ~~~1#64, fistat := if done then 2#64 else 4#64 }

/-- INJECT_ACCUMULATOR (R384, KIND 0, WHEN 0): the element changes, its side sums do not. -/
def execInjectAccumulator (d : Nat) (s : State) : Out :=
  match s.pendingInjection d 0 with
  | none => .next s
  | some f =>
    if bit f 5 then .next s
    else if s.injectRefused d f 0 then .next (s.injected d false)
    else match (s.logicalOf d (bits f 19 13)).bind fun c => s.groupIn c (bits f 21 20) (bits f 26 22) with
      | none => .next (s.injected d false)
      | some e =>
        let v := (s.die d).fidata.setWidth 32
        let a := bits f 28 27
        let old := e.2.accEl a (bits f 33 29) (bits f 39 34)
        .next ((s.updG e.1 fun g => g.setAcc a (bits f 33 29) (bits f 39 34) (if bit f 4 then v else old ^^^ v)).injected d true)

/-- The names, ASID and address, under which L1s, held stores and L2 hold copies of the line at a physical address (R384). -/
def State.namesOf (s : State) (pa : Nat) : List (Nat × Nat) :=
  let near (asid va : Nat) : Bool := match (s.walk (homeDie asid va) asid va).1 with
    | .leaf l => l.remote.isNone && s.routed (l.pa + va % l.psize) / 128 = pa / 128
    | .bad _ _ => false
  let held (l : SMap Held) : List (Nat × Nat) := l.map fun (e : Nat × Held) => (e.1 / 2 ^ 56, e.1 % 2 ^ 56 / 128 * 128)
  let inL1 := s.clusters.flatMap fun (e : Nat × Cluster) => (e.2.l1.map fun (x : Nat × L1Line) => (x.1 / 2 ^ 49 % 65536, x.1 % 2 ^ 49 * 128)) ++ held e.2.l1held
  let inL2 := (s.l2.filter fun (e : Nat × Sector) => e.2.pa / 128 = pa / 128).map fun (e : Nat × Sector) => (e.1 / 2 ^ 52 % 65536, e.1 % 2 ^ 52 * 16 / 128 * 128)
  (((inL1 ++ held s.devHeld).filter fun n => near n.1 n.2) ++ inL2).eraseDups

/-- POISON_MEMORY_LINE (R384, KIND 1): every cached copy of the line is written back, then its eight sectors in memory are poisoned. -/
def execPoisonMemoryLine (d : Nat) (s : State) : Out :=
  match s.pendingInjection d 1 with
  | none => .next s
  | some f =>
    let pa := (s.die d).fiaddr.toNat
    if s.injectRefused d f pa then .next (s.injected d false)
    else
      let s0 := (s.namesOf pa).foldl (fun (s : State) n => s.maintain 4 n.1 n.2 128) s
      let lines := ((s0.l2.filter fun (e : Nat × Sector) => e.2.pa / 128 = pa / 128).map fun (e : Nat × Sector) =>
        (e.1 / 2 ^ 68, e.1 / 2 ^ 52 % 65536, e.1 % 2 ^ 52 * 16 / 128 * 128)).eraseDups
      let s1 := (lines.foldl (fun (s : State) l => s.evictLine l.1 l.2.1 l.2.2) s0).mscDrop pa
      let s2 : State := { s1 with memPoison := (List.range 8).foldl (fun (m : SMap Bool) i => setD m (pa / 128 * 8 + i) true false) s1.memPoison }
      .next (s2.injected d true)

/-- POISON_SCRATCH_GRANULE (R384, KIND 2); the banks of a spare or retired cluster keep their marks too. -/
def execPoisonScratchGranule (d : Nat) (s : State) : Out :=
  match s.pendingInjection d 2 with
  | none => .next s
  | some f =>
    let a := (s.die d).fiaddr.toNat
    if s.injectRefused d f a then .next (s.injected d false)
    else match s.logicalOf d (bits f 19 13) with
      | none => .next ((s.updD d fun x => { x with idlePoison := setD x.idlePoison (bits f 19 13 * 2 ^ 16 + a / 8) true false }).injected d true)
      | some c => .next ((s.updC c fun k => { k with poison := setD k.poison (a / 8) true false }).injected d true)

/-- SHADOW_POOL_WRITE (R396): SHBASE (reg 3) or SHLEN (reg 4). -/
def execShadowPoolWrite (fn reg val : Nat) (s : State) : Out :=
  let busy := s.launches.any fun (e : Nat × Launch) => e.2.fn = fn && !e.2.shadows.isEmpty
  if busy ∨ val % 65536 ≠ 0 ∨ (reg = 3 ∧ !inFast val) then .next s
  else .next (s.updF fn fun x => if reg = 3 then { x with shbase := BitVec.ofNat 64 val } else { x with shlen := BitVec.ofNat 64 val })

/-- A MAPREQ write (R400): the request starts; a write while BUSY has no effect. -/
def State.mapreqWrite (s : State) (d v : Nat) : State := if (s.die d).mapbusy.isSome then s else s.updD d fun k => { k with mapbusy := some v }

/-- A write to a register of a reliability page. -/
def State.relWrite (s : State) (d off v : Nat) : State :=
  let x := BitVec.ofNat 64 v
  if off = 0x008 then s.fictlWrite d v
  else if off = 0x010 then s.updD d fun k => { k with fidata := BitVec.ofNat 64 (v % 2 ^ 32) }
  else if off = 0x018 then s.updD d fun k => { k with fiaddr := x }
  else if off = 0x028 then s.mapreqWrite d v
  else if 0x400 ≤ off ∧ off < 0x400 + 0x40 * 90 then
    (if off % 0x40 = 0x38 then s else s.updD d fun k => { k with counters := setD k.counters ((off - 0x400) / 8) x 0#64 })
  else if d = 0 ∧ 0x2000 ≤ off ∧ off < 0x2000 + 0x28 * 17 then
    let f := (off - 0x2000) / 0x28
    match (off - 0x2000) % 0x28 / 8 with
    | 0 => s.updF f fun k => { k with rollbk := x }
    | 1 => s.updF f fun k => { k with replay := x }
    | 2 => s.updF f fun k => { k with shlost := x }
    | r => after (execShadowPoolWrite f r v s) s
  else s

/-- A read of a register of a reliability page. -/
def State.relRead (s : State) (d off : Nat) : Nat :=
  let k := s.die d
  if off = 0x000 then d + 256
  else if off = 0x008 then k.fictl.toNat
  else if off = 0x010 then k.fidata.toNat
  else if off = 0x018 then k.fiaddr.toNat
  else if off = 0x020 then k.fistat.toNat
  else if off = 0x030 then (if k.mapbusy.isSome then 1 else 0) + 2 * k.mapresult
  else if 0x100 ≤ off ∧ off < 0x150 then (getD k.maps ((off - 0x100) / 8) 0#64).toNat
  else if 0x400 ≤ off ∧ off < 0x400 + 0x40 * 90 then (getD k.counters ((off - 0x400) / 8) 0#64).toNat
  else if d = 0 ∧ 0x2000 ≤ off ∧ off < 0x2000 + 0x28 * 17 then
    let f := s.fn ((off - 0x2000) / 0x28)
    (([f.rollbk, f.replay, f.shlost, f.shbase, f.shlen].getD ((off - 0x2000) % 0x28 / 8) 0#64)).toNat
  else 0

/-! ### World-command pages (R367) -/

/-- A write to a function's world-command page: WREC, or WDOOR, which submits it. -/
def State.worldPageWrite (s : State) (fn off v : Nat) : State :=
  if off < 0x100 then s.updF fn fun x => { x with wrec := (List.range 8).foldl (fun (m : SMap Byte) i => setD m (off + i) (byteAt v i) 0#8) x.wrec }
  else if off = 0x100 then
    s.updF fn fun x => if x.wbusy then x else { x with wbusy := true, wdone := false, wsubAt := s.clk, wprog := none, wcmd := (List.range 256).map fun i => getD x.wrec i 0#8 }
  else s

/-- A read of a function's world-command page. -/
def State.worldPageRead (s : State) (fn off : Nat) : Nat :=
  let x := s.fn fn
  let le (m : SMap Byte) (a : Nat) : Nat := ofBytes ((List.range 8).map fun i => getD m (a + i) 0#8)
  let alive := decide (fn < 16) && (s.world (fn + 1)).alive
  if off < 0x100 then le x.wrec off
  else if off = 0x108 then (if x.wbusy then 1 else 0) + (if x.wdone then 2 else 0) + (if alive then 4 else 0) + (if x.torn then 8 else 0)
  else if off = 0x110 then (if alive then (s.world (fn + 1)).deadline else 0)
  else if 0x120 ≤ off ∧ off < 0x140 then (if fn = 16 then x.dnonce / 2 ^ (8 * (off - 0x120)) % 2 ^ 64 else 0)
  else if 0x200 ≤ off ∧ off < 0x300 then le x.wresp (off - 0x200)
  else 0

/-! ### Ring pages (R428-R431, R440) -/

/-- TAIL_WRITE (R431): an advance of more than the ring's entries puts it into overrun. -/
def execTailWrite (fn ring val : Nat) (s : State) : Out :=
  let r := getD (s.fn fn).rings ring {}
  let new := val % 2 ^ 32
  if new = r.tail.toNat then .next s
  else
    let adv := (new + 2 ^ 32 - r.tail.toNat) % 2 ^ 32
    let beyond := decide (1 ≤ r.rlog) && decide (r.rlog ≤ 16) && decide (2 ^ r.rlog < adv)
    let s1 := s.updRing fn ring fun x => { x with tail := BitVec.ofNat 32 new, overrun := x.overrun || beyond, stopped := x.stopped || beyond }
    .next (if beyond then s1.fireHost fn r.rvec else s1)

/-- RRESET (R429): RDIDX, WRIDX and TAIL take the value, OVERRUN clears; a header whose page is on its way takes it later, before the ring goes on. -/
def execRreset (fn ring val : Nat) (s : State) : Out :=
  let v := val % 2 ^ 32
  .next ((s.updRing fn ring fun x => { x with tail := BitVec.ofNat 32 v, overrun := false, stopped := false, resetTo := some v }).resetHeader fn ring)

/-- RBASE_WRITE (R429): only a 256-aligned value is taken. -/
def execRbaseWrite (fn ring val : Nat) (s : State) : Out :=
  .next (if val % 256 ≠ 0 then s else s.updRing fn ring fun x => { x with rbase := BitVec.ofNat 64 (val % 2 ^ 56) })

/-- WINBASE_WRITE (R428): a write with a non-zero reserved bit has no effect. -/
def execWinbaseWrite (fn val : Nat) (s : State) : Out :=
  .next (if bits val 63 56 ≠ 0 ∨ bits val 35 0 ≠ 0 then s else s.updF fn fun x => { x with winbase := BitVec.ofNat 64 val })

/-- FASID_WRITE (R440): no effect with a reserved bit or while the function's world exists. -/
def execFasidWrite (fn val : Nat) (s : State) : Out :=
  .next (if bits val 63 16 ≠ 0 ∨ (s.fnWorld fn ≠ 0) then s else s.updF fn fun x => { x with fasid := BitVec.ofNat 64 val })

/-- A ring page register as a read gives it. -/
def State.ringRead (s : State) (fn off : Nat) : Nat :=
  let f := s.fn fn
  if off = 0x800 then f.winbase.toNat
  else if off = 0x808 then f.fasid.toNat
  else if off < 0x400 then
    let r := getD f.rings (off / 0x40) {}
    match off % 0x40 with
    | 0x00 => r.rbase.toNat
    | 0x08 => r.rvec * 65536 + (if r.enable then 256 else 0) + r.rlog
    | 0x10 => r.tail.toNat
    | 0x18 => (if r.running then 1 else 0) + (if r.overrun then 2 else 0) + (if r.lost then 4 else 0)
    | 0x20 => r.rcount
    | _ => 0
  else 0

/-- A write of a whole ring page register. -/
def State.ringWrite (s : State) (fn off v : Nat) : State :=
  if off = 0x800 then after (execWinbaseWrite fn v s) s
  else if off = 0x808 then after (execFasidWrite fn v s) s
  else if off < 0x400 then
    let n := off / 0x40
    match off % 0x40 with
    | 0x00 => after (execRbaseWrite fn n v s) s
    | 0x08 => s.updRing fn n fun x => { x with rvec := bits v 23 16, enable := bit v 8, rlog := bits v 4 0 }
    | 0x10 => after (execTailWrite fn n v s) s
    | 0x18 => s.updRing fn n fun x => { x with overrun := x.overrun && !bit v 1, lost := x.lost && !bit v 2 }
    | 0x28 => after (execRreset fn n v s) s
    | _ => s
  else s

/-! ### Fabric (R424, R425), status page (R435, R436) -/

/-- A link's status word (R425). -/
def Link.word (l : Link) : Nat :=
  l.retries * 2 ^ 48 + l.crcerr * 2 ^ 32 + l.peer * 2 ^ 19 + min 3 l.paused.length * 4 + (if l.down then 2 else 0) + (if l.up then 1 else 0)

/-- A write to a link's status word. -/
def State.linkWrite (s : State) (n v : Nat) : State :=
  { s with links := setD s.links n (let l := getD s.links n {}; { l with retries := bits v 63 48, crcerr := bits v 47 32, down := l.down && !bit v 1 }) {} }

/-- MODST (R436). -/
def State.modst (s : State) : Nat :=
  s.cause * 2 ^ 24 + s.phase * 2 ^ 16 + (if s.estop then 8 else 0) + (if s.throt then 4 else 0) + (if s.hostless then 2 else 0) + (if s.ready then 1 else 0)

/-- PLIMIT_WRITE (R435): a value from 1,000 to 15,000 is taken, for the running window where it is not throttled (R439). -/
def execPlimitWrite (val : Nat) (s : State) : Out :=
  .next (if 1000 ≤ val ∧ val ≤ 15000 then { s with plimit := BitVec.ofNat 64 val, limit := if s.throt then s.limit else BitVec.ofNat 64 val } else s)

/-- TTRIP_WRITE (R435): a value from 85 to 115 is taken. -/
def execTtripWrite (val : Nat) (s : State) : Out :=
  .next (if 85 ≤ val ∧ val ≤ 115 then { s with ttrip := BitVec.ofNat 64 val } else s)

/-- What a module reset leaves (R320, R399, R437): the flash with its lists, the memories' cells, the drives, the schedule. -/
def State.moduleReset (s : State) : State :=
  { State.reset with
    mem := s.mem, memPoison := s.memPoison, spare := s.spare, flash := s.flash, device := s.device, drives := s.drives, files := s.files, agenda := s.agenda, free := s.free
    keyDraws := s.keyDraws, hostless := s.hostless
    dies := (s.dies.map fun (e : Nat × Die) => (e.1, ({ bpl0 := e.2.bpl0, bpl1 := e.2.bpl1 } : Die))).filter fun (e : Nat × Die) => e.2 != {} }

/-- MODRST (R435, R439): the magic value resets the module at any time; any other is ignored. -/
def execModrst (val : Nat) (s : State) : Out := .next (if val = 0x52455345 then s.moduleReset else s)

/-- A read of the status page. -/
def State.statusRead (s : State) (off : Nat) : Nat :=
  match off with
  | 0x00 => s.modst
  | 0x08 => s.plimit.toNat
  | 0x10 => s.pwr.toNat
  | 0x18 => s.icore.toNat
  | 0x20 => s.tmax.toNat
  | 0x28 => s.ttrip.toNat
  | _ => 0

/-- A write to the status page. -/
def State.statusWrite (s : State) (off v : Nat) : State :=
  match off with
  | 0x08 => after (execPlimitWrite v s) s
  | 0x28 => after (execTtripWrite v s) s
  | 0x30 => after (execModrst v s) s
  | _ => s

/-! ### I/O blocks (R344-R348) -/

/-- MSIX_TARGET_WRITE (R328, R344): a vector of a mast core fires. -/
def execMsixTargetWrite (cl vec : Nat) (s : State) : Out :=
  .next (if cl < 1280 ∧ vec < 64 then s.updM cl fun m => { m with msix := m.msix ||| BitVec.ofNat 64 (2 ^ vec) } else s)

/-- The block that an aperture address reaches (R345): its generation is resident, in the host world, the bytes within its SCRATCH. -/
def State.apertureBlock (s : State) (addr len : Nat) : Option (Nat × Block × Nat) :=
  let gen := bits addr 43 30
  let off := bits addr 18 0
  (s.blocks.find? fun (e : Nat × Block) => gen ≠ 0 && e.2.cluster = bits addr 29 19 && e.2.bgen = gen && e.2.phase == .resident && !e.2.genRetired &&
    (match s.launchOf e.2 with | some l => l.record.world = 0 && decide (off + len ≤ (l.variantOf e.2).scratch) | none => false)).map fun e => (e.1, e.2, off)

/-- APERTURE_ACCESS (R345): a write lands in the block's scratchpad or is dropped and counted; a read gives its bytes or Completer Abort. -/
def execApertureAccess (addr wr len : Nat) (data : List Nat) (s : State) : Out :=
  match s.apertureBlock addr len with
  | some (_, b, off) => .next (if wr = 1 then s.spWrite b off ((data.take len).map fun x => BitVec.ofNat 8 x) else { s with reply := some (s.spRead b off len) })
  | none => .next (if wr = 1 then { s with dropcnt := satInc s.dropcnt } else { s with reply := none })

/-- A register of an Ethernet port (R348): 0 BASE, 1 LOG, 2 HEAD, 3 TAIL, 4 VEC of a ring. -/
def Eth.reg (e : Eth) (r i : Nat) : Nat := (getD e.rings (r * 8 + i) 0#64).toNat
/-- Writes such a register. -/
def Eth.setReg (e : Eth) (r i v : Nat) : Eth := { e with rings := setD e.rings (r * 8 + i) (BitVec.ofNat 64 v) 0#64 }

/-- A read of an Ethernet port's page. -/
def Eth.read (e : Eth) (off : Nat) : Nat :=
  if off = 0x000 then (if e.linkup then 1 else 0) + (if e.fec then 2 else 0)
  else if off = 0x008 then e.emac.toNat
  else if off = 0x010 then e.ectl.toNat
  else if 0x100 ≤ off ∧ off < 0x100 + 0x40 * 32 ∧ (off - 0x100) % 0x40 ≤ 0x20 then e.reg ((off - 0x100) / 0x40) ((off - 0x100) % 0x40 / 8)
  else 0

/-- A write to an Ethernet port's page. -/
def Eth.write (e : Eth) (off v : Nat) : Eth :=
  if off = 0x008 then { e with emac := BitVec.ofNat 64 (v % 2 ^ 48) }
  else if off = 0x010 then { e with ectl := BitVec.ofNat 64 (v % 8) }
  else if 0x100 ≤ off ∧ off < 0x100 + 0x40 * 32 then
    let r := (off - 0x100) / 0x40
    match (off - 0x100) % 0x40 with
    | 0x00 => e.setReg r 0 (v / 4096 * 4096)
    | 0x08 => e.setReg r 1 (v % 32)
    | 0x18 => e.setReg r 3 v
    | 0x20 => e.setReg r 4 (bits v 21 16 * 65536 + bits v 10 0)
    | _ => e
  else e

/-- A read of the root complex page (R344). -/
def State.rcRead (s : State) (off : Nat) : Nat :=
  if off = 0 then 1
  else if 8 ≤ off ∧ off < 0x48 then (getD s.rootLinks ((off - 8) / 8) 0#64).toNat
  else if off = 0x48 then s.dropcnt.toNat
  else if off = 0x50 then s.urcnt.toNat
  else if off = 0x58 then s.rcctl.toNat
  else 0

/-! ### The whole device register space -/

/-- A register page and an offset in it. -/
inductive Page where
  | ms (die : Nat)
  | rel (die : Nat)
  | world (fn : Nat)
  | status
  | link (n : Nat)
  | route (dev : Nat)
  | ring (fn : Nat)
  | rc
  | eth (e : Nat)
  | msix (cl vec : Nat)
  | aperture
  /-- Configuration space, a root port's window, or an address no chapter names. -/
  | outside
  deriving DecidableEq, Repr

/-- The page of a physical address and the offset in it. -/
def pageOf (pa : Nat) : Page × Nat :=
  let o := pa - 0xF000000000000
  let top := o / 2 ^ 40
  let low := o % 2 ^ 40
  if o < 0x100000 then (.ms (o / 65536), o % 65536)
  else if top = 5 ∧ low < 1280 * 256 then (.msix (low / 256) (low % 256 / 4), low % 4)
  else if top = 6 ∧ low < 0x10000 then (.rc, low)
  else if top = 7 ∧ low < 0x40000 then (.eth (low / 65536), low % 65536)
  else if top = 8 ∧ low < 0x11000 then (.world (low / 4096), low % 4096)
  else if top = 9 ∧ low < 0x100000 then (.rel (low / 65536), low % 65536)
  else if top = 0xA ∧ low < 0x100 * 18 then (.link (low / 256), low % 256)
  else if top = 0xA ∧ 0x10000 ≤ low ∧ low < 0x10000 + 8 * 8192 then (.route ((low - 0x10000) / 8), low % 8)
  else if top = 0xB ∧ low < 0x110000 then (.ring (low / 65536), low % 65536)
  else if top = 0xC ∧ low < 0x10000 then (.status, low)
  else if 0x10 ≤ top ∧ top < 0x20 then (.aperture, 0)
  else (.outside, 0)

/-- Whether a page accepts an access of n bytes at an offset (R442). -/
def Page.accepts (p : Page) (off n : Nat) : Bool :=
  match p with
  | .ring _ => (n == 8 && off % 8 == 0) || (n == 4 && off % 4 == 0)
  | .rc => (n == 8 && off % 8 == 0) || (n == 4 && off % 4 == 0)
  | .eth _ => (n == 8 && off % 8 == 0) || (n == 4 && off % 4 == 0)
  | .msix _ _ => n == 4 && off == 0
  | .aperture => true
  | .outside => true
  | _ => n == 8 && off % 8 == 0

/-- Whether a page holds registers, of which each access reaches one (R442). -/
def Page.registers (p : Page) : Bool := p != .aperture && p != .outside

/-- The 8-byte register at an offset. -/
def State.regRead (s : State) (p : Page) (off : Nat) : Nat × State :=
  match p with
  | .ms d => s.msRead d off
  | .rel d => (s.relRead d off, s)
  | .world f => (s.worldPageRead f off, s)
  | .status => (s.statusRead off, s)
  | .link n => (if off = 0 then (getD s.links n {}).word else 0, s)
  | .route d => (if d < 4608 then (getD s.routing d 0#64).toNat else 0, s)
  | .ring f => (s.ringRead f off, s)
  | .rc => (s.rcRead off, s)
  | .eth e => ((getD s.eth e {}).read off, s)
  | _ => (0, s)

/-- A write of the 8-byte register at an offset. -/
def State.regWrite (s : State) (p : Page) (off v : Nat) : State :=
  match p with
  | .ms d => s.msWrite d off v
  | .rel d => s.relWrite d off v
  | .world f => s.worldPageWrite f off v
  | .status => s.statusWrite off v
  | .link n => if off = 0 then s.linkWrite n v else s
  | .route d => if d < 4608 then { s with routing := setD s.routing d (BitVec.ofNat 64 (bits v 17 0 + (if bit v 31 then 2 ^ 31 else 0))) 0#64 } else s
  | .ring f => s.ringWrite f off v
  | .rc => if off = 0x58 then { s with rcctl := BitVec.ofNat 64 (v % 256) } else s
  | .eth e => { s with eth := setD s.eth e ((getD s.eth e {}).write off v) {} }
  | _ => s

/-- What the other half of a register takes in a 4-byte write (R442): its value; nothing where a written 1 clears. -/
def State.heldHalf (s : State) (p : Page) (off : Nat) : Nat :=
  match p with
  | .ring _ => if off < 0x400 ∧ off % 0x40 = 0x18 then 0 else (s.regRead p off).1
  | _ => (s.regRead p off).1

/-- A read of n bytes of device register space (R344, R442): a width that the page does not take reads 0; what another device answers, and
what an address no chapter names gives, is a free value. -/
def State.devRead (s : State) (pa n : Nat) : Nat × State :=
  let (p, off) := pageOf pa
  if !p.accepts off n then (0, s)
  else match p with
    | .outside => (Config.freeValue s.free |>.toNat, { s with free := s.free + 1 })
    | .aperture => match s.apertureBlock pa n with
      | some (_, b, o) => (ofBytes (s.spRead b o n), s)
      | none => ((Config.freeValue s.free).toNat, { s with free := s.free + 1 })
    | .msix _ _ => (0, s)
    | _ =>
      let (v, s1) := s.regRead p (off / 8 * 8)
      (if n = 8 then v else v / 2 ^ (8 * (off % 8)) % 2 ^ 32, s1)

/-- A write of n bytes to device register space (R344, R442). -/
def State.devWrite (s : State) (pa n v : Nat) : State :=
  let (p, off) := pageOf pa
  if !p.accepts off n then s
  else match p with
    | .outside => s
    | .aperture => after (execApertureAccess pa 1 n ((List.range n).map fun i => (byteAt v i).toNat) s) s
    | .msix c k => after (execMsixTargetWrite c k s) s
    | _ =>
      if n = 8 then s.regWrite p off v
      else if (match p with | .ring _ => off < 0x400 && decide (off % 0x40 = 0x2C) | _ => false) then s
      else
        let old := s.heldHalf p (off / 8 * 8)
        let whole := if off % 8 = 0 then old / 2 ^ 32 * 2 ^ 32 + v % 2 ^ 32 else v % 2 ^ 32 * 2 ^ 32 + old % 2 ^ 32
        s.regWrite p (off / 8 * 8) whole

/-- REGISTER_WRITE (R442): a write to a device register by the host or by another agent. -/
def execRegisterWrite (pa width val : Nat) (s : State) : Out := .next (if inDevice pa then s.devWrite pa width (val % 2 ^ (8 * width)) else s)

/-- INBOUND_MEMORY_REQUEST (R346): a drive's request reaches the memory-side cache of a frame, the aperture or the MSI-X window; any other
address is refused and counted. A write of more than 512 bytes or a read of more than 4,096 no link carries: it has no effect (log entry 154). -/
def execInboundMemoryRequest (port addr wr len : Nat) (data : List Nat) (s : State) : Out :=
  let bs := (data.take len).map fun x => BitVec.ofNat 8 x
  if port ≥ 8 ∨ !bit s.rcctl.toNat port ∨ (if wr = 1 then 512 else 4096) < len then .next s
  else if inTier addr ∧ inTier (addr + len - 1) then
    .next (if wr = 1 then
      let covered (g : Nat) : Bool := decide (addr ≤ 16 * g) && decide (16 * g + 16 ≤ addr + bs.length)
      { s with
        mem := (List.range bs.length).foldl (fun (m : List Host.Cell) i => Memory.write m (addr + i) (bs.getD i 0#8)) s.mem
        memPoison := delIf s.memPoison covered }
      else { s with reply := some ((List.range len).map fun i => Memory.read s.mem (addr + i)) })
  else
    match pageOf addr with
    | (.aperture, _) => execApertureAccess addr wr len data s
    | (.msix c v, off) => if inDevice addr ∧ wr = 1 ∧ len = 4 ∧ off = 0 then execMsixTargetWrite c v s else .next { s with urcnt := satInc s.urcnt, reply := none }
    | _ => .next { s with urcnt := satInc s.urcnt, reply := none }

end Sys2Proof.Machine
end

