-- ==== Sys2Proof/Machine/UniMem.lean ====
section
/-!
DEFINITION. Uniform memory instructions `sld`, `sst`, `satom`, `sldsh`, `sstsh`, `satsh` (R161): one access for a group, or one access of a
mast core to its own map (R203, R322, R323) and to its cluster's scratchpads (R325).
-/
namespace Sys2Proof.Machine
open Sys2Proof

/-! ### One access for a group (R161, R202) -/

/-- The precise fault of a group's one access: the lanes of I are held at P, and nothing happened (R202). -/
def Issue.oneFault (it : Issue) (s0 : State) (f : Nat × DWord × DWord) : State := s0.raise it.gid f.1 it.I it.pc f.2.1 f.2.2

/-- The lane that an access of the whole group stands for in the records of its lanes: the lowest of I. -/
def Issue.lowest (it : Issue) : Nat := (lanesOf it.I).headD 0

/-- A late fault of the one access names every lane of I (R158). -/
def Ran.whole (r : Ran) (I : Word) : Ran := if r.failed.isSome then { r with failLanes := I } else r

/-- One global access of a group: `kind` for its checks, `size` bytes; `act` performs it at its performance point, behind what waits (R248). -/
def uniAccess (it : Issue) (s0 s1 : State) (i : Instr) (kind : AccKind) (base : DWord) (off size : Nat) (stream bad : Bool)
    (act : Who → Nat → Ran → Ran) : State :=
  if it.mustWait stream then it.waitTurn s0
  else
    let w := s0.who it
    let addr := uniAddr base off
    let s2 := s1.refill w [addr]
    match s2.accFault w kind addr (nbytes size) bad with
    | some f => it.oneFault s0 f
    | none => ((act w addr.toNat { s := s2, before := s2.order }).whole it.I).finish s0 it w i true false

/-- One scratchpad access of a group: an ordinary one (R151, R244). -/
def uniShAccess (it : Issue) (s0 s1 : State) (i : Instr) (base : Word) (off size : Nat) (act : Who → Word → Ran → Ran) : State :=
  if it.mustWait false then it.waitTurn s0
  else
    let w := s0.who it
    let a := uniAddr32 base off
    match s1.spFault it.g false a (nbytes size) with
    | some f => it.oneFault s0 f
    | none => ((act w a { s := s1, before := s1.order }).whole it.I).finish s0 it w i true false

/-! ### The accesses of a mast core (R322, R323, R325) -/

/-- What a mast core's access of n bytes comes to: the bytes read and the state, a fault of its own, or a reserved physical address. -/
inductive MastAcc where
  | ok (x : Nat) (s : State)
  | fault (code addr : Nat) (s : State)
  | reserved
  deriving DecidableEq, Repr

/-- The parts of a mast core's access: one, or one on each of the two 4 KiB pages it touches outside SRAM. A part on a page of device registers is
misaligned as the whole access is: it reads 0 and writes nothing (R442). -/
def mastParts (va n : Nat) : List (Nat × Nat) :=
  let k := 4096 - va % 4096
  if va < 0x40000 ∨ n ≤ k then [(va, n)] else [(va, k), (va + k, n - k)]

/-- The fault of a mast core's access (R322, R323): `kind` 0 load, 1 store. ADDR is the address of the access. -/
def State.mastBar (s : State) (c va n kind : Nat) : Option MastAcc :=
  (mastParts va n).findSome? fun p => match s.mastPlace c p.1 p.2 kind with
    | .fault code addr => some (.fault code (if p.1 = va then addr else va) s)
    | .reserved _ => some .reserved
    | _ => none

/-- One part of a load (`kind` 0) or of an atomic (`kind` 1): its bytes, or `none` for an uncorrectable error (R381). -/
def State.mastLoadPart (s : State) (c va n kind : Nat) (whole : Bool := true) : Option (List Byte) × State :=
  match s.mastPlace c va n kind with
  | .sram off => (if (s.mast c).badAt off n then none else some (toBytes n ((s.mast c).rd off n)), s)
  | .tier va pa => s.mastTierRead c va pa n
  | .device pa =>
    let s1 := s.mastUse c va
    if whole || !(pageOf pa).1.registers then (let r := s1.devRead pa n; (some (toBytes n r.1), r.2)) else (some (toBytes n 0), s1)
  | _ => (none, s)

/-- One part of a store. -/
def State.mastStorePart (s : State) (c va : Nat) (bs : List Byte) (whole : Bool := true) : State :=
  match s.mastPlace c va bs.length 1 with
  | .sram off => s.updM c fun m => m.wrBytes off bs
  | .tier va pa => s.mastTierWrite c va pa bs
  | .device pa =>
    let s1 := s.mastUse c va
    if whole || !(pageOf pa).1.registers then s1.devWrite pa bs.length (ofBytes bs) else s1
  | _ => s

/-- A load of n bytes by a mast core (R323): an uncorrectable error of a tier is a fault of its own instruction (R381). -/
def State.mastLoad (s : State) (c va n kind : Nat) : MastAcc :=
  match s.mastBar c va n kind with
  | some r => r
  | none =>
    let r := (mastParts va n).foldl (fun (r : Option (List Byte) × State) p =>
      match r.1, r.2.mastLoadPart c p.1 p.2 kind (p.2 = n) with
      | some bs, (some cs, s1) => (some (bs ++ cs), s1)
      | _, (_, s1) => (none, s1)) (some [], s)
    match r.1 with
    | some bs => .ok (ofBytes bs) r.2
    | none => .fault 0x40 va r.2

/-- A store of n bytes by a mast core (R323). -/
def State.mastStore (s : State) (c va n x : Nat) : MastAcc :=
  match s.mastBar c va n 1 with
  | some r => r
  | none => .ok 0 ((mastParts va n).foldl (fun s p => s.mastStorePart c p.1 (((toBytes n x).drop (p.1 - va)).take p.2) (p.2 = n)) s)

/-- Ends a mast core's access: its results and the next PC, or a fault of its own instruction. -/
def MastAcc.finish (r : MastAcc) (c len : Nat) (f : Nat → Mast → Mast) : Out :=
  match r with
  | .ok x s => .next (s.mastNext c len (f x))
  | .fault code addr s => .next (s.mastFault c code (BitVec.ofNat 64 addr) 0#64)
  | .reserved => .fault .reservedPhysicalAddress

/-- What the L1s hold of the lines of a mast core's atomic in a tier reaches its home first (R255, R256). -/
def State.mastForce (s : State) (c va n : Nat) : State :=
  match s.mastPlace c va n 1 with
  | .tier va _ => s.forceOut va
  | _ => s

/-- An atomic of a mast core outside scratchpad: the checks of a store, then alignment (R157, R323). -/
def State.mastAtomicBar (s : State) (c va n : Nat) (r : MastAcc) : MastAcc :=
  match s.mastBar c va n 1 with
  | some x => x
  | none => if va % n ≠ 0 then .fault 0x12 va s else r

/-- The scratchpad key of a mast core's access of n bytes: alignment, then the checks of R325. -/
def State.mastSpKey (s : State) (c : Nat) (a : Word) (n : Nat) : Except Nat Nat :=
  if a.toNat % n ≠ 0 then .error 0x12 else s.mastSp c a n

/-- Whether one of the granules of n scratchpad bytes is poisoned (R381). -/
def State.mastSpPoison (s : State) (c key n : Nat) : Bool :=
  (List.range n).any fun i => getD (s.cluster c).poison ((key + i) / 8) false

/-- Reads n scratchpad bytes of a cluster. -/
def State.mastSpRead (s : State) (c key n : Nat) : Nat := ofBytes ((List.range n).map fun i => getD (s.cluster c).scratch (key + i) 0#8)

/-- Writes n scratchpad bytes of a cluster; whole granules lose their poison (R384). -/
def State.mastSpWrite (s : State) (c key n x : Nat) : State :=
  let s1 := s.updC c fun k => { k with scratch := (List.range n).foldl (fun m i => setD m (key + i) (byteAt x i) 0#8) k.scratch }
  s1.healGranules c ((List.range n).map (key + ·))

/-- The timestamps of a mast core's scratchpad access (R245). -/
def State.spStampM (s : State) (c : Nat) (store : Bool) : State :=
  let t := max (s.mast c).ts ((s.cluster c).spTs + if store then 1 else 0)
  { (s.updC c fun k => { k with spTs := t, mast := { k.mast with ts := t } }) with tsTop := max s.tsTop t }

/-- A scratchpad load of a mast core (R325). -/
def State.mastSpLoad (s : State) (c : Nat) (a : Word) (n : Nat) : MastAcc :=
  match s.mastSpKey c a n with
  | .error code => .fault code a.toNat s
  | .ok key => if s.mastSpPoison c key n then .fault 0x40 a.toNat (s.countWord c 1) else .ok (s.mastSpRead c key n) (s.spStampM c false)

/-- A scratchpad store of a mast core (R325). -/
def State.mastSpStore (s : State) (c : Nat) (a : Word) (n x : Nat) : MastAcc :=
  match s.mastSpKey c a n with
  | .error code => .fault code a.toNat s
  | .ok key => .ok 0 ((s.mastSpWrite c key n x).spStampM c true)

/-- An atomic of a mast core: the old value, then the new one at the same place (R153, R203). -/
def mastAtomic (size op y y2 n : Nat) (read : MastAcc) (write : State → Nat → MastAcc) : MastAcc :=
  match read with
  | .ok old s1 =>
    (match write s1 (ofBytes (atomBytes size op (toBytes n old) y y2)) with
    | .ok _ s2 => .ok old s2
    | r => r)
  | r => r

/-! ### The instructions -/

/-- The words of the data operand of a uniform store. -/
def uniData (rd : Nat → Word) (d size : Nat) : List Byte := storeBytes size ((regRun d (dataRegs size)).map rd)

/-- `sld` (R161, R203). -/
def execSld (f : UmForm) (s : State) : Out :=
  let n := nbytes f.size
  uniIssue s (.sld f) f.sw f.g 8 { s := regRun f.d (dataRegs f.size) ++ [f.base.val, f.base + 1] } true
    (fun it s1 => uniAccess it s s1 (.sld f) .load (it.g.sreg64 f.base) f.off f.size (f.cls.val = 1) false fun w va r =>
      let r1 := r.load w it.lowest (accAt (.sld f) va) (fun bs => uniWrites f.d (loadWords f.size false bs)) fun s2 =>
        s2.loadNow w va n (f.cls.val = 1) f.scope (f.pol.val = 1)
      { r1 with s := r1.s.settleHints r.s w [va] n (f.cls.val = 1) f.scope f.rc f.grain f.pol true })
    fun c m s =>
      let va := (uniAddr (m.sreg64 f.base) f.off).toNat
      (s.mastLoad c va n 0).finish c 8 fun x m => m.setRun f.d (loadWords f.size false (toBytes n x))

/-- `sst` (R161, R203). -/
def execSst (f : UmForm) (s : State) : Out :=
  let n := nbytes f.size
  uniIssue s (.sst f) f.sw f.g 8 { s := regRun f.d (dataRegs f.size) ++ [f.base.val, f.base + 1] } true
    (fun it s1 => uniAccess it s s1 (.sst f) .store (it.g.sreg64 f.base) f.off f.size (f.cls.val = 1) false fun w va r =>
      let bs := uniData it.g.sreg f.d f.size
      let scope : Nat := if f.pol.val = 1 ∧ f.scope.val ≤ 3 then 4 else f.scope
      let r1 := r.store w it.lowest (accAt (.sst f) va) { lane := it.lowest, addr := va, size := n, atop := none, y := ofBytes bs, y2 := 0 } fun s2 =>
        s2.storeAtPoint w va bs (f.cls.val = 1) false scope it.pc it.lowest it.I
      { r1 with s := r1.s.settleHints r.s w [va] n (f.cls.val = 1) scope 0 f.grain f.pol false })
    fun c m s =>
      let va := (uniAddr (m.sreg64 f.base) f.off).toNat
      (s.mastStore c va n (ofBytes (uniData m.sreg f.d f.size))).finish c 8 fun _ m => m

/-- `satom` (R161, R203). -/
def execSatom (f : UmaForm) (s : State) : Out :=
  let n := nbytes f.size
  uniIssue s (.satom f) f.sw f.g 8 { s := regRun f.d (atomRegs f.size f.atop) ++ [f.base.val, f.base + 1] } true
    (fun it s1 => uniAccess it s s1 (.satom f) .atomic (it.g.sreg64 f.base) f.off f.size false
        (decide ((uniAddr (it.g.sreg64 f.base) f.off).toNat % n ≠ 0)) fun w va r =>
      let y := atomOperands f.size f.atop it.g.sreg f.d
      let r1 := r.load w it.lowest (accAt (.satom f) va) (fun bs => uniWrites f.d (loadWords f.size false bs)) fun s2 =>
        s2.atomicNow w va f.size f.atop y.1 y.2 f.scope
      { r1 with s := r1.s.settleHints r.s w [va] n false 6 0 0 f.pol false })
    fun c m s =>
      let va := (uniAddr (m.sreg64 f.base) f.off).toNat
      let y := atomOperands f.size f.atop m.sreg f.d
      (s.mastAtomicBar c va n (mastAtomic f.size f.atop y.1 y.2 n ((s.mastForce c va n).mastLoad c va n 1) fun s1 x => s1.mastStore c va n x)).finish c 8
        fun x m => m.setRun f.d (loadWords f.size false (toBytes n x))

/-- `sldsh` (R161, R325). -/
def execSldsh (f : UmForm) (s : State) : Out :=
  let n := nbytes f.size
  uniIssue s (.sldsh f) f.sw f.g 8 { s := regRun f.d (dataRegs f.size) ++ [f.base.val] } true
    (fun it s1 => uniShAccess it s s1 (.sldsh f) (it.g.sreg f.base) f.off f.size fun w a r =>
      r.load w it.lowest (accAt (.sldsh f) a.toNat) (fun bs => uniWrites f.d (loadWords f.size false bs)) fun s2 => s2.spLoad it.gid it.g false a n)
    fun c m s => (s.mastSpLoad c (uniAddr32 (m.sreg f.base) f.off) n).finish c 8 fun x m => m.setRun f.d (loadWords f.size false (toBytes n x))

/-- `sstsh` (R161, R325). -/
def execSstsh (f : UmForm) (s : State) : Out :=
  let n := nbytes f.size
  uniIssue s (.sstsh f) f.sw f.g 8 { s := regRun f.d (dataRegs f.size) ++ [f.base.val] } true
    (fun it s1 => uniShAccess it s s1 (.sstsh f) (it.g.sreg f.base) f.off f.size fun w a r =>
      let bs := uniData it.g.sreg f.d f.size
      r.store w it.lowest (accAt (.sstsh f) a.toNat) { lane := it.lowest, addr := a.toNat, size := n, atop := none, y := ofBytes bs, y2 := 0, space := 1 } fun s2 =>
        s2.spStore it.gid it.g false a bs)
    fun c m s => (s.mastSpStore c (uniAddr32 (m.sreg f.base) f.off) n (ofBytes (uniData m.sreg f.d f.size))).finish c 8 fun _ m => m

/-- `satsh` (R161, R325). -/
def execSatsh (f : UmaForm) (s : State) : Out :=
  let n := nbytes f.size
  uniIssue s (.satsh f) f.sw f.g 8 { s := regRun f.d (atomRegs f.size f.atop) ++ [f.base.val] } true
    (fun it s1 => uniShAccess it s s1 (.satsh f) (it.g.sreg f.base) f.off f.size fun w a r =>
      let y := atomOperands f.size f.atop it.g.sreg f.d
      r.load w it.lowest (accAt (.satsh f) a.toNat) (fun bs => uniWrites f.d (loadWords f.size false bs)) fun s2 =>
        s2.spAtomic it.gid it.g false a f.size f.atop y.1 y.2)
    fun c m s =>
      let a := uniAddr32 (m.sreg f.base) f.off
      let y := atomOperands f.size f.atop m.sreg f.d
      (mastAtomic f.size f.atop y.1 y.2 n (s.mastSpLoad c a n) fun s1 x => s1.mastSpStore c a n x).finish c 8
        fun x m => m.setRun f.d (loadWords f.size false (toBytes n x))

end Sys2Proof.Machine
end

