-- ==== Sys2Proof/Machine/Enqueue.lean ====
section
/-!
DEFINITION. Device-side enqueue `enq`, `enqw` (R225, R271, R272) and tensor declarations `tdecl` (R224, R362).
-/
namespace Sys2Proof.Machine
open Sys2Proof

/-! ### Device-side enqueue (R225) -/

/-- The predicate that `enq` writes; `enqw` ignores OPTS (R225). -/
def enqPred (f : UeForm) (waits : Bool) (k : Word) (ok : Bool) : Word := if waits then k else setPredOf k (bits f.opts 2 0) ok

/-- Whether N more items, which come to `blocks` blocks, would pass a bound (R225, R272). -/
def Launch.enqOver (l : Launch) (n blocks : Nat) : Bool :=
  n = 0 || decide (l.spawn + n > 2 ^ 48 - 1) || (bit l.record.lflags 2 && decide (l.enqBlocks + blocks > l.record.resblk))

/-- Puts an item into a queue: its numbers, its gangs and its place in the spawn tree (R225). -/
def State.addItem (s : State) (own n : Nat) (i : Item) (blocks : Nat) : State :=
  let s1 := s.updCtx own n fun x => { x with taken := x.taken + i.count, items := x.items ++ [i] }
  (s1.updL own fun l => { l with spawn := l.spawn + i.count, gangNext := l.gangNext + i.count, enqBlocks := l.enqBlocks + blocks }).sampleHead own n

/-- `enq` and `enqw` (R225): `waits` parks the group while the queue has no free entry. Taking an entry is a release to the item (R253). -/
def enqueue (i : Instr) (f : UeForm) (waits : Bool) (s : State) : Out :=
  uniGroupOnly s i f.sw f.g 8 (ueUses f 4) true fun it s1 =>
    let n := ctxNumber f 5 it.g.sreg
    let own := s1.lidOf it.g
    let regs := (regRun f.a 4).map it.g.sreg
    match (if n / 4096 = 5 then s1.ctx own n else none), find s1.launches own with
    | some x, some l =>
      let grid := bit f.imm 0
      let count := if grid then (rg regs 2).toNat else 1
      let blocks := if grid then count * l.kernel.gangblk else 1
      if rg regs 3 ≠ 0#32 then s.raise it.gid 0x02 it.I it.pc 0#64 0#64
      else if l.enqOver count blocks then s.raise it.gid 0x24 it.I it.pc 0#64 0#64
      else if x.room ≤ x.items.length then
        (if waits then s1.park it.gid (.room n)
        else it.done s1 fun g => { g with k := enqPred f waits g.k false }.sticky stEnqfull)
      else
        match s1.releaseGroup it.gid it.g with
        | (false, s2) => s2.stall it.gid .sideLog
        | (true, s2) =>
          let item : Item := { num := x.taken + 1, count := count, grid := grid, arg := rg64 regs 0
                               guard := if f.gv.val = 1 then some (it.g.bid, f.gslot.val) else none, gang := l.gangNext }
          it.done (s2.addItem own n item blocks) fun g => { g with k := enqPred f waits g.k true }.setRun f.d (numWords f (x.taken + count))
    | _, _ => s.raise it.gid 0x22 it.I it.pc 0#64 0#64

/-- `enq` (R225). -/
def execEnq (f : UeForm) (s : State) : Out := enqueue (.enq f) f false s
/-- `enqw` (R225). -/
def execEnqw (f : UeForm) (s : State) : Out := enqueue (.enqw f) f true s

/-! ### Tensor declarations (R224, R362) -/

/-- The first four checks of R362: OP 0 decl, 1 frz, 2 ret. -/
def World.declFault (w : World) (op base bytes tid ver : Nat) : Option Nat :=
  if base = 0 ∨ bytes = 0 ∨ base % 16 ≠ 0 ∨ bytes % 16 ≠ 0 then some 0x02
  else if op = 0 then
    (if tid = 0xFFFFFFFF ∨ w.decls.length ≥ 4096 ∨ w.pairs.length ≥ 1048576 then some 0x02
    else if w.decls.any fun d => decide (d.base < base + bytes) && decide (base < d.base + d.bytes) then some 0x02
    else if w.pairs.contains (tid, ver) then some 0x34 else none)
  else if w.decls.any fun d => d.base = base && d.bytes = bytes && d.tid = tid && d.ver = ver then none else some 0x02

/-- What the fifth check of R362 finds: a fault, its page and its detail, or the first page that is not there with its CAUSE and size. -/
structure DeclPages where
  fault : Option (Nat × Nat × Nat) := none
  wait : Option (Nat × Nat × Nat) := none
  deriving DecidableEq, Repr

/-- Translates the pages from `va` up to `stop` (R362); the last argument bounds their number. -/
def State.declPages (s : State) (world asid va stop : Nat) (r : DeclPages) : Nat → DeclPages × State
  | 0 => (r, s)
  | n + 1 =>
    if stop ≤ va then (r, s)
    else if va ≥ 2 ^ 56 then ({ r with fault := some (0x10, va / 4096 * 4096, 0) }, s)
    else
      match s.portLeaf (canonAsid asid va) va with
      | (.bad c d, s1) => ({ r with fault := some (c, va / 4096 * 4096, d) }, s1)
      | (.leaf l, s1) =>
        let (e, s1) := s1.asidEntry (homeDie asid va) asid
        if inShared va ∨ l.remote.isSome ∨ asidWorld e ≠ world then ({ r with fault := some (0x35, va / 4096 * 4096, 0) }, s1)
        else
          let r' : DeclPages := match r.wait, sortLeaf l (s1.swapping asid va) with
            | none, some cause => { r with wait := some (va, cause, l.psize) }
            | _, _ => r
          s1.declPages world asid (va / l.psize * l.psize + l.psize) stop r' n

/-- Sets the sectors of one line that lie in a range to zeros and writes the line back under the world's table (R362). -/
def State.clearLine (s : State) (world asid line base bytes : Nat) : State :=
  match (s.portLeaf asid line).1 with
  | .bad _ _ => s
  | .leaf l =>
    let pa := s.routed (l.pa + line % l.psize)
    let l2 := (List.range 8).foldl (fun (m : SMap Sector) i =>
      let va := line + 16 * i
      if base ≤ va ∧ va < base + bytes then put m (l2key 0 asid va) { data := 0#128, dirty := true, poison := false, pa := pa + 16 * i, world := world } else m) s.l2
    ({ s with l2 := l2 }).evictLine 0 asid line

/-- Drops the L1 and L2 sectors of a range without write-back, changes the world's table and writes the range as zeros (R362). What an edge
line holds outside the range is kept. -/
def State.clearRange (s : State) (world asid base bytes : Nat) (change : World → World) : State :=
  let lo := base / 128
  let hi := (base + bytes - 1) / 128
  let outside := ([lo, hi].flatMap fun ln => (List.range 8).map fun i => ln * 128 + 16 * i).filter fun va => va < base || base + bytes ≤ va
  let s1 := outside.foldl (fun (s : State) va => (s.touch { world := world, asid := asid } va).2) s
  let hit1 (k : Nat) : Bool := k / 2 ^ 56 = asid && decide (base ≤ k % 2 ^ 56) && decide (k % 2 ^ 56 < base + bytes)
  let hitLine (k : Nat) : Bool := k / 2 ^ 49 % 65536 = asid && decide (base < k % 2 ^ 49 * 128 + 128) && decide (k % 2 ^ 49 * 128 < base + bytes)
  let hit2 (k : Nat) : Bool := k / 2 ^ 52 % 65536 = asid && decide (base ≤ k % 2 ^ 52 * 16) && decide (k % 2 ^ 52 * 16 < base + bytes)
  let s2 : State := { s1 with
    clusters := s1.clusters.map fun (c : Nat × Cluster) => (c.1, { c.2 with l1held := delIf c.2.l1held hit1, l1 := delIf c.2.l1 hitLine })
    l2 := delIf s1.l2 hit2 }
  (List.range (hi + 1 - lo)).foldl (fun (s : State) i => s.clearLine world asid ((lo + i) * 128) base bytes) (s2.updW world change)

/-- Adds a declaration and its pair to a world's tables. -/
def World.declare (w : World) (base bytes tid ver : Nat) : World :=
  { w with decls := w.decls ++ [{ tid := tid, ver := ver, base := base, bytes := bytes, frozen := false }], pairs := w.pairs ++ [(tid, ver)] }
/-- Freezes a declaration. -/
def World.freeze (w : World) (tid ver : Nat) : World :=
  { w with decls := w.decls.map fun d => if d.tid = tid ∧ d.ver = ver then { d with frozen := true } else d }
/-- Removes a declaration; its pair stays. -/
def World.retire (w : World) (tid ver : Nat) : World := { w with decls := w.decls.filter fun d => !(d.tid = tid && d.ver = ver) }

/-- A `tdecl` that waits for a page stalls (R362); the wait joins the page's fault entry once. -/
def State.declWait (s : State) (it : Issue) (asid va cause psize : Nat) : State :=
  let page := va / psize * psize
  let s1 := if it.g.waiting = .page asid page then s else s.faultPage asid va cause psize 0 it.g.cluster
  (s1.updG it.gid fun g => { g with waitPc := it.pc }).stall it.gid (.page asid page)

/-- `tdecl` with OP 0, 1 or 2: it acts as `fence.sc.dev` before and after itself (R362). -/
def tdecl (i : Instr) (f : AForm) (op : Nat) (s : State) : Out :=
  uniGroupOnly s i f.sw f.g 8 { s := regRun f.a 6 } true fun it s1 =>
    match s1.fenceSc it.gid it.g 5 with
    | (false, s2) => s2.stall it.gid .sideLog
    | (true, s2) =>
      let regs := (regRun f.a 6).map it.g.sreg
      let base := (rg64 regs 0).toNat
      let bytes := (rg64 regs 2).toNat
      let tid := (rg regs 4).toNat
      let ver := (rg regs 5).toNat
      let world := s2.worldOf it.g
      let asid := s2.asidOf it.g
      match (s2.world world).declFault op base bytes tid ver with
      | some code => s2.raise it.gid code it.I it.pc 0#64 0#64
      | none =>
        if op = 1 then (it.past it.I (s2.updW world fun w => w.freeze tid ver)).acquireAt it.gid it.g.cluster 5
        else
          match s2.declPages world asid base (base + bytes) {} (bytes / 4096 + 2) with
          | ({ fault := some (code, page, d), .. }, s3) => s3.raise it.gid code it.I it.pc (BitVec.ofNat 64 page) (BitVec.ofNat 64 d)
          | ({ fault := none, wait := some (va, cause, psize) }, s3) => s3.declWait it asid va cause psize
          | ({ fault := none, wait := none }, s3) =>
            let change (w : World) : World := if op = 0 then w.declare base bytes tid ver else w.retire tid ver
            (it.past it.I (s3.clearRange world asid base bytes change)).acquireAt it.gid it.g.cluster 5

/-- `tdecl.decl` (R224, R362). -/
def execTdeclDecl (f : AForm) (s : State) : Out := tdecl (.tdeclDecl f) f 0 s
/-- `tdecl.frz` (R224, R362). -/
def execTdeclFrz (f : AForm) (s : State) : Out := tdecl (.tdeclFrz f) f 1 s
/-- `tdecl.ret` (R224, R362). -/
def execTdeclRet (f : AForm) (s : State) : Out := tdecl (.tdeclRet f) f 2 s

end Sys2Proof.Machine
end

