-- ==== Sys2Proof/Machine/Priv.lean ====
section
/-!
DEFINITION. Privileged instructions of a mast core (R232-R241): `mret`, `mpark`, mailboxes, `gsave`, `gload`, `haltb`, `gkill`, `scan`,
`ctbw`, `ctbi`, `wcfg` and the mast control registers (R25-R28).
-/
namespace Sys2Proof.Machine
open Sys2Proof

/-! ### Returning from an event (R233, R234) -/

/-- `mret` (R233 mode 0). -/
def execMret (f : NForm) (s : State) : Out :=
  privIssue s (.mret f) f.sw f.g fun c m s => 
    if m.depth = 0 then mastReserved s c
    else if m.badAt (0x3EB00 + 0x10 * (m.depth - 1)) 16 then .next (s.mastFault c 0x40 (BitVec.ofNat 64 (0x3EB00 + 0x10 * (m.depth - 1))) 0#64)
    else .next (s.updM c Mast.ret0)

/-- Lets the lanes of `mask` that group g holds at a delivered event go (R233): v0 first where a buffer gives it, then the resume PC or a
given one. -/
def Group.resume (g : Group) (mask : Word) (v0 : Option (Nat → Word)) (pc : Option DWord) : Group :=
  (lanesOf mask).foldl (fun (g : Group) l =>
    match g.holdOf l with
    | .event _ r true =>
      let g1 := match v0 with | some f => g.setV l 0 (f l) | none => g
      (g1.setPc (laneBit l) (pc.getD r)).setHold (laneBit l) .free
    | _ => g) g

/-- The record of R404 goes once one of its lanes is resumed. -/
def Block.retold (b : Block) (num : Nat) (mask : Word) : Block :=
  match find b.told num with
  | some r => if r.lanes &&& mask = 0#32 then b else { b with told := del b.told num }
  | none => b

/-- Whether some lane of `mask` is held at a delivered event. -/
def Group.resumes (g : Group) (mask : Word) : Bool :=
  (lanesOf mask).any fun l => match g.holdOf l with | .event _ _ true => true | _ => false

/-- Lets lanes of a group of cluster c go: a release of the mast core to the lanes, which acquire (R253); a group that `mpark` moved is
ready again. From the moment that a save of the block begins it has no effect (R352). -/
def State.resumeLanes (s : State) (c gid : Nat) (mask : Word) (v0 : Option (Nat → Word)) (pc : Option DWord) : State :=
  match find s.groups gid with
  | none => s
  | some g =>
    if s.leaving g.bid then s
    else if g.resumes mask then
      let s1 := ((s.updG gid fun g => g.resume mask v0 pc).updB g.bid fun b => b.retold g.num mask).acquireBy gid c
      if g.waiting = .parkedByMast then s1.wake gid else s1
    else s

/-- The effect of `mret` modes 1-3 on the group of MGRP. -/
def State.mretLanes (s : State) (c : Nat) (mask : Word) (v0 : Option (Nat → Word)) (pc : Option DWord) : State :=
  match s.mgrp c with
  | none => s
  | some (gid, _) => s.resumeLanes c gid mask v0 pc

/-- `mret.grp` (R233 mode 1). -/
def execMretGrp (f : AForm) (s : State) : Out :=
  privIssue s (.mretGrp f) f.sw f.g fun c m s => .next ((s.mretLanes c (m.sreg f.a) none none).mastNext c 4 id)

/-- `mret.res` (R233 mode 2): the buffer lies in private SRAM (R322). One that passes its end the spec does not speak of; the model raises
F_ADDR_UNMAPPED with the end as ADDR (DESIGN CHOICE, log entry 67). -/
def execMretRes (f : AbForm) (s : State) : Out :=
  privIssue s (.mretRes f) f.sw f.g fun c m s =>
    let off := (m.sreg f.b).toNat
    if off % 16 ≠ 0 then mastReserved s c
    else if off + 128 > 0x40000 then .next (s.mastFault c 0x10 0x40000#64 0#64)
    else if m.badAt off 128 then .next (s.mastFault c 0x40 (BitVec.ofNat 64 off) 0#64)
    else .next ((s.mretLanes c (m.sreg f.a) (some fun l => BitVec.ofNat 32 (m.rd (off + 4 * l) 4)) none).mastNext c 4 id)

/-- `mret.pc` (R233 mode 3). -/
def execMretPc (f : AbForm) (s : State) : Out :=
  privIssue s (.mretPc f) f.sw f.g fun c m s =>
    let pc := m.sreg64 f.b
    if pc.toNat % 4 ≠ 0 then .next (s.mastFault c 0x12 pc 0#64)
    else if pc.toNat ≥ 2 ^ 56 then .next (s.mastFault c 0x10 pc 0#64)
    else .next ((s.mretLanes c (m.sreg f.a) none (some pc)).mastNext c 4 id)

/-- `mpark` (R234): a group with every lane held at a delivered event leaves the active set. -/
def execMpark (f : NForm) (s : State) : Out :=
  privIssue s (.mpark f) f.sw f.g fun c _ s =>
    let s1 := match s.mgrp c with
      | none => s
      | some (gid, g) =>
        if g.live ≠ 0#32 ∧ (lanesOf g.live).all fun l => (match g.holdOf l with | .event _ _ true => true | _ => false) then
          (s.updG gid fun g => { g.dropTransient with phase := .pPark, active := none, waiting := .parkedByMast, since := s.clk }).scheduleAll c
        else s
    .next (s1.mastNext c 4 id)

/-! ### Mailboxes (R235, R340, R400) -/

/-- Puts a message into a party's mailbox: whether it had room. -/
def State.sendTo (s : State) (target from_ : Nat) (msg : List Byte) : Bool × State :=
  if (s.mast target).mailbox.length < 16 then (true, s.updM target fun m => { m with mailbox := m.mailbox ++ [(from_, msg)] }) else (false, s)

/-- A message to a numbered party (R340): clusters out of service take and discard it (R400); yard cores take it at once (log entry 40). -/
def State.sendMsg (s : State) (target from_ : Nat) (msg : List Byte) : Bool × State :=
  if target < 0x500 then (if s.inService target then s.sendTo target from_ msg else (true, s))
  else if target = 0x7FE then s.sendTo target from_ msg
  else (true, s)

/-- `msend` (R235). A message beyond SRAM's end gives F_ADDR_UNMAPPED with ADDR 0x40000 (DESIGN CHOICE, log entry 67). -/
def execMsend (f : MsendForm) (s : State) : Out :=
  privIssue s (.msend f) f.sw f.g fun c m s =>
    let t := (m.sreg f.a).toNat
    let off := (m.sreg f.b).toNat
    if !(decide (t < 0x500) || (decide (0x700 ≤ t) && decide (t ≤ 0x70F)) || t = 0x7FE) then mastReserved s c
    else if off % 64 ≠ 0 then .next (s.mastFault c 0x12 (BitVec.ofNat 64 off) 0#64)
    else if off + 64 > 0x40000 then .next (s.mastFault c 0x10 0x40000#64 0#64)
    else if m.badAt off 64 then .next (s.mastFault c 0x40 (BitVec.ofNat 64 off) 0#64)
    else
      let r := s.sendMsg t c (toBytes 64 (m.rd off 64))
      .next (r.2.mastNext c 4 fun m => { m with k := setPredOf m.k f.p r.1 })

/-- `mrecv` (R235). -/
def execMrecv (f : DaForm) (s : State) : Out :=
  privIssue s (.mrecv f) f.sw f.g fun c m s =>
    let off := (m.sreg f.a).toNat
    if off % 64 ≠ 0 then .next (s.mastFault c 0x12 (BitVec.ofNat 64 off) 0#64)
    else if off + 64 > 0x40000 then .next (s.mastFault c 0x10 0x40000#64 0#64)
    else
      match m.mailbox with
      | [] => .next (s.mastNext c 4 fun m => m.setS f.d 0xFFFFFFFF#32)
      | (n, msg) :: rest => .next (s.mastNext c 4 fun m => ({ m with mailbox := rest }.wrBytes off msg).setS f.d (BitVec.ofNat 32 n))

/-! ### Halting, saving and killing (R236, R237) -/

/-- The block of MGRP's group, if that group is resident. -/
def State.mgrpBlock (s : State) (c : Nat) : Option (Nat × Block) :=
  (s.mgrp c).bind fun e => (find s.blocks e.2.bid).map fun b => (e.2.bid, b)

/-- Whether every group of a block that has not retired is halted by `haltb` (R236): the halt of a late fault is none. -/
def State.blockHalted (s : State) (bid : Nat) : Bool := (s.groupsOf bid).all fun e => (e.2.halted && e.2.byHalt) || e.2.phase == .retired

/-- `gsave` (R236, R407): the mast core stalls until BLOCK_SAVE_COMPLETE. -/
def execGsave (f : TrapForm) (s : State) : Out :=
  privIssue s (.gsave f) f.sw f.g fun c m s =>
    match s.mgrpBlock c with
    | none => mastReserved s c
    | some (bid, b) =>
      if !(f.n.val = 5 || f.n.val = 6) || !s.blockHalted bid then mastReserved s c
      else if b.saving.isSome then .next (s.mastRetry c)
      else
        match s.mastBar c m.msave.toNat 16 1 with
        | some r => r.finish c 4 fun _ m => m
        | none =>
          let fs := if f.n.val = 5 then (s.groupsOf bid).filterMap fun e => e.2.heldFault.map fun r => (e.2.num, r) else []
          .next (((s.endHolds bid).updB bid fun b => { b.beginSave f.n.val s.clk (s.sideCountsOf bid) with faults := fs }).mastNext c 4 fun m =>
            { m with wait := .saving bid })

/-- n bytes of a mast core's own map, zeros where a byte cannot be read. -/
def State.readOwn (s : State) (c a n : Nat) : List Byte :=
  (List.range n).map fun i => match (s.mastByte c (a + i)).1 with | .ok [x] => x | _ => 0#8

/-- A group cleared for a restore in place: its identity and place stay, and it stays halted (R236). -/
def Group.emptied (g : Group) (clk : Nat) : Group :=
  { bid := g.bid, num := g.num, cluster := g.cluster, sp := g.sp, slot := g.slot, halted := true, byHalt := true, active := g.active, age := g.age
    phase := (if g.phase = .retired ∨ !g.inActive then .pReady false else .aReady), since := clk, entered := g.entered, ts := g.ts }

/-- Restores a halted block in place from an image (R39, R236): like every restore it gives the block a fresh generation (R345, log entry 148). What it
overwrites in the bypass network is a discard (R36). -/
def State.loadBlock (s : State) (bid : Nat) (b : Block) (l : Launch) (bs : List Byte) (v : SaveShape) : State :=
  let gids := (s.groupsOf bid).map fun e => e.1
  let gen := s.nextGen b.cluster
  let s0 := (s.updB bid fun b => { b with bgen := gen, genRetired := false }).updC b.cluster fun k => { k with bgen := gen }
  let s1 := gids.foldl (fun (s : State) gid => (s.leaveEngine gid).updG gid fun g => g.emptied s.clk) s0
  let lost := ((s.groupsOf bid).filter fun e => !e.2.transient.isEmpty).map fun e => e.2.num
  let s2 := s1.fillFrom bid b l bs v fun g => if lost.contains g.num then g.sticky stTdrop else g
  gids.foldl (fun (s : State) gid => s.updG gid fun g => if g.live = 0#32 then { g with phase := .retired, active := none } else g) s2

/-- `gload` (R236). -/
def execGload (f : NForm) (s : State) : Out :=
  privIssue s (.gload f) f.sw f.g fun c m s =>
    match s.mgrpBlock c with
    | none => mastReserved s c
    | some (bid, b) =>
      match s.launchOf b with
      | none => mastReserved s c
      | some l =>
        if !s.blockHalted bid || b.saving.isSome then mastReserved s c
        else
          match s.mastBar c m.msave.toNat 16 0 with
          | some r => r.finish c 4 fun _ m => m
          | none =>
            let a := m.msave.toNat
            let own (n : Nat) : List Byte := s.sealedImage l.record.world a (s.readOwn c a n) false
            let head := own 256
            match wantShape head l b.variant with
            | none => mastReserved s c
            | some v =>
              let bs := own (saveReach head b v + 12)
              if saveOk bs b l b.variant then .next ((s.loadBlock bid b l bs v).mastNext c 4 id) else mastReserved s c

/-- The groups that a `haltb` control word names (R237), if its SCOPE can be served. -/
def State.haltTargets (s : State) (c scope : Nat) : Option (List Nat) :=
  let ids (p : Group → Bool) : List Nat := (s.groups.filter fun (e : Nat × Group) => e.2.phase != .retired && p e.2).map fun e => e.1
  let live (bid : Nat) : Bool := match find s.blocks bid with | some b => b.phase == .resident | none => false
  if scope = 2 then some (ids fun g => g.cluster = c && live g.bid)
  else match s.mgrp c with
    | none => none
    | some (gid, g) =>
      if scope = 0 then some [gid]
      else if scope = 1 then some (ids fun x => x.bid = g.bid)
      else match s.blockOf g with
        | none => none
        | some b => some (ids fun x => match s.blockOf x with | some y => y.lid = b.lid && y.gang = b.gang && y.phase == .resident | none => false)

/-- `haltb` (R237): the halt stops issue at once; the mast core stalls until every target has come to rest (GROUP_HALT_COMPLETE). -/
def execHaltb (f : AForm) (s : State) : Out :=
  privIssue s (.haltb f) f.sw f.g fun c m s =>
    let v := (m.sreg f.a).toNat
    if v ≥ 8 then mastReserved s c
    else match s.haltTargets c (v % 4) with
      | none => mastReserved s c
      | some gids =>
        if bit v 2 then
          let s1 := gids.foldl (fun (s : State) gid => s.updG gid fun g => { g with halted := false, byHalt := false }) s
          let cls := (gids.filterMap fun gid => (find s.groups gid).map fun g => g.cluster).eraseDups
          .next ((cls.foldl State.scheduleAll s1).mastNext c 4 id)
        else
          let s1 := gids.foldl (fun (s : State) gid => s.updG gid fun g => { g with halted := true, byHalt := true }) s
          let moving := gids.filter fun gid => match find s1.groups gid with | some g => !g.restful || s1.fenceFirst gid g | none => false
          .next (s1.mastNext c 4 fun m => { m with wait := if moving.isEmpty then .nothing else .halt moving })

/-- Whether a `gsave` of what `gkill` would kill is in progress: it completes, and then the kill takes effect (R410). -/
def State.gangDumping (s : State) (bid : Nat) (b : Block) (whole : Bool) : Bool :=
  s.blocks.any fun (e : Nat × Block) => s.dumping e.1 && (e.1 = bid || (whole && e.2.lid = b.lid && e.2.gang = b.gang && e.2.phase == .resident))

/-- `gkill` (R237). -/
def execGkill (f : AForm) (s : State) : Out :=
  privIssue s (.gkill f) f.sw f.g fun c m s =>
    let v := (m.sreg f.a).toNat
    match s.mgrpBlock c with
    | none => mastReserved s c
    | some (bid, b) =>
      if v > 1 then mastReserved s c
      else if s.gangDumping bid b (v = 1) then .next (s.mastRetry c)
      else .next ((s.killFor bid (v = 1)).mastNext c 4 id)

/-! ### Scan (R238, R411, R413) -/

/-- Writes a scan's status into SCANREC of a cluster's counters, counting failures (R413). -/
def State.scanRecord (s : State) (c status : Nat) : State :=
  let (d, p) := s.physOf c
  s.updD d fun x =>
    let v := (getD x.counters (p * 8 + 6) 0#64).toNat
    let n := v / 2 ^ 32
    let n' := if status = 1 then min (n + 1) (2 ^ 32 - 1) else n
    { x with counters := setD x.counters (p * 8 + 6) (BitVec.ofNat 64 (n' * 2 ^ 32 + v % 2 ^ 32 / 4 * 4 + status)) 0#64 }

/-- Whether a scan of a cluster is refused: a resident group, or a numbered mast-context command that has not completed (R238, R411). -/
def State.scanRefused (s : State) (c : Nat) : Bool :=
  s.groups.any (fun (e : Nat × Group) => e.2.cluster = c && e.2.phase != .retired) ||
  (s.mast c).ctxs.any fun (e : Nat × Ctx) => decide (e.2.counter < e.2.taken)

/-- `scan` (R238, R411): refused with status 3, or begun: the L1's stream stores are published, and the core stalls until the scan ends. -/
def execScan (f : DaForm) (s : State) : Out :=
  privIssue s (.scan f) f.sw f.g fun c m s =>
    let v := (m.sreg f.a).toNat
    if v > 3 then mastReserved s c
    else if s.scanRefused c then .next ((s.scanRecord c 3).mastNext c 4 fun m => m.setS f.d 3#32)
    else .next ((s.publishIf c fun _ _ => true).mastNext c 4 fun m => { m with wait := .scan v (s.clk + 450000) f.d })

/-! ### The translation buffer and world assignment (R239, R240) -/

/-- Page sizes by PSIZE (R239). -/
def psizeOf (n : Nat) : Nat := [4096, 65536, 2 ^ 21, 2 ^ 29, 2 ^ 35].getD n 4096

/-- The CTB entry of an attribute word (R239). -/
def ctbEntryOf (a va pa : Nat) : CtbEntry :=
  { mast := bit a 22, asid := bits a 63 48, va := va, psize := psizeOf (bits a 11 9), world := bits a 21 17, sealed_ := bits a 16 14 = 1
    res := bits a 13 12, x := bit a 3, w := bit a 2, rd := bit a 1, pa := pa }

/-- The operand checks of `ctbw` (R232, R239, R323): reserved fields, alignment to the page size, ASID 0 for a MAST entry. -/
def ctbwOk (a va pa b : Nat) : Bool :=
  bits a 47 23 = 0 && bits a 8 4 = 0 && decide (bits a 21 17 ≤ 16) && decide (bits a 16 14 ≤ 1) && decide (bits a 11 9 ≤ 4)
  && va % psizeOf (bits a 11 9) = 0 && (!bit a 22 || (pa % psizeOf (bits a 11 9) = 0 && bits a 63 48 = 0 && decide (b + 3 ≤ 63)))

/-- `ctbw` (R239); V = 0 leaves no entry for the page. -/
def execCtbw (f : AbForm) (s : State) : Out :=
  privIssue s (.ctbw f) f.sw f.g fun c m s =>
    let va := (m.sreg64 f.a).toNat
    let a := (m.sreg64 f.b).toNat
    let pa := if bit a 22 then (m.sreg64 (f.b + 2)).toNat else 0
    if !ctbwOk a va pa f.b then mastReserved s c
    else
      let e := ctbEntryOf a va pa
      let drop (k : Cluster) : Cluster := { k with ctb := k.ctb.filter fun x => !(x.mast = e.mast && x.asid = e.asid && decide (x.va < e.va + e.psize) && decide (e.va < x.va + x.psize)) }
      .next ((s.updC c fun k => if bit a 0 then k.ctbPut e else drop k).mastNext c 4 id)

/-- Invalidates the CTB entries of a cluster that a test names. -/
def State.ctbDrop (s : State) (c : Nat) (hit : CtbEntry → Bool) : State := s.updC c fun k => { k with ctb := k.ctb.filter fun e => !hit e }

/-- `ctbi.page` (R239 mode 0). No entry has an ASID above 16 bits: such a number drops nothing (DESIGN CHOICE, log entry 165). -/
def execCtbiPage (f : AbForm) (s : State) : Out :=
  privIssue s (.ctbiPage f) f.sw f.g fun c m s =>
    let va := (m.sreg64 f.a).toNat
    let asid := (m.sreg f.b).toNat
    .next ((s.ctbDrop c fun e => e.asid = asid && decide (e.va ≤ va) && decide (va < e.va + e.psize)).mastNext c 4 id)
/-- `ctbi.asid` (R239 mode 1), a number above 16 bits as in `ctbi.page` (log entry 165). -/
def execCtbiAsid (f : OpBForm) (s : State) : Out :=
  privIssue s (.ctbiAsid f) f.sw f.g fun c m s => .next ((s.ctbDrop c fun e => e.asid = (m.sreg f.b).toNat).mastNext c 4 id)
/-- `ctbi.all` (R239 mode 2). -/
def execCtbiAll (f : NForm) (s : State) : Out :=
  privIssue s (.ctbiAll f) f.sw f.g fun c _ s => .next ((s.ctbDrop c fun _ => true).mastNext c 4 id)

/-- Whether a resource of `wcfg` is in use: a resident group on the sub-partition, a resident block's scratchpad in the bank. -/
def State.wcfgBusy (s : State) (c kind idx : Nat) : Bool :=
  if kind = 0 then s.groups.any fun (e : Nat × Group) => e.2.residentAt c idx
  else s.blocks.any fun (e : Nat × Block) => e.2.cluster = c && e.2.phase == .resident && e.2.banks.contains idx

/-- Scrubs a resource and assigns it to a world (R240, R384). -/
def State.wcfgAssign (s : State) (c kind idx world : Nat) : State :=
  s.updC c fun k =>
    if kind = 0 then { k with engines := setD k.engines idx {} {}, spWorld := setD k.spWorld idx world 0 }
    else { k with scratch := delIf k.scratch fun a => a / 16384 = idx, poison := delIf k.poison fun a => a / 2048 = idx
                  bankWorld := setD k.bankWorld idx world 0 }

/-- `wcfg` (R240): the mainmast authorises the clusters that it grants to the world's function (R356). -/
def execWcfg (f : AbForm) (s : State) : Out :=
  privIssue s (.wcfg f) f.sw f.g fun c m s =>
    let r := (m.sreg f.a).toNat
    let w := (m.sreg f.b).toNat
    let kind := bits r 3 0
    let idx := bits r 9 4
    if w > 16 ∨ r ≥ 1024 ∨ kind > 1 ∨ idx ≥ (if kind = 0 then 4 else 32) ∨ s.wcfgBusy c kind idx then mastReserved s c
    else if w ≠ 0 ∧ !(s.fn (w - 1)).clusters.contains c then .next (s.mastFault c 0x35 0#64 0#64)
    else .next ((s.wcfgAssign c kind idx w).mastNext c 4 id)

/-! ### Mast control registers (R25-R28, R241) -/

/-- The number of a mast core's physical cluster in the module (R398). -/
def State.physNumber (s : State) (c : Nat) : Nat := let r := s.physOf c; 90 * r.1 + r.2

/-- A mast control register's value (R25): `none` where it is reserved (R27). -/
def State.mcr (s : State) (c : Nat) (m : Mast) (n : Nat) : Option Word :=
  match n with
  | 0 => some (BitVec.ofNat 32 ((if m.priv then 1 else 0) + (if m.ie then 2 else 0) + 16 * m.depth))
  | 1 => some (if m.depth = 0 then 0#32 else BitVec.ofNat 32 (0x3EC00 + 0x40 * (m.depth - 1)))
  | 2 => some m.mcode
  | 3 => some m.minfo
  | 4 => some m.mentry
  | 5 => some m.mfree0
  | 6 => some m.mfree1
  | 7 => some (BitVec.ofNat 32 (c + 65536 * s.physNumber c))
  | 8 => some m.mgrp
  | 9 => some m.mlane
  | 10 => some (BitVec.ofNat 32 (m.mailbox.length + 256))
  | 11 => some m.mprio
  | 12 => some m.msave
  | 13 => some m.mtime
  | 14 => some (BitVec.ofNat 32 (getD (s.cluster c).spWorld (bits m.mgrp.toNat 1 0) 0))
  | 15 => some m.merr
  | _ => none

/-- A write to a mast control register (R25-R28): read-only fields keep their value, MERR bits clear where written 1. -/
def Mast.setMcr (m : Mast) (n : Nat) (x : Word) : Mast :=
  match n with
  | 0 => { m with ie := x.getLsbD 1 }
  | 2 => { m with mcode := x &&& 0xFF#32 }
  | 3 => { m with minfo := x }
  | 4 => { m with mentry := x &&& ~~~0xFF#32 }
  | 5 => { m with mfree0 := x }
  | 6 => { m with mfree1 := x }
  | 8 => { m with mgrp := x &&& 0x7F#32 }
  | 9 => { m with mlane := x }
  | 11 => { m with mprio := x &&& 0xF#32 }
  | 12 => { m with msave := x }
  | 13 => { m with mtime := x }
  | 15 => { m with merr := m.merr &&& ~~~x }
  | _ => m

/-- `mcrr` (R241). -/
def execMcrr (f : DnForm) (s : State) : Out :=
  privIssue s (.mcrr f) f.sw f.g fun c m s =>
    match s.mcr c m f.n with
    | none => mastReserved s c
    | some x => .next (s.mastNext c 4 fun m => m.setS f.d x)

/-- `mcrw` (R241). -/
def execMcrw (f : AnForm) (s : State) : Out :=
  privIssue s (.mcrw f) f.sw f.g fun c m s =>
    if (s.mcr c m f.n).isNone then mastReserved s c else .next (s.mastNext c 4 fun m' => m'.setMcr f.n (m.sreg f.a))

end Sys2Proof.Machine
end

