-- ==== Sys2Proof/Machine/Boot.lean ====
section
/-!
DEFINITION. The module as a whole: boot (R349, R350, R437), error stop (R438, R439), power and temperature (R434), the logical core map
(R398-R400, R414), the end of a scan (R411-R413), and the events of the instruction pipeline of groups and mast cores (R59, R326, R328, R441).
-/
namespace Sys2Proof.Machine
open Sys2Proof

/-! ### The core map (R398, R399) -/

/-- The physical clusters of a neighbourhood that are not retired, ascending. -/
def Flash.alive (f : Flash) (d n : Nat) : List Nat := (List.range 9).filter fun p => !f.retired.contains (90 * d + 9 * n + p)

/-- MAPn at boot (R398, R399): the lowest physical clusters serve, the next is the spare. -/
def Flash.mapOf (f : Flash) (d n : Nat) : Nat :=
  let l := f.alive d n
  let phys := (List.range 8).foldl (fun x k => x + l.getD k 15 * 16 ^ k) 0
  let ret := (List.range 9).foldl (fun x p => if l.contains p then x else x + 2 ^ (36 + p)) 0
  phys + l.getD 8 15 * 2 ^ 32 + ret

/-- The die map words at boot. -/
def Flash.maps (f : Flash) (d : Nat) : SMap DWord := (List.range 10).map fun n => (n, BitVec.ofNat 64 (f.mapOf d n))

/-! ### Booting mast cores (R349, R350) -/

/-- The boot block of a logical cluster (R350): HEAP and HEAPLEN are the mainmast's choice. -/
def Flash.bootBlock (f : Flash) (c : Nat) (hostless : Bool) (heap len : Nat) : List Byte :=
  toBytes 4 0x4E484D42 ++ toBytes 2 1 ++ toBytes 2 (if hostless then 1 else 0) ++ toBytes 2 c ++ toBytes 2 f.nsh ++ toBytes 1 (c / 80)
  ++ toBytes 1 (c % 80 / 8) ++ zeros 2 ++ (List.range 64).flatMap (fun i => toBytes 2 (f.fshard.getD i 0))
  ++ toBytes 8 heap ++ toBytes 8 len ++ (List.range 4).flatMap (fun i => toBytes 2 (f.ethown.getD i 0)) ++ toBytes 2 f.rcown ++ zeros 86

/-- A mast core at its release (R24, R349): the image at 0x1000, the boot block, MENTRY, privileged, IE 0. -/
def bootMast (image block : List Byte) (clk : Nat) : Mast :=
  let m : Mast := { mentry := 0x1000#32, pc := 0x1000#64, priv := true, running := true, releasedAt := clk }
  (m.wrBytes 0 block).wrBytes 0x1000 image

/-- The pages of the fast tier on the bad-page lists (R320), which the mainmast reads at boot. -/
def State.badPages (s : State) : List Nat := s.dies.flatMap fun (e : Nat × Die) => (e.2.bpl0 ++ e.2.bpl1).map fun pa => pa / 4096

/-- HEAP and HEAPLEN of a logical cluster (R350): a run of pages of its own 1 GiB of the fast tier, private to it, without a page that a list names
(R320). Which pages the mainmast takes is open (log entry 77). -/
def State.heapOf (s : State) (c : Nat) : Nat × Nat :=
  let part := 2 ^ 18
  let bad := s.badPages
  let good (i : Nat) : Bool := decide (i < part) && !bad.contains (c * part + i)
  let first := Config.heapPage c % part
  let first := if good first then first else ((List.range 65536).find? good).getD 0
  let stop := first + 1 + Config.heapPages c % (part - first)
  let stop := bad.foldl (fun m p => if c * part + first < p ∧ p < c * part + m then p - c * part else m) stop
  ((c * part + first) * 4096, (stop - first) * 4096)

/-- Boots the mast core of a logical cluster, a second time with its old boot block (R400). -/
def State.bootCore (s : State) (c : Nat) : State :=
  let h := getD s.heaps c (s.heapOf c)
  ({ s with heaps := put s.heaps c h } : State).updC c fun k => { k with mast := bootMast s.flash.kernel (s.flash.bootBlock c s.hostless h.1 h.2) s.clk }

/-! ### Error stop (R438, R439) -/

/-- Brings the module to the error stop (R402, R438): clusters and engines halt, every launch ends with STATUS 8 without a record, the
physical function's vector 0 fires. Of two causes in one clk the lower is recorded. -/
def State.errorStop (s : State) (cause : Nat) : State :=
  if s.estop then (if s.estopAt = s.clk ∧ cause < s.cause then { s with cause := cause } else s)
  else
    let s1 : State := { s with
      estop := true, estopAt := s.clk, cause := cause, booted := true
      clusters := s.clusters.map fun (c : Nat × Cluster) => (c.1, { c.2 with
        pieces := [], sideLogs := [], mast := { c.2.mast with running := false, ctxs := c.2.mast.ctxs.map fun (x : Nat × Ctx) => (x.1, { x.2 with cmds := [] }) } })
      groups := s.groups.map fun (g : Nat × Group) => (g.1, { g.2 with halted := true })
      launches := s.launches.map fun (l : Nat × Launch) =>
        (l.1, if l.2.phase = .ended then l.2 else
          { l.2 with phase := .ended, status := 8, ctxs := l.2.ctxs.map fun (x : Nat × Ctx) => (x.1, { x.2 with cmds := [], items := [] }) }) }
    s1.fireHost 16 0

/-! ### Power-on (R437) -/

/-- What steps 3 and 4 of the boot leave: yard cores with their configured shares and grants, the core map, the released mast cores; READY
at once in hosted mode. -/
def State.bootYards (s : State) : State :=
  let s1 := (List.range 16).foldl (fun (s : State) d => s.updD d fun k => { k with maps := s.flash.maps d }) s
  let s2 := (List.range 17).foldl (fun (s : State) f => s.updF f fun x =>
    { x with share := Config.share f, clusters := (List.range 1280).filter fun c => Config.granted f c }) s1
  let s3 := ((List.range 1280).filter s2.inService).foldl State.bootCore s2
  { s3 with phase := if s.hostless then 3 else 4, ready := !s.hostless }

/-- POWER_ON (R437): the boot sequence, which ends in an error stop where a check fails. -/
def execPowerOn (s : State) : Out :=
  if s.booted then .next s
  else if !s.flash.headerOk then .next (s.errorStop 1)
  else
    let s1 : State := { s with phase := 1, fwmeas := sha512 s.flash.bytes }
    if !s.flash.signatureOk then .next (s1.errorStop 2)
    else if !s.flash.yardsOk then .next ({ s1 with phase := 2 }.errorStop 3)
    else
      let s2 := s1.updF 16 fun x => { x with dnonce := Config.freshKey s.keyDraws }
      .next ({ s2 with booted := true, keyDraws := s.keyDraws + 1 }.bootYards)

/-- BOOT_DONE (R341, R349, R437): the mainmast takes the oldest message of its mailbox; in hostless mode the boot report makes the module
ready. Messages of another KIND are discarded. -/
def execBootDone (cl : Nat) (s : State) : Out :=
  match (s.mast 0x7FE).mailbox with
  | [] => .next s
  | (from_, msg) :: rest =>
    if from_ ≠ cl then .next s
    else
      let s1 := s.updM 0x7FE fun m => { m with mailbox := rest }
      .next (if msg.getD 0 0#8 = 5#8 ∧ s.hostless ∧ s.phase = 3 ∧ !s.estop then { s1 with phase := 4, ready := true } else s1)

/-- POWER_LOSS (R320): what the module loses with its power; flash, drives and the bad-page lists remain. -/
def execPowerLoss (s : State) : Out := .next { s.moduleReset with mem := [], memPoison := [], spare := [] }

/-- MAINMAST_STATE_ERROR (R402, R438). -/
def execMainmastStateError (s : State) : Out := .next (s.errorStop 6)

/-- POWER_WINDOW (R434): a window of 2,250,000 clk ends: its averages, and the throttle. The next one has the limit that PLIMIT now holds (R439). -/
def execPowerWindow (watts amps : Nat) (s : State) : Out :=
  .next (if s.clk < s.windowAt + 2250000 then s
    else { s with pwr := BitVec.ofNat 64 (watts % 65536), icore := BitVec.ofNat 64 (amps % 65536), windowAt := s.clk, limit := s.plimit
                  throt := if s.limit.toNat < watts then true else if watts * 100 < s.limit.toNat * 95 then false else s.throt })

/-- THERMAL_TRIP (R438): a sensor's reading; at TTRIP the module stops. -/
def execThermalTrip (temp : Nat) (s : State) : Out :=
  let s1 : State := { s with tmax := BitVec.ofNat 64 (temp % 256) }
  .next (if s.ttrip.toNat ≤ temp then s1.errorStop 4 else s1)

/-- OVERCURRENT (R438). -/
def execOvercurrent (amps : Nat) (s : State) : Out := .next (if 30000 < amps then s.errorStop 5 else s)

/-! ### Retiring a cluster (R400, R414) -/

/-- Ends a map request with a RESULT. -/
def State.mapDone (s : State) (d result : Nat) : State := s.updD d fun k => { k with mapbusy := none, mapresult := result }

/-- The core map of a neighbourhood with logical k moved to another physical index, the old one retired and no spare left. -/
def remap (v k p : Nat) : Nat :=
  let old := bits v (4 * k + 3) (4 * k)
  let phys := (List.range 8).foldl (fun x i => x + (if i = k then p else bits v (4 * i + 3) (4 * i)) * 16 ^ i) 0
  let ret := if bit v (36 + old) then bits v 44 36 else bits v 44 36 + 2 ^ old
  phys + 15 * 2 ^ 32 + ret * 2 ^ 36

/-- Moves the saved blocks of a cluster to the rotation of another cluster of the neighbourhood that takes blocks (R412). -/
def State.moveSaved (s : State) (cl : Nat) : State :=
  match (List.range 8).find? fun i => cl / 8 * 8 + i ≠ cl && s.inService (cl / 8 * 8 + i) && !(s.cluster (cl / 8 * 8 + i)).closed with
  | some i => { s with blocks := s.blocks.map fun (e : Nat × Block) =>
      match e.2.phase with
      | .saved _ => if e.2.cluster = cl then (e.1, { e.2 with cluster := cl / 8 * 8 + i }) else e
      | _ => e }
  | none => s

/-- Logical cluster c goes to the physical cluster `spare` of its neighbourhood (R398, R400): empty but for the marks of its banks (R384). -/
def State.mapIn (s : State) (c spare : Nat) : State :=
  let die := c / 80
  let n := c % 80 / 8
  let p := 9 * n + spare
  let marks := ((s.die die).idlePoison.filter fun (e : Nat × Bool) => spare < 9 && e.1 / 2 ^ 16 = p).map fun (e : Nat × Bool) => (e.1 % 2 ^ 16, e.2)
  (s.updD die fun x => { x with
    maps := put x.maps n (BitVec.ofNat 64 (remap (getD x.maps n 0#64).toNat (c % 8) spare))
    idlePoison := delIf x.idlePoison fun k => spare < 9 && k / 2 ^ 16 = p }).updC c fun _ => { poison := marks }

/-- Takes a logical cluster in service out of it (R400): a spare takes its place and boots, or none is left; the RESULT. -/
def State.retireCluster (s : State) (c : Nat) : State × Nat :=
  let die := c / 80
  let n := c % 80 / 8
  let k := c % 8
  let v := (getD (s.die die).maps n 0#64).toNat
  let spare := bits v 35 32
  let old := 9 * n + bits v (4 * k + 3) (4 * k)
  let s1 := s.mapIn c spare
  let s2 : State := { s1 with flash := { s1.flash with retired := s1.flash.retired ++ [90 * die + old] } }
  if spare = 15 then (s2.updC c fun k => { k with inReset := true }, 1) else (s2.bootCore c, 0)

/-- MAPREQ_RETIRE (R400): the mainmast carries out the request that makes the die's MAPSTAT busy. A cluster whose mast core has stopped
it removes of itself, once its resident blocks have been killed (R332). -/
def execMapreqRetire (die val : Nat) (s : State) : Out :=
  let c := bits val 10 0
  if (s.die die).mapbusy ≠ some val then
    let resident := s.blocks.any fun (e : Nat × Block) => e.2.cluster = c && e.2.phase == .resident
    .next (if c / 80 = die ∧ val = 4096 + c ∧ (s.mast c).stopped ∧ s.inService c ∧ !resident then ((s.moveSaved c).retireCluster c).1 else s)
  else
    let placed := s.blocks.any fun (e : Nat × Block) => e.2.cluster = c && e.2.phase != .gone
    if c / 80 ≠ die ∨ c ≥ 1280 ∨ val ≠ 4096 + c then .next (s.mapDone die 3)
    else if placed ∨ !s.inService c then .next (s.mapDone die 2)
    else
      let r := s.retireCluster c
      .next (r.1.mapDone die r.2)

/-! ### Scans (R238, R411-R413) -/

/-- Ends a running scan with a status (R411-R413): the cluster's memories are zeros, L1 and CTB invalid; after a failed compare the
dispatcher places nothing here, and its saved blocks move to another cluster of the neighbourhood. -/
def State.endScan (s : State) (cl status : Nat) : State :=
  match (s.mast cl).wait with
  | .scan _ _ reg =>
    let s1 := (s.scanRecord cl status).updC cl fun k => { k with
      ctb := [], scratch := [], poison := [], l1held := [], l1 := [], engines := [], closed := k.closed || status = 1
      mast := { k.mast.setS reg (BitVec.ofNat 32 status) with wait := .nothing } }
    if status = 1 then s1.moveSaved cl else s1
  | _ => s

/-- Whether a launch needs a cluster that is being scanned (R412): a gang of it fits only with that cluster. -/
def State.needsCluster (s : State) (l : Launch) (lid cl : Nat) : Bool :=
  let s1 := s.updM cl fun m => { m with wait := .nothing }
  ([15, 14, 0, 1, 2, 3].filterMap fun q => s.offered lid l q).any fun g => (s.gangFit l g.groupItem).isNone && (s1.gangFit l g.groupItem).isSome

/-- SCAN_ABORT (R238, R412): a launch of sufficient priority needs the cluster; a compare that has completed stands. -/
def execScanAbort (cl : Nat) (s : State) : Out :=
  match (s.mast cl).wait with
  | .scan _ until_ _ =>
    let p := (s.mast cl).mprio.toNat % 16
    let wanted := s.launches.any fun (e : Nat × Launch) => e.2.phase = .running && decide (p ≤ e.2.record.prio) && s.needsCluster e.2 e.1 cl
    .next (if s.clk < until_ ∧ wanted then s.endScan cl 2 else s)
  | _ => .next s

/-- SCAN_COMPLETE (R238, R413): the compare ends after 450,000 clk; whether the silicon passes is a free value. -/
def execScanComplete (cl : Nat) (s : State) : Out :=
  match (s.mast cl).wait with
  | .scan _ until_ _ =>
    if s.clk < until_ then .next s
    else
      let (v, s1) := s.fresh
      .next (s1.endScan cl (if v.getLsbD 0 then 1 else 0))
  | _ => .next s

/-! ### The pipeline's own events -/

/-- MAST_TIMER_EXPIRY (R229, R328): F_TIMER is pending while `%clk` has reached MTIME; a sleeping core goes on. -/
def execMastTimerExpiry (cl : Nat) (s : State) : Out :=
  let m := s.mast cl
  .next (if m.mtime ≠ 0#32 ∧ m.mtime.toNat ≤ s.clk then
    (match m.wait with | .sleep _ => s.updM cl fun m => { m with wait := .nothing } | _ => s)
  else s)

/-- EVENT_DELIVERY (R326): at an instruction boundary; a core that stalls in an instruction takes no event (R406). -/
def execEventDelivery (cl : Nat) (s : State) : Out :=
  match (s.mast cl).wait with
  | .nothing => .next (s.deliverNext cl)
  | .sleep _ => .next (s.deliverNext cl)
  | _ => .next s

/-- ILLEGAL_OPCODE (R59-R61): the word, plus 2^32 where its opcode is assigned and a field is reserved. -/
def execIllegalOpcode (word : Nat) (s : State) : Out := .next (s.undecoded (word % 2 ^ 32) (decide (2 ^ 32 ≤ word)))

/-- FETCH_FAULT (R441, R323): code plus 256 times the detail, and ADDR. The lanes at P are held there; PC is P, ADDR the failing word (R42). An uncorrectable
error strikes the gang (R386). -/
def execFetchFault (code addr : Nat) (s : State) : Out :=
  match s.cur with
  | .nobody => .next s
  | .mast c => .next (if (s.mast c).mayRun then s.mastFault c (code % 256) (BitVec.ofNat 64 addr) 0#64 else s)
  | .group gid pc =>
    match find s.groups gid with
    | none => .next s
    | some g =>
      let I := g.issued pc
      if I = 0#32 ∨ !s.mayIssue g pc then .next s
      else .next (s.fetchFail gid g (code % 256) I pc (BitVec.ofNat 64 addr) (BitVec.ofNat 64 (code / 256)))

end Sys2Proof.Machine
end

