-- ==== Sys2Proof/Machine/Worlds.lean ====
section
/-!
DEFINITION. Protected worlds (R355-R376, R427): the world commands that the mainmast carries out, teardown, heartbeat expiry and the
function-level reset.
-/
namespace Sys2Proof.Machine
open Sys2Proof

/-! ### Command records (R367, R368, R370) -/

/-- A field of a function's submitted record. -/
def Fn.arg (x : Fn) (off n : Nat) : Nat := fieldAt x.wcmd off n

/-- Exactly n bytes: the list, cut or filled with zeros. -/
def fitBytes (n : Nat) (bs : List Byte) : List Byte := (bs ++ zeros n).take n

/-- Writes bytes to a page of byte registers. -/
def putBytes (m : SMap Byte) (off : Nat) (bs : List Byte) : SMap Byte :=
  (List.range bs.length).foldl (fun (m : SMap Byte) i => setD m (off + i) (bs.getD i 0#8) 0#8) m

/-- Answers a command (R367): STATUS, the response where the command has one, DONE set and BUSY clear. -/
def State.answer (s : State) (fn status : Nat) (resp : Option (List Byte)) : State :=
  s.updF fn fun x => { x with
    wrec := putBytes x.wrec 2 (toBytes 2 status)
    wresp := match resp with | some r => putBytes x.wresp 0 (fitBytes 256 r) | none => x.wresp
    wbusy := false, wdone := true, wprog := none }

/-- Whether the mainmast has collected a submitted command: it collects once per 2,250 clk, at their multiples (R373; DESIGN CHOICE, log entry 152). -/
def State.collected (s : State) (x : Fn) : Bool := decide (x.wsubAt / 2250 < s.clk / 2250)

/-- Carries out the command submitted on a function's page, once it is collected, if its OP is `op` (R369): an OP that does not exist, a page that does not allow it,
or a non-zero unused byte is MALFORMED. `unused` lists the unused bytes of ARGS as offset and length. -/
def worldCommand (fn op : Nat) (pages : Nat → Bool) (unused : List (Nat × Nat)) (body : Fn → State → State) (s : State) : Out :=
  let x := s.fn fn
  let n := x.arg 0 2
  if fn > 16 ∨ !x.wbusy ∨ !s.booted ∨ s.estop ∨ !s.collected x then .next s
  else if n = 0 ∨ n > 10 then .next (s.answer fn 1 none)
  else if n ≠ op then .next s
  else if !pages fn ∨ !zeroAt x.wcmd 0xE0 32 ∨ unused.any fun u => !zeroAt x.wcmd u.1 u.2 then .next (s.answer fn 1 none)
  else .next (body x s)

/-- The pages of virtual functions. -/
def vfPage (fn : Nat) : Bool := decide (fn < 16)
/-- The page of the physical function. -/
def pfPage (fn : Nat) : Bool := decide (fn = 16)

/-- Whether a world serves commands: it exists and no teardown of it has begun (R370, R375). -/
def State.serves (s : State) (w : Nat) : Bool := (s.world w).alive && !(s.world w).ending

/-- An authenticated command of a world (R368, R370): NOWORLD, AUTH, or the command with its SEQ accepted. -/
def State.authenticated (s : State) (fn : Nat) (x : Fn) (body : World → State → State) : State :=
  let w := s.world (fn + 1)
  if !s.serves (fn + 1) then s.answer fn 3 none
  else
    match w.ks with
    | none => s.answer fn 4 none
    | some ks =>
      let msg := x.wcmd.take 2 ++ [0#8, 0#8] ++ (x.wcmd.drop 4).take 0xBC
      let seq := x.arg 4 4
      if (fitBytes 32 (hmac512 ks msg) ≠ (x.wcmd.drop 0xC0).take 32) ∨ seq < w.seq then s.answer fn 4 none
      else body w (s.updW (fn + 1) fun w => { w with seq := seq + 1 })

/-- The attestation report of a world (R371). -/
def State.report (s : State) (w : Nat) (nonce : List Byte) : List Byte :=
  let x := s.world w
  let flags := (if s.debugOpen then 0 else 1) + (if x.debugok then 2 else 0) + (if x.ks.isSome then 4 else 0)
  let body := toBytes 4 0x4E484154 ++ toBytes 2 1 ++ toBytes 1 w ++ toBytes 1 flags ++ fitBytes 8 deviceId ++ fitBytes 32 nonce
    ++ fitBytes 64 s.fwmeas ++ fitBytes 32 (x25519Public x.priv) ++ toBytes 1 x.ways ++ zeros 3 ++ toBytes 4 x.hbperiod ++ zeros 8
  body ++ fitBytes 64 (signReport body) ++ zeros 32

/-! ### Creating a world and its session (R369, R371, R372) -/

/-- The reserved ways of the live protected worlds (R356). -/
def State.waysUsed (s : State) : Nat := s.worlds.foldl (fun n (e : Nat × World) => n + if e.2.alive then e.2.ways else 0) 0

/-- The %clk after a heartbeat period (R374). -/
def hbDeadline (clk period : Nat) : Nat := clk + period * 2250000

/-- Whether a DBGUNLOCK of an earlier collection than a command still waits (R373, R377). -/
def State.unlockWaits (s : State) (x : Fn) : Bool := (s.fn 16).wbusy && (s.fn 16).arg 0 2 = 8 && decide ((s.fn 16).wsubAt / 2250 < x.wsubAt / 2250)

/-- CREATE (R369, R370): fresh keys, the ASID of FASID, and the report; the host world's lines leave the ways that it reserves (R298, R356). -/
def execCreateWorld (fn : Nat) (s : State) : Out :=
  if s.unlockWaits (s.fn fn) then .next s
  else worldCommand fn 1 vfPage [(0x0A, 2), (0x30, 0x90)] (fun x s =>
    let ways := x.arg 8 1
    let hb := x.arg 0xC 4
    let nonce := (x.wcmd.drop 0x10).take 32
    if ways < 1 ∨ 8 < ways ∨ 1 < x.arg 9 1 ∨ hb < 1 ∨ 60000 < hb then s.answer fn 1 none
    else if (s.world (fn + 1)).alive then s.answer fn 2 none
    else if s.debugOpen then s.answer fn 6 none
    else if 24 < s.waysUsed + ways then s.answer fn 5 none
    else
      let w : World := { alive := true, asid := s.fnAsid fn, ways := ways, debugok := x.arg 9 1 = 1, hbperiod := hb, nonce := nonce
                         kc := Config.freshKey s.keyDraws, xts := Config.freshKey (s.keyDraws + 1), priv := Config.freshKey (s.keyDraws + 2)
                         deadline := hbDeadline s.clk hb }
      let s1 := ({ s.updW (fn + 1) fun _ => w with keyDraws := s.keyDraws + 3 } : State).yieldWays
      (s1.updF fn fun x => { x with torn := false }).answer fn 0 (some (s1.report (fn + 1) nonce))) s

/-- ATTEST (R369, R371). -/
def execWorldAttest (fn : Nat) (s : State) : Out :=
  worldCommand fn 2 vfPage [(0x08, 8), (0x30, 0x90)] (fun x s =>
    if !s.serves (fn + 1) then s.answer fn 3 none
    else s.answer fn 0 (some (s.report (fn + 1) ((x.wcmd.drop 0x10).take 32)))) s

/-- SESSION (R369, R372): KS and KW, once per world. -/
def execWorldSession (fn : Nat) (s : State) : Out :=
  worldCommand fn 3 vfPage [(0x08, 8), (0x30, 0x90)] (fun x s =>
    let w := s.world (fn + 1)
    if !s.serves (fn + 1) then s.answer fn 3 none
    else if w.ks.isSome then s.answer fn 2 none
    else
      let keys := sessionKeys w.priv (x.arg 0x10 32) (ofBytes w.nonce)
      (s.updW (fn + 1) fun w => { w with ks := some (keys % 2 ^ 256), kw := keys / 2 ^ 256 }).answer fn 0 none) s

/-- MKEY (R364, R369, R372): fills an empty model key slot. -/
def execMkey (fn : Nat) (s : State) : Out :=
  worldCommand fn 4 vfPage [(0x09, 7), (0x38, 0x88)] (fun x s =>
    let slot := x.arg 8 1
    if 3 < slot then s.answer fn 1 none
    else s.authenticated fn x fun w s =>
      if (find w.slots slot).isSome then s.answer fn 2 none
      else
        match keyUnwrap w.kw ((x.wcmd.drop 0x10).take 40) with
        | none => s.answer fn 4 none
        | some k => (s.updW (fn + 1) fun w => { w with slots := put w.slots slot k }).answer fn 0 none) s

/-! ### Sealed weights (R366) -/

/-- Drops every cached copy of a line of an ASID, without write-back. -/
def State.dropLine (s : State) (asid va : Nat) : State :=
  let line := va / 128 * 128
  let hit (k : Nat) : Bool := k / 2 ^ 52 % 65536 = asid && k % 2 ^ 52 * 16 / 128 * 128 = line
  let hit1 (k : Nat) : Bool := k / 2 ^ 56 = asid && k % 2 ^ 56 / 128 * 128 = line
  ({ s with
    l2 := delIf s.l2 hit
    lineUse := delIf s.lineUse fun k => k / 2 ^ 49 % 65536 = asid && k % 2 ^ 49 = line / 128
    dir := del s.dir (lineKey asid va)
    clusters := s.clusters.map fun (c : Nat × Cluster) => (c.1, { c.2 with l1held := delIf c.2.l1held hit1, l1 := del c.2.l1 (lineKey asid va) }) }).foldLease asid va

/-- The frame of a line whose page is a `sealed-compute` page of this device. -/
def State.sealedFrame (s : State) (asid va : Nat) : Option Nat :=
  match (s.walk (homeDie asid va) asid va).1 with
  | .leaf l => if l.sealed_ ∧ l.remote.isNone ∧ l.res ≠ 3 then some (s.routed (l.pa + va % l.psize)) else none
  | .bad _ _ => none

/-- Installs line i of a source: its MAC is checked under the slot of TID[31:30], then ciphertext, MAC and SEAL are written (R366). -/
def State.installLine (s : State) (w : World) (d : Decl) (va src lines i : Nat) : Option State :=
  let at_ := va + 128 * i
  match s.sealedFrame w.asid at_, find w.slots (d.tid / 2 ^ 30) with
  | some pa, some key =>
    let blocks := (List.range 8).map fun j => BitVec.ofNat 128 (s.physRead (src + 128 * i + 16 * j) 16)
    let mac := BitVec.ofNat 64 (s.physRead (src + 128 * lines + 8 * i) 8)
    if macOf key (cbBlock d.tid d.ver ((va - d.base) / 128 + i) 0xFFFF) blocks ≠ mac then none
    else
      let s1 := s.dropLine w.asid at_
      let line := pa / 128 * 128
      some { s1 with
        mem := (List.range 8).foldl (fun m j => Memory.writeLe m (line + 16 * j) 16 (blocks.getD j 0#128).toNat) s1.mem
        memPoison := delIf s1.memPoison fun k => k / 8 = line / 128
        spare := setD s1.spare (line / 128) { mac := mac, sealed_ := true, asid := w.asid, va := at_ / 128 * 128 } {} }
  | _, _ => none

/-- SEALINST goes on with line i of its source (R366): the command is over at the first mismatch and after the last line; what it has written stands. -/
def State.sealLines (s : State) (fn : Nat) (x : Fn) (i : Nat) : State :=
  let w := s.world (fn + 1)
  let va := x.arg 0x10 8
  let lines := x.arg 0x18 4
  match w.decls.find? fun d => d.tid = x.arg 8 4 && d.ver = x.arg 0xC 4 with
  | none => s.answer fn 1 none
  | some d => match (s.translated w.asid (va + 128 * i)).installLine w d va (x.arg 0x20 8) lines i with
    | none => s.answer fn 8 none
    | some s1 => if i + 1 < lines then s1.updF fn fun x => { x with wprog := some (i + 1) } else s1.answer fn 0 none

/-- SEALINST (R366, R369): the first event accepts the command, each later one installs a line; a world that is torn down meanwhile ends it (R377). -/
def execSealinst (fn : Nat) (s : State) : Out :=
  worldCommand fn 5 vfPage [(0x1C, 4), (0x28, 0x98)] (fun x s =>
    match x.wprog with
    | some i => if s.serves (fn + 1) then s.sealLines fn x i else s.answer fn 3 none
    | none => s.authenticated fn x fun w s =>
      let va := x.arg 0x10 8
      let lines := x.arg 0x18 4
      let src := x.arg 0x20 8
      match w.decls.find? fun d => d.tid = x.arg 8 4 && d.ver = x.arg 0xC 4 with
      | none => s.answer fn 1 none
      | some d =>
        if va < d.base ∨ (va - d.base) % 128 ≠ 0 ∨ d.base + d.bytes < va + 128 * lines ∨ !inTier src ∨ !inTier (src + 136 * lines - 1)
            ∨ !((List.range lines).all fun i => (s.sealedFrame w.asid (va + 128 * i)).isSome) then s.answer fn 1 none
        else if lines = 0 then s.answer fn 0 none
        else s.updF fn fun x => { x with wprog := some 0 }) s

/-! ### Teardown (R375) -/

/-- The launches of a world that have not ended. -/
def State.launchesOf (s : State) (w : Nat) : List Nat := (s.launches.filter fun (e : Nat × Launch) => e.2.record.world = w && e.2.phase != .ended).map fun e => e.1

/-- Ends every command of a launch's contexts with FAIL (R375, step 2). -/
def State.failCommands (s : State) (lid : Nat) : State :=
  match find s.launches lid with
  | none => s
  | some l =>
    l.ctxs.foldl (fun (s : State) (e : Nat × Ctx) =>
      e.2.cmds.foldl (fun (s : State) c => (s.endHead lid e.1 c 2 0x42 fun s => s.failedCmd lid e.1 c 0x42 0)) s) s

/-- Ends a launch of a world that is torn down: its record carries STATUS 8 (R375, step 2). -/
def State.tearLaunch (s : State) (lid : Nat) : State :=
  let s1 := ((s.endLaunch lid 8 0x42).failCommands lid).dropLogs lid
  let s2 := s1.updL lid fun l => { l with shadows := [], ctxs := l.ctxs.map fun (e : Nat × Ctx) => (e.1, { e.2 with cmds := [], items := [] }) }
  (after (execLaunchCompletion lid s2) s2).updL lid fun l => { l with phase := .ended, status := 8 }

/-- What the caches, ports and fault units hold of an ASID goes without write-back (R375, steps 2 and 4). -/
def State.dropAsid (s : State) (asid : Nat) : State :=
  let mine (k : Nat) : Bool := k / 2 ^ 52 % 65536 = asid
  { s with
    l2 := delIf s.l2 mine
    lineUse := delIf s.lineUse fun k => k / 2 ^ 49 % 65536 = asid
    dir := delIf s.dir fun k => k / 2 ^ 49 = asid
    devHeld := delIf s.devHeld fun k => k / 2 ^ 56 = asid
    devCopy := delIf s.devCopy fun k => k / 2 ^ 56 = asid
    dies := s.dies.map fun (e : Nat × Die) => (e.1, { e.2.tlbDrop fun x => x.asid = asid with
      entries := e.2.entries.map fun x => if x.asid = asid then { x with resolved := true } else x
      heldFaults := e.2.heldFaults.filter fun x => x.asid ≠ asid })
    clusters := s.clusters.map fun (c : Nat × Cluster) => (c.1, { c.2 with
      l1held := delIf c.2.l1held fun k => k / 2 ^ 56 = asid
      l1 := delIf c.2.l1 fun k => k / 2 ^ 49 = asid
      ctb := c.2.ctb.filter fun x => x.asid ≠ asid }) }

/-- Scrubs the sub-partitions and banks of a world and gives them back to world 0 (R375, step 5). -/
def State.scrubWorld (s : State) (w : Nat) : State :=
  (s.clusters.map fun (c : Nat × Cluster) => c.1).foldl (fun (s : State) c =>
    let k := s.cluster c
    let sps := (List.range 4).filter fun i => getD k.spWorld i 0 = w
    let banks := (List.range 32).filter fun i => getD k.bankWorld i 0 = w
    let s1 := sps.foldl (fun (s : State) i => s.wcfgAssign c 0 i 0) s
    banks.foldl (fun (s : State) i => s.wcfgAssign c 1 i 0) s1) s

/-- Whether a save of a block of a world is in progress: it completes before the block is killed (R375, R377). -/
def State.savingIn (s : State) (w : Nat) : Bool :=
  s.blocks.any fun (e : Nat × Block) => e.2.saving.isSome && e.2.phase == .resident && (match find s.launches e.2.lid with | some l => l.record.world = w | none => false)

/-- The five steps of a teardown (R375). -/
def State.teardown (s : State) (w : Nat) : State :=
  let asid := (s.world w).asid
  let s1 := (s.launchesOf w).foldl State.tearLaunch s
  ((s1.dropAsid asid).scrubWorld w).updW w fun _ => {}

/-- Step 1 of a teardown that has to wait for saves (R375): new launches are refused, the world's groups halt, nothing of it is placed any more. -/
def State.beginTeardown (s : State) (w : Nat) : State :=
  let mine (lid : Nat) : Bool := (find s.launches lid).any fun l => l.record.world = w && l.phase != .ended
  { s.updW w fun x => { x with ending := true } with
    launches := s.launches.map fun (e : Nat × Launch) => if mine e.1 then (e.1, { e.2 with status := 8 }) else e
    groups := s.groups.map fun (e : Nat × Group) => if (find s.blocks (e.1 / 32)).any fun b => mine b.lid then (e.1, { e.2 with halted := true }) else e }

/-- A teardown: at once, or begun where a save of the world's blocks is in progress. -/
def State.tear (s : State) (w : Nat) : State := if s.savingIn w then s.beginTeardown w else s.teardown w

/-- DESTROY (R369, R375): authenticated on the page of the world's function, free on the physical function's. -/
def execDestroyWorld (fn : Nat) (s : State) : Out :=
  worldCommand fn 7 (fun _ => true) [(0x09, 0xB7)] (fun x s =>
    let w := x.arg 8 1
    let go (w : Nat) (s : State) : State :=
      if s.savingIn w then (s.beginTeardown w).updF fn fun x => { x with wprog := some 0 } else (s.teardown w).answer fn 0 none
    if x.wprog.isSome then (let v := if fn = 16 then w else fn + 1; if (s.world v).alive then go v s else s.answer fn 3 none)
    else if fn = 16 then
      if w < 1 ∨ 16 < w then s.answer fn 1 none
      else if !s.serves w then s.answer fn 3 none
      else go w s
    else if w ≠ 0 then s.answer fn 1 none
    else s.authenticated fn x fun _ s => go (fn + 1) s) s

/-- HEARTBEAT (R369, R374): at the deadline the expiry wins (R377). -/
def execHeartbeat (fn : Nat) (s : State) : Out :=
  if (s.world (fn + 1)).alive ∧ (s.world (fn + 1)).deadline ≤ s.clk then .next s
  else worldCommand fn 6 vfPage [(0x08, 0xB8)] (fun x s =>
    s.authenticated fn x fun w s => (s.updW (fn + 1) fun x => { x with deadline := hbDeadline s.clk w.hbperiod }).answer fn 0 none) s

/-- HEARTBEAT_EXPIRY (R374): %clk has reached WDEAD; the world is torn down and TORN is set. A teardown that waited for saves goes on with it (log
entry 153). -/
def execHeartbeatExpiry (world : Nat) (s : State) : Out :=
  let w := s.world world
  if world < 1 ∨ 16 < world ∨ !w.alive ∨ (s.clk < w.deadline ∧ !w.ending) ∨ (w.ending ∧ s.savingIn world) ∨ s.estop then .next s
  else .next (if s.savingIn world ∨ s.clk < w.deadline then s.tear world else (s.tear world).updF (world - 1) fun x => { x with torn := true })

/-- FUNCTION_LEVEL_RESET (R427): the world of a virtual function is torn down. -/
def execFunctionLevelReset (fn : Nat) (s : State) : Out :=
  if fn ≥ 16 ∨ !(s.world (fn + 1)).alive ∨ s.estop then .next s else .next (s.tear (fn + 1))

/-! ### Debug (R373) -/

/-- Whether a CREATE of the collection of a command, or of one before, waits (R373). -/
def State.createWaits (s : State) (x : Fn) : Bool :=
  (List.range 16).any fun f => (s.fn f).wbusy && (s.fn f).arg 0 2 = 1 && decide ((s.fn f).wsubAt / 2250 ≤ x.wsubAt / 2250)

/-- DBGUNLOCK (R373): every attempt refreshes DNONCE. -/
def execDbgunlock (fn : Nat) (s : State) : Out :=
  if s.createWaits (s.fn fn) then .next s
  else
    let dn := toBytes 32 (s.fn 16).dnonce
    let fresh (s : State) : State := { s.updF 16 fun x => { x with dnonce := Config.freshKey s.keyDraws % 2 ^ 256 } with keyDraws := s.keyDraws + 1 }
    let tried := (s.fn 16).wbusy && (s.fn 16).arg 0 2 = 8 && fn = 16 && s.booted && !s.estop && s.collected (s.fn 16)
    worldCommand fn 8 pfPage [(0x08, 8), (0x50, 0x70)] (fun x s =>
      if s.worlds.any fun (e : Nat × World) => e.2.alive then s.answer fn 7 none
      else if debugTokenOk ((x.wcmd.drop 0x10).take 64) (fitBytes 8 deviceId ++ dn) then ({ s with debugOpen := true } : State).answer fn 0 none
      else s.answer fn 9 none) (if tried then fresh s else s)

/-- DBGLOCK (R369). -/
def execDbglock (fn : Nat) (s : State) : Out :=
  worldCommand fn 9 pfPage [(0x08, 0xB8)] (fun _ s => ({ s with debugOpen := false } : State).answer fn 0 none) s

/-- Performs an access at the home slice in place, whatever RES of the page says (R428). -/
def State.inPlace (s : State) (asid va : Nat) (act : State → Acc × State) : Acc × State :=
  let a := canonAsid asid va
  let d := homeDie a va
  match s.portLeaf a va with
  | (.leaf l, s1) =>
    if l.res = 2 ∧ l.remote.isNone then
      let held := (s1.die d).tlb
      let r := act (s1.updD d fun x => x.tlbPut (homePort a va) a va { l with res := 1 })
      (r.1, r.2.updD d fun x => { x with tlb := held })
    else act s1
  | (.bad _ _, s1) => act s1

/-- DREAD's 16-byte pieces: the bytes, or a status. A piece may lie in two pages. -/
def State.debugRead (s : State) (w asid va : Nat) : Nat → Except Nat (List Byte) × State
  | 0 => (.ok [], s)
  | n + 1 =>
    let a := canonAsid asid va
    match s.portLeaf a va, (s.portLeaf (canonAsid asid (va + 15)) (va + 15)).1 with
    | (.bad _ _, s0), _ => (.error 1, s0)
    | (.leaf _, s0), .bad _ _ => (.error 1, s0)
    | (.leaf l, s0), .leaf l' =>
      if l.sealed_ || l'.sealed_ then (.error 0x32, s0)
      else
        match s0.inPlace asid va fun s => s.homeRead { world := w, asid := asid } va 16 with
        | (.ok bs, s1) =>
          match s1.debugRead w asid (va + 16) n with
          | (.ok rest, s2) => (.ok (bs ++ rest), s2)
          | r => r
        | (.fail 0x36 _, s1) => (.error 8, s1)
        | (_, _) => (.error 1, s)

/-- DREAD (R369, R370, R373). -/
def execDread (fn : Nat) (s : State) : Out :=
  worldCommand fn 10 pfPage [(0x09, 7), (0x1C, 0xA4)] (fun x s =>
    let w := x.arg 8 1
    let len := x.arg 0x18 4
    let va := x.arg 0x10 8
    if 16 < w ∨ len % 16 ≠ 0 ∨ 256 < len ∨ 2 ^ 56 < va + len then s.answer fn 1 none
    else if w ≠ 0 ∧ !s.serves w then s.answer fn 3 none
    else if (if w = 0 then !s.debugOpen else !(s.world w).debugok) then s.answer fn 11 none
    else
      match s.debugRead w (if w = 0 then s.fnAsid 16 else (s.world w).asid) va (len / 16) with
      | (.ok bs, s1) => s1.answer fn 0 (some bs)
      | (.error st, s1) => s1.answer fn st none) s

end Sys2Proof.Machine
end

