-- ==== Sys2Proof/Machine/Links.lean ====
section
/-!
DEFINITION. What reaches the module from outside: fabric flits (R421-R425), Ethernet frames and link changes (R344, R346, R348), and the
host's BAR 4 window (R427, R428).
-/
namespace Sys2Proof.Machine
open Sys2Proof

/-! ### Fabric links (R421-R425) -/

/-- Changes a link. -/
def State.updLink (s : State) (n : Nat) (f : Link → Link) : State := { s with links := setD s.links n (f (getD s.links n {})) {} }

/-- Saturating increment of a 16-bit counter. -/
def sat16 (n : Nat) : Nat := min (n + 1) 65535

/-- What an acknowledged sequence number leaves unacknowledged. -/
def ackFlits (sent : List Nat) (ack : Nat) : List Nat :=
  match sent.findIdx? (· = ack) with | some i => sent.drop (i + 1) | none => sent

/-- FLIT_RECEIVE (R306, R422, R425): a flit with a good CRC and the expected sequence number is taken with its acknowledgement, and a request
that it carries is served; any other is discarded, so that what it carries is still to come, and a retry is requested once. -/
def execFlitReceive (link seq ack crc : Nat) (s : State) : Out :=
  let l := getD s.links link {}
  if link ≥ 18 ∨ !l.up then .next s
  else if crc = 0 ∧ seq = l.expected then
    let s1 := s.updLink link fun l => Link.drain { l with
      expected := (l.expected + 1) % 4096, retryAsked := false, sent := ackFlits l.sent ack, arriving := l.arriving.drop 1 }
    .next (match l.arriving with
      | r :: _ => if r.kind = 0 ∨ r.kind > 3 then s1 else s1.serveFar { r with device := l.peer }
      | [] => s1)
  else
    .next (s.updLink link fun l => { l with
      crcerr := if crc ≠ 0 then sat16 l.crcerr else l.crcerr
      retries := if l.retryAsked then l.retries else sat16 l.retries
      retryAsked := true })

/-- A link goes down (R422): its unacknowledged flits, and those that have not started, go to another link that is up to the same device. -/
def State.linkDown (s : State) (link : Nat) : State :=
  let l := getD s.links link {}
  let s1 := s.updLink link fun l => { l with up := false, down := true, sent := [], replays := 0, replayed := none, retryAsked := false, paused := [], held := [] }
  match (List.range 18).find? fun k => k ≠ link && (getD s1.links k {}).up && (getD s1.links k {}).peer = l.peer with
  | some k => s1.updLink k fun x => l.held.foldl Link.send (x.start l.sent.length)
  | none => s1

/-- RETRY_REQUEST (R422): the sender replays from the flit named; after 64 consecutive replays of one flit the link goes down. -/
def execRetryRequest (link seq : Nat) (s : State) : Out :=
  let l := getD s.links link {}
  if link ≥ 18 ∨ !l.up ∨ !l.sent.contains seq then .next s
  else
    let n := if l.replayed = some seq then l.replays + 1 else 1
    .next (if 64 ≤ n then s.linkDown link
      else s.updLink link fun l => Link.drain { l with sent := l.sent.dropWhile fun x => x ≠ seq, replays := n, replayed := some seq })

/-- LINK_TRAINING_LOSS (R422). -/
def execLinkTrainingLoss (link : Nat) (s : State) : Out :=
  .next (if link < 18 ∧ (getD s.links link {}).up then s.linkDown link else s)

/-- LINK_UP (R425): a link completes training with a device at its far end; sequence numbers start at 0. -/
def execLinkUp (link peer : Nat) (s : State) : Out :=
  if link ≥ 18 ∨ peer ≥ 4608 ∨ (getD s.links link {}).up then .next s
  else .next (s.updLink link fun l => { l with up := true, peer := peer, expected := 0, next := 0, sent := [], replays := 0, replayed := none, retryAsked := false, paused := [], held := [] })

/-- PAUSE_ON (R423, R425): the channel is paused; control flits on channel 3 never are. -/
def execPauseOn (link ch : Nat) (s : State) : Out :=
  let l := getD s.links link {}
  .next (if link < 18 ∧ l.up ∧ ch < 3 ∧ !l.paused.contains ch then s.updLink link fun l => { l with paused := l.paused ++ [ch] } else s)

/-- PAUSE_OFF (R423): the flits of the channel that have waited start. -/
def execPauseOff (link ch : Nat) (s : State) : Out :=
  .next (if link < 18 then s.updLink link fun l => Link.drain { l with paused := l.paused.filter (· ≠ ch) } else s)

/-! ### Ethernet (R348) -/

/-- Changes a port. -/
def State.updEth (s : State) (p : Nat) (f : Eth → Eth) : State := { s with eth := setD s.eth p (f (getD s.eth p {})) {} }

/-- A port's DMA read, from the tiers or the aperture; `none` where it is refused. -/
def State.dmaRead (s : State) (pa n : Nat) : Option (List Byte) :=
  if inTier pa ∧ inTier (pa + n - 1) then some ((List.range n).map fun i => Memory.read s.mem (pa + i))
  else
    match pageOf pa with
    | (.aperture, _) => if inDevice pa then (s.apertureBlock pa n).map fun b => s.spRead b.2.1 b.2.2 n else none
    | _ => none

/-- A port's DMA write. -/
def State.dmaWrite (s : State) (pa : Nat) (bs : List Byte) : State :=
  if inTier pa ∧ inTier (pa + bs.length - 1) then
    let covered (g : Nat) : Bool := decide (pa ≤ 16 * g) && decide (16 * g + 16 ≤ pa + bs.length)
    { s with
      mem := (List.range bs.length).foldl (fun (m : List Host.Cell) i => Memory.write m (pa + i) (bs.getD i 0#8)) s.mem
      memPoison := delIf s.memPoison covered }
  else
    match pageOf pa with
    | (.aperture, _) => if inDevice pa then after (execApertureAccess pa 1 bs.length (bs.map BitVec.toNat) s) s else s
    | _ => s

/-- The descriptors of a ring, a power of two. -/
def Eth.ringSize (e : Eth) (r : Nat) : Nat := 2 ^ (e.reg r 1 % 32)

/-- Whether a ring has a descriptor for the port: HEAD is not TAIL, both descriptor numbers. -/
def Eth.ready (e : Eth) (r : Nat) : Bool := decide (4 ≤ e.reg r 1) && decide (e.reg r 1 ≤ 16) && decide (e.reg r 2 ≠ e.reg r 3 % e.ringSize r)

/-- The address of a ring's next descriptor. -/
def Eth.descriptor (e : Eth) (r : Nat) : Nat := e.reg r 0 + 32 * e.reg r 2

/-- Ends a descriptor: LEN for a received frame, STAT and TIME are written, HEAD moves, and the ring's vector fires. -/
def State.endDescriptor (s : State) (port r : Nat) (len : Option Nat) (stat : Nat) : State :=
  let e := getD s.eth port {}
  let a := e.descriptor r
  let s1 := match len with | some n => s.dmaWrite (a + 8) (toBytes 4 n) | none => s
  let s2 := (s1.dmaWrite (a + 12) (toBytes 4 stat)).dmaWrite (a + 16) (toBytes 8 s.clk)
  let s3 := s2.updEth port fun e => e.setReg r 2 ((e.reg r 2 + 1) % e.ringSize r)
  after (execMsixTargetWrite (bits (e.reg r 4) 10 0) (bits (e.reg r 4) 21 16) s3) s3

/-- A frame's priority (R348): the PCP of its IEEE 802.1Q tag, 0 without one. -/
def framePriority (f : List Byte) : Nat := if f.getD 12 0#8 = 0x81#8 ∧ f.getD 13 0#8 = 0#8 then (f.getD 14 0#8).toNat / 32 else 0

/-- Whether flow control holds a frame back (R348): its priority is paused and PFCEN is set. -/
def Eth.holdsFrame (e : Eth) (f : List Byte) : Bool := e.ectl.getLsbD 2 && e.pausedPrio.contains (framePriority f)

/-- TRANSMIT_DESCRIPTOR (R348): an enabled port with its link up sends the frame of a ring's next descriptor, unless flow control holds its priority
back; the ring then stands. -/
def execTransmitDescriptor (port ring : Nat) (s : State) : Out :=
  let e := getD s.eth port {}
  if port ≥ 4 ∨ ring ≥ 16 ∨ !e.ectl.getLsbD 0 ∨ !e.linkup ∨ !e.ready ring ∨ s.estop then .next s
  else
    match s.dmaRead (e.descriptor ring) 32 with
    | none => .next s
    | some d =>
      let len := fieldAt d 8 4
      let sent := if 60 ≤ len ∧ len ≤ 9212 then s.dmaRead (fieldAt d 0 8) len else none
      if e.holdsFrame (sent.getD []) then .next s else
      let s1 := match sent with | some f => s.updEth port fun e => { e with sent := e.sent ++ [f] } | none => s
      .next (s1.endDescriptor port ring none 1)

/-- A frame's EtherType. -/
def etherType (f : List Byte) : Nat := (f.getD 12 0#8).toNat * 256 + (f.getD 13 0#8).toNat

/-- A station address as it is sent: bits [47:40] first. -/
def station (a : Nat) : List Byte := (toBytes 6 a).reverse

/-- Whether a port takes a frame by its destination: its own address, a group address, or any. -/
def Eth.accepts (e : Eth) (f : List Byte) : Bool := e.ectl.getLsbD 1 || f.take 6 == station (e.emac.toNat % 2 ^ 48) || (f.getD 0 0#8).getLsbD 0

/-- The receive ring of a frame (R348). -/
def receiveRing (f : List Byte) : Nat := if etherType f = 0x0800 then 16 + crc32c ((f.drop 26).take 12) % 16 else 16

/-- Queues a frame on the open sockets of its port and EtherType, 64 at most (R334). -/
def State.toSockets (s : State) (port : Nat) (f : List Byte) : State :=
  { s with sockets := s.sockets.map fun k => if k.port = port ∧ k.etype = etherType f ∧ k.frames.length < 64 then { k with frames := k.frames ++ [f] } else k }

/-- FRAME_RECEIVE (R348): a frame without its FCS reaches an enabled port. -/
def execFrameReceive (port fcserr : Nat) (data : List Nat) (s : State) : Out :=
  let e := getD s.eth port {}
  let f : List Byte := data.map fun x => BitVec.ofNat 8 x
  if port ≥ 4 ∨ !e.ectl.getLsbD 0 ∨ !e.linkup ∨ f.length < 60 ∨ 9212 < f.length ∨ !e.accepts f ∨ s.estop then .next s
  else
    let s1 := if fcserr = 0 then s.toSockets port f else s
    let r := receiveRing f
    if !e.ready r then .next s1
    else
      match s1.dmaRead (e.descriptor r) 32 with
      | none => .next s1
      | some d =>
        let room := fieldAt d 8 4
        let cut := f.take room
        let s2 := if cut = [] then s1 else s1.dmaWrite (fieldAt d 0 8) cut
        .next (s2.endDescriptor port r (some f.length) (1 + (if fcserr ≠ 0 then 2 else 0) + (if room < f.length then 4 else 0)))

/-- ETHERNET_LINK_CHANGE (R348). -/
def execEthernetLinkChange (port up fec : Nat) (s : State) : Out :=
  .next (if port < 4 then s.updEth port fun e => { e with linkup := up ≠ 0, fec := fec ≠ 0 } else s)

/-- PRIORITY_FLOW_CONTROL (R348): a priority stops or resumes when PFCEN is set. -/
def execPriorityFlowControl (port prio pause : Nat) (s : State) : Out :=
  let e := getD s.eth port {}
  if port ≥ 4 ∨ prio ≥ 8 ∨ !e.ectl.getLsbD 2 then .next s
  else .next (s.updEth port fun e => { e with
    pausedPrio := if pause = 0 then e.pausedPrio.filter (· ≠ prio) else if e.pausedPrio.contains prio then e.pausedPrio else e.pausedPrio ++ [prio] })

/-- What a root port can train to (R344, R346): 2.5 to 64 GT/s, and x4 or a lower width of PCIe 6.0. -/
def rootLinkOk (rate width : Nat) : Bool := decide (1 ≤ rate) && decide (rate ≤ 6) && (width == 1 || width == 2 || width == 4)

/-- ROOT_PORT_LINK_CHANGE (R344, R346): LINKp takes rate, width and UP; no port trains to a rate or width that it does not have. -/
def execRootPortLinkChange (port up rate width : Nat) (s : State) : Out :=
  .next (if port < 8 ∧ (up = 0 ∨ rootLinkOk rate width = true) then
    { s with rootLinks := setD s.rootLinks port (BitVec.ofNat 64 (if up = 0 then 0 else rate + 16 * width + 65536)) 0#64 }
  else s)

/-! ### BAR 4 (R427, R428) -/

/-- Whether the pages of a BAR 4 access let it in: mapped, permitted, of the function's world and not `sealed-compute`; the ports keep what they
read for it (R307). -/
def State.barLets (s : State) (world asid va n : Nat) (read write : Bool) : Bool × State :=
  (mastPartsOf va n).foldl (fun (r : Bool × State) p =>
    let a := canonAsid asid p
    let (w, s1) := r.2.portLeaf a p
    let (e, s2) := s1.asidEntry (homeDie a p) a
    match w with
    | .leaf l => (r.1 && (!read || l.rd) && (!write || l.w) && !l.sealed_ && (inShared p || decide (asidWorld e = world)), s2)
    | .bad _ _ => (false, s2)) (true, s)
where
  /-- The first address of each 4 KiB page of an access. -/
  mastPartsOf (va n : Nat) : List Nat := (List.range ((va % 4096 + n + 4095) / 4096)).map fun i => if i = 0 then va else (va / 4096 + i) * 4096

/-- Reads pieces in place; `none` where one fails. -/
def State.barRead (s : State) (world asid : Nat) : List (Nat × Nat) → Option (List Byte) × State
  | [] => (some [], s)
  | (va, n) :: rest =>
    match s.inPlace asid va fun s => s.homeRead { world := world, asid := asid } va n with
    | (.ok bs, s1) =>
      match s1.barRead world asid rest with
      | (some more, s2) => (some (bs ++ more), s2)
      | r => r
    | (.fail _ _, s1) => (none, s1)
    | (.wait, _) => (none, s)

/-- Writes pieces in place; a piece that would fault is dropped. -/
def State.barWrite (s : State) (world asid va : Nat) (bs : List Byte) : State :=
  (pieces16 va bs.length).foldl (fun (s : State) p =>
    match s.inPlace asid p.1 fun s => s.homeWrite { world := world, asid := asid } p.1 ((bs.drop (p.1 - va)).take p.2) with
    | (.wait, _) => s
    | r => r.2) s
where
  /-- The 16-byte pieces of a byte range: address and length. -/
  pieces16 (va n : Nat) : List (Nat × Nat) :=
    (List.range ((va % 16 + n + 15) / 16)).map fun i =>
      let a := if i = 0 then va else (va / 16 + i) * 16
      (a, min (va + n) ((va / 16 + i + 1) * 16) - a)

/-- BAR4_ACCESS (R427, R428): KIND 0 a read, 1 a write, 2 FetchAdd, 3 CAS (compare value first). A read that is refused has no data. -/
def execBar4Access (fn off kind len : Nat) (data : List Nat) (s : State) : Out :=
  let w := s.fnWorld fn
  let asid := s.fnAsid fn
  let va := (s.fn fn).winbase.toNat + off
  let bs : List Byte := data.map fun x => BitVec.ofNat 8 x
  let t : State := { s with reply := none }
  if fn > 16 ∨ off + len > 2 ^ 36 ∨ len = 0 ∨ !s.booted ∨ s.estop then .next t
  else if w ≠ 0 ∧ !(inShared va && inShared (va + len - 1)) then .next t
  else
    let world := if inShared va then 0 else w
    match kind with
    | 0 =>
      let (ok, t) := t.barLets world asid va len true false
      if !ok then .next t
      else
        let r := t.barRead world asid (State.barWrite.pieces16 va len)
        .next { r.2 with reply := r.1 }
    | 1 =>
      let (ok, t) := t.barLets world asid va len false true
      .next (if ok then t.barWrite world asid va (bs.take len) else t)
    | k =>
      let (ok, t) := t.barLets world asid va len true true
      if k > 3 ∨ (len ≠ 4 ∧ len ≠ 8) ∨ va % len ≠ 0 ∨ !ok then .next t
      else
        match (t.forcePublish (2 ^ 11) (canonAsid asid va) va).inPlace asid va fun s => s.homeRead { world := world, asid := asid } va len with
        | (.ok old, s1) =>
          let x := ofBytes old
          let new := if k = 2 then (x + ofBytes (bs.take len)) % 2 ^ (8 * len)
            else if x = ofBytes (bs.take len) then ofBytes ((bs.drop len).take len) else x
          (match s1.inPlace asid va fun s => s.homeWrite { world := world, asid := asid } va (toBytes len new) with
          | (.ok _, s2) => .next { s2 with reply := some old }
          | _ => .next t)
        | (.fail _ _, s1) => .next s1
        | (.wait, _) => .next t

end Sys2Proof.Machine
end

