-- ==== Sys2Proof/Machine/Kernel.lean ====
section
/-!
DEFINITION. What the mast kernel does for programs (R333-R349): system calls of `trap 0`, the messages between shards, and READY. The
kernel image itself is data of the flash; these events are what R333-R349 say that it does.
-/
namespace Sys2Proof.Machine
open Sys2Proof

/-! ### Calls (R333, R335, R336) -/

/-- A negative result. -/
def errResult (n : Nat) : Word := BitVec.ofNat 32 (2 ^ 32 - n)

/-- Argument v0-v5 of a call. -/
def KCall.arg (k : KCall) (i : Nat) : Nat := k.args.getD i 0
/-- The 64-bit byte offset of a file call. -/
def KCall.offset (k : KCall) : Nat := k.arg 1 + 2 ^ 32 * k.arg 2
/-- The key of a call (R336). -/
def KCall.key (k : KCall) : List Nat := [k.launch, k.block, k.group, k.pc, k.call] ++ k.args ++ [k.lanes.toNat]
/-- Whether arguments are 0. -/
def KCall.zero (k : KCall) (is : List Nat) : Bool := is.all fun i => k.arg i = 0

/-- Whether the block of a call is in a protected world. -/
def State.callWorld (s : State) (k : KCall) : Nat := match find s.groups k.gid with | some g => s.worldOf g | none => 0

/-- The aperture address of a call's scratchpad offset (R345). -/
def KCall.aperture (k : KCall) (off : Nat) : Nat := 0xF100000000000 + k.bgen % 2 ^ 14 * 2 ^ 30 + k.origin * 2 ^ 19 + off

/-- Moves bytes into the caller's scratchpad, in requests of at most 512 B (R345, R346). -/
def State.apertureOut (s : State) (k : KCall) (off : Nat) (bs : List Byte) : State :=
  (List.range ((bs.length + 511) / 512)).foldl (fun (s : State) i =>
    let part := (bs.drop (512 * i)).take 512
    after (execApertureAccess (k.aperture (off + 512 * i)) 1 part.length (part.map BitVec.toNat) s) s) s

/-- Reads bytes of the caller's scratchpad; `none` where the aperture refuses. -/
def State.apertureIn (s : State) (k : KCall) (off n : Nat) : Option (List Byte) := (s.apertureBlock (k.aperture off) n).map fun b => s.spRead b.2.1 b.2.2 n

/-! ### The file stores of the drives (R347) -/

/-- Byte i of a file: it lies in one contiguous extent of its drive. -/
def State.fileByte (s : State) (f : File) (i : Nat) : Byte := getD (getD s.drives f.drive []) (512 * f.lba + i) 0#8

/-- A little-endian field of a drive. -/
def driveField (bytes : SMap Byte) (a n : Nat) : Nat := ofBytes ((List.range n).map fun i => getD bytes (a + i) 0#8)

/-- The directory of a drive (R347): the files of its NFILES entries, nothing where LBA 0 is no header. -/
def directory (drive : Nat) (bytes : SMap Byte) : List (Nat × File) :=
  if driveField bytes 0 8 = 0x31524F545346484E then
    (List.range (driveField bytes 8 4)).map fun i =>
      let a := 512 + 32 * i
      (driveField bytes a 4, { size := driveField bytes (a + 16) 8, drive := drive, lba := driveField bytes (a + 8) 8 })
  else []

/-- The file shards read every directory (R347, R349 step 5): the files, and whether a file id was found twice. -/
def State.readStores (s : State) : Bool × State :=
  let found := s.drives.flatMap fun (e : Nat × SMap Byte) => directory e.1 e.2
  found.foldl (fun (r : Bool × State) (e : Nat × File) =>
    if (find r.2.files e.1).isSome then (true, r.2) else (r.1, { r.2 with files := put r.2.files e.1 e.2 })) (false, { s with files := [] })

/-- The file that a file call names. -/
def State.fileOf (s : State) (k : KCall) : Option File := if k.arg 0 = 0 then none else find s.files (k.arg 0)

/-- Whether the arguments of FREAD and FWRITE are in range (R333). -/
def KCall.fileArgsOk (k : KCall) : Bool :=
  k.offset % 512 = 0 && k.arg 3 % 512 = 0 && decide (512 ≤ k.arg 3) && decide (k.arg 3 ≤ 65536) && k.arg 4 % 16 = 0
  && decide (k.arg 4 + k.arg 3 ≤ 2 ^ 19) && k.arg 5 = 0

/-- The bytes that a file call moves: FREAD up to the file's end, FWRITE what it asks (R333). -/
def KCall.count (k : KCall) (f : File) : Nat := if k.call = 1 then min (k.arg 3) (f.size - k.offset) else k.arg 3

/-- What settles FREAD or FWRITE before any command (R333): an error, or 0 where no byte is to be moved. -/
def State.fileCheck (s : State) (k : KCall) : Option Word :=
  if s.callWorld k ≠ 0 then some (errResult 5)
  else if !k.fileArgsOk then some (errResult 3)
  else
    match s.fileOf k with
    | none => some (errResult 2)
    | some f => if k.call = 2 ∧ f.size < k.offset + k.arg 3 then some (errResult 3) else if k.count f = 0 then some 0#32 else none

/-- What the drive does for FREAD and FWRITE (R333, R345, R347), and the result: the file's bytes go to the caller's scratchpad, where what lies
beyond the count is unspecified: free values; or the caller's bytes to the file, an I/O error where the aperture gives none. -/
def State.transfer (s : State) (k : KCall) (f : File) : Word × State :=
  if k.call = 1 then
    let n := k.count f
    let bs := (List.range (k.arg 3)).map fun i => if i < n then s.fileByte f (k.offset + i) else (Config.freeValue (s.free + i)).setWidth 8
    (BitVec.ofNat 32 n, ({ s with free := s.free + k.arg 3 } : State).apertureOut k (k.arg 4) bs)
  else
    match s.apertureIn k (k.arg 4) (k.arg 3) with
    | none => (errResult 4, s)
    | some bs => (BitVec.ofNat 32 (k.arg 3), { s with drives := put s.drives f.drive (putBytes (getD s.drives f.drive []) (512 * f.lba + k.offset) bs) })

/-- FSIZE (R333). -/
def State.callSize (s : State) (k : KCall) : Word × State :=
  if !k.zero [1, 2, 3, 4, 5] then (errResult 3, s)
  else
    match s.fileOf k with
    | none => (errResult 2, s)
    | some f => (BitVec.ofNat 32 (min f.size 0x7FFFFFFF), s)

/-! ### Sockets (R334) -/

/-- The id of a socket. -/
def Socket.id (k : Socket) : Nat := k.owner * 2 ^ 20 + k.index
/-- Records a completed call of a socket: the last 64 are kept. -/
def Socket.record (x : Socket) (k : KCall) (result : Word) (frame : List Byte) : Socket :=
  let l := x.calls ++ [(k.key, result.toNat, frame)]
  { x with calls := l.drop (l.length - 64) }
/-- Changes the socket of an id. -/
def State.updSocket (s : State) (id : Nat) (f : Socket → Socket) : State := { s with sockets := s.sockets.map fun x => if x.id = id then f x else x }
/-- The recorded call of a redelivered one (R334). -/
def State.recorded (s : State) (k : KCall) : Option (Nat × List Byte) :=
  if !k.redo then none else (s.sockets ++ s.closedSockets).findSome? fun x => (x.calls.find? fun c => c.1 = k.key).map fun c => c.2

/-- SOPEN at the owner (R334). -/
def State.callOpen (s : State) (owner : Nat) (k : KCall) : Word × State :=
  if 3 < k.arg 0 ∨ k.arg 1 < 0x0600 ∨ 0xFFFF < k.arg 1 ∨ !k.zero [2, 3, 4, 5] then (errResult 3, s)
  else
    let mine := s.sockets.filter fun x => x.owner = owner
    if s.sockets.any fun x => x.port = k.arg 0 && x.etype = k.arg 1 then (errResult 6, s)
    else if 1024 ≤ mine.length then (errResult 4, s)
    else
      let idx := ((List.range 1024).find? fun i => !mine.any fun x => x.index = i).getD 0
      let lid := match (find s.groups k.gid).bind s.blockOf with | some b => b.lid | none => 0
      let x : Socket := { owner := owner, lid := lid, index := idx, port := k.arg 0, etype := k.arg 1 }
      let r := BitVec.ofNat 32 x.id
      (r, { s with sockets := s.sockets ++ [x.record k r []] })

/-- The frame that SSEND builds (R334). -/
def sendFrame (dst src etype : Nat) (payload : List Byte) : List Byte :=
  station dst ++ station src ++ (toBytes 2 etype).reverse ++ payload ++ zeros (46 - payload.length)

/-- What settles SSEND before its frame is queued (R333, R334): an error. -/
def State.sendCheck (s : State) (k : KCall) : Option Word :=
  if s.callWorld k ≠ 0 then some (errResult 5)
  else if !(s.sockets.any fun x => x.id = k.arg 0) then some (errResult 3)
  else if 0xFFFF < k.arg 2 ∨ k.arg 3 < 1 ∨ 9198 < k.arg 3 ∨ k.arg 4 % 16 ≠ 0 ∨ 2 ^ 19 < k.arg 4 + k.arg 3 ∨ k.arg 5 ≠ 0 then some (errResult 3)
  else none

/-- The frame buffer of descriptor i of port p's transmit ring in its owner's heap: the kernel's own layout (log entry 155). -/
def State.frameBuffer (s : State) (owner p i : Nat) : Nat := (s.mast owner).rd 0x90 8 + 2 ^ 20 + 16384 * (16 * p + i % 16)

/-- The owner queues SSEND's frame on transmit ring 0 of the port (R334, R348; log entry 155): buffer, descriptor, TAIL; `none` while the ring has no
room. An I/O error where the aperture gives no payload. -/
def State.queueFrame (s : State) (owner : Nat) (k : KCall) (x : Socket) : Option (Except Word (Nat × State)) :=
  let e := getD s.eth x.port {}
  let tail := e.reg 0 3
  let next := (tail + 1) % e.ringSize 0
  match s.apertureIn k (k.arg 4) (k.arg 3) with
  | none => some (.error (errResult 4))
  | some bs =>
    if e.reg 0 1 < 4 ∨ 16 < e.reg 0 1 ∨ next = e.reg 0 2 then none
    else
      let f := sendFrame (k.arg 1 + 2 ^ 32 * k.arg 2) (e.emac.toNat % 2 ^ 48) x.etype bs
      let buf := s.frameBuffer owner x.port tail
      let d := e.reg 0 0 + 32 * tail
      let s1 := (s.dmaWrite buf f).dmaWrite d (toBytes 8 buf ++ toBytes 4 f.length ++ zeros 20)
      some (.ok (d, s1.updEth x.port fun e => e.setReg 0 3 next))

/-- SRECV (R334). -/
def State.callRecv (s : State) (k : KCall) : Word × State :=
  if s.callWorld k ≠ 0 then (errResult 5, s)
  else
    match s.sockets.find? fun x => x.id = k.arg 0 with
    | none => (errResult 3, s)
    | some x =>
      if !k.zero [1, 2, 5] ∨ k.arg 3 % 16 ≠ 0 ∨ k.arg 3 < 64 ∨ 9216 < k.arg 3 ∨ k.arg 4 % 16 ≠ 0 ∨ 2 ^ 19 < k.arg 4 + k.arg 3 then (errResult 3, s)
      else
        match x.frames with
        | [] => (0#32, s.updSocket x.id fun x => x.record k 0#32 [])
        | f :: rest =>
          let r := BitVec.ofNat 32 f.length
          (r, (s.updSocket x.id fun x => { x with frames := rest }.record k r f).apertureOut k (k.arg 4) (f.take (k.arg 3)))

/-- SCLOSE (R334). -/
def State.callClose (s : State) (k : KCall) : Word × State :=
  if !k.zero [1, 2, 3, 4, 5] ∨ !(s.sockets.any fun x => x.id = k.arg 0) then (errResult 3, s)
  else
    let gone := (s.sockets.filter fun x => x.id = k.arg 0).map fun x => { x.record k 0#32 [] with frames := [] }
    (0#32, { s with sockets := s.sockets.filter fun x => x.id ≠ k.arg 0, closedSockets := s.closedSockets ++ gone })

/-- The shard that performs a call (R342). -/
def State.callOwner (s : State) (c : Nat) (k : KCall) : Nat :=
  if k.call = 1 ∨ k.call = 2 ∨ k.call = 3 then s.flash.fshard.getD (k.arg 0 % 64) 0
  else if k.call = 4 then (if k.arg 0 ≤ 3 then s.flash.ethown.getD (k.arg 0) 0 else c)
  else if (s.sockets ++ s.closedSockets).any fun x => x.id = k.arg 0 then k.arg 0 / 2 ^ 20 % 2048 else c

/-! ### Calls in service (R335, R336, R343) -/

/-- What a call comes to at once at its owner; `none` where a drive or a port must act first. A redelivered socket call that was recorded repeats its
transfer and result (R334). -/
def State.settle (s : State) (owner : Nat) (k : KCall) : Option (Word × State) :=
  match (if 4 ≤ k.call then s.recorded k else none) with
  | some (r, f) => some (BitVec.ofNat 32 r, if k.call = 6 then s.apertureOut k (k.arg 4) (f.take (k.arg 3)) else s)
  | none =>
    match k.call with
    | 1 => (s.fileCheck k).map fun r => (r, s)
    | 2 => (s.fileCheck k).map fun r => (r, s)
    | 3 => some (s.callSize k)
    | 4 => some (s.callOpen owner k)
    | 5 => (s.sendCheck k).map fun r => (r, s)
    | 6 => some (s.callRecv k)
    | 7 => some (s.callClose k)
    | _ => some (errResult 1, s)

/-- The lanes of a call resume at its cluster with the result in v0, where its block has not been saved since (R335, R336, R352). -/
def State.resumeCall (s : State) (k : KCall) (r : Word) : State :=
  if (find s.blocks (k.gid / 32)).any fun b => decide (b.bgen = k.bgen) && b.phase == .resident && !b.genRetired
  then s.resumeLanes k.origin k.gid k.lanes (some fun _ => r) none else s

/-- Replaces a record, or takes it out. -/
def State.setServed (s : State) (x : Served) (y : Option Served) : State :=
  { s with served := s.served.flatMap fun z => if z = x then y.toList else [z] }

/-- A call is done: its lanes resume where it is the owner's own, else its result waits to be sent. -/
def State.endService (s : State) (x : Served) (r : Word) : State :=
  if x.call.origin = x.owner then (s.setServed x none).resumeCall x.call r else s.setServed x (some { x with phase := .reply, result := r })

/-- The records of an owner that have a command on a drive. -/
def State.commands (s : State) (owner drive : Nat) : List Served :=
  s.served.filter fun x => x.owner = owner && x.phase == .command && (match s.fileOf x.call with | some f => x.call.call ≤ 2 && f.drive = drive | none => false)

/-- A waiting call goes on (R334, R347): a file call as a command in a free slot of the owner's queue pair, whose tail moves; SSEND as a frame on a
transmit ring; `none` while there is no room. -/
def State.startCall (s : State) (x : Served) : Option State :=
  if x.call.call = 5 then
    match s.sockets.find? fun y => y.id = x.call.arg 0 with
    | none => some (s.endService x (errResult 3))
    | some y => match s.queueFrame x.owner x.call y with
      | none => none
      | some (.error r) => some (s.endService x r)
      | some (.ok (d, s1)) => some (s1.setServed x (some { x with phase := .command, slot := d }))
  else
    match s.fileOf x.call with
    | none => some (s.endService x (errResult 2))
    | some f =>
      let q := getD s.queues (x.owner * 8 + f.drive) {}
      if 63 ≤ (s.commands x.owner f.drive).length then none
      else some ({ s with queues := setD s.queues (x.owner * 8 + f.drive) { q with tail := (q.tail + 1) % 64 } {} }.setServed x (some { x with phase := .command, slot := q.tail }))

/-- A drive's completion entry reaches a queue pair: head and expected phase move (R347). -/
def State.completion (s : State) (owner drive : Nat) : State :=
  let q := getD s.queues (owner * 8 + drive) {}
  { s with queues := setD s.queues (owner * 8 + drive) { q with head := (q.head + 1) % 64, phase := if q.head = 63 then !q.phase else q.phase } {} }

/-- A command or frame comes to its end: the drive's transfer and its completion entry, after which a call with REPEAT is issued again towards its new place
(R336); the port's DONE (R334). `none` while the port has not set it. -/
def State.endCall (s : State) (x : Served) : Option State :=
  if x.call.call = 5 then
    match s.dmaRead x.slot 32, s.sockets.find? fun y => y.id = x.call.arg 0 with
    | some d, some y => if bit (fieldAt d 12 4) 0 then
        (let r := BitVec.ofNat 32 (x.call.arg 3); some ((s.updSocket y.id fun y => y.record x.call r []).endService x r)) else none
    | _, none => some (s.endService x (BitVec.ofNat 32 (x.call.arg 3)))
    | none, _ => none
  else
    match s.fileOf x.call with
    | none => some (s.endService x (errResult 2))
    | some f =>
      let r := s.transfer (x.towards.getD x.call) f
      let s1 := r.2.completion x.owner f.drive
      some (if x.again then s1.setServed x (some { x with phase := .waiting, again := false, towards := none }) else s1.endService x r.1)

/-- A redelivered call takes the place of the one in service (R336): its file transfer is to be repeated towards the new place. -/
def Served.attach (x : Served) (k : KCall) : Served :=
  { x with call := k, again := k.call ≤ 2, towards := if x.phase = .command ∧ x.towards = none then some x.call else x.towards }

/-- The owner takes a call (R336): a redelivered one whose key is in service is attached to it, and the call's transfer is repeated towards the new
place; any other is settled at once or put into service. -/
def State.takeCall (s : State) (owner : Nat) (k : KCall) : State :=
  match s.served.find? fun x => k.redo && x.owner = owner && x.phase != .reply && x.call.key == k.key with
  | some x => s.setServed x (some (x.attach k))
  | none =>
    let x : Served := { owner := owner, call := k }
    let s1 : State := { s with served := s.served ++ [x] }
    match s1.settle owner k with
    | some (r, s2) => s2.endService x r
    | none => (s1.startCall x).getD s1

/-! ### Serving a trap event (R230, R233, R335) -/

/-- Whether a lane of a group is held at a delivered `trap`. -/
def Group.trapped (g : Group) (l : Nat) : Bool := match g.holdOf l with | .event 0x51 _ true => true | _ => false

/-- The next call of a sub-partition's trap frame that is not in service: the lanes that share the tuple of the lowest lane (R335). -/
def State.frameCall (s : State) (c sp : Nat) : Option KCall :=
  let m := s.mast c
  let a := 0x3F000 + 0x400 * sp
  if (find m.frameDepth sp).isNone then none
  else
    let who := m.rd (a + 12) 4
    match s.groups.find? fun (e : Nat × Group) => e.2.residentAt c (who % 4) && e.2.slot = who / 4 % 32 with
    | none => none
    | some (gid, g) =>
      match s.blockOf g with
      | none => none
      | some b =>
        let busy := (s.calls ++ s.served.map fun x => x.call).filter fun k => k.origin = c && k.gid = gid && k.bgen = b.bgen
        let tuple (l : Nat) : List Nat := (List.range 6).map fun i => m.rd (a + 32 + 128 * i + 4 * l) 4
        match (lanesOf (BitVec.ofNat 32 (m.rd (a + 4) 4))).filter fun l => g.trapped l && !busy.any fun k => k.lanes.getLsbD l with
        | [] => none
        | l :: rest =>
          let same := l :: rest.filter fun x => tuple x = tuple l
          let v := m.rd (a + 8) 4
          some { origin := c, gid := gid, bgen := b.bgen, tag := s.order
                 lanes := BitVec.ofNat 32 (same.foldl (fun n x => n + 2 ^ x) 0)
                 redo := bit v 8, launch := match s.launchOf b with | some x => x.lid.toNat | none => 0
                 block := b.blk, group := g.num, pc := m.rd (a + 16) 4
                 call := if v % 256 = 0 then m.rd a 4 else 0
                 args := tuple l }

/-- The CALL message of a call, or the REPLY with its result (R341). -/
def KCall.message (k : KCall) (kind : Nat) (result : Word) : List Byte :=
  toBytes 1 kind ++ toBytes 1 0 ++ toBytes 2 k.origin ++ toBytes 4 k.tag ++ toBytes 4 k.call ++ toBytes 4 k.lanes.toNat
  ++ (List.range 6).flatMap (fun i => toBytes 4 (k.arg i)) ++ toBytes 2 k.bgen ++ toBytes 1 k.group ++ toBytes 1 (if k.redo then 1 else 0)
  ++ toBytes 4 k.pc ++ toBytes 4 result.toNat ++ toBytes 4 k.launch ++ toBytes 4 k.block ++ zeros 4

/-- The call of a CALL message; its group is found from ORIGIN and BGEN (R341, R345). -/
def State.callOfMsg (s : State) (msg : List Byte) : KCall :=
  let f (off n : Nat) : Nat := fieldAt msg off n
  let gid := match s.blocks.find? fun (e : Nat × Block) => e.2.cluster = f 2 2 && e.2.bgen = f 0x28 2 && e.2.phase == .resident with
    | some e => e.1 * 32 + f 0x2A 1 % 32
    | none => 0
  { origin := f 2 2, gid := gid, bgen := f 0x28 2, tag := f 4 4, lanes := BitVec.ofNat 32 (f 0xC 4), redo := bit (f 0x2B 1) 0
    launch := f 0x34 4, block := f 0x38 4, group := f 0x2A 1, pc := f 0x2C 4, call := f 8 4, args := (List.range 6).map fun i => f (0x10 + 4 * i) 4 }

/-- Whether an event of call number `num` serves a call: its own number, or one that R333 does not list. -/
def KCall.servedBy (k : KCall) (num : Nat) : Bool := k.call = num || k.call < 1 || 7 < k.call

/-- The REPLY of a record (R341): the receiver's full mailbox keeps it here, and the owner empties its own mailbox before it tries again (R343). -/
def State.sendReply (s : State) (x : Served) : Option State :=
  if x.tried && (s.mast x.owner).mailbox != [] then none
  else
    let r := s.sendMsg x.call.origin x.owner (x.call.message 2 x.result)
    if r.1 then some (r.2.setServed x none) else if x.tried then none else some (s.setServed x (some { x with tried := true }))

/-- The next thing that an owner does for a record; `none` where it waits. -/
def State.serveOne (s : State) (x : Served) : Option State :=
  match x.phase with
  | .waiting => s.startCall x
  | .command => s.endCall x
  | .reply => s.sendReply x

/-- A CALL that found its owner's mailbox full is sent again, once the shard's own mailbox is empty (R343). -/
def State.resend (s : State) (c : Nat) (k : KCall) : Option State :=
  if (s.mast c).mailbox != [] then none
  else
    let r := s.sendMsg (s.callOwner c k) c (k.message 1 0#32)
    if r.1 then some { r.2 with calls := s.calls.map fun x => if x = k then { k with unsent := false } else x } else none

/-- The same for the oldest CALL that the shard is to send on. -/
def State.forward (s : State) (c : Nat) : Option State :=
  match s.unforwarded.find? fun m => m.1 = c with
  | none => none
  | some m =>
    if (s.mast c).mailbox != [] then none
    else
      let r := s.sendMsg (s.callOwner c (s.callOfMsg m.2)) c m.2
      if r.1 then some { r.2 with unforwarded := s.unforwarded.erase m } else none

/-- Serves system call `num` at cluster c (R333-R336): the kernel forms the next call of a trap event and takes it, or forwards it to its owner (R342);
else it goes on with the oldest call in service here that can go on, and with the calls that are still to be sent. A call number that R333 does not
list, and `trap n` with n not 0, give E_CALL. -/
def serveCall (num c : Nat) (s : State) : Out :=
  let m := s.mast c
  if !m.running ∨ m.stopped ∨ !s.booted ∨ s.estop then .next s
  else
    match (List.range 4).findSome? fun sp => (s.frameCall c sp).bind fun k => if k.servedBy num then some k else none with
    | some k =>
      let owner := if k.call < 1 ∨ 7 < k.call then c else s.callOwner c k
      if owner = c then .next (({ s with order := s.order + 1 } : State).takeCall c k)
      else
        let r := s.sendMsg owner c (k.message 1 0#32)
        .next { r.2 with calls := r.2.calls ++ [{ k with unsent := !r.1 }], order := r.2.order + 1 }
    | none =>
      match (s.served.filter fun x => x.owner = c && x.call.servedBy num).findSome? s.serveOne with
      | some t => .next t
      | none => .next ((((s.calls.filter fun k => k.origin = c && k.unsent && k.servedBy num).findSome? (s.resend c)).orElse fun _ => s.forward c).getD s)

/-- FREAD (R333). -/
def execFread (cl : Nat) (s : State) : Out := serveCall 1 cl s
/-- FWRITE (R333). -/
def execFwrite (cl : Nat) (s : State) : Out := serveCall 2 cl s
/-- FSIZE (R333). -/
def execFsize (cl : Nat) (s : State) : Out := serveCall 3 cl s
/-- SOPEN (R334). -/
def execSopen (cl : Nat) (s : State) : Out := serveCall 4 cl s
/-- SSEND (R334). -/
def execSsend (cl : Nat) (s : State) : Out := serveCall 5 cl s
/-- SRECV (R334). -/
def execSrecv (cl : Nat) (s : State) : Out := serveCall 6 cl s
/-- SCLOSE (R334). -/
def execSclose (cl : Nat) (s : State) : Out := serveCall 7 cl s

/-! ### Messages (R341-R343, R349) -/

/-- The oldest message of a mast core's mailbox, where its kernel runs. -/
def State.oldestMsg (s : State) (c : Nat) : Option (Nat × List Byte) :=
  let m := s.mast c
  if !m.running ∨ m.stopped ∨ !s.booted ∨ s.estop then none else m.mailbox.head?

/-- Takes the oldest message off a mailbox. -/
def State.dropMsg (s : State) (c : Nat) : State := s.updM c fun m => { m with mailbox := m.mailbox.drop 1 }

/-- The KIND of a message. -/
def msgKind (msg : List Byte) : Nat := (msg.getD 0 0#8).toNat

/-- Receives a message of one KIND (R341): a reserved KIND is discarded, any other waits for its own event. -/
def receiveMsg (kind c : Nat) (body : List Byte → State → State) (s : State) : Out :=
  match s.oldestMsg c with
  | none => .next s
  | some (_, msg) =>
    if msgKind msg < 1 ∨ 5 < msgKind msg then .next (s.dropMsg c)
    else if msgKind msg = kind then .next (body msg s) else .next s

/-- CALL_MESSAGE (R336, R341, R342): the shard takes the call, or sends it on to the owner, later where its mailbox is full (R343). -/
def execCallMessage (cl : Nat) (s : State) : Out :=
  receiveMsg 1 cl (fun msg s =>
    let k := s.callOfMsg msg
    let owner := if k.call < 1 ∨ 7 < k.call then cl else s.callOwner cl k
    if owner = cl then (s.dropMsg cl).takeCall cl k
    else
      let r := (s.dropMsg cl).sendMsg owner cl msg
      if r.1 then r.2 else { r.2 with unforwarded := r.2.unforwarded ++ [(cl, msg)] }) s

/-- REPLY_MSG (R336, R341): the lanes of the call resume with its result; a reply for a block that has since been saved is discarded. -/
def execReplyMsg (cl : Nat) (s : State) : Out :=
  receiveMsg 2 cl (fun msg s =>
    let s1 := s.dropMsg cl
    match s.calls.find? fun k => k.origin = cl && k.tag % 2 ^ 32 = fieldAt msg 4 4 with
    | none => s1
    | some k => ({ s1 with calls := s1.calls.filter fun x => x != k } : State).resumeCall k (BitVec.ofNat 32 (fieldAt msg 0x30 4))) s

/-- The shards: NSH, at least one (R342, R350). -/
def State.nsh (s : State) : Nat := max 1 s.flash.nsh

/-- The entry that shard c reads next from the fault buffers that are its own: the die, and the entry at FBTAIL (R342). -/
def State.faultDue (s : State) (c : Nat) : Option (Nat × FbEntry) :=
  (List.range 16).findSome? fun d =>
    let x := s.die d
    if 80 * d % s.nsh = c ∧ x.fbtail.toNat < x.fbhead.toNat then (x.entries.find? fun e => e.seq = x.fbtail.toNat % 2 ^ 32).map fun e => (d, e) else none

/-- The owner of an entry's region (R342). -/
def State.regionOwner (s : State) (e : FbEntry) : Nat := (e.asid + e.page % 2 ^ 56 / 2 ^ 30) % s.nsh

/-- A FAULTFWD message (R341): the die in CALL, SEQ in the first argument; the fields that are of calls are 0 (log entry 156). -/
def faultMsg (d : Nat) (e : FbEntry) : List Byte := toBytes 1 3 ++ zeros 7 ++ toBytes 4 d ++ zeros 4 ++ toBytes 4 e.seq ++ zeros 44

/-- FAULTFWD (R341, R342): a message is taken: its region's owner has the entry, and its RESOLVE is a write of its own (R316). Else a shard that reads a
die's fault buffer sends the entry at FBTAIL to the region's owner, itself without a message, and FBTAIL passes it. -/
def execFaultfwd (cl : Nat) (s : State) : Out :=
  match (s.oldestMsg cl).map fun m => msgKind m.2 with
  | some 3 => .next (s.dropMsg cl)
  | _ =>
    if !(s.mast cl).running ∨ (s.mast cl).stopped ∨ !s.booted ∨ s.estop then .next s
    else
      match s.faultDue cl with
      | none => .next s
      | some (d, e) =>
        let owner := s.regionOwner e
        let r := if owner = cl then (true, s) else s.sendMsg owner cl (faultMsg d e)
        .next (if r.1 then r.2.updD d fun x => { x with fbtail := x.fbtail + 1#64 } else s)

/-! ### Coming up (R349) -/

/-- The shards that must be ready (R342, R349). -/
def State.shards (s : State) : List Nat := List.range s.flash.nsh

/-- A BOOT_DONE message (R341, R349). -/
def bootDoneMsg (stat : Nat) : List Byte := toBytes 1 5 ++ toBytes 1 stat ++ zeros 62

/-- A READY message (R341, R349). -/
def readyMessage (c : Nat) : List Byte := toBytes 1 4 ++ toBytes 1 0 ++ toBytes 2 c ++ zeros 60

/-- What shard c does as it comes up (R349): 0 READY (step 3), 1 the root ports and the queue pairs (4), 2 its file store (5), 3 + e Ethernet port e (6). -/
def State.bootTasks (s : State) (c : Nat) : List Nat :=
  [0] ++ (if s.flash.rcown = c then [1] else []) ++ (if s.flash.fshard.contains c then [2] else [])
  ++ ((List.range 4).filter fun e => s.flash.ethown.getD e 0 = c).map (3 + ·)

/-- Whether every shard has done its part of steps 4 to 6. -/
def State.bootStepsDone (s : State) : Bool :=
  s.shards.all fun c => (s.bootTasks c).all fun t => t = 0 || s.bootWork.contains (8 * c + t)

/-- Shard 0 reports once, when every READY and steps 4 to 6 are in or a shard is given up (R349, step 7): STAT 1 for a missing shard, 2 for a
file id found twice. -/
def State.reportBoot (s : State) (missing : Bool) : State :=
  let r := s.readStores
  let sent := r.2.sendMsg 0x7FE 0 (bootDoneMsg (if missing then 1 else if r.1 then 2 else 0))
  if s.bootReported ∨ !sent.1 then s else { sent.2 with bootReported := true }

/-- Shard 0 looks whether it can report. -/
def State.bootCheck (s : State) : State :=
  if (s.shards.all fun c => s.readyShards.contains c) && s.bootStepsDone then s.reportBoot false else s

/-- The owner of an Ethernet port programs its rings in its heap (log entry 155) and enables the port (R348, R349). -/
def State.bringUpPort (s : State) (c p : Nat) : State :=
  let heap := (s.mast c).rd 0x90 8
  s.updEth p fun e =>
    (List.range 32).foldl (fun (e : Eth) r => (((e.setReg r 0 (heap + 4096 * (32 * p + r))).setReg r 1 4).setReg r 4 (c + p * 65536)))
      { e with ectl := e.ectl ||| 1#64 }

/-- One part of a shard's coming up. -/
def State.bootTask (s : State) (c t : Nat) : Option State :=
  let done (s : State) : State := { s with bootWork := s.bootWork ++ [8 * c + t] }
  match t with
  | 0 => (let r := s.sendMsg 0 c (readyMessage c); if r.1 then some (done r.2) else none)
  | 1 => some (done { s with rcctl := 0xFF#64 })
  | 2 => if s.bootWork.contains (8 * s.flash.rcown + 1) then some (done s.readStores.2) else none
  | t => some (done (s.bringUpPort c (t - 3)))

/-- READY (R349): shard 0 takes the READY of shard `cl`. Where there is none to take, the shard does the next part of its coming up, of which the first is
to send its READY (log entry 157). With the last part of all, shard 0 sends BOOT_DONE. -/
def execReadyMsg (cl : Nat) (s : State) : Out :=
  if (s.oldestMsg 0).any fun m => m.1 = cl && msgKind m.2 = 4 then
    .next (if s.readyShards.contains cl then s.dropMsg 0 else ({ s.dropMsg 0 with readyShards := s.readyShards ++ [cl] } : State).bootCheck)
  else if s.flash.nsh ≤ cl ∨ !(s.mast cl).running ∨ (s.mast cl).stopped ∨ !s.booted ∨ s.estop then .next s
  else
    match (s.bootTasks cl).filter fun t => !s.bootWork.contains (8 * cl + t) with
    | [] => .next s.bootCheck
    | t :: _ => .next (match s.bootTask cl t with | some s1 => s1.bootCheck | none => s)

/-- READY_TIMEOUT (R349): 200 ms after its release a shard has sent no READY; the spare of its neighbourhood is mapped in and booted once;
after that shard 0 reports a shard missing. -/
def execReadyTimeout (cl : Nat) (s : State) : Out :=
  let d := cl / 80
  let n := cl % 80 / 8
  let k := cl % 8
  let v := (getD (s.die d).maps n 0#64).toNat
  let spare := bits v 35 32
  if !s.booted ∨ s.estop ∨ s.flash.nsh ≤ cl ∨ 1280 ≤ cl ∨ s.readyShards.contains cl ∨ s.bootWork.contains (8 * cl) ∨ !s.inService cl ∨
    s.clk < (s.mast cl).releasedAt + 450000000 then .next s
  else if spare = 15 ∨ s.retried.contains cl then .next (({ s with readyShards := s.readyShards ++ [cl] } : State).reportBoot true)
  else
    let old := 9 * n + bits v (4 * k + 3) (4 * k)
    let s1 := s.mapIn cl spare
    let s2 : State := { s1 with flash := { s1.flash with retired := s1.flash.retired ++ [90 * d + old] }, retried := s1.retried ++ [cl] }
    .next (s2.bootCore cl)

end Sys2Proof.Machine
end

