-- ==== Sys2Proof/Machine/Dispatch.lean ====
section
/-!
DEFINITION. One arm per constructor of Instr: a direct call of its meaning.
-/
namespace Sys2Proof.Machine
open Sys2Proof

/-- The meaning of an instruction or event. -/
def exec (i : Instr) (s : State) : Host.Outcome State Fault Refusal :=
  match i with
  | .iadd f => Sys2Proof.Machine.execIadd f s
  | .isub f => Sys2Proof.Machine.execIsub f s
  | .iadds f => Sys2Proof.Machine.execIadds f s
  | .isubs f => Sys2Proof.Machine.execIsubs f s
  | .imul f => Sys2Proof.Machine.execImul f s
  | .imulh f => Sys2Proof.Machine.execImulh f s
  | .imad f => Sys2Proof.Machine.execImad f s
  | .imin f => Sys2Proof.Machine.execImin f s
  | .imax f => Sys2Proof.Machine.execImax f s
  | .andI f => Sys2Proof.Machine.execAndI f s
  | .orI f => Sys2Proof.Machine.execOrI f s
  | .xorI f => Sys2Proof.Machine.execXorI f s
  | .andn f => Sys2Proof.Machine.execAndn f s
  | .shl f => Sys2Proof.Machine.execShl f s
  | .shr f => Sys2Proof.Machine.execShr f s
  | .sra f => Sys2Proof.Machine.execSra f s
  | .shli f => Sys2Proof.Machine.execShli f s
  | .shri f => Sys2Proof.Machine.execShri f s
  | .srai f => Sys2Proof.Machine.execSrai f s
  | .popc f => Sys2Proof.Machine.execPopc f s
  | .clz f => Sys2Proof.Machine.execClz f s
  | .icmp f => Sys2Proof.Machine.execIcmp f s
  | .movl f => Sys2Proof.Machine.execMovl f s
  | .iaddw f => Sys2Proof.Machine.execIaddw f s
  | .fadd f => Sys2Proof.Machine.execFadd f s
  | .fsub f => Sys2Proof.Machine.execFsub f s
  | .fmul f => Sys2Proof.Machine.execFmul f s
  | .ffma f => Sys2Proof.Machine.execFfma f s
  | .fmin f => Sys2Proof.Machine.execFmin f s
  | .fmax f => Sys2Proof.Machine.execFmax f s
  | .fabs f => Sys2Proof.Machine.execFabs f s
  | .fneg f => Sys2Proof.Machine.execFneg f s
  | .fcmp f => Sys2Proof.Machine.execFcmp f s
  | .frcp f => Sys2Proof.Machine.execFrcp f s
  | .frsq f => Sys2Proof.Machine.execFrsq f s
  | .fsqrt f => Sys2Proof.Machine.execFsqrt f s
  | .fexp2 f => Sys2Proof.Machine.execFexp2 f s
  | .flog2 f => Sys2Proof.Machine.execFlog2 f s
  | .fsin f => Sys2Proof.Machine.execFsin f s
  | .fcos f => Sys2Proof.Machine.execFcos f s
  | .hadd f => Sys2Proof.Machine.execHadd f s
  | .hmul f => Sys2Proof.Machine.execHmul f s
  | .hfma f => Sys2Proof.Machine.execHfma f s
  | .badd f => Sys2Proof.Machine.execBadd f s
  | .bmul f => Sys2Proof.Machine.execBmul f s
  | .bfma f => Sys2Proof.Machine.execBfma f s
  | .icvf f => Sys2Proof.Machine.execIcvf f s
  | .fcvi f => Sys2Proof.Machine.execFcvi f s
  | .fcvh f => Sys2Proof.Machine.execFcvh f s
  | .hcvf f => Sys2Proof.Machine.execHcvf f s
  | .icvn f => Sys2Proof.Machine.execIcvn f s
  | .bpk f => Sys2Proof.Machine.execBpk f s
  | .bunpk f => Sys2Proof.Machine.execBunpk f s
  | .bpsel f => Sys2Proof.Machine.execBpsel f s
  | .bra f => Sys2Proof.Machine.execBra f s
  | .call f => Sys2Proof.Machine.execCall f s
  | .ret f => Sys2Proof.Machine.execRet f s
  | .jmprVector f => Sys2Proof.Machine.execJmprVector f s
  | .jmprUniform f => Sys2Proof.Machine.execJmprUniform f s
  | .callrVector f => Sys2Proof.Machine.execCallrVector f s
  | .callrUniform f => Sys2Proof.Machine.execCallrUniform f s
  | .join f => Sys2Proof.Machine.execJoin f s
  | .waitI f => Sys2Proof.Machine.execWaitI f s
  | .exitI f => Sys2Proof.Machine.execExitI f s
  | .plog f => Sys2Proof.Machine.execPlog f s
  | .pmovGet f => Sys2Proof.Machine.execPmovGet f s
  | .pmovSet f => Sys2Proof.Machine.execPmovSet f s
  | .srd f => Sys2Proof.Machine.execSrd f s
  | .nop f => Sys2Proof.Machine.execNop f s
  | .shfl f => Sys2Proof.Machine.execShfl f s
  | .vote f => Sys2Proof.Machine.execVote f s
  | .redi f => Sys2Proof.Machine.execRedi f s
  | .redf f => Sys2Proof.Machine.execRedf f s
  | .scani f => Sys2Proof.Machine.execScani f s
  | .qswp f => Sys2Proof.Machine.execQswp f s
  | .qbcast f => Sys2Proof.Machine.execQbcast f s
  | .qfill f => Sys2Proof.Machine.execQfill f s
  | .ld f => Sys2Proof.Machine.execLd f s
  | .lds f => Sys2Proof.Machine.execLds f s
  | .st f => Sys2Proof.Machine.execSt f s
  | .ldacq f => Sys2Proof.Machine.execLdacq f s
  | .strel f => Sys2Proof.Machine.execStrel f s
  | .ldsh f => Sys2Proof.Machine.execLdsh f s
  | .ldssh f => Sys2Proof.Machine.execLdssh f s
  | .stsh f => Sys2Proof.Machine.execStsh f s
  | .ldg f => Sys2Proof.Machine.execLdg f s
  | .stg f => Sys2Proof.Machine.execStg f s
  | .atom f => Sys2Proof.Machine.execAtom f s
  | .red f => Sys2Proof.Machine.execRed f s
  | .atsh f => Sys2Proof.Machine.execAtsh f s
  | .redsh f => Sys2Proof.Machine.execRedsh f s
  | .atg f => Sys2Proof.Machine.execAtg f s
  | .ldbc f => Sys2Proof.Machine.execLdbc f s
  | .pref f => Sys2Proof.Machine.execPref f s
  | .evict f => Sys2Proof.Machine.execEvict f s
  | .ldasy f => Sys2Proof.Machine.execLdasy f s
  | .gwaddr f => Sys2Proof.Machine.execGwaddr f s
  | .mldwTile f => Sys2Proof.Machine.execMldwTile f s
  | .mldwMem f => Sys2Proof.Machine.execMldwMem f s
  | .mma f => Sys2Proof.Machine.execMma f s
  | .mflip f => Sys2Proof.Machine.execMflip f s
  | .acpyReg f => Sys2Proof.Machine.execAcpyReg f s
  | .acpyTile f => Sys2Proof.Machine.execAcpyTile f s
  | .acpyMem f => Sys2Proof.Machine.execAcpyMem f s
  | .acpyStat f => Sys2Proof.Machine.execAcpyStat f s
  | .ackd f => Sys2Proof.Machine.execAckd f s
  | .azero f => Sys2Proof.Machine.execAzero f s
  | .tld f => Sys2Proof.Machine.execTld f s
  | .tst f => Sys2Proof.Machine.execTst f s
  | .tldsh f => Sys2Proof.Machine.execTldsh f s
  | .tstsh f => Sys2Proof.Machine.execTstsh f s
  | .tmovGet f => Sys2Proof.Machine.execTmovGet f s
  | .tmovPut f => Sys2Proof.Machine.execTmovPut f s
  | .mbmap f => Sys2Proof.Machine.execMbmap f s
  | .mwait f => Sys2Proof.Machine.execMwait f s
  | .mwaitRel f => Sys2Proof.Machine.execMwaitRel f s
  | .aset f => Sys2Proof.Machine.execAset f s
  | .qbind f => Sys2Proof.Machine.execQbind f s
  | .qwr f => Sys2Proof.Machine.execQwr f s
  | .qrd f => Sys2Proof.Machine.execQrd f s
  | .qstat f => Sys2Proof.Machine.execQstat f s
  | .sadd f => Sys2Proof.Machine.execSadd f s
  | .ssub f => Sys2Proof.Machine.execSsub f s
  | .smul f => Sys2Proof.Machine.execSmul f s
  | .smad f => Sys2Proof.Machine.execSmad f s
  | .smin f => Sys2Proof.Machine.execSmin f s
  | .smax f => Sys2Proof.Machine.execSmax f s
  | .sand f => Sys2Proof.Machine.execSand f s
  | .sor f => Sys2Proof.Machine.execSor f s
  | .sxor f => Sys2Proof.Machine.execSxor f s
  | .sshl f => Sys2Proof.Machine.execSshl f s
  | .sshr f => Sys2Proof.Machine.execSshr f s
  | .ssra f => Sys2Proof.Machine.execSsra f s
  | .scmp f => Sys2Proof.Machine.execScmp f s
  | .smovl f => Sys2Proof.Machine.execSmovl f s
  | .klog f => Sys2Proof.Machine.execKlog f s
  | .sbra f => Sys2Proof.Machine.execSbra f s
  | .scall f => Sys2Proof.Machine.execScall f s
  | .sret f => Sys2Proof.Machine.execSret f s
  | .ssr f => Sys2Proof.Machine.execSsr f s
  | .sget f => Sys2Proof.Machine.execSget f s
  | .sld f => Sys2Proof.Machine.execSld f s
  | .sst f => Sys2Proof.Machine.execSst f s
  | .satom f => Sys2Proof.Machine.execSatom f s
  | .sldsh f => Sys2Proof.Machine.execSldsh f s
  | .sstsh f => Sys2Proof.Machine.execSstsh f s
  | .satsh f => Sys2Proof.Machine.execSatsh f s
  | .fenceSc f => Sys2Proof.Machine.execFenceSc f s
  | .fenceRel f => Sys2Proof.Machine.execFenceRel f s
  | .fenceAcq f => Sys2Proof.Machine.execFenceAcq f s
  | .bar f => Sys2Proof.Machine.execBar f s
  | .barxInit f => Sys2Proof.Machine.execBarxInit f s
  | .barxExpect f => Sys2Proof.Machine.execBarxExpect f s
  | .barxArrive f => Sys2Proof.Machine.execBarxArrive f s
  | .barxArrexp f => Sys2Proof.Machine.execBarxArrexp f s
  | .barxInval f => Sys2Proof.Machine.execBarxInval f s
  | .barw f => Sys2Proof.Machine.execBarw f s
  | .sstep f => Sys2Proof.Machine.execSstep f s
  | .tlwait f => Sys2Proof.Machine.execTlwait f s
  | .gset f => Sys2Proof.Machine.execGset f s
  | .gsetClr f => Sys2Proof.Machine.execGsetClr f s
  | .sms f => Sys2Proof.Machine.execSms f s
  | .waitpred f => Sys2Proof.Machine.execWaitpred f s
  | .tlread f => Sys2Proof.Machine.execTlread f s
  | .cpy f => Sys2Proof.Machine.execCpy f s
  | .gath f => Sys2Proof.Machine.execGath f s
  | .scat f => Sys2Proof.Machine.execScat f s
  | .coll f => Sys2Proof.Machine.execColl f s
  | .vdec f => Sys2Proof.Machine.execVdec f s
  | .tdeclDecl f => Sys2Proof.Machine.execTdeclDecl f s
  | .tdeclFrz f => Sys2Proof.Machine.execTdeclFrz f s
  | .tdeclRet f => Sys2Proof.Machine.execTdeclRet f s
  | .enq f => Sys2Proof.Machine.execEnq f s
  | .enqw f => Sys2Proof.Machine.execEnqw f s
  | .trap f => Sys2Proof.Machine.execTrap f s
  | .brk f => Sys2Proof.Machine.execBrk f s
  | .swpt f => Sys2Proof.Machine.execSwpt f s
  | .yield f => Sys2Proof.Machine.execYield f s
  | .snop f => Sys2Proof.Machine.execSnop f s
  | .sleep f => Sys2Proof.Machine.execSleep f s
  | .mret f => Sys2Proof.Machine.execMret f s
  | .mretGrp f => Sys2Proof.Machine.execMretGrp f s
  | .mretRes f => Sys2Proof.Machine.execMretRes f s
  | .mretPc f => Sys2Proof.Machine.execMretPc f s
  | .msend f => Sys2Proof.Machine.execMsend f s
  | .mrecv f => Sys2Proof.Machine.execMrecv f s
  | .gsave f => Sys2Proof.Machine.execGsave f s
  | .gload f => Sys2Proof.Machine.execGload f s
  | .haltb f => Sys2Proof.Machine.execHaltb f s
  | .scan f => Sys2Proof.Machine.execScan f s
  | .ctbw f => Sys2Proof.Machine.execCtbw f s
  | .ctbiPage f => Sys2Proof.Machine.execCtbiPage f s
  | .ctbiAsid f => Sys2Proof.Machine.execCtbiAsid f s
  | .ctbiAll f => Sys2Proof.Machine.execCtbiAll f s
  | .wcfg f => Sys2Proof.Machine.execWcfg f s
  | .mcrr f => Sys2Proof.Machine.execMcrr f s
  | .mcrw f => Sys2Proof.Machine.execMcrw f s
  | .mpark f => Sys2Proof.Machine.execMpark f s
  | .gkill f => Sys2Proof.Machine.execGkill f s
  | .powerOn => Sys2Proof.Machine.execPowerOn s
  | .illegalOpcode word => Sys2Proof.Machine.execIllegalOpcode word s
  | .fetchFault code addr => Sys2Proof.Machine.execFetchFault code addr s
  | .loadResultReturn gid idx => Sys2Proof.Machine.execLoadResultReturn gid idx s
  | .accessFaultReturn gid => Sys2Proof.Machine.execAccessFaultReturn gid s
  | .ctbRefill cl asid va => Sys2Proof.Machine.execCtbRefill cl asid va s
  | .portWalkComplete die asid va => Sys2Proof.Machine.execPortWalkComplete die asid va s
  | .heldFaultAdmit die => Sys2Proof.Machine.execHeldFaultAdmit die s
  | .sideLogReplay cl sp => Sys2Proof.Machine.execSideLogReplay cl sp s
  | .parkedLoadReplay gid idx => Sys2Proof.Machine.execParkedLoadReplay gid idx s
  | .swapPairLine die => Sys2Proof.Machine.execSwapPairLine die s
  | .swapPairComplete die => Sys2Proof.Machine.execSwapPairComplete die s
  | .cacheEviction level cl asid line => Sys2Proof.Machine.execCacheEviction level cl asid line s
  | .leaseRenewal cl asid line => Sys2Proof.Machine.execLeaseRenewal cl asid line s
  | .forcedPublish cl asid line => Sys2Proof.Machine.execForcedPublish cl asid line s
  | .memoryScrub pa kind => Sys2Proof.Machine.execMemoryScrub pa kind s
  | .groupWake gid => Sys2Proof.Machine.execGroupWake gid s
  | .starvationSwap cl sp => Sys2Proof.Machine.execStarvationSwap cl sp s
  | .sleepExpiry gid => Sys2Proof.Machine.execSleepExpiry gid s
  | .mastTimerExpiry cl => Sys2Proof.Machine.execMastTimerExpiry cl s
  | .eventDelivery cl => Sys2Proof.Machine.execEventDelivery cl s
  | .engineCommandComplete own ctx num => Sys2Proof.Machine.execEngineCommandComplete own ctx num s
  | .engineFault own ctx num => Sys2Proof.Machine.execEngineFault own ctx num s
  | .enginePieceLanding own ctx num piece => Sys2Proof.Machine.execEnginePieceLanding own ctx num piece s
  | .ldasyPieceLanding cl idx => Sys2Proof.Machine.execLdasyPieceLanding cl idx s
  | .videoSampleDecoded lid ctx => Sys2Proof.Machine.execVideoSampleDecoded lid ctx s
  | .tileRowLanding gid idx => Sys2Proof.Machine.execTileRowLanding gid idx s
  | .matrixInstructionComplete gid => Sys2Proof.Machine.execMatrixInstructionComplete gid s
  | .variantSwitchRequest bid var => Sys2Proof.Machine.execVariantSwitchRequest bid var s
  | .variantReplacement bid => Sys2Proof.Machine.execVariantReplacement bid s
  | .switchRequestTimeout bid => Sys2Proof.Machine.execSwitchRequestTimeout bid s
  | .sliceBoundary bid => Sys2Proof.Machine.execSliceBoundary bid s
  | .blockRestore bid cl var => Sys2Proof.Machine.execBlockRestore bid cl var s
  | .preemption bid lid => Sys2Proof.Machine.execPreemption bid lid s
  | .blockSaveComplete bid => Sys2Proof.Machine.execBlockSaveComplete bid s
  | .groupHaltComplete gid => Sys2Proof.Machine.execGroupHaltComplete gid s
  | .gangPlacement lid queue cls => Sys2Proof.Machine.execGangPlacement lid queue cls s
  | .blockRetirement bid => Sys2Proof.Machine.execBlockRetirement bid s
  | .ringConsume fn ring => Sys2Proof.Machine.execRingConsume fn ring s
  | .launchStart lid => Sys2Proof.Machine.execLaunchStart lid s
  | .startReady lid rank gen => Sys2Proof.Machine.execStartReady lid rank gen s
  | .startMsg lid gen => Sys2Proof.Machine.execStartMsg lid gen s
  | .abortMsg lid gen => Sys2Proof.Machine.execAbortMsg lid gen s
  | .startBarrierTimeout lid => Sys2Proof.Machine.execStartBarrierTimeout lid s
  | .doneMsg lid rank retired nfail => Sys2Proof.Machine.execDoneMsg lid rank retired nfail s
  | .shadowCommit lid => Sys2Proof.Machine.execShadowCommit lid s
  | .launchCompletion lid => Sys2Proof.Machine.execLaunchCompletion lid s
  | .imageLoad fn addr size => Sys2Proof.Machine.execImageLoad fn addr size s
  | .errorKillTimeout bid => Sys2Proof.Machine.execErrorKillTimeout bid s
  | .replayRestart lid => Sys2Proof.Machine.execReplayRestart lid s
  | .fbbaseWrite die val => Sys2Proof.Machine.execFbbaseWrite die val s
  | .fbtailWrite die val => Sys2Proof.Machine.execFbtailWrite die val s
  | .resolveSuccess die seq => Sys2Proof.Machine.execResolveSuccess die seq s
  | .resolveFail die seq code => Sys2Proof.Machine.execResolveFail die seq code s
  | .victq die val => Sys2Proof.Machine.execVictq die val s
  | .eccpop die => Sys2Proof.Machine.execEccpop die s
  | .bpladd die val => Sys2Proof.Machine.execBpladd die val s
  | .asidbaseWrite die val => Sys2Proof.Machine.execAsidbaseWrite die val s
  | .invcmdDropPage die asid => Sys2Proof.Machine.execInvcmdDropPage die asid s
  | .invcmdDropAsid die asid => Sys2Proof.Machine.execInvcmdDropAsid die asid s
  | .invcmdDropAll die asid => Sys2Proof.Machine.execInvcmdDropAll die asid s
  | .invcmdWritebackRange die asid => Sys2Proof.Machine.execInvcmdWritebackRange die asid s
  | .invcmdComplete die => Sys2Proof.Machine.execInvcmdComplete die s
  | .msixTargetWrite cl vec => Sys2Proof.Machine.execMsixTargetWrite cl vec s
  | .apertureAccess addr wr len data => Sys2Proof.Machine.execApertureAccess addr wr len data s
  | .inboundMemoryRequest port addr wr len data => Sys2Proof.Machine.execInboundMemoryRequest port addr wr len data s
  | .transmitDescriptor port ring => Sys2Proof.Machine.execTransmitDescriptor port ring s
  | .frameReceive port fcserr data => Sys2Proof.Machine.execFrameReceive port fcserr data s
  | .createWorld fn => Sys2Proof.Machine.execCreateWorld fn s
  | .worldAttest fn => Sys2Proof.Machine.execWorldAttest fn s
  | .worldSession fn => Sys2Proof.Machine.execWorldSession fn s
  | .mkey fn => Sys2Proof.Machine.execMkey fn s
  | .sealinst fn => Sys2Proof.Machine.execSealinst fn s
  | .heartbeat fn => Sys2Proof.Machine.execHeartbeat fn s
  | .destroyWorld fn => Sys2Proof.Machine.execDestroyWorld fn s
  | .dbgunlock fn => Sys2Proof.Machine.execDbgunlock fn s
  | .dbglock fn => Sys2Proof.Machine.execDbglock fn s
  | .dread fn => Sys2Proof.Machine.execDread fn s
  | .heartbeatExpiry world => Sys2Proof.Machine.execHeartbeatExpiry world s
  | .functionLevelReset fn => Sys2Proof.Machine.execFunctionLevelReset fn s
  | .injectAccumulator die => Sys2Proof.Machine.execInjectAccumulator die s
  | .poisonMemoryLine die => Sys2Proof.Machine.execPoisonMemoryLine die s
  | .poisonScratchGranule die => Sys2Proof.Machine.execPoisonScratchGranule die s
  | .mapreqRetire die val => Sys2Proof.Machine.execMapreqRetire die val s
  | .shadowPoolWrite fn reg val => Sys2Proof.Machine.execShadowPoolWrite fn reg val s
  | .scanAbort cl => Sys2Proof.Machine.execScanAbort cl s
  | .scanComplete cl => Sys2Proof.Machine.execScanComplete cl s
  | .flitReceive link seq ack crc => Sys2Proof.Machine.execFlitReceive link seq ack crc s
  | .retryRequest link seq => Sys2Proof.Machine.execRetryRequest link seq s
  | .linkTrainingLoss link => Sys2Proof.Machine.execLinkTrainingLoss link s
  | .pauseOn link ch => Sys2Proof.Machine.execPauseOn link ch s
  | .pauseOff link ch => Sys2Proof.Machine.execPauseOff link ch s
  | .tailWrite fn ring val => Sys2Proof.Machine.execTailWrite fn ring val s
  | .rreset fn ring val => Sys2Proof.Machine.execRreset fn ring val s
  | .rbaseWrite fn ring val => Sys2Proof.Machine.execRbaseWrite fn ring val s
  | .winbaseWrite fn val => Sys2Proof.Machine.execWinbaseWrite fn val s
  | .fasidWrite fn val => Sys2Proof.Machine.execFasidWrite fn val s
  | .bar4Access fn off kind len data => Sys2Proof.Machine.execBar4Access fn off kind len data s
  | .callMessage cl => Sys2Proof.Machine.execCallMessage cl s
  | .replyMsg cl => Sys2Proof.Machine.execReplyMsg cl s
  | .faultfwd cl => Sys2Proof.Machine.execFaultfwd cl s
  | .readyMsg cl => Sys2Proof.Machine.execReadyMsg cl s
  | .bootDone cl => Sys2Proof.Machine.execBootDone cl s
  | .readyTimeout cl => Sys2Proof.Machine.execReadyTimeout cl s
  | .fread cl => Sys2Proof.Machine.execFread cl s
  | .fwrite cl => Sys2Proof.Machine.execFwrite cl s
  | .fsize cl => Sys2Proof.Machine.execFsize cl s
  | .sopen cl => Sys2Proof.Machine.execSopen cl s
  | .ssend cl => Sys2Proof.Machine.execSsend cl s
  | .srecv cl => Sys2Proof.Machine.execSrecv cl s
  | .sclose cl => Sys2Proof.Machine.execSclose cl s
  | .modrst val => Sys2Proof.Machine.execModrst val s
  | .powerWindow watts amps => Sys2Proof.Machine.execPowerWindow watts amps s
  | .plimitWrite val => Sys2Proof.Machine.execPlimitWrite val s
  | .ttripWrite val => Sys2Proof.Machine.execTtripWrite val s
  | .thermalTrip temp => Sys2Proof.Machine.execThermalTrip temp s
  | .overcurrent amps => Sys2Proof.Machine.execOvercurrent amps s
  | .registerWrite pa width val => Sys2Proof.Machine.execRegisterWrite pa width val s
  | .launchPacket fn addr data => Sys2Proof.Machine.execLaunchPacket fn addr data s
  | .refusal lid rank status => Sys2Proof.Machine.execRefusal lid rank status s
  | .linkUp link peer => Sys2Proof.Machine.execLinkUp link peer s
  | .ethernetLinkChange port up fec => Sys2Proof.Machine.execEthernetLinkChange port up fec s
  | .rootPortLinkChange port up rate width => Sys2Proof.Machine.execRootPortLinkChange port up rate width s
  | .priorityFlowControl port prio pause => Sys2Proof.Machine.execPriorityFlowControl port prio pause s
  | .powerLoss => Sys2Proof.Machine.execPowerLoss s
  | .mainmastStateError => Sys2Proof.Machine.execMainmastStateError s

end Sys2Proof.Machine
end

