-- ==== Sys2Proof/Machine/Schedule.lean ====
section
/-!
DEFINITION. Who issues (R122, R290), what comes first within one clk (R175, R201, R214, R242, R262, R295, R321, R351, R377, R397, R415, R432), and what
happens where the agenda says nothing (log entry 1): the default schedule.
-/
namespace Sys2Proof.Machine
open Sys2Proof

/-! ### The choice of the pipes (R122, R290) -/

/-- Whether an agent could issue now, as far as its own state goes. -/
def State.canIssue (s : State) : Agent → Bool
  | .nobody => false
  | .group gid pc => match find s.groups gid with | some g => s.mayIssue g pc && g.issued pc != 0#32 | none => false
  | .mast c => (s.mast c).mayRun

/-- The PCs of a group's paths that are not held. -/
def Group.paths (g : Group) : List DWord :=
  ((lanesOf g.live).filterMap fun l => if g.holdOf l == .free then some (g.pcOf l) else none).eraseDups

/-- Whether a path waits for the page of its fetch, which the fault unit has not brought (R441). -/
def State.fetchHeld (s : State) (g : Group) (pc : DWord) : Bool :=
  g.waitPc == pc && match g.waiting with | .fetch a va => s.pageMoves a va | _ => false

/-- The words that stand next for an agent, where its fetch yields any. -/
def State.peek (s : State) : Agent → Option (Nat × Nat)
  | .nobody => none
  | .group gid pc => (find s.groups gid).bind fun g => match (s.fetchGroup g pc).1 with | .words w x => some (w, x) | _ => none
  | .mast c => match (s.mastFetchWord c (s.mast c).pc.toNat).1 with | some (.ok w) => some (w, 0) | _ => none

/-- The paths of a group that it prefers: those whose lanes' PC is not their meeting register, or all where none is (R122). -/
def State.preferred (s : State) (g : Group) : List DWord :=
  let all := g.paths.filter fun p => s.mayIssue g p && !s.fetchHeld g p
  match all.filter fun p => (lanesOf (g.issued p)).any fun l => g.meetOf l != p with
  | [] => all
  | l => l

/-- The slot from which a pipe of a sub-partition last issued, and the clk after it; the pipes begin before slot 0. -/
def Cluster.pipeOf (k : Cluster) (sp pipe : Nat) : Nat × Nat := getD k.pipes (sp * 2 + pipe) (7, 0)

/-- Whether a slot has issued in this clk (R290). -/
def State.slotUsed (s : State) (c sp slot : Nat) : Bool :=
  [0, 1].any fun p => (s.cluster c).pipeOf sp p == (slot, s.clk + 1)

/-- Whether group a comes before group b at a pipe: it is older, or of the same age and next in the round (R290). -/
def Group.goesBefore (a b : Group) (last : Nat) : Bool :=
  let turn (g : Group) : Nat := (g.active.getD 0 + 7 - last) % 8
  decide (a.age < b.age) || (a.age = b.age && decide (turn a < turn b))

/-- Whether a pipe of its sub-partition takes a group's path in this clk (R290): nothing has issued there from the pipe or from the group, and no ready
group comes before it whose next instruction, whichever of its preferred paths it issues, belongs to the pipe. -/
def State.pipeTakes (s : State) (gid : Nat) (g : Group) (w : Nat) : Bool :=
  let pipe := if bit w 31 then 1 else 0
  let last := (s.cluster g.cluster).pipeOf g.sp pipe
  last.2 != s.clk + 1 && !s.slotUsed g.cluster g.sp (g.active.getD 0) &&
  !s.groups.any fun (e : Nat × Group) => e.1 != gid && e.2.residentAt g.cluster g.sp && e.2.phase == .aReady && e.2.goesBefore g last.1 &&
    !s.slotUsed g.cluster g.sp (e.2.active.getD 0) &&
    !(s.preferred e.2).isEmpty && (s.preferred e.2).all fun p => match s.peek (.group e.1 p) with | some x => bit x.1 31 == bit w 31 | none => false

/-- A pipe issues from a group's slot in this clk. -/
def State.pipeUsed (s : State) (g : Group) (w : Nat) : State :=
  s.updC g.cluster fun k => { k with pipes := put k.pipes (g.sp * 2 + if bit w 31 then 1 else 0) (g.active.getD 0, s.clk + 1) }

/-! ### What comes first within one clk -/

/-- Whether an instruction performs stores at their homes as it issues, or publishes (R262). -/
def storesAtHome : Instr → Bool
  | .st _ => true
  | .strel _ => true
  | .atom _ => true
  | .red _ => true
  | .sst _ => true
  | .satom _ => true
  | .evict _ => true
  | .fenceSc _ => true
  | .fenceRel _ => true
  | _ => false

/-- Whether an ordinary access of an instruction waits for a restored group's side-log count (R246). -/
def ordinary : Instr → Bool
  | .st f => f.cls.val = 0
  | .strel f => f.cls.val = 0
  | .sst f => f.cls.val = 0
  | .atom _ => true
  | .red _ => true
  | .satom _ => true
  | _ => false

/-- Whether an instruction gives a context a command (R214). -/
def entersContext : Instr → Bool
  | .cpy _ => true
  | .gath _ => true
  | .scat _ => true
  | .coll _ => true
  | .vdec _ => true
  | .tdeclDecl _ => true
  | .tdeclFrz _ => true
  | .tdeclRet _ => true
  | .enq _ => true
  | .enqw _ => true
  | _ => false

/-- The instruction that stands next for an agent. -/
def State.nextInstr (s : State) (a : Agent) : Option Instr :=
  (s.peek a).bind fun w => match decodeWords w.1 w.2 with | .ok i => some i | .error _ => none

/-- When within one clk a write to a device address takes place: a RESOLVE before the faults (R321) and TAIL before the ring's compare (R432); an aperture
write after a retired generation, an MSI-X vector after a delivery (R351), and RRESET after the entry that is being read (R432). -/
def regOrder (pa : Nat) : Option Bool :=
  match pageOf pa with
  | (.ms _, off) => if off = 0x38 then some true else none
  | (.ring _, off) => if off ≥ 0x400 then none else if off % 0x40 / 8 = 2 then some true else if off % 0x40 / 8 = 5 then some false else none
  | (.msix _ _, _) => some false
  | (.aperture, _) => some false
  | _ => none

/-- The device address that a mast core's next instruction stores to. -/
def State.mastAims (s : State) (c : Nat) (i : Instr) : Option Nat :=
  match i with
  | .sst f => (match s.mastPlace c (uniAddr ((s.mast c).sreg64 f.base) f.off).toNat (nbytes f.size) 1 with
    | .device pa => some pa
    | _ => none)
  | _ => none

/-- Whether a group that issues an instruction stays where it is, or gives up its slot, before the instruction has acted (R246, R258, R295). -/
def State.holdsIssue (s : State) (g : Group) (pc : DWord) (w : Nat) (i : Instr) : Bool :=
  swWaits (if bit w 30 then 1 else 0) g pc || g.holdsBack || (ordinary i && g.sideCount != 0) ||
  (match i with
  | .enqw f => (match s.ctx (s.lidOf g) (ctxNumber f 5 g.sreg) with | some x => decide (x.room ≤ x.items.length) | none => false)
  | _ => false)

/-- The classes of `tieKey`. -/
def tieClass (n : Nat) : Nat := n * 2 ^ 48

/-- Where a group's issue stands among the moves of its clk: commands by sub-partition and %group (R214, R242); stores by cluster (R262); a `qrd` behind the
pushes (R242); any other by cluster, sub-partition and active slot (R175, R295), `mwait.rel` first in its sub-partition (R201). -/
def State.tieIssue (s : State) (g : Group) (pc : DWord) (w : Option (Nat × Nat)) (i : Option Instr) : Nat :=
  let part := g.cluster * 2 ^ 16 + g.sp * 2 ^ 8
  let place := part + 1 + g.active.getD 0
  match w, i with
  | some w, some i =>
    if s.holdsIssue g pc w.1 i then tieClass 3 + place
    else if entersContext i then tieClass 4 + g.sp * 2 ^ 32 + g.num * 2 ^ 16 + g.cluster
    else if storesAtHome i then tieClass 5 + place
    else (match i with
    | .mwaitRel _ => tieClass 3 + part
    | .qrd _ => tieClass 7 + place
    | _ => tieClass 3 + place)
  | _, _ => tieClass 3 + place

/-- The cluster of a group. -/
def State.clusterOfGroup (s : State) (gid : Nat) : Nat := match find s.groups gid with | some g => g.cluster | none => 0

/-- Where the replay of a parked access stands: an atomic among the stores, a load among the issues (R262). -/
def State.tieReplay (s : State) (gid idx : Nat) : Nat :=
  let i := ((find s.groups gid).bind fun g => g.replay[idx]?).bind fun p => match decodeWords p.w0 p.w1 with | .ok i => some i | .error _ => none
  (if i.any storesAtHome then tieClass 5 else tieClass 3) + s.clusterOfGroup gid * 2 ^ 16

/-- The place of a move among those of one clk, as a number: what stands first is carried out first. 0: held faults take freed slots (R321).
1: what frees or settles something that others meet in that clk: a placement or a command of an enqueue context frees its entry, a receive its mailbox
entry, a launch's record ends a wait, TAIL moves, a block retires or is pre-empted, a compare ends, an entry is resolved, a commit begins, a world
expires (R38, R242, R295, R321, R351, R377, R397, R415, R432). 2: an error, a kill that it has earned (R397). 3: issues. 4: commands. 5: stores and
publications, which follow loads (R262). 6: everything else: a wake in the clk of a swap-out comes after it (R294), an engine piece after a group's store
(R262). 7: `qrd`. 8: sends, by the number of the party (R340, R351). 9: what reaches the module from its devices (R351, R432). -/
def State.tieKey (s : State) (m : Move) : Nat :=
  let aimed (pa other : Nat) : Nat := match regOrder pa with | some true => tieClass 1 | some false => tieClass 9 | none => other
  let receives (c : Nat) : Nat := match s.oldestMsg c with | some _ => tieClass 1 + c | none => tieClass 8 + c
  match m with
  | .issue _ .nobody => tieClass 6
  | .issue _ (.mast c) => (match s.nextInstr (.mast c) with
    | some (.mrecv _) => tieClass 1 + c
    | some (.msend _) => tieClass 8 + c
    | some i => (match s.mastAims c i with
      | some pa => aimed pa (tieClass 5 + c * 2 ^ 16)
      | none => (if storesAtHome i then tieClass 5 else tieClass 3) + c * 2 ^ 16)
    | none => tieClass 3 + c * 2 ^ 16)
  | .issue _ (.group gid pc) => (match find s.groups gid with
    | none => tieClass 3
    | some g => s.tieIssue g pc (s.peek (.group gid pc)) (s.nextInstr (.group gid pc)))
  | .event _ i => match i with
    | .heldFaultAdmit _ => 0
    | .gangPlacement _ _ _ => tieClass 1
    | .launchCompletion _ => tieClass 1
    | .blockRetirement _ => tieClass 1
    | .preemption _ _ => tieClass 1
    | .sliceBoundary _ => tieClass 1
    | .engineCommandComplete _ n _ => if n / 4096 = 5 then tieClass 1 else tieClass 6
    | .tailWrite _ _ _ => tieClass 1
    | .scanComplete _ => tieClass 1
    | .resolveSuccess _ _ => tieClass 1
    | .resolveFail _ _ _ => tieClass 1
    | .shadowCommit _ => tieClass 1
    | .heartbeatExpiry _ => tieClass 1
    | .replyMsg c => tieClass 1 + c
    | .callMessage c => tieClass 1 + c
    | .bootDone _ => tieClass 1 + 0x7FE
    | .faultfwd c => receives c
    | .readyMsg c => if (s.oldestMsg 0).isSome then tieClass 1 else tieClass 8 + c
    | .memoryScrub _ _ => tieClass 2
    | .errorKillTimeout _ => tieClass 2
    | .registerWrite pa _ _ => aimed pa (tieClass 6)
    | .parkedLoadReplay gid idx => s.tieReplay gid idx
    | .sideLogReplay c _ => tieClass 5 + c * 2 ^ 16
    | .cacheEviction _ c _ _ => tieClass 5 + c * 2 ^ 16
    | .forcedPublish c _ _ => tieClass 5 + c * 2 ^ 16
    | .matrixInstructionComplete gid => tieClass 5 + s.clusterOfGroup gid * 2 ^ 16
    | .fread c => tieClass 8 + c
    | .fwrite c => tieClass 8 + c
    | .fsize c => tieClass 8 + c
    | .sopen c => tieClass 8 + c
    | .ssend c => tieClass 8 + c
    | .srecv c => tieClass 8 + c
    | .sclose c => tieClass 8 + c
    | .rreset _ _ _ => tieClass 9
    | .msixTargetWrite _ _ => tieClass 9
    | .apertureAccess _ _ _ _ => tieClass 9
    | .inboundMemoryRequest _ _ _ _ _ => tieClass 9
    | .frameReceive _ _ _ => tieClass 9
    | .transmitDescriptor _ _ => tieClass 9
    | _ => tieClass 6

/-- A move without its clk. -/
def Move.now : Move → Move
  | .issue _ who => .issue 0 who
  | .event _ i => .event 0 i

/-- Whether a move follows the one before it in the same clk. -/
def Move.sameClk : Move → Bool
  | .issue dt _ => dt = 0
  | .event dt _ => dt = 0

/-- Of a move and those of the agenda that share its clk the one that comes first, and what is left of the agenda. -/
def State.firstOf (s : State) (m : Move) (rest : List Move) : Move × List Move :=
  match rest.takeWhile Move.sameClk with
  | [] => (m, rest)
  | more =>
    let all := m.now :: more
    let best := all.foldl (fun (b : Move) x => if s.tieKey x < s.tieKey b then x else b) m.now
    (best, all.erase best ++ rest.dropWhile Move.sameClk)

/-! ### The default schedule -/

/-- Whether a mast core issues, or asks again whether it may go on (R229, R406). -/
def Mast.turns (m : Mast) : Bool :=
  m.running && !m.stopped && match m.wait with | .nothing => true | .retry => true | .sleep _ => true | _ => false

/-- Who can issue: of each group the preferred paths that a pipe takes or that have no word yet; every mast core. -/
def State.issuers (s : State) : List Agent :=
  (s.groups.flatMap fun (e : Nat × Group) => ((s.preferred e.2).filter fun p => match s.peek (.group e.1 p) with
    | some w => s.pipeTakes e.1 e.2 w.1
    | none => true).map fun p => Agent.group e.1 p)
  ++ s.clusters.filterMap fun (e : Nat × Cluster) => if e.2.mast.turns then some (Agent.mast e.1) else none

/-- The default schedule (log entry 1): the issuers and the rest of the module take turns by `%clk`. -/
def State.pick (s : State) : Agent :=
  let l := s.issuers
  l.getD (s.clk % (l.length + 1)) .nobody

/-- The events of a group that the default schedule offers. -/
def Group.chores (g : Group) (gid clk : Nat) : List Instr :=
  (if g.pending.isEmpty then [] else [.loadResultReturn gid 0])
  ++ (if g.pipe.isEmpty then [] else [.matrixInstructionComplete gid])
  ++ (if g.fills.isEmpty then [] else [.tileRowLanding gid 0])
  ++ (if g.replay.isEmpty then [] else [.parkedLoadReplay gid 0])
  ++ (if g.late.isEmpty then [] else [.accessFaultReturn gid])
  ++ (match g.waiting with
    | .nothing => []
    | .fetch _ _ => []
    | .sleep t => if t ≤ clk then [.sleepExpiry gid] else []
    | _ => [.groupWake gid])

/-- The piece numbers of element i of a gather or scatter (R221). -/
def Cmd.elemPieces (c : Cmd) (i : Nat) : List Nat :=
  match find c.taken i with
  | none => [i * c.stride]
  | some T => (List.range (chunkCount (c.elemDst i T) c.imm)).map fun j => i * c.stride + j

/-- The piece that the default schedule lets a command land next: the first that has not landed. -/
def Cmd.nextPiece (c : Cmd) : Nat :=
  if c.op = 0x25 ∨ c.op = 0x26 then
    ((List.range (min c.amount (c.taken.length + 1))).findSome? fun i => (c.elemPieces i).find? fun p => !c.landed.contains p).getD 0
  else c.landed.length

/-- The events of a context's queue head that the default schedule offers. -/
def Ctx.chores (x : Ctx) (own n : Nat) : List Instr :=
  match x.cmds with
  | [] => []
  | c :: _ =>
    if c.failed.isSome then [.engineFault own n c.num]
    else if c.op = 0x28 then [.videoSampleDecoded own n, .engineCommandComplete own n c.num]
    else [.enginePieceLanding own n c.num c.nextPiece, .engineCommandComplete own n c.num]

/-- The events that the default schedule offers: each happens only where its own conditions hold. -/
def State.chores (s : State) : List Instr :=
  (s.groups.flatMap fun (e : Nat × Group) => e.2.chores e.1 s.clk)
  ++ (s.clusters.flatMap fun (e : Nat × Cluster) =>
    (if e.2.pieces.isEmpty then [] else [Instr.ldasyPieceLanding e.1 0])
    ++ (e.2.sideLogs.map fun (l : Nat × List SideLog) => Instr.sideLogReplay e.1 l.1)
    ++ (if e.2.mast.ie && e.2.mast.running then [Instr.eventDelivery e.1] else [])
    ++ (match e.2.mast.wait with | .halt l => l.map fun gid => Instr.groupHaltComplete gid | _ => [])
    ++ e.2.mast.ctxs.flatMap fun (x : Nat × Ctx) => x.2.chores (2 ^ 40 + e.1) x.1)
  ++ (s.dies.flatMap fun (e : Nat × Die) => if e.2.swap.isSome then [Instr.swapPairLine e.1, Instr.swapPairComplete e.1] else [])
  ++ (s.blocks.flatMap fun (e : Nat × Block) =>
    (match e.2.phase with
    | .resident => [Instr.blockRetirement e.1]
    | .saved _ => [Instr.blockRestore e.1 e.2.cluster e.2.variant]
    | .gone => if (match find s.launches e.2.lid with | some l => (find l.gangs e.2.gang).isSome | none => false) then [Instr.blockRetirement e.1] else [])
    ++ (if e.2.saving.isSome then [Instr.blockSaveComplete e.1] else []))
  ++ (s.launches.flatMap fun (e : Nat × Launch) =>
    (e.2.ctxs.flatMap fun (x : Nat × Ctx) => x.2.chores e.1 x.1)
    ++ (if e.2.phase = .running then [15, 14, 0, 1, 2, 3].map fun q => Instr.gangPlacement e.1 q [] else [])
    ++ (if e.2.phase = .admitted then [Instr.launchStart e.1] else []))
  ++ s.fns.flatMap fun (e : Nat × Fn) => (e.2.rings.map fun (r : Nat × Ring) => Instr.ringConsume e.1 r.1)
    ++ (e.2.packets.map fun p => Instr.ringConsume e.1 p.1)

/-- What the default schedule lets happen in a clk in which nobody issues: an event, the end of a launch (its commit, its record), its replay, the kill of
a struck gang, the teardown of a world. -/
inductive Chore where
  | event (i : Instr)
  | endOf (lid : Nat)
  | replay (lid : Nat)
  | kill (bid : Nat)
  | tear (w : Nat)
  deriving DecidableEq, Repr

/-- The choice of the default schedule. -/
def State.housekeeping (s : State) : Option Chore :=
  let l := s.chores.map Chore.event ++
    ((s.launches.filter fun (e : Nat × Launch) => e.2.phase = .running || e.2.phase = .committing).map fun (e : Nat × Launch) => Chore.endOf e.1) ++
    ((s.launches.filter fun (e : Nat × Launch) => e.2.replaying).map fun (e : Nat × Launch) => Chore.replay e.1) ++
    ((s.blocks.filter fun (e : Nat × Block) => e.2.struck.isSome).map fun (e : Nat × Block) => Chore.kill e.1) ++
    (s.worlds.filter fun (e : Nat × World) => e.2.ending).map fun (e : Nat × World) => Chore.tear e.1
  l[(s.clk / (s.issuers.length + 1)) % l.length]?

end Sys2Proof.Machine
end

