-- ==== Sys2Proof/Machine/Front.lean ====
section
/-!
DEFINITION. Issuing for an agent: fetching its next word, decoding it, running it; the events that a mast core takes between instructions.
-/
namespace Sys2Proof.Machine
open Sys2Proof

/-- Runs a fetched instruction for the current agent, or gives a word that does not decode its fate (R59). -/
def runWords (s : State) (w x : Nat) : Out :=
  match decodeWords w x with
  | .ok i => exec i s
  | .error .illegalOpcode => exec (.illegalOpcode w) s
  | .error .reservedField => exec (.illegalOpcode (w + 2 ^ 32)) s

/-- A fetch that a page delays (R441): the lanes at the path's PC wait for the page; its access joins the page's fault entry once. -/
def State.delayFetch (s1 : State) (gid : Nat) (g : Group) (pc : DWord) (va : Nat) : State :=
  s1.updG gid fun x => { x with phase := .aStall, waiting := .fetch (canonAsid (s1.asidOf g) va) va, waitPc := pc }

/-- Whether a group stands before the instruction at pc as before, which has not acted: it stalls there, or is parked until it may (R162, R246, R289). -/
def Group.stays (g : Group) (pc : DWord) : Bool :=
  g.waitPc == pc && (g.phase == .aStall || ((g.phase == .aPark || g.phase == .pPark) &&
    match g.waiting with | .results => true | .engine => true | .sideLog => true | .replayRoom => true | .room _ => true | _ => false))

/-- A pipe has issued an instruction of group g, unless it stayed where it was (R290). -/
def Group.tookPipe (g : Group) (gid : Nat) (pc : DWord) (w : Nat) (o : Out) : Out :=
  match o with
  | .next t => .next (if (find t.groups gid).any fun x => x.stays pc then t else t.pipeUsed g w)
  | o => o

/-- Issues for a group's path, where a pipe takes it (R290) and its page is not on the way. A call or return that waits for its spill has issued already
(R120). -/
def issueGroup (s : State) (gid : Nat) (pc : DWord) : Out :=
  match find s.groups gid with
  | none => .next s
  | some g =>
    if !s.canIssue (.group gid pc) || s.fetchHeld g pc then .next s
    else
      match s.fetchGroup g pc with
      | (.words w x, s1) =>
        if g.spilling.contains pc then runWords s1 w x
        else if s.pipeTakes gid g w then g.tookPipe gid pc w (runWords s1 w x) else .next s
      | (.fault code addr detail, s1) => exec (.fetchFault (code + 256 * detail) addr) s1
      | (.delayed va, s1) => .next (s1.delayFetch gid g pc va)

/-- Fetches and runs the instruction at a mast core's PC. One that begins in private SRAM and passes its end faults there (R322). -/
def runMast (s : State) (c : Nat) : Out :=
  let m := s.mast c
  match s.mastFetchWord c m.pc.toNat with
  | (none, _) => .fault .reservedPhysicalAddress
  | (some (.error (code, addr)), s1) => exec (.fetchFault code addr) s1
  | (some (.ok w), s1) =>
    if isTwoWord w then
      if m.pc.toNat < 0x40000 ∧ 0x40000 ≤ m.pc.toNat + 4 then exec (.fetchFault 0x10 0x40000) s1 else
      match s1.mastFetchWord c (m.pc.toNat + 4) with
      | (none, _) => .fault .reservedPhysicalAddress
      | (some (.error (code, addr)), s2) => exec (.fetchFault code addr) s2
      | (some (.ok x), s2) => runWords s2 w x
    else runWords s1 w 0

/-- Whether an event is delivered before a mast core's next instruction (R326). -/
def State.eventDue (s : State) (c : Nat) : Bool := (s.mast c).ie && decide ((s.mast c).depth < 15) && s.nextEvent c != .none

/-- Whether a sleeping mast core goes on (R229): an event pending with IE = 1, MTIME reached, or the interval over. -/
def State.awake (s : State) (c : Nat) (until_ : Option Nat) : Bool :=
  let m := s.mast c
  (m.ie && s.nextEvent c != .none) || (m.mtime != 0#32 && decide (m.mtime.toNat ≤ s.clk)) || (match until_ with | some t => decide (t ≤ s.clk) | none => false)

/-- Issues for a mast core: an event that may be delivered comes first (R326); an instruction that stalls in place issues again, events
wait for it (R406); one that waits for another agent goes on by that agent's event. -/
def issueMast (s : State) (c : Nat) : Out :=
  let m := s.mast c
  let go (s : State) : State := s.updM c fun m => { m with wait := .nothing }
  if !m.running || m.stopped then .next s
  else match m.wait with
    | .nothing => if s.eventDue c then exec (.eventDelivery c) s else runMast s c
    | .retry => runMast (go s) c
    | .sleep t => if !s.awake c t then .next s else if s.eventDue c then exec (.eventDelivery c) (go s) else runMast (go s) c
    | _ => .next s

/-- Issues for an agent. -/
def issueAs (s : State) (a : Agent) : Out :=
  match a with
  | .nobody => match s.housekeeping with
    | some (.event i) => exec i s
    | some (.endOf lid) => execLaunchCompletion lid (after (execShadowCommit lid s) s)
    | some (.replay lid) => execReplayRestart lid s
    | some (.kill bid) => execErrorKillTimeout bid s
    | some (.tear w) => execHeartbeatExpiry w s
    | none => .next s
  | .group gid pc => issueGroup { s with cur := .group gid pc } gid pc
  | .mast c => issueMast { s with cur := .mast c } c

end Sys2Proof.Machine
end

