-- ==== Sys2Proof/Machine/Step.lean ====
section
/-!
DEFINITION. One step of the machine. The agenda (plain data of the state) says which agent moves next and after how many clk; where it is
empty the default schedule decides. An issue fetches, decodes and runs ONE instruction of one path of a group or of a mast core; an
event is one step of another agent.
-/
namespace Sys2Proof.Machine
open Sys2Proof

/-- The clk that pass before a move. -/
def Move.dt : Move → Nat
  | .issue dt _ => dt
  | .event dt _ => dt

/-- Carries out a move at the present clk. -/
def runMove (s : State) : Move → Out
  | .issue _ who => issueAs s who
  | .event _ i => exec i s

/-- One step (log entry 1): the agenda's next move, of several in one clk the one that comes first, else power-on of a module that has not booted,
else the default schedule. -/
def step (s : State) : Out :=
  match s.agenda with
  | m :: rest =>
    let s1 := s.advance m.dt
    let r := s1.firstOf m rest
    runMove { s1 with agenda := r.2 } r.1
  | [] =>
    if s.booted then
      let s1 := s.advance 1
      issueAs s1 s1.pick
    else exec .powerOn s

/-- The state in which the very next step fetches and runs the instruction whose words are w (log entry 2): a one-word uniform privileged
opcode for a released mast core with the word in its SRAM, every other for a group of 32 lanes with the words at its PC. -/
def State.withFetchWord (s : State) (nbits w : Nat) : State :=
  let bs := toBytes 16 (w % 2 ^ nbits)
  if bit w 31 && decide (0x32 ≤ bits w 29 23) && decide (bits w 29 23 ≤ 0x3F) then
    let s1 := s.updM 0 fun m => { m.wrBytes 0x1000 (bs.take 8) with pc := 0x1000#64, running := true, stopped := false, priv := true, ie := false, wait := .nothing }
    { s1 with booted := true, agenda := [.issue 1 (.mast 0)], cur := .mast 0 }
  else
    let s1 := s.placeCode 0 0 0x10000 bs
    { s1 with booted := true, agenda := [.issue 1 (.group 32 0x10000)], launches := put s1.launches 1 fetchLaunch
              blocks := put s1.blocks 1 fetchBlock, groups := put s1.groups 32 fetchGroupInit, cur := .group 32 0x10000#64 }

end Sys2Proof.Machine
end

