-- ==== Sys2Proof/Safety.lean ====
section
/-!
DEFINITION. The vocabulary of the claims: what a safe step is, when an agent may issue, and what each shape of instruction leaves of a
group or a mast core.
-/
namespace Sys2Proof.Machine
open Sys2Proof

/-- A step that neither faults nor is refused. -/
def stepSafe (s : State) : Prop := ∃ t, step s = .next t

/-- The memory of a state is in canonical form. -/
def State.canonical (s : State) : Prop := Memory.wf s.mem = true

/-! ### Groups -/

/-- Group g, listed under gid, may issue an instruction with switch bit sw on its path at pc (R54, R98, R289): it is the current agent, some
lane is at pc, nothing that the switch marker waits for is outstanding, and no entry of its storage is poisoned (R378). -/
structure Issues (s : State) (gid : Nat) (pc : DWord) (g : Group) (sw : Fin 2) : Prop where
  cur : s.cur = .group gid pc
  here : find s.groups gid = some g
  lanes : g.issued pc ≠ 0#32
  may : s.mayIssue g pc = true
  free : swWaits sw g pc = false
  clean : g.errs = []

/-- The state with group gid replaced by g'. -/
def State.setG (s : State) (gid : Nat) (g' : Group) : State := s.updG gid fun _ => g'

/-- A group that issues its path at pc is ready in its active slot (R289); a fetch of another path that a page delays goes on waiting. -/
def Group.ready (g : Group) (pc : DWord) : Group :=
  if g.phase = .aStall ∧ (g.waitPc = pc ∨ g.issued g.waitPc = 0#32) then { g with phase := .aReady, waiting := .nothing } else g

/-- The group on which a lane-set instruction acts: ready, and its transient results one instruction older (R56). -/
def Group.begun (g : Group) (pc : DWord) : Group := (g.ready pc).tickTransient

/-- The executing lanes (R98): issued lanes whose guard predicate is true. -/
def Group.executing (g : Group) (pc : DWord) (gd : Fin 8) : Word := g.issued pc &&& g.preds gd.val

/-- The lanes of I are at pc', the others where they were (R98). -/
def Group.Advanced (g g' : Group) (I : Word) (pc' : DWord) : Prop :=
  ∀ l < 32, g'.pcOf l = if I.getLsbD l then pc' else g.pcOf l

/-- What a lane-set instruction with a 32-bit vector result leaves of its group (R56, R98, R99): the issued lanes advance, the executing
lanes' register d holds `val` (with T = 1 only the bypass network does), and nothing else changes. -/
structure WritesVec (g g' : Group) (pc : DWord) (I E : Word) (pc' : DWord) (t : Fin 2) (d : Nat) (val : Nat → Word) : Prop where
  rest : g' = { (g.ready pc) with v := g'.v, pc := g'.pc, transient := g'.transient }
  pcs : g.Advanced g' I pc'
  file : ∀ l < 32, ∀ r < 64, g'.vreg l r = if t = 0 ∧ E.getLsbD l = true ∧ r = d then val l else g.vreg l r
  bypass : t = 0 → g'.transient = (g.begun pc).transient
  seen : t = 1 → ∀ l < 32, ∀ r < 64, g'.readV l r = if E.getLsbD l = true ∧ r = d then val l else (g.begun pc).readV l r

/-- As `WritesVec` for a result in the register pair d, d + 1 (R10). -/
structure WritesPair (g g' : Group) (pc : DWord) (I E : Word) (pc' : DWord) (t : Fin 2) (d : Nat) (val : Nat → DWord) : Prop where
  rest : g' = { (g.ready pc) with v := g'.v, pc := g'.pc, transient := g'.transient }
  pcs : g.Advanced g' I pc'
  file : ∀ l < 32, ∀ r < 64, g'.vreg l r =
    if t = 0 ∧ E.getLsbD l = true ∧ r = d then (val l).setWidth 32
    else if t = 0 ∧ E.getLsbD l = true ∧ r = d + 1 then ((val l) >>> 32).setWidth 32 else g.vreg l r
  bypass : t = 0 → g'.transient = (g.begun pc).transient
  seen : t = 1 → ∀ l < 32, ∀ r < 64, g'.readV l r =
    if E.getLsbD l = true ∧ r = d then (val l).setWidth 32
    else if E.getLsbD l = true ∧ r = d + 1 then ((val l) >>> 32).setWidth 32 else (g.begun pc).readV l r

/-- What an instruction with a lane predicate result leaves of its group (R11, R98, R104): the executing lanes' bit of p[n] is `val`, p7 is
discarded, and nothing else changes. -/
structure WritesPred (g g' : Group) (pc : DWord) (I E : Word) (pc' : DWord) (n : Nat) (val : Nat → Bool) : Prop where
  rest : g' = { (g.begun pc) with p := g'.p, pc := g'.pc }
  pcs : g.Advanced g' I pc'
  file : ∀ l < 32, ∀ m < 8, (g'.preds m).getLsbD l = if E.getLsbD l = true ∧ m = n ∧ n ≠ 7 then val l else (g.preds m).getLsbD l

/-- Instruction i completes with a 32-bit vector result: for every group that may issue it, with its words free of reserved uses, its
registers within the budget and its format slots accepted, it answers the next state in which that group alone changes, as `WritesVec`
says. -/
def CompletesVec (i : Instr) (sw : Fin 2) (gd : Fin 8) (len : Nat) (u : Uses) (t : Fin 2) (d : Nat)
    (slots : State → Group → Prop) (val : State → Group → Nat → Word) : Prop :=
  ∀ (s : State) (gid : Nat) (pc : DWord) (g : Group), Issues s gid pc g sw → i.wf = true → u.within (s.variantOf g) = true → slots s g →
    ∃ g', exec i s = .next (s.setG gid g') ∧
      WritesVec g g' pc (g.issued pc) (g.executing pc gd) (asPc (pc + BitVec.ofNat 64 len)) t d (val s g)

/-- As `CompletesVec` for a register pair. -/
def CompletesPair (i : Instr) (sw : Fin 2) (gd : Fin 8) (len : Nat) (u : Uses) (t : Fin 2) (d : Nat)
    (slots : State → Group → Prop) (val : State → Group → Nat → DWord) : Prop :=
  ∀ (s : State) (gid : Nat) (pc : DWord) (g : Group), Issues s gid pc g sw → i.wf = true → u.within (s.variantOf g) = true → slots s g →
    ∃ g', exec i s = .next (s.setG gid g') ∧
      WritesPair g g' pc (g.issued pc) (g.executing pc gd) (asPc (pc + BitVec.ofNat 64 len)) t d (val s g)

/-- As `CompletesVec` for a lane predicate. -/
def CompletesPred (i : Instr) (sw : Fin 2) (gd : Fin 8) (u : Uses) (n : Nat) (val : Group → Nat → Bool) : Prop :=
  ∀ (s : State) (gid : Nat) (pc : DWord) (g : Group), Issues s gid pc g sw → i.wf = true → u.within (s.variantOf g) = true →
    ∃ g', exec i s = .next (s.setG gid g') ∧
      WritesPred g g' pc (g.issued pc) (g.executing pc gd) (asPc (pc + 4#64)) n (val g)

/-- An R-form instruction completes for every operand form (R43, R99): `val x y d` is the result of lane l from its a operand, its b operand
of either file and the old value of d. -/
def CompletesR (i : RForm → Instr) (val : Word → Word → Word → Word) : Prop :=
  ∀ f : RForm, CompletesVec (i f) f.sw f.g 4 (rUses f.d f.a f.e f.b) f.t f.d (fun _ _ => True)
    fun _ g l => val (g.readV l f.a) (g.opb f.e f.b l) (g.readV l f.d)

/-- A unary R-form instruction completes for every operand form. -/
def CompletesR1 (i : R1Form → Instr) (val : Word → Word) : Prop :=
  ∀ f : R1Form, CompletesVec (i f) f.sw f.g 4 { v := [f.d, f.a] } f.t f.d (fun _ _ => True) fun _ g l => val (g.readV l f.a)

/-- An I6-form instruction completes for every operand form. -/
def CompletesI6 (i : I6Form → Instr) (val : Word → Nat → Word) : Prop :=
  ∀ f : I6Form, CompletesVec (i f) f.sw f.g 4 { v := [f.d, f.a] } f.t f.d (fun _ _ => True) fun _ g l => val (g.readV l f.a) f.i

/-- A P-form compare completes for every operand form. -/
def CompletesP (i : PForm → Instr) (val : Nat → Word → Word → Bool) : Prop :=
  ∀ f : PForm, CompletesPred (i f) f.sw f.g (if f.e = 1 then { v := [f.a], s := [f.b] } else { v := [f.a, f.b] }) f.p
    fun g l => val f.c (g.readV l f.a) (g.opb f.e f.b l)

/-- Group g may issue a lane-set instruction and meets no fault at issue (R59, R60). -/
structure Ready (s : State) (gid : Nat) (pc : DWord) (g : Group) (i : Instr) (sw : Fin 2) (u : Uses) : Prop extends Issues s gid pc g sw where
  formed : i.wf = true
  budget : u.within (s.variantOf g) = true

/-- Lane l's bit of a mask. -/
abbrev has (m : Word) (l : Nat) : Prop := m.getLsbD l = true

/-- l is the lowest lane of m. -/
def lowestIn (m : Word) (l : Nat) : Prop := has m l ∧ ∀ k < l, ¬ has m k

/-- Every lane of I but those of E goes on at `next`, each lane l of E at `target l`, the others stay (R117). -/
def Group.Branched (g g' : Group) (I E : Word) (next : DWord) (target : Nat → DWord) : Prop :=
  ∀ l < 32, (has E l → g'.pcOf l = target l) ∧ (¬ has E l → has I l → g'.pcOf l = next) ∧ (¬ has E l → ¬ has I l → g'.pcOf l = g.pcOf l)

/-- A register-indirect target that R119 accepts: bits [1:0] and [63:56] are zero. -/
def goodTarget (x : DWord) : Prop := x.toNat % 4 = 0 ∧ x.toNat < 2 ^ 56

/-! ### Uniform instructions -/

/-- Group g may issue a uniform-set instruction, meets no fault at issue, its guard is on and some issued lane is no helper (R202). -/
structure ReadyUni (s : State) (gid : Nat) (pc : DWord) (g : Group) (i : Instr) (sw : Fin 2) (gd : Fin 8) (u : Uses) : Prop
    extends Ready s gid pc g i sw u where
  guard : predOf g.k gd.val = true
  solid : g.issued pc &&& ~~~g.helper ≠ 0#32

/-- Mast core c, in state m, runs a uniform-set instruction whose guard is on (R203). -/
structure RunsMast (s : State) (c : Nat) (m : Mast) (i : Instr) (gd : Fin 8) : Prop where
  cur : s.cur = .mast c
  core : s.mast c = m
  may : m.mayRun = true
  formed : i.wf = true
  guard : predOf m.k gd.val = true
  clean : m.bad = []

/-- The state with mast core c replaced by m'. -/
def State.setM (s : State) (c : Nat) (m' : Mast) : State := s.updM c fun _ => m'

/-- Uniform registers d, d + 1, … of a group hold `ws`, the others what they held. -/
def Group.UniRun (g g' : Group) (d : Nat) (ws : List Word) : Prop :=
  ∀ r < 64, g'.sreg r = if d ≤ r ∧ r < d + ws.length then ws.getD (r - d) 0#32 else g.sreg r

/-- The same for a mast core. -/
def Mast.UniRun (m m' : Mast) (d : Nat) (ws : List Word) : Prop :=
  ∀ r < 64, m'.sreg r = if d ≤ r ∧ r < d + ws.length then ws.getD (r - d) 0#32 else m.sreg r

/-- Mast core c, in state m, runs a uniform-set instruction whose guard is off (R203). -/
structure SkipsMast (s : State) (c : Nat) (m : Mast) (i : Instr) (gd : Fin 8) : Prop where
  cur : s.cur = .mast c
  core : s.mast c = m
  may : m.mayRun = true
  formed : i.wf = true
  guard : predOf m.k gd.val = false

/-- With its guard off, or with helper lanes only, a uniform instruction moves the issued lanes, or the mast core, past it and does nothing
else (R202, R203). -/
def SkipsWithoutEffect (i : Instr) (sw : Fin 2) (gd : Fin 8) (len : Nat) (u : Uses) : Prop :=
  (∀ (s : State) (gid : Nat) (pc : DWord) (g : Group), Ready s gid pc g i sw u →
    (predOf g.k gd.val = false ∨ g.issued pc &&& ~~~g.helper = 0#32) →
    ∃ g', exec i s = .next (s.setG gid g') ∧ g' = { (g.ready pc) with pc := g'.pc } ∧
      g.Advanced g' (g.issued pc) (asPc (pc + BitVec.ofNat 64 len))) ∧
  (∀ (s : State) (c : Nat) (m : Mast), SkipsMast s c m i gd →
    exec i s = .next (s.setM c { m with pc := m.pc + BitVec.ofNat 64 len }))

/-- A uniform instruction with a register result completes on a group and on a mast core (R202-R204): every issued lane advances, registers
d, d + 1, … take the words that `val` computes from the registers, and nothing else changes; with its guard off it only advances. -/
def CompletesUni (i : Instr) (sw : Fin 2) (gd : Fin 8) (len : Nat) (u : Uses) (d : Nat) (val : (Nat → Word) → List Word) : Prop :=
  SkipsWithoutEffect i sw gd len u ∧
  (∀ (s : State) (gid : Nat) (pc : DWord) (g : Group), ReadyUni s gid pc g i sw gd u →
    ∃ g', exec i s = .next (s.setG gid g') ∧ g' = { (g.ready pc) with s := g'.s, pc := g'.pc } ∧
      g.Advanced g' (g.issued pc) (asPc (pc + BitVec.ofNat 64 len)) ∧ g.UniRun g' d (val g.sreg)) ∧
  (∀ (s : State) (c : Nat) (m : Mast), RunsMast s c m i gd →
    ∃ m', exec i s = .next (s.setM c m') ∧ m' = { m with s := m'.s, pc := m.pc + BitVec.ofNat 64 len } ∧ m.UniRun m' d (val m.sreg))

/-- The words of a UR-form result, from 32-bit or 64-bit operations (R204). -/
def CompletesUr (i : UrForm → Instr) (op32 : Word → Word → Word → Word) (op64 : DWord → DWord → DWord → DWord) : Prop :=
  ∀ f : UrForm, CompletesUni (i f) f.sw f.g 4 (urUses f) f.d fun rd =>
    if f.w = 1 then
      let z := op64 (pair (rd f.a) (rd (f.a + 1))) (if f.i = 1 then BitVec.ofNat 64 f.b else pair (rd f.b) (rd (f.b + 1))) (pair (rd f.d) (rd (f.d + 1)))
      [z.setWidth 32, (z >>> 32).setWidth 32]
    else [op32 (rd f.a) (if f.i = 1 then BitVec.ofNat 32 f.b else rd f.b) (rd f.d)]

/-- A uniform instruction that writes one uniform predicate bit completes on a group and on a mast core (R11, R205); with its guard off it
only advances. -/
def CompletesK (i : Instr) (sw : Fin 2) (gd : Fin 8) (u : Uses) (n : Nat) (val : (Nat → Word) → Word → Bool) : Prop :=
  SkipsWithoutEffect i sw gd 4 u ∧
  (∀ (s : State) (gid : Nat) (pc : DWord) (g : Group), ReadyUni s gid pc g i sw gd u →
    ∃ g', exec i s = .next (s.setG gid g') ∧ g' = { (g.ready pc) with k := g'.k, pc := g'.pc } ∧
      g.Advanced g' (g.issued pc) (asPc (pc + 4#64)) ∧
      ∀ j < 8, predOf g'.k j = if j = n ∧ n ≠ 7 then val g.sreg g.k else predOf g.k j) ∧
  (∀ (s : State) (c : Nat) (m : Mast), RunsMast s c m i gd →
    ∃ m', exec i s = .next (s.setM c m') ∧ m' = { m with k := m'.k, pc := m.pc + 4#64 } ∧
      ∀ j < 8, predOf m'.k j = if j = n ∧ n ≠ 7 then val m.sreg m.k else predOf m.k j)

/-! ### Memory accesses -/

/-- The issue of an instruction of `len` bytes for group g at pc under lane guard gd. -/
def Group.issueAt (g : Group) (gid : Nat) (pc : DWord) (len : Nat) (gd : Fin 8) : Issue :=
  { gid := gid, g := g, pc := pc, len := len, I := g.issued pc, E := g.executing pc gd }

/-- The lanes of `ls` perform an access one after another (R142), each answering `v l`; t is the state after the last one. -/
def Performs (op : State → Nat → Acc × State) (s : State) (ls : List Nat) (v : Nat → List Byte) (t : State) : Prop :=
  match ls with
  | [] => t = s
  | l :: r => ∃ s1, op s l = (.ok (v l), s1) ∧ Performs op s1 r v t

/-- Nothing holds an access of the group back at issue (R142, R181, R246, R258, R314): no access of it is in the matrix pipe, no `qrd` of it waits
for entries, an ordinary access finds no side-log count, and the side log is within its capacity. -/
def clearRoad (s : State) (g : Group) (stream : Bool) : Prop :=
  g.holdsBack = false ∧ (stream = false → g.sideCount = 0) ∧ (s.sideLog g.cluster g.sp).length ≤ 64

/-- Nothing of group g waits, its sub-partition's side log is empty, its L1 holds no copy, and no stream store is held below its home (R251). -/
def quietHome (s : State) (gid : Nat) (g : Group) : Prop :=
  s.waitingOf gid s.order = [] ∧ s.sideLog g.cluster g.sp = [] ∧ (s.cluster g.cluster).l1 = [] ∧ (∀ c, (s.cluster c).l1held = []) ∧
  s.devHeld = [] ∧ s.devCopy = [] ∧ s.dir = []

/-- n bytes at an address stand unpoisoned in the home slices, in the version that party w sees (R298, R380, R390). -/
def atHome (s : State) (w : Who) (va n : Nat) : Prop :=
  let a := canonAsid w.asid va
  inShared va = inShared (va + n - 1) ∧ ∀ p ∈ pieces va n, ∃ x, find s.l2 (l2key (s.verOf w.lid a p.1) a p.1) = some x ∧ x.poison = false

/-- Access y of party w at a place in the group's order is performed by f unless it must wait behind earlier ones (R159, R248, R249, R252). -/
def inTurn (w : Who) (before : Nat) (y : AccOp) (f : State → Acc × State) (s : State) : Acc × State :=
  ({ s := s, before := before } : Ran).attempt w y f

/-- The end of a memory instruction that performed (R54, R98): the long-latency results are bound and the issued lanes go on. -/
def State.performed (t : State) (gid : Nat) (I : Word) (pc' : DWord) (ws : List (Dest × Word)) : State :=
  (t.bind gid ws).updG gid fun g => g.setPc I pc'

/-! ### The matrix pipe -/

/-- A matrix instruction has entered the pipe of group gid (R180): the work notes instruction, executing lanes, PC, the words read at issue and
its place in the order; the issued lanes go on; nothing else of any group, of memory or of L2 changes; the engine is e'. -/
structure Piped (s t : State) (gid : Nat) (pc : DWord) (g : Group) (gd : Fin 8) (i : Instr) (vals : List Word) (e' : MatEngine) : Prop where
  group : ∃ g', find t.groups gid = some g' ∧ g.Advanced g' (g.issued pc) (asPc (pc + 8#64)) ∧
    g' = { (g.begun pc) with pc := g'.pc, pipe := g.pipe ++ [{ instr := i, lanes := g.executing pc gd, pc := pc, vals := vals, seq := s.order }] }
  others : ∀ k, k ≠ gid → find t.groups k = find s.groups k
  order : t.order = s.order + 1
  memory : t.mem = s.mem ∧ t.l2 = s.l2
  engine : t.engine g.cluster g.sp = e'

/-- The work at the head of a group's pipe may complete (R180, R198): no plane is owed, no tile it uses waits for a row, and the group's
retirement does not hang on it. -/
structure PipeHead (s : State) (gid : Nat) (g : Group) (wk : MatWork) (rest : List MatWork) : Prop where
  here : find s.groups gid = some g
  head : g.pipe = wk :: rest
  paid : g.planeOwed = none
  landed : ∀ t ∈ wk.tiles, g.fillPending t wk.seq = false
  stays : g.phase ≠ .retired ∨ rest ≠ []

end Sys2Proof.Machine
end

