-- ==== Sys2Proof/Certificates/Slice0/Obligations.lean ====
section
/-!
DEFINITION. The statements for the provers. Each docstring names the rules of spec/ it formalises; the words used are defined in Safety.
-/
open Sys2Proof Sys2Proof.Machine

/-- For every operand form (b from either file, T 0 or 1, any guard) and every group that may issue it: iadd, isub, iadds, isubs,
imul, imulh, imad, imin and imax, and, or, xor, andn and movl answer a next state in which only the issuing group changes; the
executing lanes' register d (with T = 1 the bypass network only) holds the result computed on integers (wrapped sum, difference
and low product, clamped signed sum and difference, high half of the signed 64-bit product, product plus old d, signed minimum and
maximum), the bitwise result, or the 32-bit literal word; issued lanes stand at P + 4 (movl: P + 8). -/
def Obligations.LaneIntegerAndLogicResults : Prop :=
  CompletesR .iadd (fun x y _ => BitVec.ofInt 32 (x.toInt + y.toInt)) ∧
  CompletesR .isub (fun x y _ => BitVec.ofInt 32 (x.toInt - y.toInt)) ∧
  CompletesR .iadds (fun x y _ => BitVec.ofInt 32 (max (-2 ^ 31) (min (2 ^ 31 - 1) (x.toInt + y.toInt)))) ∧
  CompletesR .isubs (fun x y _ => BitVec.ofInt 32 (max (-2 ^ 31) (min (2 ^ 31 - 1) (x.toInt - y.toInt)))) ∧
  CompletesR .imul (fun x y _ => BitVec.ofInt 32 (x.toInt * y.toInt)) ∧
  CompletesR .imulh (fun x y _ => BitVec.ofInt 32 (x.toInt * y.toInt / 2 ^ 32)) ∧
  CompletesR .imad (fun x y d => BitVec.ofInt 32 (x.toInt * y.toInt + d.toInt)) ∧
  CompletesR .imin (fun x y _ => BitVec.ofInt 32 (min x.toInt y.toInt)) ∧
  CompletesR .imax (fun x y _ => BitVec.ofInt 32 (max x.toInt y.toInt)) ∧
  CompletesR .andI (fun x y _ => x &&& y) ∧
  CompletesR .orI (fun x y _ => x ||| y) ∧
  CompletesR .xorI (fun x y _ => x ^^^ y) ∧
  CompletesR .andn (fun x y _ => x &&& ~~~y) ∧
  ∀ f : LForm, CompletesVec (.movl f) f.sw f.g 8 { v := [f.d] } f.t f.d (fun _ _ => True) fun _ _ _ => BitVec.ofNat 32 f.lit

/-- For every operand form and every group that may issue it: shl gives x times 2^n modulo 2^32, shr the floor of x over 2^n (x
unsigned), sra the floor of x over 2^n (x signed), where n is all 32 bits of y read unsigned, and in the immediate forms imm6. So
an amount of 32 or more gives 0, and for sra 0xFFFF_FFFF where x is negative. Only the result register of the executing lanes and
the issued lanes' PCs change. -/
def Obligations.LaneShiftResults : Prop :=
  let left (x : Word) (n : Nat) : Word := BitVec.ofNat 32 (x.toNat * 2 ^ n)
  let right (x : Word) (n : Nat) : Word := BitVec.ofNat 32 (x.toNat / 2 ^ n)
  let signed (x : Word) (n : Nat) : Word := BitVec.ofInt 32 (x.toInt / 2 ^ n)
  CompletesR .shl (fun x y _ => left x y.toNat) ∧
  CompletesR .shr (fun x y _ => right x y.toNat) ∧
  CompletesR .sra (fun x y _ => signed x y.toNat) ∧
  CompletesI6 .shli left ∧ CompletesI6 .shri right ∧ CompletesI6 .srai signed ∧
  ∀ (x : Word) (n : Nat), 32 ≤ n → left x n = 0#32 ∧ right x n = 0#32 ∧ signed x n = if x.toInt < 0 then 0xFFFFFFFF#32 else 0#32

/-- For every operand form and every group that may issue it: popc gives the number of 1 bits of x; clz gives the n for which x <
2^(32-n) and, for n < 32, x is at least 2^(31-n); iaddw gives the pair d:d+1 the 64-bit wrapped sum of the pair a and the pair b
of either file, with T = 1 transient in both registers; icmp writes the signed (eq, ne, lt, le, gt, ge) or unsigned (ltu, geu)
comparison of x and y into predicate n of the executing lanes, fcmp the FP32 comparison, in which a NaN operand makes ne and uno
true and every other condition false and the two zeros are equal. Every other predicate bit and p7 keep their values; nothing else
changes but the issued lanes' PCs. -/
def Obligations.LaneCountPairAddAndCompareResults : Prop :=
  CompletesR1 .popc (fun x => BitVec.ofNat 32 (Finset.univ.filter fun i : Fin 32 => x.getLsbD i = true).card) ∧
  (∃ clz : Word → Nat, CompletesR1 .clz (fun x => BitVec.ofNat 32 (clz x)) ∧
    ∀ x, clz x ≤ 32 ∧ x.toNat < 2 ^ (32 - clz x) ∧ (clz x < 32 → 2 ^ (31 - clz x) ≤ x.toNat)) ∧
  (∀ f : RForm, CompletesPair (.iaddw f) f.sw f.g 4
    (if f.e = 1 then { v := [f.d, f.d + 1, f.a, f.a + 1], s := [f.b, f.b + 1] } else { v := [f.d, f.d + 1, f.a, f.a + 1, f.b, f.b + 1] })
    f.t f.d (fun _ _ => True)
    fun _ g l => BitVec.ofNat 64 ((g.readV64 l f.a).toNat + (if f.e = 1 then g.sreg64 f.b else g.readV64 l f.b).toNat)) ∧
  CompletesP .icmp (fun c x y =>
    match c with
    | 0 => decide (x = y) | 1 => decide (x ≠ y) | 2 => decide (x.toInt < y.toInt) | 3 => decide (x.toInt ≤ y.toInt)
    | 4 => decide (y.toInt < x.toInt) | 5 => decide (y.toInt ≤ x.toInt) | 6 => decide (x.toNat < y.toNat) | _ => decide (y.toNat ≤ x.toNat)) ∧
  CompletesP .fcmp (fun c x y =>
    let nan := isNan32 x.toNat || isNan32 y.toNat
    let o := (fp32.val x.toNat).cmp (fp32.val y.toNat)
    if nan then c == 1 || c == 7
    else match c with
      | 0 => o == 0 | 1 => o != 0 | 2 => o == -1 | 3 => o == -1 || o == 0 | 4 => o == 1 | 5 => o == 1 || o == 0 | 6 => true | _ => false) ∧
  (fp32.val 0).cmp (fp32.val 0x80000000) = 0

/-- For every operand form and every group that may issue it: fadd, fsub, fmul and ffma give the exact sum, difference, product and
product plus old d of FP32 values, rounded once to nearest even; fmin and fmax follow R108; hadd, hmul, hfma (FP16) and badd,
bmul, bfma (BF16) do the same on the two 16-bit halves independently. Only the result register of the executing lanes and the
issued lanes' PCs change. -/
def Obligations.LaneFloatResults : Prop :=
  let one (op : FVal → FVal → FVal → FVal) (x y d : Word) : Word :=
    BitVec.ofNat 32 (fp32.bitsOf .rne (op (fp32.val x.toNat) (fp32.val y.toNat) (fp32.val d.toNat)))
  let two (fm : FFmt) (op : FVal → FVal → FVal → FVal) (x y d : Word) : Word :=
    let half (hi lo : Nat) : BitVec 16 :=
      BitVec.ofNat 16 (fm.bitsOf .rne (op (fm.val (bits x.toNat hi lo)) (fm.val (bits y.toNat hi lo)) (fm.val (bits d.toNat hi lo))))
    half 31 16 ++ half 15 0
  let sum (x y _ : FVal) : FVal := x.add .rne y
  let product (x y _ : FVal) : FVal := x.mul y
  let fused (x y d : FVal) : FVal := (x.mul y).add .rne d
  CompletesR .fadd (one sum) ∧ CompletesR .fsub (one fun x y _ => x.add .rne y.neg) ∧ CompletesR .fmul (one product) ∧
  CompletesR .ffma (one fused) ∧
  CompletesR .fmin (fun x y _ => BitVec.ofNat 32 (
    if isNan32 x.toNat ∧ isNan32 y.toNat then 0x7FC00000 else if isNan32 x.toNat then y.toNat else if isNan32 y.toNat then x.toNat
    else if fless32 y.toNat x.toNat then y.toNat else x.toNat)) ∧
  CompletesR .fmax (fun x y _ => BitVec.ofNat 32 (
    if isNan32 x.toNat ∧ isNan32 y.toNat then 0x7FC00000 else if isNan32 x.toNat then y.toNat else if isNan32 y.toNat then x.toNat
    else if fless32 x.toNat y.toNat then y.toNat else x.toNat)) ∧
  CompletesR .hadd (two fp16 sum) ∧ CompletesR .hmul (two fp16 product) ∧ CompletesR .hfma (two fp16 fused) ∧
  CompletesR .badd (two bf16 sum) ∧ CompletesR .bmul (two bf16 product) ∧ CompletesR .bfma (two bf16 fused)

/-- For every operand form and every group that may issue it: fabs, fneg, frcp, frsq, fsqrt, fexp2, flog2, fsin and fcos give a
function of x alone: a NaN gives 0x7FC0_0000; fabs and fneg clear and invert bit 31; the special operands of R109 have the stated
results; frcp of a non-zero finite x and fsqrt of a positive finite x are the FP32 value nearest to 1/x and to the square root of
x as real numbers, ties to even, infinite where the rounded magnitude overflows; fexp2 of an integer from -149 to 127 is that
power of two. Of the results that R109 only bounds (frsq, flog2, fsin, fcos, and fexp2 of other operands) nothing beyond their
special operands is claimed here: their bits are free values of the model within the bound (log entry 4). Only the result register
of the executing lanes and the issued lanes' PCs change. -/
def Obligations.LaneFloatFunctionResults : Prop :=
  let finite (x : Word) : Prop := ∃ n m e, fp32.val x.toNat = .fin n m e
  let real (x : Word) : ℝ := match fp32.val x.toNat with | .fin n m e => (if n then -1 else 1) * (m : ℝ) * (2 : ℝ) ^ e | _ => 0
  let nearest (q : ℝ) (r : Word) : Prop :=
    if |q| < 2 ^ 128 - 2 ^ 103 then
      finite r ∧ ∀ y, finite y → |real r - q| ≤ |real y - q| ∧ (|real r - q| = |real y - q| → real y = real r ∨ r.getLsbD 0 = false)
    else r = if q < 0 then 0xFF800000#32 else 0x7F800000#32
  ∃ ab ne rc rs sq ex lg sn cs : Word → Word,
    CompletesR1 .fabs ab ∧ CompletesR1 .fneg ne ∧ CompletesR1 .frcp rc ∧ CompletesR1 .frsq rs ∧ CompletesR1 .fsqrt sq ∧
    CompletesR1 .fexp2 ex ∧ CompletesR1 .flog2 lg ∧ CompletesR1 .fsin sn ∧ CompletesR1 .fcos cs ∧
    (∀ x, isNan32 x.toNat = true → ∀ h ∈ [ab, ne, rc, rs, sq, ex, lg, sn, cs], h x = 0x7FC00000#32) ∧
    (∀ x, isNan32 x.toNat = false → ab x = (x &&& 0x7FFFFFFF#32) ∧ ne x = x ^^^ 0x80000000#32) ∧
    (∀ x, isNan32 x.toNat = false → 0x80000000#32 < x → rs x = 0x7FC00000#32 ∧ sq x = 0x7FC00000#32 ∧ lg x = 0x7FC00000#32) ∧
    (rc 0x00000000#32 = 0x7F800000#32 ∧ rc 0x80000000#32 = 0xFF800000#32 ∧ rc 0x7F800000#32 = 0x00000000#32 ∧ rc 0xFF800000#32 = 0x80000000#32) ∧
    (rs 0x00000000#32 = 0x7F800000#32 ∧ rs 0x80000000#32 = 0xFF800000#32 ∧ rs 0x7F800000#32 = 0x00000000#32) ∧
    (sq 0x00000000#32 = 0x00000000#32 ∧ sq 0x80000000#32 = 0x80000000#32 ∧ sq 0x7F800000#32 = 0x7F800000#32) ∧
    (ex 0xFF800000#32 = 0x00000000#32 ∧ ex 0x7F800000#32 = 0x7F800000#32 ∧ ex 0x00000000#32 = 0x3F800000#32) ∧
    (∀ x, finite x → real x ≠ 0 → nearest (1 / real x) (rc x)) ∧
    (∀ x, finite x → 0 < real x → nearest (Real.sqrt (real x)) (sq x)) ∧
    (∀ (x : Word) (k : ℤ), finite x → real x = k → -149 ≤ k → k ≤ 127 → finite (ex x) ∧ real (ex x) = (2 : ℝ) ^ k) ∧
    (lg 0x00000000#32 = 0xFF800000#32 ∧ lg 0x80000000#32 = 0xFF800000#32 ∧ lg 0x7F800000#32 = 0x7F800000#32 ∧ lg 0x3F800000#32 = 0x00000000#32) ∧
    (sn 0x00000000#32 = 0x00000000#32 ∧ sn 0x80000000#32 = 0x80000000#32) ∧
    ∀ x ∈ [0x7F800000#32, 0xFF800000#32], sn x = 0x7FC00000#32 ∧ cs x = 0x7FC00000#32

/-- For every operand form whose named slot has an accepted type and every group that may issue it: icvf rounds the signed x to FP32
and fcvi rounds x to an integer clamped to INT32 (NaN gives 0), in the mode that ROUND or the slot selects; fcvh packs the two
rounded elements of the pair a; hcvf widens the two elements of x into d and d + 1; icvn wraps, saturates or saturates unsigned to
8 or 16 bits; bpk packs the clamped elements of all 32 lanes bit plane by bit plane; bunpk and bpsel read a plane prefix as R115
and R116 say. Nothing else changes but the issued lanes' PCs. -/
def Obligations.LaneConversionResults : Prop :=
  let mode (r : Fin 8) (x : BitVec 128) : RMode := if r = 0 then slotMode x else if r = 1 then .rne else if r = 2 then .rz else if r = 3 then .rd else .ru
  let halfType (n : Fin 8) (s : State) (g : Group) : Prop := slotType (s.slot g n) = 2 ∨ slotType (s.slot g n) = 3
  let half (x : BitVec 128) : FFmt := if slotType x = 2 then fp16 else bf16
  let planes (n : Fin 8) (s : State) (g : Group) : Prop := slotType (s.slot g n) = 16
  let prefixValue (p q : Nat) (centre : Bool) (t : Int) : Int := t * 2 ^ (p - q) + (if centre ∧ q < p then 2 ^ (p - q - 1) else 0)
  (∀ f : CvForm, CompletesVec (.icvf f) f.sw f.g 4 { v := [f.d, f.a] } f.t f.d (fun s g => f.r = 0 → slotType (s.slot g f.f) ≠ 0)
    fun s g l => BitVec.ofNat 32 (fp32.bitsOf (mode f.r (s.slot g f.f)) (.fin (decide ((g.readV l f.a).toInt < 0)) (g.readV l f.a).toInt.natAbs 0))) ∧
  (∀ f : CvForm, CompletesVec (.fcvi f) f.sw f.g 4 { v := [f.d, f.a] } f.t f.d (fun s g => f.r = 0 → slotType (s.slot g f.f) ≠ 0)
    fun s g l => match fp32.val (g.readV l f.a).toNat with
      | .nan => 0#32
      | .inf n => if n then 0x80000000#32 else 0x7FFFFFFF#32
      | .fin n m e => BitVec.ofInt 32 (max (-2 ^ 31) (min (2 ^ 31 - 1) (FVal.roundInt (mode f.r (s.slot g f.f)) n m e)))) ∧
  (∀ f : CvForm, CompletesVec (.fcvh f) f.sw f.g 4 { v := [f.d, f.a, f.a + 1] } f.t f.d (halfType f.f) fun s g l =>
    let conv (x : Word) : BitVec 16 := BitVec.ofNat 16 ((half (s.slot g f.f)).bitsOf (mode f.r (s.slot g f.f)) (fp32.val x.toNat))
    conv (g.readV l (f.a + 1)) ++ conv (g.readV l f.a)) ∧
  (∀ f : Cv0Form, CompletesPair (.hcvf f) f.sw f.g 4 { v := [f.d, f.d + 1, f.a] } f.t f.d (halfType f.f) fun s g l =>
    let conv (hi lo : Nat) : Word := BitVec.ofNat 32 (fp32.bitsOf .rne ((half (s.slot g f.f)).val (bits (g.readV l f.a).toNat hi lo)))
    conv 31 16 ++ conv 15 0) ∧
  (∀ f : CvForm, CompletesVec (.icvn f) f.sw f.g 4 { v := [f.d, f.a] } f.t f.d
    (fun s g => slotType (s.slot g f.f) = 4 ∨ slotType (s.slot g f.f) = 5) fun s g l =>
    let n := if slotType (s.slot g f.f) = 4 then 8 else 16
    let x := (g.readV l f.a).toInt
    if f.r = 0 then ((g.readV l f.a).setWidth n).signExtend 32
    else if f.r = 1 then BitVec.ofInt 32 (max (-2 ^ (n - 1)) (min (2 ^ (n - 1) - 1) x))
    else BitVec.ofInt 32 (min (max x 0) (2 ^ n - 1))) ∧
  (∀ f : Cv0Form, CompletesVec (.bpk f) f.sw f.g 4 { v := [f.d, f.a] } f.t f.d (planes f.f) fun s g l =>
    let p := slotPst (s.slot g f.f)
    BitVec.ofFnLE fun i : Fin 32 =>
      decide (l < p) && (BitVec.ofInt p (max (-2 ^ (p - 1)) (min (2 ^ (p - 1) - 1) (g.readV i f.a).toInt))).getLsbD (p - 1 - l)) ∧
  (∀ f : Cv0Form, CompletesVec (.bunpk f) f.sw f.g 4 { v := [f.d, f.a] } f.t f.d
    (fun s g => planes f.f s g ∧ 1 ≤ slotPrd (s.slot g f.f) ∧ slotPrd (s.slot g f.f) ≤ slotPst (s.slot g f.f)) fun s g l =>
    let q := slotPrd (s.slot g f.f)
    let t := BitVec.ofFnLE fun j : Fin q => (g.readV (q - 1 - j) f.a).getLsbD l
    BitVec.ofInt 32 (prefixValue (slotPst (s.slot g f.f)) q (slotCentre (s.slot g f.f)) t.toInt)) ∧
  ∀ f : Cv0Form, CompletesVec (.bpsel f) f.sw f.g 4 { v := [f.d, f.a] } f.t f.d
    (fun s g => planes f.f s g ∧ 1 ≤ slotPrd (s.slot g f.f) ∧ slotPrd (s.slot g f.f) ≤ slotPst (s.slot g f.f)) fun s g l =>
    let p := slotPst (s.slot g f.f)
    let q := slotPrd (s.slot g f.f)
    BitVec.ofInt 32 (prefixValue p q (slotCentre (s.slot g f.f)) (((g.readV l f.a).setWidth p).toInt / 2 ^ (p - q)))

/-- For every operand form and every group that may issue it: bra sends the executing lanes to P + 4 times the signed 20-bit offset,
jmpr sends each executing lane to its own vector pair's target or to the uniform pair's (where every executing lane's target has
bits [1:0] and [63:56] zero), the other issued lanes take P + 4; nop moves every issued lane to P + 4. Nothing else of the state
changes but the age of transient results and the stall mark of the group. For jmpr with a vector pair, a group that may issue it
and holds no undelivered event: if l is the lowest executing lane that is no helper and whose target is not accepted, the group
changes only by the posted fault: code F_ALIGN (0x12) where that target's bits [1:0] are not zero, else F_ADDR_UNMAPPED (0x10);
the record's lanes are all such lanes, its PC is P, its ADDR the target of l and its MINFO value bits [31:0] of it; those lanes
are held at P, and no PC moves. -/
def Obligations.BranchesAndNopMoveOnlyThePc : Prop :=
  (∀ (f : BForm) (s : State) (gid : Nat) (pc : DWord) (g : Group), Ready s gid pc g (.bra f) f.sw {} →
    ∃ g', exec (.bra f) s = .next (s.setG gid g') ∧ g' = { (g.begun pc) with pc := g'.pc } ∧
      g.Branched g' (g.issued pc) (g.executing pc f.g) (asPc (pc + 4#64)) fun _ => asPc (pc + BitVec.ofInt 64 (4 * (BitVec.ofNat 20 f.o).toInt))) ∧
  (∀ (f : AForm) (s : State) (gid : Nat) (pc : DWord) (g : Group), Ready s gid pc g (.jmprVector f) f.sw { v := [f.a, f.a + 1] } →
    (∀ l < 32, has (g.executing pc f.g) l → goodTarget (g.readV64 l f.a)) →
    ∃ g', exec (.jmprVector f) s = .next (s.setG gid g') ∧ g' = { (g.begun pc) with pc := g'.pc } ∧
      g.Branched g' (g.issued pc) (g.executing pc f.g) (asPc (pc + 4#64)) fun l => g.readV64 l f.a) ∧
  (∀ (f : OpBForm) (s : State) (gid : Nat) (pc : DWord) (g : Group), Ready s gid pc g (.jmprUniform f) f.sw { s := [f.b, f.b + 1] } →
    goodTarget (g.sreg64 f.b) →
    ∃ g', exec (.jmprUniform f) s = .next (s.setG gid g') ∧ g' = { (g.begun pc) with pc := g'.pc } ∧
      g.Branched g' (g.issued pc) (g.executing pc f.g) (asPc (pc + 4#64)) fun _ => g.sreg64 f.b) ∧
  (∀ (f : NForm) (s : State) (gid : Nat) (pc : DWord) (g : Group), Ready s gid pc g (.nop f) f.sw {} →
    ∃ g', exec (.nop f) s = .next (s.setG gid g') ∧ g' = { (g.begun pc) with pc := g'.pc } ∧ g.Advanced g' (g.issued pc) (asPc (pc + 4#64))) ∧
  ∀ (f : AForm) (s : State) (gid : Nat) (pc : DWord) (g : Group) (low : Nat), Ready s gid pc g (.jmprVector f) f.sw { v := [f.a, f.a + 1] } →
    g.event = none →
    let bad (l : Nat) : Prop := has (g.executing pc f.g) l ∧ ¬ has g.helper l ∧ ¬ goodTarget (g.readV64 l f.a)
    low < 32 → bad low → (∀ k < low, ¬ bad k) →
    ∃ (g' : Group) (r : FaultRec), exec (.jmprVector f) s = .next (s.setG gid g') ∧
      g' = { g with event := some r, lastFault := some r, hold := g'.hold } ∧
      r.code = (if (g.readV64 low f.a).toNat % 4 ≠ 0 then 0x12 else 0x10) ∧ (∀ l < 32, has r.lanes l ↔ bad l) ∧ r.pc = pc ∧
      r.addr = g.readV64 low f.a ∧ r.value = (g.readV64 low f.a).setWidth 32 ∧
      ∀ l < 32, (bad l → g'.holdOf l = .event r.code pc false) ∧ (¬ bad l → g'.holdOf l = g.holdOf l)

/-- For every group that may issue it, is not parked for results and whose executing lanes have fewer than 8 resident entries: call
(offset), callr with a vector pair and callr with a uniform pair (accepted targets) append P + 4 to each executing lane's return
stack and send it to its target. For ret, where every executing lane has a resident entry, each takes its newest entry as PC (the
bits that a PC does not have dropped, R13, log entry 119) and loses it. The other issued lanes take P + 4. No other part of the
state changes but that a spill of this call or return is no longer noted. Where the stack and the spill depth of every executing
lane are empty and one is no helper, ret raises F_RETSTACK (0x07) at P for the executing lanes that are no helpers. -/
def Obligations.CallsPushAndReturnsPop : Prop :=
  let room (g : Group) (E : Word) : Prop := ∀ l < 32, has E l → (g.stackOf l).length < 8
  let pushed (g g' : Group) (E : Word) (pc : DWord) : Prop :=
    g' = { (g.begun pc) with pc := g'.pc, stack := g'.stack, spilling := g.spilling.erase pc } ∧
    ∀ l < 32, (has E l → g'.stackOf l = g.stackOf l ++ [asPc (pc + 4#64)]) ∧ (¬ has E l → g'.stackOf l = g.stackOf l)
  (∀ (f : BForm) (s : State) (gid : Nat) (pc : DWord) (g : Group), Ready s gid pc g (.call f) f.sw {} → g.waiting ≠ .results → room g (g.executing pc f.g) →
    ∃ g', exec (.call f) s = .next (s.setG gid g') ∧ pushed g g' (g.executing pc f.g) pc ∧
      g.Branched g' (g.issued pc) (g.executing pc f.g) (asPc (pc + 4#64)) fun _ => asPc (pc + BitVec.ofInt 64 (4 * (BitVec.ofNat 20 f.o).toInt))) ∧
  (∀ (f : AForm) (s : State) (gid : Nat) (pc : DWord) (g : Group), Ready s gid pc g (.callrVector f) f.sw { v := [f.a, f.a + 1] } →
    g.waiting ≠ .results → room g (g.executing pc f.g) → (∀ l < 32, has (g.executing pc f.g) l → goodTarget (g.readV64 l f.a)) →
    ∃ g', exec (.callrVector f) s = .next (s.setG gid g') ∧ pushed g g' (g.executing pc f.g) pc ∧
      g.Branched g' (g.issued pc) (g.executing pc f.g) (asPc (pc + 4#64)) fun l => g.readV64 l f.a) ∧
  (∀ (f : OpBForm) (s : State) (gid : Nat) (pc : DWord) (g : Group), Ready s gid pc g (.callrUniform f) f.sw { s := [f.b, f.b + 1] } →
    g.waiting ≠ .results → room g (g.executing pc f.g) → goodTarget (g.sreg64 f.b) →
    ∃ g', exec (.callrUniform f) s = .next (s.setG gid g') ∧ pushed g g' (g.executing pc f.g) pc ∧
      g.Branched g' (g.issued pc) (g.executing pc f.g) (asPc (pc + 4#64)) fun _ => g.sreg64 f.b) ∧
  (∀ (f : NForm) (s : State) (gid : Nat) (pc : DWord) (g : Group), Ready s gid pc g (.ret f) f.sw {} → g.waiting ≠ .results →
    (∀ l < 32, has (g.executing pc f.g) l → g.stackOf l ≠ []) →
    ∃ g', exec (.ret f) s = .next (s.setG gid g') ∧
      g' = { (g.begun pc) with pc := g'.pc, stack := g'.stack, spilling := g.spilling.erase pc } ∧
      (∀ l < 32, (has (g.executing pc f.g) l → g'.stackOf l = (g.stackOf l).dropLast) ∧
        (¬ has (g.executing pc f.g) l → g'.stackOf l = g.stackOf l)) ∧
      g.Branched g' (g.issued pc) (g.executing pc f.g) (asPc (pc + 4#64)) fun l => asPc ((g.stackOf l).getLastD 0#64)) ∧
  ∀ (f : NForm) (s : State) (gid : Nat) (pc : DWord) (g : Group), Ready s gid pc g (.ret f) f.sw {} →
    g.executing pc f.g &&& ~~~g.helper ≠ 0#32 → (∀ l < 32, has (g.executing pc f.g) l → g.stackOf l = [] ∧ g.spillOf l = 0) →
    exec (.ret f) s = .next (s.raise gid 0x07 (g.executing pc f.g &&& ~~~g.helper) pc 0#64 0#64)

/-- For every group that may issue join jN, label: with executing lanes and jN free, jN holds the executing lanes as its mask and the
meeting address of the lowest of them, and each executing lane's meeting register becomes P + 4 times the signed 16-bit offset;
with no executing lane nothing changes; in both cases the issued lanes take P + 4. With jN in use and an executing lane that is no
helper, F_REJOIN_BUSY (0x05) is raised for those lanes at P and nothing else changes. -/
def Obligations.JoinClaimsARejoinRegister : Prop :=
  ∀ (f : JForm) (s : State) (gid : Nat) (pc : DWord) (g : Group), Ready s gid pc g (.join f) f.sw {} →
    let E := g.executing pc f.g
    ((g.rejoin f.j).mask = 0#32 → ∀ low, lowestIn E low →
      ∃ g', exec (.join f) s = .next (s.setG gid g') ∧ g' = { (g.begun pc) with pc := g'.pc, j := g'.j, meet := g'.meet } ∧
        g.Advanced g' (g.issued pc) (asPc (pc + 4#64)) ∧
        (∀ n < 16, g'.rejoin n = if n = f.j then { mask := E, addr := g.meetOf low } else g.rejoin n) ∧
        ∀ l < 32, (has E l → g'.meetOf l = asPc (pc + BitVec.ofInt 64 (4 * (BitVec.ofNat 16 f.o).toInt))) ∧ (¬ has E l → g'.meetOf l = g.meetOf l)) ∧
    (E = 0#32 → ∃ g', exec (.join f) s = .next (s.setG gid g') ∧ g' = { (g.begun pc) with pc := g'.pc } ∧
        g.Advanced g' (g.issued pc) (asPc (pc + 4#64))) ∧
    ((g.rejoin f.j).mask ≠ 0#32 → E &&& ~~~g.helper ≠ 0#32 →
      exec (.join f) s = .next (s.raise gid 0x05 (E &&& ~~~g.helper) pc 0#64 0#64))

/-- For every group that may issue wait jN and in which no other rejoin register is ready to release: if some member of jN is neither
an executing lane nor held at a wait on jN, the executing members become held at P and the other issued lanes take P + 4. If every
member is, each member l is freed, gets the saved meeting address back and goes on at its own held address + 4 (P + 4 for the
executing ones), jN becomes free, and the other issued lanes take P + 4. Nothing else changes. -/
def Obligations.WaitHoldsUntilAllMembersArrive : Prop :=
  ∀ (f : WForm) (s : State) (gid : Nat) (pc : DWord) (g : Group), Ready s gid pc g (.waitI f) f.sw {} →
    let M := (g.rejoin f.j).mask
    let H := g.executing pc f.g &&& M
    (∀ n < 16, n ≠ f.j → (g.rejoin n).mask ≠ 0#32 → ∃ l < 32, has (g.rejoin n).mask l ∧ g.holdOf l ≠ .wait n) →
    ((∃ l < 32, has M l ∧ ¬ has H l ∧ g.holdOf l ≠ .wait f.j) →
      ∃ g', exec (.waitI f) s = .next (s.setG gid g') ∧ g' = { (g.begun pc) with pc := g'.pc, hold := g'.hold } ∧
        g.Advanced g' (g.issued pc &&& ~~~H) (asPc (pc + 4#64)) ∧
        ∀ l < 32, (has H l → g'.holdOf l = .wait f.j) ∧ (¬ has H l → g'.holdOf l = g.holdOf l)) ∧
    (M ≠ 0#32 → (∀ l < 32, has M l → has H l ∨ (¬ has (g.issued pc) l ∧ g.holdOf l = .wait f.j)) →
      ∃ g', exec (.waitI f) s = .next (s.setG gid g') ∧ g' = { (g.begun pc) with pc := g'.pc, hold := g'.hold, meet := g'.meet, j := g'.j } ∧
        (∀ n < 16, g'.rejoin n = if n = f.j then {} else g.rejoin n) ∧
        ∀ l < 32, (has M l → g'.pcOf l = asPc (g.pcOf l + 4#64) ∧ g'.meetOf l = (g.rejoin f.j).addr ∧ g'.holdOf l = .free) ∧
          (¬ has M l → g'.meetOf l = g.meetOf l ∧ g'.holdOf l = g.holdOf l ∧
            g'.pcOf l = if has (g.issued pc) l then asPc (pc + 4#64) else g.pcOf l))

/-- For every group that may issue exit and in which no lane is held and no rejoin register is in use: if some lane that is neither
exited, nor executing, nor a helper remains, the executing lanes become exited and lose their helper mark, every issued lane takes
P + 4 (R98) and nothing else changes. If none remains, a next state is reached in which the group is retired, with every lane
exited. -/
def Obligations.ExitEndsLanesAndRetiresTheGroup : Prop :=
  ∀ (f : NForm) (s : State) (gid : Nat) (pc : DWord) (g : Group), Ready s gid pc g (.exitI f) f.sw {} →
    let E := g.executing pc f.g
    (∀ l < 32, g.holdOf l = .free) → (∀ n < 16, (g.rejoin n).mask = 0#32) →
    (~~~g.exited &&& ~~~g.helper &&& ~~~E ≠ 0#32 →
      ∃ g', exec (.exitI f) s = .next (s.setG gid g') ∧
        g' = { (g.begun pc) with pc := g'.pc, exited := g.exited ||| E, helper := g.helper &&& ~~~E, hold := g'.hold } ∧
        g.Advanced g' (g.issued pc) (asPc (pc + 4#64)) ∧ ∀ l < 32, g'.holdOf l = .free) ∧
    (~~~g.exited &&& ~~~g.helper &&& ~~~E = 0#32 →
      ∃ (t : State) (g' : Group), exec (.exitI f) s = .next t ∧ find t.groups gid = some g' ∧ g'.phase = .retired ∧
        ∀ l < 32, has g'.exited l)

/-- For every operand form and every group that may issue it: plog writes op(pX xor NX, pY xor NY) into the executing lanes' predicate
(7 discards it); pmov.get gives d the bits p0 to p6 and a 1 in bit 7; pmov.set copies bits 0 to 6 of a into p0 to p6; srd writes
the selected special register, 64-bit selectors into a pair; with read-and-clear the sticky bits of %gstat are cleared once while
the old value is delivered. %lane, %quad, %group and %clk read as l, l / 4, the group number and the clock count. Nothing else
changes but the issued lanes' PCs. -/
def Obligations.LanePredicatesAndSpecialReads : Prop :=
  (∀ f : PlogForm, CompletesPred (.plog f) f.sw f.g {} f.p fun g l =>
    let x := (g.preds f.x).getLsbD l != decide (f.nx = 1)
    let y := (g.preds f.y).getLsbD l != decide (f.ny = 1)
    if f.c = 0 then x && y else if f.c = 1 then x || y else x != y) ∧
  (∀ f : DForm, CompletesVec (.pmovGet f) f.sw f.g 4 { v := [f.d] } 0 f.d (fun _ _ => True) fun _ g l =>
    BitVec.ofFnLE fun i : Fin 32 => if i.val < 7 then (g.preds i).getLsbD l else decide (i.val = 7)) ∧
  (∀ (f : AForm) (s : State) (gid : Nat) (pc : DWord) (g : Group), Ready s gid pc g (.pmovSet f) f.sw { v := [f.a] } →
    ∃ g', exec (.pmovSet f) s = .next (s.setG gid g') ∧ g' = { (g.begun pc) with p := g'.p, pc := g'.pc } ∧
      g.Advanced g' (g.issued pc) (asPc (pc + 4#64)) ∧
      ∀ l < 32, ∀ n < 7, (g'.preds n).getLsbD l = if has (g.executing pc f.g) l then (g.readV l f.a).getLsbD n else (g.preds n).getLsbD l) ∧
  (∀ f : SrdForm, f.rc = 0 → f.sel.val < 8 → CompletesVec (.srd f) f.sw f.g 4 { v := [f.d] } 0 f.d (fun _ _ => True)
    fun s g l => (s.special g f.sel l).setWidth 32) ∧
  (∀ f : SrdForm, f.rc = 0 → 8 ≤ f.sel.val → CompletesPair (.srd f) f.sw f.g 4 { v := [f.d, f.d + 1] } 0 f.d (fun _ _ => True)
    fun s g l => s.special g f.sel l) ∧
  (∀ (f : SrdForm) (s : State) (gid : Nat) (pc : DWord) (g : Group), f.rc = 1 → Ready s gid pc g (.srd f) f.sw { v := [f.d] } →
    ∃ g', exec (.srd f) s = .next (s.setG gid g') ∧ g' = { (g.begun pc) with v := g'.v, pc := g'.pc, gstat := g'.gstat } ∧
      g.Advanced g' (g.issued pc) (asPc (pc + 4#64)) ∧
      g'.gstat = (if g.executing pc f.g = 0#32 then g.gstat else g.gstat &&& ~~~0xFD#32) ∧
      ∀ l < 32, ∀ r < 64, g'.vreg l r = if has (g.executing pc f.g) l ∧ r = f.d then BitVec.ofNat 32 (s.gstatOf g) else g.vreg l r) ∧
  ∀ (s : State) (g : Group) (l : Nat), s.special g 0 l = BitVec.ofNat 64 l ∧ s.special g 1 l = BitVec.ofNat 64 (l / 4) ∧
    s.special g 2 l = BitVec.ofNat 64 g.num ∧ s.special g 8 l = BitVec.ofNat 64 s.clk

/-- For shfl, vote, redi, redf and scani, every operand form, and every group that may issue it, where every lane of M that has not
exited is issued, every executing lane is in M and no lane is held at P with another mask: the contributors C are the executing
lanes; each gets the stated value (shuffled word or pair, vote, integer reduction, FP32 reduction in the fixed tree with the
identity for lanes outside C, prefix sum); every issued lane goes on after the two words; XMASK is set where M names an exited
lane; nothing else changes. -/
def Obligations.GroupWideOperationsComplete : Prop :=
  let together (g : Group) (pc : DWord) (gd : Fin 8) (M : Word) : Prop :=
    (∀ l < 32, has M l → ¬ has g.exited l → has (g.issued pc) l) ∧ (∀ l < 32, has (g.executing pc gd) l → has M l) ∧
    g.otherMask pc M = false
  let done (g g' : Group) (pc : DWord) (M : Word) : Prop :=
    g' = { (g.begun pc) with v := g'.v, pc := g'.pc, hold := g'.hold, gstat := g'.gstat } ∧
    g.Advanced g' (g.issued pc) (asPc (pc + 8#64)) ∧ (∀ l < 32, g'.holdOf l = g.holdOf l) ∧
    g'.gstat = (if M &&& g.exited = 0#32 then g.gstat else g.gstat ||| 1#32)
  let gives (i : Instr) (sw : Fin 2) (gd : Fin 8) (mreg : Fin 64) (mall : Fin 2) (u : Uses) (d : Nat) (val : Group → Word → Nat → Word) : Prop :=
    ∀ (s : State) (gid : Nat) (pc : DWord) (g : Group), Ready s gid pc g i sw u → together g pc gd (g.members mreg mall) →
      ∃ g', exec i s = .next (s.setG gid g') ∧ done g g' pc (g.members mreg mall) ∧
        ∀ l < 32, ∀ r < 64, g'.vreg l r = if has (g.executing pc gd) l ∧ r = d then val g (g.executing pc gd) l else g.vreg l r
  let words (g : Group) (C : Word) (a : Nat) : List Word := (lanesOf C).map fun k => g.readV k a
  (∀ f : GForm, gives (.vote f) f.sw f.g f.mreg f.mall (gUses f.d f.a f.mreg f.mall) f.d fun g C _ =>
    let T := (lanesOf C).filter fun k => g.readV k f.a ≠ 0#32
    if f.op = 0 then BitVec.ofFnLE (fun k : Fin 32 => decide (k.val ∈ T))
    else if f.op = 1 then BitVec.ofNat 32 T.length
    else if f.op = 2 then BitVec.ofNat 32 (T.headD 32)
    else if f.op = 3 then (if T = lanesOf C then 1#32 else 0#32)
    else if f.op = 4 then (if T = [] then 0#32 else 1#32)
    else if ∀ x ∈ words g C f.a, ∀ y ∈ words g C f.a, x = y then 1#32 else 0#32) ∧
  (∀ f : GForm, gives (.redi f) f.sw f.g f.mreg f.mall (gUses f.d f.a f.mreg f.mall) f.d fun g C _ =>
    let xs := words g C f.a
    let sum := (xs.map BitVec.toInt).sum
    if f.op = 0 then BitVec.ofInt 32 sum
    else if f.op = 1 then BitVec.ofInt 32 ((xs.map BitVec.toInt).foldl min (2 ^ 31 - 1))
    else if f.op = 2 then BitVec.ofInt 32 ((xs.map BitVec.toInt).foldl max (-2 ^ 31))
    else if f.op = 3 then BitVec.ofNat 32 ((xs.map BitVec.toNat).foldl min (2 ^ 32 - 1))
    else if f.op = 4 then BitVec.ofNat 32 ((xs.map BitVec.toNat).foldl max 0)
    else if f.op = 5 then BitVec.ofFnLE (fun i : Fin 32 => xs.all fun x => x.getLsbD i)
    else if f.op = 6 then BitVec.ofFnLE (fun i : Fin 32 => xs.any fun x => x.getLsbD i)
    else if f.op = 7 then BitVec.ofFnLE (fun i : Fin 32 => decide ((xs.countP fun x => x.getLsbD i) % 2 = 1))
    else BitVec.ofInt 32 (max (-2 ^ 31) (min (2 ^ 31 - 1) sum))) ∧
  (∀ f : GForm, gives (.redf f) f.sw f.g f.mreg f.mall (gUses f.d f.a f.mreg f.mall) f.d fun g C _ =>
    let comb : Nat → Nat → Nat := if f.op = 0 then fp32.add else if f.op = 1 then fmin32 else fmax32
    let ident : Nat := if f.op = 0 then 0x80000000 else if f.op = 1 then 0x7F800000 else 0xFF800000
    let level (t : Nat → Nat) (i : Nat) : Nat := comb (t (2 * i)) (t (2 * i + 1))
    BitVec.ofNat 32 (level (level (level (level (level fun i => if C.getLsbD i then (g.readV i f.a).toNat else ident)))) 0)) ∧
  (∀ f : GForm, gives (.scani f) f.sw f.g f.mreg f.mall (gUses f.d f.a f.mreg f.mall) f.d fun g C l =>
    BitVec.ofNat 32 (((lanesOf C).filter fun k => if f.op = 0 then k ≤ l else k < l).map fun k => (g.readV k f.a).toNat).sum) ∧
  ∀ (f : ShflForm) (s : State) (gid : Nat) (pc : DWord) (g : Group),
    let vs : List Nat := if 4 ≤ f.op.val then [f.d.val, f.d.val + 1, f.a.val, f.a.val + 1] else [f.d.val, f.a.val]
    let ms : List Nat := if f.mall = 1 then [] else [f.mreg.val]
    Ready s gid pc g (.shfl f) f.sw (if f.e = 1 then { v := vs, s := f.b.val :: ms } else { v := vs ++ [f.b.val], s := ms }) →
    together g pc f.g (g.members f.mreg f.mall) →
    let C := g.executing pc f.g
    let source (l : Nat) : Int :=
      let y := g.opb f.e f.b l
      if f.op.val % 4 = 0 then y.toNat % 32
      else if f.op.val % 4 = 1 then ((l : Int) + y.toInt) % 32
      else if f.op.val % 4 = 2 then (l : Int) + y.toInt
      else ((l ^^^ (y.toNat % 32) : Nat) : Int)
    let value (l r : Nat) : Word := if 0 ≤ source l ∧ source l < 32 ∧ has C (source l).toNat then g.readV (source l).toNat r else 0#32
    ∃ g', exec (.shfl f) s = .next (s.setG gid g') ∧ done g g' pc (g.members f.mreg f.mall) ∧
      ∀ l < 32, ∀ r < 64, g'.vreg l r =
        if has C l ∧ r = f.d then value l f.a else if has C l ∧ 4 ≤ f.op.val ∧ r = f.d + 1 then value l (f.a + 1) else g.vreg l r

/-- For every operand form and every group that may issue it: qswp gives each executing lane l the a register of lane l xor k, qbcast
that of lane 4 (l / 4) + n, whatever the source lane's state. qfill makes every exited lane m of a quad that holds an executing
lane a helper lane that is not exited; with h the quad's lowest executing lane, m takes P + 4, h's meeting register and return
stack with spill depth 0, membership of every rejoin mask that holds h, and d := x(h); each executing lane gets d := x(l). Nothing
else changes but the issued lanes' PCs. -/
def Obligations.QuadExchangeResults : Prop :=
  (∀ f : QswpForm, CompletesVec (.qswp f) f.sw f.g 4 { v := [f.d, f.a] } 0 f.d (fun _ _ => True) fun _ g l => g.readV (l ^^^ f.k.val) f.a) ∧
  (∀ f : QbcForm, CompletesVec (.qbcast f) f.sw f.g 4 { v := [f.d, f.a] } 0 f.d (fun _ _ => True) fun _ g l => g.readV (4 * (l / 4) + f.n.val) f.a) ∧
  ∀ (f : DaForm) (s : State) (gid : Nat) (pc : DWord) (g : Group), Ready s gid pc g (.qfill f) f.sw { v := [f.d, f.a] } →
    let E := g.executing pc f.g
    ∃ g', exec (.qfill f) s = .next (s.setG gid g') ∧
      g' = { (g.begun pc) with v := g'.v, pc := g'.pc, meet := g'.meet, stack := g'.stack, spill := g'.spill, j := g'.j, exited := g'.exited, helper := g'.helper } ∧
      ∀ l < 32, ∀ r < 64, ∀ n < 16,
        let revivedBy (h : Nat) : Prop := has g.exited l ∧ h / 4 = l / 4 ∧ has E h ∧ ∀ k < h, k / 4 = l / 4 → ¬ has E k
        (∀ h, revivedBy h → ¬ has g'.exited l ∧ has g'.helper l ∧ g'.pcOf l = asPc (pc + 4#64) ∧ g'.meetOf l = g.meetOf h ∧
          g'.stackOf l = g.stackOf h ∧ g'.spillOf l = 0 ∧ (has (g'.rejoin n).mask l ↔ has (g.rejoin n).mask l ∨ has (g.rejoin n).mask h) ∧
          g'.vreg l r = if r = f.d then g.readV h f.a else g.vreg l r) ∧
        ((∀ h, ¬ revivedBy h) → (has g'.exited l ↔ has g.exited l) ∧ (has g'.helper l ↔ has g.helper l) ∧
          g'.pcOf l = (if has (g.issued pc) l then asPc (pc + 4#64) else g.pcOf l) ∧ g'.meetOf l = g.meetOf l ∧ g'.stackOf l = g.stackOf l ∧
          g'.spillOf l = g.spillOf l ∧ (has (g'.rejoin n).mask l ↔ has (g.rejoin n).mask l) ∧
          g'.vreg l r = if has E l ∧ r = f.d then g.readV l f.a else g.vreg l r) ∧
        (g'.rejoin n).addr = (g.rejoin n).addr

/-- For every operand form (register or 6-bit immediate, W 0 or 1), for every group that may issue it with its guard on and for every
mast core that runs it: sadd, ssub, smul, smad, smin, smax, sand, sor, sxor, sshl, sshr and ssra write into d (with W = 1 into the
pair d:d+1) the result modulo 2^n of x, y and, for smad, the old d; y is s[b] or imm6 zero-extended; a shift reads all bits of y.
Nothing else changes but the PC. With the guard off, or with helper lanes only, the instruction only advances. -/
def Obligations.UniformArithmeticResults : Prop :=
  CompletesUr .sadd (fun x y _ => BitVec.ofNat 32 (x.toNat + y.toNat)) (fun x y _ => BitVec.ofNat 64 (x.toNat + y.toNat)) ∧
  CompletesUr .ssub (fun x y _ => BitVec.ofInt 32 (x.toInt - y.toInt)) (fun x y _ => BitVec.ofInt 64 (x.toInt - y.toInt)) ∧
  CompletesUr .smul (fun x y _ => BitVec.ofNat 32 (x.toNat * y.toNat)) (fun x y _ => BitVec.ofNat 64 (x.toNat * y.toNat)) ∧
  CompletesUr .smad (fun x y d => BitVec.ofNat 32 (x.toNat * y.toNat + d.toNat)) (fun x y d => BitVec.ofNat 64 (x.toNat * y.toNat + d.toNat)) ∧
  CompletesUr .smin (fun x y _ => BitVec.ofInt 32 (min x.toInt y.toInt)) (fun x y _ => BitVec.ofInt 64 (min x.toInt y.toInt)) ∧
  CompletesUr .smax (fun x y _ => BitVec.ofInt 32 (max x.toInt y.toInt)) (fun x y _ => BitVec.ofInt 64 (max x.toInt y.toInt)) ∧
  CompletesUr .sand (fun x y _ => x &&& y) (fun x y _ => x &&& y) ∧
  CompletesUr .sor (fun x y _ => x ||| y) (fun x y _ => x ||| y) ∧
  CompletesUr .sxor (fun x y _ => x ^^^ y) (fun x y _ => x ^^^ y) ∧
  CompletesUr .sshl (fun x y _ => BitVec.ofNat 32 (x.toNat * 2 ^ y.toNat)) (fun x y _ => BitVec.ofNat 64 (x.toNat * 2 ^ y.toNat)) ∧
  CompletesUr .sshr (fun x y _ => BitVec.ofNat 32 (x.toNat / 2 ^ y.toNat)) (fun x y _ => BitVec.ofNat 64 (x.toNat / 2 ^ y.toNat)) ∧
  CompletesUr .ssra (fun x y _ => BitVec.ofInt 32 (x.toInt / 2 ^ y.toNat)) (fun x y _ => BitVec.ofInt 64 (x.toInt / 2 ^ y.toNat))

/-- For every operand form, for every group that may issue it and every mast core that runs it: scmp writes the comparison of x and y
(32-bit or, with W = 1, pairs) into k[n], klog the combination of two possibly inverted uniform predicates, both discarded for n =
7; smovl writes its literal into d, with W = 1 sign-extended into the pair. Every other predicate bit and register keeps its
value; with the guard off the instruction only advances. -/
def Obligations.UniformCompareLiteralAndLogicResults : Prop :=
  let compare (c : Fin 8) (x y : Int) (ux uy : Nat) : Bool :=
    if c = 0 then decide (x = y) else if c = 1 then decide (x ≠ y) else if c = 2 then decide (x < y) else if c = 3 then decide (x ≤ y)
    else if c = 4 then decide (y < x) else if c = 5 then decide (y ≤ x) else if c = 6 then decide (ux < uy) else decide (uy ≤ ux)
  (∀ f : UpForm, CompletesK (.scmp f) f.sw f.g
    { s := regRun f.a (f.w.val + 1) ++ (if f.i = 1 then [] else regRun f.b (f.w.val + 1)) } f.p fun rd _ =>
    if f.w = 1 then
      let x : DWord := pair (rd f.a) (rd (f.a + 1))
      let y : DWord := if f.i = 1 then BitVec.ofNat 64 f.b else pair (rd f.b) (rd (f.b + 1))
      compare f.c x.toInt y.toInt x.toNat y.toNat
    else
      let x : Word := rd f.a
      let y : Word := if f.i = 1 then BitVec.ofNat 32 f.b else rd f.b
      compare f.c x.toInt y.toInt x.toNat y.toNat) ∧
  (∀ f : PlogForm, CompletesK (.klog f) f.sw f.g {} f.p fun _ k =>
    let x := predOf k f.x != decide (f.nx = 1)
    let y := predOf k f.y != decide (f.ny = 1)
    if f.c = 0 then x && y else if f.c = 1 then x || y else x != y) ∧
  ∀ f : UlForm, CompletesUni (.smovl f) f.sw f.g 8 { s := regRun f.d (f.w.val + 1) } f.d fun _ =>
    if f.w = 1 then [BitVec.ofNat 32 f.lit, if f.lit.val < 2 ^ 31 then 0x00000000#32 else 0xFFFFFFFF#32] else [BitVec.ofNat 32 f.lit]

/-- With its guard on: sbra sends every issued lane, or the mast core, to P + 4 times the signed 20-bit offset. scall does so after
pushing P + 4 on each issued lane's return stack (where each has fewer than 8 entries), or on the mast return stack (fewer than 16
entries, else F_RETSTACK at the core). sret sends each issued lane, or the core, to its newest entry and removes it (an empty mast
stack raises F_RETSTACK). snop only advances. Nothing else changes, and with the guard off each of them only advances. -/
def Obligations.UniformControlFlow : Prop :=
  let target (pc : DWord) (o : Fin 1048576) : DWord := pc + BitVec.ofInt 64 (4 * (BitVec.ofNat 20 o).toInt)
  (∀ f : BForm, SkipsWithoutEffect (.sbra f) f.sw f.g 4 {} ∧ SkipsWithoutEffect (.scall f) f.sw f.g 4 {}) ∧
  (∀ f : NForm, SkipsWithoutEffect (.sret f) f.sw f.g 4 {} ∧ SkipsWithoutEffect (.snop f) f.sw f.g 4 {}) ∧
  (∀ (f : BForm) (s : State) (gid : Nat) (pc : DWord) (g : Group), ReadyUni s gid pc g (.sbra f) f.sw f.g {} →
    ∃ g', exec (.sbra f) s = .next (s.setG gid g') ∧ g' = { (g.ready pc) with pc := g'.pc } ∧ g.Advanced g' (g.issued pc) (asPc (target pc f.o))) ∧
  (∀ (f : BForm) (s : State) (c : Nat) (m : Mast), RunsMast s c m (.sbra f) f.g →
    exec (.sbra f) s = .next (s.setM c { m with pc := target m.pc f.o })) ∧
  (∀ (f : BForm) (s : State) (gid : Nat) (pc : DWord) (g : Group), ReadyUni s gid pc g (.scall f) f.sw f.g {} → g.waiting ≠ .results →
    (∀ l < 32, has (g.issued pc) l → (g.stackOf l).length < 8) →
    ∃ g', exec (.scall f) s = .next (s.setG gid g') ∧
      g' = { (g.ready pc) with pc := g'.pc, stack := g'.stack, spilling := g.spilling.erase pc } ∧
      g.Advanced g' (g.issued pc) (asPc (target pc f.o)) ∧
      ∀ l < 32, g'.stackOf l = if has (g.issued pc) l then g.stackOf l ++ [asPc (pc + 4#64)] else g.stackOf l) ∧
  (∀ (f : BForm) (s : State) (c : Nat) (m : Mast), RunsMast s c m (.scall f) f.g →
    exec (.scall f) s = .next (if m.stack.length < 16 then s.setM c { m with stack := m.stack ++ [m.pc + 4#64], pc := target m.pc f.o }
      else s.mastFault c 0x07 0#64 0#64)) ∧
  (∀ (f : NForm) (s : State) (gid : Nat) (pc : DWord) (g : Group), ReadyUni s gid pc g (.sret f) f.sw f.g {} → g.waiting ≠ .results →
    (∀ l < 32, has (g.issued pc) l → g.stackOf l ≠ []) →
    ∃ g', exec (.sret f) s = .next (s.setG gid g') ∧
      g' = { (g.ready pc) with pc := g'.pc, stack := g'.stack, spilling := g.spilling.erase pc } ∧
      ∀ l < 32, g'.pcOf l = (if has (g.issued pc) l then asPc ((g.stackOf l).getLastD 0#64) else g.pcOf l) ∧
        g'.stackOf l = if has (g.issued pc) l then (g.stackOf l).dropLast else g.stackOf l) ∧
  (∀ (f : NForm) (s : State) (c : Nat) (m : Mast), RunsMast s c m (.sret f) f.g →
    exec (.sret f) s = .next (if m.stack = [] then s.mastFault c 0x07 0#64 0#64
      else s.setM c { m with stack := m.stack.dropLast, pc := m.stack.getLastD 0#64 })) ∧
  (∀ (f : NForm) (s : State) (gid : Nat) (pc : DWord) (g : Group), ReadyUni s gid pc g (.snop f) f.sw f.g {} →
    ∃ g', exec (.snop f) s = .next (s.setG gid g') ∧ g' = { (g.ready pc) with pc := g'.pc } ∧ g.Advanced g' (g.issued pc) (asPc (pc + 4#64))) ∧
  ∀ (f : NForm) (s : State) (c : Nat) (m : Mast), RunsMast s c m (.snop f) f.g →
    exec (.snop f) s = .next (s.setM c { m with pc := m.pc + 4#64 })

/-- For every group that may issue it with its guard on: ssr writes the selected special register into d (a 64-bit selector into the
pair), and with read-and-clear the sticky bits of %gstat are cleared while the old value is delivered; sget writes a predicate's
lane mask without the exited lanes, the mask I, the non-exited lanes, the helper lanes, the budget word or a rejoin mask. On a
mast core ssr delivers the device number or the clock count; sget and the other selectors raise F_RESERVED_FIELD (0x02) whatever
the guard. Nothing else changes but the PC; with the guard off, or with helper lanes only, each only advances. -/
def Obligations.UniformReadsOfGroupState : Prop :=
  let words (w : Fin 2) (x : DWord) : List Word := if w = 1 then [x.setWidth 32, (x >>> 32).setWidth 32] else [x.setWidth 32]
  (∀ (f : SsrForm) (s : State) (gid : Nat) (pc : DWord) (g : Group), ReadyUni s gid pc g (.ssr f) f.sw f.g { s := regRun f.d (f.w.val + 1) } →
    ∃ g', exec (.ssr f) s = .next (s.setG gid g') ∧ g' = { (g.ready pc) with s := g'.s, pc := g'.pc, gstat := g'.gstat } ∧
      g'.gstat = (if f.rc = 1 then g.gstat &&& ~~~0xFD#32 else g.gstat) ∧
      g.Advanced g' (g.issued pc) (asPc (pc + 4#64)) ∧ g.UniRun g' f.d (words f.w (s.special g f.sel 0))) ∧
  (∀ (f : SsrForm) (s : State) (c : Nat) (m : Mast), f.sel = 6 ∨ f.sel = 8 →
    (RunsMast s c m (.ssr f) f.g → ∃ m', exec (.ssr f) s = .next (s.setM c m') ∧ m' = { m with s := m'.s, pc := m.pc + 4#64 } ∧
      m.UniRun m' f.d (words f.w (if f.sel = 6 then BitVec.ofNat 64 (s.device % 2 ^ 13) else BitVec.ofNat 64 s.clk))) ∧
    (SkipsMast s c m (.ssr f) f.g → exec (.ssr f) s = .next (s.setM c { m with pc := m.pc + 4#64 }))) ∧
  (∀ (s : State) (gid : Nat) (pc : DWord) (g : Group),
    (∀ f : SsrForm, Ready s gid pc g (.ssr f) f.sw { s := regRun f.d (f.w.val + 1) } →
      predOf g.k f.g = false ∨ g.issued pc &&& ~~~g.helper = 0#32 → ∃ g', exec (.ssr f) s = .next (s.setG gid g') ∧
        g' = { (g.ready pc) with pc := g'.pc } ∧ g.Advanced g' (g.issued pc) (asPc (pc + 4#64))) ∧
    ∀ f : SgetForm, Ready s gid pc g (.sget f) f.sw { s := [f.d] } →
      predOf g.k f.g = false ∨ g.issued pc &&& ~~~g.helper = 0#32 → ∃ g', exec (.sget f) s = .next (s.setG gid g') ∧
        g' = { (g.ready pc) with pc := g'.pc } ∧ g.Advanced g' (g.issued pc) (asPc (pc + 4#64))) ∧
  (∀ (f : SsrForm) (s : State) (c : Nat), s.cur = .mast c → (s.mast c).mayRun = true → f.sel ≠ 6 → f.sel ≠ 8 →
    exec (.ssr f) s = .next (s.mastFault c 0x02 0#64 0#64)) ∧
  (∀ (f : SgetForm) (s : State) (gid : Nat) (pc : DWord) (g : Group), ReadyUni s gid pc g (.sget f) f.sw f.g { s := [f.d] } →
    ∃ g', exec (.sget f) s = .next (s.setG gid g') ∧ g' = { (g.ready pc) with s := g'.s, pc := g'.pc } ∧
      g.Advanced g' (g.issued pc) (asPc (pc + 4#64)) ∧
      g.UniRun g' f.d [
        if f.i.val < 7 then g.preds f.i &&& ~~~g.exited else if f.i.val = 7 then g.issued pc else if f.i.val = 8 then ~~~g.exited
        else if f.i.val = 9 then g.helper
        else if f.i.val = 10 then BitVec.ofNat 32 ((s.variantOf g).vregs + 2 ^ 8 * (s.variantOf g).tiles + 2 ^ 16 * (s.variantOf g).accs)
        else (g.rejoin (f.i.val - 16)).mask]) ∧
  ∀ (f : SgetForm) (s : State) (c : Nat), s.cur = .mast c → (s.mast c).mayRun = true → exec (.sget f) s = .next (s.mastFault c 0x02 0#64 0#64)

/-- For every operand form and every group that may issue it with a clear road, whose executing lanes' accesses pass the checks of
R157: (1) where nothing waits or is held below its home and the bytes stand unpoisoned in L2, each of ld, lds, ldacq and ldbc
completes, and the data registers of each executing lane are bound, as a long-latency result, to the bytes at its address (ldbc:
at one address for all), zero-extended (lds: sign-extended) below 32 bits and split over 2 or 4 registers above; the issued lanes
stand after the two words; memory and L2 change by the hints alone. (2) In general, where the accesses are performed in ascending
lane order, none of them having to wait, the answer is the state after those accesses and their hints with the bytes they read so
bound. ldacq's access publishes first what narrower holders released, and acquires. -/
def Obligations.GlobalLoadsBindTheBytesRead : Prop :=
  let gives (i : MForm → Instr) (signed acquire : Bool) : Prop :=
    ∀ (f : MForm) (s : State) (gid : Nat) (pc : DWord) (g : Group) (v : Nat → List Byte) (t : State),
      Ready s gid pc g (i f) f.sw (mUses f.bc f.d (dataRegs f.size) f.base) →
      let stream : Bool := decide (f.cls = 1)
      clearRoad s g stream →
      let it := g.issueAt gid pc 8 f.g
      let w := s.who it
      let n := nbytes f.size
      let addr (l : Nat) : DWord := g.laneAddr f.bc f.base f.size f.off l
      let bad (l : Nat) : Bool := if acquire then decide ((addr l).toNat % n ≠ 0) else lineBad g f.base f.off f.size
      let s1 := (s.setG gid (g.begun pc)).refill w ((lanesOf it.E).map addr)
      (∀ l ∈ lanesOf it.E, s1.accFault w .load (addr l) n (bad l) = none) →
      let s2 := if acquire = true ∧ it.E ≠ 0#32 then s1.updG gid fun g => { g with acqAt := s1.order } else s1
      let vas : List Nat := (lanesOf it.E).map fun l => (addr l).toNat
      let s3 := if acquire then s2 else s2.gather w vas n stream f.scope
      let read (l : Nat) (s : State) : Acc × State :=
        if acquire then s.acquireNow w (addr l).toNat n stream f.scope
        else s.loadNow w (addr l).toNat n stream f.scope (decide (f.pol = 1)) (tickOf vas n (decide ((lanesOf it.E).headD 0 = l)))
      Performs (fun s l => inTurn w s3.order (accAt (i f) (addr l).toNat) (read l) s) s3 (lanesOf it.E) v t →
      exec (i f) s = .next ((t.settleHints s2 w vas n stream f.scope f.rc f.grain f.pol true).performed
        gid it.I (asPc (pc + 8#64)) ((lanesOf it.E).flatMap fun l => vecWrites l f.d (loadWords f.size signed (v l))))
  let completes (i : MForm → Instr) (signed acquire : Bool) : Prop :=
    ∀ (f : MForm) (s : State) (gid : Nat) (pc : DWord) (g : Group),
      Ready s gid pc g (i f) f.sw (mUses f.bc f.d (dataRegs f.size) f.base) →
      clearRoad s g (decide (f.cls = 1)) →
      let it := g.issueAt gid pc 8 f.g
      let w := s.who it
      let n := nbytes f.size
      let addr (l : Nat) : DWord := g.laneAddr f.bc f.base f.size f.off l
      let bad (l : Nat) : Bool := if acquire then decide ((addr l).toNat % n ≠ 0) else lineBad g f.base f.off f.size
      let s1 := (s.setG gid (g.begun pc)).refill w ((lanesOf it.E).map addr)
      (∀ l ∈ lanesOf it.E, s1.accFault w .load (addr l) n (bad l) = none) →
      quietHome s gid g → (∀ l ∈ lanesOf it.E, atHome s w (addr l).toNat n) →
      ∃ t : State, t.mem = s.mem ∧ t.l2 = s.l2 ∧
        exec (i f) s = .next ((t.settleHints s1 w ((lanesOf it.E).map fun l => (addr l).toNat) n (decide (f.cls = 1)) f.scope f.rc f.grain f.pol true).performed
          gid it.I (asPc (pc + 8#64)) ((lanesOf it.E).flatMap fun l => vecWrites l f.d (loadWords f.size signed
            ((List.range n).map fun k => s.homeByte w.lid (canonAsid w.asid (addr l).toNat) ((addr l).toNat + k)))))
  completes .ld false false ∧ completes .lds true false ∧ completes .ldacq false true ∧
  gives .ld false false ∧ gives .lds true false ∧ gives .ldacq false true ∧
  ∀ (f : MForm) (s : State) (gid : Nat) (pc : DWord) (g : Group) (bs : List Byte) (t : State),
    Ready s gid pc g (.ldbc f) f.sw { v := regRun f.d (dataRegs f.size), s := [f.base, f.base + 1] } →
    let stream : Bool := decide (f.cls = 1)
    clearRoad s g stream →
    let it := g.issueAt gid pc 8 f.g
    let w := s.who it
    let n := nbytes f.size
    let addr := uniAddr (g.sreg64 f.base) f.off
    let s1 := (s.setG gid (g.begun pc)).refill w [addr]
    (it.E = 0#32 → exec (.ldbc f) s = .next ((s.setG gid (g.begun pc)).performed gid it.I (asPc (pc + 8#64)) [])) ∧
    (it.E ≠ 0#32 → s1.accFault w .load addr n false = none → quietHome s gid g → atHome s w addr.toNat n →
      ∃ t : State, t.mem = s.mem ∧ t.l2 = s.l2 ∧
        exec (.ldbc f) s = .next ((t.settleHints s1 w [addr.toNat] n stream f.scope f.rc f.grain f.pol true).performed gid it.I (asPc (pc + 8#64))
          ((lanesOf it.E).flatMap fun l => vecWrites l f.d (loadWords f.size false
            ((List.range n).map fun k => s.homeByte w.lid (canonAsid w.asid addr.toNat) (addr.toNat + k)))))) ∧
    (it.E ≠ 0#32 → s1.accFault w .load addr n false = none →
      inTurn w s1.order (accAt (.ldbc f) addr.toNat) (fun s => s.loadNow w addr.toNat n stream f.scope (decide (f.pol = 1))) s1 = (.ok bs, t) →
      exec (.ldbc f) s = .next ((t.settleHints s1 w [addr.toNat] n stream f.scope f.rc f.grain f.pol true).performed gid it.I (asPc (pc + 8#64))
        ((lanesOf it.E).flatMap fun l => vecWrites l f.d (loadWords f.size false bs))))

/-- For every operand form and every group that may issue it with a clear road, whose executing lanes' accesses pass the checks of
R157. (1) A stream store (CLASS 1) of scope 0 to 3 that does not bypass the L1, of one storing lane, to pages that are there and
no frozen declaration covers, with an L1 way for its lines and nothing of the group or on the page waiting, completes: each stored
byte is held in the cluster's L1 for the group (marked as a release for strel), every other held byte, memory and L2 stay as they
were, the issued lanes take P + 8. (2) Several lanes do so at once where the cluster's L1 is empty, nothing waits and their lines
are 16 at most: a byte that several lanes store holds the highest lane's. (3) A store that is ordinary or of scope 6, of a launch
that is not replayable, to bytes that stand in L2 with nothing waiting or held and nothing frozen, completes: the bytes at home
are those of the highest storing lane, every other byte that stood there is as before, memory too. (4) In general the executing
lanes that are no helpers store the low bytes of their data registers at their addresses, in ascending lane order; where none of
them has to wait, the answer is the state after those stores and their hints with the issued lanes at P + 8, and no register is
bound. A strel whose bytes are not held in the L1 first publishes what the group holds. -/
def Obligations.GlobalStoresPerformInLaneOrder : Prop :=
  let storing (i : MForm → Instr) (release : Bool) : Prop :=
    ∀ (f : MForm) (s : State) (gid : Nat) (pc : DWord) (g : Group),
      Ready s gid pc g (i f) f.sw (mUses f.bc f.d (dataRegs f.size) f.base) →
      let stream : Bool := decide (f.cls = 1)
      clearRoad s g stream →
      let it := g.issueAt gid pc 8 f.g
      let w := s.who it
      let n := nbytes f.size
      let addr (l : Nat) : DWord := g.laneAddr f.bc f.base f.size f.off l
      let bad (l : Nat) : Bool := if release then decide ((addr l).toNat % n ≠ 0) else lineBad g f.base f.off f.size
      let s1 := (s.setG gid (g.begun pc)).refill w ((lanesOf it.E).map addr)
      (∀ l ∈ lanesOf it.E, s1.accFault w .store (addr l) n (bad l) = none) →
      let m := it.E &&& ~~~g.helper
      let scope : Nat := if f.pol = 1 ∧ f.scope.val ≤ 3 then 4 else f.scope
      (∀ low, stream = true → scope ≤ 3 → lanesOf m = [low] → s.waitingOf gid s.order = [] → s.sideLog g.cluster g.sp = [] →
        let va := (addr low).toNat
        let key (k : Nat) : Nat := l1key (canonAsid w.asid va) (va + k)
        s1.mayHold w va n = true → (∀ x ∈ lineEnds va n, s1.l1Fits g.cluster (canonAsid w.asid va) x = true) →
        ∃ (t : State) (g' : Group), exec (i f) s = .next t ∧ t.mem = s.mem ∧ t.l2 = s.l2 ∧ t.devHeld = s.devHeld ∧
          find t.groups gid = some g' ∧ g' = { (g.begun pc) with pc := g'.pc } ∧ g.Advanced g' it.I (asPc (pc + 8#64)) ∧
          (∀ j, j ≠ gid → find t.groups j = find s.groups j) ∧
          (∀ k < n, ∃ h, find (t.cluster g.cluster).l1held (key k) = some h ∧ h.val = (laneBytes g f.d f.size low).getD k 0#8 ∧ h.party = gid ∧
            h.release = release) ∧
          (∀ k, (∀ j < n, k ≠ key j) → find (t.cluster g.cluster).l1held k = find (s.cluster g.cluster).l1held k) ∧
          ∀ c, c ≠ g.cluster → t.cluster c = s.cluster c) ∧
      let home (x : Nat) (s : State) : Byte := s.homeByte w.lid (canonAsid w.asid x) x
      let writer (x : Nat) : Option Nat := (lanesOf m).reverse.find? fun l => decide ((addr l).toNat ≤ x) && decide (x < (addr l).toNat + n)
      let byte (x l : Nat) : Byte := (laneBytes g f.d f.size l).getD (x - (addr l).toNat) 0#8
      (stream = true → scope ≤ 3 → quietHome s gid g →
        (∀ l ∈ lanesOf m, inShared (addr l).toNat = inShared ((addr l).toNat + n - 1) ∧ s1.mayHold w (addr l).toNat n = true) →
        (((lanesOf m).flatMap fun l => (lineEnds (addr l).toNat n).map fun x => lineKey (canonAsid w.asid x) x).eraseDups.length ≤ 16) →
        ∃ (t : State) (g' : Group), exec (i f) s = .next t ∧ t.mem = s.mem ∧ t.l2 = s.l2 ∧ t.devHeld = s.devHeld ∧
          find t.groups gid = some g' ∧ g' = { (g.begun pc) with pc := g'.pc } ∧ g.Advanced g' it.I (asPc (pc + 8#64)) ∧
          (∀ j, j ≠ gid → find t.groups j = find s.groups j) ∧
          ∀ x < 2 ^ 56, match writer x with
            | some l => ∃ h, find (t.cluster g.cluster).l1held (l1key (canonAsid w.asid x) x) = some h ∧ h.val = byte x l ∧ h.party = gid ∧ h.release = release
            | none => find (t.cluster g.cluster).l1held (l1key (canonAsid w.asid x) x) = none) ∧
      ((stream = false ∨ scope = 6) → quietHome s gid g → (∀ la, find s.launches w.lid = some la → la.replayable = false) →
        (∀ l ∈ lanesOf m, atHome s w (addr l).toNat n ∧
          ∀ k < n, s.frozenAt w.world ((addr l).toNat + k) = false ∧ s.frozenAt 0 ((addr l).toNat + k) = false) →
        ∃ t : State, t.mem = s.mem ∧
          (∀ x < 2 ^ 56, (find s.l2 (l2key (s.verOf w.lid (canonAsid w.asid x) x) (canonAsid w.asid x) x)).isSome →
            home x t = match writer x with | some l => byte x l | none => home x s) ∧
          exec (i f) s = .next ((t.settleHints s1 w ((lanesOf m).map fun l => (addr l).toNat) n stream scope 0 f.grain f.pol false).performed
            gid it.I (asPc (pc + 8#64)) [])) ∧
      ∀ (v : Nat → List Byte) (t : State),
        Performs (fun s l => inTurn w s1.order (accAt (i f) (addr l).toNat)
          (fun s => s.storeAtPoint w (addr l).toNat (laneBytes g f.d f.size l) stream release scope pc l) s) s1 (lanesOf m) v t →
        exec (i f) s = .next ((t.settleHints s1 w ((lanesOf m).map fun l => (addr l).toNat) n stream scope 0 f.grain f.pol false).performed
          gid it.I (asPc (pc + 8#64)) [])
  storing .st false ∧ storing .strel true

/-- For every operand form and every group that may issue it with a clear road, whose executing lanes' accesses are aligned and pass
the checks of R157: where the executing lanes that are no helpers perform their atomic in ascending lane order with the operands
of their data registers, none of them having to wait (so where nothing waits or is held below its home, the launch is not
replayable and the bytes stand in L2, unpoisoned and not frozen), atom binds each lane's data registers to the old value, red
binds nothing; the issued lanes stand after the two words. With no such lane the instruction only advances. -/
def Obligations.GlobalAtomicsReturnTheOldValue : Prop :=
  let gives (i : MaForm → Instr) (ret : Bool) : Prop :=
    ∀ (f : MaForm) (s : State) (gid : Nat) (pc : DWord) (g : Group) (v : Nat → List Byte) (t : State),
      Ready s gid pc g (i f) f.sw (mUses f.bc f.d (atomRegs f.size f.atop) f.base) → clearRoad s g false →
      let it := g.issueAt gid pc 8 f.g
      let w := s.who it
      let n := nbytes f.size
      let addr (l : Nat) : DWord := g.laneAddr f.bc f.base f.size f.off l
      let s1 := (s.setG gid (g.begun pc)).refill w ((lanesOf it.E).map addr)
      (∀ l ∈ lanesOf it.E, s1.accFault w .atomic (addr l) n (decide ((addr l).toNat % n ≠ 0)) = none) →
      let m := it.E &&& ~~~g.helper
      let operands (l : Nat) : Nat × Nat := atomOperands f.size f.atop (g.readV l) f.d
      let all (s : State) (v : Nat → List Byte) (t : State) : Prop := Performs (fun s l => inTurn w s1.order (accAt (i f) (addr l).toNat)
        (fun s => s.atomicNow w (addr l).toNat f.size f.atop (operands l).1 (operands l).2 f.scope ret) s) s (lanesOf m) v t
      (quietHome s gid g → (∀ la, find s.launches w.lid = some la → la.replayable = false) →
        (∀ l ∈ lanesOf m, atHome s w (addr l).toNat n ∧
          ∀ k < n, s.frozenAt w.world ((addr l).toNat + k) = false ∧ s.frozenAt 0 ((addr l).toNat + k) = false) →
        ∃ (v : Nat → List Byte) (t : State), all s1 v t ∧ t.mem = s.mem ∧
          exec (i f) s = .next ((t.settleHints s1 w ((lanesOf m).map fun l => (addr l).toNat) n false 6 0 0 f.pol false).performed gid it.I (asPc (pc + 8#64))
            (if ret then (lanesOf m).flatMap fun l => vecWrites l f.d (loadWords f.size false (v l)) else []))) ∧
      (Performs (fun s l => inTurn w s1.order (accAt (i f) (addr l).toNat)
        (fun s => s.atomicNow w (addr l).toNat f.size f.atop (operands l).1 (operands l).2 f.scope ret) s) s1 (lanesOf m) v t →
      exec (i f) s = .next ((t.settleHints s1 w ((lanesOf m).map fun l => (addr l).toNat) n false 6 0 0 f.pol false).performed gid it.I (asPc (pc + 8#64))
        (if ret then (lanesOf m).flatMap fun l => vecWrites l f.d (loadWords f.size false (v l)) else [])))
  gives .atom true ∧ gives .red false

/-- For every operand form and every group that may issue it with a clear road, whose executing lanes' addresses are aligned and in
range (R148, R150), where none of their accesses has to wait (so where no earlier access of the group waits and no granule they
read is poisoned): loads read each executing lane's bytes and bind its data registers, stores write the data bytes of the
executing lanes that are no helpers, atomics replace the old value by the operation's result in ascending lane order (atsh and atg
bind the old value, redsh nothing); the issued lanes stand after the two words. With no earlier access of the group waiting, no
byte of memory, L2 or an L1 changes, and in every cluster's scratchpad only the bytes that a storing lane's address names (none
for a load). -/
def Obligations.ScratchpadAccessesComplete : Prop :=
  let frame (s t : State) (gid : Nat) (g : Group) (stored : List Word) (n : Nat) (window : Bool) : Prop :=
    s.waitingOf gid s.order = [] → t.mem = s.mem ∧ t.l2 = s.l2 ∧ ∀ c, (t.cluster c).l1held = (s.cluster c).l1held ∧ (t.cluster c).l1 = (s.cluster c).l1 ∧
      ∀ k, (∀ a ∈ stored, ∀ b m off, s.blockOf g = some b → s.spPlace b window a n = .ok (m, off) → c = m.cluster → ∀ i < n, k ≠ m.spKey (off + i)) →
        getD (t.cluster c).scratch k 0#8 = getD (s.cluster c).scratch k 0#8
  let sound (s : State) (g : Group) (window : Bool) (a : Word) (n : Nat) : Prop :=
    ∀ b m off, s.blockOf g = some b → s.spPlace b window a n = .ok (m, off) → s.spPoison m off n = false
  let loads (i : MForm → Instr) (window signed : Bool) : Prop :=
    ∀ (f : MForm) (s : State) (gid : Nat) (pc : DWord) (g : Group) (v : Nat → List Byte) (t : State),
      Ready s gid pc g (i f) f.sw (shUses f.bc f.d (dataRegs f.size) f.base) → clearRoad s g false →
      let it := g.issueAt gid pc 8 f.g
      let n := nbytes f.size
      let addr (l : Nat) : Word := g.laneAddr32 f.bc f.base f.size f.off l
      (∀ l ∈ lanesOf it.E, s.spFault g window (addr l) n = none) →
      (s.waitingOf gid s.order = [] → (∀ l ∈ lanesOf it.E, sound s g window (addr l) n) →
        ∃ (v : Nat → List Byte) (t : State),
          (∀ l ∈ lanesOf it.E, ∀ b m off, s.blockOf g = some b → s.spPlace b window (addr l) n = .ok (m, off) → m.phase ≠ .gone → v l = s.spRead m off n) ∧
          exec (i f) s = .next (t.performed gid it.I (asPc (pc + 8#64)) ((lanesOf it.E).flatMap fun l => vecWrites l f.d (loadWords f.size signed (v l)))) ∧
          frame s t gid g [] n window) ∧
      (Performs (fun s' l => inTurn (s.who it) s.order (accAt (i f) (addr l).toNat) (fun s => s.spLoad gid g window (addr l) n) s')
        (s.setG gid (g.begun pc)) (lanesOf it.E) v t →
      exec (i f) s = .next (t.performed gid it.I (asPc (pc + 8#64)) ((lanesOf it.E).flatMap fun l => vecWrites l f.d (loadWords f.size signed (v l)))) ∧
      frame s t gid g [] n window)
  let stores (i : MForm → Instr) (window : Bool) : Prop :=
    ∀ (f : MForm) (s : State) (gid : Nat) (pc : DWord) (g : Group) (v : Nat → List Byte) (t : State),
      Ready s gid pc g (i f) f.sw (shUses f.bc f.d (dataRegs f.size) f.base) → clearRoad s g false →
      let it := g.issueAt gid pc 8 f.g
      let n := nbytes f.size
      let addr (l : Nat) : Word := g.laneAddr32 f.bc f.base f.size f.off l
      let m := it.E &&& ~~~g.helper
      (∀ l ∈ lanesOf it.E, s.spFault g window (addr l) n = none) →
      let all (v : Nat → List Byte) (t : State) : Prop :=
        Performs (fun s' l => inTurn (s.who it) s.order (accAt (i f) (addr l).toNat) (fun s => s.spStore gid g window (addr l) (laneBytes g f.d f.size l)) s')
          (s.setG gid (g.begun pc)) (lanesOf m) v t
      (s.waitingOf gid s.order = [] → ∃ (v : Nat → List Byte) (t : State), all v t ∧
        exec (i f) s = .next (t.performed gid it.I (asPc (pc + 8#64)) []) ∧ frame s t gid g ((lanesOf m).map addr) n window) ∧
      (all v t → exec (i f) s = .next (t.performed gid it.I (asPc (pc + 8#64)) []) ∧ frame s t gid g ((lanesOf m).map addr) n window)
  let atomics (i : MaForm → Instr) (window ret : Bool) : Prop :=
    ∀ (f : MaForm) (s : State) (gid : Nat) (pc : DWord) (g : Group) (v : Nat → List Byte) (t : State),
      Ready s gid pc g (i f) f.sw (shUses f.bc f.d (atomRegs f.size f.atop) f.base) → clearRoad s g false →
      let it := g.issueAt gid pc 8 f.g
      let n := nbytes f.size
      let addr (l : Nat) : Word := g.laneAddr32 f.bc f.base f.size f.off l
      let m := it.E &&& ~~~g.helper
      let operands (l : Nat) : Nat × Nat := atomOperands f.size f.atop (g.readV l) f.d
      (∀ l ∈ lanesOf it.E, s.spFault g window (addr l) n = none) →
      let all (v : Nat → List Byte) (t : State) : Prop := Performs (fun s' l => inTurn (s.who it) s.order (accAt (i f) (addr l).toNat)
        (fun s => s.spAtomic gid g window (addr l) f.size f.atop (operands l).1 (operands l).2) s') (s.setG gid (g.begun pc)) (lanesOf m) v t
      (s.waitingOf gid s.order = [] → (∀ l ∈ lanesOf m, sound s g window (addr l) n) → ∃ (v : Nat → List Byte) (t : State), all v t ∧
        exec (i f) s = .next (t.performed gid it.I (asPc (pc + 8#64))
          (if ret then (lanesOf m).flatMap fun l => vecWrites l f.d (loadWords f.size false (v l)) else [])) ∧
        frame s t gid g ((lanesOf m).map addr) n window) ∧
      (all v t → exec (i f) s = .next (t.performed gid it.I (asPc (pc + 8#64))
        (if ret then (lanesOf m).flatMap fun l => vecWrites l f.d (loadWords f.size false (v l)) else [])) ∧
      frame s t gid g ((lanesOf m).map addr) n window)
  loads .ldsh false false ∧ loads .ldssh false true ∧ loads .ldg true false ∧ stores .stsh false ∧ stores .stg true ∧
  atomics .atsh false true ∧ atomics .redsh false false ∧ atomics .atg true true

/-- For every operand form and every group that may issue it: pref and evict answer a next state; where the cluster's L1 holds no
stream store, the group changes only in that its issued lanes stand after the two words; where no executing lane's page lets them
act, nothing else changes but the translations made for that check. ldasy with a clear road and lanes that pass its checks adds
for each executing lane that is no helper, in ascending order, a piece to its cluster, at the instruction's place in the group's
order: for a stream source the bytes are still to be read, for an ordinary source they are read now where that read has not to
wait (so where nothing waits or is held below its home, they stand unpoisoned in L2 and no line's read budget runs). gwaddr binds
d to 0x8000_0000 + rank x 2^28 + offset where rank and offset lie within the gang. -/
def Obligations.HintsAsynchronousLoadsAndWindowAddresses : Prop :=
  let hint (i : MForm → Instr) : Prop :=
    ∀ (f : MForm) (s : State) (gid : Nat) (pc : DWord) (g : Group), Ready s gid pc g (i f) f.sw (mUses f.bc f.d 1 f.base) →
      let w := s.who (g.issueAt gid pc 8 f.g)
      let ls := lanesOf (g.executing pc f.g &&& ~~~g.helper)
      let addr (l : Nat) : DWord := g.laneAddr f.bc f.base f.size f.off l
      let s1 := s.setG gid (g.begun pc)
      let s2 := s1.hintWalks w (ls.map addr)
      ∃ t : State, exec (i f) s = .next t ∧
        ((s.cluster g.cluster).l1held = [] → ∃ g' : Group, find t.groups gid = some g' ∧ g' = { (g.begun pc) with pc := g'.pc } ∧
          g.Advanced g' (g.issued pc) (asPc (pc + 8#64))) ∧
        ((∀ l ∈ ls, s1.hintOk w (addr l) = false ∧ s2.hintOk w (addr l) = false) →
          ∃ g' : Group, t = s2.setG gid g' ∧ g' = { (g.begun pc) with pc := g'.pc } ∧ g.Advanced g' (g.issued pc) (asPc (pc + 8#64)))
  hint .pref ∧ hint .evict ∧
  (∀ (f : MForm) (s : State) (gid : Nat) (pc : DWord) (g : Group) (v : Nat → List Byte) (t : State),
    let stream : Bool := decide (f.cls = 1)
    Ready s gid pc g (.ldasy f) f.sw (mUses f.bc f.d 2 f.base) → clearRoad s g stream →
    let it := g.issueAt gid pc 8 f.g
    let w := s.who it
    let n := nbytes f.size
    let addr (l : Nat) : DWord := g.laneAddr f.bc f.base f.size f.off l
    let s1 := (s.setG gid (g.begun pc)).refill w ((lanesOf it.E).map addr)
    (∀ l ∈ lanesOf it.E, s1.ldasyFault w g (addr l) (g.readV l f.d) (g.readV l (f.d + 1)) n = none) →
    let m := it.E &&& ~~~g.helper
    let piece (l : Nat) (data : Option (List Byte)) : Piece :=
      { gid := gid, bid := g.bid, dst := (g.readV l f.d).toNat, obj := (g.readV l (f.d + 1)).toNat, src := (addr l).toNat, asid := w.asid
        size := n, stream := stream, data := data, lane := l, pc := pc, seq := s1.order, grain := f.grain, pol := f.pol }
    let issue (s : State) (l : Nat) (data : Option (List Byte)) : State := s.updC w.c fun k => { k with pieces := k.pieces ++ [piece l data] }
    (m = 0#32 → exec (.ldasy f) s = .next (s1.performed gid it.I (asPc (pc + 8#64)) [])) ∧
    (m ≠ 0#32 → stream = true → ∃ t : State, t = (lanesOf m).foldl (fun s l => issue s l none) s1 ∧
      exec (.ldasy f) s = .next (({ t with order := max t.order (s1.order + 1) } : State).performed gid it.I (asPc (pc + 8#64)) [])) ∧
    (m ≠ 0#32 → stream = false → quietHome s gid g → w.asid < 2 ^ 16 → (∀ e ∈ s.lineUse, e.2.rc = 0) → (∀ l ∈ lanesOf m, atHome s w (addr l).toNat n) →
      ∃ t : State, (t.cluster w.c).pieces = (s.cluster w.c).pieces ++ (lanesOf m).map (fun l => piece l
          (some ((List.range n).map fun k => s.homeByte w.lid (canonAsid w.asid (addr l).toNat) ((addr l).toNat + k)))) ∧
        exec (.ldasy f) s = .next (({ t with order := max t.order (s1.order + 1) } : State).performed gid it.I (asPc (pc + 8#64)) [])) ∧
    (m ≠ 0#32 → Performs (fun s l =>
        if stream then (.ok [], issue s l none)
        else match inTurn w s1.order (piece l none).acc (fun s => s.loadNow w (addr l).toNat n false 0 (decide (f.pol = 1)) 1 .copy) s with
          | (.ok bs, s') => (.ok bs, (issue s' l (some bs)).settleHints s w [(addr l).toNat] n false 0 0 f.grain f.pol true)
          | r => r) s1 (lanesOf m) v t →
      exec (.ldasy f) s = .next (({ t with order := max t.order (s1.order + 1) } : State).performed gid it.I (asPc (pc + 8#64)) []))) ∧
  ∀ (f : GwForm) (s : State) (gid : Nat) (pc : DWord) (g : Group) (b : Block), Ready s gid pc g (.gwaddr f) f.sw (rUses f.d f.a f.e f.b) →
    s.blockOf g = some b →
    let it := g.issueAt gid pc 4 f.g
    (∀ l ∈ lanesOf it.E, (g.readV l f.a).toNat < s.gangSize b ∧
      ∃ m, s.member b (g.readV l f.a).toNat = some m ∧ (g.opb f.e f.b l).toNat < s.scratchOf m) →
    exec (.gwaddr f) s = .next ((s.setG gid (g.begun pc)).performed gid it.I (asPc (pc + 4#64))
      ((lanesOf it.E).map fun l => (.vec l f.d, BitVec.ofNat 32 (2 ^ 31 + (g.readV l f.a).toNat * 2 ^ 28 + (g.opb f.e f.b l).toNat))))

/-- For an access whose party has no launch, no byte of which a frozen declaration covers, of 1 to 16 bytes whose 16-byte sectors
stand in L2: the store at the home succeeds and leaves memory itself, the registers and every group alone; every byte of every
sector that was in L2 reads as the stored byte inside the access and as before outside it. A read of the same bytes, unpoisoned,
then returns exactly what was stored. A read alone changes nothing. -/
def Obligations.HomeStoresAreReadBackAndTouchNothingElse : Prop :=
  ∀ (s : State) (q : Req) (va : Nat) (bs : List Byte),
    1 ≤ bs.length → bs.length ≤ 16 → va + bs.length ≤ 2 ^ 56 → find s.launches q.lid = none → inShared (va + bs.length - 1) = false →
    (∀ p ∈ pieces va bs.length, s.frozenAt q.world p.1 = false ∧ s.frozenAt q.world (p.1 + p.2 - 1) = false ∧
      ∃ x, find s.l2 (l2key 0 q.asid p.1) = some x) →
    let byteAt (s : State) (a x : Nat) : Option Byte := (find s.l2 (l2key 0 a x)).map fun e => sectorByte e.data (x % 16)
    ∃ t, s.homeWrite q va bs = (.ok [], t) ∧ t.mem = s.mem ∧ t.groups = s.groups ∧ t.clusters = s.clusters ∧
      (∀ (a x : Nat), a < 2 ^ 16 → x < 2 ^ 56 → byteAt t a x =
        if a = q.asid ∧ va ≤ x ∧ x < va + bs.length then some (bs.getD (x - va) 0#8) else byteAt s a x) ∧
      ((∀ p ∈ pieces va bs.length, t.homePoison q.lid q.asid p.1 = false) → t.homeRead q va bs.length = (.ok bs, t))

/-- For ld and st, every operand form, every group that may issue it with a clear road: if some executing lane that is no helper fails
a check of R157 and l is the lowest such lane, the fault raised has the code, address and detail of l and as its lanes all failing
lanes that are no helpers; the PCs stay at P, and no register, no memory byte and no CTB entry changes. -/
def Obligations.PreciseAccessFaultsChangeNothing : Prop :=
  let gives (i : MForm → Instr) (k : AccKind) : Prop :=
    ∀ (f : MForm) (s : State) (gid : Nat) (pc : DWord) (g : Group) (low code : Nat) (a d : DWord),
      Ready s gid pc g (i f) f.sw (mUses f.bc f.d (dataRegs f.size) f.base) → clearRoad s g (decide (f.cls = 1)) →
      let it := g.issueAt gid pc 8 f.g
      let w := s.who it
      let addr (l : Nat) : DWord := g.laneAddr f.bc f.base f.size f.off l
      let s1 := (s.setG gid (g.begun pc)).refill w ((lanesOf it.E).map addr)
      let check (l : Nat) : Option (Nat × DWord × DWord) := s1.accFault w k (addr l) (nbytes f.size) (lineBad g f.base f.off f.size)
      let failing (l : Nat) : Prop := has it.E l ∧ ¬ has g.helper l ∧ check l ≠ none
      low < 32 → failing low → (∀ l < low, ¬ failing l) → check low = some (code, a, d) →
      ∃ m : Word, (∀ l < 32, has m l ↔ failing l) ∧ exec (i f) s = .next (s.raise gid code m pc a d)
  gives .ld .load ∧ gives .st .store

/-- For every group that may issue it, with the checks of R199 passed and, for those that access memory, no `qrd` entry and no
side-log count awaited: mldw (tile and memory), mbmap, mflip, mma, the four modes of acpy, ackd, azero, aset, both directions of
tmov, tst and tstsh append one entry to the pipe that holds the instruction, its executing lanes, its PC and the words read at
issue. mldw and mbmap acquire a free engine first; mldw, mflip and mma.flip update the issue stage's copy of the plane
descriptors. No register, tile, accumulator or memory byte changes yet. -/
def Obligations.MatrixInstructionsEnterThePipe : Prop :=
  let solid (g : Group) (pc : DWord) (gd : Fin 8) : Prop := g.executing pc gd &&& ~~~g.helper ≠ 0#32
  let free (g : Group) : Prop := g.awaits = 0 ∧ g.sideCount = 0
  let plain (i : Instr) (sw : Fin 2) (gd : Fin 8) (u : Uses) (ok : State → Group → Prop) (vals : Group → List Word) : Prop :=
    ∀ (s : State) (gid : Nat) (pc : DWord) (g : Group), Ready s gid pc g i sw u → ok s g → g.executing pc gd ≠ 0#32 →
      ∃ t, exec i s = .next t ∧ Piped s t gid pc g gd i (vals g) (s.engine g.cluster g.sp)
  let acquired (s : State) (gid : Nat) (g : Group) : MatEngine :=
    if (s.engine g.cluster g.sp).holder = some gid then s.engine g.cluster g.sp
    else { (s.engine g.cluster g.sp).cleared with holder := some gid }
  let available (s : State) (gid : Nat) (g : Group) : Prop :=
    (s.engine g.cluster g.sp).holder = some gid ∨ ((s.engine g.cluster g.sp).holder = none ∧ (s.engine g.cluster g.sp).waiters = [])
  let type (n : Fin 8) (s : State) (g : Group) : Nat := slotType (s.slot g n)
  let fits (c j0 n width : Nat) (s : State) (g : Group) : Prop := j0 + n ≤ width ∧ c + n ≤ (s.variantOf g).vregs
  let run (g : Group) (c n : Nat) : List Word := (List.range n).flatMap fun i => (List.range 32).map fun l => g.readV l (c + i)
  (∀ f : AcpyRForm, plain (.acpyReg f) f.sw f.g { v := [f.c.val], a := [f.acc] }
    (fun s g => type f.fmt s g ≠ 0 ∧ fits f.c f.j0 (f.n1.val + 1) 64 s g) fun _ => []) ∧
  (∀ f : AcpyTForm, plain (.acpyTile f) f.sw f.g { t := [f.ta], a := [f.acc] }
    (fun s g => (type f.fmt s g = 1 ∨ type f.fmt s g = 2 ∨ type f.fmt s g = 3 ∨ type f.fmt s g = 4 ∨ type f.fmt s g = 6) ∧
      (f.h = 1 → type f.fmt s g ≠ 2 ∧ type f.fmt s g ≠ 3)) fun _ => []) ∧
  (∀ f : AcpySForm, plain (.acpyStat f) f.sw f.g { v := [f.c], a := [f.acc] } (fun _ _ => True) fun _ => []) ∧
  (∀ f : AckdForm, plain (.ackd f) f.sw f.g { a := [f.acc] } (fun s g => type f.fmt s g ≠ 0) fun _ => []) ∧
  (∀ f : AzeroForm, plain (.azero f) f.sw f.g { a := [f.acc] } (fun _ _ => True) fun _ => []) ∧
  (∀ f : AsetForm, plain (.aset f) f.sw f.g { v := [f.c.val], a := [f.acc] } (fits f.c f.j0 (f.n1.val + 1) 64) fun g => run g f.c (f.n1.val + 1)) ∧
  (∀ f : TmovForm, plain (.tmovGet f) f.sw f.g { v := [f.c.val], t := [f.ta] } (fits f.c f.j0 (f.n1.val + 1) 32) fun _ => []) ∧
  (∀ f : TmovForm, plain (.tmovPut f) f.sw f.g { v := [f.c.val], t := [f.ta] } (fits f.c f.j0 (f.n1.val + 1) 32) fun g => run g f.c (f.n1.val + 1)) ∧
  (∀ f : TldForm, plain (.tstsh f) f.sw f.g (tldUsesSh f)
    (fun s g => free g ∧ ∀ l < 32, s.rowFaultSh g (tldRowAddr32 f g l) = none) fun g => (List.range 32).map (tldRowAddr32 f g)) ∧
  (∀ (f : TldForm) (s : State) (gid : Nat) (pc : DWord) (g : Group), Ready s gid pc g (.tst f) f.sw (tldUses f) → free g →
    g.executing pc f.g ≠ 0#32 →
    (∀ l ∈ lanesOf (g.executing pc f.g), ((s.setG gid (g.begun pc)).refill (s.who (g.issueAt gid pc 8 f.g))
      ((lanesOf (g.executing pc f.g)).map (tldRowAddr f g))).rowFault (s.who (g.issueAt gid pc 8 f.g)) .store (tldRowAddr f g l) = none) →
    ∃ t, exec (.tst f) s = .next t ∧ Piped s t gid pc g f.g (.tst f)
      ((List.range 32).flatMap fun l => [(tldRowAddr f g l).setWidth 32, ((tldRowAddr f g l) >>> 32).setWidth 32]) (s.engine g.cluster g.sp)) ∧
  (∀ (f : AcpyMForm) (s : State) (gid : Nat) (pc : DWord) (g : Group), Ready s gid pc g (.acpyMem f) f.sw { s := [f.a, f.a + 1, f.b], a := [f.acc] } → free g →
    g.executing pc f.g ≠ 0#32 → type f.fmt s g ≠ 0 → (g.sreg64 f.a).toNat % 16 = 0 → (g.sreg f.b).toNat % 16 = 0 →
    ((s.setG gid (g.begun pc)).refill (s.who (g.issueAt gid pc 8 f.g)) [g.sreg64 f.a]).accFault (s.who (g.issueAt gid pc 8 f.g)) .store (g.sreg64 f.a) 1 false = none →
    ∃ t, exec (.acpyMem f) s = .next t ∧ Piped s t gid pc g f.g (.acpyMem f) [g.sreg f.a, g.sreg (f.a + 1), g.sreg f.b] (s.engine g.cluster g.sp)) ∧
  (∀ (f : MldwTForm) (s : State) (gid : Nat) (pc : DWord) (g : Group), Ready s gid pc g (.mldwTile f) f.sw { t := [f.ta], a := [0] } →
    solid g pc f.g → type f.fmt s g = 3 → f.kind = 0 → f.spar = 0 → f.ta.val + 1 < (s.variantOf g).tiles → available s gid g →
    ∃ t, exec (.mldwTile f) s = .next t ∧
      Piped s t gid pc g f.g (.mldwTile f) [] { acquired s gid g with issueShadow := (1, 64, 0, f.fmt.val) }) ∧
  (∀ (f : MldwMForm) (s : State) (gid : Nat) (pc : DWord) (g : Group) (kind k : Nat),
    let bpn : Bool := decide (type f.fmt s g = 16)
    let e0 : Word := if bpn then g.sreg f.b else 0#32
    Ready s gid pc g (.mldwMem f) f.sw { s := f.a.val :: (f.a + 1) :: (if bpn then [f.b.val] else []), a := [0] } →
    free g → solid g pc f.g → weightType (type f.fmt s g) = true → planeShape (type f.fmt s g) (slotPrd (s.slot g f.fmt)) f.kind f.spar false = some (kind, k) →
    (bpn = false → f.b = 0) → (g.sreg64 f.a).toNat % 128 = 0 → e0.toNat % 64 = 0 →
    (s.setG gid (g.begun pc)).accFault (s.who (g.issueAt gid pc 8 f.g)) .load (g.sreg64 f.a) 1 false = none →
    available s gid g →
    ∃ t, exec (.mldwMem f) s = .next t ∧ Piped s t gid pc g f.g (.mldwMem f) [g.sreg f.a, g.sreg (f.a + 1), e0]
      { acquired s gid g with issueShadow := (kind, k, f.spar.val, f.fmt.val) }) ∧
  (∀ (f : MbmapForm) (s : State) (gid : Nat) (pc : DWord) (g : Group),
    Ready s gid pc g (.mbmap f) f.sw { s := f.a.val :: (f.a + 1) :: (if f.high = 1 then [f.b.val, f.b + 1] else []), a := [0] } →
    solid g pc f.g → available s gid g →
    ∃ t, exec (.mbmap f) s = .next t ∧ Piped s t gid pc g f.g (.mbmap f)
      ([g.sreg f.a, g.sreg (f.a + 1)] ++ (if f.high = 1 then [g.sreg f.b, g.sreg (f.b + 1)] else [0#32, 0#32])) (acquired s gid g)) ∧
  (∀ (f : NForm) (s : State) (gid : Nat) (pc : DWord) (g : Group), Ready s gid pc g (.mflip f) f.sw {} →
    let e := s.engine g.cluster g.sp
    solid g pc f.g → e.holder = some gid →
    ∃ t, exec (.mflip f) s = .next t ∧
      Piped s t gid pc g f.g (.mflip f) [] { e with issueActive := e.issueShadow, issueShadow := e.issueActive }) ∧
  ∀ (f : MmaForm) (s : State) (gid : Nat) (pc : DWord) (g : Group), Ready s gid pc g (.mma f) f.sw { t := [f.ta], a := [f.acc] } →
    let e := s.engine g.cluster g.sp
    let plane := if f.flip = 1 then e.issueShadow else e.issueActive
    let m := runLength plane.1 plane.2.1
    g.executing pc f.g ≠ 0#32 → e.holder = some gid → f.ta.val % m = 0 → f.ta.val + m ≤ (s.variantOf g).tiles →
    ((plane.1 = 1 ∧ type f.fmt s g = 3) ∨ (plane.1 = 2 ∧ type f.fmt s g = 4)) →
    ∃ t, exec (.mma f) s = .next t ∧ Piped s t gid pc g f.g (.mma f) [BitVec.ofNat 32 m]
      (if f.flip = 1 then { e with issueActive := e.issueShadow, issueShadow := e.issueActive } else e)

/-- When the work at the head of a group's pipe may complete, MATRIX_INSTRUCTION_COMPLETE removes it and: azero clears every element,
row sum, column sum and the status word of its tile and no other; aset puts the noted words into the executing lanes' elements and
makes every sum agree with the elements and TYPE the INT field; tmov.put writes the noted words into the rows; tmov.get and
acpy.reg (no check) bind the registers to the row's words or elements; acpy.tile (no check) writes the converted rows; acpy.stat
binds the status word and clears SAT on request. ZC zeroes the tile afterwards. No other tile, accumulator or memory changes. -/
def Obligations.AccumulatorAndTileWorkCompletes : Prop :=
  let sameAcc (g g' : Group) (a : Nat) : Prop :=
    (∀ r < 32, ∀ n < 64, g'.accEl a r n = g.accEl a r n) ∧ (∀ r < 32, g'.rowSum a r = g.rowSum a r) ∧
    (∀ n < 64, g'.colSum a n = g.colSum a n) ∧ g'.accStat a = g.accStat a
  let zeroed (g' : Group) (a : Nat) : Prop :=
    (∀ r < 32, ∀ n < 64, g'.accEl a r n = 0#32) ∧ (∀ r < 32, g'.rowSum a r = 0#32) ∧ (∀ n < 64, g'.colSum a n = 0#32) ∧ g'.accStat a = 0#32
  let after (g g' : Group) (a : Nat) (zc : Fin 2) : Prop := if zc = 1 then zeroed g' a else sameAcc g g' a
  let bound (g g' : Group) (ws : List (Dest × Word)) : Prop := g'.pending = if ws = [] then g.pending else g.pending ++ [{ writes := ws }]
  let completes (i : Instr) (effect : State → Group → Group → MatWork → Prop) : Prop :=
    ∀ (s : State) (gid : Nat) (g : Group) (wk : MatWork) (rest : List MatWork), PipeHead s gid g wk rest → wk.instr = i →
      ∃ g', exec (.matrixInstructionComplete gid) s = .next (s.setG gid g') ∧ g'.pipe = rest ∧ effect s g g' wk
  (∀ f : AzeroForm, completes (.azero f) fun _ g g' _ =>
    g' = { g with pipe := g'.pipe, acc := g'.acc, rs := g'.rs, cs := g'.cs, accStatus := g'.accStatus } ∧
    zeroed g' f.acc ∧ ∀ a < 4, a ≠ f.acc → sameAcc g g' a) ∧
  (∀ f : AsetForm, f.j0.val + f.n1.val < 64 → completes (.aset f) fun _ g g' wk =>
    g' = { g with pipe := g'.pipe, acc := g'.acc, rs := g'.rs, cs := g'.cs, accStatus := g'.accStatus } ∧
    (∀ r < 32, ∀ n < 64, g'.accEl f.acc r n =
      if has wk.lanes r ∧ f.j0.val ≤ n ∧ n ≤ f.j0.val + f.n1.val then wk.vals.getD ((n - f.j0.val) * 32 + r) 0#32 else g.accEl f.acc r n) ∧
    (∀ r < 32, g'.rowSum f.acc r = tileSum (decide (f.int = 1)) ((List.range 64).map (g'.accEl f.acc r))) ∧
    (∀ n < 64, g'.colSum f.acc n = tileSum (decide (f.int = 1)) ((List.range 32).map fun r => g'.accEl f.acc r n)) ∧
    (g'.accStat f.acc).getLsbD 1 = decide (f.int = 1) ∧ ∀ a < 4, a ≠ f.acc → sameAcc g g' a) ∧
  (∀ f : TmovForm, f.j0.val + f.n1.val < 32 → completes (.tmovPut f) fun _ g g' wk =>
    g' = { g with pipe := g'.pipe, tile := g'.tile } ∧
    ∀ t < 8, ∀ r < 32, ∀ w < 32, g'.tileWord t r w =
      if t = f.ta ∧ has wk.lanes r ∧ f.j0.val ≤ w ∧ w ≤ f.j0.val + f.n1.val then wk.vals.getD ((w - f.j0.val) * 32 + r) 0#32 else g.tileWord t r w) ∧
  (∀ f : TmovForm, completes (.tmovGet f) fun _ g g' wk =>
    g' = { g with pipe := g'.pipe, pending := g'.pending } ∧
    bound g g' ((lanesOf wk.lanes).flatMap fun l => vecWrites l f.c ((List.range (f.n1.val + 1)).map fun i => g.tileWord f.ta l (f.j0 + i)))) ∧
  (∀ f : AcpyRForm, f.ckd = 0 → completes (.acpyReg f) fun _ g g' wk =>
    g' = { g with pipe := g'.pipe, pending := g'.pending, acc := g'.acc, rs := g'.rs, cs := g'.cs, accStatus := g'.accStatus } ∧
    bound g g' ((lanesOf wk.lanes).flatMap fun l => vecWrites l f.c ((List.range (f.n1.val + 1)).map fun i => g.accEl f.acc l (f.j0 + i))) ∧
    after g g' f.acc f.zc ∧ ∀ a < 4, a ≠ f.acc → sameAcc g g' a) ∧
  (∀ f : AcpyTForm, f.ckd = 0 → completes (.acpyTile f) fun s g g' wk =>
    g' = { g with pipe := g'.pipe, tile := g'.tile, acc := g'.acc, rs := g'.rs, cs := g'.cs, accStatus := g'.accStatus } ∧
    (∀ t < 8, ∀ r < 32, ∀ w < 32, g'.tileWord t r w = if t = f.ta ∧ has wk.lanes r
      then (g.convRow f.acc r (slotType (s.slot g f.fmt)) (slotMode (s.slot g f.fmt)) f.h f.ta).getD w 0#32 else g.tileWord t r w) ∧
    after g g' f.acc f.zc ∧ ∀ a < 4, a ≠ f.acc → sameAcc g g' a) ∧
  ∀ f : AcpySForm, completes (.acpyStat f) fun _ g g' wk =>
    g' = { g with pipe := g'.pipe, pending := g'.pending, accStatus := g'.accStatus } ∧
    bound g g' ((lanesOf wk.lanes).flatMap fun l => vecWrites l f.c [g.accStat f.acc]) ∧
    ∀ a < 4, g'.accStat a = if a = f.acc ∧ f.clr = 1 then g.accStat a &&& ~~~1#32 else g.accStat a

/-- When the work at the head of a group's pipe may complete: mldw from tiles makes the shadow plane the 64 x 64 BF16 plane of the
tile pair with its checksum column, mldw from memory the plane that its read gives (a page on its way leaves everything as it is);
mbmap sets the 128-bit bitmap; mflip and mma.flip swap the planes. mma on the plane then active adds to element (l, n) of each
executing lane, for each 64-deep segment in order, one pass over the products of the activations and the present weights (zero
first with ZC = 1); rows of other lanes keep their elements where ZC = 0. -/
def Obligations.PlanesAndPassesComplete : Prop :=
  let work (s : State) (gid : Nat) (g : Group) (wk : MatWork) (rest : List MatWork) (i : Instr) : Prop := PipeHead s gid g wk rest ∧ wk.instr = i
  let popped (t : State) (gid : Nat) (g : Group) (rest : List MatWork) : Prop := find t.groups gid = some { g with pipe := rest }
  (∀ (f : MldwTForm) (s : State) (gid : Nat) (g : Group) (wk : MatWork) (rest : List MatWork), work s gid g wk rest (.mldwTile f) →
    ∃ t, exec (.matrixInstructionComplete gid) s = .next t ∧ popped t gid g rest ∧ t.mem = s.mem ∧
      t.engine g.cluster g.sp = { s.engine g.cluster g.sp with shadow := (t.engine g.cluster g.sp).shadow, bitmap := 2 ^ 128 - 1 } ∧
      (t.engine g.cluster g.sp).shadow.kind = 1 ∧ (t.engine g.cluster g.sp).shadow.k = 64 ∧ (t.engine g.cluster g.sp).shadow.slot = f.fmt.val ∧
      ∀ k < 64, ∀ n < 64, find (t.engine g.cluster g.sp).shadow.w (k * 64 + n) =
        let w := g.tileWord (f.ta + k / 32) (k % 32) (n / 2)
        some (if n % 2 = 0 then w &&& 0xFFFF#32 else w >>> 16)) ∧
  (∀ (f : MldwMForm) (s : State) (gid : Nat) (g : Group) (wk : MatWork) (rest : List MatWork) (kind k : Nat), work s gid g wk rest (.mldwMem f) →
    let sl := s.slot g f.fmt
    planeShape (slotType sl) (slotPrd sl) f.kind f.spar false = some (kind, k) →
    let read := s.readPlane (s.whoOf gid g) wk.seq sl f.fmt kind k f.spar (pair (wk.vals.getD 0 0#32) (wk.vals.getD 1 0#32)).toNat
      (wk.vals.getD 2 0#32).toNat (s.engine g.cluster g.sp).bitmap
    (∀ (p : Plane) (s1 : State) (g1 : Group), read = (.ok p, s1) → find s1.groups gid = some g1 → g1.pipe = wk :: rest →
      ∃ t, exec (.matrixInstructionComplete gid) s = .next t ∧ popped t gid g1 rest ∧
        t.engine g.cluster g.sp = { s1.engine g.cluster g.sp with shadow := p, bitmap := 2 ^ 128 - 1 }) ∧
    ∀ s1 : State, read = (.error none, s1) → exec (.matrixInstructionComplete gid) s = .next s1) ∧
  (∀ (f : MbmapForm) (s : State) (gid : Nat) (g : Group) (wk : MatWork) (rest : List MatWork), work s gid g wk rest (.mbmap f) →
    ∃ t, exec (.matrixInstructionComplete gid) s = .next t ∧ popped t gid g rest ∧
      t.engine g.cluster g.sp = { s.engine g.cluster g.sp with bitmap :=
        (wk.vals.getD 0 0#32).toNat + (wk.vals.getD 1 0#32).toNat * 2 ^ 32 + (wk.vals.getD 2 0#32).toNat * 2 ^ 64 + (wk.vals.getD 3 0#32).toNat * 2 ^ 96 }) ∧
  (∀ (f : NForm) (s : State) (gid : Nat) (g : Group) (wk : MatWork) (rest : List MatWork), work s gid g wk rest (.mflip f) →
    ∃ t, exec (.matrixInstructionComplete gid) s = .next t ∧ popped t gid g rest ∧
      t.engine g.cluster g.sp = { s.engine g.cluster g.sp with
        active := (s.engine g.cluster g.sp).shadow, shadow := (s.engine g.cluster g.sp).active }) ∧
  ∀ (f : MmaForm) (s : State) (gid : Nat) (g : Group) (wk : MatWork) (rest : List MatWork), work s gid g wk rest (.mma f) →
    let e := s.engine g.cluster g.sp
    let p := if f.flip = 1 then e.shadow else e.active
    let ta := f.ta.val
    (p.kind = 1 ∨ p.kind = 2) →
    ∃ (t : State) (g' : Group), exec (.matrixInstructionComplete gid) s = .next t ∧ find t.groups gid = some g' ∧ t.mem = s.mem ∧
      g' = { g with pipe := rest, acc := g'.acc, rs := g'.rs, cs := g'.cs, accStatus := g'.accStatus } ∧
      (t.engine g.cluster g.sp).active = p ∧
      (g'.accStat f.acc).getLsbD 1 = decide (p.kind = 2) ∧
      (∀ a < 4, a ≠ f.acc → ∀ r < 32, ∀ n < 64, g'.accEl a r n = g.accEl a r n) ∧
      ∀ l < 32, ∀ n < 64,
        let old : Word := if f.zc = 1 then 0#32 else g.accEl f.acc l n
        let segment (h : Nat) : List Nat := (List.range 64).map (64 * h + ·)
        let weights (h : Nat) : List (Nat × Word) := (segment h).filterMap fun k => (find p.w (k * 64 + n)).map fun w => (k, w)
        (¬ has wk.lanes l → g'.accEl f.acc l n = old) ∧
        (has wk.lanes l → p.kind = 1 → g'.accEl f.acc l n = (List.range (p.k / 64)).foldl (fun c h =>
          BitVec.ofNat 32 (dotPass (fp32.val c.toNat ::
            (weights h).map fun x => (bf16.val (g.activation 1 ta l x.1).toNat).mul (bf16.val x.2.toNat)))) old) ∧
        (has wk.lanes l → p.kind = 2 → g'.accEl f.acc l n = (List.range (p.k / 64)).foldl (fun c h =>
          BitVec.ofInt 32 (max (-2 ^ 31) (min (2 ^ 31 - 1)
            (c.toInt + ((weights h).map fun x => (g.activation 2 ta l x.1).toInt * x.2.toInt).sum)))) old)

/-- When the work at the head of a group's pipe may complete and the side log has room: tst stores the 128 bytes of each executing
non-helper lane's row, acpy.mem (no check) the 256 bytes of its elements, as 16-byte ordinary stores in ascending order, each
after the checks of R157; tstsh stores each row into scratchpad or through the window; where none of them has to wait, the work
leaves the pipe and nothing else of the group changes (acpy.mem with ZC zeroes the tile). ackd: a passed drain check only leaves
the pipe in the state the check gives; a failed one halts the group with the late fault F_CHECKSUM_UNCORRECTABLE (0x41), DETAIL
the tile. -/
def Obligations.TileStoresAndDrainsComplete : Prop :=
  let pieceStore (w : Who) (seq a : Nat) (bs : List Byte) (s : State) : Acc × State :=
    inTurn w seq { kind := .store, va := a, n := 16 } (fun s =>
      match s.accFault w .store (BitVec.ofNat 64 a) 16 false with
      | some (c, _, d) => (.fail c d.toNat, s)
      | none => s.storeNow w a bs false) s
  let pop (t : State) (gid : Nat) : State := t.updG gid fun g => { g with pipe := g.pipe.drop 1 }
  let room (s : State) (g : Group) : Prop := (s.sideLog g.cluster g.sp).length ≤ 64
  (∀ (f : TldForm) (s t : State) (gid : Nat) (g : Group) (wk : MatWork) (rest : List MatWork) (v : Nat → List Byte),
    PipeHead s gid g wk rest → wk.instr = .tst f → g.phase ≠ .retired → room s g →
    let who := s.whoOf gid g
    let row (l : Nat) : List Byte := (List.range 32).flatMap fun i => toBytes 4 (g.tileWord f.ta l i).toNat
    let base (l : Nat) : Nat := (pair (wk.vals.getD (2 * l) 0#32) (wk.vals.getD (2 * l + 1) 0#32)).toNat
    Performs (fun s k => pieceStore who wk.seq (base (k / 8) + 16 * (k % 8)) (((row (k / 8)).drop (16 * (k % 8))).take 16) s) s
      ((lanesOf (wk.lanes &&& ~~~g.helper)).flatMap fun l => (List.range 8).map (8 * l + ·)) v t →
    exec (.matrixInstructionComplete gid) s = .next (pop t gid)) ∧
  (∀ (f : TldForm) (s t : State) (gid : Nat) (g : Group) (wk : MatWork) (rest : List MatWork) (v : Nat → List Byte),
    PipeHead s gid g wk rest → wk.instr = .tstsh f → g.phase ≠ .retired → room s g →
    let row (l : Nat) : List Byte := (List.range 32).flatMap fun i => toBytes 4 (g.tileWord f.ta l i).toNat
    let window (l : Nat) : Bool := bit (wk.vals.getD l 0#32).toNat 31
    Performs (fun s l => inTurn (s.whoOf gid g) wk.seq
        { kind := .store, space := if window l then 2 else 1, va := (wk.vals.getD l 0#32).toNat, n := 128 }
        (fun s => s.spStore gid g (window l) (wk.vals.getD l 0#32) (row l)) s) s
      (lanesOf (wk.lanes &&& ~~~g.helper)) v t →
    exec (.matrixInstructionComplete gid) s = .next (pop t gid)) ∧
  (∀ (f : AcpyMForm) (s t : State) (gid : Nat) (g : Group) (wk : MatWork) (rest : List MatWork) (v : Nat → List Byte),
    PipeHead s gid g wk rest → wk.instr = .acpyMem f → f.ckd = 0 → g.phase ≠ .retired → room s g →
    let who := s.whoOf gid g
    let row (l : Nat) : List Byte := (List.range 64).flatMap fun n => toBytes 4 (g.accEl f.acc l n).toNat
    let base (l : Nat) : Nat :=
      (pair (wk.vals.getD 0 0#32) (wk.vals.getD 1 0#32) + BitVec.ofNat 64 (l * (wk.vals.getD 2 0#32).toNat)).toNat
    Performs (fun s k => pieceStore who wk.seq (base (k / 16) + 16 * (k % 16)) (((row (k / 16)).drop (16 * (k % 16))).take 16) s) s
      ((lanesOf (wk.lanes &&& ~~~g.helper)).flatMap fun l => (List.range 16).map (16 * l + ·)) v t →
    exec (.matrixInstructionComplete gid) s =
      .next (if f.zc = 1 then (pop t gid).updG gid fun g => g.zeroAcc f.acc else pop t gid)) ∧
  ∀ (f : AckdForm) (s s1 : State) (gid : Nat) (g : Group) (wk : MatWork) (rest : List MatWork),
    PipeHead s gid g wk rest → wk.instr = .ackd f → g.phase ≠ .retired →
    let check := s.drain gid f.acc (slotTol (s.slot g f.fmt))
    (check = (s1, true) → exec (.matrixInstructionComplete gid) s = .next (pop s1 gid)) ∧
    (check = (s1, false) → exec (.matrixInstructionComplete gid) s =
      .next ((pop s1 gid).lateFault (s.whoOf gid g) 0x41 wk.lanes wk.pc 0#64 (BitVec.ofNat 64 f.acc)))

/-- For every accumulator tile and tolerance: a tile whose type is integer and whose SAT bit is set is not compared and stays as it
is. Where every row and column sum agrees (R91 for a float tile, equality for an integer tile), only FIXED becomes 0. Where
exactly one row r and one column n disagree and the repaired element (row sum minus the others of the row) makes both agree, the
element is replaced, FIXED and the sticky bit CKFIX are set and nothing else changes. In every other case the check fails and no
element changes. -/
def Obligations.DrainCheckCorrectsOneElement : Prop :=
  ∀ (g : Group) (a tol : Nat), a < 4 →
    let int := (g.accStat a).getLsbD 1
    let agree (x y : Word) : Bool := if int then x == y else ckAgree tol x.toNat y.toNat
    let rowOk (g : Group) (r : Nat) : Bool := agree (tileSum int ((List.range 64).map (g.accEl a r))) (g.rowSum a r)
    let colOk (g : Group) (n : Nat) : Bool := agree (tileSum int ((List.range 32).map fun r => g.accEl a r n)) (g.colSum a n)
    let clamped : Prop := int = true ∧ (g.accStat a).getLsbD 0 = true
    let r := g.drainCheck a tol
    (clamped → r = { g := g }) ∧
    (¬ clamped → (∀ x < 32, rowOk g x = true) → (∀ n < 64, colOk g n = true) →
      r.fixed = false ∧ r.bad = false ∧ r.g = { g with accStatus := r.g.accStatus } ∧
      (r.g.accStat a).getLsbD 2 = false ∧ ∀ b < 32, b ≠ 2 → (r.g.accStat a).getLsbD b = (g.accStat a).getLsbD b) ∧
    (∀ x < 32, ∀ n < 64, ¬ clamped → (∀ y < 32, rowOk g y = decide (y ≠ x)) → (∀ m < 64, colOk g m = decide (m ≠ n)) →
      let others : List Word := ((List.range 64).filter (· ≠ n)).map (g.accEl a x)
      let value : Word := if int then g.rowSum a x - sumMod others
        else BitVec.ofNat 32 (fp32.bitsOf .rne ((fp32.val (g.rowSum a x).toNat).add .rne (exactSum (others.map fun w => fp32.val w.toNat)).neg))
      let g1 := g.setAcc a x n value
      (rowOk g1 x = true → colOk g1 n = true → r.fixed = true ∧ r.bad = false ∧
        r.g = { g with acc := r.g.acc, accStatus := r.g.accStatus, gstat := g.gstat ||| 0x80#32 } ∧ (r.g.accStat a).getLsbD 2 = true ∧
        ∀ y < 32, ∀ m < 64, r.g.accEl a y m = if y = x ∧ m = n then value else g.accEl a y m) ∧
      (¬ (rowOk g1 x = true ∧ colOk g1 n = true) → r.bad = true ∧ r.g.acc = g.acc)) ∧
    (¬ clamped → ((∃ x < 32, ∃ y < 32, x ≠ y ∧ rowOk g x = false ∧ rowOk g y = false) ∨
        (∃ x < 64, ∃ y < 64, x ≠ y ∧ colOk g x = false ∧ colOk g y = false) ∨
        ((∃ x < 32, rowOk g x = false) ∧ ∀ n < 64, colOk g n = true) ∨ ((∀ x < 32, rowOk g x = true) ∧ ∃ n < 64, colOk g n = false)) →
      r.bad = true ∧ r.g.acc = g.acc)

/-- For every group that may issue it with a clear road and accepted row addresses: where every executing lane's 128-byte row is read
in ascending order (so where nothing waits and the rows stand unpoisoned in L2 or in scratchpad, the rows noted being those
bytes), tld (eight 16-byte loads a row) and tldsh note each row as on its way and the issued lanes go on. A row that may land
replaces all 32 words of its tile row and nothing else. mwait and mwait.rel stall the group while matrix work is outstanding; with
none outstanding mwait only advances, and mwait.rel releases an engine that the group holds and nobody else wants. -/
def Obligations.TileLoadsAndMatrixWaits : Prop :=
  (∀ (f : TldForm) (s t : State) (gid : Nat) (pc : DWord) (g : Group) (v : Nat → List Byte), Ready s gid pc g (.tld f) f.sw (tldUses f) →
    clearRoad s g false →
    let it := g.issueAt gid pc 8 f.g
    let w := s.who it
    let s1 := (s.setG gid (g.begun pc)).refill w ((lanesOf it.E).map (tldRowAddr f g))
    (∀ l ∈ lanesOf it.E, s1.rowFault w .load (tldRowAddr f g l) = none) →
    (quietHome s gid g → (∀ l ∈ lanesOf it.E, ∀ j < 8, atHome s w ((tldRowAddr f g l).toNat + 16 * j) 16) →
      let rowAt (l : Nat) : List Word :=
        rowWords ((List.range 128).map fun k => s.homeByte w.lid (canonAsid w.asid (tldRowAddr f g l).toNat) ((tldRowAddr f g l).toNat + k))
      ∃ (t : State) (g' : Group), find t.groups gid = some g' ∧ t.mem = s.mem ∧ t.l2 = s.l2 ∧
        g'.fills = g.fills ++ (lanesOf it.E).map (fun l => { tile := f.ta, row := l, seq := s.order, words := rowAt l }) ∧
        exec (.tld f) s = .next (({ t with order := max t.order (s.order + 1) } : State).performed gid it.I (asPc (pc + 8#64)) [])) ∧
    (Performs (fun s' l => inTurn w s1.order (accAt (.tld f) (tldRowAddr f g l).toNat)
      (fun s' => filling (s'.readRow w (tldRowAddr f g l).toNat 8) gid f.ta l s.order) s') s1 (lanesOf it.E) v t →
    exec (.tld f) s = .next (({ t with order := max t.order (s.order + 1) } : State).performed gid it.I (asPc (pc + 8#64)) []))) ∧
  (∀ (f : TldForm) (s t : State) (gid : Nat) (pc : DWord) (g : Group) (v : Nat → List Byte), Ready s gid pc g (.tldsh f) f.sw (tldUsesSh f) →
    clearRoad s g false →
    let it := g.issueAt gid pc 8 f.g
    (∀ l ∈ lanesOf it.E, s.rowFaultSh g (tldRowAddr32 f g l) = none) →
    (∀ (b : Block) (place : Nat → Block × Nat), s.waitingOf gid s.order = [] → s.blockOf g = some b →
      (∀ l ∈ lanesOf it.E, s.spPlace b (bit (tldRowAddr32 f g l).toNat 31) (tldRowAddr32 f g l) 128 = .ok (place l) ∧ (place l).1.phase ≠ .gone ∧
        s.spPoison (place l).1 (place l).2 128 = false) →
      ∃ (t : State) (g' : Group), find t.groups gid = some g' ∧ t.mem = s.mem ∧ t.l2 = s.l2 ∧
        g'.fills = g.fills ++ (lanesOf it.E).map (fun l =>
          { tile := f.ta, row := l, seq := s.order, words := rowWords (s.spRead (place l).1 (place l).2 128) }) ∧
        exec (.tldsh f) s = .next (({ t with order := max t.order (s.order + 1) } : State).performed gid it.I (asPc (pc + 8#64)) [])) ∧
    (Performs (fun s' l => inTurn (s.who it) s.order (accAt (.tldsh f) (tldRowAddr32 f g l).toNat)
      (fun s' => filling (s'.spLoad gid g (bit (tldRowAddr32 f g l).toNat 31) (tldRowAddr32 f g l) 128) gid f.ta l s.order) s')
      (s.setG gid (g.begun pc)) (lanesOf it.E) v t →
    exec (.tldsh f) s = .next (({ t with order := max t.order (s.order + 1) } : State).performed gid it.I (asPc (pc + 8#64)) []))) ∧
  (∀ (s : State) (gid idx : Nat) (g : Group) (x : TileRow), find s.groups gid = some g → g.fills[idx]? = some x → g.mayLand idx = true →
    x.row < 32 →
    ∃ g', exec (.tileRowLanding gid idx) s = .next (s.setG gid g') ∧ g' = { g with tile := g'.tile, fills := g.fills.eraseIdx idx } ∧
      ∀ t < 8, ∀ r < 32, ∀ w < 32, g'.tileWord t r w = if t = x.tile ∧ r = x.row then x.words.getD w 0#32 else g.tileWord t r w) ∧
  (∀ (f : NForm) (s : State) (gid : Nat) (pc : DWord) (g : Group), Ready s gid pc g (.mwait f) f.sw {} →
    g.executing pc f.g &&& ~~~g.helper ≠ 0#32 →
    (g.matrixDone = true → ∃ g', exec (.mwait f) s = .next (s.setG gid g') ∧ g' = { (g.begun pc) with pc := g'.pc } ∧
      g.Advanced g' (g.issued pc) (asPc (pc + 8#64))) ∧
    (g.matrixDone = false → exec (.mwait f) s = .next (s.setG gid { g with phase := .aStall, waiting := .engine, waitPc := pc }))) ∧
  ∀ (f : NForm) (s : State) (gid : Nat) (pc : DWord) (g : Group), Ready s gid pc g (.mwaitRel f) f.sw {} →
    g.executing pc f.g &&& ~~~g.helper ≠ 0#32 →
    (g.matrixDone = true → (s.engine g.cluster g.sp).waiters = [] →
      ∃ (t : State) (g' : Group), exec (.mwaitRel f) s = .next t ∧ find t.groups gid = some g' ∧ g' = { (g.begun pc) with pc := g'.pc } ∧
        g.Advanced g' (g.issued pc) (asPc (pc + 8#64)) ∧ t.mem = s.mem ∧
        t.engine g.cluster g.sp = (if (s.engine g.cluster g.sp).holder = some gid
          then { (s.engine g.cluster g.sp).cleared with holder := none } else s.engine g.cluster g.sp)) ∧
    (g.matrixDone = false → exec (.mwaitRel f) s = .next (s.setG gid { g with phase := .aStall, waiting := .engine, waitPc := pc }))

/-- For every group that may issue it with its guard on: fence.rel, when every earlier access is performed and its release leaves
nothing of the group held or back in the side log, answers the released state; fence.sc also needs every engine command of the
group completed and acquires at its scope (from scope 4 on every stream copy of the cluster leaves); fence.acq needs the loads and
atomics performed and acquires. The issued lanes take P + 4. While a condition fails the group stalls at P and nothing else of it
changes. On a mast core fence.rel only advances, fence.acq acquires and advances, and so does fence.sc once the core's command
queues are empty, else it retries. With the guard off they only advance. -/
def Obligations.FencesCompleteOncePerformed : Prop :=
  (∀ f : FenceForm, SkipsWithoutEffect (.fenceSc f) f.sw f.g 4 {} ∧ SkipsWithoutEffect (.fenceRel f) f.sw f.g 4 {} ∧
    SkipsWithoutEffect (.fenceAcq f) f.sw f.g 4 {}) ∧
  (∀ (f : FenceForm) (s : State) (gid : Nat) (pc : DWord) (g : Group),
    let ready := s.setG gid (g.ready pc)
    let released := ready.releaseParty g.cluster gid
    let left : Bool := released.holdsAny g.cluster gid || !released.accessesDone gid g
    let stalled (t : State) (w : Waiting) : State := t.updG gid fun x => { x with phase := .aStall, waiting := w, waitPc := pc }
    (ReadyUni s gid pc g (.fenceSc f) f.sw f.g {} →
      (s.accessesDone gid g = true → s.commandsDone gid g = true → left = false →
        let t := released.acquireAt gid g.cluster f.scope
        exec (.fenceSc f) s = .next (t.performed gid (g.issued pc) (asPc (pc + 4#64)) []) ∧
        (4 ≤ f.scope.val → (t.cluster g.cluster).l1 = [])) ∧
      (s.accessesDone gid g = false ∨ s.commandsDone gid g = false → exec (.fenceSc f) s = .next (stalled s .fence)) ∧
      (s.accessesDone gid g = true → s.commandsDone gid g = true → left = true →
        exec (.fenceSc f) s = .next (stalled released .fence))) ∧
    (ReadyUni s gid pc g (.fenceRel f) f.sw f.g {} →
      (s.accessesDone gid g = true → exec (.fenceRel f) s = .next (if left = true then stalled released .fence
        else released.performed gid (g.issued pc) (asPc (pc + 4#64)) [])) ∧
      (s.accessesDone gid g = false → exec (.fenceRel f) s = .next (stalled s .fence))) ∧
    (ReadyUni s gid pc g (.fenceAcq f) f.sw f.g {} →
      (s.loadsDone gid g = true →
        exec (.fenceAcq f) s = .next ((ready.acquireAt gid g.cluster f.scope).performed gid (g.issued pc) (asPc (pc + 4#64)) [])) ∧
      (s.loadsDone gid g = false → exec (.fenceAcq f) s = .next (stalled s .sideLog)))) ∧
  ∀ (f : FenceForm) (s : State) (c : Nat) (m : Mast),
    let acquired : State := (s.acquireMast c f.scope).updM c fun m => { m with pc := m.pc + 4#64 }
    (RunsMast s c m (.fenceSc f) f.g → exec (.fenceSc f) s = .next
      (if ∀ e ∈ m.ctxs, e.2.cmds = [] then acquired else s.setM c { m with wait := .retry })) ∧
    (RunsMast s c m (.fenceRel f) f.g → exec (.fenceRel f) s = .next (s.setM c { m with pc := m.pc + 4#64 })) ∧
    (RunsMast s c m (.fenceAcq f) f.g → exec (.fenceAcq f) s = .next acquired)

/-- For a group that may issue it with its guard on: while another live lane is not held at the same instruction, the issuing path is
held for convergence. Otherwise, after its fence, the group counts as arrived; if every group of the block (sstep: of the
one-device launch) has now arrived or retired, the barrier opens, its arrivals are forgotten and the issuing group goes on after
the instruction; else the group parks. Where the parked arrivals are in active slots, the opening makes each ready again with its
lanes after the instruction. sstep in a launch that is not coresident raises F_SSTEP_INVALID (0x25). -/
def Obligations.BarriersAndSuperstepsGather : Prop :=
  let others (g : Group) (pc : DWord) : Word := g.live &&& ~~~g.issued pc
  let gathered (g : Group) (pc : DWord) : Prop := ∀ l < 32, has (others g pc) l → g.pcOf l = pc ∧ g.holdOf l = .converge
  let met (s : State) (gid : Nat) (pc : DWord) (g : Group) : State := s.setG gid ((g.ready pc).setHold (others g pc) .free)
  let freed (x x' : Group) : Prop := x'.phase = .aReady ∧ x'.waiting = .nothing ∧
    ∀ l < 32, x'.pcOf l = if has (x.issued x.waitPc) l then asPc (x.waitPc + 4#64) else x.pcOf l
  (∀ (f : BarForm) (s : State) (gid : Nat) (pc : DWord) (g : Group), ReadyUni s gid pc g (.bar f) f.sw f.g {} →
    (¬ gathered g pc → exec (.bar f) s = .next (s.setG gid ((g.ready pc).setHold (g.issued pc) .converge))) ∧
    (gathered g pc → ∀ s3, (met s gid pc g).fenceSc gid g 3 = (true, s3) →
      let s4 := s3.updB g.bid fun b => { b with bars := setD b.bars f.n (gid :: (getD b.bars f.n []).filter (· ≠ gid)) [] }
      (s4.barDone g.bid f.n = true → exec (.bar f) s = .next (((s4.openBar g.bid f.n).passTs gid).performed gid g.live (asPc (pc + 4#64)) [])) ∧
      (s4.barDone g.bid f.n = false → exec (.bar f) s = .next (s4.park gid (.bar f.n)))) ∧
    (gathered g pc → ∀ s3, (met s gid pc g).fenceSc gid g 3 = (false, s3) → exec (.bar f) s = .next (s3.stall gid .sideLog))) ∧
  (∀ (f : NForm) (s : State) (gid : Nat) (pc : DWord) (g : Group) (l : Launch), ReadyUni s gid pc g (.sstep f) f.sw f.g {} →
    s.launchOfG g = some l →
    (bit l.record.lflags 2 = false → exec (.sstep f) s = .next (s.raise gid 0x25 (g.issued pc) pc 0#64 0#64)) ∧
    (bit l.record.lflags 2 = true → ¬ gathered g pc → exec (.sstep f) s = .next (s.setG gid ((g.ready pc).setHold (g.issued pc) .converge))) ∧
    (bit l.record.lflags 2 = true → gathered g pc → ∀ s3, (met s gid pc g).fenceSc gid g 6 = (true, s3) →
      let lid := s3.lidOf g
      let s4 := s3.updL lid fun l => { l with superstep := gid :: l.superstep.filter (· ≠ gid) }
      (l.record.ndev = 1 → s4.superDone lid = true →
        exec (.sstep f) s = .next (((s4.openSuper lid).acquireAt gid g.cluster 6).performed gid g.live (asPc (pc + 4#64)) [])) ∧
      (l.record.ndev ≠ 1 ∨ s4.superDone lid = false → exec (.sstep f) s = .next (s4.park gid .superstep)))) ∧
  (∀ (s : State) (bid n : Nat) (b : Block), find s.blocks bid = some b →
    (∃ b', find (s.openBar bid n).blocks bid = some b' ∧ b' = { b with bars := del b.bars n }) ∧
    ((∀ w ∈ getD b.bars n [], ∀ x, find s.groups w = some x → x.waiting = .bar n → x.phase = .aPark) →
      ∀ w ∈ getD b.bars n [], ∀ x, find s.groups w = some x → x.waiting = .bar n →
        ∃ x', find (s.openBar bid n).groups w = some x' ∧ freed x x')) ∧
  ∀ (s : State) (lid : Nat) (l : Launch), find s.launches lid = some l →
    (∃ l', find (s.openSuper lid).launches lid = some l' ∧ l' = { l with superstep := [] }) ∧
    ((∀ w ∈ l.superstep, ∀ x, find s.groups w = some x → x.waiting = .superstep → x.phase = .aPark) →
      ∀ w ∈ l.superstep, ∀ x, find s.groups w = some x → x.waiting = .superstep →
        ∃ x', find (s.openSuper lid).groups w = some x' ∧ freed x x')

/-- For a group that may issue it with its guard on, an object of a resident block at an address accepted by R165 and not poisoned, no
group waiting on the object, the operand in range and (but for init) the object live and not overrun: the instruction answers the
state in which the 16 bytes hold the operation's result as R167's evaluation leaves it (arrivals equal to COUNT with PEND 0: PHASE
+ 1, ARR 0; too many arrivals, a negative PEND at the last, or an overflow: OVERRUN), every other byte of the cluster's scratchpad
keeps its value, and the lanes take P + 4. arrive and arrexp first converge and release, once the loads and the pipe's accesses of
the group are performed. An operand out of range raises F_RESERVED_FIELD; an object not live F_BARRIER_ORPHANED, one overrun
F_BARRIER_OVERRUN. -/
def Obligations.BarrierObjectOperations : Prop :=
  let evaluated (o : BarObj) : BarObj :=
    if o.arr = o.count ∧ o.pend = 0 then { o with phase := (o.phase + 1) % 2 ^ 32, arr := 0 }
    else if o.count < o.arr ∨ (o.arr = o.count ∧ o.pend < 0) ∨ 2 ^ 31 ≤ o.pend ∨ o.pend < -(2 ^ 31) then { o with overrun := true }
    else o
  let stored (o : BarObj) : BarObj := { o with pend := o.pend.bmod (2 ^ 32), arr := o.arr % 65536 }
  let value (f : BarxForm) (g : Group) : Nat := if f.i = 1 then f.b.val else (g.sreg f.b).toNat
  let others (g : Group) (pc : DWord) : Word := g.live &&& ~~~g.issued pc
  let frame (s t : State) (m : Block) (off : Nat) : Prop :=
    ∀ k, (k < m.spKey off ∨ m.spKey off + 16 ≤ k) → getD (t.cluster m.cluster).scratch k 0#8 = getD (s.cluster m.cluster).scratch k 0#8
  let object (s : State) (g : Group) (a : Word) (bid : Nat) (m : Block) (off : Nat) : Prop :=
    s.objFault g a = none ∧ s.spPoison m off 16 = false ∧ (∃ b, s.blockOf g = some b ∧ s.objPlace b a = some (bid, m, off)) ∧
    m.phase = .resident ∧ ∀ e ∈ s.groups, ∀ k, e.2.waiting ≠ .barw (objKey bid off) k
  let live (s : State) (m : Block) (off : Nat) : Prop := (s.objAt m off).valid = true ∧ (s.objAt m off).overrun = false
  let leaves (i : Instr) (s s1 : State) (gid : Nat) (lanes : Word) (pc : DWord) (m : Block) (off : Nat) (o : BarObj) : Prop :=
    ∃ t : State, exec i s = .next (t.performed gid lanes (asPc (pc + 4#64)) []) ∧ t.groups = s1.groups ∧ t.mem = s1.mem ∧ t.l2 = s1.l2 ∧
      t.objAt m off = stored (evaluated o) ∧ frame s1 t m off
  (∀ (f : BarxForm) (s : State) (gid : Nat) (pc : DWord) (g : Group) (bid : Nat) (m : Block) (off : Nat),
    let s1 := s.setG gid (g.ready pc)
    let o := s.objAt m off
    let a := g.sreg f.a
    (ReadyUni s gid pc g (.barxInit f) f.sw f.g (barxUses f) → object s g a bid m off →
      (1 ≤ value f g → value f g ≤ 65535 → leaves (.barxInit f) s s1 gid (g.issued pc) pc m off
        { pend := 0, arr := 0, count := value f g, phase := 0, valid := true, overrun := false }) ∧
      (value f g = 0 ∨ 65535 < value f g → exec (.barxInit f) s = .next (s.raise gid 0x02 (g.issued pc) pc 0#64 0#64))) ∧
    (ReadyUni s gid pc g (.barxExpect f) f.sw f.g (barxUses f) → object s g a bid m off →
      (value f g < 2 ^ 31 → live s m off → leaves (.barxExpect f) s s1 gid (g.issued pc) pc m off { o with pend := o.pend + value f g }) ∧
      (2 ^ 31 ≤ value f g → exec (.barxExpect f) s = .next (s.raise gid 0x02 (g.issued pc) pc 0#64 0#64)) ∧
      (value f g < 2 ^ 31 → o.valid = false →
        exec (.barxExpect f) s = .next (s.raise gid 0x21 (g.issued pc) pc (a.setWidth 64) 0#64)) ∧
      (value f g < 2 ^ 31 → o.valid = true → o.overrun = true →
        exec (.barxExpect f) s = .next (s.raise gid 0x20 (g.issued pc) pc (a.setWidth 64) 0#64))) ∧
    (ReadyUni s gid pc g (.barxArrexp f) f.sw f.g (barxUses f) → object s g a bid m off → value f g < 2 ^ 31 → live s m off →
      (∀ l < 32, has (others g pc) l → g.pcOf l = pc ∧ g.holdOf l = .converge) →
      let s2 := (s.setG gid ((g.ready pc).setHold (others g pc) .free)).releaseParty g.cluster gid
      g.pipeMem = false → s.readsDone gid g = true → s2.holdsAny g.cluster gid = false →
      leaves (.barxArrexp f) s s2 gid g.live pc m off { o with pend := o.pend + value f g, arr := o.arr + 1 })) ∧
  ∀ (f : AForm) (s : State) (gid : Nat) (pc : DWord) (g : Group) (bid : Nat) (m : Block) (off : Nat),
    let s1 := s.setG gid (g.ready pc)
    let o := s.objAt m off
    let a := g.sreg f.a
    (ReadyUni s gid pc g (.barxArrive f) f.sw f.g { s := [f.a] } → object s g a bid m off → live s m off →
      ((∀ l < 32, has (others g pc) l → g.pcOf l = pc ∧ g.holdOf l = .converge) →
        let s2 := (s.setG gid ((g.ready pc).setHold (others g pc) .free)).releaseParty g.cluster gid
        g.pipeMem = false → s.readsDone gid g = true → s2.holdsAny g.cluster gid = false →
        leaves (.barxArrive f) s s2 gid g.live pc m off { o with arr := o.arr + 1 }) ∧
      ((∃ l < 32, has (others g pc) l ∧ (g.pcOf l ≠ pc ∨ g.holdOf l ≠ .converge)) →
        exec (.barxArrive f) s = .next (s.setG gid ((g.ready pc).setHold (g.issued pc) .converge)))) ∧
    (ReadyUni s gid pc g (.barxInval f) f.sw f.g { s := [f.a] } → object s g a bid m off → live s m off →
      leaves (.barxInval f) s s1 gid (g.issued pc) pc m off { o with valid := false })

/-- For a group that may issue barw with its guard on, on a live object that is not overrun or poisoned: if PHASE equals s[b], or
accesses before an arrival still wait in the side log (log entry 125), the group parks on the object, else it acquires and its
lanes take P + 4. When an operation completes the phase, every group parked for that phase in an active slot becomes ready with
its lanes after its barw, once no arrival's accesses are owed (GROUP_WAKE releases it then); when it overruns the object, every
such group without an undelivered event has F_BARRIER_OVERRUN (0x20) posted for the lanes at its barw and is ready. A dead object
gives barw F_BARRIER_ORPHANED (0x21) and an overrun one 0x20. -/
def Obligations.BarrierWaitersAreReleased : Prop :=
  let freed (x x' : Group) : Prop := x'.phase = .aReady ∧ x'.waiting = .nothing ∧
    ∀ l < 32, x'.pcOf l = if has (x.issued x.waitPc) l then asPc (x.waitPc + 4#64) else x.pcOf l
  (∀ (f : AbForm) (s : State) (gid : Nat) (pc : DWord) (g : Group) (b : Block) (bid : Nat) (m : Block) (off : Nat),
    ReadyUni s gid pc g (.barw f) f.sw f.g { s := [f.a, f.b] } → s.objFault g (g.sreg f.a) = none → s.blockOf g = some b →
    s.objPlace b (g.sreg f.a) = some (bid, m, off) → s.spPoison m off 16 = false →
    let o := s.objAt m off
    (o.valid = true → o.overrun = false → (o.phase = (g.sreg f.b).toNat ∨ s.owing (objKey bid off) = true) →
      exec (.barw f) s = .next ((s.setG gid (g.ready pc)).park gid (.barw (objKey bid off) (g.sreg f.b)))) ∧
    (o.valid = true → o.overrun = false → o.phase ≠ (g.sreg f.b).toNat → s.owing (objKey bid off) = false →
      exec (.barw f) s = .next (((s.setG gid (g.ready pc)).acquireBy gid g.cluster).performed gid (g.issued pc) (asPc (pc + 4#64)) [])) ∧
    (o.valid = false → exec (.barw f) s = .next (s.raise gid 0x21 (g.issued pc) pc ((g.sreg f.a).setWidth 64) 0#64)) ∧
    (o.valid = true → o.overrun = true → exec (.barw f) s = .next (s.raise gid 0x20 (g.issued pc) pc ((g.sreg f.a).setWidth 64) 0#64))) ∧
  (∀ (s : State) (w : Nat) (x : Group) (key : Nat), find s.groups w = some x → x.waiting = .barDone key → x.phase = .aPark →
    (s.owing key = false → ∃ t x', exec (.groupWake w) s = .next t ∧ find t.groups w = some x' ∧ freed x x') ∧
    (s.owing key = true → exec (.groupWake w) s = .next s)) ∧
  ∀ (s : State) (b : Block) (bid off : Nat) (o : BarObj) (w : Nat) (x : Group) (k : Word),
    (∀ e ∈ s.groups, ∀ k, e.2.waiting = .barw (objKey bid off) k → e.2.phase = .aPark) →
    find s.groups w = some x → x.waiting = .barw (objKey bid off) k → k.toNat = o.phase →
    (o.arr = o.count → o.pend = 0 → s.owing (objKey bid off) = false → ∃ x', find (s.evalObj b bid off o).groups w = some x' ∧ freed x x') ∧
    (o.arr = o.count → o.pend = 0 → s.owing (objKey bid off) = true →
      find (s.evalObj b bid off o).groups w = some { x with waiting := .barDone (objKey bid off) }) ∧
    (o.count < o.arr ∨ (o.arr = o.count ∧ o.pend < 0) → x.event = none →
      ∃ x' r, find (s.evalObj b bid off o).groups w = some x' ∧ x'.phase = .aReady ∧ x'.event = some r ∧ r.code = 0x20 ∧
        r.lanes = x.issued x.waitPc ∧ r.pc = x.waitPc ∧ ∀ l < 32, x'.pcOf l = x.pcOf l)

/-- With the guard on: tlwait passes and acquires where the context's counter has reached n, else parks; tlread binds the counter, W =
0 its low word; a context not of the launch raises F_QUEUE_UNBOUND (0x22). On a mast core tlwait passes or retries and tlread
writes its registers at once. gset resolves an unresolved slot to true (after the group's release) or false, leaving the block's
other slots; a resolved slot raises F_GUARD_STATE (0x23); gset.clr leaves it unresolved. sms sets the launch's mark. waitpred
passes and acquires where no predecessor is live, else parks. Passing lanes take P + 4; with the guard off each only advances. -/
def Obligations.TimelinesGuardsAndLaunchOrder : Prop :=
  (∀ f : TlwForm, SkipsWithoutEffect (.tlwait f) f.sw f.g 4 (tlwUses f)) ∧
  (∀ f : TlrForm, SkipsWithoutEffect (.tlread f) f.sw f.g 4 { s := f.a.val :: regRun f.d (f.w.val + 1) }) ∧
  (∀ (f : TlwForm) (s : State) (gid : Nat) (pc : DWord) (g : Group), ReadyUni s gid pc g (.tlwait f) f.sw f.g (tlwUses f) →
    let n : Nat := if f.i = 1 then f.b else if f.w = 1 then (g.sreg64 f.b).toNat else (g.sreg f.b).toNat
    let c := (g.sreg f.a).toNat
    (∀ x, s.ctx (s.lidOf g) c = some x → n ≤ x.counter →
      exec (.tlwait f) s = .next (((s.setG gid (g.ready pc)).acquireBy gid g.cluster).performed gid (g.issued pc) (asPc (pc + 4#64)) [])) ∧
    (∀ x, s.ctx (s.lidOf g) c = some x → x.counter < n →
      exec (.tlwait f) s = .next ((s.setG gid (g.ready pc)).park gid (.timeline c n))) ∧
    (s.ctx (s.lidOf g) c = none → exec (.tlwait f) s = .next (s.raise gid 0x22 (g.issued pc) pc 0#64 0#64))) ∧
  (∀ (f : TlrForm) (s : State) (gid : Nat) (pc : DWord) (g : Group),
    ReadyUni s gid pc g (.tlread f) f.sw f.g { s := f.a.val :: regRun f.d (f.w.val + 1) } →
    let c := (g.sreg f.a).toNat
    (∀ x, s.ctx (s.lidOf g) c = some x →
      exec (.tlread f) s = .next (((s.setG gid (g.ready pc)).acquireBy gid g.cluster).performed gid (g.issued pc) (asPc (pc + 4#64))
        (if f.w = 1 then [(.uni f.d, BitVec.ofNat 32 x.counter), (.uni (f.d + 1), BitVec.ofNat 32 (x.counter / 2 ^ 32))]
         else [(.uni f.d, BitVec.ofNat 32 x.counter)]))) ∧
    (s.ctx (s.lidOf g) c = none → exec (.tlread f) s = .next (s.raise gid 0x22 (g.issued pc) pc 0#64 0#64))) ∧
  (∀ (f : TlwForm) (s : State) (cl : Nat) (m : Mast) (own n : Nat) (x : Ctx), RunsMast s cl m (.tlwait f) f.g →
    s.mastTimeline cl (m.sreg f.a) false = .ok (own, n) → s.ctx own n = some x →
    exec (.tlwait f) s = .next (if (if f.i = 1 then f.b.val else if f.w = 1 then (m.sreg64 f.b).toNat else (m.sreg f.b).toNat) ≤ x.counter
      then (s.acquireMast cl 6).updM cl fun m => { m with pc := m.pc + 4#64 } else s.setM cl { m with wait := .retry })) ∧
  (∀ (f : TlrForm) (s : State) (cl : Nat) (m : Mast) (own n : Nat) (x : Ctx), RunsMast s cl m (.tlread f) f.g →
    s.mastTimeline cl (m.sreg f.a) true = .ok (own, n) → s.ctx own n = some x →
    ∃ (t : State) (m' : Mast), exec (.tlread f) s = .next (t.setM cl m') ∧ t = s.acquireMast cl 6 ∧
      m' = { m with s := m'.s, pc := m.pc + 4#64, ts := (t.mast cl).ts } ∧
      let v := if (m.sreg f.a).getLsbD 30 then x.taken else x.counter
      m.UniRun m' f.d (if f.w = 1 then [BitVec.ofNat 32 v, BitVec.ofNat 32 (v / 2 ^ 32)] else [BitVec.ofNat 32 v])) ∧
  (∀ (f : GsetForm) (s : State) (gid : Nat) (pc : DWord) (g : Group),
    ReadyUni s gid pc g (.gset f) f.sw f.g { s := if f.i.val = 1 then [] else [f.b.val] } →
    let v : Nat := if f.i = 1 then f.b else (g.sreg f.b).toNat
    let s2 := (s.setG gid (g.ready pc)).releaseParty g.cluster gid
    (s.guardOf g.bid f.n ≠ 0 → exec (.gset f) s = .next (s.raise gid 0x23 (g.issued pc) pc 0#64 0#64)) ∧
    (s.guardOf g.bid f.n = 0 → v = 0 ∨ (s.accessesDone gid g = true ∧ s2.holdsAny g.cluster gid = false ∧ s2.accessesDone gid g = true) →
      ∃ t : State, exec (.gset f) s = .next (t.performed gid (g.issued pc) (asPc (pc + 4#64)) []) ∧ t.guardOf g.bid f.n = (if v = 0 then 2 else 1) ∧
        ∀ n, n ≠ f.n.val → t.guardOf g.bid n = s.guardOf g.bid n)) ∧
  (∀ (f : GclrForm) (s : State) (gid : Nat) (pc : DWord) (g : Group), ReadyUni s gid pc g (.gsetClr f) f.sw f.g {} →
    ∃ t : State, exec (.gsetClr f) s = .next (t.performed gid (g.issued pc) (asPc (pc + 4#64)) []) ∧ t.guardOf g.bid f.n = 0 ∧
      (∀ n, n ≠ f.n.val → t.guardOf g.bid n = s.guardOf g.bid n) ∧ t.groups = (s.setG gid (g.ready pc)).groups ∧ t.mem = s.mem) ∧
  (∀ (f : NForm) (s : State) (gid : Nat) (pc : DWord) (g : Group) (l : Launch), ReadyUni s gid pc g (.sms f) f.sw f.g {} →
    find s.launches (s.lidOf g) = some l →
    ∃ t : State, exec (.sms f) s = .next (t.performed gid (g.issued pc) (asPc (pc + 4#64)) []) ∧
      find t.launches (s.lidOf g) = some { l with sms := true } ∧ t.groups = (s.setG gid (g.ready pc)).groups ∧ t.mem = s.mem) ∧
  ∀ (f : NForm) (s : State) (gid : Nat) (pc : DWord) (g : Group) (l : Launch), ReadyUni s gid pc g (.waitpred f) f.sw f.g {} →
    s.launchOfG g = some l →
    exec (.waitpred f) s = .next (if s.predecessorLive l = true then (s.setG gid (g.ready pc)).park gid .predecessor
      else ((s.setG gid (g.ready pc)).acquireBy gid g.cluster).performed gid (g.issued pc) (asPc (pc + 4#64)) [])

/-- With the guard on: trap (code 0x51) and brk (0x50) post an event for the lanes that are no helpers, with value n + 256 if the
group is sliced, PC P, and hold them with P + 4 as their PC of return; with an event undelivered the path issues nothing and stays
where it is. swpt passes unless a posted request waits for it, then parks. yield passes and, where a group is ready to take its
place, gives the active slot to it. sleep passes for 0, else parks until clk + 64 v; a mast core advances and waits. SLEEP_EXPIRY
lets a parked sleeper go on after its instruction, GROUP_WAKE makes a parked group ready whose event has come, and STARVATION_SWAP
gives the longest active group's slot to the starved group. -/
def Obligations.TrapsAndSchedulingInstructions : Prop :=
  let traps (i : TrapForm → Instr) (code : Nat) : Prop :=
    ∀ (f : TrapForm) (s : State) (gid : Nat) (pc : DWord) (g : Group), ReadyUni s gid pc g (i f) f.sw f.g {} →
      (g.event = none → ∃ (g' : Group) (r : FaultRec), exec (i f) s = .next (s.setG gid g') ∧
        g' = { (g.ready pc) with event := some r, lastFault := some r, hold := g'.hold, pc := g'.pc } ∧
        r.code = code ∧ r.lanes = g.issued pc &&& ~~~g.helper ∧ r.pc = pc ∧
        r.value = BitVec.ofNat 32 (f.n + if g.gstat.getLsbD stSliced then 256 else 0) ∧
        ∀ l < 32, (has r.lanes l → g'.pcOf l = g.pcOf l ∧ g'.holdOf l = .event code (asPc (pc + 4#64)) false) ∧
          (¬ has r.lanes l → g'.holdOf l = g.holdOf l ∧ g'.pcOf l = if has (g.issued pc) l then asPc (pc + 4#64) else g.pcOf l)) ∧
      (g.event ≠ none → exec (i f) s = .next s)
  traps .trap 0x51 ∧ traps .brk 0x50 ∧
  (∀ (f : SwptForm) (s : State) (gid : Nat) (pc : DWord) (g : Group), ReadyUni s gid pc g (.swpt f) 1 f.g {} →
    exec (.swpt f) s = .next (if s.swptRequested g f.n pc = true then (s.setG gid (g.ready pc)).park gid (.swpt f.n)
      else (s.setG gid (g.ready pc)).performed gid (g.issued pc) (asPc (pc + 4#64)) [])) ∧
  (∀ (f : NForm) (s : State) (gid : Nat) (pc : DWord) (g : Group), ReadyUni s gid pc g (.yield f) f.sw f.g {} →
    let s2 := (s.setG gid (g.ready pc)).performed gid (g.issued pc) (asPc (pc + 4#64)) []
    (s2.candidate g.cluster g.sp gid = none → exec (.yield f) s = .next s2) ∧
    ∀ e, s2.candidate g.cluster g.sp gid = some e →
      exec (.yield f) s = .next (((s2.updG gid fun x => { x.dropTransient with phase := .pReady false, active := none, since := s.clk }).promote
        e.1 (g.active.getD 0)).scheduleAll g.cluster)) ∧
  (∀ f : SleepForm,
    (∀ (s : State) (gid : Nat) (pc : DWord) (g : Group), ReadyUni s gid pc g (.sleep f) f.sw f.g { s := if f.i.val = 1 then [] else [f.b.val] } →
      let v : Nat := if f.i = 1 then f.b else (g.sreg f.b).toNat
      exec (.sleep f) s = .next (if v = 0 then (s.setG gid (g.ready pc)).performed gid (g.issued pc) (asPc (pc + 4#64)) []
        else (s.setG gid (g.ready pc)).park gid (.sleep (s.clk + 64 * v)))) ∧
    ∀ (s : State) (c : Nat) (m : Mast), RunsMast s c m (.sleep f) f.g →
      let v : Nat := if f.i = 1 then f.b else (m.sreg f.b).toNat
      exec (.sleep f) s = .next (s.setM c { m with pc := m.pc + 4#64, wait := .sleep (if v = 0 then none else some (s.clk + 64 * v)) })) ∧
  (∀ (s : State) (gid t : Nat) (g : Group), find s.groups gid = some g → g.waiting = .sleep t → g.phase = .aPark →
    (t ≤ s.clk → ∃ g', exec (.sleepExpiry gid) s = .next (s.setG gid g') ∧
      g' = { g with phase := .aReady, waiting := .nothing, pc := g'.pc } ∧
      ∀ l < 32, g'.pcOf l = if has (g.issued g.waitPc) l then asPc (g.waitPc + 4#64) else g.pcOf l) ∧
    (s.clk < t → exec (.sleepExpiry gid) s = .next s)) ∧
  (∀ (s : State) (gid : Nat) (g : Group), find s.groups gid = some g → g.phase = .aPark → g.waiting ≠ .superstep → (∀ k, g.waiting ≠ .barDone k) → s.wakeable gid g = true →
    exec (.groupWake gid) s = .next (s.setG gid { g with phase := .aReady, waiting := .nothing })) ∧
  ∀ (s : State) (c sp : Nat) (o e : Nat × Group),
    let active := s.groups.filter fun x => x.2.residentAt c sp && x.2.inActive
    let starved := s.groups.filter fun x => s.promotable c sp o.1 x && decide (x.2.since + 16384 < s.clk)
    (∀ x ∈ active, x.2.phase ≠ .aPark) → o ∈ active → (∀ x ∈ active, x ≠ o → o.2.entered < x.2.entered) →
    e ∈ starved → (∀ x ∈ starved, x ≠ e → s.promotedBefore e x = true ∧ s.promotedBefore x e = false) →
    exec (.starvationSwap c sp) s = .next ((s.updG o.1 fun x =>
      { x.dropTransient with phase := .pReady false, active := none, since := s.clk }).promote e.1 (o.2.active.getD 0))

/-- For every group that may issue it: qbind, with an executing lane that is no helper and a context of the right kind, binds its
queue register and no other (else F_QUEUE_UNBOUND, 0x22; with helpers only it advances). qwr on a push binding with room appends
the pairs of the executing lanes that are no helpers, in lane order; with too little room it stalls; on no binding or a pop
binding it raises 0x22. qrd on a pop binding without earlier reservations and enough entries binds each such lane's pair to the
entries in order, helper lanes to 0, takes them from the FIFO and acquires; from an empty FIFO it reserves them. qstat writes
LEVEL, BOUND and POP. The issued lanes take P + 4. -/
def Obligations.QueueRegistersComplete : Prop :=
  let solid (g : Group) (pc : DWord) (gd : Fin 8) : Word := g.executing pc gd &&& ~~~g.helper
  (∀ (f : QbindForm) (s : State) (gid : Nat) (pc : DWord) (g : Group), Ready s gid pc g (.qbind f) f.sw { s := [f.b] } →
    let n := (g.sreg f.b).toNat
    let right : Prop := (s.ctx (s.lidOf g) n).isSome = true ∧ ((f.pop = 1 ∧ n / 4096 = 4) ∨ (f.pop ≠ 1 ∧ (n / 4096 = 1 ∨ n / 4096 = 2)))
    (solid g pc f.g ≠ 0#32 → right → ∃ g', exec (.qbind f) s = .next (s.setG gid g') ∧ g' = { (g.begun pc) with q := g'.q, pc := g'.pc } ∧
      g.Advanced g' (g.issued pc) (asPc (pc + 4#64)) ∧
      ∀ k, find g'.q k = if k = f.q then some { ctx := g.sreg f.b, pop := decide (f.pop = 1) } else find g.q k) ∧
    (solid g pc f.g ≠ 0#32 → ¬ right → exec (.qbind f) s = .next (s.raise gid 0x22 (solid g pc f.g) pc 0#64 0#64)) ∧
    (solid g pc f.g = 0#32 → ∃ g', exec (.qbind f) s = .next (s.setG gid g') ∧ g' = { (g.begun pc) with pc := g'.pc } ∧
      g.Advanced g' (g.issued pc) (asPc (pc + 4#64)))) ∧
  (∀ (f : QForm) (s : State) (gid : Nat) (pc : DWord) (g : Group), Ready s gid pc g (.qwr f) f.sw { v := [f.v, f.v + 1] } →
    let es := (lanesOf (solid g pc f.g)).map fun l => g.readV64 l f.v
    (∀ b x, find g.q f.q = some b → b.pop = false → s.ctx (s.lidOf g) b.ctx.toNat = some x →
      (x.push.length + es.length ≤ 256 → ∃ t : State, exec (.qwr f) s = .next (t.performed gid (g.issued pc) (asPc (pc + 4#64)) []) ∧
        t.groups = (s.setG gid (g.begun pc)).groups ∧ t.mem = s.mem ∧ t.ctx (s.lidOf g) b.ctx.toNat = some { x with push := x.push ++ es }) ∧
      (256 < x.push.length + es.length →
        exec (.qwr f) s = .next (s.setG gid { g with phase := .aStall, waiting := .room b.ctx.toNat, waitPc := pc }))) ∧
    (solid g pc f.g ≠ 0#32 → (∀ b, find g.q f.q = some b → b.pop = true) →
      exec (.qwr f) s = .next (s.raise gid 0x22 (solid g pc f.g) pc 0#64 0#64))) ∧
  (∀ (f : QForm) (s : State) (gid : Nat) (pc : DWord) (g : Group) (b : QBinding) (x : Ctx),
    Ready s gid pc g (.qrd f) f.sw { v := [f.v, f.v + 1] } → find g.q f.q = some b → b.pop = true →
    s.ctx (s.lidOf g) b.ctx.toNat = some x → x.reserved = [] →
    let ls := lanesOf (solid g pc f.g)
    let zeros := (lanesOf (g.executing pc f.g &&& g.helper)).flatMap fun l => vecWrites l f.v [0#32, 0#32]
    let helped := if zeros = [] then [] else [({ writes := zeros } : Pending)]
    (ls.length ≤ x.pop.length → ∃ (t : State) (g' : Group), exec (.qrd f) s = .next t ∧ find t.groups gid = some g' ∧
      g' = { (g.begun pc) with pc := g'.pc, pending := g'.pending, ts := g'.ts } ∧ g.Advanced g' (g.issued pc) (asPc (pc + 4#64)) ∧
      g'.pending = g.pending ++ helped ++ (ls.zip x.pop).map (fun e =>
        { writes := [(.vec e.1 f.v, e.2.setWidth 32), (.vec e.1 (f.v + 1), (e.2 >>> 32).setWidth 32)] }) ∧
      t.ctx (s.lidOf g) b.ctx.toNat = some { x with pop := x.pop.drop ls.length } ∧ t.mem = s.mem ∧ ∀ k, k ≠ gid → find t.groups k = find s.groups k) ∧
    (x.pop = [] → ∃ (t : State) (g' : Group), exec (.qrd f) s = .next t ∧ find t.groups gid = some g' ∧
      g' = { (g.begun pc) with pc := g'.pc, pending := g.pending ++ helped, awaits := g.awaits + ls.length } ∧
      g.Advanced g' (g.issued pc) (asPc (pc + 4#64)) ∧
      t.ctx (s.lidOf g) b.ctx.toNat = some { x with reserved := ls.map fun l => (gid, l, f.v.val) } ∧ t.mem = s.mem ∧
      ∀ k, k ≠ gid → find t.groups k = find s.groups k)) ∧
  ∀ f : QForm, CompletesVec (.qstat f) f.sw f.g 4 { v := [f.v] } 0 f.v (fun _ _ => True) fun s g _ =>
    match find g.q f.q with
    | none => 0#32
    | some b => match s.ctx (s.lidOf g) b.ctx.toNat with
      | none => BitVec.ofNat 32 (if b.pop then 0x30000 else 0x10000)
      | some x => if b.pop then BitVec.ofNat 32 (0x30000 + (min 256 x.pop.length - x.reserved.length)) else BitVec.ofNat 32 (0x10000 + (256 - x.push.length))

/-- With the guard on, a context of the command's kind, its checks (R218) passed and the group's acquire loads performed, with what
they order published (R149, R258; else the group stalls): each command of a group takes the number after the context's last, is
appended to the context's queue with its opcode, that number, its descriptor registers, the issuing group, PC and lanes, and
writes the number into d (W = 1 the pair); the issued lanes take P + 8; memory and L2 are unchanged by it. A context that is not
bound raises F_QUEUE_UNBOUND (0x22). On a mast core cpy, gath and scat do the same in its own contexts, coll and vdec raise
F_ILLEGAL_OPCODE (0x01). -/
def Obligations.EngineCommandsTakeANumber : Prop :=
  let number (w : Fin 2) (n : Nat) : List Word := if w = 1 then [BitVec.ofNat 32 n, BitVec.ofNat 32 (n / 2 ^ 32)] else [BitVec.ofNat 32 n]
  let queued (t : State) (own n : Nat) (x : Ctx) (ok : Cmd → Prop) : Prop :=
    ∃ x' c, t.ctx own n = some x' ∧ x'.taken = x.taken + 1 ∧ x'.cmds.length = x.cmds.length + 1 ∧ x'.cmds.getLast? = some c ∧ c.num = x.taken + 1 ∧ ok c
  let completes (i : UeForm → Instr) (op kind run : Nat) (checks : State → Group → UeForm → Who → List Word → List Check) : Prop :=
    ∀ (f : UeForm) (s : State) (gid : Nat) (pc : DWord) (g : Group), ReadyUni s gid pc g (i f) f.sw f.g (ueUses f run) →
      let n : Nat := if f.i = 1 then kind * 4096 + f.b else (g.sreg f.b).toNat
      let own := s.lidOf g
      let regs := (List.range run).map fun k => g.sreg (f.a + k)
      let s1 := s.setG gid (g.ready pc)
      (∀ x s2 g2, n / 4096 = kind → s.ctx own n = some x → (∀ c ∈ checks s1 g f (s1.who (g.issueAt gid pc 8 7)) regs, c = none) →
        s1.afterAcquires gid g = (false, s2) → find s2.groups gid = some g2 →
        ∃ (t : State) (g' : Group), exec (i f) s = .next t ∧ find t.groups gid = some g' ∧ g' = { g2 with s := g'.s, pc := g'.pc } ∧
          g2.Advanced g' (g.issued pc) (asPc (pc + 8#64)) ∧ g2.UniRun g' f.d (number f.w (x.taken + 1)) ∧ t.mem = s2.mem ∧ t.l2 = s2.l2 ∧
          (g.acqAt = 0 → s2 = s1) ∧
          queued t own n x fun c => c.op = op ∧ c.regs = regs ∧ c.gid = gid ∧ c.bid = g.bid ∧ c.pc = pc ∧ c.lanes = g.issued pc) ∧
      (∀ x s2, n / 4096 = kind → s.ctx own n = some x → (∀ c ∈ checks s1 g f (s1.who (g.issueAt gid pc 8 7)) regs, c = none) →
        s1.afterAcquires gid g = (true, s2) → exec (i f) s = .next (s2.stall gid .sideLog)) ∧
      (n / 4096 ≠ kind ∨ s.ctx own n = none → exec (i f) s = .next ((s.setG gid (g.ready pc)).raise gid 0x22 (g.issued pc) pc 0#64 0#64))
  let mast (i : UeForm → Instr) (op kind run : Nat) (checks : State → Nat → UeForm → List Word → List Check) : Prop :=
    ∀ (f : UeForm) (s : State) (cl : Nat) (m : Mast) (x : Ctx), RunsMast s cl m (i f) f.g → f.gv = 0 → f.a.val + run ≤ 64 →
      let n : Nat := if f.i = 1 then kind * 4096 + f.b else (m.sreg f.b).toNat
      let regs := (List.range run).map fun k => m.sreg (f.a + k)
      n / 4096 = kind → s.ctx (mastOwner cl) n = some x → (∀ c ∈ checks s cl f regs, c = none) →
      ∃ (t : State), exec (i f) s = .next t ∧ (t.mast cl).pc = m.pc + 8#64 ∧ m.UniRun (t.mast cl) f.d (number f.w (x.taken + 1)) ∧
        t.groups = s.groups ∧ t.mem = s.mem ∧ t.l2 = s.l2 ∧
        queued t (mastOwner cl) n x fun c => c.op = op ∧ c.regs = regs ∧ c.pc = m.pc
  completes .cpy 0x24 0 6 (fun s g f w regs => s.cpyChecks g f w regs) ∧
  completes .gath 0x25 1 8 (fun s g f w regs => s.gathChecks g f false w regs) ∧
  completes .scat 0x26 2 8 (fun s g f w regs => s.gathChecks g f true w regs) ∧
  completes .coll 0x27 3 8 (fun s g f w regs =>
    let ty := bits f.imm 11 4
    let n := (rg regs 4).toNat
    let b := collBytes (bits f.imm 3 0) ty n (s.ndevOf g)
    [checkThat (collOk (bits f.imm 3 0) ty (bits f.opts 3 0) n (rg regs 6).toNat (rg regs 7).toNat (s.ndevOf g) (rg64 regs 0) (rg64 regs 2)) 0x02 0#64,
      s.barCheck g f.ntf (rg regs 5), s.memRange w .copy (rg64 regs 0) b.1 0x33, s.memRange w .store (rg64 regs 2) b.2 0x33]) ∧
  completes .vdec 0x28 4 8 (fun s g f w regs =>
    [checkThat (vdecOk (rg regs 6).toNat (rg regs 7).toNat (rg64 regs 2)) 0x02 0#64, s.barCheck g f.ntf (rg regs 5),
      s.memRange w .copy (rg64 regs 0) (rg regs 4).toNat 0x31, s.memRange w .store (rg64 regs 2) 1 0x31]) ∧
  mast .cpy 0x24 0 6 (fun s c f regs => s.cpyChecksMast c f regs) ∧ mast .gath 0x25 1 8 (fun s c f regs => s.gathChecksMast c f false regs) ∧
  mast .scat 0x26 2 8 (fun s c f regs => s.gathChecksMast c f true regs) ∧
  ∀ (f : UeForm) (s : State) (c : Nat), s.cur = .mast c → (s.mast c).mayRun = true →
    exec (.coll f) s = .next (s.mastFault c 0x01 0#64 0#64) ∧ exec (.vdec f) s = .next (s.mastFault c 0x01 0#64 0#64)

/-- With the guard on, s[a+3] = 0 and the bound kept: where the queue has a free entry and the group's release is done, enq and enqw
add one item (N = 1, or COUNT gangs), write its last number into d and, for enq, true into the named predicate; the context's
numbers, the spawn tree and the gang numbers grow by N. On a full queue enq writes false and sets ENQFULL, enqw parks. A bound
passed raises F_ENQ_BOUND (0x24). tdecl.decl adds, tdecl.frz freezes and tdecl.ret removes the declaration in the table of the
group's world and no other, when its fence and checks have passed and its pages are present; the lanes take P + 8. -/
def Obligations.EnqueueAndTensorDeclarations : Prop :=
  let enqueues (i : UeForm → Instr) (waits : Bool) : Prop :=
    ∀ (f : UeForm) (s : State) (gid : Nat) (pc : DWord) (g : Group) (x : Ctx) (l : Launch), ReadyUni s gid pc g (i f) f.sw f.g (ueUses f 4) →
      let n : Nat := if f.i = 1 then 5 * 4096 + f.b else (g.sreg f.b).toNat
      let own := s.lidOf g
      let grid : Bool := f.imm.val.testBit 0
      let count : Nat := if grid then (g.sreg (f.a + 2)).toNat else 1
      let blocks : Nat := if grid then count * l.kernel.gangblk else 1
      n / 4096 = 5 → s.ctx own n = some x → find s.launches own = some l → g.sreg (f.a + 3) = 0#32 →
      let s1 := s.setG gid (g.ready pc)
      (count = 0 ∨ 2 ^ 48 ≤ l.spawn + count ∨ (bit l.record.lflags 2 = true ∧ l.record.resblk < l.enqBlocks + blocks) →
        exec (i f) s = .next (s.raise gid 0x24 (g.issued pc) pc 0#64 0#64)) ∧
      (count ≠ 0 → l.spawn + count < 2 ^ 48 → ¬ (bit l.record.lflags 2 = true ∧ l.record.resblk < l.enqBlocks + blocks) →
        (x.items.length < x.room → ∀ s2 g2, s1.releaseGroup gid g = (true, s2) → find s2.groups gid = some g2 →
          let guard : Option (Nat × Nat) := if f.gv = 1 then some (g.bid, f.gslot.val) else none
          let item : Item := { num := x.taken + 1, count := count, grid := grid, arg := g.sreg64 f.a, guard := guard, gang := l.gangNext }
          ∃ g', exec (i f) s = .next ((s2.addItem own n item blocks).setG gid g') ∧
            g' = { g2 with s := g'.s, k := (if waits then g2.k else setPredOf g2.k (f.opts.val % 8) true), pc := g'.pc } ∧
            g2.Advanced g' (g.issued pc) (asPc (pc + 8#64)) ∧ g2.UniRun g' f.d (if f.w = 1 then [BitVec.ofNat 32 (x.taken + count), BitVec.ofNat 32 ((x.taken + count) / 2 ^ 32)]
              else [BitVec.ofNat 32 (x.taken + count)])) ∧
        (x.room ≤ x.items.length → waits = true → exec (i f) s = .next (s1.park gid (.room n))) ∧
        (x.room ≤ x.items.length → waits = false → ∃ g', exec (i f) s = .next (s.setG gid g') ∧
          g' = { (g.ready pc) with k := setPredOf g.k (f.opts.val % 8) false, gstat := g.gstat ||| 8#32, pc := g'.pc } ∧ g.Advanced g' (g.issued pc) (asPc (pc + 8#64))))
  let declares (i : AForm → Instr) (op : Nat) (change : World → Nat → Nat → Nat → Nat → World) : Prop :=
    ∀ (f : AForm) (s : State) (gid : Nat) (pc : DWord) (g : Group) (s2 : State),
      ReadyUni s gid pc g (i f) f.sw f.g { s := regRun f.a 6 } → (s.setG gid (g.ready pc)).fenceSc gid g 5 = (true, s2) →
      let base := (g.sreg64 f.a).toNat
      let bytes := (g.sreg64 (f.a + 2)).toNat
      let tid := (g.sreg (f.a + 4)).toNat
      let ver := (g.sreg (f.a + 5)).toNat
      let world := s2.worldOf g
      ((s2.world world).declFault op base bytes tid ver = none →
        (op = 1 ∨ (s2.declPages world (s2.asidOf g) base (base + bytes) {} (bytes / 4096 + 2)).1 = {}) →
        ∃ t : State, exec (i f) s = .next ((t.performed gid (g.issued pc) (asPc (pc + 8#64)) []).acquireAt gid g.cluster 5) ∧ t.groups = s2.groups ∧
          ∀ w, t.world w = if w = world then change (s2.world w) base bytes tid ver else s2.world w) ∧
      ∀ code, (s2.world world).declFault op base bytes tid ver = some code →
        exec (i f) s = .next (s2.raise gid code (g.issued pc) pc 0#64 0#64)
  enqueues .enq false ∧ enqueues .enqw true ∧
  (∀ (s : State) (own n : Nat) (i : Item) (blocks : Nat) (l : Launch) (x : Ctx), own < 2 ^ 40 → find s.launches own = some l → find l.ctxs n = some x →
    ∃ l' x', find (s.addItem own n i blocks).launches own = some l' ∧ l'.spawn = l.spawn + i.count ∧ l'.gangNext = l.gangNext + i.count ∧
      l'.enqBlocks = l.enqBlocks + blocks ∧ find l'.ctxs n = some x' ∧ x'.taken = x.taken + i.count ∧ x'.items.length = x.items.length + 1 ∧
      x'.cmds.length = x.cmds.length ∧ (s.addItem own n i blocks).groups = s.groups ∧ (s.addItem own n i blocks).mem = s.mem) ∧
  declares .tdeclDecl 0 (fun w base bytes tid ver =>
    { w with decls := w.decls ++ [{ tid := tid, ver := ver, base := base, bytes := bytes, frozen := false }], pairs := w.pairs ++ [(tid, ver)] }) ∧
  declares .tdeclFrz 1 (fun w _ _ tid ver =>
    { w with decls := w.decls.map fun d => if d.tid = tid ∧ d.ver = ver then { d with frozen := true } else d }) ∧
  declares .tdeclRet 2 (fun w _ _ tid ver => { w with decls := w.decls.filter fun d => ¬ (d.tid = tid ∧ d.ver = ver) })

/-- With the guard on: for a group with a clear road and an access that passes its checks, where nothing of it waits and the bytes
stand unpoisoned at home or in the group's scratchpad, the access completes: loads and atomics bind d to the bytes, stores and
atomics leave the new ones; more generally the one access, where it does not have to wait, is performed and, for the loads and
atomics, d is bound to the bytes read; the issued lanes take P + 8; a failing check raises its fault for the issued lanes at P. A
mast core's access writes d at once and advances by 8. In its private SRAM sld reads the addressed bytes, and sst changes exactly
those bytes of the SRAM and nothing else but the PC. With the guard off, or with helper lanes only, each only advances. -/
def Obligations.UniformAccessesComplete : Prop :=
  let gives (i : Instr) (sw : Fin 2) (gd : Fin 8) (u : Uses) (d : Nat) (stream shared bind bad : Bool) (kind : AccKind) (base : Group → DWord)
      (off : Nat) (size : Nat) (act : State → Issue → Who → DWord → Acc × State) (hints : State → State → Who → Nat → State) : Prop :=
    ∀ (s : State) (gid : Nat) (pc : DWord) (g : Group) (bs : List Byte) (t : State), ReadyUni s gid pc g i sw gd u →
      clearRoad s g stream →
      let it := g.issueAt gid pc 8 7
      let w := s.who it
      let ready := s.setG gid (g.ready pc)
      let addr : DWord := if shared then (uniAddr32 ((base g).setWidth 32) off).setWidth 64 else uniAddr (base g) off
      let s1 := if shared then ready else ready.refill w [addr]
      let check : Option (Nat × DWord × DWord) := if shared then s1.spFault g false (addr.setWidth 32) (nbytes size)
        else s1.accFault w kind addr (nbytes size) (bad && decide (addr.toNat % nbytes size ≠ 0))
      (check = none → inTurn w s1.order (accAt i addr.toNat) (fun s => act s it w addr) s1 = (.ok bs, t) →
        exec i s = .next ((hints t s1 w addr.toNat).performed gid (g.issued pc) (asPc (pc + 8#64))
          (if bind then uniWrites d (loadWords size false bs) else []))) ∧
      ∀ code a dt, check = some (code, a, dt) → exec i s = .next (s.raise gid code (g.issued pc) pc a dt)
  let data (f : UmForm) (rd : Nat → Word) : List Byte := storeBytes f.size ((regRun f.d (dataRegs f.size)).map rd)
  let none_ (t _ : State) (_ : Who) (_ : Nat) : State := t
  (∀ f : UmForm,
    let n := nbytes f.size
    let stream : Bool := decide (f.cls = 1)
    let far : Nat := if f.pol = 1 ∧ f.scope.val ≤ 3 then 4 else f.scope.val
    gives (.sld f) f.sw f.g { s := regRun f.d (dataRegs f.size) ++ [f.base.val, f.base + 1] } f.d stream false true false .load
      (fun g => g.sreg64 f.base) f.off f.size (fun s _ w a => s.loadNow w a.toNat n stream f.scope (decide (f.pol = 1)))
      (fun t s w va => t.settleHints s w [va] n stream f.scope f.rc f.grain f.pol true) ∧
    gives (.sst f) f.sw f.g { s := regRun f.d (dataRegs f.size) ++ [f.base.val, f.base + 1] } f.d stream false false false .store
      (fun g => g.sreg64 f.base) f.off f.size (fun s it w a => s.storeAtPoint w a.toNat (data f it.g.sreg) stream false far it.pc it.lowest it.I)
      (fun t s w va => t.settleHints s w [va] n stream far 0 f.grain f.pol false) ∧
    gives (.sldsh f) f.sw f.g { s := regRun f.d (dataRegs f.size) ++ [f.base.val] } f.d false true true false .load
      (fun g => (g.sreg f.base).setWidth 64) f.off f.size (fun s it _ a => s.spLoad it.gid it.g false (a.setWidth 32) n) none_ ∧
    gives (.sstsh f) f.sw f.g { s := regRun f.d (dataRegs f.size) ++ [f.base.val] } f.d false true false false .store
      (fun g => (g.sreg f.base).setWidth 64) f.off f.size (fun s it _ a => s.spStore it.gid it.g false (a.setWidth 32) (data f it.g.sreg)) none_) ∧
  (∀ f : UmaForm,
    let y (g : Group) : Nat × Nat := atomOperands f.size f.atop g.sreg f.d
    gives (.satom f) f.sw f.g { s := regRun f.d (atomRegs f.size f.atop) ++ [f.base.val, f.base + 1] } f.d false false true true .atomic
      (fun g => g.sreg64 f.base) f.off f.size (fun s it w a => s.atomicNow w a.toNat f.size f.atop (y it.g).1 (y it.g).2 f.scope)
      (fun t s w va => t.settleHints s w [va] (nbytes f.size) false 6 0 0 f.pol false) ∧
    gives (.satsh f) f.sw f.g { s := regRun f.d (atomRegs f.size f.atop) ++ [f.base.val] } f.d false true true false .atomic
      (fun g => (g.sreg f.base).setWidth 64) f.off f.size (fun s it _ a =>
        s.spAtomic it.gid it.g false (a.setWidth 32) f.size f.atop (y it.g).1 (y it.g).2) none_) ∧
  (∀ (f : UmForm) (s : State) (gid : Nat) (pc : DWord) (g : Group),
    let it := g.issueAt gid pc 8 7
    let w := s.who it
    let n := nbytes f.size
    let va := (uniAddr (g.sreg64 f.base) f.off).toNat
    let a := uniAddr32 (g.sreg f.base) f.off
    let stream : Bool := decide (f.cls = 1)
    let s0 := s.setG gid (g.ready pc)
    let s1 := s0.refill w [BitVec.ofNat 64 va]
    let ended (t : State) (ws : List (Dest × Word)) : State := t.performed gid (g.issued pc) (asPc (pc + 8#64)) ws
    let bank (act : State → Acc × State) (u : Uses) (i : Instr) (ws : List Byte → List (Dest × Word)) (after : Block → Nat → List Byte → State → Prop) : Prop :=
      ReadyUni s gid pc g i f.sw f.g u → clearRoad s g false → s0.spFault g false a n = none → s.waitingOf gid s.order = [] →
      ∀ b, s.blockOf g = some b → b.phase ≠ .gone → s.spPoison b a.toNat n = false →
      ∃ (bs : List Byte) (t : State), act s0 = (.ok bs, t) ∧ after b a.toNat bs t ∧ exec i s = .next (ended t (ws bs)) ∧ t.mem = s.mem ∧ t.l2 = s.l2
    (ReadyUni s gid pc g (.sld f) f.sw f.g { s := regRun f.d (dataRegs f.size) ++ [f.base.val, f.base + 1] } → clearRoad s g stream →
      s1.accFault w .load (BitVec.ofNat 64 va) n false = none → quietHome s gid g → atHome s w va n →
      ∃ t : State, t.mem = s.mem ∧ t.l2 = s.l2 ∧ exec (.sld f) s = .next (ended (t.settleHints s1 w [va] n stream f.scope f.rc f.grain f.pol true)
        (uniWrites f.d (loadWords f.size false ((List.range n).map fun k => s.homeByte w.lid (canonAsid w.asid va) (va + k)))))) ∧
    (let far : Nat := if f.pol = 1 ∧ f.scope.val ≤ 3 then 4 else f.scope.val
     ReadyUni s gid pc g (.sst f) f.sw f.g { s := regRun f.d (dataRegs f.size) ++ [f.base.val, f.base + 1] } → clearRoad s g stream →
      s1.accFault w .store (BitVec.ofNat 64 va) n false = none → (stream = false ∨ far = 6) → quietHome s gid g → atHome s w va n →
      (∀ la, find s.launches w.lid = some la → la.replayable = false) →
      (∀ k < n, s.frozenAt w.world (va + k) = false ∧ s.frozenAt 0 (va + k) = false) →
      ∃ t : State, t.mem = s.mem ∧ (∀ k < n, t.homeByte w.lid (canonAsid w.asid va) (va + k) = (data f g.sreg).getD k 0#8) ∧
        exec (.sst f) s = .next (ended (t.settleHints s1 w [va] n stream far 0 f.grain f.pol false) [])) ∧
    bank (fun s => s.spLoad gid g false a n) { s := regRun f.d (dataRegs f.size) ++ [f.base.val] } (.sldsh f)
      (fun bs => uniWrites f.d (loadWords f.size false bs)) (fun b k bs _ => bs = s.spRead b k n) ∧
    bank (fun s => s.spStore gid g false a (data f g.sreg)) { s := regRun f.d (dataRegs f.size) ++ [f.base.val] } (.sstsh f) (fun _ => [])
      (fun b k _ t => t.spRead b k n = data f g.sreg)) ∧
  (∀ (f : UmaForm) (s : State) (gid : Nat) (pc : DWord) (g : Group),
    let it := g.issueAt gid pc 8 7
    let w := s.who it
    let n := nbytes f.size
    let va := (uniAddr (g.sreg64 f.base) f.off).toNat
    let a := uniAddr32 (g.sreg f.base) f.off
    let y := atomOperands f.size f.atop g.sreg f.d
    let s0 := s.setG gid (g.ready pc)
    let s1 := s0.refill w [BitVec.ofNat 64 va]
    let ended (t : State) (bs : List Byte) : State := t.performed gid (g.issued pc) (asPc (pc + 8#64)) (uniWrites f.d (loadWords f.size false bs))
    (ReadyUni s gid pc g (.satom f) f.sw f.g { s := regRun f.d (atomRegs f.size f.atop) ++ [f.base.val, f.base + 1] } → clearRoad s g false →
      s1.accFault w .atomic (BitVec.ofNat 64 va) n (decide (va % n ≠ 0)) = none → quietHome s gid g → atHome s w va n →
      (∀ la, find s.launches w.lid = some la → la.replayable = false) →
      (∀ k < n, s.frozenAt w.world (va + k) = false ∧ s.frozenAt 0 (va + k) = false) →
      let old := (List.range n).map fun k => s.homeByte w.lid (canonAsid w.asid va) (va + k)
      ∃ t : State, t.mem = s.mem ∧
        (∀ k < n, t.homeByte w.lid (canonAsid w.asid va) (va + k) = (atomBytes f.size f.atop old y.1 y.2).getD k 0#8) ∧
        exec (.satom f) s = .next (ended (t.settleHints s1 w [va] n false 6 0 0 f.pol false) old)) ∧
    (ReadyUni s gid pc g (.satsh f) f.sw f.g { s := regRun f.d (atomRegs f.size f.atop) ++ [f.base.val] } → clearRoad s g false →
      s0.spFault g false a n = none → s.waitingOf gid s.order = [] →
      ∀ b, s.blockOf g = some b → b.phase ≠ .gone → s.spPoison b a.toNat n = false →
      ∃ t : State, exec (.satsh f) s = .next (ended t (s.spRead b a.toNat n)) ∧ t.mem = s.mem ∧ t.l2 = s.l2 ∧
        t.spRead b a.toNat n = atomBytes f.size f.atop (s.spRead b a.toNat n) y.1 y.2)) ∧
  (∀ (f : UmForm) (s : State) (c : Nat) (m : Mast),
    let n := nbytes f.size
    let va := (uniAddr (m.sreg64 f.base) f.off).toNat
    let a := uniAddr32 (m.sreg f.base) f.off
    let loaded (t : State) (x : Nat) : State := t.mastNext c 8 fun m => m.setRun f.d (loadWords f.size false (toBytes n x))
    (RunsMast s c m (.sld f) f.g → ∀ x t, s.mastLoad c va n 0 = .ok x t → exec (.sld f) s = .next (loaded t x)) ∧
    (RunsMast s c m (.sld f) f.g → va + n ≤ 0x40000 → ∃ m', exec (.sld f) s = .next (s.setM c m') ∧
      m' = { m with s := m'.s, pc := m.pc + 8#64 } ∧ m.UniRun m' f.d (loadWords f.size false ((List.range n).map fun i => getD m.sram (va + i) 0#8))) ∧
    (RunsMast s c m (.sst f) f.g → ∀ x t, s.mastStore c va n (ofBytes (data f m.sreg)) = .ok x t → exec (.sst f) s = .next (t.mastNext c 8 id)) ∧
    (RunsMast s c m (.sst f) f.g → va + n ≤ 0x40000 → ∃ m', exec (.sst f) s = .next (s.setM c m') ∧
      m' = { m with sram := m'.sram, pc := m.pc + 8#64 } ∧
      ∀ k, getD m'.sram k 0#8 = if va ≤ k ∧ k < va + n then (data f m.sreg).getD (k - va) 0#8 else getD m.sram k 0#8) ∧
    (RunsMast s c m (.sldsh f) f.g → ∀ x t, s.mastSpLoad c a n = .ok x t → exec (.sldsh f) s = .next (loaded t x)) ∧
    (RunsMast s c m (.sstsh f) f.g → ∀ x t, s.mastSpStore c a n (ofBytes (data f m.sreg)) = .ok x t →
      exec (.sstsh f) s = .next (t.mastNext c 8 id))) ∧
  (∀ (f : UmaForm) (s : State) (c : Nat) (m : Mast) (old x : Nat) (s1 t : State),
    let n := nbytes f.size
    let va := (uniAddr (m.sreg64 f.base) f.off).toNat
    let a := uniAddr32 (m.sreg f.base) f.off
    let new := ofBytes (atomBytes f.size f.atop (toBytes n old) (atomOperands f.size f.atop m.sreg f.d).1 (atomOperands f.size f.atop m.sreg f.d).2)
    let loaded : State := t.mastNext c 8 fun m => m.setRun f.d (loadWords f.size false (toBytes n old))
    (RunsMast s c m (.satom f) f.g → s.mastBar c va n 1 = none → va % n = 0 →
      (s.mastForce c va n).mastLoad c va n 1 = .ok old s1 → s1.mastStore c va n new = .ok x t →
      exec (.satom f) s = .next loaded) ∧
    (RunsMast s c m (.satsh f) f.g → s.mastSpLoad c a n = .ok old s1 → s1.mastSpStore c a n new = .ok x t → exec (.satsh f) s = .next loaded)) ∧
  (∀ f : UmForm,
    SkipsWithoutEffect (.sld f) f.sw f.g 8 { s := regRun f.d (dataRegs f.size) ++ [f.base.val, f.base + 1] } ∧
    SkipsWithoutEffect (.sst f) f.sw f.g 8 { s := regRun f.d (dataRegs f.size) ++ [f.base.val, f.base + 1] } ∧
    SkipsWithoutEffect (.sldsh f) f.sw f.g 8 { s := regRun f.d (dataRegs f.size) ++ [f.base.val] } ∧
    SkipsWithoutEffect (.sstsh f) f.sw f.g 8 { s := regRun f.d (dataRegs f.size) ++ [f.base.val] }) ∧
  ∀ f : UmaForm,
    SkipsWithoutEffect (.satom f) f.sw f.g 8 { s := regRun f.d (atomRegs f.size f.atop) ++ [f.base.val, f.base + 1] } ∧
    SkipsWithoutEffect (.satsh f) f.sw f.g 8 { s := regRun f.d (atomRegs f.size f.atop) ++ [f.base.val] }

/-- Each of the nineteen privileged instructions raises F_PRIV (0x03) for the issued lanes of a group at P (after the wait of a switch
marker), and on a mast core in unprivileged mode, before any other check; in privileged mode with its guard off it only advances
by 4. On a mast core every lane-set instruction, and every uniform one that only groups may execute (bar, barx, barw, sstep, gset,
sms, waitpred, coll, vdec, tdecl, enq, enqw, trap, brk, swpt, yield), raises F_ILLEGAL_OPCODE (0x01). A uniform word that does not
decode raises F_ILLEGAL_OPCODE for an unassigned opcode, F_PRIV for a privileged one (a group, an unprivileged core),
F_RESERVED_FIELD (0x02) otherwise, where a mast core may execute the opcode at all; a fetch that fails raises its code with ADDR
and detail, the lanes at P faulting, where they are not all helpers, which exit. -/
def Obligations.PrivilegeAndOpcodeChecks : Prop :=
  let privileged (i : Instr) (gd : Fin 8) (sw : Fin 2) : Prop :=
    (∃ f : NForm, (i = .mret f ∨ i = .gload f ∨ i = .mpark f ∨ i = .ctbiAll f) ∧ gd = f.g ∧ sw = f.sw) ∨
    (∃ f : AForm, (i = .mretGrp f ∨ i = .haltb f ∨ i = .gkill f) ∧ gd = f.g ∧ sw = f.sw) ∨
    (∃ f : AbForm, (i = .mretRes f ∨ i = .mretPc f ∨ i = .ctbw f ∨ i = .ctbiPage f ∨ i = .wcfg f) ∧ gd = f.g ∧ sw = f.sw) ∨
    (∃ f : DaForm, (i = .mrecv f ∨ i = .scan f) ∧ gd = f.g ∧ sw = f.sw) ∨ (∃ f : MsendForm, i = .msend f ∧ gd = f.g ∧ sw = f.sw) ∨
    (∃ f : TrapForm, i = .gsave f ∧ gd = f.g ∧ sw = f.sw) ∨ (∃ f : OpBForm, i = .ctbiAsid f ∧ gd = f.g ∧ sw = f.sw) ∨
    (∃ f : DnForm, i = .mcrr f ∧ gd = f.g ∧ sw = f.sw) ∨ (∃ f : AnForm, i = .mcrw f ∧ gd = f.g ∧ sw = f.sw)
  let groupOnly (i : Instr) : Prop :=
    (∃ f, i = .bar f) ∨ (∃ f, i = .barxInit f ∨ i = .barxExpect f ∨ i = .barxArrexp f) ∨ (∃ f, i = .barxArrive f ∨ i = .barxInval f) ∨ (∃ f, i = .barw f) ∨
    (∃ f, i = .sstep f ∨ i = .sms f ∨ i = .waitpred f ∨ i = .yield f) ∨ (∃ f, i = .gset f) ∨ (∃ f, i = .gsetClr f) ∨
    (∃ f, i = .coll f ∨ i = .vdec f ∨ i = .enq f ∨ i = .enqw f) ∨ (∃ f, i = .tdeclDecl f ∨ i = .tdeclFrz f ∨ i = .tdeclRet f) ∨
    (∃ f, i = .trap f ∨ i = .brk f) ∨ (∃ f, i = .swpt f)
  (∀ (i : Instr) (gd : Fin 8) (sw : Fin 2) (s : State), privileged i gd sw →
    (∀ gid pc g, Issues s gid pc g sw → exec i s = .next ((s.setG gid (g.ready pc)).raise gid 0x03 (g.issued pc) pc 0#64 0#64)) ∧
    (∀ c, s.cur = .mast c → (s.mast c).mayRun = true → (s.mast c).priv = false → exec i s = .next (s.mastFault c 0x03 0#64 0#64)) ∧
    ∀ c m, s.cur = .mast c → s.mast c = m → m.mayRun = true → m.priv = true → i.wf = true → predOf m.k gd.val = false →
      exec i s = .next (s.setM c { m with pc := m.pc + 4#64 })) ∧
  (∀ (i : Instr) (s : State) (c : Nat), s.cur = .mast c → (s.mast c).mayRun = true →
    groupOnly i ∨ (∃ w x, encode i = some (w, x) ∧ w < 2 ^ 31) → exec i s = .next (s.mastFault c 0x01 0#64 0#64)) ∧
  (∀ (s : State) (word : Nat), word < 2 ^ 33 →
    let w := word % 2 ^ 32
    let reserved : Bool := decide (2 ^ 32 ≤ word)
    let uniform := w.testBit 31
    let op := w / 2 ^ 23 % 128
    let private_ : Prop := uniform = true ∧ 0x32 ≤ op ∧ op ≤ 0x3F
    let groupOp : Prop := (0x1B ≤ op ∧ op ≤ 0x1E) ∨ (0x20 ≤ op ∧ op ≤ 0x22) ∨ (0x27 ≤ op ∧ op ≤ 0x2F)
    (∀ gid pc g, Issues s gid pc g (if w.testBit 30 then 1 else 0) → uniform = true →
      exec (.illegalOpcode word) s = .next ((s.setG gid (g.ready pc)).raise gid
        (if reserved = false then 0x01 else if private_ then 0x03 else 0x02) (g.issued pc) pc 0#64 0#64)) ∧
    ∀ c, s.cur = .mast c → (s.mast c).mayRun = true →
      (reserved = false ∨ uniform = false ∨ groupOp → exec (.illegalOpcode word) s = .next (s.mastFault c 0x01 0#64 0#64)) ∧
      (reserved = true → private_ → (s.mast c).priv = false → exec (.illegalOpcode word) s = .next (s.mastFault c 0x03 0#64 0#64)) ∧
      (reserved = true → uniform = true → ¬ groupOp → (private_ → (s.mast c).priv = true) →
        exec (.illegalOpcode word) s = .next (s.mastFault c 0x02 0#64 0#64))) ∧
  ∀ (s : State) (code detail addr : Nat), code < 256 → code ≠ 0x40 → code ≠ 0x36 →
    (∀ gid pc g, s.cur = .group gid pc → find s.groups gid = some g → g.issued pc ≠ 0#32 → s.mayIssue g pc = true →
      exec (.fetchFault (code + 256 * detail) addr) s = .next (
        if g.issued pc &&& ~~~g.helper = 0#32 then s.updG gid fun g => g.leave (g.issued pc)
        else s.raise gid code (g.issued pc) pc (BitVec.ofNat 64 addr) (BitVec.ofNat 64 detail))) ∧
    ∀ c, s.cur = .mast c → (s.mast c).mayRun = true →
      exec (.fetchFault (code + 256 * detail) addr) s = .next (s.mastFault c code (BitVec.ofNat 64 addr) 0#64)

/-- Below DEPTH 15 a mast core's own fault, and an event delivered with IE = 1, set PRIV, clear IE, raise DEPTH by 1, write code and
value into MCODE and MINFO (for a group's event also MGRP and MLANE), set the PC to MENTRY + 16 times the code, and change no
uniform register. The resume entry at 0x3EB00 + 16 DEPTH holds the resume PC, PRIV and IE. mret then restores exactly PC, PRIV, IE
and DEPTH. At DEPTH 15 an own fault stops the core. A delivered group event leaves the group, and its lanes are then held at a
delivered event; with IE = 0 nothing is delivered. A timer event comes when no other waits, and MTIME ends a core's sleep. mret at
DEPTH 0 raises F_RESERVED_FIELD. -/
def Obligations.TakingAnExceptionAndReturning : Prop :=
  let entered (m m' : Mast) (code : Nat) (resume : DWord) : Prop :=
    m'.priv = true ∧ m'.ie = false ∧ m'.depth = m.depth + 1 ∧ m'.mcode = BitVec.ofNat 32 code ∧
    m'.pc = m.mentry.setWidth 64 + BitVec.ofNat 64 (16 * code) ∧ m'.s = m.s ∧ m'.k = m.k ∧ m'.stack = m.stack ∧
    m'.rd (0x3EB00 + 16 * m.depth) 8 = resume.toNat ∧ (m'.rd (0x3EB00 + 16 * m.depth + 8) 1).testBit 0 = m.priv ∧
    (m'.rd (0x3EB00 + 16 * m.depth + 8) 1).testBit 1 = m.ie
  (∀ (m : Mast) (e : Ev) (resume : DWord) (clk : Nat), m.depth < 15 →
    entered m (m.take e resume clk) e.code resume ∧ (m.take e resume clk).minfo = e.value ∧
    (e.grp = true → (m.take e resume clk).mgrp = BitVec.ofNat 32 (e.sp + 4 * e.slot) ∧ (m.take e resume clk).mlane = e.lanes) ∧
    ((m.take e resume clk).ret0.pc = resume ∧ (m.take e resume clk).ret0.priv = m.priv ∧ (m.take e resume clk).ret0.ie = m.ie ∧
      (m.take e resume clk).ret0.depth = m.depth ∧ (m.take e resume clk).ret0.s = m.s)) ∧
  (∀ (f : NForm) (s : State) (c : Nat) (m : Mast), RunsMast s c m (.mret f) f.g → m.priv = true →
    (m.depth = 0 → exec (.mret f) s = .next (s.mastFault c 0x02 0#64 0#64)) ∧
    (0 < m.depth → ∃ m', exec (.mret f) s = .next (s.setM c m') ∧
      m' = { m with pc := m'.pc, priv := m'.priv, ie := m'.ie, depth := m.depth - 1, frameDepth := m'.frameDepth } ∧
      m'.pc = BitVec.ofNat 64 (m.rd (0x3EB00 + 16 * (m.depth - 1)) 8) ∧ m'.priv = (m.rd (0x3EB00 + 16 * (m.depth - 1) + 8) 1).testBit 0 ∧
      m'.ie = (m.rd (0x3EB00 + 16 * (m.depth - 1) + 8) 1).testBit 1)) ∧
  (∀ (s : State) (c code : Nat) (addr detail : DWord) (m : Mast), s.mast c = m →
    (m.depth < 15 → ∃ m', s.mastFault c code addr detail = s.setM c m' ∧ entered m m' code m.pc ∧ m'.minfo = addr.setWidth 32) ∧
    (15 ≤ m.depth → (((s.mastFault c code addr detail).mast c).stopped = true ∧ ((s.mastFault c code addr detail).mast c).merr.getLsbD 9 = true))) ∧
  (∀ (s : State) (c gid : Nat) (g : Group) (r : FaultRec) (m : Mast), s.mast c = m → m.running = true → m.stopped = false → m.depth < 15 →
    (m.wait = .nothing ∨ ∃ t, m.wait = .sleep t) → find s.groups gid = some g → g.event = some r → g.late = [] → s.nextEvent c = .group gid →
    (m.ie = true → ∃ (t : State) (g' : Group), exec (.eventDelivery c) s = .next t ∧ entered m (t.mast c) r.code m.pc ∧
      (t.mast c).mgrp = BitVec.ofNat 32 (g.sp + 4 * g.slot) ∧ (t.mast c).mlane = r.lanes ∧
      find t.groups gid = some g' ∧ g' = { g with event := none, hold := g'.hold } ∧
      ∀ l < 32, ∀ code p b, g.holdOf l = .event code p b → g'.holdOf l = .event code p true) ∧
    (m.ie = false → exec (.eventDelivery c) s = .next s)) ∧
  ∀ (s : State) (c : Nat) (m : Mast), s.mast c = m → m.running = true → m.stopped = false → m.depth < 15 →
    (m.wait = .nothing ∨ ∃ t, m.wait = .sleep t) →
    (m.ie = true → s.nextEvent c = .timer →
      ∃ m', exec (.eventDelivery c) s = .next (s.setM c m') ∧ entered m m' 0x54 m.pc ∧ m'.wait = .nothing) ∧
    (m.mtime ≠ 0#32 → m.mtime.toNat ≤ s.clk → exec (.mastTimerExpiry c) s = .next (if m.wait = .nothing then s else s.setM c { m with wait := .nothing }))

/-- In privileged mode with the guard on: each lane of s[a] that group MGRP holds at a delivered event leaves its hold and takes its
resume PC (mode 3: the given PC), in mode 2 first v0 from its word of the SRAM buffer; every other lane, register and all of
memory keep their values; lanes not held are ignored, and once a save of the block that sets it aside has begun (R352) nothing is
resumed. mpark moves MGRP's group, all of whose live lanes are held so, to the pending set. msend to a cluster in service appends
the 64 bytes to its mailbox if fewer than 16 messages wait and writes whether it did. mrecv takes the oldest message and its
sender, or reads 0xFFFFFFFF. Each advances the core by 4. -/
def Obligations.MastReturnsToLanesAndMessages : Prop :=
  let resumes (i : Instr) (gd : Fin 8) (s : State) (c : Nat) (m : Mast) (mask : Word) (v0 : Option (Nat → Word)) (at_ : Option DWord) : Prop :=
    RunsMast s c m i gd → m.priv = true → ∃ t : State, exec i s = .next t ∧ t.mast c = { m with pc := m.pc + 4#64 } ∧ t.mem = s.mem ∧ t.l2 = s.l2 ∧
      (∀ gid g, s.mgrp c = some (gid, g) → s.leaving g.bid = true → t = s.setM c { m with pc := m.pc + 4#64 }) ∧
      (∀ gid g, s.mgrp c = some (gid, g) → find s.groups gid = some g → s.leaving g.bid = false →
        ∃ g', find t.groups gid = some g' ∧ g'.s = g.s ∧ g'.p = g.p ∧ g'.k = g.k ∧
          ∀ l < 32,
            (∀ code r, has mask l → g.holdOf l = .event code r true →
              g'.holdOf l = .free ∧ g'.pcOf l = at_.getD r ∧ ∀ n < 64, g'.vreg l n = if n = 0 then (v0.elim (g.vreg l 0) fun f => f l) else g.vreg l n) ∧
            ((¬ has mask l ∨ ∀ code r, g.holdOf l ≠ .event code r true) →
              g'.holdOf l = g.holdOf l ∧ g'.pcOf l = g.pcOf l ∧ ∀ n < 64, g'.vreg l n = g.vreg l n)) ∧
      (s.mgrp c = none → t = s.setM c { m with pc := m.pc + 4#64 })
  let posted (t s : State) (c : Nat) (msg : List Byte) (dst : Nat) : Prop := (t.mast dst).mailbox = (s.mast dst).mailbox ++ [(c, msg)]
  (∀ (f : AForm) (s : State) (c : Nat) (m : Mast), resumes (.mretGrp f) f.g s c m (m.sreg f.a) none none) ∧
  (∀ (f : AbForm) (s : State) (c : Nat) (m : Mast),
    let off := (m.sreg f.b).toNat
    (off % 16 = 0 → off + 128 ≤ 0x40000 →
      resumes (.mretRes f) f.g s c m (m.sreg f.a) (some fun l => BitVec.ofNat 32 (m.rd (off + 4 * l) 4)) none) ∧
    (off % 16 ≠ 0 → RunsMast s c m (.mretRes f) f.g → m.priv = true → exec (.mretRes f) s = .next (s.mastFault c 0x02 0#64 0#64))) ∧
  (∀ (f : AbForm) (s : State) (c : Nat) (m : Mast),
    (goodTarget (m.sreg64 f.b) → resumes (.mretPc f) f.g s c m (m.sreg f.a) none (some (m.sreg64 f.b))) ∧
    (¬ goodTarget (m.sreg64 f.b) → RunsMast s c m (.mretPc f) f.g → m.priv = true →
      exec (.mretPc f) s = .next (s.mastFault c (if (m.sreg64 f.b).toNat % 4 ≠ 0 then 0x12 else 0x10) (m.sreg64 f.b) 0#64))) ∧
  (∀ (f : NForm) (s : State) (c : Nat) (m : Mast), RunsMast s c m (.mpark f) f.g → m.priv = true →
    let all (g : Group) : Prop := g.live ≠ 0#32 ∧ ∀ l < 32, has g.live l → ∃ code r, g.holdOf l = .event code r true
    (∀ gid g, s.mgrp c = some (gid, g) → all g → exec (.mpark f) s = .next (((s.updG gid fun x =>
      { x.dropTransient with phase := .pPark, active := none, waiting := .parkedByMast, since := s.clk }).scheduleAll c).mastNext c 4 id)) ∧
    ((∀ gid g, s.mgrp c = some (gid, g) → ¬ all g) → exec (.mpark f) s = .next (s.setM c { m with pc := m.pc + 4#64 }))) ∧
  (∀ (f : MsendForm) (s : State) (c : Nat) (m : Mast), RunsMast s c m (.msend f) f.g → m.priv = true →
    let dst := (m.sreg f.a).toNat
    let off := (m.sreg f.b).toNat
    dst < 0x500 → off % 64 = 0 → off + 64 ≤ 0x40000 →
    ∃ t : State, exec (.msend f) s = .next t ∧ (t.mast c).pc = m.pc + 4#64 ∧ (t.mast c).s = m.s ∧ t.groups = s.groups ∧ t.mem = s.mem ∧
      (s.inService dst = true → (s.mast dst).mailbox.length < 16 →
        posted t s c ((List.range 64).map fun k => getD m.sram (off + k) 0#8) dst ∧ predOf (t.mast c).k f.p = true) ∧
      (s.inService dst = true → 16 ≤ (s.mast dst).mailbox.length → (t.mast dst).mailbox = (s.mast dst).mailbox ∧
        (f.p ≠ 7 → predOf (t.mast c).k f.p = false)) ∧
      (s.inService dst = false → (t.mast dst).mailbox = (s.mast dst).mailbox ∧ predOf (t.mast c).k f.p = true) ∧
      ∀ k, k ≠ dst → (t.mast k).mailbox = (s.mast k).mailbox) ∧
  ∀ (f : DaForm) (s : State) (c : Nat) (m : Mast), RunsMast s c m (.mrecv f) f.g → m.priv = true →
    let off := (m.sreg f.a).toNat
    off % 64 = 0 → off + 64 ≤ 0x40000 →
    (m.mailbox = [] → ∃ m', exec (.mrecv f) s = .next (s.setM c m') ∧ m' = { m with s := m'.s, pc := m.pc + 4#64 } ∧ m.UniRun m' f.d [0xFFFFFFFF#32]) ∧
    ∀ n msg rest, m.mailbox = (n, msg) :: rest → msg.length = 64 →
      ∃ m', exec (.mrecv f) s = .next (s.setM c m') ∧ m' = { m with s := m'.s, pc := m.pc + 4#64, mailbox := rest, sram := m'.sram } ∧
        m.UniRun m' f.d [BitVec.ofNat 32 n] ∧
        ∀ k, getD m'.sram k 0#8 = if off ≤ k ∧ k < off + 64 then msg.getD (k - off) 0#8 else getD m.sram k 0#8

/-- In privileged mode with the guard on, with operands R232 accepts: haltb sets (RESUME: clears) the halt of exactly the groups of
its scope and waits for those still moving; gsave of a halted block with REASON 5 or 6 notes the running save and its clk, retires
the block's generation, ends the hold of the block's lanes at events (R352) and stalls the core for it; gload of a halted block
answers the block as the image gives it, opened for a protected world (log entry 145); gkill answers the kill of the block or gang
of MGRP, or waits while a gsave of it runs; scan is refused with status 3 while a group is resident or a mast-context command
runs, else the cluster's held stores are published and the core waits 450,000 clk for it. Where MGRP names no resident group
gsave, gload and gkill raise F_RESERVED_FIELD (0x02). -/
def Obligations.SavesHaltsAndScans : Prop :=
  let reserved (i : Instr) (s : State) (c : Nat) : Prop := exec i s = .next (s.mastFault c 0x02 0#64 0#64)
  let live (s : State) (p : Group → Bool) (k : Nat) : Prop := ∃ e ∈ s.groups, e.1 = k ∧ e.2.phase ≠ .retired ∧ p e.2 = true
  (∀ (f : AForm) (s : State) (c : Nat) (m : Mast) (gids : List Nat), RunsMast s c m (.haltb f) f.g → m.priv = true →
    let v := (m.sreg f.a).toNat
    s.haltTargets c (v % 4) = some gids →
    (v < 4 → ∃ t : State, exec (.haltb f) s = .next t ∧ t.mem = s.mem ∧
      (∀ k, find t.groups k = (find s.groups k).map fun g => if k ∈ gids then { g with halted := true, byHalt := true } else g) ∧
      (∃ moving, t.mast c = { m with pc := m.pc + 4#64, wait := if moving = [] then .nothing else .halt moving } ∧
        ∀ k, k ∈ moving ↔ k ∈ gids ∧ ∃ g, find t.groups k = some g ∧ (g.restful = false ∨ t.fenceFirst k g = true))) ∧
    (4 ≤ v → v < 8 → ∃ t : State, exec (.haltb f) s = .next t ∧ t.mem = s.mem ∧ t.mast c = { m with pc := m.pc + 4#64 } ∧
      ∀ k g, find t.groups k = some g → k ∈ gids → g.halted = false ∧ g.byHalt = false) ∧
    (8 ≤ v → reserved (.haltb f) s c)) ∧
  (∀ (s : State) (c k : Nat), (∃ l, s.haltTargets c 2 = some l ∧ (k ∈ l ↔ live s (fun g => g.cluster = c &&
      (match find s.blocks g.bid with | some b => b.phase == .resident | none => false)) k)) ∧
    ∀ gid g, s.mgrp c = some (gid, g) → s.haltTargets c 0 = some [gid] ∧
      ∃ l, s.haltTargets c 1 = some l ∧ (k ∈ l ↔ live s (fun x => x.bid = g.bid) k)) ∧
  (∀ (f : TrapForm) (s : State) (c : Nat) (m : Mast), RunsMast s c m (.gsave f) f.g → m.priv = true →
    (s.mgrpBlock c = none → reserved (.gsave f) s c) ∧
    ∀ bid b, s.mgrpBlock c = some (bid, b) →
      (f.n = 5 ∨ f.n = 6 → s.blockHalted bid = true → b.saving = none → s.mastBar c m.msave.toNat 16 1 = none →
        ∃ (t : State) (b' : Block), exec (.gsave f) s = .next t ∧ t.mast c = { m with pc := m.pc + 4#64, wait := .saving bid } ∧
          find t.blocks bid = some b' ∧ b' = { b with saving := some (f.n.val, s.clk), genRetired := true, faults := b'.faults, nested := [], sideCounts := b'.sideCounts } ∧
          (∀ gid g, find s.groups gid = some g → ∃ g', find t.groups gid = some g' ∧ g'.v = g.v ∧ g'.s = g.s ∧ g'.pc = g.pc ∧ g'.halted = g.halted ∧
            ∀ l, g'.holdOf l = match g.holdOf l with | .event code r x => if g.bid = bid then .free else .event code r x | h => h) ∧ t.mem = s.mem) ∧
      (f.n = 5 ∨ f.n = 6 → s.blockHalted bid = true → b.saving ≠ none → exec (.gsave f) s = .next (s.setM c { m with wait := .retry })) ∧
      ((f.n ≠ 5 ∧ f.n ≠ 6) ∨ s.blockHalted bid = false → reserved (.gsave f) s c)) ∧
  (∀ (f : NForm) (s : State) (c : Nat) (m : Mast), RunsMast s c m (.gload f) f.g → m.priv = true →
    (s.mgrpBlock c = none → reserved (.gload f) s c) ∧
    ∀ bid b l v, s.mgrpBlock c = some (bid, b) → s.launchOf b = some l →
      (s.blockHalted bid = true → b.saving = none → s.mastBar c m.msave.toNat 16 0 = none →
        let own (n : Nat) : List Byte := s.sealedImage l.record.world m.msave.toNat (s.readOwn c m.msave.toNat n) false
        wantShape (own 256) l b.variant = some v →
        let bs := own (saveReach (own 256) b v + 12)
        saveOk bs b l b.variant = true → exec (.gload f) s = .next ((s.loadBlock bid b l bs v).mastNext c 4 id)) ∧
      (s.blockHalted bid = false ∨ b.saving ≠ none → reserved (.gload f) s c)) ∧
  (∀ (f : AForm) (s : State) (c : Nat) (m : Mast), RunsMast s c m (.gkill f) f.g → m.priv = true →
    (s.mgrpBlock c = none ∨ 1 < (m.sreg f.a).toNat → reserved (.gkill f) s c) ∧
    ∀ bid b, s.mgrpBlock c = some (bid, b) → (m.sreg f.a).toNat ≤ 1 →
      (s.gangDumping bid b (decide ((m.sreg f.a).toNat = 1)) = false →
        exec (.gkill f) s = .next ((s.killFor bid (decide ((m.sreg f.a).toNat = 1))).mastNext c 4 id)) ∧
      (s.gangDumping bid b (decide ((m.sreg f.a).toNat = 1)) = true → exec (.gkill f) s = .next (s.mastRetry c))) ∧
  ∀ (f : DaForm) (s : State) (c : Nat) (m : Mast), RunsMast s c m (.scan f) f.g → m.priv = true →
    let v := (m.sreg f.a).toNat
    let busy : Prop := (∃ e ∈ s.groups, e.2.cluster = c ∧ e.2.phase ≠ .retired) ∨ ∃ e ∈ m.ctxs, e.2.counter < e.2.taken
    (3 < v → reserved (.scan f) s c) ∧
    (v ≤ 3 → busy → ∃ t : State, exec (.scan f) s = .next t ∧ t.groups = s.groups ∧ t.mem = s.mem ∧
      (t.mast c).pc = m.pc + 4#64 ∧ m.UniRun (t.mast c) f.d [3#32] ∧ (t.mast c).wait = .nothing) ∧
    (v ≤ 3 → ¬ busy → exec (.scan f) s = .next ((s.publishIf c fun _ _ => true).updM c fun x =>
      { x with pc := x.pc + 4#64, wait := .scan v (s.clk + 450000) f.d }))

/-- In privileged mode with the guard on: ctbw with an accepted attribute word makes its entry the one that its addresses find (V = 0:
none does) in a buffer within R324's capacity, which entering keeps; ctbi leaves exactly the entries that its mode does not name.
wcfg of an idle, authorised resource assigns it to its world: a sub-partition loses its engine state, a bank reads zero and has no
poison. mcrr reads the sixteen registers as R25 and R26 lay them out; mcrw writes the writable fields, clears the MERR bits
written 1 and leaves read-only registers; registers 16 to 63 raise F_RESERVED_FIELD. Each advances the core by 4 and changes no
group and no memory. -/
def Obligations.TranslationWorldsAndControlRegisters : Prop :=
  let runs (s : State) (c : Nat) (m : Mast) (i : Instr) (gd : Fin 8) : Prop := RunsMast s c m i gd ∧ m.priv = true
  let next (m : Mast) : Mast := { m with pc := m.pc + 4#64 }
  let still (s t : State) : Prop := t.groups = s.groups ∧ t.mem = s.mem ∧ t.l2 = s.l2 ∧ t.blocks = s.blocks
  let within (k : Cluster) : Prop := k.ctb.length ≤ 1024 ∧ (k.ctb.filter fun x => x.mast).length ≤ 256
  let dropped (i : Instr) (gd : Fin 8) (s : State) (c : Nat) (m : Mast) (hit : CtbEntry → Prop) : Prop :=
    runs s c m i gd → ∃ t : State, exec i s = .next t ∧ still s t ∧ t.mast c = next m ∧
      ∀ e, e ∈ (t.cluster c).ctb ↔ e ∈ (s.cluster c).ctb ∧ ¬ hit e
  (∀ (k : Cluster) (e : CtbEntry), within k → within (k.ctbPut e)) ∧
  (∀ (f : AbForm) (s : State) (c : Nat) (m : Mast),
    let va := (m.sreg64 f.a).toNat
    let a := (m.sreg64 f.b).toNat
    let pa := if bit a 22 then (m.sreg64 (f.b + 2)).toNat else 0
    let e := ctbEntryOf a va pa
    runs s c m (.ctbw f) f.g →
    (ctbwOk a va pa f.b = true → ∃ t : State, exec (.ctbw f) s = .next t ∧ still s t ∧ t.mast c = next m ∧
      (within (s.cluster c) → ∀ x, va ≤ x → x < va + e.psize → (t.cluster c).ctbFind e.mast e.asid x = if bit a 0 then some e else none)) ∧
    (ctbwOk a va pa f.b = false → exec (.ctbw f) s = .next (s.mastFault c 0x02 0#64 0#64))) ∧
  (∀ (f : AbForm) (s : State) (c : Nat) (m : Mast), dropped (.ctbiPage f) f.g s c m fun e =>
    e.asid = (m.sreg f.b).toNat ∧ e.va ≤ (m.sreg64 f.a).toNat ∧ (m.sreg64 f.a).toNat < e.va + e.psize) ∧
  (∀ (f : OpBForm) (s : State) (c : Nat) (m : Mast), dropped (.ctbiAsid f) f.g s c m fun e => e.asid = (m.sreg f.b).toNat) ∧
  (∀ (f : NForm) (s : State) (c : Nat) (m : Mast), dropped (.ctbiAll f) f.g s c m fun _ => True) ∧
  (∀ (f : AbForm) (s : State) (c : Nat) (m : Mast), runs s c m (.wcfg f) f.g →
    let r := (m.sreg f.a).toNat
    let w := (m.sreg f.b).toNat
    let kind := r % 16
    let idx := r / 16
    let named : Prop := w ≤ 16 ∧ kind ≤ 1 ∧ idx < (if kind = 0 then 4 else 32) ∧ s.wcfgBusy c kind idx = false
    (named → (w = 0 ∨ c ∈ (s.fn (w - 1)).clusters) → ∃ t : State, exec (.wcfg f) s = .next t ∧ still s t ∧ t.mast c = next m ∧
      (kind = 0 → getD (t.cluster c).spWorld idx 0 = w ∧ t.engine c idx = {} ∧ (t.cluster c).scratch = (s.cluster c).scratch) ∧
      (kind = 1 → getD (t.cluster c).bankWorld idx 0 = w ∧ (t.cluster c).engines = (s.cluster c).engines ∧
        ∀ k, getD (t.cluster c).scratch k 0#8 = if k / 16384 = idx then 0#8 else getD (s.cluster c).scratch k 0#8)) ∧
    (named → w ≠ 0 → c ∉ (s.fn (w - 1)).clusters → exec (.wcfg f) s = .next (s.mastFault c 0x35 0#64 0#64)) ∧
    (¬ named → exec (.wcfg f) s = .next (s.mastFault c 0x02 0#64 0#64))) ∧
  (∀ (f : DnForm) (s : State) (c : Nat) (m : Mast), runs s c m (.mcrr f) f.g →
    let n := f.n.val
    (16 ≤ n → exec (.mcrr f) s = .next (s.mastFault c 0x02 0#64 0#64)) ∧
    (n < 16 → ∃ (m' : Mast) (x : Word), exec (.mcrr f) s = .next (s.setM c m') ∧ m' = { m with s := m'.s, pc := m.pc + 4#64 } ∧ m.UniRun m' f.d [x] ∧
      (n = 0 → x = BitVec.ofNat 32 ((if m.priv then 1 else 0) + (if m.ie then 2 else 0) + 16 * m.depth)) ∧
      (n = 1 → x = if m.depth = 0 then 0#32 else BitVec.ofNat 32 (0x3EC00 + 0x40 * (m.depth - 1))) ∧
      (n = 2 → x = m.mcode) ∧ (n = 3 → x = m.minfo) ∧ (n = 4 → x = m.mentry) ∧ (n = 5 → x = m.mfree0) ∧ (n = 6 → x = m.mfree1) ∧
      (n = 7 → x = BitVec.ofNat 32 (c + 65536 * s.physNumber c)) ∧ (n = 8 → x = m.mgrp) ∧ (n = 9 → x = m.mlane) ∧
      (n = 10 → x.toNat % 256 = m.mailbox.length % 256) ∧ (n = 11 → x = m.mprio) ∧ (n = 12 → x = m.msave) ∧ (n = 13 → x = m.mtime) ∧
      (n = 14 → x = BitVec.ofNat 32 (getD (s.cluster c).spWorld (m.mgrp.toNat % 4) 0)) ∧ (n = 15 → x = m.merr))) ∧
  ∀ (f : AnForm) (s : State) (c : Nat) (m : Mast), runs s c m (.mcrw f) f.g →
    let n := f.n.val
    let x := m.sreg f.a
    let mm := next m
    (16 ≤ n → exec (.mcrw f) s = .next (s.mastFault c 0x02 0#64 0#64)) ∧
    (n < 16 → exec (.mcrw f) s = .next (s.setM c (
      if n = 0 then { mm with ie := x.getLsbD 1 } else if n = 2 then { mm with mcode := x &&& 0xFF#32 } else if n = 3 then { mm with minfo := x }
      else if n = 4 then { mm with mentry := x &&& 0xFFFFFF00#32 } else if n = 5 then { mm with mfree0 := x } else if n = 6 then { mm with mfree1 := x }
      else if n = 8 then { mm with mgrp := x &&& 0x7F#32 } else if n = 9 then { mm with mlane := x } else if n = 11 then { mm with mprio := x &&& 0xF#32 }
      else if n = 12 then { mm with msave := x } else if n = 13 then { mm with mtime := x } else if n = 15 then { mm with merr := m.merr &&& ~~~x }
      else mm)))

/-- A returned result is written to its registers (not for exited lanes) and leaves the list; a waiting late fault takes the place of
a delivered one; a refill brings the page's attributes into the translation buffer, a walk a near leaf into its port; a held fault
takes a freed slot; a parked ld and a logged store are performed once their turn has come and leave; a swap pair exchanges line
after line and then ends; an evicted line leaves its cache; a lease is extended beyond every timestamp of the cluster where the
copy is the line's last version; a narrow holder's byte is published; a scrub counts a corrected error or poisons the
quarter-line, or sets the mast core's MERR bit, counts the error and poisons the SRAM granule, or drops the translation buffer's
entries (parity); one that poisons a word of a vector register makes an iadd that reads it raise F_ECC_UNCORRECTED without effect,
its group halted. None of these steps changes a group's registers but as said. -/
def Obligations.MemoryAgentsDoTheirWork : Prop :=
  let emptied (s : State) (c : Nat) : Prop :=
    (s.cluster c).l1 = [] ∧ (∀ k, (s.cluster k).l1held = []) ∧ s.devHeld = [] ∧ s.devCopy = [] ∧ s.dir = []
  (∀ (s : State) (gid idx : Nat) (g : Group) (p : Pending), find s.groups gid = some g → g.pending[idx]? = some p → s.dumping g.bid = false →
    (p.writes.map fun w => w.1).Nodup → (∀ w ∈ p.writes, match w.1 with | .vec l r => l < 32 ∧ r < 64 | .uni r => r < 64) →
    ∃ (t : State) (g' : Group), exec (.loadResultReturn gid idx) s = .next t ∧ t.mem = s.mem ∧ t.l2 = s.l2 ∧ find t.groups gid = some g' ∧
      g'.pending = g.pending.eraseIdx idx ∧ g'.pc = g.pc ∧ g'.p = g.p ∧ g'.k = g.k ∧
      (∀ l < 32, ∀ r < 64, (∀ x, (Dest.vec l r, x) ∈ p.writes → ¬ has g.exited l → g'.vreg l r = x) ∧
        ((has g.exited l ∨ ∀ x, (Dest.vec l r, x) ∉ p.writes) → g'.vreg l r = g.vreg l r)) ∧
      ∀ r < 64, (∀ x, (Dest.uni r, x) ∈ p.writes → g'.sreg r = x) ∧ ((∀ x, (Dest.uni r, x) ∉ p.writes) → g'.sreg r = g.sreg r)) ∧
  (∀ (s : State) (gid : Nat) (g : Group) (r : FaultRec) (rest : List FaultRec), find s.groups gid = some g → g.event = none → g.late = r :: rest →
    ∃ (t : State) (g' : Group) (r' : FaultRec), exec (.accessFaultReturn gid) s = .next t ∧ find t.groups gid = some g' ∧
      g' = { g with late := rest, halted := true, event := some r', lastFault := some r', hold := g'.hold } ∧
      r'.code = r.code ∧ r'.pc = r.pc ∧ r'.addr = r.addr ∧ r'.detail = r.detail ∧ r'.lanes = r.lanes ∧ t.mem = s.mem) ∧
  (∀ (s : State) (c asid va : Nat) (e : CtbEntry), (s.attrs c asid va).1 = .ok e → (s.cluster c).ctb.length ≤ 1024 →
    ((s.cluster c).ctb.filter fun x => x.mast).length ≤ 256 →
    ∃ t : State, exec (.ctbRefill c asid va) s = .next t ∧ e ∈ (t.cluster c).ctb ∧ t.groups = s.groups ∧ t.mem = s.mem ∧ t.l2 = s.l2) ∧
  (∀ (s : State) (asid va : Nat) (l : Leaf), let a := canonAsid asid va
    (s.die (homeDie a va)).tlbFind (homePort a va) a va = none → (s.walk (homeDie a va) a va).1 = .leaf l → l.res < 2 →
    sortLeaf l (s.swapping a va) = none →
    ∃ t : State, exec (.portWalkComplete (homeDie a va) asid va) s = .next t ∧ t.groups = s.groups ∧ t.mem = s.mem ∧
      (t.die (homeDie a va)).tlbFind (homePort a va) a va = some l) ∧
  (∀ (s : State) (d : Nat) (e : FbEntry) (rest : List FbEntry), (s.die d).heldFaults = e :: rest → (s.die d).slotFree = true → (s.die d).joined e = none →
    ∃ (t : State) (e' : FbEntry), exec (.heldFaultAdmit d) s = .next t ∧ (t.die d).heldFaults = rest ∧ (t.die d).fbhead = (s.die d).fbhead + 1#64 ∧
      (t.die d).entries.getLast? = some e' ∧ e' = { e with seq := (s.die d).fbhead.toNat % 2 ^ 32 } ∧ t.groups = s.groups) ∧
  (∀ (s : State) (c sp : Nat) (e : SideLog) (o : SideOp),
    s.sideLog c sp = [e] → e.ops = [o] → o.atop = none → o.space = 0 → e.bad = false → s.savedBefore e.gid e.seq = false →
    s.entriesPoisoned e.gid = false → s.farWaits = [] → (∀ x ∈ s.waitingOf e.gid e.seq, ∀ y ∈ e.accs, x.keeps y = false) →
    let w := s.logWho c sp e
    let s0 := s.bindPieces w e.seq
    s0.farWaits = [] → s0.pageMoves w.asid o.addr = false →
    (∀ (v : List Byte) (s1 : State), s0.storeHome w e.seq o.addr (toBytes o.size o.y) e.stream e.rel = (.ok v, s1) → s1.farWaits = [] →
      ∃ t : State, exec (.sideLogReplay c sp) s = .next t ∧ t.sideLog c sp = [] ∧ t.mem = s1.mem ∧ t.l2 = s1.l2) ∧
    ((s.cluster c).pieces = [] → emptied s c → 1 ≤ o.size → o.size ≤ 16 → atHome s w o.addr o.size →
      (∀ la, find s.launches w.lid = some la → la.replayable = false) →
      (∀ k < o.size, s.frozenAt w.world (o.addr + k) = false ∧ s.frozenAt 0 (o.addr + k) = false) →
      ∃ t : State, exec (.sideLogReplay c sp) s = .next t ∧ t.sideLog c sp = [] ∧ t.mem = s.mem ∧
        ∀ k < o.size, t.homeByte w.lid (canonAsid w.asid o.addr) (o.addr + k) = (toBytes o.size o.y).getD k 0#8)) ∧
  (∀ (s : State) (gid idx : Nat) (g : Group) (p : Parked) (f : MForm),
    find s.groups gid = some g → g.replay[idx]? = some p → p.one = false → decodeWords p.w0 p.w1 = .ok (.ld f) →
    s.dumping g.bid = false → g.errs = [] →
    let w := s.whoOf gid g
    let n := nbytes f.size
    let stream : Bool := decide (f.cls = 1)
    let va (l : Nat) : Nat := getD p.addrs l 0
    let ls := lanesOf (p.lanes &&& g.live)
    let vas := ls.map va
    let s1 := s.gather w vas n stream f.scope
    let ended (t : State) (v : Nat → List Byte) : State :=
      let ws := ls.flatMap fun l => vecWrites l f.d (loadWords f.size false (v l))
      let t1 := (t.settleHints s1 w vas n stream f.scope f.rc f.grain f.pol true).updG gid fun g => { g with replay := g.replay.eraseIdx idx }
      (if p.restored then t1.updG gid fun g => ws.foldl Group.landWrite g else t1.bind gid ws).unparkResults gid
    (∀ (v : Nat → List Byte) (t : State), Performs (fun s l => inTurn w p.seq (accAt (.ld f) (va l)) (fun s => if s.pageMoves w.asid (va l) then (.wait, s)
        else s.loadNow w (va l) n stream f.scope (decide (f.pol = 1)) (tickOf vas n (decide (ls.headD 0 = l)))) s) s1 ls v t →
      exec (.parkedLoadReplay gid idx) s = .next (ended t v)) ∧
    (s.waitingOf gid p.seq = [] → s.sideLog g.cluster g.sp = [] → emptied s g.cluster →
      (∀ l ∈ ls, s.pageMoves w.asid (va l) = false ∧ atHome s w (va l) n) →
      ∃ t : State, t.mem = s.mem ∧ t.l2 = s.l2 ∧ exec (.parkedLoadReplay gid idx) s =
        .next (ended t fun l => (List.range n).map fun k => s.homeByte w.lid (canonAsid w.asid (va l)) (va l + k)))) ∧
  (∀ (s : State) (d : Nat) (w : Swap), (s.die d).swap = some w → w.done < w.lines →
    (w.paH + 128 * w.lines ≤ w.paC ∨ w.paC + 128 * w.lines ≤ w.paH) →
    let a := w.paH + 128 * w.done
    let b := w.paC + 128 * w.done
    s.linePoisoned a = false → s.linePoisoned b = false →
    ∃ t : State, exec (.swapPairLine d) s = .next t ∧ (t.die d).swap = some { w with done := w.done + 1 } ∧ t.groups = s.groups ∧
      ∀ x, Memory.read t.mem x = if a ≤ x ∧ x < a + 128 then Memory.read s.mem (b + (x - a))
        else if b ≤ x ∧ x < b + 128 then Memory.read s.mem (a + (x - b)) else Memory.read s.mem x) ∧
  (∀ (s : State) (d : Nat) (w : Swap), (s.die d).swap = some w → w.lines ≤ w.done → (∀ e ∈ s.groups, e.2.replay = []) →
    (∀ e ∈ s.clusters, ∀ l ∈ e.2.sideLogs, l.2 = []) → s.farWaits = [] →
    ∃ t : State, exec (.swapPairComplete d) s = .next t ∧ (t.die d).swap = none ∧ (t.die d).swapcnt = (s.die d).swapcnt + 1#64 ∧ t.groups = s.groups) ∧
  (∀ (s : State) (c asid line : Nat), asid < 2 ^ 16 → line < 2 ^ 49 →
    let a := canonAsid asid (line * 128)
    (∃ t : State, exec (.cacheEviction 2 c asid line) s = .next t ∧ t.groups = s.groups ∧
      ∀ ver, ∀ i < 8, find t.l2 (l2key ver a (line * 128 + 16 * i)) = none) ∧
    ∃ t : State, exec (.cacheEviction 1 c asid line) s = .next t ∧
      ∀ x, x % 2 ^ 65 = lineKey a (line * 128) → find (t.cluster c).l1 x = none) ∧
  (∀ (s : State) (c asid line k : Nat) (x : L1Line), let a := canonAsid asid (line * 128)
    k % 2 ^ 65 = lineKey a (line * 128) → (k, x) ∈ (s.cluster c).l1 → (∀ e ∈ (s.cluster c).l1, e.1 % 2 ^ 65 = k % 2 ^ 65 → e = (k, x)) →
    x.wts = (s.lineTsOf a (line * 128)).wts →
    ∃ t : State, exec (.leaseRenewal c asid line) s = .next t ∧ t.groups = s.groups ∧ t.mem = s.mem ∧ t.l2 = s.l2 ∧
      (t.lineTsOf a (line * 128)).wts = x.wts ∧ find (t.cluster c).l1 k = some { x with lease := (t.lineTsOf a (line * 128)).lease } ∧
      ∀ gid g, find s.groups gid = some g → g.cluster = c → g.ts < (t.lineTsOf a (line * 128)).lease) ∧
  (∀ (s s1 : State) (c asid line k : Nat) (h : Held) (v : List Byte), (s.cluster c).l1held = [(k, h)] → s.devHeld = [] → h.bad = false →
    (h.release = true → s.loggedBefore h.party h.seq = false) →
    k / 128 = l1key (canonAsid asid (line * 128)) (line * 128) / 128 →
    s.homeWrite { lid := s.lidOfParty h.party, world := h.world, asid := k / 2 ^ 56, kind := some .store, flags := 2, origin := c } (k % 2 ^ 56) [h.val]
      = (.ok v, s1) →
    ∃ t : State, exec (.forcedPublish c asid line) s = .next t ∧ (t.cluster c).l1held = [] ∧ t.l2 = s1.l2 ∧ t.mem = s1.mem) ∧
  (∀ (s : State) (c : Nat) (m : Mast), c < 1280 → s.mast c = m →
    let count (t : State) (w : Nat) : Prop := let (d, p) := s.physOf c
      ∀ v, getD (s.die d).counters (p * 8 + w) 0#64 = v → getD (t.die d).counters (p * 8 + w) 0#64 = if v = BitVec.allOnes 64 then v else v + 1#64
    (∃ t : State, exec (.memoryScrub c 3) s = .next t ∧ t.mast c = { m with merr := m.merr ||| 1#32 } ∧ count t 0 ∧ t.groups = s.groups ∧ t.mem = s.mem) ∧
    (∀ n < 32768, ∃ t : State, exec (.memoryScrub (c + 2048 * n) 4) s = .next t ∧
      t.mast c = { m with merr := m.merr ||| 2#32, bad := put m.bad n true } ∧ count t 1 ∧ t.groups = s.groups ∧ t.mem = s.mem) ∧
    ∃ t : State, exec (.memoryScrub c 5) s = .next t ∧ t.mast c = { m with merr := m.merr ||| 4#32 } ∧ ∀ e ∈ (t.cluster c).ctb, e.mast = true) ∧
  (∀ (s : State) (gid : Nat) (g : Group), find s.groups gid = some g → g.phase ≠ .retired → ∀ l < 32, ∀ r < 64, .vreg l r ∉ g.errs →
    ∃ t : State, exec (.memoryScrub (16384 * gid + 32 * r + l) 8) s = .next t ∧ t.mem = s.mem ∧
      find t.groups gid = some { g with errs := .vreg l r :: g.errs }) ∧
  (∀ (s : State) (gid : Nat) (pc : DWord) (g : Group) (f : RForm) (l : Nat), s.cur = .group gid pc → find s.groups gid = some g →
    g.issued pc ≠ 0#32 → s.mayIssue g pc = true → swWaits f.sw g pc = false → (Instr.iadd f).wf = true →
    (rUses f.d f.a f.e f.b).within (s.variantOf g) = true → g.helper = 0#32 → g.errs = [.vreg l f.a] → l < 32 → has (g.executing pc f.g) l →
    ∃ (t : State) (g' : Group), exec (.iadd f) s = .next t ∧ t.mem = s.mem ∧ find t.groups gid = some g' ∧ g'.halted = true ∧ g'.v = g.v ∧ g'.pc = g.pc ∧
      (g.event = none → ∃ r, g'.event = some r ∧ r.code = 0x40 ∧ r.lanes = laneBit l ∧ r.pc = pc)) ∧
  ∀ (s : State) (pa : Nat), inTier pa = true →
    (∃ t : State, exec (.memoryScrub pa 1) s = .next t ∧ t.mem = s.mem ∧ t.groups = s.groups ∧
      getD (t.die (eccHome pa).1).ceFrames (pa / 4096) 0 = getD (s.die (eccHome pa).1).ceFrames (pa / 4096) 0 + 1) ∧
    ∃ t : State, exec (.memoryScrub pa 2) s = .next t ∧ t.mem = s.mem ∧ t.groups = s.groups ∧
      ∀ x, getD t.memPoison x false = (getD s.memPoison x false || decide (x / 2 = pa / 32))

/-- FBBASE takes multiples of 131,072 only, ASIDBASE multiples of 8 MiB, FBTAIL any value. RESOLVE of an unresolved entry ends it;
with an unknown sequence number or a code R316 does not allow it sets DROP. VICTQ takes up to 64 victims, ECCPOP drops the oldest
event and lets one that waits at its source in, BPLADD appends to its stack's list of at most 1,024 frames or sets BPLFULL. An
INVCMD drops from every die's translation buffer the page, the address space or everything (OP 4 none) and is running on every die
until INVCMD_COMPLETE clears BUSY, for OP 4 once no cache below holds stores of the range; while one runs another sets DROP. But
for OP 4, which writes back, and for replays no group and no byte of memory changes. -/
def Obligations.FaultUnitAndMaintenanceRegisters : Prop :=
  let quiet (s t : State) : Prop := t.groups = s.groups ∧ t.mem = s.mem ∧ t.l2 = s.l2
  let others (s t : State) (d : Nat) : Prop := quiet s t ∧ ∀ k, k ≠ d → t.die k = s.die k
  let drops (i : Instr) (s : State) (d : Nat) : Prop :=
    ∃ t : State, exec i s = .next t ∧ others s t d ∧ t.die d = { s.die d with msstat := (s.die d).msstat ||| 16#64 }
  let resolved (es : List FbEntry) (seq : Nat) : List FbEntry := es.map fun y => if y.seq = seq then { y with resolved := true } else y
  let open_ (s : State) (d seq : Nat) (e : FbEntry) : Prop := (s.die d).entries.find? (fun e => e.seq = seq && !e.resolved) = some e
  let command (i : Nat → Instr) (op : Nat) (s : State) : Prop :=
    ∀ d asid, (s.die d).inv = none → (op = 4 → (s.die d).invaddr.toNat % 128 = 0 ∧ (s.die d).invlen.toNat % 128 = 0 ∧ (s.die d).invlen ≠ 0#64) →
      ∃ t : State, exec (i asid) s = .next t ∧ (op ≠ 4 → quiet s t) ∧
        (∀ k < 16, (t.die k).inv = some (op, asid, (s.die d).invaddr.toNat, (s.die d).invlen.toNat)) ∧
        (op = 1 → ∀ k < 16, ∀ p ∈ (t.die k).tlb, ∀ e ∈ p.2, ¬ (e.asid = canonAsid asid (s.die d).invaddr.toNat ∧
          e.va / e.leaf.psize = (s.die d).invaddr.toNat / e.leaf.psize)) ∧
        (op = 2 → ∀ k < 16, find (t.die k).asids asid = none ∧ ∀ p ∈ (t.die k).tlb, ∀ e ∈ p.2, e.asid ≠ asid) ∧
        (op = 3 → ∀ k < 16, (t.die k).tlb = [])
  (∀ (s : State) (d val : Nat), ∃ t : State, exec (.fbbaseWrite d val) s = .next t ∧ others s t d ∧
    t.die d = if val % 131072 = 0 then { s.die d with fbbase := BitVec.ofNat 64 val } else s.die d) ∧
  (∀ (s : State) (d val : Nat), ∃ t : State, exec (.fbtailWrite d val) s = .next t ∧ others s t d ∧
    t.die d = { s.die d with fbtail := BitVec.ofNat 64 val }) ∧
  (∀ (s : State) (d val : Nat), ∃ t : State, exec (.asidbaseWrite d val) s = .next t ∧ others s t d ∧
    t.die d = if val % 8388608 = 0 then { s.die d with asidbase := BitVec.ofNat 64 val } else s.die d) ∧
  (∀ (s : State) (d val : Nat), ∃ t : State, exec (.victq d val) s = .next t ∧ others s t d ∧
    t.die d = if (s.die d).victq.length < 64 then { s.die d with victq := (s.die d).victq ++ [BitVec.ofNat 64 val] } else s.die d) ∧
  (∀ (s : State) (d : Nat), ∃ t : State, exec (.eccpop d) s = .next t ∧ others s t d ∧
    ((s.die d).eccWait = [] → t.die d = { s.die d with eccq := (s.die d).eccq.tail }) ∧
    ∀ w rest, (s.die d).eccWait = w :: rest → (s.die d).eccq.length ≤ 256 →
      (∀ y, (s.die d).eccq.tail.getLast? = some y → bits y.toNat 51 7 ≠ bits w.toNat 51 7) →
      t.die d = { s.die d with eccq := (s.die d).eccq.tail ++ [w], eccWait := rest }) ∧
  (∀ (s : State) (d val : Nat), let frame := val % 2 ^ 52 / 4096 * 4096
    let x := s.die d
    ∃ t : State, exec (.bpladd d val) s = .next t ∧ others s t d ∧
      ((eccHome frame).2 = 0 → t.die d = if x.bpl0.length < 1024 then { x with bpl0 := x.bpl0 ++ [frame] } else { x with msstat := x.msstat ||| 4#64 }) ∧
      ((eccHome frame).2 ≠ 0 → t.die d = if x.bpl1.length < 1024 then { x with bpl1 := x.bpl1 ++ [frame] } else { x with msstat := x.msstat ||| 4#64 })) ∧
  (∀ (s : State) (d seq : Nat) (e : FbEntry), open_ s d seq e →
    (s.waitersOn e.asid e.page e.psize = [] → s.farWaits = [] → ∃ t : State, exec (.resolveSuccess d seq) s = .next t ∧ others s t d ∧
      t.die d = { s.die d with entries := resolved (s.die d).entries seq }) ∧
    ∀ code, (code = 0x10 ∨ code = 0x11 ∨ code = 0x35 ∨ code = 0x40) →
      ∃ t : State, exec (.resolveFail d seq code) s = .next t ∧ (t.die d).entries = resolved (s.die d).entries seq ∧ t.mem = s.mem ∧ t.l2 = s.l2) ∧
  (∀ (s : State) (d seq code : Nat),
    (((s.die d).entries.find? fun e => e.seq = seq && !e.resolved) = none → drops (.resolveSuccess d seq) s d ∧ drops (.resolveFail d seq code) s d) ∧
    (code ≠ 0x10 → code ≠ 0x11 → code ≠ 0x35 → code ≠ 0x40 → drops (.resolveFail d seq code) s d)) ∧
  (∀ (s : State) (d : Nat), command (fun a => .invcmdDropPage d a) 1 s ∧ command (fun a => .invcmdDropAsid d a) 2 s ∧
    command (fun a => .invcmdDropAll d a) 3 s ∧ command (fun a => .invcmdWritebackRange d a) 4 s ∧
    ((s.die d).inv ≠ none → ∀ a, drops (.invcmdDropPage d a) s d ∧ drops (.invcmdDropAsid d a) s d ∧ drops (.invcmdDropAll d a) s d ∧
      drops (.invcmdWritebackRange d a) s d)) ∧
  ∀ (s : State) (d op asid a n : Nat), (s.die d).inv = some (op, asid, a, n) →
    ∃ t : State, exec (.invcmdComplete d) s = .next t ∧ (op ≠ 4 → quiet s t) ∧
      (op ≠ 4 ∨ t.rangeHeld asid a n = false → ∀ k < 16, (t.die k).inv = none)

/-- A cpy piece of the running command at a context's head whose read gives the bytes bs and whose write performs leaves exactly those
effects and is noted as landed with its byte count (source and destination not overlapping). A command whose pieces have all
landed ends once its record is written (R215): the context's counter takes its number and the queue moves up. A failed command
ends the same way with FAIL, and on a mast core MERR bit 8 is set and MINFO names the context (R213). A video command with BYTES 0
pushes a sample record with ERR and fails; one whose stream decodes pushes the sample's record once its rows are written. An ldasy
piece with its bytes at hand is written to scratchpad and counted at its object in one event. -/
def Obligations.EngineEventsMoveDecodeAndComplete : Prop :=
  let runs (s : State) (own n : Nat) (x : Ctx) (c : Cmd) (rest : List Cmd) : Prop :=
    s.ctx own n = some x ∧ x.cmds = c :: rest ∧ x.items = [] ∧ c.guard = none ∧ c.discarded = false
  (∀ (s s1 s2 : State) (own n piece dst off k : Nat) (x : Ctx) (c : Cmd) (rest : List Cmd) (bs v : List Byte),
    let src := c.place (bit c.opts 0) 0
    let dest := c.place (bit c.opts 1) 2
    own < 2 ^ 40 → runs s own n x c rest → c.failed = none → c.op = 0x24 → c.ntf = false → piece ∉ c.landed →
    (bit c.opts 0 ≠ bit c.opts 1 ∨ dest + c.amount ≤ src ∨ src + c.amount ≤ dest) →
    chunkOf dest c.amount piece = some (dst, off, k) → bs.length = k →
    State.engRead { s with free := s.free + 16 } own c (bit c.opts 0) (src + off) k 0x31 = (.ok bs, s1) →
    s1.engWrite own c (bit c.opts 1) dst bs 0x11 = (.ok v, s2) →
    ∃ t : State, exec (.enginePieceLanding own n c.num piece) s = .next t ∧
      t = s2.updHead own n fun y => { y with landed := piece :: y.landed, bytes := y.bytes + k, waits := [] }) ∧
  (∀ (s s1 : State) (own n : Nat) (x : Ctx) (c : Cmd) (rest : List Cmd), own < 2 ^ 40 → n / 4096 ≠ 5 →
    runs s own n x c rest → c.failed = none → s.allLanded own c = true → (c.op = 0x28 → x.pop.length ≤ 256) →
    s.writeRecord own n c.num (if c.ended = 2 then 4 else 0) 0 c.done (s.cmdWho own c).c = (true, s1) →
    ∃ t : State, exec (.engineCommandComplete own n c.num) s = .next t ∧ t.mem = s1.mem ∧ t.l2 = s1.l2 ∧ t.groups = s1.groups ∧
      (t.ctx own n).map Ctx.counter = (s1.ctx own n).map (fun _ => c.num) ∧
      (t.ctx own n).map (fun y => y.cmds.length) = (s1.ctx own n).map fun y => y.cmds.length - 1) ∧
  (∀ (s : State) (core n : Nat) (x : Ctx) (c : Cmd), runs s (2 ^ 40 + core) n x c [] → c.failed = none → n / 4096 ≠ 5 →
    s.allLanded (2 ^ 40 + core) c = true → (c.op = 0x28 → x.pop.length ≤ 256) → find s.launches (2 ^ 40 + core) = none →
    ∃ t : State, exec (.engineCommandComplete (2 ^ 40 + core) n c.num) s = .next t ∧ t.mem = s.mem ∧ t.groups = s.groups ∧
      t.ctx (2 ^ 40 + core) n = some { x with cmds := [], counter := c.num }) ∧
  (∀ (s : State) (core n code addr : Nat) (x : Ctx) (c : Cmd), runs s (2 ^ 40 + core) n x c [] → c.failed = some (code, addr) →
    find s.launches (2 ^ 40 + core) = none →
    ∃ t : State, exec (.engineFault (2 ^ 40 + core) n c.num) s = .next t ∧ t.mem = s.mem ∧ t.groups = s.groups ∧
      t.ctx (2 ^ 40 + core) n = some { x with cmds := [], counter := c.num } ∧
      (t.mast core).merr = (s.mast core).merr ||| laneBit 8 ∧ (t.mast core).minfo = BitVec.ofNat 32 n) ∧
  (∀ (s s1 : State) (own n code addr : Nat) (x : Ctx) (c : Cmd) (rest : List Cmd), own < 2 ^ 40 → runs s own n x c rest →
    c.failed = some (code, addr) → s.writeRecord own n c.num 2 code c.done (s.cmdWho own c).c = (true, s1) →
    ∃ t : State, exec (.engineFault own n c.num) s = .next t ∧ t.mem = s1.mem ∧
      (t.ctx own n).map Ctx.counter = (s1.ctx own n).map (fun _ => c.num) ∧
      (code = 0x60 → t.groups = s1.groups)) ∧
  (∀ (s : State) (own n : Nat) (x : Ctx) (c : Cmd) (rest : List Cmd), runs s own n x c rest → c.failed = none → c.op = 0x28 → c.ended = 0 →
    x.pop.length ≤ 256 → x.reserved = [] → s.decodes x = true → c.amount = 0 → s.notifyWaits c = false →
    ∃ t : State, exec (.videoSampleDecoded own n) s = .next t ∧ t.mem = s.mem ∧ t.groups = s.groups ∧
      t.ctx own n = some { x with pop := x.pop ++ [BitVec.ofNat 64 (c.num % 65536 * 2 ^ 48 + 2 ^ 34)],
                                  cmds := { c with failed := some (0x60, 0) } :: rest }) ∧
  (∀ (s s1 : State) (own n last : Nat) (x : Ctx) (c : Cmd) (rest : List Cmd) (stream : List Byte), own < 2 ^ 40 → runs s own n x c rest → c.failed = none →
    c.op = 0x28 → c.ended = 0 → x.pop.length ≤ 256 → s.decodes x = true → c.amount ≠ 0 → c.ntf = false →
    s.readSend own c (c.place false 0) (c.amount / 16 + 2) c.amount = (last, .ok stream, s1) →
    let k := c.landed.length
    let codec := bits c.imm 3 0
    let w := Config.videoDim stream k / 65536 % 65536
    let h := Config.videoDim stream k % 65536
    let hmax := (rg c.regs 6).toNat / 65536
    let out := Config.videoForm codec stream
    let form := if out = 5 then 0 else if out = 6 then 1 else out
    let pitch := (rg c.regs 7).toNat
    let order := Config.videoOrder stream k % 2 ^ 32
    let luma := w * h * (if form = 1 then 2 else 1)
    let val (i : Nat) : Byte :=
      if Config.videoStep codec stream k = 2 ∧ Config.videoMissing stream k i = true then 0#8
      else if out ≥ 5 ∧ luma ≤ i then (if out = 5 ∨ (i - luma) % 2 = 1 then 0x80#8 else 0#8) else Config.videoByte stream k i
    ∃ t : State, exec (.videoSampleDecoded own n) s = .next t ∧ ∀ s2, Config.videoStep codec stream k < 3 → w ≤ (rg c.regs 6).toNat % 65536 → h ≤ hmax →
      s1.writeSample own c (c.place false 2 + order * videoSlot form pitch hmax) form val (videoRows form (Config.videoHalf stream) pitch hmax w h) = (none, s2) →
      t.mem = s2.mem ∧ t.l2 = s2.l2 ∧
        (∀ y, s2.ctx own n = some y → y.reserved = [] → ∃ z, t.ctx own n = some z ∧ z.counter = y.counter ∧
          (∃ high, z.pop = y.pop ++ [BitVec.ofNat 64 (c.num % 65536 * 2 ^ 48 + high * 2 ^ 32 + order)] ∧ high < 4))) ∧
  ∀ (s : State) (cl idx off : Nat) (p : Piece) (b m : Block) (bs : List Byte), (s.cluster cl).pieces[idx]? = some p →
    find s.blocks p.bid = some b → p.data = some bs → s.spPlace b false (BitVec.ofNat 32 p.dst) p.size = .ok (m, off) →
    ∃ t : State, exec (.ldasyPieceLanding cl idx) s = .next t ∧
      t = ((s.spWrite m off bs).countLanding b (BitVec.ofNat 32 p.obj) p.size).updC cl fun k => { k with pieces := k.pieces.eraseIdx idx }

/-- For a placed block of a known launch. A switch request is posted when the block may take the variant and grows into free
resources, and is withdrawn 450,000 clk later, not before. A block whose slice is over, or that a stuck launch of higher PRIO
pre-empts, begins a save with REASON 2 or 3 at the current clk. A gsave whose groups are at rest completes, its transient values
dropped, and its core goes on; a dispatcher's save of a lone block at rest whose area is written sets it aside as saved and takes
its groups off the cluster. The saved block that has waited longest is as the restore of its image leaves it, and so is one that
replaces its variant. A group at rest leaves every haltb that waits for it. The offered gang is placed, one block per cluster. A
block whose groups have retired, with nothing left to land or publish, ends. The mainmast recovers an error-struck gang 450,000
clk after its fault was delivered, and at once where the core has stopped; that cluster then takes no more blocks. A scan ends
with its status in d, the cluster's memories zero. -/
def Obligations.BlocksAreSwitchedSavedRestoredAndEnded : Prop :=
  let placed (s : State) (bid : Nat) (b : Block) (l : Launch) : Prop := find s.blocks bid = some b ∧ s.launchOf b = some l
  let saves (t : State) (bid reason clk : Nat) : Prop := (find t.blocks bid).map Block.saving = some (some (reason, clk))
  let alone (s : State) (bid : Nat) (b : Block) : Prop := (s.blocks.filter fun (e : Nat × Block) => e.2.lid = b.lid) = [(bid, b)]
  let settled (s : State) (bid : Nat) (b : Block) : Prop := ∀ e ∈ s.groups, e.2.bid = bid → s.holdsAny b.cluster e.1 = false
  let size (l : Launch) (v : Variant) : Nat := v.footprint l.kernel.groups
  (∀ (s : State) (bid var : Nat) (b : Block) (l : Launch) (v : Variant), placed s bid b l → find l.kernel.variants var = some v →
    b.phase = .resident → b.saving = none → b.request = none → b.held = false → (∀ t, b.withdrawnAt = some t → t + 4500000 ≤ s.clk) →
    l.record.lflags.testBit 3 = false → l.record.vmask.testBit var = true → var ≠ b.variant → size l (l.variantOf b) < size l v →
    s.fitsBlock b.cluster l.record.world b.ngroups b.groupItem v [bid] = true →
    ∃ t : State, exec (.variantSwitchRequest bid var) s = .next t ∧ t = s.updB bid fun b => { b with request := some (var, s.clk) }) ∧
  (∀ (s : State) (bid var at_ : Nat) (b : Block), find s.blocks bid = some b → b.request = some (var, at_) →
    (s.clk < at_ + 450000 → exec (.switchRequestTimeout bid) s = .next s) ∧
    (at_ + 450000 ≤ s.clk → ∃ t : State, exec (.switchRequestTimeout bid) s = .next t ∧ t.mem = s.mem ∧
      find t.blocks bid = some { b with request := none, withdrawnAt := some s.clk })) ∧
  (∀ (s : State) (bid : Nat) (b other : Block) (l lo : Launch) (k reason : Nat), placed s bid b l → b.phase = .resident → b.saving = none → b.struck = none →
    b.residentAt + 4500000 ≤ s.clk → (∀ e ∈ s.blocks, e.2.cluster = b.cluster → e.2.phase = .resident → e.2.saving = none → b.residentAt ≤ e.2.residentAt) →
    (k, other) ∈ s.blocks → other.phase = .saved reason → other.cluster = b.cluster → s.launchOf other = some lo → l.record.prio ≤ lo.record.prio →
    ∃ t : State, exec (.sliceBoundary bid) s = .next t ∧ t.mem = s.mem ∧ saves t bid 2 s.clk) ∧
  (∀ (s : State) (bid lid queue : Nat) (b : Block) (l n : Launch) (g : Gang), placed s bid b l → find s.launches lid = some n → n.phase = .running →
    queue ∈ [15, 14, 0, 1, 2, 3] → s.offered lid n queue = some g → (∀ item, s.gangFit n item = none) →
    (s.fn n.fn).clusters.contains b.cluster = true → b.phase = .resident → b.saving = none → b.struck = none → l.record.prio < n.record.prio →
    s.before n b = false → (∀ e ∈ s.blocks, e.2 ≠ b → e.2.phase ≠ .resident) →
    ∃ t : State, exec (.preemption bid lid) s = .next t ∧ t.mem = s.mem ∧ saves t bid 3 s.clk) ∧
  (∀ (s : State) (bid reason t0 : Nat) (b : Block), find s.blocks bid = some b → b.saving = some (reason, t0) → 5 ≤ reason →
    (s.groups.map fun e => e.1).Nodup → settled s bid b → s.savePoison bid 255 = false →
    (∀ e ∈ s.groups, e.2.bid = bid → e.2.quiet = true ∧ s.fenceFirst e.1 e.2 = false ∧ e.2.planeOwed = none ∧
      (s.engine e.2.cluster e.2.sp).holder ≠ some e.1 ∧ ∀ x ∈ (s.engine e.2.cluster e.2.sp).waiters, x.2 ≠ e.1) → (∀ e ∈ s.clusters, ∀ p ∈ e.2.pieces, p.bid ≠ bid) →
    ∃ t : State, exec (.blockSaveComplete bid) s = .next t ∧
      (∀ c, (s.mast c).wait = .saving bid → (t.mast c).wait = .nothing) ∧
      ((∀ e ∈ s.clusters, e.2.mast.wait ≠ .saving bid) → t.mem = s.mem ∧
        find t.blocks bid = some { b with saving := none, faults := [], nested := [], sideCounts := [] } ∧
        ∀ gid g, find s.groups gid = some g → find t.groups gid = some (if g.bid = bid then g.dropTransient else g))) ∧
  (∀ (s s1 : State) (bid reason t0 : Nat) (b b1 : Block) (l : Launch), placed s bid b l → alone s bid b → b.phase = .resident →
    b.saving = some (reason, t0) → (reason = 2 ∨ reason = 3) → (∀ e ∈ s.groups, e.2.bid = bid → e.2.saveable = true ∧ s.fenceFirst e.1 e.2 = false) →
    (∀ e ∈ s.clusters, ∀ p ∈ e.2.pieces, p.bid ≠ bid) → s.saveArea bid reason (s.saveSwpt bid reason) = (true, s1) →
    find s1.blocks bid = some b1 → b1.struck = none → s1.savePoison bid (s1.saveSwpt bid reason) = false → settled s1 bid b1 →
    ∃ (t : State) (b' : Block), exec (.blockSaveComplete bid) s = .next t ∧ find t.blocks bid = some b' ∧ b'.phase = .saved reason ∧ b'.saving = none ∧
      ∀ gid, gid / 32 = bid → find t.groups gid = none) ∧
  (∀ (s : State) (bid c vn reason : Nat) (b : Block) (l : Launch) (v : Variant), placed s bid b l → alone s bid b → b.phase = .saved reason →
    b.saving = none → b.swpt = 255 → vn = b.variant → find l.kernel.variants vn = some v → s.longestSaved b = true → c / 8 = b.cluster / 8 →
    s.placeable l.fn c = true → s.fitsBlock c l.record.world b.ngroups b.groupItem v [] = true →
    (∀ s1, s.restoreAll [(bid, c, vn)] = (.done, s1) → exec (.blockRestore bid c vn) s = .next s1) ∧
    (∀ bad code s1, s.restoreAll [(bid, c, vn)] = (.failed bad code, s1) → exec (.blockRestore bid c vn) s = .next (s1.restoreFailed bad code)) ∧
    ∀ s1, s.restoreAll [(bid, c, vn)] = (.waits, s1) → exec (.blockRestore bid c vn) s = .next s1) ∧
  (∀ (s r s1 : State) (bid var at_ n : Nat) (b : Block) (l : Launch) (v : Variant), placed s bid b l → b.request = some (var, at_) → b.saving = none →
    s.switchPoint bid = some n → find l.kernel.variants var = some v → s.fitsBlock b.cluster l.record.world b.ngroups b.groupItem v [bid] = true →
    s.restedFor bid Group.saveable = true → s.savePoison bid n = false →
    (s.updB bid fun b => { b with sideCounts := s.sideCountsOf bid, faults := [], nested := [], genRetired := true }).saveArea bid 1 n = (true, r) →
    (r.setAside bid 1 n).restoreAll [(bid, b.cluster, var)] = (.done, s1) →
    ∃ t : State, exec (.variantReplacement bid) s = .next t ∧ t = s1) ∧
  (∀ (s : State) (gid : Nat), (∀ g, find s.groups gid = some g → (g.restful = true ∧ s.fenceFirst gid g = false) ∨ g.phase = .retired) →
    ∃ t : State, exec (.groupHaltComplete gid) s = .next t ∧ t.groups = s.groups ∧ t.mem = s.mem ∧
      ∀ c l, (s.mast c).wait = .halt l →
        (t.mast c).wait = if l.filter (· ≠ gid) = [] then .nothing else .halt (l.filter (· ≠ gid))) ∧
  (∀ (s : State) (lid queue vn : Nat) (l : Launch) (g : Gang) (v : Variant) (cs : List Nat), find s.launches lid = some l → l.phase = .running →
    (l.record.lflags.testBit 2 = true → ∀ e ∈ s.blocks, e.2.lid = lid → e.2.saving = none ∧ ∀ r, e.2.phase ≠ .saved r) →
    l.replaying = false → l.status = 0 → (s.fn l.fn).share ≠ 0 → s.turnOf lid l queue = true → s.offered lid l queue = some g →
    s.gangFit l g.groupItem = some (vn, v, cs) →
    let n := if g.groupItem then 1 else l.kernel.groups
    let k := if g.groupItem then 1 else l.kernel.gangblk
    s.clustersOk l.fn l.record.world n k g.groupItem v cs = true → s.areasFor lid l n k = true →
    ∃ t : State, exec (.gangPlacement lid queue []) s = .next t ∧ t.clk = s.clk ∧ t.nextBid = s.nextBid + k) ∧
  (∀ (s : State) (bid : Nat) (b : Block), find s.blocks bid = some b → b.phase = .resident → b.saving = none → s.groupsOf bid ≠ [] →
    (∀ e ∈ s.groups, e.2.bid = bid → e.2.phase = .retired ∧ e.2.pipe = []) → (∀ e ∈ s.clusters, ∀ x ∈ e.2.sideLogs, ∀ y ∈ x.2, y.bid ≠ bid) →
    (∀ p ∈ (s.cluster b.cluster).pieces, p.bid ≠ bid) → settled s bid b →
    ∃ (t : State) (b' : Block), exec (.blockRetirement bid) s = .next t ∧ find t.blocks bid = some b' ∧ b'.phase = .gone) ∧
  (∀ (s : State) (bid code at_ : Nat) (b : Block), find s.blocks bid = some b → b.struck = some (code, at_) → b.phase ≠ .gone → s.gangSaving b = false →
    let told : Prop := ∀ e ∈ s.groups, ∀ x, s.blockOf e.2 = some x → x.lid = b.lid → x.gang = b.gang → ∀ r, e.2.event = some r → r.halts = false
    ((s.mast b.cluster).stopped = false → told → b.warned.getD at_ + 450000 ≤ s.clk →
      ∃ t : State, exec (.errorKillTimeout bid) s = .next t ∧ t = s.recover b.lid b.gang code) ∧
    ((s.mast b.cluster).stopped = false → (¬ told ∨ s.clk < b.warned.getD at_ + 450000) → exec (.errorKillTimeout bid) s = .next s) ∧
    ((s.mast b.cluster).stopped = true →
      ∃ t : State, exec (.errorKillTimeout bid) s = .next t ∧ t = (s.updC b.cluster fun k => { k with closed := true }).recover b.lid b.gang code)) ∧
  (∀ (s : State) (cl set due reg : Nat), (s.mast cl).wait = .scan set due reg →
    let ended (t : State) (status : Nat) : Prop := t.groups = s.groups ∧ t.mem = s.mem ∧ (t.mast cl).sreg reg = BitVec.ofNat 32 status ∧
      (t.mast cl).wait = .nothing ∧ (t.cluster cl).scratch = [] ∧ (t.cluster cl).ctb = [] ∧ (t.cluster cl).l1held = [] ∧ (t.cluster cl).l1 = []
    (due ≤ s.clk → ∃ (t : State) (status : Nat), exec (.scanComplete cl) s = .next t ∧ ended t status ∧ status ≤ 1 ∧
      (status = 1 → (t.cluster cl).closed = true)) ∧
    (s.clk < due → exec (.scanComplete cl) s = .next s) ∧
    (s.clk < due → (∃ e ∈ s.launches, e.2.phase = .running ∧ (s.mast cl).mprio.toNat % 16 ≤ e.2.record.prio ∧ s.needsCluster e.2 e.1 cl = true) →
      ∃ t : State, exec (.scanAbort cl) s = .next t ∧ ended t 2))

/-- A running ring whose next entry is there and passes R266 advances RDIDX, counts the index as consumed and admits the launch with
the record's fields and one of 64 decode engines for each video context; it goes on to the other devices it names; a launch packet
admits it without a ring index. A held launch on one device starts its seed, on several it enters the start barrier, tells rank 0
so, and the last ready message, or START, ends it; ABORT, a refusal and the barrier's timeout at rank 0 end it with STATUS 5. DONE
adds totals at rank 0, and rank 0's answer lets another rank complete. A launch whose work has ended commits, then completes with
STATUS 0 once its record is written. A replay on one device restarts with attempts + 1 once its parameter block is copied back. An
image that R73 accepts is loaded. A TAIL write that passes the ring's size overruns it; RRESET clears that; RBASE, WINBASE, FASID
and the shadow pool take only the values their rules accept. -/
def Obligations.LaunchesAndRingsProgress : Prop :=
  let ring (s : State) (fn n : Nat) : Ring := getD (s.fn fn).rings n {}
  let new (s t : State) (fn lid : Nat) (bs : List Byte) (kn : Kernel) (ctxs : SMap Ctx) : Prop :=
    t.nextLid = lid + 1 ∧ t.mem = s.mem ∧ t.groups = s.groups ∧
      ∃ l, find t.launches lid = some l ∧ l.phase = .admitted ∧ l.fn = fn ∧ l.record = parseRecord bs ∧ l.kernel = kn ∧ l.admittedAt = s.clk ∧
        ∃ engine : Nat → Nat, (∀ n, engine n < 64) ∧ l.ctxs = ctxs.map fun (e : Nat × Ctx) => (e.1, { e.2 with engine := engine e.1 })
  let phase (t : State) (lid : Nat) (p : LPhase) : Prop := (find t.launches lid).map Launch.phase = some p
  let tells (s : State) (fn : Nat) (devs : List Nat) (gen : Nat) (msg : YardMsg) : List Outgoing :=
    (devs.filter (· ≠ s.device)).map fun d => { fn := fn, device := d, gen := gen, msg := msg }
  let fails (i : Instr) (s : State) (lid : Nat) : Prop := ∃ t : State, exec i s = .next t ∧ (find t.launches lid).map Launch.status = some 5
  (∀ (s s1 s2 s3 s4 : State) (fn n : Nat) (ix bs pc v : List Byte) (kn : Kernel) (ctxs : SMap Ctx) (devs : List Nat), s.booted = true → s.estop = false →
    (ring s fn n).running = true → (ring s fn n).resetTo = none → s.ringHeld fn n = false → (∀ p ∈ (s.fn fn).packets, p.1 ≠ n) →
    s.hwRead (s.fnWorld fn) (s.fnAsid fn) (ring s fn n).rbase.toNat 4 = (.ok ix, s1) → ofBytes ix ≠ (ring s fn n).tail.toNat →
    s1.hwRead (s.fnWorld fn) (s.fnAsid fn) ((ring s fn n).rbase.toNat + 256 + 256 * (ofBytes ix % 2 ^ (ring s fn n).rlog)) 256 = (.ok bs, s2) →
    s2.examine fn bs (parseRecord bs) = (.ok kn ctxs devs pc, s3) →
    s3.hwStore (s.fnWorld fn) (s.fnAsid fn) (ring s fn n).rbase.toNat (toBytes 4 (ofBytes ix + 1)) = (.ok v, s4) →
    ∃ t : State, exec (.ringConsume fn n) s = .next t ∧ new s4 t fn s4.nextLid bs kn ctxs ∧ (ring t fn n).consumed = (ring s4 fn n).consumed + 1 ∧
      t.outbox = s4.outbox ++ if 1 < (parseRecord bs).ndev then tells s4 fn devs (parseRecord bs).gen (.packet n bs) else []) ∧
  (∀ (s s1 : State) (fn n : Nat) (data : List Nat) (pc : List Byte) (kn : Kernel) (ctxs : SMap Ctx) (devs : List Nat), s.estop = false →
    s.ringHeld fn n = false → (∀ p ∈ (s.fn fn).packets, p.1 ≠ n) →
    let bs := data.map fun x => BitVec.ofNat 8 x
    let got := s.updF fn fun x => { x with packets := x.packets ++ [(n, bs)] }
    got.examine fn bs (parseRecord bs) = (.ok kn ctxs devs pc, s1) →
    ∃ t : State, exec (.launchPacket fn n data) s = .next t ∧ new s1 t fn s1.nextLid bs kn ctxs) ∧
  (∀ (s : State) (lid : Nat) (l : Launch), find s.launches lid = some l → l.phase = .admitted → l.record.wring.testBit 15 = false → s.ringLets l = true → l.replaying = false →
    (l.record.ndev = 1 → ∃ t : State, exec (.launchStart lid) s = .next t ∧ phase t lid .running ∧ (find t.launches lid).map Launch.spawn = some 1) ∧
    (l.record.ndev ≠ 1 → (l.rank = 0 → ∃ r < l.record.ndev, r ≠ 0 ∧ r ∉ l.readyFrom) →
      ∃ t : State, exec (.launchStart lid) s = .next t ∧ phase t lid .barrier ∧ t.groups = s.groups ∧ t.mem = s.mem ∧
        t.outbox = s.outbox ++ if l.rank = 0 then [] else [{ fn := l.fn, device := l.devs.headD 0, gen := l.record.gen, msg := .ready }])) ∧
  (∀ (s : State) (lid rank : Nat) (l : Launch), find s.launches lid = some l → l.rank = 0 → 1 < l.record.ndev → rank < l.record.ndev →
    l.phase = .barrier → rank ∉ l.readyFrom →
    ((∀ r < l.record.ndev, r ≠ rank → r ∈ l.readyFrom) →
      ∃ t : State, exec (.startReady lid rank l.record.gen) s = .next t ∧ phase t lid .running) ∧
    ((∃ r < l.record.ndev, r ≠ rank ∧ r ∉ l.readyFrom) →
      ∃ t : State, exec (.startReady lid rank l.record.gen) s = .next t ∧ t = s.updL lid fun l => { l with readyFrom := rank :: l.readyFrom })) ∧
  (∀ (s : State) (lid : Nat) (l : Launch), find s.launches lid = some l →
    (l.phase = .barrier → l.rank ≠ 0 → ∃ t : State, exec (.startMsg lid l.record.gen) s = .next t ∧ phase t lid .running) ∧
    (1 < l.record.ndev → l.phase ≠ .ended → fails (.abortMsg lid l.record.gen) s lid) ∧
    (1 < l.record.ndev → l.rank = 0 → (l.phase = .admitted ∨ l.phase = .barrier) →
      (∀ rank status, rank < l.record.ndev → fails (.refusal lid rank status) s lid) ∧
      ((∃ r < l.record.ndev, r ∉ l.readyFrom) → l.admittedAt + 22500000 ≤ s.clk → fails (.startBarrierTimeout lid) s lid) ∧
      (s.clk < l.admittedAt + 22500000 → exec (.startBarrierTimeout lid) s = .next s))) ∧
  (∀ (s : State) (lid rank retired nfail : Nat) (l : Launch), find s.launches lid = some l → l.rank = 0 → 0 < rank → rank < l.record.ndev →
    rank ∉ l.doneFrom → l.phase = .running →
    ∃ t : State, exec (.doneMsg lid rank retired nfail) s = .next t ∧
      t = s.updL lid fun l => { l with doneFrom := rank :: l.doneFrom, retired := l.retired + retired, nfail := min (l.nfail + nfail) (2 ^ 32 - 1) }) ∧
  (∀ (s : State) (lid retired nfail : Nat) (l : Launch), find s.launches lid = some l → l.rank ≠ 0 → 0 < l.record.ndev → 0 ∉ l.doneFrom → l.phase = .running →
    exec (.doneMsg lid 0 retired nfail) s = .next (s.updL lid fun l => { l with doneFrom := 0 :: l.doneFrom })) ∧
  (∀ (s : State) (lid : Nat) (l : Launch), find s.launches lid = some l → s.workEnded lid l = true → l.status = 0 → l.allDone = true →
    (∃ t : State, exec (.shadowCommit lid) s = .next t ∧ phase t lid .committing) ∧
    ∀ (s3 : State) (v : List Byte), s.estop = false → l.shadows = [] → l.owed = [] → l.nfail = 0 → l.failAt = none →
      (l.record.ndev = 1 ∨ l.rank ∈ l.doneFrom) →
      s.hwStore l.record.world l.asid l.record.doneaddr (launchRecord l.lid.toNat 0 l.attempts l.record.gen 0 l.retired 0 s.clk) = (.ok v, s3) →
      ∃ t : State, exec (.launchCompletion lid) s = .next t ∧ t.mem = s3.mem ∧ t.l2 = s3.l2 ∧
        ∀ l', find t.launches lid = some l' → l'.phase = .ended ∧ l'.status = 0) ∧
  (∀ (s : State) (lid : Nat) (l : Launch), find s.launches lid = some l → l.replaying = true → l.prepared = false → l.record.ndev = 1 →
    l.started = true → (∀ e ∈ l.ctxs, e.2.cmds = []) → ((s.discardShadows lid).hwStore l.record.world l.asid l.record.param l.pcopy).1 ≠ .wait →
    ∃ (t : State) (l' : Launch), exec (.replayRestart lid) s = .next t ∧ find t.launches lid = some l' ∧ l'.attempts = l.attempts + 1 ∧ l'.replaying = false ∧
      l'.spawn = 1 ∧ l'.failures = [] ∧ l'.seedDone = false) ∧
  (∀ (s s1 : State) (fn addr size : Nat) (bs : List Byte), s.hwRead (s.fnWorld fn) (s.fnAsid fn) addr size = (.ok bs, s1) →
    (∀ im, parseImage addr bs = some im → ∃ t : State, exec (.imageLoad fn addr size) s = .next t ∧
      t = s1.updF fn fun x => { x with images := im :: x.images.filter (fun y => y.base ≠ addr), imageBad := some false }) ∧
    (parseImage addr bs = none → ∃ t : State, exec (.imageLoad fn addr size) s = .next t ∧ t = s1.updF fn fun x => { x with imageBad := some true })) ∧
  (∀ (s : State) (fn n val : Nat), let r := ring s fn n
    let x := val % 2 ^ 32
    let beyond : Bool := decide (1 ≤ r.rlog ∧ r.rlog ≤ 16 ∧ 2 ^ r.rlog < (x + 2 ^ 32 - r.tail.toNat) % 2 ^ 32)
    (∃ t : State, exec (.tailWrite fn n val) s = .next t ∧ t.mem = s.mem ∧ t.launches = s.launches ∧
      (x ≠ r.tail.toNat → ring t fn n = { r with tail := BitVec.ofNat 32 x, overrun := r.overrun || beyond, stopped := r.stopped || beyond } ∧
        (t.fn fn).vectors = if beyond then (s.fn fn).vectors ++ [r.rvec] else (s.fn fn).vectors) ∧
      (x = r.tail.toNat → t = s)) ∧
    (∃ t : State, exec (.rreset fn n val) s = .next t ∧ (ring t fn n).tail = BitVec.ofNat 32 x ∧ (ring t fn n).overrun = false ∧
      (ring t fn n).stopped = false) ∧
    (∃ t : State, exec (.rbaseWrite fn n val) s = .next t ∧ t.mem = s.mem ∧
      ring t fn n = if val % 256 = 0 then { r with rbase := BitVec.ofNat 64 (val % 2 ^ 56) } else r)) ∧
  (∀ (s : State) (fn val : Nat), val < 2 ^ 64 →
    (∃ t : State, exec (.winbaseWrite fn val) s = .next t ∧ t.mem = s.mem ∧
      t.fn fn = if val < 2 ^ 56 ∧ val % 2 ^ 36 = 0 then { s.fn fn with winbase := BitVec.ofNat 64 val } else s.fn fn) ∧
    (∃ t : State, exec (.fasidWrite fn val) s = .next t ∧ t.mem = s.mem ∧
      t.fn fn = if val < 2 ^ 16 ∧ s.fnWorld fn = 0 then { s.fn fn with fasid := BitVec.ofNat 64 val } else s.fn fn) ∧
    let free_ : Prop := ∀ e ∈ s.launches, e.2.fn = fn → e.2.shadows = []
    (free_ → val % 65536 = 0 → inFast val = true →
      ∃ t : State, exec (.shadowPoolWrite fn 3 val) s = .next t ∧ t.mem = s.mem ∧ t.fn fn = { s.fn fn with shbase := BitVec.ofNat 64 val }) ∧
    (free_ → val % 65536 = 0 →
      ∃ t : State, exec (.shadowPoolWrite fn 4 val) s = .next t ∧ t.mem = s.mem ∧ t.fn fn = { s.fn fn with shlen := BitVec.ofNat 64 val }) ∧
    (¬ free_ → ∀ reg, exec (.shadowPoolWrite fn reg val) s = .next s))

/-- A flit with a good CRC and the expected number is taken and acknowledges, and a read or store that it carries is performed here
and answered; any other is discarded, counted, and one retry asked. (What flits carry is an input: a list of the link.) A retry
request replays from its flit, the 64th of one flit in a row takes the link down, as loss of training does; training brings it up
with numbers from 0. PAUSE acts on channels 0 to 2, whose flits wait for its end. An enabled port sends the frame of its next
descriptor and advances HEAD, unless its priority is paused; a good received frame reaches the sockets and, with a descriptor,
HEAD advances. Link changes and PFC write their status. An aperture or DMA write changes exactly its bytes, reads answer them; a
refused one is counted. BAR 4 reads, writes and adds in place. An MSI-X write sets its bit. A register write of the page's width
writes that register. -/
def Obligations.DevicesAndLinksAnswer : Prop :=
  let link (s : State) (n : Nat) : Link := getD s.links n {}
  let eth (s : State) (p : Nat) : Eth := getD s.eth p {}
  let quiet (s t : State) : Prop := t.mem = s.mem ∧ t.groups = s.groups ∧ t.launches = s.launches
  let sets (i : Instr) (s : State) (n : Nat) (x : Link) : Prop :=
    ∃ t : State, exec i s = .next t ∧ quiet s t ∧ ∀ k, link t k = if k = n then x else link s k
  let setsE (i : Instr) (s : State) (n : Nat) (x : Eth) : Prop :=
    ∃ t : State, exec i s = .next t ∧ quiet s t ∧ ∀ k, eth t k = if k = n then x else eth s k
  let bytes (data : List Nat) : List Byte := data.map fun x => BitVec.ofNat 8 x
  (∀ (s : State) (n seq ack : Nat), n < 18 → (link s n).up = true →
    let l := link s n
    let taken : Link := { l with expected := (l.expected + 1) % 4096, retryAsked := false, sent := ackFlits l.sent ack, arriving := l.arriving.drop 1 }
    let flit (seq crc : Nat) : Instr := .flitReceive n seq ack crc
    let went : State := { s with links := setD s.links n taken.drain {} }
    (seq = l.expected → (∀ r ∈ l.arriving.head?, r.kind = 0) → sets (flit seq 0) s n taken.drain) ∧
    (∀ r, seq = l.expected → l.arriving.head? = some r → r.off + r.size ≤ 2 ^ 48 →
      let va := 0x00FF000000000000 + r.off
      let req (k : AccKind) : Req := { asid := 0, kind := some k, flags := 8, origin := 0x7FFF }
      let answers (t s1 : State) (code ts : Nat) (bs : List Byte) : Prop :=
        t.farAnswers = s1.farAnswers ++ [{ device := l.peer, code := code, data := bs, ts := ts }]
      (∀ bs s1, r.kind = 1 → went.homeRead (req .load) va r.size = (.ok bs, s1) →
        ∃ t : State, exec (flit seq 0) s = .next t ∧ t.mem = s1.mem ∧ t.l2 = s1.l2 ∧ answers t s1 0 (max r.ts (s1.lineTsOf 0 va).wts) bs) ∧
      (∀ c d s1, r.kind = 1 → went.homeRead (req .load) va r.size = (.fail c d, s1) →
        ∃ t : State, exec (flit seq 0) s = .next t ∧ t.mem = s1.mem ∧ t.l2 = s1.l2 ∧ answers t s1 c 0 []) ∧
      (∀ bs s1, r.kind = 2 → r.data.length = r.size → went.homeWrite (req .store) va r.data = (.ok bs, s1) →
        ∃ t : State, exec (flit seq 0) s = .next t ∧ t.mem = s1.mem ∧ t.l2 = s1.l2 ∧ answers t s1 0 (max r.ts ((s1.lineTsOf 0 va).lease + 1)) bs)) ∧
    (seq ≠ l.expected → sets (flit seq 0) s n
      { l with retries := if l.retryAsked then l.retries else min (l.retries + 1) 65535, retryAsked := true }) ∧
    (∀ crc, crc ≠ 0 → sets (flit seq crc) s n
      { l with crcerr := min (l.crcerr + 1) 65535, retries := if l.retryAsked then l.retries else min (l.retries + 1) 65535, retryAsked := true }) ∧
    (l.sent.contains seq = true → (l.replayed = some seq → l.replays < 63) → sets (.retryRequest n seq) s n
      ({ l with sent := l.sent.dropWhile fun x => x ≠ seq, replays := if l.replayed = some seq then l.replays + 1 else 1, replayed := some seq } : Link).drain) ∧
    (l.sent.contains seq = true → l.replayed = some seq → 63 ≤ l.replays →
      ∃ t : State, exec (.retryRequest n seq) s = .next t ∧ quiet s t ∧ (link t n).up = false ∧ (link t n).down = true) ∧
    (∃ t : State, exec (.linkTrainingLoss n) s = .next t ∧ quiet s t ∧ (link t n).up = false ∧ (link t n).down = true ∧ (link t n).sent = []) ∧
    (∀ ch, ch < 3 → ch ∉ l.paused → sets (.pauseOn n ch) s n { l with paused := l.paused ++ [ch] }) ∧
    (∀ ch, sets (.pauseOff n ch) s n ({ l with paused := l.paused.filter (· ≠ ch) } : Link).drain)) ∧
  (∀ (s : State) (n peer : Nat), n < 18 → peer < 4608 → (link s n).up = false → sets (.linkUp n peer) s n
    { link s n with up := true, peer := peer, expected := 0, next := 0, sent := [], replays := 0, replayed := none, retryAsked := false, paused := [], held := [] }) ∧
  (∀ (s : State) (p up fec rate width prio : Nat), p < 4 →
    setsE (.ethernetLinkChange p up fec) s p { eth s p with linkup := decide (up ≠ 0), fec := decide (fec ≠ 0) } ∧
    (∃ t : State, exec (.rootPortLinkChange p up rate width) s = .next t ∧ quiet s t ∧ ∀ k, getD t.rootLinks k 0#64 =
      if k = p ∧ up = 0 then 0#64
      else if k = p ∧ 1 ≤ rate ∧ rate ≤ 6 ∧ (width = 1 ∨ width = 2 ∨ width = 4) then BitVec.ofNat 64 (rate + 16 * width + 65536)
      else getD s.rootLinks k 0#64) ∧
    ((eth s p).ectl.getLsbD 2 = true → prio < 8 →
      setsE (.priorityFlowControl p prio 0) s p { eth s p with pausedPrio := (eth s p).pausedPrio.filter (· ≠ prio) } ∧
      (prio ∉ (eth s p).pausedPrio → setsE (.priorityFlowControl p prio 1) s p { eth s p with pausedPrio := (eth s p).pausedPrio ++ [prio] }))) ∧
  (∀ (s : State) (p r : Nat) (d f : List Byte), p < 4 → r < 16 → (eth s p).ectl.getLsbD 0 = true → (eth s p).linkup = true → (eth s p).ready r = true →
    s.estop = false → s.dmaRead ((eth s p).descriptor r) 32 = some d → 60 ≤ fieldAt d 8 4 → fieldAt d 8 4 ≤ 9212 →
    s.dmaRead (fieldAt d 0 8) (fieldAt d 8 4) = some f →
    let paused : Prop := (eth s p).ectl.getLsbD 2 = true ∧ framePriority f ∈ (eth s p).pausedPrio
    (paused → exec (.transmitDescriptor p r) s = .next s) ∧
    (¬ paused → ∃ t : State, exec (.transmitDescriptor p r) s = .next t ∧ (eth t p).sent = (eth s p).sent ++ [f] ∧
      (eth t p).reg r 2 = ((eth s p).reg r 2 + 1) % (eth s p).ringSize r)) ∧
  (∀ (s : State) (p : Nat) (data : List Nat), p < 4 → (eth s p).ectl.getLsbD 0 = true → (eth s p).linkup = true → s.estop = false →
    60 ≤ data.length → data.length ≤ 9212 → (eth s p).accepts (bytes data) = true →
    let r := receiveRing (bytes data)
    let served (t : State) : Prop := t.sockets = s.sockets.map fun k =>
      if k.port = p ∧ k.etype = etherType (bytes data) ∧ k.frames.length < 64 then { k with frames := k.frames ++ [bytes data] } else k
    ((eth s p).ready r = false → ∃ t : State, exec (.frameReceive p 0 data) s = .next t ∧ quiet s t ∧ served t) ∧
    ∀ d, (eth s p).ready r = true → s.dmaRead ((eth s p).descriptor r) 32 = some d →
      ∃ t : State, exec (.frameReceive p 0 data) s = .next t ∧ served t ∧ (eth t p).reg r 2 = ((eth s p).reg r 2 + 1) % (eth s p).ringSize r) ∧
  (∀ (s : State) (addr len bid off : Nat) (data : List Nat) (b : Block),
    (s.apertureBlock addr len = some (bid, b, off) →
      (∃ t : State, exec (.apertureAccess addr 1 len data) s = .next t ∧ t = s.spWrite b off (bytes (data.take len))) ∧
      ∃ t : State, exec (.apertureAccess addr 0 len data) s = .next t ∧ t = { s with reply := some (s.spRead b off len) }) ∧
    (s.apertureBlock addr len = none →
      (∃ t : State, exec (.apertureAccess addr 1 len data) s = .next t ∧ quiet s t ∧
        t.dropcnt = if s.dropcnt = BitVec.allOnes 64 then s.dropcnt else s.dropcnt + 1#64) ∧
      ∃ t : State, exec (.apertureAccess addr 0 len data) s = .next t ∧ t = { s with reply := none })) ∧
  (∀ (s : State) (port addr len : Nat) (data : List Nat), port < 8 → s.rcctl.toNat.testBit port = true →
    (inTier addr = true → inTier (addr + len - 1) = true → data.length = len →
      (len ≤ 512 → ∃ t : State, exec (.inboundMemoryRequest port addr 1 len data) s = .next t ∧ t.groups = s.groups ∧
        ∀ a, Memory.read t.mem a = if addr ≤ a ∧ a < addr + len then (bytes data).getD (a - addr) 0#8 else Memory.read s.mem a) ∧
      (len ≤ 4096 → ∃ t : State, exec (.inboundMemoryRequest port addr 0 len data) s = .next t ∧
        t = { s with reply := some ((List.range len).map fun i => Memory.read s.mem (addr + i)) })) ∧
    ∀ o wr, len ≤ 512 → inTier addr = false → pageOf addr = (.outside, o) →
      ∃ t : State, exec (.inboundMemoryRequest port addr wr len data) s = .next t ∧ quiet s t ∧ t.reply = none ∧
        t.urcnt = if s.urcnt = BitVec.allOnes 64 then s.urcnt else s.urcnt + 1#64) ∧
  (∀ (s c1 s1 s2 : State) (fn off len : Nat) (data : List Nat) (bs v : List Byte), fn ≤ 16 → 0 < len → off + len ≤ 2 ^ 36 → s.booted = true → s.estop = false →
    s.fnWorld fn = 0 →
    let va := (s.fn fn).winbase.toNat + off
    let asid := s.fnAsid fn
    let calm : State := { s with reply := none }
    (calm.barLets 0 asid va len true false = (true, c1) → c1.barRead 0 asid (State.barWrite.pieces16 va len) = (some bs, s1) →
      ∃ t : State, exec (.bar4Access fn off 0 len data) s = .next t ∧ t = { s1 with reply := some bs }) ∧
    (calm.barLets 0 asid va len false true = (true, c1) →
      ∃ t : State, exec (.bar4Access fn off 1 len data) s = .next t ∧ t = c1.barWrite 0 asid va ((bytes data).take len)) ∧
    ((len = 4 ∨ len = 8) → va % len = 0 → calm.barLets 0 asid va len true true = (true, c1) →
      (c1.forcePublish (2 ^ 11) (canonAsid asid va) va).inPlace asid va (fun s => s.homeRead { world := 0, asid := asid } va len) = (.ok bs, s1) →
      s1.inPlace asid va (fun s => s.homeWrite { world := 0, asid := asid } va
        (toBytes len ((ofBytes bs + ofBytes ((bytes data).take len)) % 2 ^ (8 * len)))) = (.ok v, s2) →
      ∃ t : State, exec (.bar4Access fn off 2 len data) s = .next t ∧ t = { s2 with reply := some bs })) ∧
  (∀ (s : State) (cl vec : Nat), cl < 1280 → vec < 64 →
    ∃ t : State, exec (.msixTargetWrite cl vec) s = .next t ∧ quiet s t ∧ t.mast cl = { s.mast cl with msix := (s.mast cl).msix ||| BitVec.ofNat 64 (2 ^ vec) }) ∧
  (∀ (s : State) (dev val : Nat), dev < 4608 → val < 2 ^ 64 →
    ∃ t : State, exec (.registerWrite (0xF0A0000010000 + 8 * dev) 8 val) s = .next t ∧ quiet s t ∧
      ∀ k, getD t.routing k 0#64 = if k = dev then BitVec.ofNat 64 (val % 2 ^ 18 + if val.testBit 31 then 2 ^ 31 else 0) else getD s.routing k 0#64) ∧
  ∀ (s : State) (pa off val : Nat) (p : Page), inDevice pa = true → pageOf pa = (p, off) → p.accepts off 8 = true → val < 2 ^ 64 →
    p ≠ .outside → p ≠ .aperture → (∀ c k, p ≠ .msix c k) →
    ∃ t : State, exec (.registerWrite pa 8 val) s = .next t ∧ t = s.regWrite p off val

/-- Power-on of a module that has not booted with good flash boots the mast cores of the clusters in service and reaches phase 4 with
READY (hostless: phase 3), with a bad header, signature or yard image it error-stops with cause 1, 2 or 3. MODRST with the magic
value resets all but the memories' cells and flash, power loss those cells too. A power window of 2,250,000 clk takes its averages
and throttles above the limit PLIMIT gave it until below 95 per cent; PLIMIT and TTRIP take values in range only. A reading at
TTRIP, a current above 30,000 and a state error of the mainmast error-stop with cause 4, 5 and 6: ESTOP, launches ended with
STATUS 8, groups halted, mast cores stopped. A shard sends its READY, which shard 0 notes, and reports with the last of all;
BOOT_DONE makes a hostless module ready; a missing READY maps in and boots the spare once. -/
def Obligations.ModuleBootsPowersAndStops : Prop :=
  let stopped (s t : State) (cause : Nat) : Prop := t.estop = true ∧ t.cause = cause ∧ t.estopAt = s.clk ∧ t.mem = s.mem ∧
    (∀ e ∈ t.groups, e.2.halted = true) ∧ (∀ e ∈ t.clusters, e.2.mast.running = false ∧ e.2.sideLogs = [] ∧ e.2.pieces = []) ∧
    (∀ e ∈ t.launches, e.2.phase = .ended) ∧ (t.fn 16).vectors = (s.fn 16).vectors ++ [0]
  let stops (i : Instr) (s : State) (cause : Nat) : Prop := ∃ t : State, exec i s = .next t ∧ stopped s t cause
  (∀ s : State, s.booted = false → s.estop = false →
    (s.flash.headerOk = false → stops .powerOn s 1) ∧
    (s.flash.headerOk = true → s.flash.signatureOk = false → stops .powerOn s 2) ∧
    (s.flash.headerOk = true → s.flash.signatureOk = true → s.flash.yardsOk = false → stops .powerOn s 3) ∧
    (s.flash.headerOk = true → s.flash.signatureOk = true → s.flash.yardsOk = true →
      ∃ t : State, exec .powerOn s = .next t ∧ t.booted = true ∧ t.mem = s.mem ∧ t.estop = false ∧ t.fwmeas = sha512 s.flash.bytes ∧
        t.phase = (if s.hostless then 3 else 4) ∧ t.ready = !s.hostless ∧
        ∀ c < 1280, t.inService c = true → (t.mast c).running = true ∧ (t.mast c).pc = 0x1000#64 ∧ (t.mast c).priv = true ∧ (t.mast c).ie = false)) ∧
  (∀ (s : State) (val : Nat),
    (val = 0x52455345 → ∃ t : State, exec (.modrst val) s = .next t ∧ t.mem = s.mem ∧ t.memPoison = s.memPoison ∧ t.flash = s.flash ∧ t.drives = s.drives ∧ t.files = s.files ∧
      t.booted = false ∧ t.groups = [] ∧ t.launches = [] ∧ t.clusters = [] ∧ t.worlds = [] ∧ t.l2 = []) ∧
    (val ≠ 0x52455345 → exec (.modrst val) s = .next s) ∧
    (∃ t : State, exec .powerLoss s = .next t ∧ t.mem = [] ∧ t.spare = [] ∧ t.flash = s.flash ∧ t.drives = s.drives ∧ t.files = s.files ∧ t.booted = false ∧ t.groups = [] ∧ t.l2 = []) ∧
    (∃ t : State, exec (.plimitWrite val) s = .next t ∧ t = if 1000 ≤ val ∧ val ≤ 15000 then { s with plimit := BitVec.ofNat 64 val, limit := if s.throt then s.limit else BitVec.ofNat 64 val } else s) ∧
    (∃ t : State, exec (.ttripWrite val) s = .next t ∧ t = if 85 ≤ val ∧ val ≤ 115 then { s with ttrip := BitVec.ofNat 64 val } else s)) ∧
  (∀ (s : State) (watts amps : Nat), watts < 65536 → amps < 65536 →
    (s.clk < s.windowAt + 2250000 → exec (.powerWindow watts amps) s = .next s) ∧
    (s.windowAt + 2250000 ≤ s.clk → ∃ t : State, exec (.powerWindow watts amps) s = .next t ∧
      t = { s with pwr := BitVec.ofNat 64 watts, icore := BitVec.ofNat 64 amps, throt := t.throt, windowAt := s.clk, limit := s.plimit } ∧
      (s.limit.toNat < watts → t.throt = true) ∧ (watts * 100 < s.limit.toNat * 95 → t.throt = false) ∧
      (watts ≤ s.limit.toNat → s.limit.toNat * 95 ≤ watts * 100 → t.throt = s.throt))) ∧
  (∀ (s : State) (temp amps : Nat), temp < 256 →
    (temp < s.ttrip.toNat → ∃ t : State, exec (.thermalTrip temp) s = .next t ∧ t = { s with tmax := BitVec.ofNat 64 temp }) ∧
    (s.estop = false → s.ttrip.toNat ≤ temp → stops (.thermalTrip temp) s 4) ∧
    (s.estop = false → 30000 < amps → stops (.overcurrent amps) s 5) ∧
    (amps ≤ 30000 → exec (.overcurrent amps) s = .next s) ∧
    (s.estop = false → stops .mainmastStateError s 6)) ∧
  (∀ (s : State) (cl : Nat) (msg : List Byte), s.oldestMsg 0 = some (cl, msg) → (msg.getD 0 0#8).toNat = 4 → cl ∉ s.readyShards →
    ∃ t : State, exec (.readyMsg cl) s = .next t ∧ t.readyShards = s.readyShards ++ [cl] ∧ t.groups = s.groups ∧ t.mem = s.mem ∧
      (t.mast 0).mailbox = (s.mast 0).mailbox.drop 1 ∧
      ((∃ c < s.flash.nsh, c ≠ cl ∧ c ∉ s.readyShards) → (t.mast 0x7FE).mailbox = (s.mast 0x7FE).mailbox)) ∧
  (∀ (s : State) (cl : Nat), s.booted = true → s.estop = false → cl < s.flash.nsh → (s.mast cl).running = true → (s.mast cl).stopped = false →
    8 * cl ∉ s.bootWork → cl ∉ s.readyShards → (∀ m ∈ s.oldestMsg 0, m.1 ≠ cl) → s.inService 0 = true → (s.mast 0).mailbox.length < 16 →
    ∃ t : State, exec (.readyMsg cl) s = .next t ∧ (t.mast 0).mailbox = (s.mast 0).mailbox ++ [(cl, readyMessage cl)] ∧
      t.bootWork = s.bootWork ++ [8 * cl] ∧ t.readyShards = s.readyShards ∧ t.groups = s.groups ∧ t.mem = s.mem) ∧
  (∀ (s : State) (cl : Nat) (msg : List Byte) (rest : List (Nat × List Byte)), (s.mast 0x7FE).mailbox = (cl, msg) :: rest → msg.getD 0 0#8 = 5#8 →
    s.hostless = true → s.phase = 3 → s.estop = false →
    ∃ t : State, exec (.bootDone cl) s = .next t ∧ t.phase = 4 ∧ t.ready = true ∧ (t.mast 0x7FE).mailbox = rest ∧ t.groups = s.groups ∧ t.mem = s.mem) ∧
  ∀ (s : State) (cl : Nat), s.booted = true → s.estop = false → cl < s.flash.nsh → cl < 1280 → cl ∉ s.readyShards → 8 * cl ∉ s.bootWork → s.inService cl = true →
    (s.mast cl).releasedAt + 450000000 ≤ s.clk →
    let spare := bits (getD (s.die (cl / 80)).maps (cl % 80 / 8) 0#64).toNat 35 32
    (spare ≠ 15 → cl ∉ s.retried → ∃ t : State, exec (.readyTimeout cl) s = .next t ∧ t.retried = s.retried ++ [cl] ∧ (t.mast cl).running = true ∧
      (t.mast cl).releasedAt = s.clk ∧ (t.mast cl).pc = 0x1000#64) ∧
    (spare = 15 ∨ cl ∈ s.retried → ∃ t : State, exec (.readyTimeout cl) s = .next t ∧ t.readyShards = s.readyShards ++ [cl] ∧ t.groups = s.groups ∧ t.mem = s.mem)

/-- For a command record submitted on its page in due form (and authenticated where R368 asks it) the mainmast answers with DONE set,
BUSY clear and STATUS 0: CREATE makes the world alive with its ways, period and deadline and answers its report, ATTEST answers a
report, SESSION gives KS and KW, MKEY fills an empty slot with the key it unwraps (STATUS 4 where none unwraps), SEALINST is
accepted and installs its lines one event each (STATUS 8 at the first whose MAC differs), HEARTBEAT moves the deadline, DESTROY
ends the world, after the saves in it, DBGUNLOCK (STATUS 9 for a bad token) and DBGLOCK open and close debug, DREAD answers the
bytes. A world whose deadline has passed, or whose function is reset, ends (TORN set by the former). An injection changes the
accumulator element, poisons the line or the granule and sets FISTAT to done. MAPREQ retires a free cluster in service and ends
with RESULT 0, 1 without a spare, 2 or 3 where it is refused. -/
def Obligations.WorldsAndInjectionsAreServed : Prop :=
  let submitted (s : State) (fn op : Nat) (unused : List (Nat × Nat)) : Prop := (s.fn fn).wbusy = true ∧ s.booted = true ∧ s.estop = false ∧
    (s.fn fn).arg 0 2 = op ∧
    (s.fn fn).wsubAt / 2250 < s.clk / 2250 ∧ (s.fn fn).wprog = none ∧ zeroAt (s.fn fn).wcmd 0xE0 32 = true ∧ ∀ u ∈ unused, zeroAt (s.fn fn).wcmd u.1 u.2 = true
  let answered (t : State) (fn status : Nat) : Prop := (t.fn fn).wdone = true ∧ (t.fn fn).wbusy = false ∧
    getD (t.fn fn).wrec 2 0#8 = BitVec.ofNat 8 status ∧ getD (t.fn fn).wrec 3 0#8 = 0#8
  let response (t : State) (fn : Nat) (bs : List Byte) : Prop := ∀ i < 256, getD (t.fn fn).wresp i 0#8 = (fitBytes 256 bs).getD i 0#8
  let signed (s : State) (fn : Nat) : Prop := (s.world (fn + 1)).alive = true ∧ (s.world (fn + 1)).ending = false ∧ ∃ ks, (s.world (fn + 1)).ks = some ks ∧
    (s.world (fn + 1)).seq ≤ (s.fn fn).arg 4 4 ∧
    fitBytes 32 (hmac512 ks ((s.fn fn).wcmd.take 2 ++ [0#8, 0#8] ++ ((s.fn fn).wcmd.drop 4).take 0xBC)) = ((s.fn fn).wcmd.drop 0xC0).take 32
  let dead (t : State) (w : Nat) : Prop := t.world w = {}
  (∀ (s : State) (fn : Nat), fn < 16 → submitted s fn 1 [(0x0A, 2), (0x30, 0x90)] →
    let x := s.fn fn
    let ways := x.arg 8 1
    let period := x.arg 0xC 4
    1 ≤ ways → ways ≤ 8 → x.arg 9 1 ≤ 1 → 1 ≤ period → period ≤ 60000 → (s.world (fn + 1)).alive = false → s.debugOpen = false → s.waysUsed + ways ≤ 24 →
    s.unlockWaits (s.fn fn) = false →
    ∃ t : State, exec (.createWorld fn) s = .next t ∧ answered t fn 0 ∧ response t fn (t.report (fn + 1) ((x.wcmd.drop 0x10).take 32)) ∧
      (s.l2 = [] → t.mem = s.mem) ∧ t.groups = s.groups ∧ (t.fn fn).torn = false ∧
      (t.world (fn + 1)).alive = true ∧ (t.world (fn + 1)).asid = s.fnAsid fn ∧ (t.world (fn + 1)).ways = ways ∧
      ((t.world (fn + 1)).debugok = true ↔ x.arg 9 1 = 1) ∧ (t.world (fn + 1)).ks = none ∧ (t.world (fn + 1)).slots = [] ∧
      (t.world (fn + 1)).deadline = s.clk + period * 2250000) ∧
  (∀ (s : State) (fn : Nat), fn < 16 → (s.world (fn + 1)).alive = true → (s.world (fn + 1)).ending = false →
    (submitted s fn 2 [(0x08, 8), (0x30, 0x90)] → ∃ t : State, exec (.worldAttest fn) s = .next t ∧ answered t fn 0 ∧ t.worlds = s.worlds ∧ t.mem = s.mem ∧
      response t fn (s.report (fn + 1) (((s.fn fn).wcmd.drop 0x10).take 32))) ∧
    (submitted s fn 3 [(0x08, 8), (0x30, 0x90)] → (s.world (fn + 1)).ks = none →
      let keys := sessionKeys (s.world (fn + 1)).priv ((s.fn fn).arg 0x10 32) (ofBytes (s.world (fn + 1)).nonce)
      ∃ t : State, exec (.worldSession fn) s = .next t ∧ answered t fn 0 ∧ t.mem = s.mem ∧
        t.world (fn + 1) = { s.world (fn + 1) with ks := some (keys % 2 ^ 256), kw := keys / 2 ^ 256 }) ∧
    (submitted s fn 4 [(0x09, 7), (0x38, 0x88)] → signed s fn → (s.fn fn).arg 8 1 ≤ 3 → find (s.world (fn + 1)).slots ((s.fn fn).arg 8 1) = none →
      let key := keyUnwrap (s.world (fn + 1)).kw (((s.fn fn).wcmd.drop 0x10).take 40)
      ∃ t : State, exec (.mkey fn) s = .next t ∧ answered t fn (if key.isSome then 0 else 4) ∧ t.mem = s.mem ∧
        find (t.world (fn + 1)).slots ((s.fn fn).arg 8 1) = key ∧ (t.world (fn + 1)).seq = (s.fn fn).arg 4 4 + 1) ∧
    (∀ d : Decl, submitted s fn 5 [(0x1C, 4), (0x28, 0x98)] → signed s fn →
      let x := s.fn fn
      let va := x.arg 0x10 8
      let lines := x.arg 0x18 4
      let src := x.arg 0x20 8
      let w := s.world (fn + 1)
      let s0 := s.updW (fn + 1) fun w => { w with seq := x.arg 4 4 + 1 }
      (w.decls.find? fun d => d.tid = x.arg 8 4 && d.ver = x.arg 0xC 4) = some d → d.base ≤ va → (va - d.base) % 128 = 0 →
      va + 128 * lines ≤ d.base + d.bytes → inTier src = true → inTier (src + 136 * lines - 1) = true →
      (∀ i < lines, (s0.sealedFrame w.asid (va + 128 * i)).isSome = true) → 0 < lines →
      ∃ t : State, exec (.sealinst fn) s = .next t ∧ t.mem = s.mem ∧ t.spare = s.spare ∧ (t.fn fn).wbusy = true ∧ (t.fn fn).wprog = some 0 ∧
        (t.world (fn + 1)).seq = x.arg 4 4 + 1) ∧
    (∀ (d : Decl) (i : Nat), let s0 := s.updF fn fun x => { x with wprog := none }
      submitted s0 fn 5 [(0x1C, 4), (0x28, 0x98)] → (s.fn fn).wprog = some i →
      let x := s.fn fn
      let va := x.arg 0x10 8
      let lines := x.arg 0x18 4
      let w := s.world (fn + 1)
      let r := (s.translated w.asid (va + 128 * i)).installLine w d va (x.arg 0x20 8) lines i
      (w.decls.find? fun d => d.tid = x.arg 8 4 && d.ver = x.arg 0xC 4) = some d →
      (r = none → ∃ t : State, exec (.sealinst fn) s = .next t ∧ answered t fn 8 ∧ t.mem = s.mem ∧ t.spare = s.spare) ∧
      ∀ s1, r = some s1 → ∃ t : State, exec (.sealinst fn) s = .next t ∧ t.mem = s1.mem ∧ t.spare = s1.spare ∧
        (i + 1 < lines → (t.fn fn).wbusy = true ∧ (t.fn fn).wprog = some (i + 1)) ∧ (lines ≤ i + 1 → answered t fn 0)) ∧
    (submitted s fn 6 [(0x08, 0xB8)] → signed s fn → s.clk < (s.world (fn + 1)).deadline →
      ∃ t : State, exec (.heartbeat fn) s = .next t ∧ answered t fn 0 ∧ t.mem = s.mem ∧
        t.world (fn + 1) = { s.world (fn + 1) with seq := (s.fn fn).arg 4 4 + 1, deadline := s.clk + (s.world (fn + 1)).hbperiod * 2250000 }) ∧
    (submitted s fn 7 [(0x09, 0xB7)] → signed s fn → (s.fn fn).arg 8 1 = 0 → s.savingIn (fn + 1) = false →
      ∃ t : State, exec (.destroyWorld fn) s = .next t ∧ answered t fn 0 ∧ dead t (fn + 1)) ∧
    (submitted s fn 7 [(0x09, 0xB7)] → signed s fn → (s.fn fn).arg 8 1 = 0 → s.savingIn (fn + 1) = true →
      ∃ t : State, exec (.destroyWorld fn) s = .next t ∧ (t.fn fn).wbusy = true ∧ (t.world (fn + 1)).alive = true ∧ (t.world (fn + 1)).ending = true ∧
        t.mem = s.mem) ∧
    (s.savingIn (fn + 1) = false → s.estop = false → ∃ t : State, exec (.functionLevelReset fn) s = .next t ∧ dead t (fn + 1)) ∧
    (s.savingIn (fn + 1) = false → s.estop = false → (s.world (fn + 1)).deadline ≤ s.clk →
      ∃ t : State, exec (.heartbeatExpiry (fn + 1)) s = .next t ∧ dead t (fn + 1) ∧ (t.fn fn).torn = true) ∧
    (s.clk < (s.world (fn + 1)).deadline → exec (.heartbeatExpiry (fn + 1)) s = .next s)) ∧
  (∀ (s : State), let x := s.fn 16
    (submitted s 16 7 [(0x09, 0xB7)] → 1 ≤ x.arg 8 1 → x.arg 8 1 ≤ 16 → (s.world (x.arg 8 1)).alive = true → (s.world (x.arg 8 1)).ending = false →
      s.savingIn (x.arg 8 1) = false →
      ∃ t : State, exec (.destroyWorld 16) s = .next t ∧ answered t 16 0 ∧ dead t (x.arg 8 1)) ∧
    (submitted s 16 8 [(0x08, 8), (0x50, 0x70)] → s.createWaits x = false → (∀ e ∈ s.worlds, e.2.alive = false) →
      let ok := debugTokenOk ((x.wcmd.drop 0x10).take 64) (fitBytes 8 deviceId ++ toBytes 32 x.dnonce)
      ∃ t : State, exec (.dbgunlock 16) s = .next t ∧ answered t 16 (if ok then 0 else 9) ∧ t.debugOpen = (ok || s.debugOpen) ∧ t.mem = s.mem ∧
        t.keyDraws = s.keyDraws + 1) ∧
    (submitted s 16 9 [(0x08, 0xB8)] → ∃ t : State, exec (.dbglock 16) s = .next t ∧ answered t 16 0 ∧ t.debugOpen = false ∧ t.mem = s.mem) ∧
    ∀ (bs : List Byte) (s1 : State), submitted s 16 10 [(0x09, 7), (0x1C, 0xA4)] → x.arg 8 1 = 0 → s.debugOpen = true → x.arg 0x18 4 % 16 = 0 →
      x.arg 0x18 4 ≤ 256 → x.arg 0x10 8 + x.arg 0x18 4 ≤ 2 ^ 56 →
      s.debugRead 0 (s.fnAsid 16) (x.arg 0x10 8) (x.arg 0x18 4 / 16) = (.ok bs, s1) →
      ∃ t : State, exec (.dread 16) s = .next t ∧ answered t 16 0 ∧ response t 16 bs) ∧
  (∀ (s : State) (d f : Nat),
    (∀ c gid g, s.pendingInjection d 0 = some f → f.testBit 5 = false → s.injectRefused d f 0 = false → s.logicalOf d (bits f 19 13) = some c →
      s.groupIn c (bits f 21 20) (bits f 26 22) = some (gid, g) → find s.groups gid = some g →
      let a := bits f 28 27
      let v := (s.die d).fidata.setWidth 32
      ∃ (t : State) (g' : Group), exec (.injectAccumulator d) s = .next t ∧ find t.groups gid = some g' ∧ (t.die d).fistat = 2#64 ∧ t.mem = s.mem ∧
        g'.accEl a (bits f 33 29) (bits f 39 34) = (if f.testBit 4 then v else g.accEl a (bits f 33 29) (bits f 39 34) ^^^ v) ∧ g' = { g with acc := g'.acc }) ∧
    (s.pendingInjection d 1 = some f → s.injectRefused d f (s.die d).fiaddr.toNat = false →
      ∃ t : State, exec (.poisonMemoryLine d) s = .next t ∧ (t.die d).fistat = 2#64 ∧ (s.namesOf (s.die d).fiaddr.toNat = [] → t.groups = s.groups) ∧
        ∀ i < 8, getD t.memPoison ((s.die d).fiaddr.toNat / 128 * 8 + i) false = true) ∧
    ∀ c, s.pendingInjection d 2 = some f → s.injectRefused d f (s.die d).fiaddr.toNat = false → s.logicalOf d (bits f 19 13) = some c →
      ∃ t : State, exec (.poisonScratchGranule d) s = .next t ∧ (t.die d).fistat = 2#64 ∧ t.groups = s.groups ∧ t.mem = s.mem ∧
        (t.cluster c).scratch = (s.cluster c).scratch ∧ getD (t.cluster c).poison ((s.die d).fiaddr.toNat / 8) false = true) ∧
  ∀ (s : State) (d val : Nat), (s.die d).mapbusy = some val →
    let ends (result : Nat) (t : State) : Prop := (t.die d).mapbusy = none ∧ (t.die d).mapresult = result
    (∀ c < 1280, val = 4096 + c → c / 80 = d → s.inService c = true → (∀ e ∈ s.blocks, e.2.cluster = c → e.2.phase = .gone) →
      let spare := bits (getD (s.die d).maps (c % 80 / 8) 0#64).toNat 35 32
      (spare ≠ 15 → ∃ t : State, exec (.mapreqRetire d val) s = .next t ∧ ends 0 t ∧ (t.mast c).running = true ∧ (t.mast c).pc = 0x1000#64) ∧
      (spare = 15 → ∃ t : State, exec (.mapreqRetire d val) s = .next t ∧ ends 1 t ∧ (t.cluster c).inReset = true)) ∧
    (∀ c < 1280, val = 4096 + c → c / 80 = d → s.inService c = false ∨ (∃ e ∈ s.blocks, e.2.cluster = c ∧ e.2.phase ≠ .gone) →
      ∃ t : State, exec (.mapreqRetire d val) s = .next t ∧ ends 2 t ∧ t.clusters = s.clusters) ∧
    (val < 4096 → ∃ t : State, exec (.mapreqRetire d val) s = .next t ∧ ends 3 t ∧ t.clusters = s.clusters)

/-- Where a running mast core holds a trap frame whose next call is k and owns it, with arguments in range (R333, R334): FSIZE, SOPEN,
SRECV and SCLOSE are settled at once, FREAD and FWRITE become a command in a free queue slot, SSEND a frame on the port's transmit
ring; a redelivered call in service takes the place of the first. The end of a command moves the bytes between file and
scratchpad, that of a frame needs DONE; then the lanes of k leave their hold with the result in v0. An unknown number gives
E_CALL. A call of another owner goes to that shard's mailbox, or is kept unsent, and is kept. A CALL message is taken by its
owner, or sent on; its result goes back in a REPLY; a REPLY resumes the lanes of its call and ends it; FAULTFWD is taken; a shard
sends the fault entries of its dies to the owners of their regions. -/
def Obligations.SystemCallsAreServed : Prop :=
  let runs (s : State) (c : Nat) : Prop := (s.mast c).running = true ∧ (s.mast c).stopped = false ∧ s.booted = true ∧ s.estop = false
  let lives (s : State) (k : KCall) : Prop := ∃ b, find s.blocks (k.gid / 32) = some b ∧ b.bgen = k.bgen ∧ b.phase = .resident ∧ b.genRetired = false ∧
    ∀ g, find s.groups k.gid = some g → s.leaving g.bid = false
  let attached (s : State) (c : Nat) (k : KCall) : Option Served := s.served.find? fun x => k.redo && x.owner = c && x.phase != .reply && x.call.key == k.key
  let due (s : State) (c num : Nat) (k : KCall) : Prop := runs s c ∧ (∃ sp < 4, s.frameCall c sp = some k) ∧
    (∀ sp < 4, s.frameCall c sp = none ∨ s.frameCall c sp = some k) ∧ k.call = num
  let owned (s : State) (c num : Nat) (k : KCall) : Prop := due s c num k ∧ s.callOwner c k = c ∧ s.recorded k = none ∧ attached s c k = none ∧
    s.callWorld k = 0 ∧ lives s k
  let serving (s : State) (c num : Nat) (x : Served) : Prop := runs s c ∧ (∀ sp < 4, ∀ k, s.frameCall c sp = some k → k.servedBy num = false) ∧
    (s.served.filter fun x => x.owner = c && x.call.servedBy num).head? = some x ∧ x.call.call = num
  let running (s : State) (c num : Nat) (x : Served) : Prop := serving s c num x ∧ x.phase = .command ∧ x.again = false ∧ x.towards = none ∧
    x.call.origin = c ∧ lives s x.call
  let resumed (s t : State) (k : KCall) (r : Nat) : Prop := t.mem = s.mem ∧ t.l2 = s.l2 ∧
    ∀ g, find s.groups k.gid = some g → ∃ g', find t.groups k.gid = some g' ∧ ∀ l < 32,
      (∀ p, has k.lanes l → g.holdOf l = .event 0x51 p true → g'.vreg l 0 = BitVec.ofNat 32 r ∧ g'.holdOf l = .free ∧ g'.pcOf l = p) ∧
      (¬ has k.lanes l → g'.vreg l 0 = g.vreg l 0 ∧ g'.holdOf l = g.holdOf l ∧ g'.pcOf l = g.pcOf l)
  let ended (s t : State) (x : Served) (r : Nat) : Prop := resumed s t x.call r ∧ t.files = s.files ∧ t.served = s.served.filter fun z => z ≠ x
  let id (x : Socket) : Nat := x.owner * 2 ^ 20 + x.index
  let byteOf (s : State) (f : File) (i : Nat) : Byte := getD (getD s.drives f.drive []) (512 * f.lba + i) 0#8
  let box (s : State) (c : Nat) : List (Nat × List Byte) := (s.mast c).mailbox
  (∀ (s : State) (c : Nat) (k : KCall) (f : File), k.arg 0 ≠ 0 → find s.files (k.arg 0) = some f →
    (let q : QueuePair := getD s.queues (c * 8 + f.drive) {}
      let begun (t : State) : Prop := t.groups = s.groups ∧ t.mem = s.mem ∧ t.drives = s.drives ∧ t.files = s.files ∧
        { owner := c, call := k, phase := .command, slot := q.tail } ∈ t.served ∧ (getD t.queues (c * 8 + f.drive) {}).tail = (q.tail + 1) % 64
      (s.commands c f.drive).length < 63 → k.fileArgsOk = true →
      (owned s c 1 k → k.offset < f.size → ∃ t : State, exec (.fread c) s = .next t ∧ begun t) ∧
      (owned s c 2 k → k.offset + k.arg 3 ≤ f.size → ∃ t : State, exec (.fwrite c) s = .next t ∧ begun t)) ∧
    (∀ x : Served, running s c 1 x → x.call = k →
      let n := min (k.arg 3) (f.size - k.offset)
      ∃ t : State, exec (.fread c) s = .next t ∧ ended s t x n ∧ t.drives = s.drives ∧
        ∃ bs : List Byte, bs.length = k.arg 3 ∧ (∀ i < n, bs.getD i 0#8 = byteOf s f (k.offset + i)) ∧
          ∀ o, (t.cluster o).scratch = ((State.apertureOut s k (k.arg 4) bs).cluster o).scratch) ∧
    (∀ (x : Served) (bs : List Byte), running s c 2 x → x.call = k → s.apertureIn k (k.arg 4) (k.arg 3) = some bs → bs.length = k.arg 3 →
      ∃ t : State, exec (.fwrite c) s = .next t ∧ ended s t x (k.arg 3) ∧
        (∀ a, byteOf t f a = if k.offset ≤ a ∧ a < k.offset + k.arg 3 then bs.getD (a - k.offset) 0#8 else byteOf s f a) ∧
        ∀ d a, d ≠ f.drive ∨ a < 512 * f.lba → getD (getD t.drives d []) a 0#8 = getD (getD s.drives d []) a 0#8) ∧
    (owned s c 3 k → (∀ i < 6, i ≠ 0 → k.arg i = 0) →
      ∃ t : State, exec (.fsize c) s = .next t ∧ resumed s t k (min f.size 0x7FFFFFFF) ∧ t.files = s.files)) ∧
  (∀ (s : State) (c : Nat) (k : KCall) (x : Served), due s c 1 k → s.callOwner c k = c → attached s c k = some x →
    ∃ t : State, exec (.fread c) s = .next t ∧ t.groups = s.groups ∧ t.queues = s.queues ∧ ∃ y ∈ t.served, y.call = k ∧ y.again = true ∧ y.slot = x.slot) ∧
  (∀ (s : State) (c : Nat) (k : KCall), owned s c 4 k → k.arg 0 ≤ 3 → 0x0600 ≤ k.arg 1 → k.arg 1 ≤ 0xFFFF → (∀ i < 6, 1 < i → k.arg i = 0) →
    (∀ x ∈ s.sockets, x.port ≠ k.arg 0 ∨ x.etype ≠ k.arg 1) → (s.sockets.filter fun x => x.owner = c).length < 1024 →
    ∃ (t : State) (x : Socket), exec (.sopen c) s = .next t ∧ t.sockets = s.sockets ++ [x] ∧ x.owner = c ∧ x.index < 1024 ∧ x.port = k.arg 0 ∧
      x.etype = k.arg 1 ∧ x.frames = [] ∧ (∀ y ∈ s.sockets, y.owner = c → y.index ≠ x.index) ∧ resumed s t k (id x)) ∧
  (∀ (s : State) (c : Nat) (k : KCall) (x : Socket), (s.sockets.find? fun x => id x = k.arg 0) = some x →
    (∀ bs, owned s c 5 k → k.arg 2 ≤ 0xFFFF → 1 ≤ k.arg 3 → k.arg 3 ≤ 9198 → k.arg 4 % 16 = 0 → k.arg 4 + k.arg 3 ≤ 2 ^ 19 → k.arg 5 = 0 →
      s.apertureIn k (k.arg 4) (k.arg 3) = some bs →
      let e := getD s.eth x.port {}
      let next := (e.reg 0 3 + 1) % e.ringSize 0
      let buf := s.frameBuffer c x.port (e.reg 0 3)
      let frame := station (k.arg 1 + 2 ^ 32 * k.arg 2) ++ station (e.emac.toNat % 2 ^ 48) ++ [byteAt x.etype 1, byteAt x.etype 0] ++ bs ++ zeros (46 - bs.length)
      4 ≤ e.reg 0 1 → e.reg 0 1 ≤ 16 → next ≠ e.reg 0 2 →
      ∃ t : State, exec (.ssend c) s = .next t ∧ t.groups = s.groups ∧ (getD t.eth x.port {}).reg 0 3 = next ∧
        { owner := c, call := k, phase := .command, slot := e.reg 0 0 + 32 * e.reg 0 3 } ∈ t.served ∧
        t.mem = ((s.dmaWrite buf frame).dmaWrite (e.reg 0 0 + 32 * e.reg 0 3) (toBytes 8 buf ++ toBytes 4 frame.length ++ zeros 20)).mem) ∧
    (∀ (y : Served) (d : List Byte), running s c 5 y → y.call = k → s.dmaRead y.slot 32 = some d → bit (fieldAt d 12 4) 0 = true →
      ∃ t : State, exec (.ssend c) s = .next t ∧ ended s t y (k.arg 3)) ∧
    (owned s c 6 k → (k.arg 1 = 0 ∧ k.arg 2 = 0 ∧ k.arg 5 = 0) → k.arg 3 % 16 = 0 → 64 ≤ k.arg 3 → k.arg 3 ≤ 9216 → k.arg 4 % 16 = 0 →
      k.arg 4 + k.arg 3 ≤ 2 ^ 19 →
      (x.frames = [] → ∃ t : State, exec (.srecv c) s = .next t ∧ resumed s t k 0) ∧
      (∀ f rest, x.frames = f :: rest → ∃ t : State, exec (.srecv c) s = .next t ∧ resumed s t k f.length ∧
        ∀ y ∈ t.sockets, id y = k.arg 0 → ∃ z ∈ s.sockets, id z = k.arg 0 ∧ y.frames = rest)) ∧
    (owned s c 7 k → (∀ i < 6, i ≠ 0 → k.arg i = 0) →
      ∃ t : State, exec (.sclose c) s = .next t ∧ resumed s t k 0 ∧ t.sockets = s.sockets.filter fun x => id x ≠ k.arg 0)) ∧
  (∀ (s : State) (c : Nat) (k : KCall), due s c k.call k → (k.call < 1 ∨ 7 < k.call) → s.recorded k = none → attached s c k = none → lives s k →
    ∃ t : State, exec (.fsize c) s = .next t ∧ resumed s t k 0xFFFFFFFF ∧ t.files = s.files ∧ t.sockets = s.sockets) ∧
  (∀ (s : State) (c : Nat) (k : KCall), due s c 3 k → s.callOwner c k ≠ c → s.callOwner c k < 0x500 → s.inService (s.callOwner c k) = true →
    let o := s.callOwner c k
    ∃ t : State, exec (.fsize c) s = .next t ∧ t.groups = s.groups ∧ t.mem = s.mem ∧
      ((box s o).length < 16 → t.calls = s.calls ++ [k] ∧ box t o = box s o ++ [(c, k.message 1 0#32)]) ∧
      (16 ≤ (box s o).length → t.calls = s.calls ++ [{ k with unsent := true }] ∧ box t o = box s o)) ∧
  (∀ (s : State) (c from_ : Nat) (msg : List Byte), s.oldestMsg c = some (from_, msg) → (msg.getD 0 0#8).toNat = 1 →
    let k := s.callOfMsg msg
    let o := s.callOwner c k
    1 ≤ k.call → k.call ≤ 7 →
    (∀ f, k.call = 3 → o = c → k.origin ≠ c → attached s c k = none → (∀ i < 6, i ≠ 0 → k.arg i = 0) → k.arg 0 ≠ 0 → find s.files (k.arg 0) = some f →
      ∃ t : State, exec (.callMessage c) s = .next t ∧ t.groups = s.groups ∧ t.mem = s.mem ∧ box t c = (box s c).drop 1 ∧
        { owner := c, call := k, phase := .reply, result := BitVec.ofNat 32 (min f.size 0x7FFFFFFF) } ∈ t.served) ∧
    (o ≠ c → o < 0x500 → s.inService o = true → (box s o).length < 16 →
      ∃ t : State, exec (.callMessage c) s = .next t ∧ t.groups = s.groups ∧ box t c = (box s c).drop 1 ∧ box t o = box s o ++ [(c, msg)])) ∧
  (∀ (s : State) (c : Nat) (x : Served), serving s c 3 x → x.phase = .reply → x.tried = false → x.call.origin < 0x500 → x.call.origin ≠ c →
    s.inService x.call.origin = true → (box s x.call.origin).length < 16 →
    ∃ t : State, exec (.fsize c) s = .next t ∧ t.groups = s.groups ∧ (t.served = s.served.filter fun z => z ≠ x) ∧
      box t x.call.origin = box s x.call.origin ++ [(x.owner, x.call.message 2 x.result)]) ∧
  (∀ (s : State) (c from_ : Nat) (msg : List Byte) (k : KCall), s.oldestMsg c = some (from_, msg) → (msg.getD 0 0#8).toNat = 2 →
    (s.calls.find? fun k => k.origin = c && k.tag % 2 ^ 32 = fieldAt msg 4 4) = some k → lives s k →
    ∃ t : State, exec (.replyMsg c) s = .next t ∧ resumed s t k (fieldAt msg 0x30 4) ∧ (t.mast c).mailbox = (s.mast c).mailbox.drop 1 ∧
      t.calls = s.calls.filter fun x => x ≠ k) ∧
  (∀ (s : State) (c from_ : Nat) (msg : List Byte), s.oldestMsg c = some (from_, msg) → (msg.getD 0 0#8).toNat = 3 →
    ∃ t : State, exec (.faultfwd c) s = .next t ∧ t.groups = s.groups ∧ t.mem = s.mem ∧ (t.mast c).mailbox = (s.mast c).mailbox.drop 1) ∧
  ∀ (s : State) (c d : Nat) (e : FbEntry), runs s c → (∀ m ∈ s.oldestMsg c, (m.2.getD 0 0#8).toNat ≠ 3) → s.faultDue c = some (d, e) →
    let o := s.regionOwner e
    o = c ∨ (o < 0x500 ∧ s.inService o = true ∧ (box s o).length < 16) →
    ∃ t : State, exec (.faultfwd c) s = .next t ∧ t.groups = s.groups ∧ t.mem = s.mem ∧ (t.die d).fbtail = (s.die d).fbtail + 1#64 ∧
      box t o = if o = c then box s c else box s o ++ [(c, faultMsg d e)]

/-- For every well-formed instruction of the opcode table, with every operand at every value its encoding admits: encode gives its
words, each below 2^32, a second one exactly where the opcode is of a two-word form (R41, R42); decoding these words gives the
instruction back, and so does decoding their bytes in memory order, with nothing left over. Conversely, where two words decode to
an instruction, encode gives these words (the second only for a two-word form): no bit of an encoding is dropped or read twice. -/
def Obligations.EncodingAndDecodingAgree : Prop :=
  (∀ (i : Instr) (w : Nat) (x : Option Nat), i.wf = true → encode i = some (w, x) →
    w < 2 ^ 32 ∧ (∀ y, x = some y → y < 2 ^ 32) ∧ isTwoWord w = x.isSome ∧ decodeWords w (x.getD 0) = .ok i ∧
    decode (leBytes 4 w ++ (x.elim [] fun y => leBytes 4 y)) = some (.ok i, [])) ∧
  ∀ (w x : Nat) (i : Instr), w < 2 ^ 32 → x < 2 ^ 32 → decodeWords w x = .ok i →
    i.wf = true ∧ encode i = some (w, if isTwoWord w then some x else none)

/-- For every state whose memory lists rising addresses and no byte equal to what an unlisted address reads as: if a step answers a
next state, its memory has that form too. So equal memories are equal lists, and a byte reads the same wherever it is asked for. -/
def Obligations.EveryStepKeepsMemoryCanonical : Prop :=
  ∀ s t : State, s.canonical → step s = .next t → t.canonical

/-- At reset: %clk is 0; MODST reads 0 (R436; HOSTLESS is the strap, 0 in the model), PLIMIT 15,000 and TTRIP 105 (R435); MSCTL is
0x40 and every other register of R310, R382, R396, R425, R428 to R431, R440, R344 and R348 that has a reset value reads it (0);
every mast core is privileged at DEPTH 0 with IE 0 (R26), not released (R24), its return stack empty (R208), MERR 0; device debug
is locked (R373), no world exists; both weight planes are of kind none and the shadow bitmap is all ones (R176). That memory lists
nothing, so that it is canonical, is the model's choice (log entry 6). -/
def Obligations.ResetLeavesTheStatedValues : Prop :=
  let s := State.reset
  s.clk = 0 ∧ s.modst = 0 ∧ s.plimit = 15000#64 ∧ s.ttrip = 105#64 ∧ s.pwr = 0#64 ∧ s.icore = 0#64 ∧ s.tmax = 0#64 ∧ s.estop = false ∧
  s.canonical ∧ s.mem = [] ∧ s.groups = [] ∧ s.blocks = [] ∧ s.launches = [] ∧ s.debugOpen = false ∧
  (∀ d, (s.die d).msctl = 0x40#64 ∧ (s.die d).fbbase = 0#64 ∧ (s.die d).fbhead = 0#64 ∧ (s.die d).fbtail = 0#64 ∧ (s.die d).msstat = 0#64 ∧
    (s.die d).fbovf = 0#64 ∧ (s.die d).swapcnt = 0#64 ∧ (s.die d).squashcnt = 0#64 ∧ (s.die d).invaddr = 0#64 ∧ (s.die d).invlen = 0#64 ∧
    (s.die d).inv = none ∧ (s.die d).bplidx = 0#64 ∧ (s.die d).asidbase = 0#64 ∧ (s.die d).victq = [] ∧ (s.die d).eccq = [] ∧
    (s.die d).fictl = 0#64 ∧ (s.die d).fidata = 0#64 ∧ (s.die d).fiaddr = 0#64 ∧ (s.die d).fistat = 0#64 ∧ (s.die d).mapbusy = none) ∧
  (∀ c, let m := s.mast c
    m.priv = true ∧ m.ie = false ∧ m.depth = 0 ∧ m.running = false ∧ m.stack = [] ∧ m.merr = 0#32) ∧
  (∀ c sp, (s.engine c sp).holder = none ∧ (s.engine c sp).active.kind = 0 ∧ (s.engine c sp).shadow.kind = 0 ∧ (s.engine c sp).bitmap = 2 ^ 128 - 1) ∧
  (∀ f n, let r := getD (s.fn f).rings n {}
    (s.fn f).winbase = 0#64 ∧ (s.fn f).fasid = 0#64 ∧ (s.fn f).rollbk = 0#64 ∧ (s.fn f).replay = 0#64 ∧ (s.fn f).shlost = 0#64 ∧
    (s.fn f).shbase = 0#64 ∧ (s.fn f).shlen = 0#64 ∧ r.rbase = 0#64 ∧ r.enable = false ∧ r.tail = 0#32 ∧ r.rcount = 0 ∧ r.running = false ∧
    r.overrun = false ∧ r.lost = false) ∧
  (∀ w, (s.world w).alive = false) ∧ (∀ n, (getD s.links n {}).word = 0) ∧ s.dropcnt = 0#64 ∧ s.urcnt = 0#64 ∧ s.rcctl = 0#64

/-- The agenda's next move, or of those that share its clk the one that comes first, is carried out after the clk has advanced, and is
taken off the agenda; a move alone in its clk is that one. Where it is a group's path that may issue, whose page is not on its way
and whose fetch gives words that decode to i, the step is exec of i in the state that the fetch leaves, with that agent current,
and marks the pipe used unless the group stays before the instruction, provided that the pipe takes it (R290), and else changes
nothing more (a spill that waits needs no pipe); a fetch that fails runs FETCH_FAULT with its code, one that is delayed leaves the
path waiting. A released mast core with no event due whose words stand in its private SRAM runs the instruction they decode to; an
event is exec of that event. Words that do not decode run ILLEGAL_OPCODE on the first word (plus 2^32 for a reserved use). The
agenda is the model's choice of who moves next (log entry 1). -/
def Obligations.StepRunsTheDecodedInstruction : Prop :=
  let runs (o : Out) (s : State) (w x : Nat) : Prop :=
    (∀ i, decodeWords w x = .ok i → o = exec i s) ∧ (decodeWords w x = .error .illegalOpcode → o = exec (.illegalOpcode w) s) ∧
    (decodeWords w x = .error .reservedField → o = exec (.illegalOpcode (w + 2 ^ 32)) s)
  (∀ (s : State) (m : Move) (rest : List Move), rest.takeWhile Move.sameClk = [] → s.firstOf m rest = (m, rest)) ∧
  ∀ (s : State) (m now : Move) (more rest : List Move), s.agenda = m :: more → (s.advance m.dt).firstOf m more = (now, rest) →
    let s0 : State := { s.advance m.dt with agenda := rest }
    (∀ (dt gid : Nat) (pc : DWord) (g : Group), now = .issue dt (.group gid pc) → find s0.groups gid = some g →
      let s1 : State := { s0 with cur := .group gid pc }
      s1.mayIssue g pc = true → g.issued pc ≠ 0#32 → s1.fetchHeld g pc = false →
      (∀ w x s2, s1.fetchGroup g pc = (.words w x, s2) →
        (pc ∈ g.spilling → runs (step s) s2 w x) ∧
        (pc ∉ g.spilling → s1.pipeTakes gid g w = false → step s = .next s1) ∧
        ∀ o, runs o s2 w x → pc ∉ g.spilling → s1.pipeTakes gid g w = true →
          (∀ t, o = .next t → step s = .next (if (find t.groups gid).any fun x => x.stays pc then t else t.pipeUsed g w)) ∧
          ((∀ t, o ≠ .next t) → step s = o)) ∧
      (∀ code addr detail s2, s1.fetchGroup g pc = (.fault code addr detail, s2) → step s = exec (.fetchFault (code + 256 * detail) addr) s2) ∧
      (∀ va s2, s1.fetchGroup g pc = (.delayed va, s2) → ∃ t, step s = .next t ∧ t.mem = s2.mem ∧ t.clusters = s2.clusters ∧
        find t.groups gid = (find s2.groups gid).map fun x =>
          { x with phase := .aStall, waiting := .fetch (canonAsid (s2.asidOf g) va) va, waitPc := pc })) ∧
    (∀ (dt c : Nat) (k : Mast), now = .issue dt (.mast c) → s0.mast c = k → k.running = true → k.stopped = false → k.wait = .nothing →
      k.bad = [] → k.pc.toNat + 8 ≤ 0x40000 →
      let s1 : State := { s0 with cur := .mast c }
      s1.eventDue c = false →
      runs (step s) s1 (k.rd k.pc.toNat 4) (if isTwoWord (k.rd k.pc.toNat 4) then k.rd (k.pc.toNat + 4) 4 else 0)) ∧
    ∀ (dt : Nat) (i : Instr), now = .event dt i → step s = exec i s0

/-- 0x40383045 is iadd with SW, guard p3, d v3, a v1, b s5; 0x25788300 0x01005600 is ld to v8 at s12:s13 + 256 of 4 bytes, class 1,
scope 3; 0x80784110 is sadd s4 = s4 + 16; 0xD7780002 is swpt 2; 0x1B7FFFFB is bra with offset -5; 0x0AF11083 is icmp p1 = v2 lt
v3; 0x1DF30005 is join on rejoin register 3 with offset 5; 0x1B100003 is bra under p1 with offset 3; 0x1E730000 is wait on 3.
0x38000000 is an illegal opcode and 0x25788301 shows a reserved use. A sanity statement. -/
def Obligations.SpecWordsDecodeAsTheSpecEncodesThem : Prop :=
  decodeWords 0x40383045 0 = .ok (.iadd { sw := 1, g := 3, e := 1, t := 0, d := 3, a := 1, b := 5 }) ∧
  decodeWords 0x25788300 0x01005600 = .ok (.ld { sw := 0, g := 7, bc := 1, d := 8, base := 12, off := 256, size := 2, cls := 1, scope := 3, rc := 0, grain := 0, pol := 0 }) ∧
  decodeWords 0x80784110 0 = .ok (.sadd { sw := 0, g := 7, i := 1, w := 0, d := 4, a := 4, b := 16 }) ∧
  decodeWords 0xD7780002 0 = .ok (.swpt { g := 7, n := 2 }) ∧
  decodeWords 0x1B7FFFFB 0 = .ok (.bra { sw := 0, g := 7, o := 1048571 }) ∧ sextInt 20 1048571 = -5 ∧
  decodeWords 0x0AF11083 0 = .ok (.icmp { sw := 0, g := 7, e := 0, c := 2, p := 1, a := 2, b := 3 }) ∧
  decodeWords 0x1DF30005 0 = .ok (.join { sw := 0, g := 7, j := 3, o := 5 }) ∧
  decodeWords 0x1B100003 0 = .ok (.bra { sw := 0, g := 1, o := 3 }) ∧
  decodeWords 0x1E730000 0 = .ok (.waitI { sw := 0, g := 7, j := 3 }) ∧
  decodeWords 0x38000000 0 = .error .illegalOpcode ∧
  decodeWords 0x25788301 0x01005600 = .error .reservedField
end

