-- ==== Sys2Proof/Laws/Map.lean ====
section
/-!
SUPPORT. What reading a sparse map after a write gives (no premise on the map's form), and that memory's operations keep its canonical
form.
-/
namespace Sys2Proof.Machine

variable {α : Type}

@[simp] theorem find_put (m : SMap α) (k j : Nat) (x : α) : find (put m k x) j = if j = k then some x else find m j := by
  induction m with
  | nil => simp [put, find, eq_comm]
  | cons e r ih => grind [put, find]

@[simp] theorem find_del (m : SMap α) (k j : Nat) : find (del m k) j = if j = k then none else find m j := by
  induction m with
  | nil => simp [del, find]
  | cons e r ih => grind [del, find]

theorem getD_eq_find (m : SMap α) (k : Nat) (d : α) : getD m k d = (find m k).getD d := by
  induction m with
  | nil => rfl
  | cons e r ih =>
    obtain ⟨i, y⟩ := e
    simp only [getD, find]; split
    · rfl
    · exact ih

@[simp] theorem getD_setD [DecidableEq α] (m : SMap α) (k j : Nat) (x d : α) :
    getD (setD m k x d) j d = if j = k then x else getD m j d := by
  simp only [getD_eq_find, setD]
  split
  · subst_vars; rw [find_del]; split <;> simp
  · rw [find_put]; split <;> simp

@[simp] theorem find_upd (m : SMap α) (k j : Nat) (f : α → α) :
    find (upd m k f) j = if j = k then (find m k).map f else find m j := by
  induction m with
  | nil => simp [upd, find]
  | cons e r ih => grind [upd, find]

/-- An update whose function is known at the listed object is that object's replacement. -/
theorem upd_of_find (m : SMap α) (k : Nat) (x y : α) (f : α → α) (h : find m k = some x) (hf : f x = y) :
    upd m k f = upd m k fun _ => y := by
  induction m with
  | nil => rfl
  | cons e r ih =>
    obtain ⟨i, z⟩ := e
    simp only [upd]; simp only [find] at h
    split at h
    · simp_all
    · simp_all

theorem upd_upd (m : SMap α) (k : Nat) (f g : α → α) : upd (upd m k f) k g = upd m k fun x => g (f x) := by
  induction m with
  | nil => rfl
  | cons e r ih =>
    obtain ⟨i, z⟩ := e
    simp only [upd]; split <;> simp_all [upd]

/-- What is listed after the first entry of a sorted map has a larger key. -/
theorem sorted_cons (e : Nat × α) (r : SMap α) : sorted (e :: r) = true ↔ (∀ x ∈ r, e.1 < x.1) ∧ sorted r = true := by
  induction r generalizing e with
  | nil => simp [sorted]
  | cons h t ih =>
    obtain ⟨j, y⟩ := h; obtain ⟨i, x⟩ := e
    simp only [sorted, Bool.and_eq_true, decide_eq_true_eq, ih]
    constructor
    · rintro ⟨h1, h2, h3⟩
      refine ⟨?_, h2, h3⟩
      intro z hz
      rcases List.mem_cons.mp hz with rfl | hz
      · exact h1
      · exact lt_trans h1 (h2 z hz)
    · rintro ⟨h1, h2, h3⟩
      exact ⟨h1 _ (List.mem_cons_self ..), h2, h3⟩

theorem mem_put {m : SMap α} {k : Nat} {x : α} {e : Nat × α} (h : e ∈ put m k x) : e = (k, x) ∨ e ∈ m := by
  induction m with
  | nil => simpa [put] using h
  | cons f r ih =>
    obtain ⟨i, y⟩ := f
    simp only [put] at h
    split at h
    · simpa using h
    · split at h
      · rcases List.mem_cons.mp h with h | h
        · exact .inl h
        · exact .inr (List.mem_cons_of_mem _ h)
      · rcases List.mem_cons.mp h with rfl | h
        · exact .inr (List.mem_cons_self ..)
        · rcases ih h with h | h
          · exact .inl h
          · exact .inr (List.mem_cons_of_mem _ h)

theorem mem_del {m : SMap α} {k : Nat} {e : Nat × α} (h : e ∈ del m k) : e ∈ m := by
  induction m with
  | nil => simp [del] at h
  | cons f r ih =>
    obtain ⟨i, y⟩ := f
    simp only [del] at h
    split at h
    · exact List.mem_cons_of_mem _ (ih h)
    · rcases List.mem_cons.mp h with rfl | h
      · exact List.mem_cons_self ..
      · exact List.mem_cons_of_mem _ (ih h)

theorem sorted_put (m : SMap α) (k : Nat) (x : α) (h : sorted m = true) : sorted (put m k x) = true := by
  induction m with
  | nil => simp [put, sorted]
  | cons f r ih =>
    obtain ⟨i, y⟩ := f
    have h' := (sorted_cons _ _).mp h
    simp only [put]
    split
    · rename_i hk
      refine (sorted_cons _ _).mpr ⟨?_, h⟩
      intro z hz
      rcases List.mem_cons.mp hz with rfl | hz
      · exact hk
      · exact lt_trans hk (h'.1 z hz)
    · split
      · rename_i hk
        subst hk
        exact (sorted_cons _ _).mpr ⟨h'.1, h'.2⟩
      · refine (sorted_cons _ _).mpr ⟨?_, ih h'.2⟩
        intro z hz
        rcases mem_put hz with rfl | hz
        · show i < k; omega
        · exact h'.1 z hz

theorem sorted_del (m : SMap α) (k : Nat) (h : sorted m = true) : sorted (del m k) = true := by
  induction m with
  | nil => simp [del, sorted]
  | cons f r ih =>
    obtain ⟨i, y⟩ := f
    have h' := (sorted_cons _ _).mp h
    simp only [del]
    split
    · exact ih h'.2
    · exact (sorted_cons _ _).mpr ⟨fun z hz => h'.1 z (mem_del hz), ih h'.2⟩

/-- Storing a byte keeps memory's canonical form. -/
theorem Memory.wf_write (m : List Host.Cell) (a : Nat) (b : Byte) (h : Memory.wf m = true) : Memory.wf (Memory.write m a b) = true := by
  simp only [Memory.wf, Bool.and_eq_true, List.all_eq_true] at h ⊢
  obtain ⟨h1, h2⟩ := h
  simp only [Memory.write, setD]
  split
  · exact ⟨sorted_del _ _ h1, fun e he => h2 e (mem_del he)⟩
  · refine ⟨sorted_put _ _ _ h1, fun e he => ?_⟩
    rcases mem_put he with rfl | he
    · simpa using ‹¬ b = 0#8›
    · exact h2 e he

/-- Storing several bytes keeps memory's canonical form. -/
theorem Memory.wf_writeLe (n : Nat) (m : List Host.Cell) (a x : Nat) (h : Memory.wf m = true) : Memory.wf (Memory.writeLe m a n x) = true := by
  induction n generalizing m a x with
  | zero => exact h
  | succ n ih => exact ih _ _ _ (Memory.wf_write _ _ _ h)

/-- Stores made one after another keep memory's canonical form. -/
theorem Memory.wf_foldl {β : Type} (l : List β) (f : List Host.Cell → β → List Host.Cell) (m : List Host.Cell)
    (hf : ∀ m x, Memory.wf m = true → Memory.wf (f m x) = true) (h : Memory.wf m = true) : Memory.wf (l.foldl f m) = true := by
  induction l generalizing m with
  | nil => exact h
  | cons x r ih => exact ih _ (hf _ _ h)

/-- A byte reads as what the last store to its address gave it. -/
@[simp] theorem Memory.read_write (m : List Host.Cell) (a c : Nat) (b : Byte) :
    Memory.read (Memory.write m a b) c = if c = a then b else Memory.read m c := by
  simp [Memory.read, Memory.write]

/-- A store of n bytes from a leaves every byte outside them. -/
theorem Memory.read_writeLe_of_outside (n : Nat) (m : List Host.Cell) (a x c : Nat) (h : c < a ∨ a + n ≤ c) :
    Memory.read (Memory.writeLe m a n x) c = Memory.read m c := by
  induction n generalizing m a x with
  | zero => rfl
  | succ n ih =>
    rw [Memory.writeLe, ih _ _ _ (by omega), Memory.read_write, if_neg (by omega)]

/-- What a store of n bytes wrote reads back. -/
theorem Memory.readLe_writeLe (n : Nat) (m : List Host.Cell) (a x : Nat) :
    Memory.readLe (Memory.writeLe m a n x) a n = x % 256 ^ n := by
  induction n generalizing m a x with
  | zero => simp [Memory.readLe, Nat.mod_one]
  | succ n ih =>
    rw [Memory.writeLe, Memory.readLe, ih, Memory.read_writeLe_of_outside _ _ _ _ _ (by omega), Memory.read_write, if_pos rfl]
    rw [BitVec.toNat_ofNat, Nat.pow_succ' (n := n), Nat.mod_mul]

end Sys2Proof.Machine
end

