-- ==== Sys2Proof/Laws/State.lean ====
section
/-!
SUPPORT. Field lemmas of the state's and a group's named updates: no later proof unfolds a record update. Each is true by definition.
-/
namespace Sys2Proof.Machine
open Sys2Proof

variable (s : State) (g : Group)

@[simp] theorem State.updG_clk (k : Nat) (f : Group → Group) : (s.updG k f).clk = s.clk := rfl
@[simp] theorem State.updG_free (k : Nat) (f : Group → Group) : (s.updG k f).free = s.free := rfl
@[simp] theorem State.updG_order (k : Nat) (f : Group → Group) : (s.updG k f).order = s.order := rfl
@[simp] theorem State.updG_agenda (k : Nat) (f : Group → Group) : (s.updG k f).agenda = s.agenda := rfl
@[simp] theorem State.updG_cur (k : Nat) (f : Group → Group) : (s.updG k f).cur = s.cur := rfl
@[simp] theorem State.updG_booted (k : Nat) (f : Group → Group) : (s.updG k f).booted = s.booted := rfl
@[simp] theorem State.updG_mem (k : Nat) (f : Group → Group) : (s.updG k f).mem = s.mem := rfl
@[simp] theorem State.updG_memPoison (k : Nat) (f : Group → Group) : (s.updG k f).memPoison = s.memPoison := rfl
@[simp] theorem State.updG_spare (k : Nat) (f : Group → Group) : (s.updG k f).spare = s.spare := rfl
@[simp] theorem State.updG_l2 (k : Nat) (f : Group → Group) : (s.updG k f).l2 = s.l2 := rfl
@[simp] theorem State.updG_lineTs (k : Nat) (f : Group → Group) : (s.updG k f).lineTs = s.lineTs := rfl
@[simp] theorem State.updG_blocks (k : Nat) (f : Group → Group) : (s.updG k f).blocks = s.blocks := rfl
@[simp] theorem State.updG_launches (k : Nat) (f : Group → Group) : (s.updG k f).launches = s.launches := rfl
@[simp] theorem State.updG_nextBid (k : Nat) (f : Group → Group) : (s.updG k f).nextBid = s.nextBid := rfl
@[simp] theorem State.updG_nextLid (k : Nat) (f : Group → Group) : (s.updG k f).nextLid = s.nextLid := rfl
@[simp] theorem State.updG_clusters (k : Nat) (f : Group → Group) : (s.updG k f).clusters = s.clusters := rfl
@[simp] theorem State.updG_dies (k : Nat) (f : Group → Group) : (s.updG k f).dies = s.dies := rfl
@[simp] theorem State.updG_fns (k : Nat) (f : Group → Group) : (s.updG k f).fns = s.fns := rfl
@[simp] theorem State.updG_worlds (k : Nat) (f : Group → Group) : (s.updG k f).worlds = s.worlds := rfl
@[simp] theorem State.updG_debugOpen (k : Nat) (f : Group → Group) : (s.updG k f).debugOpen = s.debugOpen := rfl
@[simp] theorem State.updG_keyDraws (k : Nat) (f : Group → Group) : (s.updG k f).keyDraws = s.keyDraws := rfl
@[simp] theorem State.updG_links (k : Nat) (f : Group → Group) : (s.updG k f).links = s.links := rfl
@[simp] theorem State.updG_routing (k : Nat) (f : Group → Group) : (s.updG k f).routing = s.routing := rfl
@[simp] theorem State.updG_device (k : Nat) (f : Group → Group) : (s.updG k f).device = s.device := rfl
@[simp] theorem State.updG_eth (k : Nat) (f : Group → Group) : (s.updG k f).eth = s.eth := rfl
@[simp] theorem State.updG_rootLinks (k : Nat) (f : Group → Group) : (s.updG k f).rootLinks = s.rootLinks := rfl
@[simp] theorem State.updG_dropcnt (k : Nat) (f : Group → Group) : (s.updG k f).dropcnt = s.dropcnt := rfl
@[simp] theorem State.updG_urcnt (k : Nat) (f : Group → Group) : (s.updG k f).urcnt = s.urcnt := rfl
@[simp] theorem State.updG_rcctl (k : Nat) (f : Group → Group) : (s.updG k f).rcctl = s.rcctl := rfl
@[simp] theorem State.updG_files (k : Nat) (f : Group → Group) : (s.updG k f).files = s.files := rfl
@[simp] theorem State.updG_sockets (k : Nat) (f : Group → Group) : (s.updG k f).sockets = s.sockets := rfl
@[simp] theorem State.updG_calls (k : Nat) (f : Group → Group) : (s.updG k f).calls = s.calls := rfl
@[simp] theorem State.updG_readyShards (k : Nat) (f : Group → Group) : (s.updG k f).readyShards = s.readyShards := rfl
@[simp] theorem State.updG_retried (k : Nat) (f : Group → Group) : (s.updG k f).retried = s.retried := rfl
@[simp] theorem State.updG_fwmeas (k : Nat) (f : Group → Group) : (s.updG k f).fwmeas = s.fwmeas := rfl
@[simp] theorem State.updG_reply (k : Nat) (f : Group → Group) : (s.updG k f).reply = s.reply := rfl
@[simp] theorem State.updG_phase (k : Nat) (f : Group → Group) : (s.updG k f).phase = s.phase := rfl
@[simp] theorem State.updG_cause (k : Nat) (f : Group → Group) : (s.updG k f).cause = s.cause := rfl
@[simp] theorem State.updG_estop (k : Nat) (f : Group → Group) : (s.updG k f).estop = s.estop := rfl
@[simp] theorem State.updG_estopAt (k : Nat) (f : Group → Group) : (s.updG k f).estopAt = s.estopAt := rfl
@[simp] theorem State.updG_throt (k : Nat) (f : Group → Group) : (s.updG k f).throt = s.throt := rfl
@[simp] theorem State.updG_hostless (k : Nat) (f : Group → Group) : (s.updG k f).hostless = s.hostless := rfl
@[simp] theorem State.updG_ready (k : Nat) (f : Group → Group) : (s.updG k f).ready = s.ready := rfl
@[simp] theorem State.updG_plimit (k : Nat) (f : Group → Group) : (s.updG k f).plimit = s.plimit := rfl
@[simp] theorem State.updG_pwr (k : Nat) (f : Group → Group) : (s.updG k f).pwr = s.pwr := rfl
@[simp] theorem State.updG_icore (k : Nat) (f : Group → Group) : (s.updG k f).icore = s.icore := rfl
@[simp] theorem State.updG_tmax (k : Nat) (f : Group → Group) : (s.updG k f).tmax = s.tmax := rfl
@[simp] theorem State.updG_ttrip (k : Nat) (f : Group → Group) : (s.updG k f).ttrip = s.ttrip := rfl
@[simp] theorem State.updG_flash (k : Nat) (f : Group → Group) : (s.updG k f).flash = s.flash := rfl
@[simp] theorem State.updG_tsTop (k : Nat) (f : Group → Group) : (s.updG k f).tsTop = s.tsTop := rfl
@[simp] theorem State.updG_dir (k : Nat) (f : Group → Group) : (s.updG k f).dir = s.dir := rfl
@[simp] theorem State.updG_lineUse (k : Nat) (f : Group → Group) : (s.updG k f).lineUse = s.lineUse := rfl
@[simp] theorem State.updG_msc (k : Nat) (f : Group → Group) : (s.updG k f).msc = s.msc := rfl
@[simp] theorem State.updG_devHeld (k : Nat) (f : Group → Group) : (s.updG k f).devHeld = s.devHeld := rfl
@[simp] theorem State.updG_devCopy (k : Nat) (f : Group → Group) : (s.updG k f).devCopy = s.devCopy := rfl
@[simp] theorem State.updG_remote (k : Nat) (f : Group → Group) : (s.updG k f).remote = s.remote := rfl
@[simp] theorem State.updG_outbox (k : Nat) (f : Group → Group) : (s.updG k f).outbox = s.outbox := rfl
@[simp] theorem State.updG_farWaits (k : Nat) (f : Group → Group) : (s.updG k f).farWaits = s.farWaits := rfl
@[simp] theorem State.updG_farAnswers (k : Nat) (f : Group → Group) : (s.updG k f).farAnswers = s.farAnswers := rfl
@[simp] theorem State.updG_owes (k : Nat) (f : Group → Group) : (s.updG k f).owes = s.owes := rfl
@[simp] theorem State.updG_drives (k : Nat) (f : Group → Group) : (s.updG k f).drives = s.drives := rfl
@[simp] theorem State.updG_closedSockets (k : Nat) (f : Group → Group) : (s.updG k f).closedSockets = s.closedSockets := rfl
@[simp] theorem State.updG_served (k : Nat) (f : Group → Group) : (s.updG k f).served = s.served := rfl
@[simp] theorem State.updG_queues (k : Nat) (f : Group → Group) : (s.updG k f).queues = s.queues := rfl
@[simp] theorem State.updG_unforwarded (k : Nat) (f : Group → Group) : (s.updG k f).unforwarded = s.unforwarded := rfl
@[simp] theorem State.updG_bootWork (k : Nat) (f : Group → Group) : (s.updG k f).bootWork = s.bootWork := rfl
@[simp] theorem State.updG_bootReported (k : Nat) (f : Group → Group) : (s.updG k f).bootReported = s.bootReported := rfl
@[simp] theorem State.updG_heaps (k : Nat) (f : Group → Group) : (s.updG k f).heaps = s.heaps := rfl
@[simp] theorem State.updG_limit (k : Nat) (f : Group → Group) : (s.updG k f).limit = s.limit := rfl
@[simp] theorem State.updG_windowAt (k : Nat) (f : Group → Group) : (s.updG k f).windowAt = s.windowAt := rfl
@[simp] theorem State.updB_clk (k : Nat) (f : Block → Block) : (s.updB k f).clk = s.clk := rfl
@[simp] theorem State.updB_free (k : Nat) (f : Block → Block) : (s.updB k f).free = s.free := rfl
@[simp] theorem State.updB_order (k : Nat) (f : Block → Block) : (s.updB k f).order = s.order := rfl
@[simp] theorem State.updB_agenda (k : Nat) (f : Block → Block) : (s.updB k f).agenda = s.agenda := rfl
@[simp] theorem State.updB_cur (k : Nat) (f : Block → Block) : (s.updB k f).cur = s.cur := rfl
@[simp] theorem State.updB_booted (k : Nat) (f : Block → Block) : (s.updB k f).booted = s.booted := rfl
@[simp] theorem State.updB_mem (k : Nat) (f : Block → Block) : (s.updB k f).mem = s.mem := rfl
@[simp] theorem State.updB_memPoison (k : Nat) (f : Block → Block) : (s.updB k f).memPoison = s.memPoison := rfl
@[simp] theorem State.updB_spare (k : Nat) (f : Block → Block) : (s.updB k f).spare = s.spare := rfl
@[simp] theorem State.updB_l2 (k : Nat) (f : Block → Block) : (s.updB k f).l2 = s.l2 := rfl
@[simp] theorem State.updB_lineTs (k : Nat) (f : Block → Block) : (s.updB k f).lineTs = s.lineTs := rfl
@[simp] theorem State.updB_groups (k : Nat) (f : Block → Block) : (s.updB k f).groups = s.groups := rfl
@[simp] theorem State.updB_launches (k : Nat) (f : Block → Block) : (s.updB k f).launches = s.launches := rfl
@[simp] theorem State.updB_nextBid (k : Nat) (f : Block → Block) : (s.updB k f).nextBid = s.nextBid := rfl
@[simp] theorem State.updB_nextLid (k : Nat) (f : Block → Block) : (s.updB k f).nextLid = s.nextLid := rfl
@[simp] theorem State.updB_clusters (k : Nat) (f : Block → Block) : (s.updB k f).clusters = s.clusters := rfl
@[simp] theorem State.updB_dies (k : Nat) (f : Block → Block) : (s.updB k f).dies = s.dies := rfl
@[simp] theorem State.updB_fns (k : Nat) (f : Block → Block) : (s.updB k f).fns = s.fns := rfl
@[simp] theorem State.updB_worlds (k : Nat) (f : Block → Block) : (s.updB k f).worlds = s.worlds := rfl
@[simp] theorem State.updB_debugOpen (k : Nat) (f : Block → Block) : (s.updB k f).debugOpen = s.debugOpen := rfl
@[simp] theorem State.updB_keyDraws (k : Nat) (f : Block → Block) : (s.updB k f).keyDraws = s.keyDraws := rfl
@[simp] theorem State.updB_links (k : Nat) (f : Block → Block) : (s.updB k f).links = s.links := rfl
@[simp] theorem State.updB_routing (k : Nat) (f : Block → Block) : (s.updB k f).routing = s.routing := rfl
@[simp] theorem State.updB_device (k : Nat) (f : Block → Block) : (s.updB k f).device = s.device := rfl
@[simp] theorem State.updB_eth (k : Nat) (f : Block → Block) : (s.updB k f).eth = s.eth := rfl
@[simp] theorem State.updB_rootLinks (k : Nat) (f : Block → Block) : (s.updB k f).rootLinks = s.rootLinks := rfl
@[simp] theorem State.updB_dropcnt (k : Nat) (f : Block → Block) : (s.updB k f).dropcnt = s.dropcnt := rfl
@[simp] theorem State.updB_urcnt (k : Nat) (f : Block → Block) : (s.updB k f).urcnt = s.urcnt := rfl
@[simp] theorem State.updB_rcctl (k : Nat) (f : Block → Block) : (s.updB k f).rcctl = s.rcctl := rfl
@[simp] theorem State.updB_files (k : Nat) (f : Block → Block) : (s.updB k f).files = s.files := rfl
@[simp] theorem State.updB_sockets (k : Nat) (f : Block → Block) : (s.updB k f).sockets = s.sockets := rfl
@[simp] theorem State.updB_calls (k : Nat) (f : Block → Block) : (s.updB k f).calls = s.calls := rfl
@[simp] theorem State.updB_readyShards (k : Nat) (f : Block → Block) : (s.updB k f).readyShards = s.readyShards := rfl
@[simp] theorem State.updB_retried (k : Nat) (f : Block → Block) : (s.updB k f).retried = s.retried := rfl
@[simp] theorem State.updB_fwmeas (k : Nat) (f : Block → Block) : (s.updB k f).fwmeas = s.fwmeas := rfl
@[simp] theorem State.updB_reply (k : Nat) (f : Block → Block) : (s.updB k f).reply = s.reply := rfl
@[simp] theorem State.updB_phase (k : Nat) (f : Block → Block) : (s.updB k f).phase = s.phase := rfl
@[simp] theorem State.updB_cause (k : Nat) (f : Block → Block) : (s.updB k f).cause = s.cause := rfl
@[simp] theorem State.updB_estop (k : Nat) (f : Block → Block) : (s.updB k f).estop = s.estop := rfl
@[simp] theorem State.updB_estopAt (k : Nat) (f : Block → Block) : (s.updB k f).estopAt = s.estopAt := rfl
@[simp] theorem State.updB_throt (k : Nat) (f : Block → Block) : (s.updB k f).throt = s.throt := rfl
@[simp] theorem State.updB_hostless (k : Nat) (f : Block → Block) : (s.updB k f).hostless = s.hostless := rfl
@[simp] theorem State.updB_ready (k : Nat) (f : Block → Block) : (s.updB k f).ready = s.ready := rfl
@[simp] theorem State.updB_plimit (k : Nat) (f : Block → Block) : (s.updB k f).plimit = s.plimit := rfl
@[simp] theorem State.updB_pwr (k : Nat) (f : Block → Block) : (s.updB k f).pwr = s.pwr := rfl
@[simp] theorem State.updB_icore (k : Nat) (f : Block → Block) : (s.updB k f).icore = s.icore := rfl
@[simp] theorem State.updB_tmax (k : Nat) (f : Block → Block) : (s.updB k f).tmax = s.tmax := rfl
@[simp] theorem State.updB_ttrip (k : Nat) (f : Block → Block) : (s.updB k f).ttrip = s.ttrip := rfl
@[simp] theorem State.updB_flash (k : Nat) (f : Block → Block) : (s.updB k f).flash = s.flash := rfl
@[simp] theorem State.updB_tsTop (k : Nat) (f : Block → Block) : (s.updB k f).tsTop = s.tsTop := rfl
@[simp] theorem State.updB_dir (k : Nat) (f : Block → Block) : (s.updB k f).dir = s.dir := rfl
@[simp] theorem State.updB_lineUse (k : Nat) (f : Block → Block) : (s.updB k f).lineUse = s.lineUse := rfl
@[simp] theorem State.updB_msc (k : Nat) (f : Block → Block) : (s.updB k f).msc = s.msc := rfl
@[simp] theorem State.updB_devHeld (k : Nat) (f : Block → Block) : (s.updB k f).devHeld = s.devHeld := rfl
@[simp] theorem State.updB_devCopy (k : Nat) (f : Block → Block) : (s.updB k f).devCopy = s.devCopy := rfl
@[simp] theorem State.updB_remote (k : Nat) (f : Block → Block) : (s.updB k f).remote = s.remote := rfl
@[simp] theorem State.updB_outbox (k : Nat) (f : Block → Block) : (s.updB k f).outbox = s.outbox := rfl
@[simp] theorem State.updB_farWaits (k : Nat) (f : Block → Block) : (s.updB k f).farWaits = s.farWaits := rfl
@[simp] theorem State.updB_farAnswers (k : Nat) (f : Block → Block) : (s.updB k f).farAnswers = s.farAnswers := rfl
@[simp] theorem State.updB_owes (k : Nat) (f : Block → Block) : (s.updB k f).owes = s.owes := rfl
@[simp] theorem State.updB_drives (k : Nat) (f : Block → Block) : (s.updB k f).drives = s.drives := rfl
@[simp] theorem State.updB_closedSockets (k : Nat) (f : Block → Block) : (s.updB k f).closedSockets = s.closedSockets := rfl
@[simp] theorem State.updB_served (k : Nat) (f : Block → Block) : (s.updB k f).served = s.served := rfl
@[simp] theorem State.updB_queues (k : Nat) (f : Block → Block) : (s.updB k f).queues = s.queues := rfl
@[simp] theorem State.updB_unforwarded (k : Nat) (f : Block → Block) : (s.updB k f).unforwarded = s.unforwarded := rfl
@[simp] theorem State.updB_bootWork (k : Nat) (f : Block → Block) : (s.updB k f).bootWork = s.bootWork := rfl
@[simp] theorem State.updB_bootReported (k : Nat) (f : Block → Block) : (s.updB k f).bootReported = s.bootReported := rfl
@[simp] theorem State.updB_heaps (k : Nat) (f : Block → Block) : (s.updB k f).heaps = s.heaps := rfl
@[simp] theorem State.updB_limit (k : Nat) (f : Block → Block) : (s.updB k f).limit = s.limit := rfl
@[simp] theorem State.updB_windowAt (k : Nat) (f : Block → Block) : (s.updB k f).windowAt = s.windowAt := rfl
@[simp] theorem State.updL_clk (k : Nat) (f : Launch → Launch) : (s.updL k f).clk = s.clk := rfl
@[simp] theorem State.updL_free (k : Nat) (f : Launch → Launch) : (s.updL k f).free = s.free := rfl
@[simp] theorem State.updL_order (k : Nat) (f : Launch → Launch) : (s.updL k f).order = s.order := rfl
@[simp] theorem State.updL_agenda (k : Nat) (f : Launch → Launch) : (s.updL k f).agenda = s.agenda := rfl
@[simp] theorem State.updL_cur (k : Nat) (f : Launch → Launch) : (s.updL k f).cur = s.cur := rfl
@[simp] theorem State.updL_booted (k : Nat) (f : Launch → Launch) : (s.updL k f).booted = s.booted := rfl
@[simp] theorem State.updL_mem (k : Nat) (f : Launch → Launch) : (s.updL k f).mem = s.mem := rfl
@[simp] theorem State.updL_memPoison (k : Nat) (f : Launch → Launch) : (s.updL k f).memPoison = s.memPoison := rfl
@[simp] theorem State.updL_spare (k : Nat) (f : Launch → Launch) : (s.updL k f).spare = s.spare := rfl
@[simp] theorem State.updL_l2 (k : Nat) (f : Launch → Launch) : (s.updL k f).l2 = s.l2 := rfl
@[simp] theorem State.updL_lineTs (k : Nat) (f : Launch → Launch) : (s.updL k f).lineTs = s.lineTs := rfl
@[simp] theorem State.updL_groups (k : Nat) (f : Launch → Launch) : (s.updL k f).groups = s.groups := rfl
@[simp] theorem State.updL_blocks (k : Nat) (f : Launch → Launch) : (s.updL k f).blocks = s.blocks := rfl
@[simp] theorem State.updL_nextBid (k : Nat) (f : Launch → Launch) : (s.updL k f).nextBid = s.nextBid := rfl
@[simp] theorem State.updL_nextLid (k : Nat) (f : Launch → Launch) : (s.updL k f).nextLid = s.nextLid := rfl
@[simp] theorem State.updL_clusters (k : Nat) (f : Launch → Launch) : (s.updL k f).clusters = s.clusters := rfl
@[simp] theorem State.updL_dies (k : Nat) (f : Launch → Launch) : (s.updL k f).dies = s.dies := rfl
@[simp] theorem State.updL_fns (k : Nat) (f : Launch → Launch) : (s.updL k f).fns = s.fns := rfl
@[simp] theorem State.updL_worlds (k : Nat) (f : Launch → Launch) : (s.updL k f).worlds = s.worlds := rfl
@[simp] theorem State.updL_debugOpen (k : Nat) (f : Launch → Launch) : (s.updL k f).debugOpen = s.debugOpen := rfl
@[simp] theorem State.updL_keyDraws (k : Nat) (f : Launch → Launch) : (s.updL k f).keyDraws = s.keyDraws := rfl
@[simp] theorem State.updL_links (k : Nat) (f : Launch → Launch) : (s.updL k f).links = s.links := rfl
@[simp] theorem State.updL_routing (k : Nat) (f : Launch → Launch) : (s.updL k f).routing = s.routing := rfl
@[simp] theorem State.updL_device (k : Nat) (f : Launch → Launch) : (s.updL k f).device = s.device := rfl
@[simp] theorem State.updL_eth (k : Nat) (f : Launch → Launch) : (s.updL k f).eth = s.eth := rfl
@[simp] theorem State.updL_rootLinks (k : Nat) (f : Launch → Launch) : (s.updL k f).rootLinks = s.rootLinks := rfl
@[simp] theorem State.updL_dropcnt (k : Nat) (f : Launch → Launch) : (s.updL k f).dropcnt = s.dropcnt := rfl
@[simp] theorem State.updL_urcnt (k : Nat) (f : Launch → Launch) : (s.updL k f).urcnt = s.urcnt := rfl
@[simp] theorem State.updL_rcctl (k : Nat) (f : Launch → Launch) : (s.updL k f).rcctl = s.rcctl := rfl
@[simp] theorem State.updL_files (k : Nat) (f : Launch → Launch) : (s.updL k f).files = s.files := rfl
@[simp] theorem State.updL_sockets (k : Nat) (f : Launch → Launch) : (s.updL k f).sockets = s.sockets := rfl
@[simp] theorem State.updL_calls (k : Nat) (f : Launch → Launch) : (s.updL k f).calls = s.calls := rfl
@[simp] theorem State.updL_readyShards (k : Nat) (f : Launch → Launch) : (s.updL k f).readyShards = s.readyShards := rfl
@[simp] theorem State.updL_retried (k : Nat) (f : Launch → Launch) : (s.updL k f).retried = s.retried := rfl
@[simp] theorem State.updL_fwmeas (k : Nat) (f : Launch → Launch) : (s.updL k f).fwmeas = s.fwmeas := rfl
@[simp] theorem State.updL_reply (k : Nat) (f : Launch → Launch) : (s.updL k f).reply = s.reply := rfl
@[simp] theorem State.updL_phase (k : Nat) (f : Launch → Launch) : (s.updL k f).phase = s.phase := rfl
@[simp] theorem State.updL_cause (k : Nat) (f : Launch → Launch) : (s.updL k f).cause = s.cause := rfl
@[simp] theorem State.updL_estop (k : Nat) (f : Launch → Launch) : (s.updL k f).estop = s.estop := rfl
@[simp] theorem State.updL_estopAt (k : Nat) (f : Launch → Launch) : (s.updL k f).estopAt = s.estopAt := rfl
@[simp] theorem State.updL_throt (k : Nat) (f : Launch → Launch) : (s.updL k f).throt = s.throt := rfl
@[simp] theorem State.updL_hostless (k : Nat) (f : Launch → Launch) : (s.updL k f).hostless = s.hostless := rfl
@[simp] theorem State.updL_ready (k : Nat) (f : Launch → Launch) : (s.updL k f).ready = s.ready := rfl
@[simp] theorem State.updL_plimit (k : Nat) (f : Launch → Launch) : (s.updL k f).plimit = s.plimit := rfl
@[simp] theorem State.updL_pwr (k : Nat) (f : Launch → Launch) : (s.updL k f).pwr = s.pwr := rfl
@[simp] theorem State.updL_icore (k : Nat) (f : Launch → Launch) : (s.updL k f).icore = s.icore := rfl
@[simp] theorem State.updL_tmax (k : Nat) (f : Launch → Launch) : (s.updL k f).tmax = s.tmax := rfl
@[simp] theorem State.updL_ttrip (k : Nat) (f : Launch → Launch) : (s.updL k f).ttrip = s.ttrip := rfl
@[simp] theorem State.updL_flash (k : Nat) (f : Launch → Launch) : (s.updL k f).flash = s.flash := rfl
@[simp] theorem State.updL_tsTop (k : Nat) (f : Launch → Launch) : (s.updL k f).tsTop = s.tsTop := rfl
@[simp] theorem State.updL_dir (k : Nat) (f : Launch → Launch) : (s.updL k f).dir = s.dir := rfl
@[simp] theorem State.updL_lineUse (k : Nat) (f : Launch → Launch) : (s.updL k f).lineUse = s.lineUse := rfl
@[simp] theorem State.updL_msc (k : Nat) (f : Launch → Launch) : (s.updL k f).msc = s.msc := rfl
@[simp] theorem State.updL_devHeld (k : Nat) (f : Launch → Launch) : (s.updL k f).devHeld = s.devHeld := rfl
@[simp] theorem State.updL_devCopy (k : Nat) (f : Launch → Launch) : (s.updL k f).devCopy = s.devCopy := rfl
@[simp] theorem State.updL_remote (k : Nat) (f : Launch → Launch) : (s.updL k f).remote = s.remote := rfl
@[simp] theorem State.updL_outbox (k : Nat) (f : Launch → Launch) : (s.updL k f).outbox = s.outbox := rfl
@[simp] theorem State.updL_farWaits (k : Nat) (f : Launch → Launch) : (s.updL k f).farWaits = s.farWaits := rfl
@[simp] theorem State.updL_farAnswers (k : Nat) (f : Launch → Launch) : (s.updL k f).farAnswers = s.farAnswers := rfl
@[simp] theorem State.updL_owes (k : Nat) (f : Launch → Launch) : (s.updL k f).owes = s.owes := rfl
@[simp] theorem State.updL_drives (k : Nat) (f : Launch → Launch) : (s.updL k f).drives = s.drives := rfl
@[simp] theorem State.updL_closedSockets (k : Nat) (f : Launch → Launch) : (s.updL k f).closedSockets = s.closedSockets := rfl
@[simp] theorem State.updL_served (k : Nat) (f : Launch → Launch) : (s.updL k f).served = s.served := rfl
@[simp] theorem State.updL_queues (k : Nat) (f : Launch → Launch) : (s.updL k f).queues = s.queues := rfl
@[simp] theorem State.updL_unforwarded (k : Nat) (f : Launch → Launch) : (s.updL k f).unforwarded = s.unforwarded := rfl
@[simp] theorem State.updL_bootWork (k : Nat) (f : Launch → Launch) : (s.updL k f).bootWork = s.bootWork := rfl
@[simp] theorem State.updL_bootReported (k : Nat) (f : Launch → Launch) : (s.updL k f).bootReported = s.bootReported := rfl
@[simp] theorem State.updL_heaps (k : Nat) (f : Launch → Launch) : (s.updL k f).heaps = s.heaps := rfl
@[simp] theorem State.updL_limit (k : Nat) (f : Launch → Launch) : (s.updL k f).limit = s.limit := rfl
@[simp] theorem State.updL_windowAt (k : Nat) (f : Launch → Launch) : (s.updL k f).windowAt = s.windowAt := rfl
@[simp] theorem State.updC_clk (k : Nat) (f : Cluster → Cluster) : (s.updC k f).clk = s.clk := rfl
@[simp] theorem State.updC_free (k : Nat) (f : Cluster → Cluster) : (s.updC k f).free = s.free := rfl
@[simp] theorem State.updC_order (k : Nat) (f : Cluster → Cluster) : (s.updC k f).order = s.order := rfl
@[simp] theorem State.updC_agenda (k : Nat) (f : Cluster → Cluster) : (s.updC k f).agenda = s.agenda := rfl
@[simp] theorem State.updC_cur (k : Nat) (f : Cluster → Cluster) : (s.updC k f).cur = s.cur := rfl
@[simp] theorem State.updC_booted (k : Nat) (f : Cluster → Cluster) : (s.updC k f).booted = s.booted := rfl
@[simp] theorem State.updC_mem (k : Nat) (f : Cluster → Cluster) : (s.updC k f).mem = s.mem := rfl
@[simp] theorem State.updC_memPoison (k : Nat) (f : Cluster → Cluster) : (s.updC k f).memPoison = s.memPoison := rfl
@[simp] theorem State.updC_spare (k : Nat) (f : Cluster → Cluster) : (s.updC k f).spare = s.spare := rfl
@[simp] theorem State.updC_l2 (k : Nat) (f : Cluster → Cluster) : (s.updC k f).l2 = s.l2 := rfl
@[simp] theorem State.updC_lineTs (k : Nat) (f : Cluster → Cluster) : (s.updC k f).lineTs = s.lineTs := rfl
@[simp] theorem State.updC_groups (k : Nat) (f : Cluster → Cluster) : (s.updC k f).groups = s.groups := rfl
@[simp] theorem State.updC_blocks (k : Nat) (f : Cluster → Cluster) : (s.updC k f).blocks = s.blocks := rfl
@[simp] theorem State.updC_launches (k : Nat) (f : Cluster → Cluster) : (s.updC k f).launches = s.launches := rfl
@[simp] theorem State.updC_nextBid (k : Nat) (f : Cluster → Cluster) : (s.updC k f).nextBid = s.nextBid := rfl
@[simp] theorem State.updC_nextLid (k : Nat) (f : Cluster → Cluster) : (s.updC k f).nextLid = s.nextLid := rfl
@[simp] theorem State.updC_dies (k : Nat) (f : Cluster → Cluster) : (s.updC k f).dies = s.dies := rfl
@[simp] theorem State.updC_fns (k : Nat) (f : Cluster → Cluster) : (s.updC k f).fns = s.fns := rfl
@[simp] theorem State.updC_worlds (k : Nat) (f : Cluster → Cluster) : (s.updC k f).worlds = s.worlds := rfl
@[simp] theorem State.updC_debugOpen (k : Nat) (f : Cluster → Cluster) : (s.updC k f).debugOpen = s.debugOpen := rfl
@[simp] theorem State.updC_keyDraws (k : Nat) (f : Cluster → Cluster) : (s.updC k f).keyDraws = s.keyDraws := rfl
@[simp] theorem State.updC_links (k : Nat) (f : Cluster → Cluster) : (s.updC k f).links = s.links := rfl
@[simp] theorem State.updC_routing (k : Nat) (f : Cluster → Cluster) : (s.updC k f).routing = s.routing := rfl
@[simp] theorem State.updC_device (k : Nat) (f : Cluster → Cluster) : (s.updC k f).device = s.device := rfl
@[simp] theorem State.updC_eth (k : Nat) (f : Cluster → Cluster) : (s.updC k f).eth = s.eth := rfl
@[simp] theorem State.updC_rootLinks (k : Nat) (f : Cluster → Cluster) : (s.updC k f).rootLinks = s.rootLinks := rfl
@[simp] theorem State.updC_dropcnt (k : Nat) (f : Cluster → Cluster) : (s.updC k f).dropcnt = s.dropcnt := rfl
@[simp] theorem State.updC_urcnt (k : Nat) (f : Cluster → Cluster) : (s.updC k f).urcnt = s.urcnt := rfl
@[simp] theorem State.updC_rcctl (k : Nat) (f : Cluster → Cluster) : (s.updC k f).rcctl = s.rcctl := rfl
@[simp] theorem State.updC_files (k : Nat) (f : Cluster → Cluster) : (s.updC k f).files = s.files := rfl
@[simp] theorem State.updC_sockets (k : Nat) (f : Cluster → Cluster) : (s.updC k f).sockets = s.sockets := rfl
@[simp] theorem State.updC_calls (k : Nat) (f : Cluster → Cluster) : (s.updC k f).calls = s.calls := rfl
@[simp] theorem State.updC_readyShards (k : Nat) (f : Cluster → Cluster) : (s.updC k f).readyShards = s.readyShards := rfl
@[simp] theorem State.updC_retried (k : Nat) (f : Cluster → Cluster) : (s.updC k f).retried = s.retried := rfl
@[simp] theorem State.updC_fwmeas (k : Nat) (f : Cluster → Cluster) : (s.updC k f).fwmeas = s.fwmeas := rfl
@[simp] theorem State.updC_reply (k : Nat) (f : Cluster → Cluster) : (s.updC k f).reply = s.reply := rfl
@[simp] theorem State.updC_phase (k : Nat) (f : Cluster → Cluster) : (s.updC k f).phase = s.phase := rfl
@[simp] theorem State.updC_cause (k : Nat) (f : Cluster → Cluster) : (s.updC k f).cause = s.cause := rfl
@[simp] theorem State.updC_estop (k : Nat) (f : Cluster → Cluster) : (s.updC k f).estop = s.estop := rfl
@[simp] theorem State.updC_estopAt (k : Nat) (f : Cluster → Cluster) : (s.updC k f).estopAt = s.estopAt := rfl
@[simp] theorem State.updC_throt (k : Nat) (f : Cluster → Cluster) : (s.updC k f).throt = s.throt := rfl
@[simp] theorem State.updC_hostless (k : Nat) (f : Cluster → Cluster) : (s.updC k f).hostless = s.hostless := rfl
@[simp] theorem State.updC_ready (k : Nat) (f : Cluster → Cluster) : (s.updC k f).ready = s.ready := rfl
@[simp] theorem State.updC_plimit (k : Nat) (f : Cluster → Cluster) : (s.updC k f).plimit = s.plimit := rfl
@[simp] theorem State.updC_pwr (k : Nat) (f : Cluster → Cluster) : (s.updC k f).pwr = s.pwr := rfl
@[simp] theorem State.updC_icore (k : Nat) (f : Cluster → Cluster) : (s.updC k f).icore = s.icore := rfl
@[simp] theorem State.updC_tmax (k : Nat) (f : Cluster → Cluster) : (s.updC k f).tmax = s.tmax := rfl
@[simp] theorem State.updC_ttrip (k : Nat) (f : Cluster → Cluster) : (s.updC k f).ttrip = s.ttrip := rfl
@[simp] theorem State.updC_flash (k : Nat) (f : Cluster → Cluster) : (s.updC k f).flash = s.flash := rfl
@[simp] theorem State.updC_tsTop (k : Nat) (f : Cluster → Cluster) : (s.updC k f).tsTop = s.tsTop := rfl
@[simp] theorem State.updC_dir (k : Nat) (f : Cluster → Cluster) : (s.updC k f).dir = s.dir := rfl
@[simp] theorem State.updC_lineUse (k : Nat) (f : Cluster → Cluster) : (s.updC k f).lineUse = s.lineUse := rfl
@[simp] theorem State.updC_msc (k : Nat) (f : Cluster → Cluster) : (s.updC k f).msc = s.msc := rfl
@[simp] theorem State.updC_devHeld (k : Nat) (f : Cluster → Cluster) : (s.updC k f).devHeld = s.devHeld := rfl
@[simp] theorem State.updC_devCopy (k : Nat) (f : Cluster → Cluster) : (s.updC k f).devCopy = s.devCopy := rfl
@[simp] theorem State.updC_remote (k : Nat) (f : Cluster → Cluster) : (s.updC k f).remote = s.remote := rfl
@[simp] theorem State.updC_outbox (k : Nat) (f : Cluster → Cluster) : (s.updC k f).outbox = s.outbox := rfl
@[simp] theorem State.updC_farWaits (k : Nat) (f : Cluster → Cluster) : (s.updC k f).farWaits = s.farWaits := rfl
@[simp] theorem State.updC_farAnswers (k : Nat) (f : Cluster → Cluster) : (s.updC k f).farAnswers = s.farAnswers := rfl
@[simp] theorem State.updC_owes (k : Nat) (f : Cluster → Cluster) : (s.updC k f).owes = s.owes := rfl
@[simp] theorem State.updC_drives (k : Nat) (f : Cluster → Cluster) : (s.updC k f).drives = s.drives := rfl
@[simp] theorem State.updC_closedSockets (k : Nat) (f : Cluster → Cluster) : (s.updC k f).closedSockets = s.closedSockets := rfl
@[simp] theorem State.updC_served (k : Nat) (f : Cluster → Cluster) : (s.updC k f).served = s.served := rfl
@[simp] theorem State.updC_queues (k : Nat) (f : Cluster → Cluster) : (s.updC k f).queues = s.queues := rfl
@[simp] theorem State.updC_unforwarded (k : Nat) (f : Cluster → Cluster) : (s.updC k f).unforwarded = s.unforwarded := rfl
@[simp] theorem State.updC_bootWork (k : Nat) (f : Cluster → Cluster) : (s.updC k f).bootWork = s.bootWork := rfl
@[simp] theorem State.updC_bootReported (k : Nat) (f : Cluster → Cluster) : (s.updC k f).bootReported = s.bootReported := rfl
@[simp] theorem State.updC_heaps (k : Nat) (f : Cluster → Cluster) : (s.updC k f).heaps = s.heaps := rfl
@[simp] theorem State.updC_limit (k : Nat) (f : Cluster → Cluster) : (s.updC k f).limit = s.limit := rfl
@[simp] theorem State.updC_windowAt (k : Nat) (f : Cluster → Cluster) : (s.updC k f).windowAt = s.windowAt := rfl
@[simp] theorem State.updM_clk (k : Nat) (f : Mast → Mast) : (s.updM k f).clk = s.clk := rfl
@[simp] theorem State.updM_free (k : Nat) (f : Mast → Mast) : (s.updM k f).free = s.free := rfl
@[simp] theorem State.updM_order (k : Nat) (f : Mast → Mast) : (s.updM k f).order = s.order := rfl
@[simp] theorem State.updM_agenda (k : Nat) (f : Mast → Mast) : (s.updM k f).agenda = s.agenda := rfl
@[simp] theorem State.updM_cur (k : Nat) (f : Mast → Mast) : (s.updM k f).cur = s.cur := rfl
@[simp] theorem State.updM_booted (k : Nat) (f : Mast → Mast) : (s.updM k f).booted = s.booted := rfl
@[simp] theorem State.updM_mem (k : Nat) (f : Mast → Mast) : (s.updM k f).mem = s.mem := rfl
@[simp] theorem State.updM_memPoison (k : Nat) (f : Mast → Mast) : (s.updM k f).memPoison = s.memPoison := rfl
@[simp] theorem State.updM_spare (k : Nat) (f : Mast → Mast) : (s.updM k f).spare = s.spare := rfl
@[simp] theorem State.updM_l2 (k : Nat) (f : Mast → Mast) : (s.updM k f).l2 = s.l2 := rfl
@[simp] theorem State.updM_lineTs (k : Nat) (f : Mast → Mast) : (s.updM k f).lineTs = s.lineTs := rfl
@[simp] theorem State.updM_groups (k : Nat) (f : Mast → Mast) : (s.updM k f).groups = s.groups := rfl
@[simp] theorem State.updM_blocks (k : Nat) (f : Mast → Mast) : (s.updM k f).blocks = s.blocks := rfl
@[simp] theorem State.updM_launches (k : Nat) (f : Mast → Mast) : (s.updM k f).launches = s.launches := rfl
@[simp] theorem State.updM_nextBid (k : Nat) (f : Mast → Mast) : (s.updM k f).nextBid = s.nextBid := rfl
@[simp] theorem State.updM_nextLid (k : Nat) (f : Mast → Mast) : (s.updM k f).nextLid = s.nextLid := rfl
@[simp] theorem State.updM_dies (k : Nat) (f : Mast → Mast) : (s.updM k f).dies = s.dies := rfl
@[simp] theorem State.updM_fns (k : Nat) (f : Mast → Mast) : (s.updM k f).fns = s.fns := rfl
@[simp] theorem State.updM_worlds (k : Nat) (f : Mast → Mast) : (s.updM k f).worlds = s.worlds := rfl
@[simp] theorem State.updM_debugOpen (k : Nat) (f : Mast → Mast) : (s.updM k f).debugOpen = s.debugOpen := rfl
@[simp] theorem State.updM_keyDraws (k : Nat) (f : Mast → Mast) : (s.updM k f).keyDraws = s.keyDraws := rfl
@[simp] theorem State.updM_links (k : Nat) (f : Mast → Mast) : (s.updM k f).links = s.links := rfl
@[simp] theorem State.updM_routing (k : Nat) (f : Mast → Mast) : (s.updM k f).routing = s.routing := rfl
@[simp] theorem State.updM_device (k : Nat) (f : Mast → Mast) : (s.updM k f).device = s.device := rfl
@[simp] theorem State.updM_eth (k : Nat) (f : Mast → Mast) : (s.updM k f).eth = s.eth := rfl
@[simp] theorem State.updM_rootLinks (k : Nat) (f : Mast → Mast) : (s.updM k f).rootLinks = s.rootLinks := rfl
@[simp] theorem State.updM_dropcnt (k : Nat) (f : Mast → Mast) : (s.updM k f).dropcnt = s.dropcnt := rfl
@[simp] theorem State.updM_urcnt (k : Nat) (f : Mast → Mast) : (s.updM k f).urcnt = s.urcnt := rfl
@[simp] theorem State.updM_rcctl (k : Nat) (f : Mast → Mast) : (s.updM k f).rcctl = s.rcctl := rfl
@[simp] theorem State.updM_files (k : Nat) (f : Mast → Mast) : (s.updM k f).files = s.files := rfl
@[simp] theorem State.updM_sockets (k : Nat) (f : Mast → Mast) : (s.updM k f).sockets = s.sockets := rfl
@[simp] theorem State.updM_calls (k : Nat) (f : Mast → Mast) : (s.updM k f).calls = s.calls := rfl
@[simp] theorem State.updM_readyShards (k : Nat) (f : Mast → Mast) : (s.updM k f).readyShards = s.readyShards := rfl
@[simp] theorem State.updM_retried (k : Nat) (f : Mast → Mast) : (s.updM k f).retried = s.retried := rfl
@[simp] theorem State.updM_fwmeas (k : Nat) (f : Mast → Mast) : (s.updM k f).fwmeas = s.fwmeas := rfl
@[simp] theorem State.updM_reply (k : Nat) (f : Mast → Mast) : (s.updM k f).reply = s.reply := rfl
@[simp] theorem State.updM_phase (k : Nat) (f : Mast → Mast) : (s.updM k f).phase = s.phase := rfl
@[simp] theorem State.updM_cause (k : Nat) (f : Mast → Mast) : (s.updM k f).cause = s.cause := rfl
@[simp] theorem State.updM_estop (k : Nat) (f : Mast → Mast) : (s.updM k f).estop = s.estop := rfl
@[simp] theorem State.updM_estopAt (k : Nat) (f : Mast → Mast) : (s.updM k f).estopAt = s.estopAt := rfl
@[simp] theorem State.updM_throt (k : Nat) (f : Mast → Mast) : (s.updM k f).throt = s.throt := rfl
@[simp] theorem State.updM_hostless (k : Nat) (f : Mast → Mast) : (s.updM k f).hostless = s.hostless := rfl
@[simp] theorem State.updM_ready (k : Nat) (f : Mast → Mast) : (s.updM k f).ready = s.ready := rfl
@[simp] theorem State.updM_plimit (k : Nat) (f : Mast → Mast) : (s.updM k f).plimit = s.plimit := rfl
@[simp] theorem State.updM_pwr (k : Nat) (f : Mast → Mast) : (s.updM k f).pwr = s.pwr := rfl
@[simp] theorem State.updM_icore (k : Nat) (f : Mast → Mast) : (s.updM k f).icore = s.icore := rfl
@[simp] theorem State.updM_tmax (k : Nat) (f : Mast → Mast) : (s.updM k f).tmax = s.tmax := rfl
@[simp] theorem State.updM_ttrip (k : Nat) (f : Mast → Mast) : (s.updM k f).ttrip = s.ttrip := rfl
@[simp] theorem State.updM_flash (k : Nat) (f : Mast → Mast) : (s.updM k f).flash = s.flash := rfl
@[simp] theorem State.updM_tsTop (k : Nat) (f : Mast → Mast) : (s.updM k f).tsTop = s.tsTop := rfl
@[simp] theorem State.updM_dir (k : Nat) (f : Mast → Mast) : (s.updM k f).dir = s.dir := rfl
@[simp] theorem State.updM_lineUse (k : Nat) (f : Mast → Mast) : (s.updM k f).lineUse = s.lineUse := rfl
@[simp] theorem State.updM_msc (k : Nat) (f : Mast → Mast) : (s.updM k f).msc = s.msc := rfl
@[simp] theorem State.updM_devHeld (k : Nat) (f : Mast → Mast) : (s.updM k f).devHeld = s.devHeld := rfl
@[simp] theorem State.updM_devCopy (k : Nat) (f : Mast → Mast) : (s.updM k f).devCopy = s.devCopy := rfl
@[simp] theorem State.updM_remote (k : Nat) (f : Mast → Mast) : (s.updM k f).remote = s.remote := rfl
@[simp] theorem State.updM_outbox (k : Nat) (f : Mast → Mast) : (s.updM k f).outbox = s.outbox := rfl
@[simp] theorem State.updM_farWaits (k : Nat) (f : Mast → Mast) : (s.updM k f).farWaits = s.farWaits := rfl
@[simp] theorem State.updM_farAnswers (k : Nat) (f : Mast → Mast) : (s.updM k f).farAnswers = s.farAnswers := rfl
@[simp] theorem State.updM_owes (k : Nat) (f : Mast → Mast) : (s.updM k f).owes = s.owes := rfl
@[simp] theorem State.updM_drives (k : Nat) (f : Mast → Mast) : (s.updM k f).drives = s.drives := rfl
@[simp] theorem State.updM_closedSockets (k : Nat) (f : Mast → Mast) : (s.updM k f).closedSockets = s.closedSockets := rfl
@[simp] theorem State.updM_served (k : Nat) (f : Mast → Mast) : (s.updM k f).served = s.served := rfl
@[simp] theorem State.updM_queues (k : Nat) (f : Mast → Mast) : (s.updM k f).queues = s.queues := rfl
@[simp] theorem State.updM_unforwarded (k : Nat) (f : Mast → Mast) : (s.updM k f).unforwarded = s.unforwarded := rfl
@[simp] theorem State.updM_bootWork (k : Nat) (f : Mast → Mast) : (s.updM k f).bootWork = s.bootWork := rfl
@[simp] theorem State.updM_bootReported (k : Nat) (f : Mast → Mast) : (s.updM k f).bootReported = s.bootReported := rfl
@[simp] theorem State.updM_heaps (k : Nat) (f : Mast → Mast) : (s.updM k f).heaps = s.heaps := rfl
@[simp] theorem State.updM_limit (k : Nat) (f : Mast → Mast) : (s.updM k f).limit = s.limit := rfl
@[simp] theorem State.updM_windowAt (k : Nat) (f : Mast → Mast) : (s.updM k f).windowAt = s.windowAt := rfl
@[simp] theorem State.updD_clk (k : Nat) (f : Die → Die) : (s.updD k f).clk = s.clk := rfl
@[simp] theorem State.updD_free (k : Nat) (f : Die → Die) : (s.updD k f).free = s.free := rfl
@[simp] theorem State.updD_order (k : Nat) (f : Die → Die) : (s.updD k f).order = s.order := rfl
@[simp] theorem State.updD_agenda (k : Nat) (f : Die → Die) : (s.updD k f).agenda = s.agenda := rfl
@[simp] theorem State.updD_cur (k : Nat) (f : Die → Die) : (s.updD k f).cur = s.cur := rfl
@[simp] theorem State.updD_booted (k : Nat) (f : Die → Die) : (s.updD k f).booted = s.booted := rfl
@[simp] theorem State.updD_mem (k : Nat) (f : Die → Die) : (s.updD k f).mem = s.mem := rfl
@[simp] theorem State.updD_memPoison (k : Nat) (f : Die → Die) : (s.updD k f).memPoison = s.memPoison := rfl
@[simp] theorem State.updD_spare (k : Nat) (f : Die → Die) : (s.updD k f).spare = s.spare := rfl
@[simp] theorem State.updD_l2 (k : Nat) (f : Die → Die) : (s.updD k f).l2 = s.l2 := rfl
@[simp] theorem State.updD_lineTs (k : Nat) (f : Die → Die) : (s.updD k f).lineTs = s.lineTs := rfl
@[simp] theorem State.updD_groups (k : Nat) (f : Die → Die) : (s.updD k f).groups = s.groups := rfl
@[simp] theorem State.updD_blocks (k : Nat) (f : Die → Die) : (s.updD k f).blocks = s.blocks := rfl
@[simp] theorem State.updD_launches (k : Nat) (f : Die → Die) : (s.updD k f).launches = s.launches := rfl
@[simp] theorem State.updD_nextBid (k : Nat) (f : Die → Die) : (s.updD k f).nextBid = s.nextBid := rfl
@[simp] theorem State.updD_nextLid (k : Nat) (f : Die → Die) : (s.updD k f).nextLid = s.nextLid := rfl
@[simp] theorem State.updD_clusters (k : Nat) (f : Die → Die) : (s.updD k f).clusters = s.clusters := rfl
@[simp] theorem State.updD_fns (k : Nat) (f : Die → Die) : (s.updD k f).fns = s.fns := rfl
@[simp] theorem State.updD_worlds (k : Nat) (f : Die → Die) : (s.updD k f).worlds = s.worlds := rfl
@[simp] theorem State.updD_debugOpen (k : Nat) (f : Die → Die) : (s.updD k f).debugOpen = s.debugOpen := rfl
@[simp] theorem State.updD_keyDraws (k : Nat) (f : Die → Die) : (s.updD k f).keyDraws = s.keyDraws := rfl
@[simp] theorem State.updD_links (k : Nat) (f : Die → Die) : (s.updD k f).links = s.links := rfl
@[simp] theorem State.updD_routing (k : Nat) (f : Die → Die) : (s.updD k f).routing = s.routing := rfl
@[simp] theorem State.updD_device (k : Nat) (f : Die → Die) : (s.updD k f).device = s.device := rfl
@[simp] theorem State.updD_eth (k : Nat) (f : Die → Die) : (s.updD k f).eth = s.eth := rfl
@[simp] theorem State.updD_rootLinks (k : Nat) (f : Die → Die) : (s.updD k f).rootLinks = s.rootLinks := rfl
@[simp] theorem State.updD_dropcnt (k : Nat) (f : Die → Die) : (s.updD k f).dropcnt = s.dropcnt := rfl
@[simp] theorem State.updD_urcnt (k : Nat) (f : Die → Die) : (s.updD k f).urcnt = s.urcnt := rfl
@[simp] theorem State.updD_rcctl (k : Nat) (f : Die → Die) : (s.updD k f).rcctl = s.rcctl := rfl
@[simp] theorem State.updD_files (k : Nat) (f : Die → Die) : (s.updD k f).files = s.files := rfl
@[simp] theorem State.updD_sockets (k : Nat) (f : Die → Die) : (s.updD k f).sockets = s.sockets := rfl
@[simp] theorem State.updD_calls (k : Nat) (f : Die → Die) : (s.updD k f).calls = s.calls := rfl
@[simp] theorem State.updD_readyShards (k : Nat) (f : Die → Die) : (s.updD k f).readyShards = s.readyShards := rfl
@[simp] theorem State.updD_retried (k : Nat) (f : Die → Die) : (s.updD k f).retried = s.retried := rfl
@[simp] theorem State.updD_fwmeas (k : Nat) (f : Die → Die) : (s.updD k f).fwmeas = s.fwmeas := rfl
@[simp] theorem State.updD_reply (k : Nat) (f : Die → Die) : (s.updD k f).reply = s.reply := rfl
@[simp] theorem State.updD_phase (k : Nat) (f : Die → Die) : (s.updD k f).phase = s.phase := rfl
@[simp] theorem State.updD_cause (k : Nat) (f : Die → Die) : (s.updD k f).cause = s.cause := rfl
@[simp] theorem State.updD_estop (k : Nat) (f : Die → Die) : (s.updD k f).estop = s.estop := rfl
@[simp] theorem State.updD_estopAt (k : Nat) (f : Die → Die) : (s.updD k f).estopAt = s.estopAt := rfl
@[simp] theorem State.updD_throt (k : Nat) (f : Die → Die) : (s.updD k f).throt = s.throt := rfl
@[simp] theorem State.updD_hostless (k : Nat) (f : Die → Die) : (s.updD k f).hostless = s.hostless := rfl
@[simp] theorem State.updD_ready (k : Nat) (f : Die → Die) : (s.updD k f).ready = s.ready := rfl
@[simp] theorem State.updD_plimit (k : Nat) (f : Die → Die) : (s.updD k f).plimit = s.plimit := rfl
@[simp] theorem State.updD_pwr (k : Nat) (f : Die → Die) : (s.updD k f).pwr = s.pwr := rfl
@[simp] theorem State.updD_icore (k : Nat) (f : Die → Die) : (s.updD k f).icore = s.icore := rfl
@[simp] theorem State.updD_tmax (k : Nat) (f : Die → Die) : (s.updD k f).tmax = s.tmax := rfl
@[simp] theorem State.updD_ttrip (k : Nat) (f : Die → Die) : (s.updD k f).ttrip = s.ttrip := rfl
@[simp] theorem State.updD_flash (k : Nat) (f : Die → Die) : (s.updD k f).flash = s.flash := rfl
@[simp] theorem State.updD_tsTop (k : Nat) (f : Die → Die) : (s.updD k f).tsTop = s.tsTop := rfl
@[simp] theorem State.updD_dir (k : Nat) (f : Die → Die) : (s.updD k f).dir = s.dir := rfl
@[simp] theorem State.updD_lineUse (k : Nat) (f : Die → Die) : (s.updD k f).lineUse = s.lineUse := rfl
@[simp] theorem State.updD_msc (k : Nat) (f : Die → Die) : (s.updD k f).msc = s.msc := rfl
@[simp] theorem State.updD_devHeld (k : Nat) (f : Die → Die) : (s.updD k f).devHeld = s.devHeld := rfl
@[simp] theorem State.updD_devCopy (k : Nat) (f : Die → Die) : (s.updD k f).devCopy = s.devCopy := rfl
@[simp] theorem State.updD_remote (k : Nat) (f : Die → Die) : (s.updD k f).remote = s.remote := rfl
@[simp] theorem State.updD_outbox (k : Nat) (f : Die → Die) : (s.updD k f).outbox = s.outbox := rfl
@[simp] theorem State.updD_farWaits (k : Nat) (f : Die → Die) : (s.updD k f).farWaits = s.farWaits := rfl
@[simp] theorem State.updD_farAnswers (k : Nat) (f : Die → Die) : (s.updD k f).farAnswers = s.farAnswers := rfl
@[simp] theorem State.updD_owes (k : Nat) (f : Die → Die) : (s.updD k f).owes = s.owes := rfl
@[simp] theorem State.updD_drives (k : Nat) (f : Die → Die) : (s.updD k f).drives = s.drives := rfl
@[simp] theorem State.updD_closedSockets (k : Nat) (f : Die → Die) : (s.updD k f).closedSockets = s.closedSockets := rfl
@[simp] theorem State.updD_served (k : Nat) (f : Die → Die) : (s.updD k f).served = s.served := rfl
@[simp] theorem State.updD_queues (k : Nat) (f : Die → Die) : (s.updD k f).queues = s.queues := rfl
@[simp] theorem State.updD_unforwarded (k : Nat) (f : Die → Die) : (s.updD k f).unforwarded = s.unforwarded := rfl
@[simp] theorem State.updD_bootWork (k : Nat) (f : Die → Die) : (s.updD k f).bootWork = s.bootWork := rfl
@[simp] theorem State.updD_bootReported (k : Nat) (f : Die → Die) : (s.updD k f).bootReported = s.bootReported := rfl
@[simp] theorem State.updD_heaps (k : Nat) (f : Die → Die) : (s.updD k f).heaps = s.heaps := rfl
@[simp] theorem State.updD_limit (k : Nat) (f : Die → Die) : (s.updD k f).limit = s.limit := rfl
@[simp] theorem State.updD_windowAt (k : Nat) (f : Die → Die) : (s.updD k f).windowAt = s.windowAt := rfl
@[simp] theorem State.updF_clk (k : Nat) (f : Fn → Fn) : (s.updF k f).clk = s.clk := rfl
@[simp] theorem State.updF_free (k : Nat) (f : Fn → Fn) : (s.updF k f).free = s.free := rfl
@[simp] theorem State.updF_order (k : Nat) (f : Fn → Fn) : (s.updF k f).order = s.order := rfl
@[simp] theorem State.updF_agenda (k : Nat) (f : Fn → Fn) : (s.updF k f).agenda = s.agenda := rfl
@[simp] theorem State.updF_cur (k : Nat) (f : Fn → Fn) : (s.updF k f).cur = s.cur := rfl
@[simp] theorem State.updF_booted (k : Nat) (f : Fn → Fn) : (s.updF k f).booted = s.booted := rfl
@[simp] theorem State.updF_mem (k : Nat) (f : Fn → Fn) : (s.updF k f).mem = s.mem := rfl
@[simp] theorem State.updF_memPoison (k : Nat) (f : Fn → Fn) : (s.updF k f).memPoison = s.memPoison := rfl
@[simp] theorem State.updF_spare (k : Nat) (f : Fn → Fn) : (s.updF k f).spare = s.spare := rfl
@[simp] theorem State.updF_l2 (k : Nat) (f : Fn → Fn) : (s.updF k f).l2 = s.l2 := rfl
@[simp] theorem State.updF_lineTs (k : Nat) (f : Fn → Fn) : (s.updF k f).lineTs = s.lineTs := rfl
@[simp] theorem State.updF_groups (k : Nat) (f : Fn → Fn) : (s.updF k f).groups = s.groups := rfl
@[simp] theorem State.updF_blocks (k : Nat) (f : Fn → Fn) : (s.updF k f).blocks = s.blocks := rfl
@[simp] theorem State.updF_launches (k : Nat) (f : Fn → Fn) : (s.updF k f).launches = s.launches := rfl
@[simp] theorem State.updF_nextBid (k : Nat) (f : Fn → Fn) : (s.updF k f).nextBid = s.nextBid := rfl
@[simp] theorem State.updF_nextLid (k : Nat) (f : Fn → Fn) : (s.updF k f).nextLid = s.nextLid := rfl
@[simp] theorem State.updF_clusters (k : Nat) (f : Fn → Fn) : (s.updF k f).clusters = s.clusters := rfl
@[simp] theorem State.updF_dies (k : Nat) (f : Fn → Fn) : (s.updF k f).dies = s.dies := rfl
@[simp] theorem State.updF_worlds (k : Nat) (f : Fn → Fn) : (s.updF k f).worlds = s.worlds := rfl
@[simp] theorem State.updF_debugOpen (k : Nat) (f : Fn → Fn) : (s.updF k f).debugOpen = s.debugOpen := rfl
@[simp] theorem State.updF_keyDraws (k : Nat) (f : Fn → Fn) : (s.updF k f).keyDraws = s.keyDraws := rfl
@[simp] theorem State.updF_links (k : Nat) (f : Fn → Fn) : (s.updF k f).links = s.links := rfl
@[simp] theorem State.updF_routing (k : Nat) (f : Fn → Fn) : (s.updF k f).routing = s.routing := rfl
@[simp] theorem State.updF_device (k : Nat) (f : Fn → Fn) : (s.updF k f).device = s.device := rfl
@[simp] theorem State.updF_eth (k : Nat) (f : Fn → Fn) : (s.updF k f).eth = s.eth := rfl
@[simp] theorem State.updF_rootLinks (k : Nat) (f : Fn → Fn) : (s.updF k f).rootLinks = s.rootLinks := rfl
@[simp] theorem State.updF_dropcnt (k : Nat) (f : Fn → Fn) : (s.updF k f).dropcnt = s.dropcnt := rfl
@[simp] theorem State.updF_urcnt (k : Nat) (f : Fn → Fn) : (s.updF k f).urcnt = s.urcnt := rfl
@[simp] theorem State.updF_rcctl (k : Nat) (f : Fn → Fn) : (s.updF k f).rcctl = s.rcctl := rfl
@[simp] theorem State.updF_files (k : Nat) (f : Fn → Fn) : (s.updF k f).files = s.files := rfl
@[simp] theorem State.updF_sockets (k : Nat) (f : Fn → Fn) : (s.updF k f).sockets = s.sockets := rfl
@[simp] theorem State.updF_calls (k : Nat) (f : Fn → Fn) : (s.updF k f).calls = s.calls := rfl
@[simp] theorem State.updF_readyShards (k : Nat) (f : Fn → Fn) : (s.updF k f).readyShards = s.readyShards := rfl
@[simp] theorem State.updF_retried (k : Nat) (f : Fn → Fn) : (s.updF k f).retried = s.retried := rfl
@[simp] theorem State.updF_fwmeas (k : Nat) (f : Fn → Fn) : (s.updF k f).fwmeas = s.fwmeas := rfl
@[simp] theorem State.updF_reply (k : Nat) (f : Fn → Fn) : (s.updF k f).reply = s.reply := rfl
@[simp] theorem State.updF_phase (k : Nat) (f : Fn → Fn) : (s.updF k f).phase = s.phase := rfl
@[simp] theorem State.updF_cause (k : Nat) (f : Fn → Fn) : (s.updF k f).cause = s.cause := rfl
@[simp] theorem State.updF_estop (k : Nat) (f : Fn → Fn) : (s.updF k f).estop = s.estop := rfl
@[simp] theorem State.updF_estopAt (k : Nat) (f : Fn → Fn) : (s.updF k f).estopAt = s.estopAt := rfl
@[simp] theorem State.updF_throt (k : Nat) (f : Fn → Fn) : (s.updF k f).throt = s.throt := rfl
@[simp] theorem State.updF_hostless (k : Nat) (f : Fn → Fn) : (s.updF k f).hostless = s.hostless := rfl
@[simp] theorem State.updF_ready (k : Nat) (f : Fn → Fn) : (s.updF k f).ready = s.ready := rfl
@[simp] theorem State.updF_plimit (k : Nat) (f : Fn → Fn) : (s.updF k f).plimit = s.plimit := rfl
@[simp] theorem State.updF_pwr (k : Nat) (f : Fn → Fn) : (s.updF k f).pwr = s.pwr := rfl
@[simp] theorem State.updF_icore (k : Nat) (f : Fn → Fn) : (s.updF k f).icore = s.icore := rfl
@[simp] theorem State.updF_tmax (k : Nat) (f : Fn → Fn) : (s.updF k f).tmax = s.tmax := rfl
@[simp] theorem State.updF_ttrip (k : Nat) (f : Fn → Fn) : (s.updF k f).ttrip = s.ttrip := rfl
@[simp] theorem State.updF_flash (k : Nat) (f : Fn → Fn) : (s.updF k f).flash = s.flash := rfl
@[simp] theorem State.updF_tsTop (k : Nat) (f : Fn → Fn) : (s.updF k f).tsTop = s.tsTop := rfl
@[simp] theorem State.updF_dir (k : Nat) (f : Fn → Fn) : (s.updF k f).dir = s.dir := rfl
@[simp] theorem State.updF_lineUse (k : Nat) (f : Fn → Fn) : (s.updF k f).lineUse = s.lineUse := rfl
@[simp] theorem State.updF_msc (k : Nat) (f : Fn → Fn) : (s.updF k f).msc = s.msc := rfl
@[simp] theorem State.updF_devHeld (k : Nat) (f : Fn → Fn) : (s.updF k f).devHeld = s.devHeld := rfl
@[simp] theorem State.updF_devCopy (k : Nat) (f : Fn → Fn) : (s.updF k f).devCopy = s.devCopy := rfl
@[simp] theorem State.updF_remote (k : Nat) (f : Fn → Fn) : (s.updF k f).remote = s.remote := rfl
@[simp] theorem State.updF_outbox (k : Nat) (f : Fn → Fn) : (s.updF k f).outbox = s.outbox := rfl
@[simp] theorem State.updF_farWaits (k : Nat) (f : Fn → Fn) : (s.updF k f).farWaits = s.farWaits := rfl
@[simp] theorem State.updF_farAnswers (k : Nat) (f : Fn → Fn) : (s.updF k f).farAnswers = s.farAnswers := rfl
@[simp] theorem State.updF_owes (k : Nat) (f : Fn → Fn) : (s.updF k f).owes = s.owes := rfl
@[simp] theorem State.updF_drives (k : Nat) (f : Fn → Fn) : (s.updF k f).drives = s.drives := rfl
@[simp] theorem State.updF_closedSockets (k : Nat) (f : Fn → Fn) : (s.updF k f).closedSockets = s.closedSockets := rfl
@[simp] theorem State.updF_served (k : Nat) (f : Fn → Fn) : (s.updF k f).served = s.served := rfl
@[simp] theorem State.updF_queues (k : Nat) (f : Fn → Fn) : (s.updF k f).queues = s.queues := rfl
@[simp] theorem State.updF_unforwarded (k : Nat) (f : Fn → Fn) : (s.updF k f).unforwarded = s.unforwarded := rfl
@[simp] theorem State.updF_bootWork (k : Nat) (f : Fn → Fn) : (s.updF k f).bootWork = s.bootWork := rfl
@[simp] theorem State.updF_bootReported (k : Nat) (f : Fn → Fn) : (s.updF k f).bootReported = s.bootReported := rfl
@[simp] theorem State.updF_heaps (k : Nat) (f : Fn → Fn) : (s.updF k f).heaps = s.heaps := rfl
@[simp] theorem State.updF_limit (k : Nat) (f : Fn → Fn) : (s.updF k f).limit = s.limit := rfl
@[simp] theorem State.updF_windowAt (k : Nat) (f : Fn → Fn) : (s.updF k f).windowAt = s.windowAt := rfl
@[simp] theorem State.updW_clk (k : Nat) (f : World → World) : (s.updW k f).clk = s.clk := rfl
@[simp] theorem State.updW_free (k : Nat) (f : World → World) : (s.updW k f).free = s.free := rfl
@[simp] theorem State.updW_order (k : Nat) (f : World → World) : (s.updW k f).order = s.order := rfl
@[simp] theorem State.updW_agenda (k : Nat) (f : World → World) : (s.updW k f).agenda = s.agenda := rfl
@[simp] theorem State.updW_cur (k : Nat) (f : World → World) : (s.updW k f).cur = s.cur := rfl
@[simp] theorem State.updW_booted (k : Nat) (f : World → World) : (s.updW k f).booted = s.booted := rfl
@[simp] theorem State.updW_mem (k : Nat) (f : World → World) : (s.updW k f).mem = s.mem := rfl
@[simp] theorem State.updW_memPoison (k : Nat) (f : World → World) : (s.updW k f).memPoison = s.memPoison := rfl
@[simp] theorem State.updW_spare (k : Nat) (f : World → World) : (s.updW k f).spare = s.spare := rfl
@[simp] theorem State.updW_l2 (k : Nat) (f : World → World) : (s.updW k f).l2 = s.l2 := rfl
@[simp] theorem State.updW_lineTs (k : Nat) (f : World → World) : (s.updW k f).lineTs = s.lineTs := rfl
@[simp] theorem State.updW_groups (k : Nat) (f : World → World) : (s.updW k f).groups = s.groups := rfl
@[simp] theorem State.updW_blocks (k : Nat) (f : World → World) : (s.updW k f).blocks = s.blocks := rfl
@[simp] theorem State.updW_launches (k : Nat) (f : World → World) : (s.updW k f).launches = s.launches := rfl
@[simp] theorem State.updW_nextBid (k : Nat) (f : World → World) : (s.updW k f).nextBid = s.nextBid := rfl
@[simp] theorem State.updW_nextLid (k : Nat) (f : World → World) : (s.updW k f).nextLid = s.nextLid := rfl
@[simp] theorem State.updW_clusters (k : Nat) (f : World → World) : (s.updW k f).clusters = s.clusters := rfl
@[simp] theorem State.updW_dies (k : Nat) (f : World → World) : (s.updW k f).dies = s.dies := rfl
@[simp] theorem State.updW_fns (k : Nat) (f : World → World) : (s.updW k f).fns = s.fns := rfl
@[simp] theorem State.updW_debugOpen (k : Nat) (f : World → World) : (s.updW k f).debugOpen = s.debugOpen := rfl
@[simp] theorem State.updW_keyDraws (k : Nat) (f : World → World) : (s.updW k f).keyDraws = s.keyDraws := rfl
@[simp] theorem State.updW_links (k : Nat) (f : World → World) : (s.updW k f).links = s.links := rfl
@[simp] theorem State.updW_routing (k : Nat) (f : World → World) : (s.updW k f).routing = s.routing := rfl
@[simp] theorem State.updW_device (k : Nat) (f : World → World) : (s.updW k f).device = s.device := rfl
@[simp] theorem State.updW_eth (k : Nat) (f : World → World) : (s.updW k f).eth = s.eth := rfl
@[simp] theorem State.updW_rootLinks (k : Nat) (f : World → World) : (s.updW k f).rootLinks = s.rootLinks := rfl
@[simp] theorem State.updW_dropcnt (k : Nat) (f : World → World) : (s.updW k f).dropcnt = s.dropcnt := rfl
@[simp] theorem State.updW_urcnt (k : Nat) (f : World → World) : (s.updW k f).urcnt = s.urcnt := rfl
@[simp] theorem State.updW_rcctl (k : Nat) (f : World → World) : (s.updW k f).rcctl = s.rcctl := rfl
@[simp] theorem State.updW_files (k : Nat) (f : World → World) : (s.updW k f).files = s.files := rfl
@[simp] theorem State.updW_sockets (k : Nat) (f : World → World) : (s.updW k f).sockets = s.sockets := rfl
@[simp] theorem State.updW_calls (k : Nat) (f : World → World) : (s.updW k f).calls = s.calls := rfl
@[simp] theorem State.updW_readyShards (k : Nat) (f : World → World) : (s.updW k f).readyShards = s.readyShards := rfl
@[simp] theorem State.updW_retried (k : Nat) (f : World → World) : (s.updW k f).retried = s.retried := rfl
@[simp] theorem State.updW_fwmeas (k : Nat) (f : World → World) : (s.updW k f).fwmeas = s.fwmeas := rfl
@[simp] theorem State.updW_reply (k : Nat) (f : World → World) : (s.updW k f).reply = s.reply := rfl
@[simp] theorem State.updW_phase (k : Nat) (f : World → World) : (s.updW k f).phase = s.phase := rfl
@[simp] theorem State.updW_cause (k : Nat) (f : World → World) : (s.updW k f).cause = s.cause := rfl
@[simp] theorem State.updW_estop (k : Nat) (f : World → World) : (s.updW k f).estop = s.estop := rfl
@[simp] theorem State.updW_estopAt (k : Nat) (f : World → World) : (s.updW k f).estopAt = s.estopAt := rfl
@[simp] theorem State.updW_throt (k : Nat) (f : World → World) : (s.updW k f).throt = s.throt := rfl
@[simp] theorem State.updW_hostless (k : Nat) (f : World → World) : (s.updW k f).hostless = s.hostless := rfl
@[simp] theorem State.updW_ready (k : Nat) (f : World → World) : (s.updW k f).ready = s.ready := rfl
@[simp] theorem State.updW_plimit (k : Nat) (f : World → World) : (s.updW k f).plimit = s.plimit := rfl
@[simp] theorem State.updW_pwr (k : Nat) (f : World → World) : (s.updW k f).pwr = s.pwr := rfl
@[simp] theorem State.updW_icore (k : Nat) (f : World → World) : (s.updW k f).icore = s.icore := rfl
@[simp] theorem State.updW_tmax (k : Nat) (f : World → World) : (s.updW k f).tmax = s.tmax := rfl
@[simp] theorem State.updW_ttrip (k : Nat) (f : World → World) : (s.updW k f).ttrip = s.ttrip := rfl
@[simp] theorem State.updW_flash (k : Nat) (f : World → World) : (s.updW k f).flash = s.flash := rfl
@[simp] theorem State.updW_tsTop (k : Nat) (f : World → World) : (s.updW k f).tsTop = s.tsTop := rfl
@[simp] theorem State.updW_dir (k : Nat) (f : World → World) : (s.updW k f).dir = s.dir := rfl
@[simp] theorem State.updW_lineUse (k : Nat) (f : World → World) : (s.updW k f).lineUse = s.lineUse := rfl
@[simp] theorem State.updW_msc (k : Nat) (f : World → World) : (s.updW k f).msc = s.msc := rfl
@[simp] theorem State.updW_devHeld (k : Nat) (f : World → World) : (s.updW k f).devHeld = s.devHeld := rfl
@[simp] theorem State.updW_devCopy (k : Nat) (f : World → World) : (s.updW k f).devCopy = s.devCopy := rfl
@[simp] theorem State.updW_remote (k : Nat) (f : World → World) : (s.updW k f).remote = s.remote := rfl
@[simp] theorem State.updW_outbox (k : Nat) (f : World → World) : (s.updW k f).outbox = s.outbox := rfl
@[simp] theorem State.updW_farWaits (k : Nat) (f : World → World) : (s.updW k f).farWaits = s.farWaits := rfl
@[simp] theorem State.updW_farAnswers (k : Nat) (f : World → World) : (s.updW k f).farAnswers = s.farAnswers := rfl
@[simp] theorem State.updW_owes (k : Nat) (f : World → World) : (s.updW k f).owes = s.owes := rfl
@[simp] theorem State.updW_drives (k : Nat) (f : World → World) : (s.updW k f).drives = s.drives := rfl
@[simp] theorem State.updW_closedSockets (k : Nat) (f : World → World) : (s.updW k f).closedSockets = s.closedSockets := rfl
@[simp] theorem State.updW_served (k : Nat) (f : World → World) : (s.updW k f).served = s.served := rfl
@[simp] theorem State.updW_queues (k : Nat) (f : World → World) : (s.updW k f).queues = s.queues := rfl
@[simp] theorem State.updW_unforwarded (k : Nat) (f : World → World) : (s.updW k f).unforwarded = s.unforwarded := rfl
@[simp] theorem State.updW_bootWork (k : Nat) (f : World → World) : (s.updW k f).bootWork = s.bootWork := rfl
@[simp] theorem State.updW_bootReported (k : Nat) (f : World → World) : (s.updW k f).bootReported = s.bootReported := rfl
@[simp] theorem State.updW_heaps (k : Nat) (f : World → World) : (s.updW k f).heaps = s.heaps := rfl
@[simp] theorem State.updW_limit (k : Nat) (f : World → World) : (s.updW k f).limit = s.limit := rfl
@[simp] theorem State.updW_windowAt (k : Nat) (f : World → World) : (s.updW k f).windowAt = s.windowAt := rfl
@[simp] theorem State.setG_clk (k : Nat) (x : Group) : (s.setG k x).clk = s.clk := rfl
@[simp] theorem State.setG_free (k : Nat) (x : Group) : (s.setG k x).free = s.free := rfl
@[simp] theorem State.setG_order (k : Nat) (x : Group) : (s.setG k x).order = s.order := rfl
@[simp] theorem State.setG_agenda (k : Nat) (x : Group) : (s.setG k x).agenda = s.agenda := rfl
@[simp] theorem State.setG_cur (k : Nat) (x : Group) : (s.setG k x).cur = s.cur := rfl
@[simp] theorem State.setG_booted (k : Nat) (x : Group) : (s.setG k x).booted = s.booted := rfl
@[simp] theorem State.setG_mem (k : Nat) (x : Group) : (s.setG k x).mem = s.mem := rfl
@[simp] theorem State.setG_memPoison (k : Nat) (x : Group) : (s.setG k x).memPoison = s.memPoison := rfl
@[simp] theorem State.setG_spare (k : Nat) (x : Group) : (s.setG k x).spare = s.spare := rfl
@[simp] theorem State.setG_l2 (k : Nat) (x : Group) : (s.setG k x).l2 = s.l2 := rfl
@[simp] theorem State.setG_lineTs (k : Nat) (x : Group) : (s.setG k x).lineTs = s.lineTs := rfl
@[simp] theorem State.setG_blocks (k : Nat) (x : Group) : (s.setG k x).blocks = s.blocks := rfl
@[simp] theorem State.setG_launches (k : Nat) (x : Group) : (s.setG k x).launches = s.launches := rfl
@[simp] theorem State.setG_nextBid (k : Nat) (x : Group) : (s.setG k x).nextBid = s.nextBid := rfl
@[simp] theorem State.setG_nextLid (k : Nat) (x : Group) : (s.setG k x).nextLid = s.nextLid := rfl
@[simp] theorem State.setG_clusters (k : Nat) (x : Group) : (s.setG k x).clusters = s.clusters := rfl
@[simp] theorem State.setG_dies (k : Nat) (x : Group) : (s.setG k x).dies = s.dies := rfl
@[simp] theorem State.setG_fns (k : Nat) (x : Group) : (s.setG k x).fns = s.fns := rfl
@[simp] theorem State.setG_worlds (k : Nat) (x : Group) : (s.setG k x).worlds = s.worlds := rfl
@[simp] theorem State.setG_debugOpen (k : Nat) (x : Group) : (s.setG k x).debugOpen = s.debugOpen := rfl
@[simp] theorem State.setG_keyDraws (k : Nat) (x : Group) : (s.setG k x).keyDraws = s.keyDraws := rfl
@[simp] theorem State.setG_links (k : Nat) (x : Group) : (s.setG k x).links = s.links := rfl
@[simp] theorem State.setG_routing (k : Nat) (x : Group) : (s.setG k x).routing = s.routing := rfl
@[simp] theorem State.setG_device (k : Nat) (x : Group) : (s.setG k x).device = s.device := rfl
@[simp] theorem State.setG_eth (k : Nat) (x : Group) : (s.setG k x).eth = s.eth := rfl
@[simp] theorem State.setG_rootLinks (k : Nat) (x : Group) : (s.setG k x).rootLinks = s.rootLinks := rfl
@[simp] theorem State.setG_dropcnt (k : Nat) (x : Group) : (s.setG k x).dropcnt = s.dropcnt := rfl
@[simp] theorem State.setG_urcnt (k : Nat) (x : Group) : (s.setG k x).urcnt = s.urcnt := rfl
@[simp] theorem State.setG_rcctl (k : Nat) (x : Group) : (s.setG k x).rcctl = s.rcctl := rfl
@[simp] theorem State.setG_files (k : Nat) (x : Group) : (s.setG k x).files = s.files := rfl
@[simp] theorem State.setG_sockets (k : Nat) (x : Group) : (s.setG k x).sockets = s.sockets := rfl
@[simp] theorem State.setG_calls (k : Nat) (x : Group) : (s.setG k x).calls = s.calls := rfl
@[simp] theorem State.setG_readyShards (k : Nat) (x : Group) : (s.setG k x).readyShards = s.readyShards := rfl
@[simp] theorem State.setG_retried (k : Nat) (x : Group) : (s.setG k x).retried = s.retried := rfl
@[simp] theorem State.setG_fwmeas (k : Nat) (x : Group) : (s.setG k x).fwmeas = s.fwmeas := rfl
@[simp] theorem State.setG_reply (k : Nat) (x : Group) : (s.setG k x).reply = s.reply := rfl
@[simp] theorem State.setG_phase (k : Nat) (x : Group) : (s.setG k x).phase = s.phase := rfl
@[simp] theorem State.setG_cause (k : Nat) (x : Group) : (s.setG k x).cause = s.cause := rfl
@[simp] theorem State.setG_estop (k : Nat) (x : Group) : (s.setG k x).estop = s.estop := rfl
@[simp] theorem State.setG_estopAt (k : Nat) (x : Group) : (s.setG k x).estopAt = s.estopAt := rfl
@[simp] theorem State.setG_throt (k : Nat) (x : Group) : (s.setG k x).throt = s.throt := rfl
@[simp] theorem State.setG_hostless (k : Nat) (x : Group) : (s.setG k x).hostless = s.hostless := rfl
@[simp] theorem State.setG_ready (k : Nat) (x : Group) : (s.setG k x).ready = s.ready := rfl
@[simp] theorem State.setG_plimit (k : Nat) (x : Group) : (s.setG k x).plimit = s.plimit := rfl
@[simp] theorem State.setG_pwr (k : Nat) (x : Group) : (s.setG k x).pwr = s.pwr := rfl
@[simp] theorem State.setG_icore (k : Nat) (x : Group) : (s.setG k x).icore = s.icore := rfl
@[simp] theorem State.setG_tmax (k : Nat) (x : Group) : (s.setG k x).tmax = s.tmax := rfl
@[simp] theorem State.setG_ttrip (k : Nat) (x : Group) : (s.setG k x).ttrip = s.ttrip := rfl
@[simp] theorem State.setG_flash (k : Nat) (x : Group) : (s.setG k x).flash = s.flash := rfl
@[simp] theorem State.setG_tsTop (k : Nat) (x : Group) : (s.setG k x).tsTop = s.tsTop := rfl
@[simp] theorem State.setG_dir (k : Nat) (x : Group) : (s.setG k x).dir = s.dir := rfl
@[simp] theorem State.setG_lineUse (k : Nat) (x : Group) : (s.setG k x).lineUse = s.lineUse := rfl
@[simp] theorem State.setG_msc (k : Nat) (x : Group) : (s.setG k x).msc = s.msc := rfl
@[simp] theorem State.setG_devHeld (k : Nat) (x : Group) : (s.setG k x).devHeld = s.devHeld := rfl
@[simp] theorem State.setG_devCopy (k : Nat) (x : Group) : (s.setG k x).devCopy = s.devCopy := rfl
@[simp] theorem State.setG_remote (k : Nat) (x : Group) : (s.setG k x).remote = s.remote := rfl
@[simp] theorem State.setG_outbox (k : Nat) (x : Group) : (s.setG k x).outbox = s.outbox := rfl
@[simp] theorem State.setG_farWaits (k : Nat) (x : Group) : (s.setG k x).farWaits = s.farWaits := rfl
@[simp] theorem State.setG_farAnswers (k : Nat) (x : Group) : (s.setG k x).farAnswers = s.farAnswers := rfl
@[simp] theorem State.setG_owes (k : Nat) (x : Group) : (s.setG k x).owes = s.owes := rfl
@[simp] theorem State.setG_drives (k : Nat) (x : Group) : (s.setG k x).drives = s.drives := rfl
@[simp] theorem State.setG_closedSockets (k : Nat) (x : Group) : (s.setG k x).closedSockets = s.closedSockets := rfl
@[simp] theorem State.setG_served (k : Nat) (x : Group) : (s.setG k x).served = s.served := rfl
@[simp] theorem State.setG_queues (k : Nat) (x : Group) : (s.setG k x).queues = s.queues := rfl
@[simp] theorem State.setG_unforwarded (k : Nat) (x : Group) : (s.setG k x).unforwarded = s.unforwarded := rfl
@[simp] theorem State.setG_bootWork (k : Nat) (x : Group) : (s.setG k x).bootWork = s.bootWork := rfl
@[simp] theorem State.setG_bootReported (k : Nat) (x : Group) : (s.setG k x).bootReported = s.bootReported := rfl
@[simp] theorem State.setG_heaps (k : Nat) (x : Group) : (s.setG k x).heaps = s.heaps := rfl
@[simp] theorem State.setG_limit (k : Nat) (x : Group) : (s.setG k x).limit = s.limit := rfl
@[simp] theorem State.setG_windowAt (k : Nat) (x : Group) : (s.setG k x).windowAt = s.windowAt := rfl
@[simp] theorem Group.setV_bid (l r : Nat) (x : Word) : (g.setV l r x).bid = g.bid := rfl
@[simp] theorem Group.setV_num (l r : Nat) (x : Word) : (g.setV l r x).num = g.num := rfl
@[simp] theorem Group.setV_cluster (l r : Nat) (x : Word) : (g.setV l r x).cluster = g.cluster := rfl
@[simp] theorem Group.setV_sp (l r : Nat) (x : Word) : (g.setV l r x).sp = g.sp := rfl
@[simp] theorem Group.setV_slot (l r : Nat) (x : Word) : (g.setV l r x).slot = g.slot := rfl
@[simp] theorem Group.setV_s (l r : Nat) (x : Word) : (g.setV l r x).s = g.s := rfl
@[simp] theorem Group.setV_p (l r : Nat) (x : Word) : (g.setV l r x).p = g.p := rfl
@[simp] theorem Group.setV_k (l r : Nat) (x : Word) : (g.setV l r x).k = g.k := rfl
@[simp] theorem Group.setV_tile (l r : Nat) (x : Word) : (g.setV l r x).tile = g.tile := rfl
@[simp] theorem Group.setV_acc (l r : Nat) (x : Word) : (g.setV l r x).acc = g.acc := rfl
@[simp] theorem Group.setV_rs (l r : Nat) (x : Word) : (g.setV l r x).rs = g.rs := rfl
@[simp] theorem Group.setV_cs (l r : Nat) (x : Word) : (g.setV l r x).cs = g.cs := rfl
@[simp] theorem Group.setV_accStatus (l r : Nat) (x : Word) : (g.setV l r x).accStatus = g.accStatus := rfl
@[simp] theorem Group.setV_j (l r : Nat) (x : Word) : (g.setV l r x).j = g.j := rfl
@[simp] theorem Group.setV_q (l r : Nat) (x : Word) : (g.setV l r x).q = g.q := rfl
@[simp] theorem Group.setV_pc (l r : Nat) (x : Word) : (g.setV l r x).pc = g.pc := rfl
@[simp] theorem Group.setV_meet (l r : Nat) (x : Word) : (g.setV l r x).meet = g.meet := rfl
@[simp] theorem Group.setV_stack (l r : Nat) (x : Word) : (g.setV l r x).stack = g.stack := rfl
@[simp] theorem Group.setV_spill (l r : Nat) (x : Word) : (g.setV l r x).spill = g.spill := rfl
@[simp] theorem Group.setV_exited (l r : Nat) (x : Word) : (g.setV l r x).exited = g.exited := rfl
@[simp] theorem Group.setV_helper (l r : Nat) (x : Word) : (g.setV l r x).helper = g.helper := rfl
@[simp] theorem Group.setV_gstat (l r : Nat) (x : Word) : (g.setV l r x).gstat = g.gstat := rfl
@[simp] theorem Group.setV_hold (l r : Nat) (x : Word) : (g.setV l r x).hold = g.hold := rfl
@[simp] theorem Group.setV_transient (l r : Nat) (x : Word) : (g.setV l r x).transient = g.transient := rfl
@[simp] theorem Group.setV_pending (l r : Nat) (x : Word) : (g.setV l r x).pending = g.pending := rfl
@[simp] theorem Group.setV_replay (l r : Nat) (x : Word) : (g.setV l r x).replay = g.replay := rfl
@[simp] theorem Group.setV_awaits (l r : Nat) (x : Word) : (g.setV l r x).awaits = g.awaits := rfl
@[simp] theorem Group.setV_fills (l r : Nat) (x : Word) : (g.setV l r x).fills = g.fills := rfl
@[simp] theorem Group.setV_pipe (l r : Nat) (x : Word) : (g.setV l r x).pipe = g.pipe := rfl
@[simp] theorem Group.setV_late (l r : Nat) (x : Word) : (g.setV l r x).late = g.late := rfl
@[simp] theorem Group.setV_event (l r : Nat) (x : Word) : (g.setV l r x).event = g.event := rfl
@[simp] theorem Group.setV_lastFault (l r : Nat) (x : Word) : (g.setV l r x).lastFault = g.lastFault := rfl
@[simp] theorem Group.setV_sideCount (l r : Nat) (x : Word) : (g.setV l r x).sideCount = g.sideCount := rfl
@[simp] theorem Group.setV_planeOwed (l r : Nat) (x : Word) : (g.setV l r x).planeOwed = g.planeOwed := rfl
@[simp] theorem Group.setV_phase (l r : Nat) (x : Word) : (g.setV l r x).phase = g.phase := rfl
@[simp] theorem Group.setV_waiting (l r : Nat) (x : Word) : (g.setV l r x).waiting = g.waiting := rfl
@[simp] theorem Group.setV_waitPc (l r : Nat) (x : Word) : (g.setV l r x).waitPc = g.waitPc := rfl
@[simp] theorem Group.setV_halted (l r : Nat) (x : Word) : (g.setV l r x).halted = g.halted := rfl
@[simp] theorem Group.setV_active (l r : Nat) (x : Word) : (g.setV l r x).active = g.active := rfl
@[simp] theorem Group.setV_age (l r : Nat) (x : Word) : (g.setV l r x).age = g.age := rfl
@[simp] theorem Group.setV_since (l r : Nat) (x : Word) : (g.setV l r x).since = g.since := rfl
@[simp] theorem Group.setV_entered (l r : Nat) (x : Word) : (g.setV l r x).entered = g.entered := rfl
@[simp] theorem Group.setV_ts (l r : Nat) (x : Word) : (g.setV l r x).ts = g.ts := rfl
@[simp] theorem Group.setV_spilling (l r : Nat) (x : Word) : (g.setV l r x).spilling = g.spilling := rfl
@[simp] theorem Group.setV_acqAt (l r : Nat) (x : Word) : (g.setV l r x).acqAt = g.acqAt := rfl
@[simp] theorem Group.setV_byHalt (l r : Nat) (x : Word) : (g.setV l r x).byHalt = g.byHalt := rfl
@[simp] theorem Group.setV_errs (l r : Nat) (x : Word) : (g.setV l r x).errs = g.errs := rfl
@[simp] theorem Group.setS_bid (r : Nat) (x : Word) : (g.setS r x).bid = g.bid := rfl
@[simp] theorem Group.setS_num (r : Nat) (x : Word) : (g.setS r x).num = g.num := rfl
@[simp] theorem Group.setS_cluster (r : Nat) (x : Word) : (g.setS r x).cluster = g.cluster := rfl
@[simp] theorem Group.setS_sp (r : Nat) (x : Word) : (g.setS r x).sp = g.sp := rfl
@[simp] theorem Group.setS_slot (r : Nat) (x : Word) : (g.setS r x).slot = g.slot := rfl
@[simp] theorem Group.setS_v (r : Nat) (x : Word) : (g.setS r x).v = g.v := rfl
@[simp] theorem Group.setS_p (r : Nat) (x : Word) : (g.setS r x).p = g.p := rfl
@[simp] theorem Group.setS_k (r : Nat) (x : Word) : (g.setS r x).k = g.k := rfl
@[simp] theorem Group.setS_tile (r : Nat) (x : Word) : (g.setS r x).tile = g.tile := rfl
@[simp] theorem Group.setS_acc (r : Nat) (x : Word) : (g.setS r x).acc = g.acc := rfl
@[simp] theorem Group.setS_rs (r : Nat) (x : Word) : (g.setS r x).rs = g.rs := rfl
@[simp] theorem Group.setS_cs (r : Nat) (x : Word) : (g.setS r x).cs = g.cs := rfl
@[simp] theorem Group.setS_accStatus (r : Nat) (x : Word) : (g.setS r x).accStatus = g.accStatus := rfl
@[simp] theorem Group.setS_j (r : Nat) (x : Word) : (g.setS r x).j = g.j := rfl
@[simp] theorem Group.setS_q (r : Nat) (x : Word) : (g.setS r x).q = g.q := rfl
@[simp] theorem Group.setS_pc (r : Nat) (x : Word) : (g.setS r x).pc = g.pc := rfl
@[simp] theorem Group.setS_meet (r : Nat) (x : Word) : (g.setS r x).meet = g.meet := rfl
@[simp] theorem Group.setS_stack (r : Nat) (x : Word) : (g.setS r x).stack = g.stack := rfl
@[simp] theorem Group.setS_spill (r : Nat) (x : Word) : (g.setS r x).spill = g.spill := rfl
@[simp] theorem Group.setS_exited (r : Nat) (x : Word) : (g.setS r x).exited = g.exited := rfl
@[simp] theorem Group.setS_helper (r : Nat) (x : Word) : (g.setS r x).helper = g.helper := rfl
@[simp] theorem Group.setS_gstat (r : Nat) (x : Word) : (g.setS r x).gstat = g.gstat := rfl
@[simp] theorem Group.setS_hold (r : Nat) (x : Word) : (g.setS r x).hold = g.hold := rfl
@[simp] theorem Group.setS_transient (r : Nat) (x : Word) : (g.setS r x).transient = g.transient := rfl
@[simp] theorem Group.setS_pending (r : Nat) (x : Word) : (g.setS r x).pending = g.pending := rfl
@[simp] theorem Group.setS_replay (r : Nat) (x : Word) : (g.setS r x).replay = g.replay := rfl
@[simp] theorem Group.setS_awaits (r : Nat) (x : Word) : (g.setS r x).awaits = g.awaits := rfl
@[simp] theorem Group.setS_fills (r : Nat) (x : Word) : (g.setS r x).fills = g.fills := rfl
@[simp] theorem Group.setS_pipe (r : Nat) (x : Word) : (g.setS r x).pipe = g.pipe := rfl
@[simp] theorem Group.setS_late (r : Nat) (x : Word) : (g.setS r x).late = g.late := rfl
@[simp] theorem Group.setS_event (r : Nat) (x : Word) : (g.setS r x).event = g.event := rfl
@[simp] theorem Group.setS_lastFault (r : Nat) (x : Word) : (g.setS r x).lastFault = g.lastFault := rfl
@[simp] theorem Group.setS_sideCount (r : Nat) (x : Word) : (g.setS r x).sideCount = g.sideCount := rfl
@[simp] theorem Group.setS_planeOwed (r : Nat) (x : Word) : (g.setS r x).planeOwed = g.planeOwed := rfl
@[simp] theorem Group.setS_phase (r : Nat) (x : Word) : (g.setS r x).phase = g.phase := rfl
@[simp] theorem Group.setS_waiting (r : Nat) (x : Word) : (g.setS r x).waiting = g.waiting := rfl
@[simp] theorem Group.setS_waitPc (r : Nat) (x : Word) : (g.setS r x).waitPc = g.waitPc := rfl
@[simp] theorem Group.setS_halted (r : Nat) (x : Word) : (g.setS r x).halted = g.halted := rfl
@[simp] theorem Group.setS_active (r : Nat) (x : Word) : (g.setS r x).active = g.active := rfl
@[simp] theorem Group.setS_age (r : Nat) (x : Word) : (g.setS r x).age = g.age := rfl
@[simp] theorem Group.setS_since (r : Nat) (x : Word) : (g.setS r x).since = g.since := rfl
@[simp] theorem Group.setS_entered (r : Nat) (x : Word) : (g.setS r x).entered = g.entered := rfl
@[simp] theorem Group.setS_ts (r : Nat) (x : Word) : (g.setS r x).ts = g.ts := rfl
@[simp] theorem Group.setS_spilling (r : Nat) (x : Word) : (g.setS r x).spilling = g.spilling := rfl
@[simp] theorem Group.setS_acqAt (r : Nat) (x : Word) : (g.setS r x).acqAt = g.acqAt := rfl
@[simp] theorem Group.setS_byHalt (r : Nat) (x : Word) : (g.setS r x).byHalt = g.byHalt := rfl
@[simp] theorem Group.setS_errs (r : Nat) (x : Word) : (g.setS r x).errs = g.errs := rfl
@[simp] theorem Group.setPc_bid (m : Word) (x : DWord) : (g.setPc m x).bid = g.bid := rfl
@[simp] theorem Group.setPc_num (m : Word) (x : DWord) : (g.setPc m x).num = g.num := rfl
@[simp] theorem Group.setPc_cluster (m : Word) (x : DWord) : (g.setPc m x).cluster = g.cluster := rfl
@[simp] theorem Group.setPc_sp (m : Word) (x : DWord) : (g.setPc m x).sp = g.sp := rfl
@[simp] theorem Group.setPc_slot (m : Word) (x : DWord) : (g.setPc m x).slot = g.slot := rfl
@[simp] theorem Group.setPc_v (m : Word) (x : DWord) : (g.setPc m x).v = g.v := rfl
@[simp] theorem Group.setPc_s (m : Word) (x : DWord) : (g.setPc m x).s = g.s := rfl
@[simp] theorem Group.setPc_p (m : Word) (x : DWord) : (g.setPc m x).p = g.p := rfl
@[simp] theorem Group.setPc_k (m : Word) (x : DWord) : (g.setPc m x).k = g.k := rfl
@[simp] theorem Group.setPc_tile (m : Word) (x : DWord) : (g.setPc m x).tile = g.tile := rfl
@[simp] theorem Group.setPc_acc (m : Word) (x : DWord) : (g.setPc m x).acc = g.acc := rfl
@[simp] theorem Group.setPc_rs (m : Word) (x : DWord) : (g.setPc m x).rs = g.rs := rfl
@[simp] theorem Group.setPc_cs (m : Word) (x : DWord) : (g.setPc m x).cs = g.cs := rfl
@[simp] theorem Group.setPc_accStatus (m : Word) (x : DWord) : (g.setPc m x).accStatus = g.accStatus := rfl
@[simp] theorem Group.setPc_j (m : Word) (x : DWord) : (g.setPc m x).j = g.j := rfl
@[simp] theorem Group.setPc_q (m : Word) (x : DWord) : (g.setPc m x).q = g.q := rfl
@[simp] theorem Group.setPc_meet (m : Word) (x : DWord) : (g.setPc m x).meet = g.meet := rfl
@[simp] theorem Group.setPc_stack (m : Word) (x : DWord) : (g.setPc m x).stack = g.stack := rfl
@[simp] theorem Group.setPc_spill (m : Word) (x : DWord) : (g.setPc m x).spill = g.spill := rfl
@[simp] theorem Group.setPc_exited (m : Word) (x : DWord) : (g.setPc m x).exited = g.exited := rfl
@[simp] theorem Group.setPc_helper (m : Word) (x : DWord) : (g.setPc m x).helper = g.helper := rfl
@[simp] theorem Group.setPc_gstat (m : Word) (x : DWord) : (g.setPc m x).gstat = g.gstat := rfl
@[simp] theorem Group.setPc_hold (m : Word) (x : DWord) : (g.setPc m x).hold = g.hold := rfl
@[simp] theorem Group.setPc_transient (m : Word) (x : DWord) : (g.setPc m x).transient = g.transient := rfl
@[simp] theorem Group.setPc_pending (m : Word) (x : DWord) : (g.setPc m x).pending = g.pending := rfl
@[simp] theorem Group.setPc_replay (m : Word) (x : DWord) : (g.setPc m x).replay = g.replay := rfl
@[simp] theorem Group.setPc_awaits (m : Word) (x : DWord) : (g.setPc m x).awaits = g.awaits := rfl
@[simp] theorem Group.setPc_fills (m : Word) (x : DWord) : (g.setPc m x).fills = g.fills := rfl
@[simp] theorem Group.setPc_pipe (m : Word) (x : DWord) : (g.setPc m x).pipe = g.pipe := rfl
@[simp] theorem Group.setPc_late (m : Word) (x : DWord) : (g.setPc m x).late = g.late := rfl
@[simp] theorem Group.setPc_event (m : Word) (x : DWord) : (g.setPc m x).event = g.event := rfl
@[simp] theorem Group.setPc_lastFault (m : Word) (x : DWord) : (g.setPc m x).lastFault = g.lastFault := rfl
@[simp] theorem Group.setPc_sideCount (m : Word) (x : DWord) : (g.setPc m x).sideCount = g.sideCount := rfl
@[simp] theorem Group.setPc_planeOwed (m : Word) (x : DWord) : (g.setPc m x).planeOwed = g.planeOwed := rfl
@[simp] theorem Group.setPc_phase (m : Word) (x : DWord) : (g.setPc m x).phase = g.phase := rfl
@[simp] theorem Group.setPc_waiting (m : Word) (x : DWord) : (g.setPc m x).waiting = g.waiting := rfl
@[simp] theorem Group.setPc_waitPc (m : Word) (x : DWord) : (g.setPc m x).waitPc = g.waitPc := rfl
@[simp] theorem Group.setPc_halted (m : Word) (x : DWord) : (g.setPc m x).halted = g.halted := rfl
@[simp] theorem Group.setPc_active (m : Word) (x : DWord) : (g.setPc m x).active = g.active := rfl
@[simp] theorem Group.setPc_age (m : Word) (x : DWord) : (g.setPc m x).age = g.age := rfl
@[simp] theorem Group.setPc_since (m : Word) (x : DWord) : (g.setPc m x).since = g.since := rfl
@[simp] theorem Group.setPc_entered (m : Word) (x : DWord) : (g.setPc m x).entered = g.entered := rfl
@[simp] theorem Group.setPc_ts (m : Word) (x : DWord) : (g.setPc m x).ts = g.ts := rfl
@[simp] theorem Group.setPc_spilling (m : Word) (x : DWord) : (g.setPc m x).spilling = g.spilling := rfl
@[simp] theorem Group.setPc_acqAt (m : Word) (x : DWord) : (g.setPc m x).acqAt = g.acqAt := rfl
@[simp] theorem Group.setPc_byHalt (m : Word) (x : DWord) : (g.setPc m x).byHalt = g.byHalt := rfl
@[simp] theorem Group.setPc_errs (m : Word) (x : DWord) : (g.setPc m x).errs = g.errs := rfl
@[simp] theorem Group.setMeet_bid (l : Nat) (x : DWord) : (g.setMeet l x).bid = g.bid := rfl
@[simp] theorem Group.setMeet_num (l : Nat) (x : DWord) : (g.setMeet l x).num = g.num := rfl
@[simp] theorem Group.setMeet_cluster (l : Nat) (x : DWord) : (g.setMeet l x).cluster = g.cluster := rfl
@[simp] theorem Group.setMeet_sp (l : Nat) (x : DWord) : (g.setMeet l x).sp = g.sp := rfl
@[simp] theorem Group.setMeet_slot (l : Nat) (x : DWord) : (g.setMeet l x).slot = g.slot := rfl
@[simp] theorem Group.setMeet_v (l : Nat) (x : DWord) : (g.setMeet l x).v = g.v := rfl
@[simp] theorem Group.setMeet_s (l : Nat) (x : DWord) : (g.setMeet l x).s = g.s := rfl
@[simp] theorem Group.setMeet_p (l : Nat) (x : DWord) : (g.setMeet l x).p = g.p := rfl
@[simp] theorem Group.setMeet_k (l : Nat) (x : DWord) : (g.setMeet l x).k = g.k := rfl
@[simp] theorem Group.setMeet_tile (l : Nat) (x : DWord) : (g.setMeet l x).tile = g.tile := rfl
@[simp] theorem Group.setMeet_acc (l : Nat) (x : DWord) : (g.setMeet l x).acc = g.acc := rfl
@[simp] theorem Group.setMeet_rs (l : Nat) (x : DWord) : (g.setMeet l x).rs = g.rs := rfl
@[simp] theorem Group.setMeet_cs (l : Nat) (x : DWord) : (g.setMeet l x).cs = g.cs := rfl
@[simp] theorem Group.setMeet_accStatus (l : Nat) (x : DWord) : (g.setMeet l x).accStatus = g.accStatus := rfl
@[simp] theorem Group.setMeet_j (l : Nat) (x : DWord) : (g.setMeet l x).j = g.j := rfl
@[simp] theorem Group.setMeet_q (l : Nat) (x : DWord) : (g.setMeet l x).q = g.q := rfl
@[simp] theorem Group.setMeet_pc (l : Nat) (x : DWord) : (g.setMeet l x).pc = g.pc := rfl
@[simp] theorem Group.setMeet_stack (l : Nat) (x : DWord) : (g.setMeet l x).stack = g.stack := rfl
@[simp] theorem Group.setMeet_spill (l : Nat) (x : DWord) : (g.setMeet l x).spill = g.spill := rfl
@[simp] theorem Group.setMeet_exited (l : Nat) (x : DWord) : (g.setMeet l x).exited = g.exited := rfl
@[simp] theorem Group.setMeet_helper (l : Nat) (x : DWord) : (g.setMeet l x).helper = g.helper := rfl
@[simp] theorem Group.setMeet_gstat (l : Nat) (x : DWord) : (g.setMeet l x).gstat = g.gstat := rfl
@[simp] theorem Group.setMeet_hold (l : Nat) (x : DWord) : (g.setMeet l x).hold = g.hold := rfl
@[simp] theorem Group.setMeet_transient (l : Nat) (x : DWord) : (g.setMeet l x).transient = g.transient := rfl
@[simp] theorem Group.setMeet_pending (l : Nat) (x : DWord) : (g.setMeet l x).pending = g.pending := rfl
@[simp] theorem Group.setMeet_replay (l : Nat) (x : DWord) : (g.setMeet l x).replay = g.replay := rfl
@[simp] theorem Group.setMeet_awaits (l : Nat) (x : DWord) : (g.setMeet l x).awaits = g.awaits := rfl
@[simp] theorem Group.setMeet_fills (l : Nat) (x : DWord) : (g.setMeet l x).fills = g.fills := rfl
@[simp] theorem Group.setMeet_pipe (l : Nat) (x : DWord) : (g.setMeet l x).pipe = g.pipe := rfl
@[simp] theorem Group.setMeet_late (l : Nat) (x : DWord) : (g.setMeet l x).late = g.late := rfl
@[simp] theorem Group.setMeet_event (l : Nat) (x : DWord) : (g.setMeet l x).event = g.event := rfl
@[simp] theorem Group.setMeet_lastFault (l : Nat) (x : DWord) : (g.setMeet l x).lastFault = g.lastFault := rfl
@[simp] theorem Group.setMeet_sideCount (l : Nat) (x : DWord) : (g.setMeet l x).sideCount = g.sideCount := rfl
@[simp] theorem Group.setMeet_planeOwed (l : Nat) (x : DWord) : (g.setMeet l x).planeOwed = g.planeOwed := rfl
@[simp] theorem Group.setMeet_phase (l : Nat) (x : DWord) : (g.setMeet l x).phase = g.phase := rfl
@[simp] theorem Group.setMeet_waiting (l : Nat) (x : DWord) : (g.setMeet l x).waiting = g.waiting := rfl
@[simp] theorem Group.setMeet_waitPc (l : Nat) (x : DWord) : (g.setMeet l x).waitPc = g.waitPc := rfl
@[simp] theorem Group.setMeet_halted (l : Nat) (x : DWord) : (g.setMeet l x).halted = g.halted := rfl
@[simp] theorem Group.setMeet_active (l : Nat) (x : DWord) : (g.setMeet l x).active = g.active := rfl
@[simp] theorem Group.setMeet_age (l : Nat) (x : DWord) : (g.setMeet l x).age = g.age := rfl
@[simp] theorem Group.setMeet_since (l : Nat) (x : DWord) : (g.setMeet l x).since = g.since := rfl
@[simp] theorem Group.setMeet_entered (l : Nat) (x : DWord) : (g.setMeet l x).entered = g.entered := rfl
@[simp] theorem Group.setMeet_ts (l : Nat) (x : DWord) : (g.setMeet l x).ts = g.ts := rfl
@[simp] theorem Group.setMeet_spilling (l : Nat) (x : DWord) : (g.setMeet l x).spilling = g.spilling := rfl
@[simp] theorem Group.setMeet_acqAt (l : Nat) (x : DWord) : (g.setMeet l x).acqAt = g.acqAt := rfl
@[simp] theorem Group.setMeet_byHalt (l : Nat) (x : DWord) : (g.setMeet l x).byHalt = g.byHalt := rfl
@[simp] theorem Group.setMeet_errs (l : Nat) (x : DWord) : (g.setMeet l x).errs = g.errs := rfl
@[simp] theorem Group.setStack_bid (l : Nat) (x : List DWord) : (g.setStack l x).bid = g.bid := rfl
@[simp] theorem Group.setStack_num (l : Nat) (x : List DWord) : (g.setStack l x).num = g.num := rfl
@[simp] theorem Group.setStack_cluster (l : Nat) (x : List DWord) : (g.setStack l x).cluster = g.cluster := rfl
@[simp] theorem Group.setStack_sp (l : Nat) (x : List DWord) : (g.setStack l x).sp = g.sp := rfl
@[simp] theorem Group.setStack_slot (l : Nat) (x : List DWord) : (g.setStack l x).slot = g.slot := rfl
@[simp] theorem Group.setStack_v (l : Nat) (x : List DWord) : (g.setStack l x).v = g.v := rfl
@[simp] theorem Group.setStack_s (l : Nat) (x : List DWord) : (g.setStack l x).s = g.s := rfl
@[simp] theorem Group.setStack_p (l : Nat) (x : List DWord) : (g.setStack l x).p = g.p := rfl
@[simp] theorem Group.setStack_k (l : Nat) (x : List DWord) : (g.setStack l x).k = g.k := rfl
@[simp] theorem Group.setStack_tile (l : Nat) (x : List DWord) : (g.setStack l x).tile = g.tile := rfl
@[simp] theorem Group.setStack_acc (l : Nat) (x : List DWord) : (g.setStack l x).acc = g.acc := rfl
@[simp] theorem Group.setStack_rs (l : Nat) (x : List DWord) : (g.setStack l x).rs = g.rs := rfl
@[simp] theorem Group.setStack_cs (l : Nat) (x : List DWord) : (g.setStack l x).cs = g.cs := rfl
@[simp] theorem Group.setStack_accStatus (l : Nat) (x : List DWord) : (g.setStack l x).accStatus = g.accStatus := rfl
@[simp] theorem Group.setStack_j (l : Nat) (x : List DWord) : (g.setStack l x).j = g.j := rfl
@[simp] theorem Group.setStack_q (l : Nat) (x : List DWord) : (g.setStack l x).q = g.q := rfl
@[simp] theorem Group.setStack_pc (l : Nat) (x : List DWord) : (g.setStack l x).pc = g.pc := rfl
@[simp] theorem Group.setStack_meet (l : Nat) (x : List DWord) : (g.setStack l x).meet = g.meet := rfl
@[simp] theorem Group.setStack_spill (l : Nat) (x : List DWord) : (g.setStack l x).spill = g.spill := rfl
@[simp] theorem Group.setStack_exited (l : Nat) (x : List DWord) : (g.setStack l x).exited = g.exited := rfl
@[simp] theorem Group.setStack_helper (l : Nat) (x : List DWord) : (g.setStack l x).helper = g.helper := rfl
@[simp] theorem Group.setStack_gstat (l : Nat) (x : List DWord) : (g.setStack l x).gstat = g.gstat := rfl
@[simp] theorem Group.setStack_hold (l : Nat) (x : List DWord) : (g.setStack l x).hold = g.hold := rfl
@[simp] theorem Group.setStack_transient (l : Nat) (x : List DWord) : (g.setStack l x).transient = g.transient := rfl
@[simp] theorem Group.setStack_pending (l : Nat) (x : List DWord) : (g.setStack l x).pending = g.pending := rfl
@[simp] theorem Group.setStack_replay (l : Nat) (x : List DWord) : (g.setStack l x).replay = g.replay := rfl
@[simp] theorem Group.setStack_awaits (l : Nat) (x : List DWord) : (g.setStack l x).awaits = g.awaits := rfl
@[simp] theorem Group.setStack_fills (l : Nat) (x : List DWord) : (g.setStack l x).fills = g.fills := rfl
@[simp] theorem Group.setStack_pipe (l : Nat) (x : List DWord) : (g.setStack l x).pipe = g.pipe := rfl
@[simp] theorem Group.setStack_late (l : Nat) (x : List DWord) : (g.setStack l x).late = g.late := rfl
@[simp] theorem Group.setStack_event (l : Nat) (x : List DWord) : (g.setStack l x).event = g.event := rfl
@[simp] theorem Group.setStack_lastFault (l : Nat) (x : List DWord) : (g.setStack l x).lastFault = g.lastFault := rfl
@[simp] theorem Group.setStack_sideCount (l : Nat) (x : List DWord) : (g.setStack l x).sideCount = g.sideCount := rfl
@[simp] theorem Group.setStack_planeOwed (l : Nat) (x : List DWord) : (g.setStack l x).planeOwed = g.planeOwed := rfl
@[simp] theorem Group.setStack_phase (l : Nat) (x : List DWord) : (g.setStack l x).phase = g.phase := rfl
@[simp] theorem Group.setStack_waiting (l : Nat) (x : List DWord) : (g.setStack l x).waiting = g.waiting := rfl
@[simp] theorem Group.setStack_waitPc (l : Nat) (x : List DWord) : (g.setStack l x).waitPc = g.waitPc := rfl
@[simp] theorem Group.setStack_halted (l : Nat) (x : List DWord) : (g.setStack l x).halted = g.halted := rfl
@[simp] theorem Group.setStack_active (l : Nat) (x : List DWord) : (g.setStack l x).active = g.active := rfl
@[simp] theorem Group.setStack_age (l : Nat) (x : List DWord) : (g.setStack l x).age = g.age := rfl
@[simp] theorem Group.setStack_since (l : Nat) (x : List DWord) : (g.setStack l x).since = g.since := rfl
@[simp] theorem Group.setStack_entered (l : Nat) (x : List DWord) : (g.setStack l x).entered = g.entered := rfl
@[simp] theorem Group.setStack_ts (l : Nat) (x : List DWord) : (g.setStack l x).ts = g.ts := rfl
@[simp] theorem Group.setStack_spilling (l : Nat) (x : List DWord) : (g.setStack l x).spilling = g.spilling := rfl
@[simp] theorem Group.setStack_acqAt (l : Nat) (x : List DWord) : (g.setStack l x).acqAt = g.acqAt := rfl
@[simp] theorem Group.setStack_byHalt (l : Nat) (x : List DWord) : (g.setStack l x).byHalt = g.byHalt := rfl
@[simp] theorem Group.setStack_errs (l : Nat) (x : List DWord) : (g.setStack l x).errs = g.errs := rfl
@[simp] theorem Group.setSpill_bid (l : Nat) (x : Nat) : (g.setSpill l x).bid = g.bid := rfl
@[simp] theorem Group.setSpill_num (l : Nat) (x : Nat) : (g.setSpill l x).num = g.num := rfl
@[simp] theorem Group.setSpill_cluster (l : Nat) (x : Nat) : (g.setSpill l x).cluster = g.cluster := rfl
@[simp] theorem Group.setSpill_sp (l : Nat) (x : Nat) : (g.setSpill l x).sp = g.sp := rfl
@[simp] theorem Group.setSpill_slot (l : Nat) (x : Nat) : (g.setSpill l x).slot = g.slot := rfl
@[simp] theorem Group.setSpill_v (l : Nat) (x : Nat) : (g.setSpill l x).v = g.v := rfl
@[simp] theorem Group.setSpill_s (l : Nat) (x : Nat) : (g.setSpill l x).s = g.s := rfl
@[simp] theorem Group.setSpill_p (l : Nat) (x : Nat) : (g.setSpill l x).p = g.p := rfl
@[simp] theorem Group.setSpill_k (l : Nat) (x : Nat) : (g.setSpill l x).k = g.k := rfl
@[simp] theorem Group.setSpill_tile (l : Nat) (x : Nat) : (g.setSpill l x).tile = g.tile := rfl
@[simp] theorem Group.setSpill_acc (l : Nat) (x : Nat) : (g.setSpill l x).acc = g.acc := rfl
@[simp] theorem Group.setSpill_rs (l : Nat) (x : Nat) : (g.setSpill l x).rs = g.rs := rfl
@[simp] theorem Group.setSpill_cs (l : Nat) (x : Nat) : (g.setSpill l x).cs = g.cs := rfl
@[simp] theorem Group.setSpill_accStatus (l : Nat) (x : Nat) : (g.setSpill l x).accStatus = g.accStatus := rfl
@[simp] theorem Group.setSpill_j (l : Nat) (x : Nat) : (g.setSpill l x).j = g.j := rfl
@[simp] theorem Group.setSpill_q (l : Nat) (x : Nat) : (g.setSpill l x).q = g.q := rfl
@[simp] theorem Group.setSpill_pc (l : Nat) (x : Nat) : (g.setSpill l x).pc = g.pc := rfl
@[simp] theorem Group.setSpill_meet (l : Nat) (x : Nat) : (g.setSpill l x).meet = g.meet := rfl
@[simp] theorem Group.setSpill_stack (l : Nat) (x : Nat) : (g.setSpill l x).stack = g.stack := rfl
@[simp] theorem Group.setSpill_exited (l : Nat) (x : Nat) : (g.setSpill l x).exited = g.exited := rfl
@[simp] theorem Group.setSpill_helper (l : Nat) (x : Nat) : (g.setSpill l x).helper = g.helper := rfl
@[simp] theorem Group.setSpill_gstat (l : Nat) (x : Nat) : (g.setSpill l x).gstat = g.gstat := rfl
@[simp] theorem Group.setSpill_hold (l : Nat) (x : Nat) : (g.setSpill l x).hold = g.hold := rfl
@[simp] theorem Group.setSpill_transient (l : Nat) (x : Nat) : (g.setSpill l x).transient = g.transient := rfl
@[simp] theorem Group.setSpill_pending (l : Nat) (x : Nat) : (g.setSpill l x).pending = g.pending := rfl
@[simp] theorem Group.setSpill_replay (l : Nat) (x : Nat) : (g.setSpill l x).replay = g.replay := rfl
@[simp] theorem Group.setSpill_awaits (l : Nat) (x : Nat) : (g.setSpill l x).awaits = g.awaits := rfl
@[simp] theorem Group.setSpill_fills (l : Nat) (x : Nat) : (g.setSpill l x).fills = g.fills := rfl
@[simp] theorem Group.setSpill_pipe (l : Nat) (x : Nat) : (g.setSpill l x).pipe = g.pipe := rfl
@[simp] theorem Group.setSpill_late (l : Nat) (x : Nat) : (g.setSpill l x).late = g.late := rfl
@[simp] theorem Group.setSpill_event (l : Nat) (x : Nat) : (g.setSpill l x).event = g.event := rfl
@[simp] theorem Group.setSpill_lastFault (l : Nat) (x : Nat) : (g.setSpill l x).lastFault = g.lastFault := rfl
@[simp] theorem Group.setSpill_sideCount (l : Nat) (x : Nat) : (g.setSpill l x).sideCount = g.sideCount := rfl
@[simp] theorem Group.setSpill_planeOwed (l : Nat) (x : Nat) : (g.setSpill l x).planeOwed = g.planeOwed := rfl
@[simp] theorem Group.setSpill_phase (l : Nat) (x : Nat) : (g.setSpill l x).phase = g.phase := rfl
@[simp] theorem Group.setSpill_waiting (l : Nat) (x : Nat) : (g.setSpill l x).waiting = g.waiting := rfl
@[simp] theorem Group.setSpill_waitPc (l : Nat) (x : Nat) : (g.setSpill l x).waitPc = g.waitPc := rfl
@[simp] theorem Group.setSpill_halted (l : Nat) (x : Nat) : (g.setSpill l x).halted = g.halted := rfl
@[simp] theorem Group.setSpill_active (l : Nat) (x : Nat) : (g.setSpill l x).active = g.active := rfl
@[simp] theorem Group.setSpill_age (l : Nat) (x : Nat) : (g.setSpill l x).age = g.age := rfl
@[simp] theorem Group.setSpill_since (l : Nat) (x : Nat) : (g.setSpill l x).since = g.since := rfl
@[simp] theorem Group.setSpill_entered (l : Nat) (x : Nat) : (g.setSpill l x).entered = g.entered := rfl
@[simp] theorem Group.setSpill_ts (l : Nat) (x : Nat) : (g.setSpill l x).ts = g.ts := rfl
@[simp] theorem Group.setSpill_spilling (l : Nat) (x : Nat) : (g.setSpill l x).spilling = g.spilling := rfl
@[simp] theorem Group.setSpill_acqAt (l : Nat) (x : Nat) : (g.setSpill l x).acqAt = g.acqAt := rfl
@[simp] theorem Group.setSpill_byHalt (l : Nat) (x : Nat) : (g.setSpill l x).byHalt = g.byHalt := rfl
@[simp] theorem Group.setSpill_errs (l : Nat) (x : Nat) : (g.setSpill l x).errs = g.errs := rfl
@[simp] theorem Group.setHold_bid (m : Word) (h : Hold) : (g.setHold m h).bid = g.bid := rfl
@[simp] theorem Group.setHold_num (m : Word) (h : Hold) : (g.setHold m h).num = g.num := rfl
@[simp] theorem Group.setHold_cluster (m : Word) (h : Hold) : (g.setHold m h).cluster = g.cluster := rfl
@[simp] theorem Group.setHold_sp (m : Word) (h : Hold) : (g.setHold m h).sp = g.sp := rfl
@[simp] theorem Group.setHold_slot (m : Word) (h : Hold) : (g.setHold m h).slot = g.slot := rfl
@[simp] theorem Group.setHold_v (m : Word) (h : Hold) : (g.setHold m h).v = g.v := rfl
@[simp] theorem Group.setHold_s (m : Word) (h : Hold) : (g.setHold m h).s = g.s := rfl
@[simp] theorem Group.setHold_p (m : Word) (h : Hold) : (g.setHold m h).p = g.p := rfl
@[simp] theorem Group.setHold_k (m : Word) (h : Hold) : (g.setHold m h).k = g.k := rfl
@[simp] theorem Group.setHold_tile (m : Word) (h : Hold) : (g.setHold m h).tile = g.tile := rfl
@[simp] theorem Group.setHold_acc (m : Word) (h : Hold) : (g.setHold m h).acc = g.acc := rfl
@[simp] theorem Group.setHold_rs (m : Word) (h : Hold) : (g.setHold m h).rs = g.rs := rfl
@[simp] theorem Group.setHold_cs (m : Word) (h : Hold) : (g.setHold m h).cs = g.cs := rfl
@[simp] theorem Group.setHold_accStatus (m : Word) (h : Hold) : (g.setHold m h).accStatus = g.accStatus := rfl
@[simp] theorem Group.setHold_j (m : Word) (h : Hold) : (g.setHold m h).j = g.j := rfl
@[simp] theorem Group.setHold_q (m : Word) (h : Hold) : (g.setHold m h).q = g.q := rfl
@[simp] theorem Group.setHold_pc (m : Word) (h : Hold) : (g.setHold m h).pc = g.pc := rfl
@[simp] theorem Group.setHold_meet (m : Word) (h : Hold) : (g.setHold m h).meet = g.meet := rfl
@[simp] theorem Group.setHold_stack (m : Word) (h : Hold) : (g.setHold m h).stack = g.stack := rfl
@[simp] theorem Group.setHold_spill (m : Word) (h : Hold) : (g.setHold m h).spill = g.spill := rfl
@[simp] theorem Group.setHold_exited (m : Word) (h : Hold) : (g.setHold m h).exited = g.exited := rfl
@[simp] theorem Group.setHold_helper (m : Word) (h : Hold) : (g.setHold m h).helper = g.helper := rfl
@[simp] theorem Group.setHold_gstat (m : Word) (h : Hold) : (g.setHold m h).gstat = g.gstat := rfl
@[simp] theorem Group.setHold_transient (m : Word) (h : Hold) : (g.setHold m h).transient = g.transient := rfl
@[simp] theorem Group.setHold_pending (m : Word) (h : Hold) : (g.setHold m h).pending = g.pending := rfl
@[simp] theorem Group.setHold_replay (m : Word) (h : Hold) : (g.setHold m h).replay = g.replay := rfl
@[simp] theorem Group.setHold_awaits (m : Word) (h : Hold) : (g.setHold m h).awaits = g.awaits := rfl
@[simp] theorem Group.setHold_fills (m : Word) (h : Hold) : (g.setHold m h).fills = g.fills := rfl
@[simp] theorem Group.setHold_pipe (m : Word) (h : Hold) : (g.setHold m h).pipe = g.pipe := rfl
@[simp] theorem Group.setHold_late (m : Word) (h : Hold) : (g.setHold m h).late = g.late := rfl
@[simp] theorem Group.setHold_event (m : Word) (h : Hold) : (g.setHold m h).event = g.event := rfl
@[simp] theorem Group.setHold_lastFault (m : Word) (h : Hold) : (g.setHold m h).lastFault = g.lastFault := rfl
@[simp] theorem Group.setHold_sideCount (m : Word) (h : Hold) : (g.setHold m h).sideCount = g.sideCount := rfl
@[simp] theorem Group.setHold_planeOwed (m : Word) (h : Hold) : (g.setHold m h).planeOwed = g.planeOwed := rfl
@[simp] theorem Group.setHold_phase (m : Word) (h : Hold) : (g.setHold m h).phase = g.phase := rfl
@[simp] theorem Group.setHold_waiting (m : Word) (h : Hold) : (g.setHold m h).waiting = g.waiting := rfl
@[simp] theorem Group.setHold_waitPc (m : Word) (h : Hold) : (g.setHold m h).waitPc = g.waitPc := rfl
@[simp] theorem Group.setHold_halted (m : Word) (h : Hold) : (g.setHold m h).halted = g.halted := rfl
@[simp] theorem Group.setHold_active (m : Word) (h : Hold) : (g.setHold m h).active = g.active := rfl
@[simp] theorem Group.setHold_age (m : Word) (h : Hold) : (g.setHold m h).age = g.age := rfl
@[simp] theorem Group.setHold_since (m : Word) (h : Hold) : (g.setHold m h).since = g.since := rfl
@[simp] theorem Group.setHold_entered (m : Word) (h : Hold) : (g.setHold m h).entered = g.entered := rfl
@[simp] theorem Group.setHold_ts (m : Word) (h : Hold) : (g.setHold m h).ts = g.ts := rfl
@[simp] theorem Group.setHold_spilling (m : Word) (h : Hold) : (g.setHold m h).spilling = g.spilling := rfl
@[simp] theorem Group.setHold_acqAt (m : Word) (h : Hold) : (g.setHold m h).acqAt = g.acqAt := rfl
@[simp] theorem Group.setHold_byHalt (m : Word) (h : Hold) : (g.setHold m h).byHalt = g.byHalt := rfl
@[simp] theorem Group.setHold_errs (m : Word) (h : Hold) : (g.setHold m h).errs = g.errs := rfl
@[simp] theorem Group.setRejoin_bid (n : Nat) (x : Rejoin) : (g.setRejoin n x).bid = g.bid := rfl
@[simp] theorem Group.setRejoin_num (n : Nat) (x : Rejoin) : (g.setRejoin n x).num = g.num := rfl
@[simp] theorem Group.setRejoin_cluster (n : Nat) (x : Rejoin) : (g.setRejoin n x).cluster = g.cluster := rfl
@[simp] theorem Group.setRejoin_sp (n : Nat) (x : Rejoin) : (g.setRejoin n x).sp = g.sp := rfl
@[simp] theorem Group.setRejoin_slot (n : Nat) (x : Rejoin) : (g.setRejoin n x).slot = g.slot := rfl
@[simp] theorem Group.setRejoin_v (n : Nat) (x : Rejoin) : (g.setRejoin n x).v = g.v := rfl
@[simp] theorem Group.setRejoin_s (n : Nat) (x : Rejoin) : (g.setRejoin n x).s = g.s := rfl
@[simp] theorem Group.setRejoin_p (n : Nat) (x : Rejoin) : (g.setRejoin n x).p = g.p := rfl
@[simp] theorem Group.setRejoin_k (n : Nat) (x : Rejoin) : (g.setRejoin n x).k = g.k := rfl
@[simp] theorem Group.setRejoin_tile (n : Nat) (x : Rejoin) : (g.setRejoin n x).tile = g.tile := rfl
@[simp] theorem Group.setRejoin_acc (n : Nat) (x : Rejoin) : (g.setRejoin n x).acc = g.acc := rfl
@[simp] theorem Group.setRejoin_rs (n : Nat) (x : Rejoin) : (g.setRejoin n x).rs = g.rs := rfl
@[simp] theorem Group.setRejoin_cs (n : Nat) (x : Rejoin) : (g.setRejoin n x).cs = g.cs := rfl
@[simp] theorem Group.setRejoin_accStatus (n : Nat) (x : Rejoin) : (g.setRejoin n x).accStatus = g.accStatus := rfl
@[simp] theorem Group.setRejoin_q (n : Nat) (x : Rejoin) : (g.setRejoin n x).q = g.q := rfl
@[simp] theorem Group.setRejoin_pc (n : Nat) (x : Rejoin) : (g.setRejoin n x).pc = g.pc := rfl
@[simp] theorem Group.setRejoin_meet (n : Nat) (x : Rejoin) : (g.setRejoin n x).meet = g.meet := rfl
@[simp] theorem Group.setRejoin_stack (n : Nat) (x : Rejoin) : (g.setRejoin n x).stack = g.stack := rfl
@[simp] theorem Group.setRejoin_spill (n : Nat) (x : Rejoin) : (g.setRejoin n x).spill = g.spill := rfl
@[simp] theorem Group.setRejoin_exited (n : Nat) (x : Rejoin) : (g.setRejoin n x).exited = g.exited := rfl
@[simp] theorem Group.setRejoin_helper (n : Nat) (x : Rejoin) : (g.setRejoin n x).helper = g.helper := rfl
@[simp] theorem Group.setRejoin_gstat (n : Nat) (x : Rejoin) : (g.setRejoin n x).gstat = g.gstat := rfl
@[simp] theorem Group.setRejoin_hold (n : Nat) (x : Rejoin) : (g.setRejoin n x).hold = g.hold := rfl
@[simp] theorem Group.setRejoin_transient (n : Nat) (x : Rejoin) : (g.setRejoin n x).transient = g.transient := rfl
@[simp] theorem Group.setRejoin_pending (n : Nat) (x : Rejoin) : (g.setRejoin n x).pending = g.pending := rfl
@[simp] theorem Group.setRejoin_replay (n : Nat) (x : Rejoin) : (g.setRejoin n x).replay = g.replay := rfl
@[simp] theorem Group.setRejoin_awaits (n : Nat) (x : Rejoin) : (g.setRejoin n x).awaits = g.awaits := rfl
@[simp] theorem Group.setRejoin_fills (n : Nat) (x : Rejoin) : (g.setRejoin n x).fills = g.fills := rfl
@[simp] theorem Group.setRejoin_pipe (n : Nat) (x : Rejoin) : (g.setRejoin n x).pipe = g.pipe := rfl
@[simp] theorem Group.setRejoin_late (n : Nat) (x : Rejoin) : (g.setRejoin n x).late = g.late := rfl
@[simp] theorem Group.setRejoin_event (n : Nat) (x : Rejoin) : (g.setRejoin n x).event = g.event := rfl
@[simp] theorem Group.setRejoin_lastFault (n : Nat) (x : Rejoin) : (g.setRejoin n x).lastFault = g.lastFault := rfl
@[simp] theorem Group.setRejoin_sideCount (n : Nat) (x : Rejoin) : (g.setRejoin n x).sideCount = g.sideCount := rfl
@[simp] theorem Group.setRejoin_planeOwed (n : Nat) (x : Rejoin) : (g.setRejoin n x).planeOwed = g.planeOwed := rfl
@[simp] theorem Group.setRejoin_phase (n : Nat) (x : Rejoin) : (g.setRejoin n x).phase = g.phase := rfl
@[simp] theorem Group.setRejoin_waiting (n : Nat) (x : Rejoin) : (g.setRejoin n x).waiting = g.waiting := rfl
@[simp] theorem Group.setRejoin_waitPc (n : Nat) (x : Rejoin) : (g.setRejoin n x).waitPc = g.waitPc := rfl
@[simp] theorem Group.setRejoin_halted (n : Nat) (x : Rejoin) : (g.setRejoin n x).halted = g.halted := rfl
@[simp] theorem Group.setRejoin_active (n : Nat) (x : Rejoin) : (g.setRejoin n x).active = g.active := rfl
@[simp] theorem Group.setRejoin_age (n : Nat) (x : Rejoin) : (g.setRejoin n x).age = g.age := rfl
@[simp] theorem Group.setRejoin_since (n : Nat) (x : Rejoin) : (g.setRejoin n x).since = g.since := rfl
@[simp] theorem Group.setRejoin_entered (n : Nat) (x : Rejoin) : (g.setRejoin n x).entered = g.entered := rfl
@[simp] theorem Group.setRejoin_ts (n : Nat) (x : Rejoin) : (g.setRejoin n x).ts = g.ts := rfl
@[simp] theorem Group.setRejoin_spilling (n : Nat) (x : Rejoin) : (g.setRejoin n x).spilling = g.spilling := rfl
@[simp] theorem Group.setRejoin_acqAt (n : Nat) (x : Rejoin) : (g.setRejoin n x).acqAt = g.acqAt := rfl
@[simp] theorem Group.setRejoin_byHalt (n : Nat) (x : Rejoin) : (g.setRejoin n x).byHalt = g.byHalt := rfl
@[simp] theorem Group.setRejoin_errs (n : Nat) (x : Rejoin) : (g.setRejoin n x).errs = g.errs := rfl
@[simp] theorem Group.setTile_bid (a b c : Nat) (x : Word) : (g.setTile a b c x).bid = g.bid := rfl
@[simp] theorem Group.setTile_num (a b c : Nat) (x : Word) : (g.setTile a b c x).num = g.num := rfl
@[simp] theorem Group.setTile_cluster (a b c : Nat) (x : Word) : (g.setTile a b c x).cluster = g.cluster := rfl
@[simp] theorem Group.setTile_sp (a b c : Nat) (x : Word) : (g.setTile a b c x).sp = g.sp := rfl
@[simp] theorem Group.setTile_slot (a b c : Nat) (x : Word) : (g.setTile a b c x).slot = g.slot := rfl
@[simp] theorem Group.setTile_v (a b c : Nat) (x : Word) : (g.setTile a b c x).v = g.v := rfl
@[simp] theorem Group.setTile_s (a b c : Nat) (x : Word) : (g.setTile a b c x).s = g.s := rfl
@[simp] theorem Group.setTile_p (a b c : Nat) (x : Word) : (g.setTile a b c x).p = g.p := rfl
@[simp] theorem Group.setTile_k (a b c : Nat) (x : Word) : (g.setTile a b c x).k = g.k := rfl
@[simp] theorem Group.setTile_acc (a b c : Nat) (x : Word) : (g.setTile a b c x).acc = g.acc := rfl
@[simp] theorem Group.setTile_rs (a b c : Nat) (x : Word) : (g.setTile a b c x).rs = g.rs := rfl
@[simp] theorem Group.setTile_cs (a b c : Nat) (x : Word) : (g.setTile a b c x).cs = g.cs := rfl
@[simp] theorem Group.setTile_accStatus (a b c : Nat) (x : Word) : (g.setTile a b c x).accStatus = g.accStatus := rfl
@[simp] theorem Group.setTile_j (a b c : Nat) (x : Word) : (g.setTile a b c x).j = g.j := rfl
@[simp] theorem Group.setTile_q (a b c : Nat) (x : Word) : (g.setTile a b c x).q = g.q := rfl
@[simp] theorem Group.setTile_pc (a b c : Nat) (x : Word) : (g.setTile a b c x).pc = g.pc := rfl
@[simp] theorem Group.setTile_meet (a b c : Nat) (x : Word) : (g.setTile a b c x).meet = g.meet := rfl
@[simp] theorem Group.setTile_stack (a b c : Nat) (x : Word) : (g.setTile a b c x).stack = g.stack := rfl
@[simp] theorem Group.setTile_spill (a b c : Nat) (x : Word) : (g.setTile a b c x).spill = g.spill := rfl
@[simp] theorem Group.setTile_exited (a b c : Nat) (x : Word) : (g.setTile a b c x).exited = g.exited := rfl
@[simp] theorem Group.setTile_helper (a b c : Nat) (x : Word) : (g.setTile a b c x).helper = g.helper := rfl
@[simp] theorem Group.setTile_gstat (a b c : Nat) (x : Word) : (g.setTile a b c x).gstat = g.gstat := rfl
@[simp] theorem Group.setTile_hold (a b c : Nat) (x : Word) : (g.setTile a b c x).hold = g.hold := rfl
@[simp] theorem Group.setTile_transient (a b c : Nat) (x : Word) : (g.setTile a b c x).transient = g.transient := rfl
@[simp] theorem Group.setTile_pending (a b c : Nat) (x : Word) : (g.setTile a b c x).pending = g.pending := rfl
@[simp] theorem Group.setTile_replay (a b c : Nat) (x : Word) : (g.setTile a b c x).replay = g.replay := rfl
@[simp] theorem Group.setTile_awaits (a b c : Nat) (x : Word) : (g.setTile a b c x).awaits = g.awaits := rfl
@[simp] theorem Group.setTile_fills (a b c : Nat) (x : Word) : (g.setTile a b c x).fills = g.fills := rfl
@[simp] theorem Group.setTile_pipe (a b c : Nat) (x : Word) : (g.setTile a b c x).pipe = g.pipe := rfl
@[simp] theorem Group.setTile_late (a b c : Nat) (x : Word) : (g.setTile a b c x).late = g.late := rfl
@[simp] theorem Group.setTile_event (a b c : Nat) (x : Word) : (g.setTile a b c x).event = g.event := rfl
@[simp] theorem Group.setTile_lastFault (a b c : Nat) (x : Word) : (g.setTile a b c x).lastFault = g.lastFault := rfl
@[simp] theorem Group.setTile_sideCount (a b c : Nat) (x : Word) : (g.setTile a b c x).sideCount = g.sideCount := rfl
@[simp] theorem Group.setTile_planeOwed (a b c : Nat) (x : Word) : (g.setTile a b c x).planeOwed = g.planeOwed := rfl
@[simp] theorem Group.setTile_phase (a b c : Nat) (x : Word) : (g.setTile a b c x).phase = g.phase := rfl
@[simp] theorem Group.setTile_waiting (a b c : Nat) (x : Word) : (g.setTile a b c x).waiting = g.waiting := rfl
@[simp] theorem Group.setTile_waitPc (a b c : Nat) (x : Word) : (g.setTile a b c x).waitPc = g.waitPc := rfl
@[simp] theorem Group.setTile_halted (a b c : Nat) (x : Word) : (g.setTile a b c x).halted = g.halted := rfl
@[simp] theorem Group.setTile_active (a b c : Nat) (x : Word) : (g.setTile a b c x).active = g.active := rfl
@[simp] theorem Group.setTile_age (a b c : Nat) (x : Word) : (g.setTile a b c x).age = g.age := rfl
@[simp] theorem Group.setTile_since (a b c : Nat) (x : Word) : (g.setTile a b c x).since = g.since := rfl
@[simp] theorem Group.setTile_entered (a b c : Nat) (x : Word) : (g.setTile a b c x).entered = g.entered := rfl
@[simp] theorem Group.setTile_ts (a b c : Nat) (x : Word) : (g.setTile a b c x).ts = g.ts := rfl
@[simp] theorem Group.setTile_spilling (a b c : Nat) (x : Word) : (g.setTile a b c x).spilling = g.spilling := rfl
@[simp] theorem Group.setTile_acqAt (a b c : Nat) (x : Word) : (g.setTile a b c x).acqAt = g.acqAt := rfl
@[simp] theorem Group.setTile_byHalt (a b c : Nat) (x : Word) : (g.setTile a b c x).byHalt = g.byHalt := rfl
@[simp] theorem Group.setTile_errs (a b c : Nat) (x : Word) : (g.setTile a b c x).errs = g.errs := rfl
@[simp] theorem Group.sticky_bid (b : Nat) : (g.sticky b).bid = g.bid := rfl
@[simp] theorem Group.sticky_num (b : Nat) : (g.sticky b).num = g.num := rfl
@[simp] theorem Group.sticky_cluster (b : Nat) : (g.sticky b).cluster = g.cluster := rfl
@[simp] theorem Group.sticky_sp (b : Nat) : (g.sticky b).sp = g.sp := rfl
@[simp] theorem Group.sticky_slot (b : Nat) : (g.sticky b).slot = g.slot := rfl
@[simp] theorem Group.sticky_v (b : Nat) : (g.sticky b).v = g.v := rfl
@[simp] theorem Group.sticky_s (b : Nat) : (g.sticky b).s = g.s := rfl
@[simp] theorem Group.sticky_p (b : Nat) : (g.sticky b).p = g.p := rfl
@[simp] theorem Group.sticky_k (b : Nat) : (g.sticky b).k = g.k := rfl
@[simp] theorem Group.sticky_tile (b : Nat) : (g.sticky b).tile = g.tile := rfl
@[simp] theorem Group.sticky_acc (b : Nat) : (g.sticky b).acc = g.acc := rfl
@[simp] theorem Group.sticky_rs (b : Nat) : (g.sticky b).rs = g.rs := rfl
@[simp] theorem Group.sticky_cs (b : Nat) : (g.sticky b).cs = g.cs := rfl
@[simp] theorem Group.sticky_accStatus (b : Nat) : (g.sticky b).accStatus = g.accStatus := rfl
@[simp] theorem Group.sticky_j (b : Nat) : (g.sticky b).j = g.j := rfl
@[simp] theorem Group.sticky_q (b : Nat) : (g.sticky b).q = g.q := rfl
@[simp] theorem Group.sticky_pc (b : Nat) : (g.sticky b).pc = g.pc := rfl
@[simp] theorem Group.sticky_meet (b : Nat) : (g.sticky b).meet = g.meet := rfl
@[simp] theorem Group.sticky_stack (b : Nat) : (g.sticky b).stack = g.stack := rfl
@[simp] theorem Group.sticky_spill (b : Nat) : (g.sticky b).spill = g.spill := rfl
@[simp] theorem Group.sticky_exited (b : Nat) : (g.sticky b).exited = g.exited := rfl
@[simp] theorem Group.sticky_helper (b : Nat) : (g.sticky b).helper = g.helper := rfl
@[simp] theorem Group.sticky_hold (b : Nat) : (g.sticky b).hold = g.hold := rfl
@[simp] theorem Group.sticky_transient (b : Nat) : (g.sticky b).transient = g.transient := rfl
@[simp] theorem Group.sticky_pending (b : Nat) : (g.sticky b).pending = g.pending := rfl
@[simp] theorem Group.sticky_replay (b : Nat) : (g.sticky b).replay = g.replay := rfl
@[simp] theorem Group.sticky_awaits (b : Nat) : (g.sticky b).awaits = g.awaits := rfl
@[simp] theorem Group.sticky_fills (b : Nat) : (g.sticky b).fills = g.fills := rfl
@[simp] theorem Group.sticky_pipe (b : Nat) : (g.sticky b).pipe = g.pipe := rfl
@[simp] theorem Group.sticky_late (b : Nat) : (g.sticky b).late = g.late := rfl
@[simp] theorem Group.sticky_event (b : Nat) : (g.sticky b).event = g.event := rfl
@[simp] theorem Group.sticky_lastFault (b : Nat) : (g.sticky b).lastFault = g.lastFault := rfl
@[simp] theorem Group.sticky_sideCount (b : Nat) : (g.sticky b).sideCount = g.sideCount := rfl
@[simp] theorem Group.sticky_planeOwed (b : Nat) : (g.sticky b).planeOwed = g.planeOwed := rfl
@[simp] theorem Group.sticky_phase (b : Nat) : (g.sticky b).phase = g.phase := rfl
@[simp] theorem Group.sticky_waiting (b : Nat) : (g.sticky b).waiting = g.waiting := rfl
@[simp] theorem Group.sticky_waitPc (b : Nat) : (g.sticky b).waitPc = g.waitPc := rfl
@[simp] theorem Group.sticky_halted (b : Nat) : (g.sticky b).halted = g.halted := rfl
@[simp] theorem Group.sticky_active (b : Nat) : (g.sticky b).active = g.active := rfl
@[simp] theorem Group.sticky_age (b : Nat) : (g.sticky b).age = g.age := rfl
@[simp] theorem Group.sticky_since (b : Nat) : (g.sticky b).since = g.since := rfl
@[simp] theorem Group.sticky_entered (b : Nat) : (g.sticky b).entered = g.entered := rfl
@[simp] theorem Group.sticky_ts (b : Nat) : (g.sticky b).ts = g.ts := rfl
@[simp] theorem Group.sticky_spilling (b : Nat) : (g.sticky b).spilling = g.spilling := rfl
@[simp] theorem Group.sticky_acqAt (b : Nat) : (g.sticky b).acqAt = g.acqAt := rfl
@[simp] theorem Group.sticky_byHalt (b : Nat) : (g.sticky b).byHalt = g.byHalt := rfl
@[simp] theorem Group.sticky_errs (b : Nat) : (g.sticky b).errs = g.errs := rfl
@[simp] theorem Group.tickTransient_bid  : (g.tickTransient ).bid = g.bid := rfl
@[simp] theorem Group.tickTransient_num  : (g.tickTransient ).num = g.num := rfl
@[simp] theorem Group.tickTransient_cluster  : (g.tickTransient ).cluster = g.cluster := rfl
@[simp] theorem Group.tickTransient_sp  : (g.tickTransient ).sp = g.sp := rfl
@[simp] theorem Group.tickTransient_slot  : (g.tickTransient ).slot = g.slot := rfl
@[simp] theorem Group.tickTransient_v  : (g.tickTransient ).v = g.v := rfl
@[simp] theorem Group.tickTransient_s  : (g.tickTransient ).s = g.s := rfl
@[simp] theorem Group.tickTransient_p  : (g.tickTransient ).p = g.p := rfl
@[simp] theorem Group.tickTransient_k  : (g.tickTransient ).k = g.k := rfl
@[simp] theorem Group.tickTransient_tile  : (g.tickTransient ).tile = g.tile := rfl
@[simp] theorem Group.tickTransient_acc  : (g.tickTransient ).acc = g.acc := rfl
@[simp] theorem Group.tickTransient_rs  : (g.tickTransient ).rs = g.rs := rfl
@[simp] theorem Group.tickTransient_cs  : (g.tickTransient ).cs = g.cs := rfl
@[simp] theorem Group.tickTransient_accStatus  : (g.tickTransient ).accStatus = g.accStatus := rfl
@[simp] theorem Group.tickTransient_j  : (g.tickTransient ).j = g.j := rfl
@[simp] theorem Group.tickTransient_q  : (g.tickTransient ).q = g.q := rfl
@[simp] theorem Group.tickTransient_pc  : (g.tickTransient ).pc = g.pc := rfl
@[simp] theorem Group.tickTransient_meet  : (g.tickTransient ).meet = g.meet := rfl
@[simp] theorem Group.tickTransient_stack  : (g.tickTransient ).stack = g.stack := rfl
@[simp] theorem Group.tickTransient_spill  : (g.tickTransient ).spill = g.spill := rfl
@[simp] theorem Group.tickTransient_exited  : (g.tickTransient ).exited = g.exited := rfl
@[simp] theorem Group.tickTransient_helper  : (g.tickTransient ).helper = g.helper := rfl
@[simp] theorem Group.tickTransient_gstat  : (g.tickTransient ).gstat = g.gstat := rfl
@[simp] theorem Group.tickTransient_hold  : (g.tickTransient ).hold = g.hold := rfl
@[simp] theorem Group.tickTransient_pending  : (g.tickTransient ).pending = g.pending := rfl
@[simp] theorem Group.tickTransient_replay  : (g.tickTransient ).replay = g.replay := rfl
@[simp] theorem Group.tickTransient_awaits  : (g.tickTransient ).awaits = g.awaits := rfl
@[simp] theorem Group.tickTransient_fills  : (g.tickTransient ).fills = g.fills := rfl
@[simp] theorem Group.tickTransient_pipe  : (g.tickTransient ).pipe = g.pipe := rfl
@[simp] theorem Group.tickTransient_late  : (g.tickTransient ).late = g.late := rfl
@[simp] theorem Group.tickTransient_event  : (g.tickTransient ).event = g.event := rfl
@[simp] theorem Group.tickTransient_lastFault  : (g.tickTransient ).lastFault = g.lastFault := rfl
@[simp] theorem Group.tickTransient_sideCount  : (g.tickTransient ).sideCount = g.sideCount := rfl
@[simp] theorem Group.tickTransient_planeOwed  : (g.tickTransient ).planeOwed = g.planeOwed := rfl
@[simp] theorem Group.tickTransient_phase  : (g.tickTransient ).phase = g.phase := rfl
@[simp] theorem Group.tickTransient_waiting  : (g.tickTransient ).waiting = g.waiting := rfl
@[simp] theorem Group.tickTransient_waitPc  : (g.tickTransient ).waitPc = g.waitPc := rfl
@[simp] theorem Group.tickTransient_halted  : (g.tickTransient ).halted = g.halted := rfl
@[simp] theorem Group.tickTransient_active  : (g.tickTransient ).active = g.active := rfl
@[simp] theorem Group.tickTransient_age  : (g.tickTransient ).age = g.age := rfl
@[simp] theorem Group.tickTransient_since  : (g.tickTransient ).since = g.since := rfl
@[simp] theorem Group.tickTransient_entered  : (g.tickTransient ).entered = g.entered := rfl
@[simp] theorem Group.tickTransient_ts  : (g.tickTransient ).ts = g.ts := rfl
@[simp] theorem Group.tickTransient_spilling  : (g.tickTransient ).spilling = g.spilling := rfl
@[simp] theorem Group.tickTransient_acqAt  : (g.tickTransient ).acqAt = g.acqAt := rfl
@[simp] theorem Group.tickTransient_byHalt  : (g.tickTransient ).byHalt = g.byHalt := rfl
@[simp] theorem Group.tickTransient_errs  : (g.tickTransient ).errs = g.errs := rfl

/-! What the updated objects read as. -/

@[simp] theorem State.find_updG (k j : Nat) (f : Group → Group) :
    find (s.updG k f).groups j = if j = k then (find s.groups k).map f else find s.groups j := find_upd ..
@[simp] theorem State.find_updB (k j : Nat) (f : Block → Block) :
    find (s.updB k f).blocks j = if j = k then (find s.blocks k).map f else find s.blocks j := find_upd ..
@[simp] theorem State.find_updL (k j : Nat) (f : Launch → Launch) :
    find (s.updL k f).launches j = if j = k then (find s.launches k).map f else find s.launches j := find_upd ..
@[simp] theorem State.cluster_updC (k j : Nat) (f : Cluster → Cluster) :
    (s.updC k f).cluster j = if j = k then f (s.cluster k) else s.cluster j := by simp [State.cluster, State.updC]
@[simp] theorem State.mast_updM (k j : Nat) (f : Mast → Mast) :
    (s.updM k f).mast j = if j = k then f (s.mast k) else s.mast j := by
  simp only [State.mast, State.updM, State.cluster_updC]; split <;> rfl
@[simp] theorem State.mast_updC (k j : Nat) (f : Cluster → Cluster) :
    (s.updC k f).mast j = if j = k then (f (s.cluster k)).mast else s.mast j := by
  simp only [State.mast, State.cluster_updC]; split <;> rfl
@[simp] theorem State.die_updD (k j : Nat) (f : Die → Die) :
    (s.updD k f).die j = if j = k then f (s.die k) else s.die j := by simp [State.die, State.updD]
@[simp] theorem State.fn_updF (k j : Nat) (f : Fn → Fn) :
    (s.updF k f).fn j = if j = k then f (s.fn k) else s.fn j := by simp [State.fn, State.updF]
@[simp] theorem State.world_updW (k j : Nat) (f : World → World) :
    (s.updW k f).world j = if j = k then f (s.world k) else s.world j := by simp [State.world, State.updW]

theorem State.updG_updG (k : Nat) (f h : Group → Group) : (s.updG k f).updG k h = s.updG k fun x => h (f x) := by
  simp [State.updG, upd_upd]

/-- An update of a listed group sets it to what the update gives. -/
theorem State.updG_eq_setG {s : State} {k : Nat} {g : Group} (f : Group → Group) (h : find s.groups k = some g) :
    s.updG k f = s.setG k (f g) := by
  simp only [State.setG, State.updG]
  rw [upd_of_find s.groups k g (f g) f h rfl]

/-! Registers. -/

@[simp] theorem Group.sreg_setS (r r' : Nat) (x : Word) : (g.setS r x).sreg r' = if r' = r then x else g.sreg r' := by
  simp [Group.sreg, Group.setS]
@[simp] theorem Group.sreg_setV (l r r' : Nat) (x : Word) : (g.setV l r x).sreg r' = g.sreg r' := rfl
@[simp] theorem Group.pcOf_setV (l r l' : Nat) (x : Word) : (g.setV l r x).pcOf l' = g.pcOf l' := rfl
@[simp] theorem Group.meetOf_setMeet (l l' : Nat) (x : DWord) : (g.setMeet l x).meetOf l' = if l' = l then x else g.meetOf l' := by
  simp [Group.meetOf, Group.setMeet]
@[simp] theorem Group.stackOf_setStack (l l' : Nat) (x : List DWord) : (g.setStack l x).stackOf l' = if l' = l then x else g.stackOf l' := by
  simp [Group.stackOf, Group.setStack]
@[simp] theorem Group.spillOf_setSpill (l l' : Nat) (x : Nat) : (g.setSpill l x).spillOf l' = if l' = l then x else g.spillOf l' := by
  simp [Group.spillOf, Group.setSpill]
@[simp] theorem Group.rejoin_setRejoin (n n' : Nat) (x : Rejoin) : (g.setRejoin n x).rejoin n' = if n' = n then x else g.rejoin n' := by
  simp [Group.rejoin, Group.setRejoin]
@[simp] theorem Mast.sreg_setS (m : Mast) (r r' : Nat) (x : Word) : (m.setS r x).sreg r' = if r' = r then x else m.sreg r' := by
  simp [Mast.sreg, Mast.setS]

theorem Group.vreg_setV (l r l' r' : Nat) (x : Word) (hr : r < 64) (hr' : r' < 64) :
    (g.setV l r x).vreg l' r' = if l' = l ∧ r' = r then x else g.vreg l' r' := by
  simp only [Group.vreg, Group.setV, getD_setD]
  by_cases h : l' = l ∧ r' = r
  · obtain ⟨rfl, rfl⟩ := h; simp
  · rw [if_neg h, if_neg (by omega)]

/-- A lane number is in `lanesOf` exactly where its bit is set. -/
@[simp] theorem mem_lanesOf (m : Word) (l : Nat) : l ∈ lanesOf m ↔ l < 32 ∧ m.getLsbD l = true := by
  simp [lanesOf]

theorem getD_foldl_setD {α : Type} [DecidableEq α] (L : List Nat) (m : SMap α) (f : Nat → α) (d : α) (k : Nat) :
    getD (L.foldl (fun p l => setD p l (f l) d) m) k d = if k ∈ L then f k else getD m k d := by
  induction L generalizing m with
  | nil => simp
  | cons a r ih =>
    simp only [List.foldl_cons, ih, getD_setD, List.mem_cons]
    by_cases h : k ∈ r <;> by_cases h' : k = a <;> simp_all

theorem Group.pcOf_setPc (m : Word) (x : DWord) (l : Nat) (hl : l < 32) :
    (g.setPc m x).pcOf l = if m.getLsbD l then x else g.pcOf l := by
  simp only [Group.pcOf, Group.setPc]
  rw [getD_foldl_setD]
  simp [hl]

theorem Group.holdOf_setHold (m : Word) (h : Hold) (l : Nat) (hl : l < 32) :
    (g.setHold m h).holdOf l = if m.getLsbD l then h else g.holdOf l := by
  simp only [Group.holdOf, Group.setHold]
  rw [getD_foldl_setD]
  simp [hl]

end Sys2Proof.Machine
end

