-- ==== Sys2Proof/Laws/Issue.lean ====
section
/-!
SUPPORT. What issuing an instruction gives, once per shared operation: under the premises of the statements the body runs, on the group
made ready; and what the shared result operations leave.
-/
namespace Sys2Proof.Machine
open Sys2Proof

theorem State.unstall_eq {s : State} {gid : Nat} {pc : DWord} (h : s.cur = .group gid pc) :
    s.unstall gid = s.updG gid fun g => g.ready pc := by
  simp only [State.unstall, State.curPc, h]; rfl

/-- Where no entry of the group is poisoned, the body runs as it is (R381). -/
theorem Issue.clean_body {it : Issue} (h : it.g.errs = []) (i : Instr) (u : Uses) (gd : Nat) (uniform : Bool) (s : State) (body : Issue → State → State) :
    it.clean i u gd uniform s body = body it s := by simp [Issue.clean, h]

/-- A lane-set instruction that may issue and meets no issue fault runs its body. -/
theorem laneIssue_runs {s : State} {gid : Nat} {pc : DWord} {g : Group} {sw : Fin 2} (h : Issues s gid pc g sw)
    (i : Instr) (gd : Fin 8) (len : Nat) (u : Uses) (slots : Bool) (body : Issue → State → State)
    (hf : s.issueFault g i u slots = none) :
    laneIssue s i sw gd len u slots body =
      .next (body { gid := gid, g := g, pc := pc, len := len, I := g.issued pc, E := g.executing pc gd } (s.setG gid (g.begun pc))) := by
  have h1 := h.cur; have h2 := h.here; have h3 := h.lanes; have h4 := h.may; have h5 := h.free
  simp only [laneIssue, h1, h2, h4, h5, hf, h3]
  simp only [State.unstall_eq h1, State.updG_updG, Issue.clean_body (it := ⟨_, g, _, _, _, _⟩) h.clean]
  rw [State.updG_eq_setG _ h2]
  rfl

/-- No issue fault: no reserved use, slots accepted, registers within the budget (R59, R60). -/
theorem issueFault_none {s : State} {g : Group} {i : Instr} {u : Uses} {slots : Bool} (hw : i.wf = true) (hs : slots = true)
    (hu : u.within (s.variantOf g) = true) : s.issueFault g i u slots = none := by
  simp [State.issueFault, hw, hs, hu]

theorem State.updG_setG (s : State) (gid : Nat) (x : Group) (f : Group → Group) (g : Group) (h : find s.groups gid = some g) :
    (s.setG gid x).updG gid f = s.setG gid (f x) := by
  simp only [State.setG, State.updG_updG]

theorem foldl_setV_vreg (L : List Nat) (g : Group) (d : Nat) (f : Nat → Word) (l r : Nat) (hd : d < 64) (hr : r < 64) :
    (L.foldl (fun g l => g.setV l d (f l)) g).vreg l r = if l ∈ L ∧ r = d then f l else g.vreg l r := by
  induction L generalizing g with
  | nil => simp
  | cons a t ih =>
    simp only [List.foldl_cons, ih, Group.vreg_setV _ _ _ _ _ _ hd hr, List.mem_cons]
    by_cases h : l ∈ t <;> by_cases h' : l = a <;> by_cases h'' : r = d <;> simp_all

theorem foldl_setV_rest (L : List Nat) (g : Group) (d : Nat) (f : Nat → Word) :
    L.foldl (fun g l => g.setV l d (f l)) g = { g with v := (L.foldl (fun g l => g.setV l d (f l)) g).v } := by
  induction L generalizing g with
  | nil => rfl
  | cons a t ih => simp only [List.foldl_cons]; rw [ih]; rfl

theorem Group.put_rest (g : Group) (E : Word) (t : Fin 2) (d : Nat) (f : Nat → Word) :
    g.put E t d f = { g with v := (g.put E t d f).v, transient := (g.put E t d f).transient } := by
  unfold Group.put
  split
  · split <;> rfl
  · rw [foldl_setV_rest]

theorem Group.put_vreg (g : Group) (E : Word) (t : Fin 2) (d : Nat) (f : Nat → Word) (l r : Nat) (hl : l < 32) (hd : d < 64) (hr : r < 64) :
    (g.put E t d f).vreg l r = if t = 0 ∧ E.getLsbD l = true ∧ r = d then f l else g.vreg l r := by
  unfold Group.put
  split
  · rename_i h1
    have ht : ¬ t = 0 := by rintro rfl; exact absurd h1 (by decide)
    rw [if_neg (c := t = 0 ∧ _) (fun h => ht h.1)]; split <;> rfl
  · rw [foldl_setV_vreg _ _ _ _ _ _ hd hr]
    have : t = 0 := by omega
    simp [this, hl]

theorem Group.put_transient0 (g : Group) (E : Word) (d : Nat) (f : Nat → Word) : (g.put E 0 d f).transient = g.transient := by
  unfold Group.put
  rw [if_neg (by decide), foldl_setV_rest]

theorem getD_perLane (E : Word) (f : Nat → Word) (l : Nat) (hl : l < 32) :
    getD (perLane E f) l 0#32 = if E.getLsbD l then f l else 0#32 := by
  have key : ∀ L : List Nat, getD (L.map fun l => (l, f l)) l 0#32 = if l ∈ L then f l else 0#32 := by
    intro L
    induction L with
    | nil => rfl
    | cons a t ih =>
      simp only [List.map_cons, getD, ih, List.mem_cons]
      grind
  simp [perLane, key, hl]

theorem Group.put_readV1 (g : Group) (E : Word) (d : Nat) (f : Nat → Word) (l r : Nat) (hl : l < 32) :
    (g.put E 1 d f).readV l r = if E.getLsbD l = true ∧ r = d then f l else g.readV l r := by
  unfold Group.put
  rw [if_pos (by decide)]
  by_cases hE : E = 0#32
  · simp [hE]
  · rw [if_neg hE]
    simp only [Group.readV, List.find?_cons]
    by_cases h : E.getLsbD l = true ∧ r = d
    · obtain ⟨h1, rfl⟩ := h
      rw [if_pos ⟨h1, rfl⟩]
      simp only [decide_true, h1, Bool.and_self]
      rw [getD_perLane _ _ _ hl, if_pos h1]
    · rw [if_neg h]
      have : (decide (d = r) && E.getLsbD l) = false := by
        rcases Decidable.not_and_iff_not_or_not.mp h with h | h
        · simp [h]
        · simp [Ne.symm h]
      simp only [this]
      rfl

theorem Group.setPc_rest (g : Group) (m : Word) (x : DWord) : g.setPc m x = { g with pc := (g.setPc m x).pc } := rfl

theorem Group.ready_vreg (g : Group) (pc : DWord) (l r : Nat) : (g.ready pc).vreg l r = g.vreg l r := by unfold Group.ready; split <;> rfl
theorem Group.ready_pcOf (g : Group) (pc : DWord) (l : Nat) : (g.ready pc).pcOf l = g.pcOf l := by unfold Group.ready; split <;> rfl
theorem Group.begun_vreg (g : Group) (pc : DWord) (l r : Nat) : (g.begun pc).vreg l r = g.vreg l r := g.ready_vreg pc l r
theorem Group.begun_pcOf (g : Group) (pc : DWord) (l : Nat) : (g.begun pc).pcOf l = g.pcOf l := g.ready_pcOf pc l
theorem Group.begun_rest (g : Group) (pc : DWord) : g.begun pc = { g.ready pc with transient := (g.begun pc).transient } := rfl

/-- What writing a vector result and advancing leaves. -/
theorem Group.put_setPc_writesVec (g : Group) (pc : DWord) (I E : Word) (pc' : DWord) (t : Fin 2) (d : Nat) (f : Nat → Word) (hd : d < 64) :
    WritesVec g (((g.begun pc).put E t d f).setPc I pc') pc I E pc' t d f := by
  constructor
  · rw [Group.setPc_rest, Group.put_rest, Group.begun_rest]
  · intro l hl
    rw [Group.pcOf_setPc _ _ _ _ hl]
    have : ((g.begun pc).put E t d f).pcOf l = g.pcOf l := by rw [Group.put_rest]; exact g.begun_pcOf pc l
    rw [this]
  · intro l hl r hr
    have : (((g.begun pc).put E t d f).setPc I pc').vreg l r = ((g.begun pc).put E t d f).vreg l r := rfl
    rw [this, Group.put_vreg _ _ _ _ _ _ _ hl hd hr, Group.begun_vreg]
  · rintro rfl; exact Group.put_transient0 ..
  · rintro rfl l hl r hr; exact Group.put_readV1 _ _ _ _ _ _ hl

/-- A lane-set instruction with a vector result completes as `WritesVec` says. -/
theorem vectorOp_completes {s : State} {gid : Nat} {pc : DWord} {g : Group} {sw : Fin 2} (h : Issues s gid pc g sw)
    (i : Instr) (gd : Fin 8) (len : Nat) (u : Uses) (slots : Bool) (t : Fin 2) (d : Nat) (f : Group → Nat → Word) (hd : d < 64)
    (hf : s.issueFault g i u slots = none) :
    ∃ g', vectorOp s i sw gd len u slots t d f = .next (s.setG gid g') ∧
      WritesVec g g' pc (g.issued pc) (g.executing pc gd) (asPc (pc + BitVec.ofNat 64 len)) t d (f g) := by
  refine ⟨_, ?_, Group.put_setPc_writesVec g pc _ _ _ t d (f g) hd⟩
  rw [vectorOp, laneIssue_runs h _ _ _ _ _ _ hf]
  simp only [Issue.done, Issue.nextPc]
  rw [State.updG_setG _ _ _ _ g h.here]

/-! ### Uniform and privileged issue -/

/-- A uniform-set instruction of a group that may issue, meets no issue fault and is on runs its body on the readied group (R202). -/
theorem uniGroup_runs {s : State} {gid : Nat} {pc : DWord} {g : Group} {sw : Fin 2} (h : Issues s gid pc g sw)
    (i : Instr) (gd : Fin 8) (len : Nat) (u : Uses) (slots : Bool) (body : Issue → State → State)
    (hf : s.issueFault g i u slots = none) (hg : predOf g.k gd.val = true) (hs : g.issued pc &&& ~~~g.helper ≠ 0#32) :
    uniGroup s i sw gd len u slots gid pc body =
      .next (body { gid := gid, g := g, pc := pc, len := len, I := g.issued pc, E := g.issued pc } (s.setG gid (g.ready pc))) := by
  have h2 := h.here; have h3 := h.lanes; have h4 := h.may; have h5 := h.free
  simp only [uniGroup, h2, h4, h5, hf, hg]
  simp [h3, hs, State.unstall_eq h.cur, State.updG_eq_setG _ h2, Issue.clean_body (it := ⟨_, g, _, _, _, _⟩) h.clean]

/-- With its guard off, or with helper lanes only, the issued lanes go past it (R202). -/
theorem uniGroup_skips {s : State} {gid : Nat} {pc : DWord} {g : Group} {sw : Fin 2} (h : Issues s gid pc g sw)
    (i : Instr) (gd : Fin 8) (len : Nat) (u : Uses) (slots : Bool) (body : Issue → State → State)
    (hf : s.issueFault g i u slots = none) (hg : predOf g.k gd.val = false ∨ g.issued pc &&& ~~~g.helper = 0#32) :
    uniGroup s i sw gd len u slots gid pc body =
      .next (s.setG gid ((g.ready pc).setPc (g.issued pc) (asPc (pc + BitVec.ofNat 64 len)))) := by
  have h2 := h.here; have h3 := h.lanes; have h4 := h.may; have h5 := h.free
  simp only [uniGroup, h2, h4, h5, hf]
  rcases hg with hg | hg <;>
    simp [h3, hg, State.unstall_eq h.cur, State.updG_eq_setG _ h2, Issue.clean_body (it := ⟨_, g, _, _, _, _⟩) h.clean, Issue.past, Issue.nextPc,
      State.updG_setG _ _ _ _ g h2]

/-- A mast core that may run, with a well-formed instruction whose guard is on, runs the body (R203). -/
theorem uniMast_runs {s : State} {c : Nat} {m : Mast} {i : Instr} {gd : Fin 8} (h : RunsMast s c m i gd) (len : Nat)
    (body : Mast → State → Out) : uniMast s i gd len c body = body m s := by
  simp [uniMast, h.core, h.may, h.formed, h.guard]

/-- With its guard off a mast core goes past the instruction (R203). -/
theorem uniMast_skips {s : State} {c : Nat} {m : Mast} {i : Instr} {gd : Fin 8} (h : SkipsMast s c m i gd) (len : Nat)
    (body : Mast → State → Out) : uniMast s i gd len c body = .next (s.mastNext c len id) := by
  simp [uniMast, h.core, h.may, h.formed, h.guard]

/-- Who is current decides which issue a uniform instruction takes. -/
theorem uniIssue_group {s : State} {gid : Nat} {pc : DWord} (h : s.cur = .group gid pc) (i : Instr) (sw : Fin 2) (gd : Fin 8) (len : Nat)
    (u : Uses) (slots : Bool) (body : Issue → State → State) (mast : Nat → Mast → State → Out) (ok : Bool) :
    uniIssue s i sw gd len u slots body mast ok = uniGroup s i sw gd len u slots gid pc body := by simp only [uniIssue, h]

theorem uniIssue_mast {s : State} {c : Nat} (h : s.cur = .mast c) (i : Instr) (sw : Fin 2) (gd : Fin 8) (len : Nat)
    (u : Uses) (slots : Bool) (body : Issue → State → State) (mast : Nat → Mast → State → Out) (ok : Bool) :
    uniIssue s i sw gd len u slots body mast ok = uniMast s i gd len c (mast c) ok := by simp only [uniIssue, h]

theorem uniGroupOnly_group {s : State} {gid : Nat} {pc : DWord} (h : s.cur = .group gid pc) (i : Instr) (sw : Fin 2) (gd : Fin 8)
    (len : Nat) (u : Uses) (slots : Bool) (body : Issue → State → State) :
    uniGroupOnly s i sw gd len u slots body = uniGroup s i sw gd len u slots gid pc body := by simp only [uniGroupOnly, h]

/-- A privileged instruction of a privileged mast core that may run, with its guard on, runs its body (R24, R232). -/
theorem privIssue_runs {s : State} {c : Nat} {m : Mast} {i : Instr} {gd : Fin 8} (h : RunsMast s c m i gd) (hp : m.priv = true)
    (sw : Fin 2) (body : Nat → Mast → State → Out) : privIssue s i sw gd body = body c m s := by
  simp [privIssue, h.cur, h.core, h.may, hp, uniMast_runs h]

/-- In unprivileged mode it raises F_PRIV, before any other check (R59, R232). -/
theorem privIssue_unprivileged {s : State} {c : Nat} (h : s.cur = .mast c) (hm : (s.mast c).mayRun = true) (hp : (s.mast c).priv = false)
    (i : Instr) (sw : Fin 2) (gd : Fin 8) (body : Nat → Mast → State → Out) :
    privIssue s i sw gd body = .next (s.mastFault c 0x03 0#64 0#64) := by
  simp [privIssue, h, hm, hp]

/-- A group that may issue it, nothing that its switch marker waits for being outstanding, raises F_PRIV for its issued lanes (R55, R59, R232). -/
theorem privIssue_group {s : State} {gid : Nat} {pc : DWord} {g : Group} {sw : Fin 2} (h : Issues s gid pc g sw)
    (i : Instr) (gd : Fin 8) (body : Nat → Mast → State → Out) :
    privIssue s i sw gd body = .next ((s.setG gid (g.ready pc)).raise gid 0x03 (g.issued pc) pc 0#64 0#64) := by
  simp [privIssue, h.cur, h.here, h.may, h.lanes, h.free, State.unstall_eq h.cur, State.updG_eq_setG _ h.here]

end Sys2Proof.Machine
end

