-- ==== Sys2Proof/Laws/Memory.lean ====
section
/-!
SUPPORT. The places that write memory's cells, each with the lemma that it keeps memory's canonical form. Every other operation of the
machine reaches the cells through one of these.
-/
namespace Sys2Proof.Machine
open Sys2Proof

theorem sorted_filter {α : Type} (m : SMap α) (p : Nat × α → Bool) (h : sorted m = true) : sorted (m.filter p) = true := by
  induction m with
  | nil => rfl
  | cons e r ih =>
    obtain ⟨h1, h2⟩ := (sorted_cons _ _).mp h
    simp only [List.filter_cons]
    split
    · exact (sorted_cons _ _).mpr ⟨fun x hx => h1 x (List.mem_of_mem_filter hx), ih h2⟩
    · exact ih h2

/-- Taking bytes out keeps the form. -/
theorem Memory.wf_filter (m : List Host.Cell) (p : Host.Cell → Bool) (h : Memory.wf m = true) : Memory.wf (m.filter p) = true := by
  simp only [Memory.wf, Bool.and_eq_true, List.all_eq_true] at h ⊢
  exact ⟨sorted_filter _ _ h.1, fun e he => h.2 e (List.mem_of_mem_filter he)⟩

theorem Memory.wf_delIf (m : List Host.Cell) (p : Nat → Bool) (h : Memory.wf m = true) : Memory.wf (delIf m p) = true :=
  Memory.wf_filter m _ h

theorem State.reset_canonical : State.reset.canonical := rfl

theorem State.moduleReset_canonical {s : State} (h : s.canonical) : s.moduleReset.canonical := h

/-- A fold of operations that each keep the form keeps it. -/
theorem State.canonical_foldl {β : Type} (l : List β) (f : State → β → State) (hf : ∀ s x, s.canonical → (f s x).canonical) {s : State}
    (h : s.canonical) : (l.foldl f s).canonical := by
  induction l generalizing s with
  | nil => exact h
  | cons x r ih => exact ih (hf _ _ h)

theorem State.physSetByte_canonical (s : State) (pa : Nat) (b : Byte) (h : s.canonical) : (s.physSetByte pa b).canonical :=
  Memory.wf_write _ _ _ h

theorem State.physWrite_canonical (s : State) (pa : Nat) (bs : List Byte) (h : s.canonical) : (s.physWrite pa bs).canonical :=
  State.canonical_foldl _ _ (fun s i hs => State.physSetByte_canonical s (pa + i) (bs.getD i 0#8) hs) h

theorem State.sealLine_canonical (s : State) (world asid va line : Nat) (sealedPage : Bool) (plain : List (BitVec 128)) (h : s.canonical) :
    (s.sealLine world asid va line sealedPage plain).canonical := by
  unfold State.sealLine
  exact Memory.wf_foldl _ _ _ (fun m i hm => Memory.wf_writeLe 16 m _ _ hm) h

theorem State.mscDrop_canonical (s : State) (pa : Nat) (h : s.canonical) : (s.mscDrop pa).canonical := by
  unfold State.mscDrop
  split <;> exact h

theorem State.exchangeLine_canonical (s : State) (a b : Nat) (h : s.canonical) : (s.exchangeLine a b).canonical :=
  State.mscDrop_canonical _ b <| State.mscDrop_canonical _ a <| Memory.wf_foldl _ _ _ (fun m i hm => Memory.wf_write _ _ _ (Memory.wf_write _ _ _ hm)) h

/-- An inbound request over PCIe to a frame keeps the form (R346). -/
theorem inboundBytes_wf (m : List Host.Cell) (a : Nat) (bs : List Byte) (h : Memory.wf m = true) :
    Memory.wf ((List.range bs.length).foldl (fun (m : List Host.Cell) i => Memory.write m (a + i) (bs.getD i 0#8)) m) = true :=
  Memory.wf_foldl _ _ _ (fun _ _ hm => Memory.wf_write _ _ _ hm) h

theorem execPowerLoss_canonical (s t : State) (h : execPowerLoss s = .next t) : t.canonical := by
  cases h; rfl

end Sys2Proof.Machine
end

