-- ==== Sys2Proof/Tests/Slice0.lean ====
section
/-!
SUPPORT. Tests of the model. The words of the decode tests are laid out from R41 to R53 and the opcode maps of R57 and R58; the other
expected values are the spec's worked examples and hand calculations from the rules that each comment cites. The last part gives for
each statement of Certificates/Slice0/Obligations.lean states and operands that meet its hypotheses.
-/
open Sys2Proof Sys2Proof.Machine


section Checks
-- one theorem at a time: the kernel evaluates each test alone
set_option Elab.async false

theorem test_decodes_lane_integer :
  decodeWords 0x407D7F17 0 = .ok (.iadd { sw := 1, g := 7, e := 1, t := 1, d := 23, a := 60, b := 23 }) ∧
  decodeWords 0x40FCB172 0 = .ok (.isub { sw := 1, g := 7, e := 1, t := 1, d := 11, a := 5, b := 50 }) ∧
  decodeWords 0x412C7118 0 = .ok (.iadds { sw := 1, g := 2, e := 1, t := 1, d := 7, a := 4, b := 24 }) ∧
  decodeWords 0x41FF865D 0 = .ok (.isubs { sw := 1, g := 7, e := 1, t := 1, d := 56, a := 25, b := 29 }) ∧
  decodeWords 0x427FA8F4 0 = .ok (.imul { sw := 1, g := 7, e := 1, t := 1, d := 58, a := 35, b := 52 }) ∧
  decodeWords 0x42CE40C8 0 = .ok (.imulh { sw := 1, g := 4, e := 1, t := 1, d := 36, a := 3, b := 8 }) ∧
  decodeWords 0x436F1202 0 = .ok (.imad { sw := 1, g := 6, e := 1, t := 1, d := 49, a := 8, b := 2 }) ∧
  decodeWords 0x43BFCC32 0 = .ok (.imin { sw := 1, g := 3, e := 1, t := 1, d := 60, a := 48, b := 50 }) ∧
  decodeWords 0x441EB2E7 0 = .ok (.imax { sw := 1, g := 1, e := 1, t := 1, d := 43, a := 11, b := 39 }) ∧
  decodeWords 0x44FD17CC 0 = .ok (.andI { sw := 1, g := 7, e := 1, t := 1, d := 17, a := 31, b := 12 }) ∧
  decodeWords 0x457D6639 0 = .ok (.orI { sw := 1, g := 7, e := 1, t := 1, d := 22, a := 24, b := 57 }) ∧
  decodeWords 0x45ACECB5 0 = .ok (.xorI { sw := 1, g := 2, e := 1, t := 1, d := 14, a := 50, b := 53 }) ∧
  decodeWords 0x467C2697 0 = .ok (.andn { sw := 1, g := 7, e := 1, t := 1, d := 2, a := 26, b := 23 }) ∧
  decodeWords 0x469DBE21 0 = .ok (.shl { sw := 1, g := 1, e := 1, t := 1, d := 27, a := 56, b := 33 }) ∧
  decodeWords 0x475C924B 0 = .ok (.shr { sw := 1, g := 5, e := 1, t := 1, d := 9, a := 9, b := 11 }) ∧
  decodeWords 0x47BEFE90 0 = .ok (.sra { sw := 1, g := 3, e := 1, t := 1, d := 47, a := 58, b := 16 }) ∧
  decodeWords 0x482574E7 0 = .ok (.shli { sw := 1, g := 2, t := 1, d := 23, a := 19, i := 39 }) ∧
  decodeWords 0x48B54671 0 = .ok (.shri { sw := 1, g := 3, t := 1, d := 20, a := 25, i := 49 }) ∧
  decodeWords 0x4914634D 0 = .ok (.srai { sw := 1, g := 1, t := 1, d := 6, a := 13, i := 13 }) ∧
  decodeWords 0x49C72800 0 = .ok (.popc { sw := 1, g := 4, t := 1, d := 50, a := 32 }) ∧
  decodeWords 0x4A756200 0 = .ok (.clz { sw := 1, g := 7, t := 1, d := 22, a := 8 }) ∧
  decodeWords 0x4AB8C6DA 0 = .ok (.icmp { sw := 1, g := 3, e := 1, c := 1, p := 4, a := 27, b := 26 }) ∧
  decodeWords 0x4B174000 0x7219C1DA = .ok (.movl { sw := 1, g := 1, t := 1, d := 52, lit := 1914290650 }) ∧
  decodeWords 0x4BFFE0A4 0 = .ok (.iaddw { sw := 1, g := 7, e := 1, t := 1, d := 62, a := 2, b := 36 }) := by
  repeat' apply And.intro
  all_goals rfl

theorem test_decodes_lane_float :
  decodeWords 0x4C2D1102 0 = .ok (.fadd { sw := 1, g := 2, e := 1, t := 1, d := 17, a := 4, b := 2 }) ∧
  decodeWords 0x4CDC227D 0 = .ok (.fsub { sw := 1, g := 5, e := 1, t := 1, d := 2, a := 9, b := 61 }) ∧
  decodeWords 0x4D4C9279 0 = .ok (.fmul { sw := 1, g := 4, e := 1, t := 1, d := 9, a := 9, b := 57 }) ∧
  decodeWords 0x4DFED2BC 0 = .ok (.ffma { sw := 1, g := 7, e := 1, t := 1, d := 45, a := 10, b := 60 }) ∧
  decodeWords 0x4E6C1C30 0 = .ok (.fmin { sw := 1, g := 6, e := 1, t := 1, d := 1, a := 48, b := 48 }) ∧
  decodeWords 0x4E9CE835 0 = .ok (.fmax { sw := 1, g := 1, e := 1, t := 1, d := 14, a := 32, b := 53 }) ∧
  decodeWords 0x4F678EC0 0 = .ok (.fabs { sw := 1, g := 6, t := 1, d := 56, a := 59 }) ∧
  decodeWords 0x4FF4BF40 0 = .ok (.fneg { sw := 1, g := 7, t := 1, d := 11, a := 61 }) ∧
  decodeWords 0x503BF801 0 = .ok (.fcmp { sw := 1, g := 3, e := 1, c := 7, p := 7, a := 32, b := 1 }) ∧
  decodeWords 0x50C59540 0 = .ok (.frcp { sw := 1, g := 4, t := 1, d := 25, a := 21 }) ∧
  decodeWords 0x5175EA40 0 = .ok (.frsq { sw := 1, g := 7, t := 1, d := 30, a := 41 }) ∧
  decodeWords 0x51C77640 0 = .ok (.fsqrt { sw := 1, g := 4, t := 1, d := 55, a := 25 }) ∧
  decodeWords 0x52668680 0 = .ok (.fexp2 { sw := 1, g := 6, t := 1, d := 40, a := 26 }) ∧
  decodeWords 0x52A6C140 0 = .ok (.flog2 { sw := 1, g := 2, t := 1, d := 44, a := 5 }) ∧
  decodeWords 0x5344EE40 0 = .ok (.fsin { sw := 1, g := 4, t := 1, d := 14, a := 57 }) ∧
  decodeWords 0x53C74C00 0 = .ok (.fcos { sw := 1, g := 4, t := 1, d := 52, a := 48 }) ∧
  decodeWords 0x545C9123 0 = .ok (.hadd { sw := 1, g := 5, e := 1, t := 1, d := 9, a := 4, b := 35 }) ∧
  decodeWords 0x54CC2473 0 = .ok (.hmul { sw := 1, g := 4, e := 1, t := 1, d := 2, a := 17, b := 51 }) ∧
  decodeWords 0x553DE486 0 = .ok (.hfma { sw := 1, g := 3, e := 1, t := 1, d := 30, a := 18, b := 6 }) ∧
  decodeWords 0x55FC9659 0 = .ok (.badd { sw := 1, g := 7, e := 1, t := 1, d := 9, a := 25, b := 25 }) ∧
  decodeWords 0x564FC116 0 = .ok (.bmul { sw := 1, g := 4, e := 1, t := 1, d := 60, a := 4, b := 22 }) ∧
  decodeWords 0x56CF270B 0 = .ok (.bfma { sw := 1, g := 4, e := 1, t := 1, d := 50, a := 28, b := 11 }) := by
  repeat' apply And.intro
  all_goals rfl

theorem test_decodes_lane_conversion_and_control :
  decodeWords 0x57679E84 0 = .ok (.icvf { sw := 1, g := 6, t := 1, d := 57, a := 58, f := 0, r := 4 }) ∧
  decodeWords 0x57D69683 0 = .ok (.fcvi { sw := 1, g := 5, t := 1, d := 41, a := 26, f := 0, r := 3 }) ∧
  decodeWords 0x5834BE82 0 = .ok (.fcvh { sw := 1, g := 3, t := 1, d := 11, a := 58, f := 0, r := 2 }) ∧
  decodeWords 0x58D68E28 0 = .ok (.hcvf { sw := 1, g := 5, t := 1, d := 40, a := 56, f := 5 }) ∧
  decodeWords 0x594436CA 0 = .ok (.icvn { sw := 1, g := 4, t := 1, d := 3, a := 27, f := 1, r := 2 }) ∧
  decodeWords 0x59A51F10 0 = .ok (.bpk { sw := 1, g := 2, t := 1, d := 17, a := 60, f := 2 }) ∧
  decodeWords 0x5A75CE20 0 = .ok (.bunpk { sw := 1, g := 7, t := 1, d := 28, a := 56, f := 4 }) ∧
  decodeWords 0x5AC706A0 0 = .ok (.bpsel { sw := 1, g := 4, t := 1, d := 48, a := 26, f := 4 }) ∧
  decodeWords 0x5B4FECBA 0 = .ok (.bra { sw := 1, g := 4, o := 1043642 }) ∧
  decodeWords 0x5BE3A82F 0 = .ok (.call { sw := 1, g := 6, o := 239663 }) ∧
  decodeWords 0x5C600000 0 = .ok (.ret { sw := 1, g := 6 }) ∧
  decodeWords 0x5CF00B00 0 = .ok (.jmprVector { sw := 1, g := 7, a := 44 }) ∧
  decodeWords 0x5CF80016 0 = .ok (.jmprUniform { sw := 1, g := 7, b := 22 }) ∧
  decodeWords 0x5D100200 0 = .ok (.callrVector { sw := 1, g := 1, a := 8 }) ∧
  decodeWords 0x5D68003E 0 = .ok (.callrUniform { sw := 1, g := 6, b := 62 }) ∧
  decodeWords 0x5DFF4101 0 = .ok (.join { sw := 1, g := 7, j := 15, o := 16641 }) ∧
  decodeWords 0x5E6F0000 0 = .ok (.waitI { sw := 1, g := 6, j := 15 }) ∧
  decodeWords 0x5E900000 0 = .ok (.exitI { sw := 1, g := 1 }) ∧
  decodeWords 0x5F6143CB 0 = .ok (.plog { sw := 1, g := 6, c := 2, p := 4, nx := 1, x := 7, ny := 1, y := 3 }) ∧
  decodeWords 0x5FB01000 0 = .ok (.pmovGet { sw := 1, g := 3, d := 1 }) ∧
  decodeWords 0x5FD00B41 0 = .ok (.pmovSet { sw := 1, g := 5, a := 45 }) ∧
  decodeWords 0x6070D017 0 = .ok (.srd { sw := 1, g := 7, d := 13, rc := 1, sel := 7 }) ∧
  decodeWords 0x60B00000 0 = .ok (.nop { sw := 1, g := 3 }) := by
  repeat' apply And.intro
  all_goals rfl

theorem test_decodes_lane_exchange :
  decodeWords 0x6178A31A 0x94700000 = .ok (.shfl { sw := 1, g := 7, e := 1, d := 10, a := 12, b := 26, mreg := 37, mall := 0, op := 7 }) ∧
  decodeWords 0x61D17A00 0x54500000 = .ok (.vote { sw := 1, g := 5, d := 23, a := 40, mreg := 21, mall := 0, op := 5 }) ∧
  decodeWords 0x62111780 0x02800000 = .ok (.redi { sw := 1, g := 1, d := 17, a := 30, mreg := 0, mall := 1, op := 8 }) ∧
  decodeWords 0x62937D40 0x0C200000 = .ok (.redf { sw := 1, g := 1, d := 55, a := 53, mreg := 3, mall := 0, op := 2 }) ∧
  decodeWords 0x63119B40 0x84100000 = .ok (.scani { sw := 1, g := 1, d := 25, a := 45, mreg := 33, mall := 0, op := 1 }) ∧
  decodeWords 0x6393D343 0 = .ok (.qswp { sw := 1, g := 1, d := 61, a := 13, k := 3 }) ∧
  decodeWords 0x64712601 0 = .ok (.qbcast { sw := 1, g := 7, d := 18, a := 24, n := 1 }) ∧
  decodeWords 0x64B16500 0 = .ok (.qfill { sw := 1, g := 3, d := 22, a := 20 }) := by
  repeat' apply And.intro
  all_goals rfl

theorem test_decodes_lane_memory :
  decodeWords 0x651B0780 0x27BB9DD2 = .ok (.ld { sw := 1, g := 1, bc := 1, d := 48, base := 30, off := 10171, size := 4, cls := 1, scope := 6, rc := 14, grain := 4, pol := 2 }) ∧
  decodeWords 0x65B81480 0x66893B6F = .ok (.lds { sw := 1, g := 3, bc := 1, d := 1, base := 18, off := 26249, size := 1, cls := 1, scope := 5, rc := 11, grain := 3, pol := 3 }) ∧
  decodeWords 0x66281080 0x2B6EB207 = .ok (.st { sw := 1, g := 2, bc := 1, d := 1, base := 2, off := 11118, size := 5, cls := 1, scope := 1, rc := 0, grain := 1, pol := 3 }) ∧
  decodeWords 0x66E86280 0xDD007A0A = .ok (.ldacq { sw := 1, g := 6, bc := 1, d := 6, base := 10, off := 56576, size := 3, cls := 1, scope := 5, rc := 0, grain := 2, pol := 2 }) ∧
  decodeWords 0x67781A00 0x19615803 = .ok (.strel { sw := 1, g := 7, bc := 1, d := 1, base := 40, off := 6497, size := 2, cls := 1, scope := 4, rc := 0, grain := 0, pol := 3 }) ∧
  decodeWords 0x6798E6C0 0x3D3D6400 = .ok (.ldsh { sw := 1, g := 1, bc := 1, d := 14, base := 27, off := 15677, size := 3, cls := 0, scope := 2, rc := 0, grain := 0, pol := 0 }) ∧
  decodeWords 0x68699C00 0x05842600 = .ok (.ldssh { sw := 1, g := 6, bc := 1, d := 25, base := 48, off := 1412, size := 1, cls := 0, scope := 3, rc := 0, grain := 0, pol := 0 }) ∧
  decodeWords 0x68F94C40 0x51E28000 = .ok (.stsh { sw := 1, g := 7, bc := 1, d := 20, base := 49, off := 20962, size := 4, cls := 0, scope := 0, rc := 0, grain := 0, pol := 0 }) ∧
  decodeWords 0x696B39C0 0xBB2C4C00 = .ok (.ldg { sw := 1, g := 6, bc := 1, d := 51, base := 39, off := 47916, size := 2, cls := 0, scope := 6, rc := 0, grain := 0, pol := 0 }) ∧
  decodeWords 0x69B94D00 0xC7A80800 = .ok (.stg { sw := 1, g := 3, bc := 1, d := 20, base := 52, off := 51112, size := 0, cls := 0, scope := 4, rc := 0, grain := 0, pol := 0 }) ∧
  decodeWords 0x6A68C100 0x17436A91 = .ok (.atom { sw := 1, g := 6, bc := 1, d := 12, base := 4, off := 5955, size := 3, scope := 5, atop := 9, pol := 1 }) ∧
  decodeWords 0x6AFBA180 0x68454CA3 = .ok (.red { sw := 1, g := 7, bc := 1, d := 58, base := 6, off := 26693, size := 2, scope := 6, atop := 10, pol := 3 }) ∧
  decodeWords 0x6B7B5E80 0x863546C0 = .ok (.atsh { sw := 1, g := 7, bc := 1, d := 53, base := 58, off := 34357, size := 2, scope := 3, atop := 12, pol := 0 }) ∧
  decodeWords 0x6BB829C0 0xB7E66430 = .ok (.redsh { sw := 1, g := 3, bc := 1, d := 2, base := 39, off := 47078, size := 3, scope := 2, atop := 3, pol := 0 }) ∧
  decodeWords 0x6C388140 0x1F1F6880 = .ok (.atg { sw := 1, g := 3, bc := 1, d := 8, base := 5, off := 7967, size := 3, scope := 4, atop := 8, pol := 0 }) ∧
  decodeWords 0x6CFA2200 0x251D7B67 = .ok (.ldbc { sw := 1, g := 7, bc := 1, d := 34, base := 8, off := 9501, size := 3, cls := 1, scope := 5, rc := 11, grain := 1, pol := 3 }) ∧
  decodeWords 0x6D380F00 0x44485AD3 = .ok (.pref { sw := 1, g := 3, bc := 1, d := 0, base := 60, off := 17480, size := 2, cls := 1, scope := 5, rc := 6, grain := 4, pol := 3 }) ∧
  decodeWords 0x6DE80300 0xA6990001 = .ok (.evict { sw := 1, g := 6, bc := 1, d := 0, base := 12, off := 42649, size := 0, cls := 0, scope := 0, rc := 0, grain := 0, pol := 1 }) ∧
  decodeWords 0x6E196600 0xED51900B = .ok (.ldasy { sw := 1, g := 1, bc := 1, d := 22, base := 24, off := 60753, size := 4, cls := 1, scope := 0, rc := 0, grain := 2, pol := 3 }) ∧
  decodeWords 0x6EFA449C 0 = .ok (.gwaddr { sw := 1, g := 7, e := 1, d := 36, a := 18, b := 28 }) := by
  repeat' apply And.intro
  all_goals rfl

theorem test_decodes_matrix_and_queues :
  decodeWords 0x6F500000 0xA0300000 = .ok (.mldwTile { sw := 1, g := 5, fmt := 5, ta := 6 }) ∧
  decodeWords 0x6F7802B8 0x98003000 = .ok (.mldwMem { sw := 1, g := 7, a := 10, b := 56, fmt := 4, spar := 3, kind := 1 }) ∧
  decodeWords 0x6FE00000 0x63B80000 = .ok (.mma { sw := 1, g := 6, fmt := 3, flip := 1, zc := 1, acc := 2, ta := 7 }) ∧
  decodeWords 0x70600000 0x00000000 = .ok (.mflip { sw := 1, g := 6 }) ∧
  decodeWords 0x70B2F000 0xC540052B = .ok (.acpyReg { sw := 1, g := 3, c := 47, fmt := 6, ckd := 1, zc := 1, acc := 1, n1 := 20, j0 := 43 }) ∧
  decodeWords 0x70F00000 0x65B81001 = .ok (.acpyTile { sw := 1, g := 7, fmt := 3, ckd := 1, zc := 1, acc := 2, ta := 7, h := 1 }) ∧
  decodeWords 0x70C80E2A 0x25802000 = .ok (.acpyMem { sw := 1, g := 4, a := 56, b := 42, fmt := 1, ckd := 1, zc := 1, acc := 2 }) ∧
  decodeWords 0x70F12000 0x00C03001 = .ok (.acpyStat { sw := 1, g := 7, c := 18, acc := 3, clr := 1 }) ∧
  decodeWords 0x71300000 0xE0800000 = .ok (.ackd { sw := 1, g := 3, fmt := 7, acc := 2 }) ∧
  decodeWords 0x71E00000 0x00800000 = .ok (.azero { sw := 1, g := 6, acc := 2 }) ∧
  decodeWords 0x725804BE 0x00080000 = .ok (.tld { sw := 1, g := 5, bc := 1, a := 18, b := 62, ta := 1 }) ∧
  decodeWords 0x72E00880 0x00080000 = .ok (.tst { sw := 1, g := 6, bc := 0, a := 34, b := 0, ta := 1 }) ∧
  decodeWords 0x7378004E 0x00300000 = .ok (.tldsh { sw := 1, g := 7, bc := 1, a := 1, b := 14, ta := 6 }) ∧
  decodeWords 0x73A00500 0x00100000 = .ok (.tstsh { sw := 1, g := 2, bc := 0, a := 20, b := 0, ta := 2 }) ∧
  decodeWords 0x74331000 0x00300193 = .ok (.tmovGet { sw := 1, g := 3, c := 49, ta := 6, n1 := 12, j0 := 19 }) ∧
  decodeWords 0x74727000 0x000813E0 = .ok (.tmovPut { sw := 1, g := 7, c := 39, ta := 1, n1 := 31, j0 := 0 }) ∧
  decodeWords 0x74F80332 0x00000001 = .ok (.mbmap { sw := 1, g := 7, a := 12, b := 50, high := 1 }) ∧
  decodeWords 0x75500000 0x00000000 = .ok (.mwait { sw := 1, g := 5 }) ∧
  decodeWords 0x75300000 0x00001000 = .ok (.mwaitRel { sw := 1, g := 3 }) ∧
  decodeWords 0x75D1B000 0x00401FC0 = .ok (.aset { sw := 1, g := 5, c := 27, acc := 1, int := 1, n1 := 63, j0 := 0 }) ∧
  decodeWords 0x76481167 0 = .ok (.qbind { sw := 1, g := 4, pop := 1, q := 5, b := 39 }) ∧
  decodeWords 0x76C2A300 0 = .ok (.qwr { sw := 1, g := 4, v := 42, q := 12 }) ∧
  decodeWords 0x771041C0 0 = .ok (.qrd { sw := 1, g := 1, v := 4, q := 7 }) ∧
  decodeWords 0x77F1B100 0 = .ok (.qstat { sw := 1, g := 7, v := 27, q := 4 }) := by
  repeat' apply And.intro
  all_goals rfl

theorem test_decodes_uniform :
  decodeWords 0xC0481F2F 0 = .ok (.sadd { sw := 1, g := 4, i := 1, w := 0, d := 1, a := 60, b := 47 }) ∧
  decodeWords 0xC0BB5529 0 = .ok (.ssub { sw := 1, g := 3, i := 1, w := 0, d := 53, a := 20, b := 41 }) ∧
  decodeWords 0xC14864D6 0 = .ok (.smul { sw := 1, g := 4, i := 1, w := 0, d := 6, a := 19, b := 22 }) ∧
  decodeWords 0xC1B8AB62 0 = .ok (.smad { sw := 1, g := 3, i := 1, w := 0, d := 10, a := 45, b := 34 }) ∧
  decodeWords 0xC27A6098 0 = .ok (.smin { sw := 1, g := 7, i := 1, w := 0, d := 38, a := 2, b := 24 }) ∧
  decodeWords 0xC2B9A134 0 = .ok (.smax { sw := 1, g := 3, i := 1, w := 0, d := 26, a := 4, b := 52 }) ∧
  decodeWords 0xC32A7CC9 0 = .ok (.sand { sw := 1, g := 2, i := 1, w := 0, d := 39, a := 51, b := 9 }) ∧
  decodeWords 0xC3F8944D 0 = .ok (.sor { sw := 1, g := 7, i := 1, w := 0, d := 9, a := 17, b := 13 }) ∧
  decodeWords 0xC4781C3C 0 = .ok (.sxor { sw := 1, g := 7, i := 1, w := 0, d := 1, a := 48, b := 60 }) ∧
  decodeWords 0xC4C81693 0 = .ok (.sshl { sw := 1, g := 4, i := 1, w := 0, d := 1, a := 26, b := 19 }) ∧
  decodeWords 0xC56B22E0 0 = .ok (.sshr { sw := 1, g := 6, i := 1, w := 0, d := 50, a := 11, b := 32 }) ∧
  decodeWords 0xC5BAA9E3 0 = .ok (.ssra { sw := 1, g := 3, i := 1, w := 0, d := 42, a := 39, b := 35 }) ∧
  decodeWords 0xC6549626 0 = .ok (.scmp { sw := 1, g := 5, i := 0, w := 1, c := 1, p := 1, a := 24, b := 38 }) ∧
  decodeWords 0xC6A74000 0x66FBC201 = .ok (.smovl { sw := 1, g := 2, w := 1, d := 52, lit := 1727775233 }) ∧
  decodeWords 0xC710B28E 0 = .ok (.klog { sw := 1, g := 1, c := 1, p := 3, nx := 1, x := 2, ny := 1, y := 6 }) ∧
  decodeWords 0xC79AEED6 0 = .ok (.sbra { sw := 1, g := 1, o := 716502 }) ∧
  decodeWords 0xC8269312 0 = .ok (.scall { sw := 1, g := 2, o := 430866 }) ∧
  decodeWords 0xC8E00000 0 = .ok (.sret { sw := 1, g := 6 }) ∧
  decodeWords 0xC9581017 0 = .ok (.ssr { sw := 1, g := 5, w := 0, d := 1, rc := 1, sel := 7 }) ∧
  decodeWords 0xC9FA101F 0 = .ok (.sget { sw := 1, g := 7, d := 33, i := 31 }) := by
  repeat' apply And.intro
  all_goals rfl

theorem test_decodes_uniform_memory_and_synchronisation :
  decodeWords 0xCA524380 0x366A7D31 = .ok (.sld { sw := 1, g := 5, d := 36, base := 14, off := 13930, size := 3, cls := 1, scope := 6, rc := 9, grain := 4, pol := 1 }) ∧
  decodeWords 0xCAC1D400 0x48943A09 = .ok (.sst { sw := 1, g := 4, d := 29, base := 16, off := 18580, size := 1, cls := 1, scope := 5, rc := 0, grain := 2, pol := 1 }) ∧
  decodeWords 0xCB710500 0xA88A6C93 = .ok (.satom { sw := 1, g := 7, d := 16, base := 20, off := 43146, size := 3, scope := 6, atop := 9, pol := 3 }) ∧
  decodeWords 0xCBF1A780 0x208E6000 = .ok (.sldsh { sw := 1, g := 7, d := 26, base := 30, off := 8334, size := 3, cls := 0, scope := 0, rc := 0, grain := 0, pol := 0 }) ∧
  decodeWords 0xCC51EB80 0x54ED4600 = .ok (.sstsh { sw := 1, g := 5, d := 30, base := 46, off := 21741, size := 2, cls := 0, scope := 3, rc := 0, grain := 0, pol := 0 }) ∧
  decodeWords 0xCCC30080 0x512D4250 = .ok (.satsh { sw := 1, g := 4, d := 48, base := 2, off := 20781, size := 2, scope := 1, atop := 5, pol := 0 }) ∧
  decodeWords 0xCD630000 0 = .ok (.fenceSc { sw := 1, g := 6, scope := 6 }) ∧
  decodeWords 0xCD229000 0 = .ok (.fenceRel { sw := 1, g := 2, scope := 5 }) ∧
  decodeWords 0xCD41A000 0 = .ok (.fenceAcq { sw := 1, g := 4, scope := 3 }) ∧
  decodeWords 0xCDF80001 0 = .ok (.bar { sw := 1, g := 7, n := 1 }) ∧
  decodeWords 0xCE68037C 0 = .ok (.barxInit { sw := 1, g := 6, i := 1, a := 13, b := 60 }) ∧
  decodeWords 0xCE68193E 0 = .ok (.barxExpect { sw := 1, g := 6, i := 1, a := 36, b := 62 }) ∧
  decodeWords 0xCE602DC0 0 = .ok (.barxArrive { sw := 1, g := 6, a := 55 }) ∧
  decodeWords 0xCE183DF5 0 = .ok (.barxArrexp { sw := 1, g := 1, i := 1, a := 55, b := 53 }) ∧
  decodeWords 0xCE504180 0 = .ok (.barxInval { sw := 1, g := 5, a := 6 }) ∧
  decodeWords 0xCEE00C29 0 = .ok (.barw { sw := 1, g := 6, a := 48, b := 41 }) ∧
  decodeWords 0xCF100000 0 = .ok (.sstep { sw := 1, g := 1 }) ∧
  decodeWords 0xCF940CA2 0 = .ok (.tlwait { sw := 1, g := 1, i := 0, w := 1, a := 50, b := 34 }) ∧
  decodeWords 0xD0180272 0 = .ok (.gset { sw := 1, g := 1, i := 1, n := 9, b := 50 }) ∧
  decodeWords 0xD01012C0 0 = .ok (.gsetClr { sw := 1, g := 1, n := 11 }) ∧
  decodeWords 0xD0A00000 0 = .ok (.sms { sw := 1, g := 2 }) ∧
  decodeWords 0xD1600000 0 = .ok (.waitpred { sw := 1, g := 6 }) ∧
  decodeWords 0xD19523C0 0 = .ok (.tlread { sw := 1, g := 1, w := 1, d := 18, a := 15 }) := by
  repeat' apply And.intro
  all_goals rfl

theorem test_decodes_engine_trap_and_scheduling :
  decodeWords 0xD27C42A9 0xEC030000 = .ok (.cpy { sw := 1, g := 7, i := 1, w := 1, d := 4, a := 10, b := 41, gv := 1, gslot := 13, ntf := 1, opts := 3, imm := 0 }) ∧
  decodeWords 0xD2DA743A 0x04011000 = .ok (.gath { sw := 1, g := 5, i := 1, w := 0, d := 39, a := 16, b := 58, gv := 0, gslot := 0, ntf := 1, opts := 1, imm := 4096 }) ∧
  decodeWords 0xD3387528 0x94020004 = .ok (.scat { sw := 1, g := 3, i := 1, w := 0, d := 7, a := 20, b := 40, gv := 1, gslot := 2, ntf := 1, opts := 2, imm := 4 }) ∧
  decodeWords 0xD3BA7623 0x040B0105 = .ok (.coll { sw := 1, g := 3, i := 1, w := 0, d := 39, a := 24, b := 35, gv := 0, gslot := 0, ntf := 1, opts := 11, imm := 261 }) ∧
  decodeWords 0xD42C6A22 0xCC000003 = .ok (.vdec { sw := 1, g := 2, i := 1, w := 1, d := 6, a := 40, b := 34, gv := 1, gslot := 9, ntf := 1, opts := 0, imm := 3 }) ∧
  decodeWords 0xD4B00280 0x00000000 = .ok (.tdeclDecl { sw := 1, g := 3, a := 10 }) ∧
  decodeWords 0xD4B00800 0x00000001 = .ok (.tdeclFrz { sw := 1, g := 3, a := 32 }) ∧
  decodeWords 0xD4900E00 0x00000002 = .ok (.tdeclRet { sw := 1, g := 1, a := 56 }) ∧
  decodeWords 0xD5780B20 0x04060001 = .ok (.enq { sw := 1, g := 7, i := 1, w := 0, d := 0, a := 44, b := 32, gv := 0, gslot := 0, ntf := 1, opts := 6, imm := 1 }) ∧
  decodeWords 0xD5AC8104 0xFC070000 = .ok (.enqw { sw := 1, g := 2, i := 1, w := 1, d := 8, a := 4, b := 4, gv := 1, gslot := 15, ntf := 1, opts := 7, imm := 0 }) ∧
  decodeWords 0xD618002E 0 = .ok (.trap { sw := 1, g := 1, n := 46 }) ∧
  decodeWords 0xD6F80004 0 = .ok (.brk { sw := 1, g := 7, n := 4 }) ∧
  decodeWords 0xD7480016 0 = .ok (.swpt { g := 4, n := 22 }) ∧
  decodeWords 0xD7900000 0 = .ok (.yield { sw := 1, g := 1 }) ∧
  decodeWords 0xD8300000 0 = .ok (.snop { sw := 1, g := 3 }) ∧
  decodeWords 0xD8C80021 0 = .ok (.sleep { sw := 1, g := 4, i := 1, b := 33 }) := by
  repeat' apply And.intro
  all_goals rfl

theorem test_decodes_privileged :
  decodeWords 0xD9300000 0 = .ok (.mret { sw := 1, g := 3 }) ∧
  decodeWords 0xD9401100 0 = .ok (.mretGrp { sw := 1, g := 4, a := 4 }) ∧
  decodeWords 0xD9702E57 0 = .ok (.mretRes { sw := 1, g := 7, a := 57, b := 23 }) ∧
  decodeWords 0xD920309C 0 = .ok (.mretPc { sw := 1, g := 2, a := 2, b := 28 }) ∧
  decodeWords 0xD9F040C9 0 = .ok (.msend { sw := 1, g := 7, p := 4, a := 3, b := 9 }) ∧
  decodeWords 0xDA21E480 0 = .ok (.mrecv { sw := 1, g := 2, d := 30, a := 18 }) ∧
  decodeWords 0xDAC80036 0 = .ok (.gsave { sw := 1, g := 4, n := 54 }) ∧
  decodeWords 0xDB500000 0 = .ok (.gload { sw := 1, g := 5 }) ∧
  decodeWords 0xDBF002C0 0 = .ok (.haltb { sw := 1, g := 7, a := 11 }) ∧
  decodeWords 0xDC6207C0 0 = .ok (.scan { sw := 1, g := 6, d := 32, a := 31 }) ∧
  decodeWords 0xDCF001B0 0 = .ok (.ctbw { sw := 1, g := 7, a := 6, b := 48 }) ∧
  decodeWords 0xDD6007AE 0 = .ok (.ctbiPage { sw := 1, g := 6, a := 30, b := 46 }) ∧
  decodeWords 0xDD701010 0 = .ok (.ctbiAsid { sw := 1, g := 7, b := 16 }) ∧
  decodeWords 0xDD202000 0 = .ok (.ctbiAll { sw := 1, g := 2 }) ∧
  decodeWords 0xDDF00140 0 = .ok (.wcfg { sw := 1, g := 7, a := 5, b := 0 }) ∧
  decodeWords 0xDE69200B 0 = .ok (.mcrr { sw := 1, g := 6, d := 18, n := 11 }) ∧
  decodeWords 0xDEC80F36 0 = .ok (.mcrw { sw := 1, g := 4, a := 60, n := 54 }) ∧
  decodeWords 0xDF700000 0 = .ok (.mpark { sw := 1, g := 7 }) ∧
  decodeWords 0xDFC00800 0 = .ok (.gkill { sw := 1, g := 4, a := 32 }) := by
  repeat' apply And.intro
  all_goals rfl


/-! ### Ill-formed terms, refused by WellFormed (R59) -/

/-- A load whose every field is accepted. -/
def Tests.m : MForm := { sw := 0, g := 7, bc := 1, d := 8, base := 12, off := 0, size := 2, cls := 0, scope := 0, rc := 0, grain := 0, pol := 0 }
/-- The same with fields changed. -/
def Tests.ma : MaForm := { sw := 0, g := 7, bc := 1, d := 8, base := 12, off := 0, size := 2, scope := 0, atop := 0, pol := 0 }
/-- A shared-memory atomic's fields. -/
def Tests.um : UmForm := { sw := 0, g := 7, d := 8, base := 12, off := 0, size := 2, cls := 0, scope := 0, rc := 0, grain := 0, pol := 0 }
/-- An engine command whose every field is accepted. -/
def Tests.ue : UeForm := { sw := 0, g := 7, i := 0, w := 0, d := 4, a := 10, b := 3, gv := 0, gslot := 0, ntf := 0, opts := 0, imm := 0 }

theorem test_wf_accepts_the_plain_forms : ([.ld Tests.m, .st Tests.m, .atom Tests.ma, .red Tests.ma, .sld Tests.um, .sst Tests.um, .cpy Tests.ue] : List Instr).all Instr.wf = true := by decide

/-- R47, R46: base, SCOPE, GRAIN, SIZE, line without uniform base, data register alignment, read count of a store. -/
theorem test_wf_refuses_memory_fields :
    ([.ld { Tests.m with base := 13 }, .ld { Tests.m with scope := 7 }, .ld { Tests.m with grain := 5 }, .ld { Tests.m with size := 6 },
      .ld { Tests.m with size := 5, bc := 0 }, .ld { Tests.m with size := 3, d := 9 }, .ld { Tests.m with size := 4, d := 10 }, .st { Tests.m with rc := 1 },
      .ldacq { Tests.m with size := 1 }, .ldsh { Tests.m with cls := 1 }, .ldssh { Tests.m with size := 2 }, .ldbc { Tests.m with bc := 0 },
      .evict { Tests.m with d := 8 }, .ldasy { Tests.m with d := 9 }, .sld { Tests.um with size := 4 }, .sst { Tests.um with base := 15 }] : List Instr).all
        (fun i => !i.wf) = true := by decide

/-- R46, R153, R154: ATOP, SIZE and the data registers of an atomic; R148: scopes of the scratchpad atomics. -/
theorem test_wf_refuses_atomic_fields :
    ([.atom { Tests.ma with atop := 13 }, .atom { Tests.ma with size := 1 }, .red { Tests.ma with size := 3, atop := 10 }, .atom { Tests.ma with atop := 9, d := 9 },
      .atom { Tests.ma with atop := 9, size := 3, d := 10 }, .red { Tests.ma with size := 3, d := 9 }, .atsh { Tests.ma with scope := 4 },
      .atg { Tests.ma with scope := 3 }, .redsh { Tests.ma with pol := 1 }] : List Instr).all (fun i => !i.wf) = true := by decide

/-- R10, R43, R49: odd pairs, ROUND, sub-operations, members. -/
theorem test_wf_refuses_lane_fields :
    ([.iaddw { sw := 0, g := 7, e := 0, t := 0, d := 1, a := 2, b := 4 }, .iaddw { sw := 0, g := 7, e := 0, t := 0, d := 2, a := 3, b := 4 },
      .iaddw { sw := 0, g := 7, e := 1, t := 0, d := 2, a := 4, b := 5 }, .icvf { sw := 0, g := 7, t := 0, d := 1, a := 2, f := 0, r := 5 },
      .fcvi { sw := 0, g := 7, t := 0, d := 1, a := 2, f := 3, r := 1 }, .fcvh { sw := 0, g := 7, t := 0, d := 1, a := 3, f := 0, r := 1 },
      .hcvf { sw := 0, g := 7, t := 0, d := 1, a := 2, f := 0 }, .icvn { sw := 0, g := 7, t := 0, d := 1, a := 2, f := 0, r := 3 },
      .jmprVector { sw := 0, g := 7, a := 3 }, .callrUniform { sw := 0, g := 7, b := 3 }, .plog { sw := 0, g := 7, c := 3, p := 0, nx := 0, x := 0, ny := 0, y := 0 },
      .srd { sw := 0, g := 7, d := 2, rc := 0, sel := 10 }, .srd { sw := 0, g := 7, d := 2, rc := 1, sel := 6 }, .srd { sw := 0, g := 7, d := 3, rc := 0, sel := 8 },
      .shfl { sw := 0, g := 7, e := 0, d := 2, a := 4, b := 6, mreg := 1, mall := 1, op := 0 }, .shfl { sw := 0, g := 7, e := 0, d := 3, a := 4, b := 6, mreg := 0, mall := 1, op := 4 },
      .vote { sw := 0, g := 7, d := 2, a := 4, mreg := 0, mall := 1, op := 6 }, .redi { sw := 0, g := 7, d := 2, a := 4, mreg := 0, mall := 1, op := 9 },
      .redf { sw := 0, g := 7, d := 2, a := 4, mreg := 0, mall := 1, op := 3 }, .scani { sw := 0, g := 7, d := 2, a := 4, mreg := 0, mall := 1, op := 2 },
      .qswp { sw := 0, g := 7, d := 2, a := 4, k := 0 }, .qswp { sw := 0, g := 7, d := 2, a := 4, k := 4 }] : List Instr).all (fun i => !i.wf) = true := by decide

/-- R48 and the matrix opcode table: odd pairs, the second bitmap pair, an unused stride. -/
theorem test_wf_refuses_matrix_fields :
    ([.mldwMem { sw := 0, g := 7, a := 3, b := 0, fmt := 1, spar := 0, kind := 0 }, .tld { sw := 0, g := 7, bc := 0, a := 4, b := 1, ta := 0 },
      .tst { sw := 0, g := 7, bc := 1, a := 5, b := 1, ta := 0 }, .mbmap { sw := 0, g := 7, a := 4, b := 1, high := 0 }, .mbmap { sw := 0, g := 7, a := 4, b := 7, high := 1 },
      .qwr { sw := 0, g := 7, v := 3, q := 0 }, .qrd { sw := 0, g := 7, v := 3, q := 0 }] : List Instr).all (fun i => !i.wf) = true := by decide

/-- R52, R53, R212 and the uniform rules: odd pairs, selectors, guards, OPTS and IMM. -/
theorem test_wf_refuses_uniform_fields :
    ([.sadd { sw := 0, g := 7, i := 0, w := 1, d := 3, a := 4, b := 6 }, .scmp { sw := 0, g := 7, i := 1, w := 1, c := 0, p := 1, a := 3, b := 6 },
      .smovl { sw := 0, g := 7, w := 1, d := 3, lit := 0 }, .klog { sw := 0, g := 7, c := 3, p := 0, nx := 0, x := 0, ny := 0, y := 0 },
      .ssr { sw := 0, g := 7, w := 0, d := 2, rc := 0, sel := 1 }, .ssr { sw := 0, g := 7, w := 0, d := 2, rc := 0, sel := 8 }, .sget { sw := 0, g := 7, d := 2, i := 11 },
      .fenceSc { sw := 0, g := 7, scope := 7 }, .tlwait { sw := 0, g := 7, i := 0, w := 1, a := 2, b := 3 }, .tlread { sw := 0, g := 7, w := 1, d := 3, a := 2 },
      .cpy { Tests.ue with w := 1, d := 5 }, .cpy { Tests.ue with a := 11 }, .cpy { Tests.ue with gslot := 1 }, .cpy { Tests.ue with opts := 4 }, .cpy { Tests.ue with imm := 1 },
      .gath { Tests.ue with imm := 6 }, .scat { Tests.ue with imm := 4100 }, .coll { Tests.ue with imm := 16 * 7 }, .coll { Tests.ue with imm := 16 + 7 },
      .vdec { Tests.ue with imm := 4 }, .enq { Tests.ue with imm := 2 }, .enqw { Tests.ue with opts := 8 }, .tdeclFrz { sw := 0, g := 7, a := 3 },
      .mretPc { sw := 0, g := 7, a := 2, b := 3 }, .ctbw { sw := 0, g := 7, a := 2, b := 3 }, .ctbiPage { sw := 0, g := 7, a := 3, b := 3 }] : List Instr).all
        (fun i => !i.wf) = true := by decide

/-- Words that encode nothing (R57 to R59): unassigned opcodes of both sets, `swpt` without SW, T where R50 gives none, MALL with MREG. -/
theorem test_decode_refuses_words :
    decodeWords 0x38000000 0 = .error .illegalOpcode ∧ decodeWords 0x3FFFFFFF 0 = .error .illegalOpcode ∧ decodeWords 0xA0000000 0 = .error .illegalOpcode ∧
    decodeWords 0x25788301 0x01005600 = .error .reservedField ∧ decodeWords 0x97780002 0 = .error .reservedField ∧ decodeWords 0x0AF51083 0 = .error .reservedField ∧
    decodeWords 0x21703100 0x06000000 = .error .reservedField := ⟨rfl, rfl, rfl, rfl, rfl, rfl, rfl⟩


/-! ### One step on a small state -/

/-- What an outcome's next state satisfies. -/
def Tests.next (o : Out) (p : State → Bool) : Bool := match o with | .next t => p t | _ => false
/-- The group and the state of the tests: 32 lanes at 0x10000 in one block of a running launch. -/
def Tests.g : Group := fetchGroupInit
/-- The state in which group g may issue. -/
def Tests.on (g : Group) : State :=
  { booted := true, cur := .group 32 0x10000#64, launches := [(1, fetchLaunch)], blocks := [(1, fetchBlock)], groups := [(32, g)] }
/-- The group of a state. -/
def Tests.grp (t : State) : Group := (find t.groups 32).getD Tests.g
/-- A mast core that runs at 0x1000 in privileged mode. -/
def Tests.m0 : Mast := { pc := 0x1000#64, running := true }
/-- The state in which mast core 0, as given, runs. -/
def Tests.core (m : Mast) : State := { booted := true, cur := .mast 0, clusters := [(0, { mast := m })] }

/-- withFetchWord and step: `iadd v3, v4, v2` at 0x10000; `mcrr s5, 0` (MSTATE, R25: PRIV 1) in a mast core's SRAM; `movl v1` of 0xFFFFFFFF. -/
theorem test_step_runs_the_placed_word :
    Tests.next (step (State.reset.withFetchWord 32 0x00703102)) (fun t => (Tests.grp t).vreg 31 3 == 0#32 && (Tests.grp t).pcOf 31 == 0x10004#64 && t.clk == 1) = true ∧
    Tests.next (step (State.reset.withFetchWord 32 0x9E785000)) (fun t => (t.mast 0).sreg 5 == 1#32 && (t.mast 0).pc == 0x1004#64) = true ∧
    Tests.next (step (State.reset.withFetchWord 64 0xFFFFFFFF0B701000)) (fun t => (Tests.grp t).vreg 7 1 == 0xFFFFFFFF#32 && (Tests.grp t).pcOf 7 == 0x10008#64) = true := by
  decide +kernel

/-- R102, R103 by hand: 2 + 0xFFFFFFFF wraps to 1; 0x7FFFFFFF + 1 clamps; the high half of (-1)(-1) is 0; a shift by 32 gives 0, sra of a negative -1. -/
theorem test_lane_integer :
    let f : RForm := { sw := 0, g := 7, e := 0, t := 0, d := 3, a := 4, b := 2 }
    let run (i : Instr) (x y : Word) : Word :=
      match exec i (Tests.on { Tests.g with v := [(9 * 64 + 2, y), (9 * 64 + 4, x)] }) with | .next t => (Tests.grp t).vreg 9 3 | _ => 0xDEAD#32
    run (.iadd f) 2#32 0xFFFFFFFF#32 = 1#32 ∧ run (.iadds f) 0x7FFFFFFF#32 1#32 = 0x7FFFFFFF#32 ∧ run (.isubs f) 0x80000000#32 1#32 = 0x80000000#32 ∧
    run (.imulh f) 0xFFFFFFFF#32 0xFFFFFFFF#32 = 0#32 ∧ run (.imin f) 0xFFFFFFFF#32 1#32 = 0xFFFFFFFF#32 ∧ run (.shl f) 1#32 32#32 = 0#32 ∧
    run (.sra f) 0x80000000#32 0xFFFFFFFF#32 = 0xFFFFFFFF#32 ∧ run (.andn f) 0xFF#32 0x0F#32 = 0xF0#32 := by
  decide +kernel

/-- R107, R108, R84 by hand: 2^24 + 1 rounds to even; 0.0 + -0.0 = 0.0; a NaN operand gives 0x7FC00000; fmin of a NaN and 1.0 is 1.0; FP16
halves are independent; fcvi clamps and gives 0 for a NaN. -/
theorem test_lane_float :
    fp32.add 0x4B800000 0x3F800000 = 0x4B800000 ∧ fp32.add 0x00000000 0x80000000 = 0 ∧ fp32.add 0x7F800001 0x3F800000 = 0x7FC00000 ∧
    fp32.mul 0x40400000 0xBF000000 = 0xBFC00000 ∧ fp32.fma 0x3F800001 0x3F800001 0xBF800002 = 0x28800000 ∧ fmin32 0x7FC00000 0x3F800000 = 0x3F800000 ∧
    fp16.add 0x3C00 0x3C00 = 0x4000 ∧ bf16.mul 0x3F80 0xC040 = 0xC040 ∧ fcvi32 .rne 0x40200000 = 2 ∧ fcvi32 .ru 0x40200000 = 3 ∧
    fcvi32 .rne 0x7F800000 = 2147483647 ∧ fcvi32 .rne 0x7FC00000 = 0 ∧ fcvi32 .rz 0xC0200000 = -2 := by
  decide +kernel

/-- The worked example of R93: C below the window, sticky or not. -/
theorem test_dot_pass_sticky :
    let products (c : Nat) : List FVal := [fp32.val c, .fin false (2 ^ 24) 0, .fin false 1 0] ++ List.replicate 62 (.fin false 0 0)
    dotPass (products 0x2B800000) = 0x4B800001 ∧ dotPass (products 0) = 0x4B800000 := by
  decide +kernel

/-- The worked example of R82 and R83: element 10 of a plane tensor read at precision 4 and 2. -/
theorem test_plane_element_at_two_precisions :
    let bytes : SMap (List Byte) := [(0x2000000000 / 16 * 0, [])].drop 1 ++
      [(0x20000000000 / 16, [0#8, 4#8]), (0x20000000080 / 16, [0#8, 4#8]), (0x20000000180 / 16, [0#8, 4#8]), (0x30000000000 / 16, [0x00#8, 0x3E#8, 0x01#8, 0x00#8])]
    let slot (prd : Nat) : BitVec 128 := BitVec.ofNat 128 (16 + 2 ^ 8 * 4 + 2 ^ 12 * prd + 2 ^ 16 + 2 ^ 18 + 2 ^ 64 * 0x30000000000)
    bpnRead bytes 0x20000000000 10 (slot 4) = -3 ∧ bpnInt bytes 0x20000000000 10 (slot 4) = -4 ∧ bpnBf16 bytes 0x20000000000 10 (slot 4) = 0xBF00 ∧
    bpnRead bytes 0x20000000000 10 (slot 2) = -2 ∧ bpnInt bytes 0x20000000000 10 (slot 2) = -3 ∧ bpnBf16 bytes 0x20000000000 10 (slot 2) = 0xBEC0 := by
  decide +kernel

/-- The group of the if/else example of R124: lane 31 exited, v2 = %lane, v3 = 10, lanes at 0x10000. -/
def Tests.ifElse : Group := { Tests.g with exited := 0x80000000#32, v := (List.range 32).flatMap fun l => [(l * 64 + 2, BitVec.ofNat 32 l), (l * 64 + 3, 10#32)] }

/-- Steps 1 to 3 and 6 of that example: the compare, the join, the branch under p1 and the first arrival at the wait. -/
theorem test_if_else_under_a_rejoin_mask :
    Tests.next (exec (.icmp { sw := 0, g := 7, e := 0, c := 2, p := 1, a := 2, b := 3 }) (Tests.on Tests.ifElse)) (fun t => (Tests.grp t).preds 1 == 0x3FF#32) = true ∧
    Tests.next (exec (.join { sw := 0, g := 7, j := 3, o := 5 }) (Tests.on { Tests.ifElse with meet := (List.range 32).map fun l => (l, 0xFFFFFFFFFFFFFFFF#64) })) (fun t =>
      (Tests.grp t).rejoin 3 == { mask := 0x7FFFFFFF#32, addr := 0xFFFFFFFFFFFFFFFF#64 } && (Tests.grp t).meetOf 12 == 0x10014#64) = true ∧
    Tests.next (exec (.bra { sw := 0, g := 1, o := 3 }) (Tests.on { Tests.ifElse with p := [(1, 0x3FF#32)] })) (fun t =>
      (Tests.grp t).pcOf 9 == 0x1000C#64 && (Tests.grp t).pcOf 10 == 0x10004#64 && (Tests.grp t).pcOf 31 == 0x10000#64) = true ∧
    Tests.next (exec (.waitI { sw := 0, g := 7, j := 3 }) (Tests.on (({ Tests.ifElse with j := [(3, { mask := 0x7FFFFFFF#32, addr := 5#64 })] } : Group).setPc 0x3FF#32 0x20000#64))) (fun t =>
      (Tests.grp t).holdOf 10 == .wait 3 && (Tests.grp t).holdOf 9 == .free && (Tests.grp t).pcOf 30 == 0x10000#64) = true := by
  decide +kernel

/-- R119, R229, R60: a misaligned jump target raises F_ALIGN (0x12); a privileged opcode in a group F_PRIV (0x03); an unassigned opcode 0x01. -/
theorem test_faults_of_a_group :
    let code (o : Out) : Nat := match o with | .next t => (match (Tests.grp t).event with | some r => r.code | none => 0) | _ => 0
    code (exec (.jmprVector { sw := 0, g := 7, a := 2 }) (Tests.on { Tests.g with v := [(2, 0x10002#32)] })) = 0x12 ∧
    code (exec (.mret { sw := 0, g := 7 }) (Tests.on Tests.g)) = 0x03 ∧ code (exec (.illegalOpcode 0xA0000000) (Tests.on Tests.g)) = 0x01 := by
  decide +kernel

/-- R127, R131 to R133 by hand on two lanes that hold 5 and 7, the others 1. -/
theorem test_exchange :
    let g : Group := { Tests.g with v := (List.range 32).map fun l => (l * 64 + 4, if l = 0 then 5#32 else if l = 1 then 7#32 else 1#32) }
    let run (i : Instr) (l : Nat) : Word := match exec i (Tests.on g) with | .next t => (Tests.grp t).vreg l 3 | _ => 0xDEAD#32
    let f (op : Fin 32) : GForm := { sw := 0, g := 7, d := 3, a := 4, mreg := 0, mall := 1, op := op }
    run (.redi (f 0)) 17 = 42#32 ∧ run (.redi (f 2)) 0 = 7#32 ∧ run (.scani (f 0)) 1 = 12#32 ∧ run (.scani (f 1)) 1 = 5#32 ∧ run (.vote (f 1)) 3 = 32#32 ∧
    run (.vote (f 5)) 3 = 0#32 ∧ run (.qswp { sw := 0, g := 7, d := 3, a := 4, k := 1 }) 0 = 7#32 ∧ run (.qbcast { sw := 0, g := 7, d := 3, a := 4, n := 1 }) 3 = 7#32 ∧
    run (.shfl { sw := 0, g := 7, e := 0, d := 3, a := 4, b := 6, mreg := 0, mall := 1, op := 0 }) 9 = 5#32 := by
  decide +kernel

/-- R204 to R209 on a mast core: a 64-bit add carries into the odd register; scall pushes and sret returns; a stopped guard only advances. -/
theorem test_uniform_on_a_mast_core :
    Tests.next (exec (.sadd { sw := 0, g := 7, i := 1, w := 1, d := 4, a := 2, b := 1 }) (Tests.core { Tests.m0 with s := [(2, 0xFFFFFFFF#32), (3, 6#32)] })) (fun t =>
      (t.mast 0).sreg 4 == 0#32 && (t.mast 0).sreg 5 == 7#32 && (t.mast 0).pc == 0x1004#64) = true ∧
    Tests.next (exec (.scall { sw := 0, g := 7, o := 0xFFFFF }) (Tests.core Tests.m0)) (fun t => (t.mast 0).pc == 0xFFC#64 && (t.mast 0).stack == [0x1004#64]) = true ∧
    Tests.next (exec (.sret { sw := 0, g := 7 }) (Tests.core { Tests.m0 with stack := [0x44#64, 0x88#64] })) (fun t => (t.mast 0).pc == 0x88#64 && (t.mast 0).stack == [0x44#64]) = true ∧
    Tests.next (exec (.smovl { sw := 0, g := 2, w := 0, d := 4, lit := 9 }) (Tests.core Tests.m0)) (fun t => (t.mast 0).sreg 4 == 0#32 && (t.mast 0).pc == 0x1008#64) = true := by
  decide +kernel

/-- R322 by hand: a word stored to private SRAM is read back little-endian and touches its four bytes only. -/
theorem test_mast_sram :
    Tests.next (exec (.sst { Tests.um with d := 8, base := 12, off := 0x2000 }) (Tests.core { Tests.m0 with s := [(8, 0x11223344#32)] })) (fun t =>
      (t.mast 0).rd 0x2000 1 == 0x44 && (t.mast 0).rd 0x2002 2 == 0x1122 && (t.mast 0).rd 0x2004 4 == 0) = true ∧
    Tests.next (exec (.sld { Tests.um with d := 8, base := 12, off := 0x2000, size := 1 }) (Tests.core { Tests.m0 with sram := [(0x2000, 0x34#8), (0x2001, 0x12#8)] })) (fun t =>
      (t.mast 0).sreg 8 == 0x1234#32) = true := by
  decide +kernel

/-- The trap of the kernel chapter's example (R230, R330): lanes of a group in sub-partition 1, slot 5 are held; the delivery of code 0x51 gives
MGRP 0x15, DEPTH 1 and PC = MENTRY + 0x510 with IE 0. -/
theorem test_trap_is_held_and_delivered :
    let g : Group := { Tests.g with sp := 1, slot := 5 }
    Tests.next (exec (.trap { sw := 0, g := 7, n := 0 }) (Tests.on g)) (fun t =>
      (Tests.grp t).holdOf 17 == .event 0x51 0x10004#64 false && (Tests.grp t).pcOf 17 == 0x10000#64) = true ∧
    (let m := ({ Tests.m0 with ie := true, mentry := 0x2000#32 } : Mast).take { code := 0x51, value := 0#32, grp := true, sp := 1, slot := 5, lanes := 0xFFFFFFFF#32 } 0x1000#64 7
     m.pc = 0x2510#64 ∧ m.depth = 1 ∧ m.mgrp = 0x15#32 ∧ m.mlane = 0xFFFFFFFF#32 ∧ m.ie = false ∧ m.rd 0x3EB00 8 = 0x1000 ∧ m.rd 0x3EB08 1 = 3) := by
  decide +kernel

/-- `mret.res` of the same example: lanes 0 to 15 take their word of the buffer in v0 and go on at P + 4; the others stay held (R233). -/
theorem test_mret_res_resumes_the_named_lanes :
    let g : Group := { Tests.g with hold := (List.range 32).map fun l => (l, .event 0x51 0x10004#64 true) }
    let s : State := { Tests.on g with cur := .mast 0, clusters := [(0, { mast := { Tests.m0 with s := [(10, 0xFFFF#32), (11, 0x20000#32)], sram := [(0x20002, 0x10#8)] } })] }
    Tests.next (exec (.mretRes { sw := 0, g := 7, a := 10, b := 11 }) s) (fun t => (Tests.grp t).vreg 0 0 == 0x00100000#32 && (Tests.grp t).pcOf 15 == 0x10004#64 &&
      (Tests.grp t).holdOf 15 == .free && (Tests.grp t).holdOf 16 == .event 0x51 0x10004#64 true && (Tests.grp t).pcOf 16 == 0x10000#64) = true := by
  decide +kernel

/-- Steps 3, 6 and the completion of the barrier example (R167), and an arrival beyond COUNT. -/
theorem test_barrier_object_evaluation :
    ({ pend := 256, arr := 1, count := 2, phase := 0, valid := true, overrun := false } : BarObj).eval =
      ({ pend := 256, arr := 1, count := 2, phase := 0, valid := true, overrun := false }, .open_) ∧
    ({ pend := 0, arr := 2, count := 2, phase := 0, valid := true, overrun := false } : BarObj).eval =
      ({ pend := 0, arr := 0, count := 2, phase := 1, valid := true, overrun := false }, .completed) ∧
    ({ pend := 0, arr := 3, count := 2, phase := 0, valid := true, overrun := false } : BarObj).eval.2 = .overran ∧
    ({ pend := 0, arr := 2, count := 2, phase := 0xFFFFFFFF, valid := true, overrun := false } : BarObj).eval.1.phase = 0 := by
  decide +kernel

/-- The save areas of the worked example of R32 and R34: strides 0xB800 and 0x2800, SCRATCHOFF 0x5C100 and 0x14100. -/
theorem test_save_area_sizes :
    let v : Variant := { vregs := 32, tiles := 2, accs := 1, scratch := 65536, swpts := [(3, 65536, 0, List.range 12)] }
    (v.shape 0xFF).stride = 0xB800 ∧ (v.shape 3).stride = 0x2800 ∧ 0x100 + 8 * (v.shape 0xFF).stride = 0x5C100 ∧ 0x100 + 8 * (v.shape 3).stride = 0x14100 := by
  decide +kernel

/-- Memory keeps rising addresses and lists no byte that equals the default; a write is read back and leaves its neighbour. -/
theorem test_memory_canonical :
    let m := Memory.write (Memory.write (Memory.write [] 5 7#8) 3 9#8) 5 0#8
    m = [(3, 9#8)] ∧ Memory.wf m = true ∧ Memory.read m 3 = 9#8 ∧ Memory.read m 4 = 0#8 := by
  decide +kernel

/-- R225, R212 by hand: `enq` on a queue with room takes number 1 and writes true; a mast core's `cpy` takes number 1. -/
theorem test_commands_take_numbers :
    Tests.next (exec (.enq { Tests.ue with i := 1, b := 0, opts := 2 }) (Tests.on { Tests.g with k := 0#32 })) (fun t => (Tests.grp t).sreg 4 == 1#32 && predOf (Tests.grp t).k 2 &&
      (t.ctx 1 0x5000).map (fun x => x.items.length) == some 1 && (Tests.grp t).pcOf 3 == 0x10008#64) = true := by
  decide +kernel

/-- R399: a bad flash header stops the module with cause 1, a bad signature with cause 2. -/
theorem test_bad_flash_stops_the_boot :
    Tests.next (step { State.reset with flash := { headerOk := false } }) (fun t => t.estop && t.cause == 1) = true ∧
    Tests.next (step { State.reset with flash := { signatureOk := false } }) (fun t => t.estop && t.cause == 2) = true := by
  decide +kernel


/-- R378, R381, R387 by hand: a poisoned word of v4 in lane 5 makes `iadd v3, v4, v2` raise F_ECC_UNCORRECTED in lane 5 alone; a poisoned word of v3, which
the instruction only writes, is healed. -/
theorem test_poisoned_registers :
    let f : RForm := { sw := 0, g := 7, e := 0, t := 0, d := 3, a := 4, b := 2 }
    Tests.next (exec (.memoryScrub (16384 * 32 + 32 * 4 + 5) 8) (Tests.on Tests.g)) (fun s => Tests.next (exec (.iadd f) s) fun t =>
      (Tests.grp t).halted && (Tests.grp t).event.any (fun r => r.code == 0x40 && r.lanes == 0x20#32) && (Tests.grp t).pcOf 5 == 0x10000#64) = true ∧
    Tests.next (exec (.memoryScrub (16384 * 32 + 32 * 3 + 5) 8) (Tests.on Tests.g)) (fun s => Tests.next (exec (.iadd f) s) fun t =>
      (Tests.grp t).errs.isEmpty && (Tests.grp t).event.isNone && (Tests.grp t).pcOf 5 == 0x10004#64) = true := by
  decide +kernel

/-- R347 by hand: a drive whose directory lists file 7, 1,000 bytes from LBA 3; a second drive with the same id. -/
theorem test_file_directory :
    let drive : SMap Byte := [(0, 0x4E#8), (1, 0x48#8), (2, 0x46#8), (3, 0x53#8), (4, 0x54#8), (5, 0x4F#8), (6, 0x52#8), (7, 0x31#8), (8, 1#8),
      (512, 7#8), (520, 3#8), (528, 0xE8#8), (529, 3#8), (1536, 5#8)]
    let one : State := { drives := [(0, drive)] }
    let two : State := { drives := [(0, drive), (1, drive)] }
    one.readStores.1 = false ∧ find one.readStores.2.files 7 = some { size := 1000, drive := 0, lba := 3 } ∧
    one.fileByte { size := 1000, drive := 0, lba := 3 } 0 = 5#8 ∧ two.readStores.1 = true := by
  decide +kernel

/-! ### States and operands that meet the hypotheses of each statement -/

/-- The PC of the tests. -/
abbrev Tests.P : DWord := 0x10000#64

/-- The conditions of `Ready` beside the current agent and the group's place. -/
def Tests.readyB (s : State) (g : Group) (i : Instr) (sw : Fin 2) (u : Uses) : Bool :=
  g.errs.isEmpty && g.issued Tests.P != 0#32 && s.mayIssue g Tests.P && !swWaits sw g Tests.P && i.wf && u.within (s.variantOf g)

theorem Tests.ready {s : State} {g : Group} {i : Instr} {sw : Fin 2} {u : Uses} (h1 : s.cur = .group 32 Tests.P) (h2 : find s.groups 32 = some g)
    (h : Tests.readyB s g i sw u = true) : Ready s 32 Tests.P g i sw u := by
  simp only [Tests.readyB, Bool.and_eq_true, bne_iff_ne, ne_eq, Bool.not_eq_true'] at h
  exact ⟨⟨h1, h2, h.1.1.1.1.2, h.1.1.1.2, h.1.1.2, List.isEmpty_iff.1 h.1.1.1.1.1⟩, h.1.2, h.2⟩

theorem Tests.allReady {s : State} {g : Group} {l : List (Instr × Uses)} (h1 : s.cur = .group 32 Tests.P) (h2 : find s.groups 32 = some g)
    (h : (l.all fun x => Tests.readyB s g x.1 0 x.2) = true) : ∀ x ∈ l, Ready s 32 Tests.P g x.1 0 x.2 := fun x hx =>
  Tests.ready h1 h2 (List.all_eq_true.1 h x hx)

/-- The conditions of `ReadyUni`, with the guard always on. -/
theorem Tests.readyUni {s : State} {g : Group} {i : Instr} {sw : Fin 2} {u : Uses} (h1 : s.cur = .group 32 Tests.P) (h2 : find s.groups 32 = some g)
    (h : (Tests.readyB s g i sw u && (g.issued Tests.P &&& ~~~g.helper != 0#32)) = true) : ReadyUni s 32 Tests.P g i sw 7 u := by
  simp only [Bool.and_eq_true, bne_iff_ne, ne_eq] at h
  exact ⟨Tests.ready h1 h2 h.1, rfl, h.2⟩

theorem Tests.allReadyUni {s : State} {g : Group} {l : List (Instr × Uses)} (h1 : s.cur = .group 32 Tests.P) (h2 : find s.groups 32 = some g)
    (h : (l.all fun x => Tests.readyB s g x.1 0 x.2 && (g.issued Tests.P &&& ~~~g.helper != 0#32)) = true) :
    ∀ x ∈ l, ReadyUni s 32 Tests.P g x.1 0 7 x.2 := fun x hx => Tests.readyUni h1 h2 (List.all_eq_true.1 h x hx)

/-- The conditions of `RunsMast`, with the guard always on. -/
theorem Tests.allRun {s : State} {c : Nat} {m : Mast} {l : List Instr} (h1 : s.cur = .mast c) (h2 : s.mast c = m) (h : (m.bad.isEmpty && m.mayRun && l.all Instr.wf) = true) :
    ∀ i ∈ l, RunsMast s c m i 7 := fun i hi => by
  simp only [Bool.and_eq_true] at h
  exact ⟨h1, h2, h.1.2, List.all_eq_true.1 h.2 i hi, rfl, List.isEmpty_iff.1 h.1.1⟩

theorem Tests.performs {op : State → Nat → Acc × State} {s : State} {ls : List Nat} {l : Nat} {b : List Byte} (hl : ls = [l]) (h : (op s l).1 = .ok b) :
    ∃ t, Performs op s ls (fun _ => b) t := by
  subst hl; exact ⟨_, _, Prod.ext h rfl, rfl⟩

/-- Whether the lanes of a list perform an access one after another. -/
def Tests.runs (op : State → Nat → Acc × State) (s : State) : List Nat → Bool
  | [] => true
  | l :: r => match op s l with
    | (.ok _, s1) => Tests.runs op s1 r
    | _ => false

theorem Tests.performs_congr {op : State → Nat → Acc × State} {v v' : Nat → List Byte} {t : State} :
    ∀ {ls : List Nat} {s : State}, (∀ l ∈ ls, v l = v' l) → Performs op s ls v t → Performs op s ls v' t
  | [], _, _, h => h
  | l :: _, _, e, ⟨s1, h, hr⟩ => ⟨s1, by rw [h, e l (by simp)], Tests.performs_congr (fun x hx => e x (by simp [hx])) hr⟩

theorem Tests.performsAll {op : State → Nat → Acc × State} : ∀ {ls : List Nat} {s : State}, Tests.runs op s ls = true → ls.Nodup → ∃ v t, Performs op s ls v t
  | [], s, _, _ => ⟨fun _ => [], s, rfl⟩
  | l :: r, s, h, hn => by
    rw [Tests.runs] at h
    split at h
    · next b s1 hb =>
      obtain ⟨v, t, hp⟩ := Tests.performsAll h (List.nodup_cons.1 hn).2
      exact ⟨Function.update v l b, t, s1, by simp [hb],
        Tests.performs_congr (fun x hx => by rw [Function.update_of_ne (ne_of_mem_of_not_mem hx (List.nodup_cons.1 hn).1)]) hp⟩
    · simp at h

/-- Fields of the lane forms, each with a free choice of registers. -/
def Tests.rf : RForm := { sw := 0, g := 7, e := 0, t := 0, d := 3, a := 4, b := 2 }
def Tests.rs : RForm := { sw := 0, g := 1, e := 1, t := 1, d := 62, a := 60, b := 62 }
def Tests.r1 : R1Form := { sw := 0, g := 7, t := 0, d := 63, a := 0 }
def Tests.i6 : I6Form := { sw := 0, g := 7, t := 1, d := 5, a := 5, i := 63 }
def Tests.pf : PForm := { sw := 0, g := 7, e := 1, c := 7, p := 7, a := 1, b := 2 }
def Tests.nf : NForm := { sw := 0, g := 7 }
def Tests.af : AForm := { sw := 0, g := 7, a := 2 }
def Tests.abf : AbForm := { sw := 0, g := 7, a := 2, b := 4 }
def Tests.bf : BForm := { sw := 0, g := 7, o := 0x80000 }
def Tests.ob : OpBForm := { sw := 0, g := 7, b := 2 }
def Tests.gf : GForm := { sw := 0, g := 7, d := 3, a := 4, mreg := 5, mall := 0, op := 0 }
def Tests.cv : CvForm := { sw := 0, g := 7, t := 0, d := 2, a := 4, f := 0, r := 0 }
def Tests.c0 (n : Fin 8) : Cv0Form := { sw := 0, g := 7, t := 0, d := 2, a := 4, f := n }
/-- The launch with slots f0 FP16, f1 INT8, f2 planes of 8 bits read at 4, f3 BF16, f4 INT8, f5 FP32. -/
def Tests.lf : Launch := { fetchLaunch with record := { groups := 1, fmt := [2#128, 4#128, BitVec.ofNat 128 (16 + 2048 + 2 ^ 14), 3#128, 4#128, 1#128, 0#128, 0#128] } }
/-- The state of the tests with that launch. -/
def Tests.onf (g : Group) : State := { Tests.on g with launches := [(1, Tests.lf)] }

theorem test_witness_lane_results : -- LaneIntegerAndLogicResults, LaneShiftResults, LaneCountPairAddAndCompareResults, LaneFloatResults, LaneFloatFunctionResults
    ∀ x ∈ ([(.iadd Tests.rf, rUses 3 4 0 2), (.isub Tests.rs, rUses 62 60 1 62), (.iadds Tests.rf, rUses 3 4 0 2), (.isubs Tests.rf, rUses 3 4 0 2),
      (.imul Tests.rf, rUses 3 4 0 2), (.imulh Tests.rf, rUses 3 4 0 2), (.imad Tests.rs, rUses 62 60 1 62), (.imin Tests.rf, rUses 3 4 0 2),
      (.imax Tests.rf, rUses 3 4 0 2), (.andI Tests.rf, rUses 3 4 0 2), (.orI Tests.rs, rUses 62 60 1 62), (.xorI Tests.rf, rUses 3 4 0 2), (.andn Tests.rf, rUses 3 4 0 2),
      (.movl { sw := 0, g := 7, t := 0, d := 63, lit := 4294967295 }, { v := [63] }), (.shl Tests.rf, rUses 3 4 0 2), (.shr Tests.rs, rUses 62 60 1 62),
      (.sra Tests.rf, rUses 3 4 0 2), (.shli Tests.i6, { v := [5, 5] }), (.shri Tests.i6, { v := [5, 5] }), (.srai Tests.i6, { v := [5, 5] }),
      (.popc Tests.r1, { v := [63, 0] }), (.clz Tests.r1, { v := [63, 0] }), (.iaddw Tests.rs, { v := [62, 63, 60, 61], s := [62, 63] }),
      (.icmp Tests.pf, { v := [1], s := [2] }), (.fcmp Tests.pf, { v := [1], s := [2] }), (.fadd Tests.rf, rUses 3 4 0 2), (.fsub Tests.rs, rUses 62 60 1 62),
      (.fmul Tests.rf, rUses 3 4 0 2), (.ffma Tests.rf, rUses 3 4 0 2), (.fmin Tests.rf, rUses 3 4 0 2), (.fmax Tests.rf, rUses 3 4 0 2), (.hadd Tests.rf, rUses 3 4 0 2),
      (.hmul Tests.rf, rUses 3 4 0 2), (.hfma Tests.rf, rUses 3 4 0 2), (.badd Tests.rf, rUses 3 4 0 2), (.bmul Tests.rf, rUses 3 4 0 2), (.bfma Tests.rf, rUses 3 4 0 2),
      (.fabs Tests.r1, { v := [63, 0] }), (.fneg Tests.r1, { v := [63, 0] }), (.frcp Tests.r1, { v := [63, 0] }), (.frsq Tests.r1, { v := [63, 0] }),
      (.fsqrt Tests.r1, { v := [63, 0] }), (.fexp2 Tests.r1, { v := [63, 0] }), (.flog2 Tests.r1, { v := [63, 0] }), (.fsin Tests.r1, { v := [63, 0] }),
      (.fcos Tests.r1, { v := [63, 0] })] : List (Instr × Uses)), Ready (Tests.on Tests.g) 32 Tests.P Tests.g x.1 0 x.2 :=
  Tests.allReady rfl rfl (by decide +kernel)

theorem test_witness_LaneConversionResults :
    let s := Tests.onf Tests.g
    (∀ x ∈ ([(.icvf Tests.cv, { v := [2, 4] }), (.fcvi Tests.cv, { v := [2, 4] }), (.fcvh Tests.cv, { v := [2, 4, 5] }), (.hcvf (Tests.c0 3), { v := [2, 3, 4] }),
      (.icvn { Tests.cv with f := 1, r := 2 }, { v := [2, 4] }), (.bpk (Tests.c0 2), { v := [2, 4] }), (.bunpk (Tests.c0 2), { v := [2, 4] }),
      (.bpsel (Tests.c0 2), { v := [2, 4] })] : List (Instr × Uses)), Ready s 32 Tests.P Tests.g x.1 0 x.2) ∧
    slotType (s.slot Tests.g 0) = 2 ∧ slotType (s.slot Tests.g 3) = 3 ∧ slotType (s.slot Tests.g 1) = 4 ∧ slotType (s.slot Tests.g 2) = 16 ∧
    slotPrd (s.slot Tests.g 2) = 4 ∧ slotPst (s.slot Tests.g 2) = 8 :=
  ⟨Tests.allReady rfl rfl (by decide +kernel), by decide +kernel⟩

theorem test_witness_branches : -- BranchesAndNopMoveOnlyThePc, CallsPushAndReturnsPop (room on every stack, and every stack empty)
    (∀ x ∈ ([(.bra Tests.bf, {}), (.jmprVector Tests.af, { v := [2, 3] }), (.jmprUniform Tests.ob, { s := [2, 3] }), (.nop Tests.nf, {}), (.call Tests.bf, {}),
      (.callrVector Tests.af, { v := [2, 3] }), (.callrUniform Tests.ob, { s := [2, 3] }), (.ret Tests.nf, {})] : List (Instr × Uses)),
        Ready (Tests.on Tests.g) 32 Tests.P Tests.g x.1 0 x.2) ∧
    (∀ l < 32, (Tests.g.stackOf l).length < 8 ∧ (Tests.g.readV64 l 2).toNat % 4 = 0 ∧ (Tests.g.readV64 l 2).toNat < 2 ^ 56 ∧ Tests.g.stackOf l = [] ∧ Tests.g.spillOf l = 0) ∧
    goodTarget (Tests.g.sreg64 2) ∧ Tests.g.executing Tests.P 7 &&& ~~~Tests.g.helper ≠ 0#32 :=
  ⟨Tests.allReady rfl rfl (by decide +kernel), by decide +kernel, ⟨by decide +kernel, by decide +kernel⟩, by decide +kernel⟩

theorem test_witness_ret_with_entries : -- CallsPushAndReturnsPop (ret)
    let g : Group := { Tests.g with stack := (List.range 32).map fun l => (l, [0x40#64]) }
    Ready (Tests.on g) 32 Tests.P g (.ret Tests.nf) 0 {} ∧ ∀ l < 32, g.stackOf l ≠ [] :=
  ⟨Tests.ready rfl rfl (by decide +kernel), by decide +kernel⟩

theorem test_witness_jumps_that_fault : -- BranchesAndNopMoveOnlyThePc, its last clause
    let g : Group := { Tests.g with v := [(2, 0x10002#32)] }
    Ready (Tests.on g) 32 Tests.P g (.jmprVector Tests.af) 0 { v := [2, 3] } ∧ g.event = none ∧ g.executing Tests.P 7 = 0xFFFFFFFF#32 ∧ g.helper = 0#32 ∧
      (g.readV64 0 2).toNat % 4 ≠ 0 :=
  ⟨Tests.ready rfl rfl (by decide +kernel), by decide +kernel⟩

theorem test_witness_JoinClaimsARejoinRegister :
    let i (gd : Fin 8) : Instr := .join { sw := 0, g := gd, j := 15, o := 65535 }
    let busy : Group := { Tests.g with j := [(15, { mask := 1#32, addr := 0#64 })] }
    Ready (Tests.on Tests.g) 32 Tests.P Tests.g (i 7) 0 {} ∧ (Tests.g.rejoin 15).mask = 0#32 ∧ lowestIn (Tests.g.executing Tests.P 7) 0 ∧
    Ready (Tests.on Tests.g) 32 Tests.P Tests.g (i 0) 0 {} ∧ Tests.g.executing Tests.P 0 = 0#32 ∧
    Ready (Tests.on busy) 32 Tests.P busy (i 7) 0 {} ∧ (busy.rejoin 15).mask ≠ 0#32 ∧ busy.executing Tests.P 7 &&& ~~~busy.helper ≠ 0#32 :=
  ⟨Tests.ready rfl rfl (by decide +kernel), by decide +kernel, ⟨by decide +kernel, fun k hk => absurd hk (Nat.not_lt_zero k)⟩, Tests.ready rfl rfl (by decide +kernel), by decide +kernel,
    Tests.ready rfl rfl (by decide +kernel), by decide +kernel⟩

theorem test_witness_WaitHoldsUntilAllMembersArrive :
    let i : Instr := .waitI { sw := 0, g := 7, j := 3 }
    let some_ : Group := ({ Tests.g with j := [(3, { mask := 0x7FFFFFFF#32, addr := 0#64 })] } : Group).setPc 1#32 0x20000#64
    let all : Group := { Tests.g with j := [(3, { mask := 0xFFFFFFFF#32, addr := 8#64 })] }
    Ready (Tests.on some_) 32 Tests.P some_ i 0 {} ∧ (∀ n < 16, n ≠ 3 → (some_.rejoin n).mask = 0#32) ∧
      (has (some_.rejoin 3).mask 0 ∧ ¬ has (some_.executing Tests.P 7) 0 ∧ some_.holdOf 0 ≠ .wait 3) ∧
    Ready (Tests.on all) 32 Tests.P all i 0 {} ∧ (∀ n < 16, n ≠ 3 → (all.rejoin n).mask = 0#32) ∧ (all.rejoin 3).mask ≠ 0#32 ∧
      ∀ l < 32, has (all.rejoin 3).mask l → has (all.executing Tests.P 7) l :=
  ⟨Tests.ready rfl rfl (by decide +kernel), by decide +kernel, by decide +kernel, Tests.ready rfl rfl (by decide +kernel), by decide +kernel⟩

theorem test_witness_ExitEndsLanesAndRetiresTheGroup :
    let g : Group := { Tests.g with p := [(1, 1#32)] }
    (Ready (Tests.on g) 32 Tests.P g (.exitI { sw := 0, g := 1 }) 0 {} ∧ ~~~g.exited &&& ~~~g.helper &&& ~~~(g.executing Tests.P 1) ≠ 0#32) ∧
    (Ready (Tests.on g) 32 Tests.P g (.exitI Tests.nf) 0 {} ∧ ~~~g.exited &&& ~~~g.helper &&& ~~~(g.executing Tests.P 7) = 0#32) ∧
    (∀ l < 32, g.holdOf l = .free) ∧ ∀ n < 16, (g.rejoin n).mask = 0#32 :=
  ⟨⟨Tests.ready rfl rfl (by decide +kernel), by decide +kernel⟩, ⟨Tests.ready rfl rfl (by decide +kernel), by decide +kernel⟩, by decide +kernel⟩

theorem test_witness_LanePredicatesAndSpecialReads :
    let srd (rc : Fin 2) (sel : Fin 16) : Instr := .srd { sw := 0, g := 7, d := 2, rc := rc, sel := sel }
    ∀ x ∈ ([(.plog { sw := 0, g := 7, c := 2, p := 6, nx := 1, x := 7, ny := 0, y := 0 }, {}), (.pmovGet { sw := 0, g := 7, d := 63 }, { v := [63] }),
      (.pmovSet Tests.af, { v := [2] }), (srd 0 0, { v := [2] }), (srd 0 7, { v := [2] }), (srd 0 8, { v := [2, 3] }), (srd 0 9, { v := [2, 3] }),
      (srd 1 7, { v := [2] })] : List (Instr × Uses)), Ready (Tests.on Tests.g) 32 Tests.P Tests.g x.1 0 x.2 :=
  Tests.allReady rfl rfl (by decide +kernel)

/-- The group of the witness for the group-wide operations: lane 31 has exited, p1 is lane 0, s5 names lanes 0 and 31. -/
def Tests.gw : Group := { Tests.g with exited := 0x80000000#32, s := [(5, 0x80000001#32)], p := [(1, 1#32)] }

theorem test_witness_GroupWideOperationsComplete : -- member masks: two lanes of which lane 31 has exited, and all lanes
    let gf : GForm := { Tests.gf with g := 1 }
    (∀ x ∈ ([(.vote { gf with op := 5 }, gUses 3 4 5 0), (.redi { gf with op := 8 }, gUses 3 4 5 0), (.redf { gf with op := 2 }, gUses 3 4 5 0),
      (.scani { gf with op := 1 }, gUses 3 4 5 0), (.shfl { sw := 0, g := 1, e := 0, d := 2, a := 4, b := 6, mreg := 5, mall := 0, op := 7 }, { v := [2, 3, 4, 5, 6], s := [5] }),
      (.shfl { sw := 0, g := 1, e := 1, d := 2, a := 4, b := 6, mreg := 0, mall := 1, op := 0 }, { v := [2, 4], s := [6] })] : List (Instr × Uses)),
        Ready (Tests.on Tests.gw) 32 Tests.P Tests.gw x.1 0 x.2) ∧
    Tests.gw.members 5 0 = 0x80000001#32 ∧ Tests.gw.members 0 1 = 0xFFFFFFFF#32 ∧ Tests.gw.issued Tests.P = 0x7FFFFFFF#32 ∧ Tests.gw.executing Tests.P 1 = 1#32 ∧
    Tests.gw.otherMask Tests.P 0x80000001#32 = false ∧ Tests.gw.otherMask Tests.P 0xFFFFFFFF#32 = false :=
  ⟨Tests.allReady rfl rfl (by decide +kernel), by decide +kernel⟩

theorem test_witness_QuadExchangeResults : -- lane 5 has exited and lane 4 is the quad's lowest executing lane
    let g : Group := { Tests.g with exited := 0x20#32 }
    (∀ x ∈ ([(.qswp { sw := 0, g := 7, d := 2, a := 4, k := 3 }, { v := [2, 4] }), (.qbcast { sw := 0, g := 7, d := 2, a := 4, n := 3 }, { v := [2, 4] }),
      (.qfill { sw := 0, g := 7, d := 2, a := 4 }, { v := [2, 4] })] : List (Instr × Uses)), Ready (Tests.on g) 32 Tests.P g x.1 0 x.2) ∧
    has g.exited 5 ∧ 4 / 4 = 5 / 4 ∧ has (g.executing Tests.P 7) 4 ∧ ∀ k < 4, k / 4 ≠ 4 / 4 :=
  ⟨Tests.allReady rfl rfl (by decide +kernel), by decide +kernel⟩


def Tests.ur : UrForm := { sw := 0, g := 7, i := 0, w := 1, d := 62, a := 62, b := 62 }
def Tests.up : UpForm := { sw := 0, g := 7, i := 1, w := 0, c := 7, p := 7, a := 63, b := 63 }
def Tests.plog : PlogForm := { sw := 0, g := 7, c := 2, p := 6, nx := 1, x := 7, ny := 0, y := 0 }
def Tests.ul : UlForm := { sw := 0, g := 7, w := 1, d := 62, lit := 2147483648 }

theorem test_witness_uniform_results : -- UniformArithmeticResults, UniformCompareLiteralAndLogicResults, UniformControlFlow: guard on, on a group and on a core
    let urs : List (UrForm → Instr) := [.sadd, .ssub, .smul, .smad, .smin, .smax, .sand, .sor, .sxor, .sshl, .sshr, .ssra]
    let rest : List (Instr × Uses) := [(.scmp Tests.up, { s := [63] }), (.klog Tests.plog, {}), (.smovl Tests.ul, { s := [62, 63] }), (.sbra Tests.bf, {}),
      (.scall Tests.bf, {}), (.sret Tests.nf, {}), (.snop Tests.nf, {})]
    (∀ x ∈ (urs.map fun i => (i Tests.ur, urUses Tests.ur)) ++ rest, ReadyUni (Tests.on Tests.g) 32 Tests.P Tests.g x.1 0 7 x.2) ∧
    (∀ i ∈ (urs.map fun i => i Tests.ur) ++ rest.map (·.1), RunsMast (Tests.core Tests.m0) 0 Tests.m0 i 7) ∧
    (∀ l < 32, (Tests.g.stackOf l).length < 8) :=
  ⟨Tests.allReadyUni rfl rfl (by decide +kernel), Tests.allRun rfl rfl (by decide +kernel), by decide +kernel⟩

theorem test_witness_uniform_skips : -- the same with guard k0 off, and for a group of helper lanes only
    let f (gd : Fin 8) : UrForm := { Tests.ur with g := gd }
    let h : Group := { Tests.g with helper := 0xFFFFFFFF#32 }
    Ready (Tests.on Tests.g) 32 Tests.P Tests.g (.sadd (f 0)) 0 (urUses (f 0)) ∧ predOf Tests.g.k 0 = false ∧
    Ready (Tests.on h) 32 Tests.P h (.sadd (f 7)) 0 (urUses (f 7)) ∧ h.issued Tests.P &&& ~~~h.helper = 0#32 ∧
    SkipsMast (Tests.core Tests.m0) 0 Tests.m0 (.sadd (f 0)) 0 :=
  ⟨Tests.ready rfl rfl (by decide +kernel), rfl, Tests.ready rfl rfl (by decide +kernel), by decide +kernel, ⟨rfl, rfl, by decide +kernel, by decide +kernel, rfl⟩⟩

theorem test_witness_sret_with_entries : -- UniformControlFlow: entries on every lane's stack; a mast stack of 16 (full) and of 15 entries
    let g : Group := { Tests.g with stack := (List.range 32).map fun l => (l, [0x40#64]) }
    ReadyUni (Tests.on g) 32 Tests.P g (.sret Tests.nf) 0 7 {} ∧ (∀ l < 32, g.stackOf l ≠ []) ∧
    ∀ n ∈ [15, 16], RunsMast (Tests.core { Tests.m0 with stack := List.replicate n 0x40#64 }) 0 { Tests.m0 with stack := List.replicate n 0x40#64 } (.scall Tests.bf) 7 :=
  ⟨Tests.readyUni rfl rfl (by decide +kernel), by decide +kernel, fun _ _ => ⟨rfl, rfl, rfl, by decide +kernel, rfl, rfl⟩⟩

theorem test_witness_UniformReadsOfGroupState :
    let ssr (w rc : Fin 2) (sel : Fin 16) : Instr := .ssr { sw := 0, g := 7, w := w, d := 2, rc := rc, sel := sel }
    let sget (i : Fin 64) : Instr := .sget { sw := 0, g := 7, d := 63, i := i }
    (∀ x ∈ ([(ssr 0 0 2, { s := [2] }), (ssr 0 1 7, { s := [2] }), (ssr 1 0 8, { s := [2, 3] }), (sget 0, { s := [63] }), (sget 10, { s := [63] }), (sget 16, { s := [63] }),
      (sget 31, { s := [63] })] : List (Instr × Uses)), ReadyUni (Tests.on Tests.g) 32 Tests.P Tests.g x.1 0 7 x.2) ∧
    ∀ i ∈ [ssr 0 0 6, ssr 1 0 8, ssr 0 0 2, ssr 0 0 7, sget 0], RunsMast (Tests.core Tests.m0) 0 Tests.m0 i 7 :=
  ⟨Tests.allReadyUni rfl rfl (by decide +kernel), Tests.allRun rfl rfl (by decide +kernel)⟩

/-- The group of the access tests: p1 is lane 0; s12:s13 = 0x1000 and v12:v13 = 0x1000 in lane 0; s14 = v14 = 0x80000000; v9 is 1, v10 is 2 in lane 0. -/
def Tests.gm : Group :=
  { Tests.g with p := [(1, 1#32)], v := [(9, 1#32), (10, 2#32), (12, 0x1000#32), (14, 0x80000000#32)], s := [(12, 0x1000#32), (14, 0x80000000#32), (20, 0x40#32)] }
/-- A translation entry for the page at 0x1000 with every permission. -/
def Tests.page : CtbEntry :=
  { mast := false, asid := 0, va := 0x1000, psize := 4096, world := 0, sealed_ := false, res := 0, x := true, w := true, rd := true, pa := 0 }
/-- The line at 0x1000 in L2. -/
def Tests.sector : Sector := { data := 0x0123456789ABCDEF0123456789ABCDEF#128, dirty := false, poison := false, pa := 0x1000 }
/-- The state in which group g accesses that page. -/
def Tests.mem (g : Group) : State :=
  { Tests.on g with clusters := [(0, { ctb := [Tests.page] })], l2 := (List.range 8).map fun i => (l2key 0 0 (0x1000 + 16 * i), Tests.sector) }
/-- Who accesses, and the state after the checks. -/
def Tests.wm : Who := (Tests.mem Tests.gm).who (Tests.gm.issueAt 32 Tests.P 8 1)
def Tests.sm1 : State := ((Tests.mem Tests.gm).setG 32 (Tests.gm.begun Tests.P)).refill Tests.wm [0x1000#64]
/-- A load of lane 0 at 0x1000 of 4 bytes to v8. -/
def Tests.ml : MForm := { Tests.m with g := 1 }
def Tests.mal : MaForm := { Tests.ma with g := 1 }

theorem Tests.lane0 : lanesOf (Tests.gm.issueAt 32 Tests.P 8 1).E = [0] ∧ lanesOf ((Tests.gm.issueAt 32 Tests.P 8 1).E &&& ~~~Tests.gm.helper) = [0] ∧
    Tests.gm.laneAddr 1 12 2 0 0 = 0x1000#64 ∧ Tests.gm.laneAddr 0 12 2 0 0 = 0x1000#64 ∧ Tests.gm.pipeMem = false ∧
    clearRoad (Tests.mem Tests.gm) Tests.gm false ∧ clearRoad (Tests.mem Tests.gm) Tests.gm true := by
  refine ⟨by decide +kernel, by decide +kernel, by decide +kernel, by decide +kernel, rfl, ⟨rfl, fun _ => rfl, by decide +kernel⟩, ⟨rfl, fun h => by simp at h, by decide +kernel⟩⟩

theorem test_witness_global_accesses : -- GlobalLoadsBindTheBytesRead, GlobalStoresPerformInLaneOrder (at the home and held narrow), GlobalAtomicsReturnTheOldValue
    let lanes := lanesOf (Tests.gm.issueAt 32 Tests.P 8 1).E
    let turn (i : Instr) (f : State → Acc × State) (b : List Byte) : Prop :=
      ∃ t, Performs (fun s _ => inTurn Tests.wm Tests.sm1.order (accAt i 0x1000) f s) Tests.sm1 lanes (fun _ => b) t
    let was : List Byte := [0xEF#8, 0xCD#8, 0xAB#8, 0x89#8]
    (∀ x ∈ ([(.ld Tests.ml, mUses 1 8 1 12), (.lds { Tests.ml with size := 1 }, mUses 1 8 1 12), (.ldacq Tests.ml, mUses 1 8 1 12), (.ldbc Tests.ml, { v := [8], s := [12, 13] }),
      (.st Tests.ml, mUses 1 8 1 12), (.strel { Tests.ml with cls := 1 }, mUses 1 8 1 12), (.atom Tests.mal, mUses 1 8 1 12),
      (.red { Tests.mal with bc := 0 }, mUses 0 8 1 12)] : List (Instr × Uses)), Ready (Tests.mem Tests.gm) 32 Tests.P Tests.gm x.1 0 x.2) ∧
    turn (.ld Tests.ml) (fun s => s.loadNow Tests.wm 0x1000 4 false 0) was ∧ turn (.ldacq Tests.ml) (fun s => s.acquireNow Tests.wm 0x1000 4 false 0) was ∧
    turn (.st Tests.ml) (fun s => s.storeAtPoint Tests.wm 0x1000 [1#8, 2#8, 3#8, 4#8] false false 0 Tests.P 0) [] ∧
    turn (.atom Tests.mal) (fun s => s.atomicNow Tests.wm 0x1000 2 0 5 0) was ∧
    ([AccKind.load, .store, .atomic].all fun k => (Tests.sm1.accFault Tests.wm k 0x1000#64 4 false).isNone) = true ∧
    ((Tests.sm1.releaseParty 0 32).holdsAny 0 32) = false ∧ Tests.sm1.waitingOf 32 Tests.sm1.order = [] ∧ Tests.sm1.sideLog 0 0 = [] ∧
    Tests.sm1.mayHold Tests.wm 0x1000 4 = true ∧ (lineEnds 0x1000 4).all (fun x => Tests.sm1.l1Fits 0 0 x) = true := by
  refine ⟨Tests.allReady rfl rfl (by decide +kernel), ?_, ?_, ?_, ?_, by decide +kernel⟩ <;> exact Tests.performs Tests.lane0.1 (by decide +kernel)

/-- The group whose lanes 0 and 31 access the line at 0x1000, who accesses, and the state after the checks. -/
def Tests.gl : Group := { Tests.g with p := [(1, 0x80000001#32)], s := [(12, 0x1000#32)], v := [(8, 7#32), (31 * 64 + 8, 9#32)] }
def Tests.wl : Who := (Tests.mem Tests.gl).who (Tests.gl.issueAt 32 Tests.P 8 1)
def Tests.sl1 : State := ((Tests.mem Tests.gl).setG 32 (Tests.gl.begun Tests.P)).refill Tests.wl [0x1000#64, 0x107C#64]

theorem Tests.quiet : quietHome (Tests.mem Tests.gl) 32 Tests.gl ∧ clearRoad (Tests.mem Tests.gl) Tests.gl false ∧ clearRoad (Tests.mem Tests.gl) Tests.gl true := by
  refine ⟨⟨by decide +kernel, by decide +kernel, rfl, fun c => ?_, rfl, rfl, rfl⟩, ⟨rfl, fun _ => rfl, by decide +kernel⟩, ⟨rfl, fun h => by simp at h, by decide +kernel⟩⟩
  show (getD [(0, ({ ctb := [Tests.page] } : Cluster))] c {}).l1held = []
  simp only [getD]
  split <;> rfl

theorem test_witness_accesses_that_may_issue : -- the clauses of the global accesses and of `ldasy` that rest on the state alone
    (∀ x ∈ ([(.ld Tests.ml, mUses 1 8 1 12), (.lds { Tests.ml with size := 1 }, mUses 1 8 1 12), (.ldacq Tests.ml, mUses 1 8 1 12),
      (.ldbc Tests.ml, { v := [8], s := [12, 13] }), (.st { Tests.ml with cls := 1 }, mUses 1 8 1 12), (.st { Tests.ml with cls := 1, scope := 6 }, mUses 1 8 1 12),
      (.strel { Tests.ml with cls := 1 }, mUses 1 8 1 12), (.atom Tests.mal, mUses 1 8 1 12)] : List (Instr × Uses)),
      Ready (Tests.mem Tests.gl) 32 Tests.P Tests.gl x.1 0 x.2) :=
  Tests.allReady rfl rfl (by decide +kernel)

theorem test_witness_accesses_at_home :
    (lanesOf (Tests.gl.issueAt 32 Tests.P 8 1).E = [0, 31] ∧ [0, 31].map (Tests.gl.laneAddr 1 12 2 0) = [0x1000#64, 0x107C#64] ∧ lineBad Tests.gl 12 0 2 = false) ∧
    ([AccKind.load, .store, .atomic].all fun k => [0x1000#64, 0x107C#64].all fun a => (Tests.sl1.accFault Tests.wl k a 4 false).isNone) = true ∧
    ([0x1000, 0x107C].all fun va => (pieces va 4).all fun p => match find (Tests.mem Tests.gl).l2 (l2key 0 0 p.1) with | some x => !x.poison | none => false) = true ∧
    ([0x1000, 0x107C].all fun va => !(Tests.mem Tests.gl).frozenAt 0 va && inShared va == inShared (va + 3)) = true ∧
    Tests.sl1.mayHold Tests.wl 0x1000 4 = true ∧ Tests.sl1.mayHold Tests.wl 0x107C 4 = true ∧
    (Tests.wl.lid = 1 ∧ Tests.wl.asid = 0 ∧ (Tests.mem Tests.gl).verOf 1 0 0x1000 = 0 ∧ fetchLaunch.replayable = false) ∧
    (Tests.mem Tests.gl).launches = [(1, fetchLaunch)] ∧ (Tests.mem Tests.gl).lineUse = [] :=
  ⟨by decide +kernel, by decide +kernel, by decide +kernel, by decide +kernel, by decide +kernel, by decide +kernel, by decide +kernel, rfl, rfl⟩

theorem test_witness_ScratchpadAccessesComplete : -- offset 0x1000 of the scratchpad and offset 0 of the gang window
    let s := (Tests.mem Tests.gm).setG 32 (Tests.gm.begun Tests.P)
    let lanes := lanesOf (Tests.gm.issueAt 32 Tests.P 8 1).E
    let f (b : Fin 64) : MForm := { Tests.ml with base := b }
    let turn (i : Instr) (a : Nat) (f : State → Acc × State) (b : List Byte) : Prop :=
      ∃ t, Performs (fun s _ => inTurn Tests.wm (Tests.mem Tests.gm).order (accAt i a) f s) s lanes (fun _ => b) t
    let zero : List Byte := List.replicate 4 0#8
    (∀ x ∈ ([(.ldsh (f 12), shUses 1 8 1 12), (.ldssh { f 12 with size := 0 }, shUses 1 8 1 12), (.ldg (f 14), shUses 1 8 1 14), (.stsh (f 12), shUses 1 8 1 12), (.stg (f 14), shUses 1 8 1 14),
      (.atsh { Tests.mal with base := 12 }, shUses 1 8 1 12), (.redsh { Tests.mal with base := 12 }, shUses 1 8 1 12),
      (.atg { Tests.mal with base := 14, scope := 4 }, shUses 1 8 1 14)] : List (Instr × Uses)), Ready (Tests.mem Tests.gm) 32 Tests.P Tests.gm x.1 0 x.2) ∧
    turn (.ldsh (f 12)) 0x1000 (fun s => s.spLoad 32 Tests.gm false 0x1000#32 4) zero ∧ turn (.ldg (f 14)) 0x80000000 (fun s => s.spLoad 32 Tests.gm true 0x80000000#32 4) zero ∧
    turn (.stg (f 14)) 0x80000000 (fun s => s.spStore 32 Tests.gm true 0x80000000#32 [1#8, 2#8, 3#8, 4#8]) [] ∧
    turn (.atsh { Tests.mal with base := 12 }) 0x1000 (fun s => s.spAtomic 32 Tests.gm false 0x1000#32 2 0 5 0) zero ∧
    (Tests.mem Tests.gm).spFault Tests.gm false 0x1000#32 4 = none ∧ (Tests.mem Tests.gm).spFault Tests.gm true 0x80000000#32 4 = none ∧ s.waitingOf 32 s.order = [] ∧
    s.spPoison fetchBlock 0x1000 4 = false ∧ s.spPoison fetchBlock 0 4 = false ∧ fetchBlock.phase ≠ .gone := by
  refine ⟨Tests.allReady rfl rfl (by decide +kernel), ?_, ?_, ?_, ?_, by decide +kernel⟩ <;> exact Tests.performs Tests.lane0.1 (by decide +kernel)

theorem test_witness_HintsAsynchronousLoadsAndWindowAddresses : -- `ldasy` from 0x1000 to v8 = 0 counted at v9 = 0x40; `gwaddr` of rank 0, offset 0
    let g : Group := { Tests.gm with v := [(9, 0x40#32), (12, 0x1000#32)] }
    let s := (Tests.mem g).setG 32 (g.begun Tests.P)
    let p : Piece := { gid := 32, bid := 1, dst := 0, obj := 0x40, src := 0x1000, asid := 0, size := 4, stream := false, data := none, lane := 0, pc := Tests.P, seq := s.order }
    (∀ x ∈ ([(.pref { Tests.ml with d := 0 }, mUses 1 0 1 12), (.evict { Tests.ml with d := 0 }, mUses 1 0 1 12), (.ldasy Tests.ml, mUses 1 8 2 12),
      (.gwaddr { sw := 0, g := 1, e := 0, d := 3, a := 4, b := 5 }, rUses 3 4 0 5)] : List (Instr × Uses)), Ready (Tests.mem g) 32 Tests.P g x.1 0 x.2) ∧
    (g.holdsBack = false ∧ g.sideCount = 0 ∧ s.ldasyFault Tests.wm g 0x1000#64 0#32 0x40#32 4 = none ∧
      (inTurn Tests.wm s.order p.acc (fun s => s.loadNow Tests.wm 0x1000 4 false 0) s).1 = .ok [0xEF#8, 0xCD#8, 0xAB#8, 0x89#8]) ∧
    ((Tests.mem g).cluster 0).l1held = [] ∧ (s.hintWalks Tests.wm [0x100000000000000#64]).hintOk Tests.wm 0x100000000000000#64 = false ∧ s.hintOk Tests.wm 0x100000000000000#64 = false ∧
    (Tests.mem g).blockOf g = some fetchBlock ∧ (Tests.mem g).gangSize fetchBlock = 1 ∧ (Tests.mem g).member fetchBlock 0 = some fetchBlock ∧ (Tests.mem g).scratchOf fetchBlock = 16384 :=
  ⟨Tests.allReady rfl rfl (by decide +kernel), by decide +kernel⟩

theorem test_witness_HomeStoresAreReadBackAndTouchNothingElse : -- 1 byte, and 16 bytes that cross two sectors
    let s := Tests.mem Tests.gm
    find s.launches 0 = none ∧ inShared (0x1008 + 16 - 1) = false ∧ 0x1008 + 16 ≤ 2 ^ 56 ∧
    ∀ p ∈ pieces 0x1008 1 ++ pieces 0x1008 16, s.frozenAt 0 p.1 = false ∧ s.frozenAt 0 (p.1 + p.2 - 1) = false ∧ (find s.l2 (l2key 0 0 p.1)).isSome = true ∧ s.homePoison 0 0 p.1 = false := by
  decide +kernel

theorem test_witness_PreciseAccessFaultsChangeNothing : -- a store of lane 0 to a page without W, a load from a page without R
    let s : State := { Tests.mem Tests.gm with clusters := [(0, { ctb := [{ Tests.page with w := false, rd := false }] })] }
    let s1 := (s.setG 32 (Tests.gm.begun Tests.P)).refill Tests.wm [0x1000#64]
    Ready s 32 Tests.P Tests.gm (.st Tests.ml) 0 (mUses 1 8 1 12) ∧ Ready s 32 Tests.P Tests.gm (.ld Tests.ml) 0 (mUses 1 8 1 12) ∧ clearRoad s Tests.gm false ∧
    s1.accFault Tests.wm .store 0x1000#64 4 false = some (0x11, 0x1000#64, 0#64) ∧ s1.accFault Tests.wm .load 0x1000#64 4 false = some (0x11, 0x1000#64, 0#64) ∧
    has (Tests.gm.issueAt 32 Tests.P 8 1).E 0 ∧ ¬ has Tests.gm.helper 0 :=
  ⟨Tests.ready rfl rfl (by decide +kernel), Tests.ready rfl rfl (by decide +kernel), ⟨rfl, fun _ => rfl, by decide +kernel⟩, by decide +kernel⟩


/-- A group whose accumulator tiles hold zeros with agreeing sums, the holder of its engine; s2:s3 = 0x1000, s4 = 0x1000. -/
def Tests.gx : Group := { Tests.g with s := [(2, 0x1000#32), (4, 0x1000#32), (6, 0x80#32)], v := (List.range 32).map fun l => (l * 64 + 2, 0x1000#32) }
/-- The state with that group, slots as in `Tests.lf` (f3 BF16), the page at 0x1000 and engine 0 as given. -/
def Tests.mat (g : Group) (e : MatEngine) : State :=
  { Tests.on g with launches := [(1, Tests.lf)], clusters := [(0, { ctb := [Tests.page], engines := [(0, e)] })]
                    l2 := (List.range 256).map fun i => (l2key 0 0 (0x1000 + 16 * i), Tests.sector) }
/-- The engine held by group 32 with a float plane of 64 in slot 3. -/
def Tests.held : MatEngine := { holder := some 32, issueActive := (1, 64, 0, 3), issueShadow := (1, 64, 0, 3), active := { kind := 1, k := 64 }, shadow := { kind := 2, k := 128 } }
def Tests.acR : AcpyRForm := { sw := 0, g := 7, c := 8, fmt := 3, ckd := 0, zc := 1, acc := 3, n1 := 1, j0 := 62 }
def Tests.acT : AcpyTForm := { sw := 0, g := 7, fmt := 3, ckd := 0, zc := 0, acc := 0, ta := 7, h := 0 }
def Tests.acM : AcpyMForm := { sw := 0, g := 7, a := 2, b := 6, fmt := 3, ckd := 0, zc := 1, acc := 0 }
def Tests.acS : AcpySForm := { sw := 0, g := 7, c := 8, acc := 1, clr := 1 }
def Tests.ack : AckdForm := { sw := 0, g := 7, fmt := 3, acc := 2 }
def Tests.as : AsetForm := { sw := 0, g := 7, c := 8, acc := 0, int := 1, n1 := 1, j0 := 62 }
def Tests.tm : TmovForm := { sw := 0, g := 7, c := 8, ta := 7, n1 := 1, j0 := 30 }
def Tests.tl : TldForm := { sw := 0, g := 7, bc := 0, a := 2, b := 0, ta := 6 }
def Tests.ls : TldForm := { sw := 0, g := 7, bc := 1, a := 4, b := 6, ta := 6 }
def Tests.mt : MldwTForm := { sw := 0, g := 7, fmt := 3, ta := 6 }
def Tests.mm : MldwMForm := { sw := 0, g := 7, a := 2, b := 0, fmt := 3, spar := 0, kind := 0 }
def Tests.mb : MbmapForm := { sw := 0, g := 7, a := 2, b := 4, high := 1 }
def Tests.mma : MmaForm := { sw := 0, g := 7, fmt := 3, flip := 1, zc := 1, acc := 0, ta := 7 }

theorem test_witness_MatrixInstructionsEnterThePipe : -- the engine held by the group, and free
    let s := Tests.mat Tests.gx Tests.held
    let w := s.who (Tests.gx.issueAt 32 Tests.P 8 7)
    let s1 := (s.setG 32 (Tests.gx.begun Tests.P)).refill w [0x1000#64]
    (∀ x ∈ ([(.acpyReg Tests.acR, { v := [8, 9], a := [3] }), (.acpyTile Tests.acT, { t := [7], a := [0] }), (.acpyStat Tests.acS, { v := [8], a := [1] }), (.ackd Tests.ack, { a := [2] }),
      (.azero { sw := 0, g := 7, acc := 3 }, { a := [3] }), (.aset Tests.as, { v := [8, 9], a := [0] }), (.tmovGet Tests.tm, { v := [8, 9], t := [7] }),
      (.tmovPut Tests.tm, { v := [8, 9], t := [7] }), (.tstsh Tests.ls, tldUsesSh Tests.ls), (.tst Tests.tl, tldUses Tests.tl),
      (.acpyMem Tests.acM, { s := [2, 3, 6], a := [0] }), (.mldwTile Tests.mt, { t := [6, 7] }), (.mldwMem Tests.mm, { s := [2, 3] }), (.mbmap Tests.mb, { s := [2, 3, 4, 5] }),
      (.mflip Tests.nf, {}), (.mma Tests.mma, { t := [7], a := [0] })] : List (Instr × Uses)), Ready s 32 Tests.P Tests.gx x.1 0 x.2) ∧
    Tests.gx.executing Tests.P 7 = 0xFFFFFFFF#32 ∧ Tests.gx.helper = 0#32 ∧ slotType (s.slot Tests.gx 3) = 3 ∧ planeShape 3 (slotPrd (s.slot Tests.gx 3)) 0 0 false = some (1, 64) ∧
    ((List.range 32).all fun l => (s.rowFaultSh Tests.gx (tldRowAddr32 Tests.ls Tests.gx l)).isNone && (s1.rowFault w .store 0x1000#64).isNone && tldRowAddr Tests.tl Tests.gx l == 0x1000#64) = true ∧
    s1.accFault w .store 0x1000#64 1 false = none ∧ s1.accFault w .load 0x1000#64 1 false = none ∧ (Tests.gx.sreg64 2).toNat = 0x1000 ∧ (Tests.gx.sreg 6).toNat = 0x80 ∧
    s.engine 0 0 = Tests.held ∧ runLength 1 64 = 1 ∧ (s.variantOf Tests.gx).tiles = 8 ∧ (s.variantOf Tests.gx).accs = 4 ∧
    (((Tests.mat Tests.gx {}).engine 0 0).holder = none ∧ ((Tests.mat Tests.gx {}).engine 0 0).waiters = []) :=
  ⟨Tests.allReady rfl rfl (by decide +kernel), by decide +kernel⟩

/-- The group with one piece of work in its pipe, whose words are zero. -/
def Tests.gp (i : Instr) : Group := { Tests.gx with pipe := [{ instr := i, lanes := 0xFFFFFFFF#32, pc := Tests.P, vals := 0x1000#32 :: 0#32 :: List.replicate 62 0x1000#32, seq := 1 }] }
/-- Its one piece of work. -/
def Tests.wk (i : Instr) : MatWork := { instr := i, lanes := 0xFFFFFFFF#32, pc := Tests.P, vals := 0x1000#32 :: 0#32 :: List.replicate 62 0x1000#32, seq := 1 }

theorem Tests.head (i : Instr) (e : MatEngine) : PipeHead (Tests.mat (Tests.gp i) e) 32 (Tests.gp i) (Tests.wk i) [] :=
  ⟨rfl, rfl, rfl, fun t _ => by simp [Group.fillPending, Tests.gp, Tests.gx, Tests.g, fetchGroupInit, Group.setPc], Or.inl (by simp [Tests.gp, Tests.gx, Tests.g, fetchGroupInit, Group.setPc])⟩

theorem test_witness_pipe_heads : -- AccumulatorAndTileWorkCompletes, PlanesAndPassesComplete, TileStoresAndDrainsComplete: each kind of work at the head
    (∀ i ∈ ([.azero { sw := 0, g := 7, acc := 3 }, .aset Tests.as, .tmovPut Tests.tm, .tmovGet Tests.tm, .acpyReg Tests.acR, .acpyTile Tests.acT, .acpyStat Tests.acS, .mldwTile Tests.mt,
      .mldwMem Tests.mm, .mbmap Tests.mb, .mflip Tests.nf, .mma Tests.mma, .tst Tests.tl, .tstsh Tests.ls, .acpyMem Tests.acM, .ackd Tests.ack] : List Instr),
        PipeHead (Tests.mat (Tests.gp i) Tests.held) 32 (Tests.gp i) (Tests.wk i) [] ∧ (Tests.wk i).instr = i ∧ (Tests.gp i).phase ≠ .retired ∧
          ((Tests.mat (Tests.gp i) Tests.held).sideLog 0 0).length ≤ 64) ∧
    Tests.as.j0.val + Tests.as.n1.val < 64 ∧ Tests.tm.j0.val + Tests.tm.n1.val < 32 ∧ ((Tests.mat (Tests.gp (.mma Tests.mma)) Tests.held).engine 0 0).shadow.kind = 2 :=
  ⟨fun i _ => ⟨Tests.head i Tests.held, rfl, by simp [Tests.gp, Tests.gx, Tests.g, fetchGroupInit, Group.setPc], Nat.zero_le 64⟩, by decide +kernel⟩

/-- The leaf of the page at 0x1000 in its port says that the page is absent. -/
def Tests.away : List (Nat × Die) :=
  [(homeDie 0 0x1000, { tlb := [(homePort 0 0x1000, [{ asid := 0, va := 0x1000, leaf :=
    { psize := 4096, x := true, w := true, rd := true, sealed_ := false, res := 3, pa := 0, remote := none, entry := 0 } }])] })]

theorem test_witness_plane_read : -- PlanesAndPassesComplete: a compacted BF16 plane at 0x1000 of which one vector is stored and there; and a page on its way
    let m : MldwMForm := { Tests.mm with spar := 2 }
    let s := Tests.mat (Tests.gp (.mldwMem m)) { Tests.held with bitmap := 1 }
    let far : State := { s with l2 := [], dies := Tests.away }
    let read (s : State) := s.readPlane (s.whoOf 32 (Tests.gp (.mldwMem m))) 1 (s.slot Tests.gx 3) 3 1 64 2 0x1000 0x1000 1
    PipeHead s 32 (Tests.gp (.mldwMem m)) (Tests.wk (.mldwMem m)) [] ∧
    planeShape (slotType (s.slot Tests.gx 3)) (slotPrd (s.slot Tests.gx 3)) 0 2 false = some (1, 64) ∧
    (match (read far).1 with | .error x => x.isNone | .ok _ => false) = true ∧
    (match (read s).1 with | .ok p => p.bitmap == 1 | .error _ => false) = true ∧ ((find (read s).2.groups 32).map (·.pipe)) = some [Tests.wk (.mldwMem m)] :=
  ⟨Tests.head _ _, by decide +kernel⟩

theorem test_witness_tile_stores : -- TileStoresAndDrainsComplete: lane 0's row to memory at 0x1000 and to scratchpad at 0x1000; its 256 bytes of elements; drain checks that pass and fail
    let w (i : Instr) : MatWork := { Tests.wk i with lanes := 1#32 }
    let g (i : Instr) : Group := { Tests.gx with pipe := [w i] }
    let s (i : Instr) : State := Tests.mat (g i) Tests.held
    let piece (i : Instr) : State → Nat → Acc × State := fun s' k => inTurn ((s i).whoOf 32 (g i)) 1 { kind := .store, va := 0x1000 + 16 * k, n := 16 }
      (fun s' => match s'.accFault ((s i).whoOf 32 (g i)) .store (BitVec.ofNat 64 (0x1000 + 16 * k)) 16 false with
        | some (c, _, d) => (.fail c d.toNat, s')
        | none => s'.storeNow ((s i).whoOf 32 (g i)) (0x1000 + 16 * k) (List.replicate 16 0#8) false) s'
    let row : State → Nat → Acc × State := fun s' _ => inTurn ((s (.tstsh Tests.ls)).whoOf 32 (g (.tstsh Tests.ls))) 1 { kind := .store, space := 1, va := 0x1000, n := 128 }
      (fun s' => s'.spStore 32 (g (.tstsh Tests.ls)) false 0x1000#32 (List.replicate 128 0#8)) s'
    (∃ v t, Performs (piece (.tst Tests.tl)) (s (.tst Tests.tl)) (List.range 8) v t) ∧ (∃ v t, Performs (piece (.acpyMem Tests.acM)) (s (.acpyMem Tests.acM)) (List.range 16) v t) ∧
    (∃ v t, Performs row (s (.tstsh Tests.ls)) [0] v t) ∧ lanesOf (1#32 &&& ~~~Tests.gx.helper) = [0] ∧ ((s (.tst Tests.tl)).sideLog 0 0).length ≤ 64 ∧
    ((s (.ackd Tests.ack)).drain 32 2 0).2 = true ∧ ((Tests.mat { g (.ackd Tests.ack) with accStatus := [(2, 2#32)], rs := [(64, 1#32)] } Tests.held).drain 32 2 0).2 = false :=
  ⟨Tests.performsAll (by decide +kernel) (by decide), Tests.performsAll (by decide +kernel) (by decide), Tests.performsAll (by decide +kernel) (by decide), by decide +kernel⟩

/-- An integer tile of zeros whose row 3 and column 5 sums expect the element 7. -/
def Tests.struck (x : Word) : Group := { Tests.g with accStatus := [(0, 2#32)], rs := [(3, 7#32)], cs := [(5, x)] }

/-- Whether an integer tile's row r, or column n, agrees with its sum. -/
def Tests.row (g : Group) (r : Nat) : Bool := sumMod ((List.range 64).map (g.accEl 0 r)) == g.rowSum 0 r
def Tests.col (g : Group) (n : Nat) : Bool := sumMod ((List.range 32).map fun r => g.accEl 0 r n) == g.colSum 0 n

theorem test_witness_DrainCheckCorrectsOneElement : -- agreeing sums; one row and one column in error, repairable and not; a row without a column; a clamped tile
    let zero : Group := { Tests.g with accStatus := [(0, 2#32)] }
    ((List.range 32).all (Tests.row zero) && (List.range 64).all (Tests.col zero)) = true ∧
    ((List.range 32).all fun y => Tests.row (Tests.struck 7#32) y == decide (y ≠ 3)) = true ∧ ((List.range 64).all fun m => Tests.col (Tests.struck 7#32) m == decide (m ≠ 5)) = true ∧
    ((List.range 64).all fun m => Tests.col (Tests.struck 8#32) m == decide (m ≠ 5)) = true ∧
    ((List.range 64).all (Tests.col (Tests.struck 0#32)) && !Tests.row (Tests.struck 0#32) 3) = true ∧
    (({ Tests.g with accStatus := [(0, 3#32)] } : Group).accStat 0).getLsbD 0 = true := by
  decide +kernel

theorem test_witness_TileLoadsAndMatrixWaits : -- rows at 0x1000 of memory and of scratchpad for lane 0; a row that may land; matrix work outstanding and not
    let g : Group := { Tests.gx with p := [(1, 1#32)] }
    let s := Tests.mat g Tests.held
    let w := s.who (g.issueAt 32 Tests.P 8 1)
    let s1 := (s.setG 32 (g.begun Tests.P)).refill w [0x1000#64]
    let row : TileRow := { tile := 7, row := 31, words := List.replicate 32 5#32, seq := 0 }
    let busy : Group := Tests.gp (.mflip Tests.nf)
    (∀ x ∈ ([(.tld { Tests.tl with g := 1 }, tldUses Tests.tl), (.tldsh { Tests.ls with g := 1 }, tldUsesSh Tests.ls), (.mwait Tests.nf, {}), (.mwaitRel Tests.nf, {})] : List (Instr × Uses)),
      Ready s 32 Tests.P g x.1 0 x.2) ∧
    clearRoad s g false ∧ Ready (Tests.mat busy Tests.held) 32 Tests.P busy (.mwait Tests.nf) 0 {} ∧
    (∃ v t, Performs (fun s' l => inTurn w s1.order (accAt (.tld Tests.tl) (tldRowAddr Tests.tl g l).toNat)
      (fun s' => filling (s'.readRow w (tldRowAddr Tests.tl g l).toNat 8) 32 6 l s.order) s') s1 [0] v t) ∧
    (∃ v t, Performs (fun s' l => inTurn w s.order (accAt (.tldsh Tests.ls) (tldRowAddr32 Tests.ls g l).toNat)
      (fun s' => filling (s'.spLoad 32 g false (tldRowAddr32 Tests.ls g l) 128) 32 6 l s.order) s') (s.setG 32 (g.begun Tests.P)) [0] v t) ∧
    lanesOf (g.issueAt 32 Tests.P 8 1).E = [0] ∧ s1.rowFault w .load 0x1000#64 = none ∧ s.rowFaultSh g 0x1000#32 = none ∧ tldRowAddr Tests.tl g 0 = 0x1000#64 ∧
    tldRowAddr32 Tests.ls g 0 = 0x1000#32 ∧
    ({ g with fills := [row] } : Group).mayLand 0 = true ∧ g.matrixDone = true ∧ (s.engine 0 0).waiters = [] ∧ g.executing Tests.P 7 = 0xFFFFFFFF#32 ∧ busy.matrixDone = false :=
  ⟨Tests.allReady rfl rfl (by decide +kernel), ⟨rfl, fun _ => rfl, by decide +kernel⟩, Tests.ready rfl rfl (by decide +kernel),
    Tests.performsAll (by decide +kernel) (by decide), Tests.performsAll (by decide +kernel) (by decide), by decide +kernel⟩


def Tests.fe : FenceForm := { sw := 0, g := 7, scope := 5 }
/-- The state with the launch's phase and the group's contexts as `Tests.on`, and a second, retired group in the block. -/
def Tests.slp (v : Nat) : Group := { Tests.g with phase := .aPark, waiting := .sleep v, waitPc := Tests.P }

theorem test_witness_FencesCompleteOncePerformed : -- everything performed; a parked load; a command on its way; a held store whose page is away, the side log full; a core with and without commands
    let late : Group := { Tests.g with replay := [{ w0 := 0, w1 := 0, lanes := 1#32, one := false, row := false, pc := Tests.P, addrs := [] }] }
    let fences : List Instr := [.fenceSc Tests.fe, .fenceRel Tests.fe, .fenceAcq Tests.fe]
    let s := Tests.on Tests.g
    let cmd : Cmd := { op := 0, num := 0, count := 1, regs := [], opts := 0, imm := 0, ntf := false, guard := none, gid := 32, bid := 1, pc := 0, asid := 0 }
    let busy : SMap Ctx := [(0, { ring := 0, rlog := 0, cmds := [cmd] })]
    let sent : State := { s with launches := [(1, { fetchLaunch with ctxs := busy })] }
    let log : SideLog := { gid := 33, bid := 1, lid := 1, asid := 0, page := 2 ^ 20, pc := Tests.P, ops := [] }
    let held : State := { s with clusters := [(0, { l1held := [(l1key 0 0x1000, { val := 5#8, party := 32 })], sideLogs := [(0, List.replicate 64 log)] })], dies := Tests.away }
    let m : Mast := { Tests.m0 with ctxs := busy }
    let ready (t : State) (g : Group) : Prop := ∀ x ∈ fences.map fun i => (i, ({} : Uses)), ReadyUni t 32 Tests.P g x.1 0 7 x.2
    ready s Tests.g ∧ ready sent Tests.g ∧ ready held Tests.g ∧ ready (Tests.on late) late ∧
    (∀ i ∈ fences, RunsMast (Tests.core Tests.m0) 0 Tests.m0 i 7) ∧ (∀ i ∈ fences, RunsMast (Tests.core m) 0 m i 7) ∧
    (∀ t ∈ [s, held], t.accessesDone 32 Tests.g = true ∧ t.commandsDone 32 Tests.g = true ∧ t.loadsDone 32 Tests.g = true) ∧
    ((s.setG 32 (Tests.g.ready Tests.P)).releaseParty 0 32).holdsAny 0 32 = false ∧ ((s.setG 32 (Tests.g.ready Tests.P)).releaseParty 0 32).accessesDone 32 Tests.g = true ∧ ((held.setG 32 (Tests.g.ready Tests.P)).releaseParty 0 32).holdsAny 0 32 = true ∧
    sent.commandsDone 32 Tests.g = false ∧ (Tests.on late).accessesDone 32 late = false ∧ (Tests.on late).loadsDone 32 late = false ∧
    (Tests.m0.ctxs.all fun (e : Nat × Ctx) => e.2.cmds.isEmpty) = true ∧ (m.ctxs.all fun (e : Nat × Ctx) => e.2.cmds.isEmpty) = false :=
  ⟨Tests.allReadyUni rfl rfl (by decide +kernel), Tests.allReadyUni rfl rfl (by decide +kernel), Tests.allReadyUni rfl rfl (by decide +kernel),
    Tests.allReadyUni rfl rfl (by decide +kernel), Tests.allRun rfl rfl (by decide +kernel), Tests.allRun rfl rfl (by decide +kernel), by decide +kernel⟩

theorem test_witness_BarriersAndSuperstepsGather : -- all lanes together (alone, before a second group, with a parked load); lanes apart; one device and two; a coresident launch
    let i : Instr := .bar { sw := 0, g := 7, n := 15 }
    let apart : Group := Tests.g.setPc 1#32 0x20000#64
    let late : Group := { Tests.g with replay := [{ w0 := 0, w1 := 0, lanes := 1#32, one := false, row := false, pc := Tests.P, addrs := [] }] }
    let s := Tests.on Tests.g
    let co (ndev : Nat) : State := { s with launches := [(1, { fetchLaunch with record := { groups := 1, lflags := 4, ndev := ndev } })] }
    let two : State := { s with groups := [(32, Tests.g), (33, { Tests.g with num := 1, slot := 1 })], blocks := [(1, { fetchBlock with ngroups := 2 })] }
    let waiter : State := { s with blocks := [(1, { fetchBlock with bars := [(3, [32])] })], groups := [(32, { Tests.g with phase := .aPark, waiting := .bar 3, waitPc := Tests.P })] }
    let step_ : State := { s with launches := [(1, { fetchLaunch with superstep := [32] })], groups := [(32, { Tests.g with phase := .aPark, waiting := .superstep, waitPc := Tests.P })] }
    let met (s : State) (g : Group) : State := s.setG 32 ((g.ready Tests.P).setHold (g.live &&& ~~~g.issued Tests.P) .free)
    let arrive (s : State) : State := ((met s Tests.g).fenceSc 32 Tests.g 3).2.updB 1 fun b => { b with bars := setD b.bars 15 (32 :: (getD b.bars 15 []).filter (· ≠ 32)) [] }
    let super (s : State) : State := ((met s Tests.g).fenceSc 32 Tests.g 6).2.updL 1 fun l => { l with superstep := 32 :: l.superstep.filter (· ≠ 32) }
    (∀ x ∈ [(i, ({} : Uses)), (.sstep Tests.nf, {})], ReadyUni s 32 Tests.P Tests.g x.1 0 7 x.2) ∧ ReadyUni two 32 Tests.P Tests.g i 0 7 {} ∧
    ReadyUni (Tests.on late) 32 Tests.P late i 0 7 {} ∧ ReadyUni (Tests.on apart) 32 Tests.P apart i 0 7 {} ∧
    ReadyUni (co 1) 32 Tests.P Tests.g (.sstep Tests.nf) 0 7 {} ∧ ReadyUni (co 2) 32 Tests.P Tests.g (.sstep Tests.nf) 0 7 {} ∧
    Tests.g.live &&& ~~~Tests.g.issued Tests.P = 0#32 ∧ has (apart.live &&& ~~~apart.issued Tests.P) 0 ∧ apart.holdOf 0 = .free ∧
    (∀ t ∈ [s, two, co 1, co 2], ((met t Tests.g).fenceSc 32 Tests.g 3).1 = true) ∧ ((met (Tests.on late) late).fenceSc 32 late 3).1 = false ∧
    (arrive s).barDone 1 15 = true ∧ (arrive two).barDone 1 15 = false ∧ (super (co 1)).superDone 1 = true ∧
    s.launchOfG Tests.g = some fetchLaunch ∧ bit fetchLaunch.record.lflags 2 = false ∧ bit 4 2 = true ∧ ((co 2).launchOfG Tests.g).map (fun l => l.record.ndev) = some 2 ∧
    (find waiter.blocks 1).map (fun b => getD b.bars 3 []) = some [32] ∧ (find step_.launches 1).map (fun l => l.superstep) = some [32] := by
  refine ⟨Tests.allReadyUni rfl rfl (by decide +kernel), ?_, ?_, ?_, ?_, ?_, by decide +kernel⟩ <;> exact Tests.readyUni rfl rfl (by decide +kernel)

/-- A barrier object at scratchpad offset 0x100 with the given words; s2 = 0x100, s4 = 1, s6 = 0, s8 = 2^31, s10 = 65536, s12 = 65535, s14 = 2^31 - 1. -/
def Tests.obj (arr count phase flags : Nat) (g : Group) : State :=
  { Tests.on g with clusters := [(0, { scratch := [(0x104, BitVec.ofNat 8 count), (0x106, BitVec.ofNat 8 arr), (0x108, BitVec.ofNat 8 phase), (0x10C, BitVec.ofNat 8 flags)].filter fun e => e.2 ≠ 0#8 })] }
def Tests.gb : Group := { Tests.g with s := [(2, 0x100#32), (4, 1#32), (8, 0x80000000#32), (10, 65536#32), (12, 65535#32), (14, 0x7FFFFFFF#32)] }
def Tests.bx (b : Fin 64) : BarxForm := { sw := 0, g := 7, i := 0, a := 2, b := b }

theorem test_witness_BarrierObjectOperations : -- a live object of COUNT 2; operands at both ends of their ranges and beyond; an object not live, and one overrun; lanes apart
    let s := Tests.obj 0 2 0 1 Tests.gb
    let apart := Tests.gb.setPc 1#32 0x20000#64
    let met := (s.setG 32 ((Tests.gb.ready Tests.P).setHold (Tests.gb.live &&& ~~~Tests.gb.issued Tests.P) .free)).releaseParty 0 32
    (∀ x ∈ (([4, 6, 10, 12] : List (Fin 64)).map fun b => (Instr.barxInit (Tests.bx b), barxUses (Tests.bx b))) ++
      (([4, 6, 8, 14] : List (Fin 64)).map fun b => (Instr.barxExpect (Tests.bx b), barxUses (Tests.bx b))) ++ [(.barxArrexp (Tests.bx 14), barxUses (Tests.bx 14)),
      (.barxArrive Tests.af, { s := [2] }), (.barxInval Tests.af, { s := [2] })], ReadyUni s 32 Tests.P Tests.gb x.1 0 7 x.2) ∧
    ReadyUni (Tests.obj 0 2 0 0 Tests.gb) 32 Tests.P Tests.gb (.barxExpect (Tests.bx 4)) 0 7 (barxUses (Tests.bx 4)) ∧
    ReadyUni (Tests.obj 0 2 0 3 Tests.gb) 32 Tests.P Tests.gb (.barxExpect (Tests.bx 4)) 0 7 (barxUses (Tests.bx 4)) ∧
    ReadyUni (Tests.obj 0 2 0 1 apart) 32 Tests.P apart (.barxArrive Tests.af) 0 7 { s := [2] } ∧
    s.objFault Tests.gb 0x100#32 = none ∧ s.spPoison fetchBlock 0x100 16 = false ∧ s.blockOf Tests.gb = some fetchBlock ∧ s.objPlace fetchBlock 0x100#32 = some (1, fetchBlock, 0x100) ∧
    fetchBlock.phase = .resident ∧ Tests.gb.waiting = .nothing ∧ s.objAt fetchBlock 0x100 = { pend := 0, arr := 0, count := 2, phase := 0, valid := true, overrun := false } ∧
    (Tests.obj 0 2 0 0 Tests.gb).objAt fetchBlock 0x100 = { pend := 0, arr := 0, count := 2, phase := 0, valid := false, overrun := false } ∧
    (Tests.obj 0 2 0 3 Tests.gb).objAt fetchBlock 0x100 = { pend := 0, arr := 0, count := 2, phase := 0, valid := true, overrun := true } ∧
    Tests.gb.pipeMem = false ∧ s.readsDone 32 Tests.gb = true ∧ met.holdsAny 0 32 = false ∧ Tests.gb.live &&& ~~~Tests.gb.issued Tests.P = 0#32 ∧ has (apart.live &&& ~~~apart.issued Tests.P) 0 :=
  ⟨Tests.allReadyUni rfl rfl (by decide +kernel), Tests.readyUni rfl rfl (by decide +kernel), Tests.readyUni rfl rfl (by decide +kernel), Tests.readyUni rfl rfl (by decide +kernel),
    by decide +kernel⟩

theorem test_witness_BarrierWaitersAreReleased : -- PHASE equal to s4 = 1 and not; an arrival's store in the side log and none; a dead and an overrun object; waiters of each kind
    let i : Instr := .barw { sw := 0, g := 7, a := 2, b := 4 }
    let obj (phase flags : Nat) := Tests.obj 0 2 phase flags Tests.gb
    let key := objKey 1 0x100
    let log : SideLog := { gid := 32, bid := 1, lid := 1, asid := 0, page := 0x1000, pc := 0, ops := [{ lane := 0, addr := 0x1000, size := 4, atop := none, y := 1, y2 := 0 }], seq := 0 }
    let owe (s : State) : State := { s with owes := [(key, 32, 1)], clusters := s.clusters.map fun (e : Nat × Cluster) => (e.1, { e.2 with sideLogs := [(0, [log])] }) }
    let w : Group := { Tests.gb with phase := .aPark, waiting := .barw key 0#32, waitPc := Tests.P }
    let d : Group := { w with waiting := .barDone key }
    (∀ s ∈ [obj 1 1, obj 0 1, owe (obj 0 1), obj 1 0, obj 1 3], s.objFault Tests.gb 0x100#32 = none ∧ s.blockOf Tests.gb = some fetchBlock ∧
      s.objPlace fetchBlock 0x100#32 = some (1, fetchBlock, 0x100) ∧ s.spPoison fetchBlock 0x100 16 = false ∧ s.cur = .group 32 Tests.P ∧ find s.groups 32 = some Tests.gb ∧
      Tests.readyB s Tests.gb i 0 { s := [2, 4] } = true) ∧
    ((obj 1 1).objAt fetchBlock 0x100).phase = 1 ∧ ((obj 0 1).objAt fetchBlock 0x100).phase = 0 ∧ (obj 0 1).owing key = false ∧ (owe (obj 0 1)).owing key = true ∧
    ((obj 1 0).objAt fetchBlock 0x100).valid = false ∧ ((obj 1 3).objAt fetchBlock 0x100).overrun = true ∧
    (∀ s ∈ [Tests.obj 1 2 0 1 w, owe (Tests.obj 1 2 0 1 w)], find s.groups 32 = some w ∧ (∀ e ∈ s.groups, e.2.phase = .aPark)) ∧ w.event = none ∧
    (∀ s ∈ [Tests.obj 1 2 0 1 d, owe (Tests.obj 1 2 0 1 d)], find s.groups 32 = some d) ∧ d.phase = .aPark ∧ (owe (Tests.obj 1 2 0 1 d)).owing key = true := by
  decide +kernel

theorem test_witness_TimelinesGuardsAndLaunchOrder : -- counters 0 against n = 0 and n = 1; an unknown context; a core's own context; guards 0 and 15; a launch with a live predecessor
    let tlw (b : Fin 64) : TlwForm := { sw := 0, g := 7, i := 1, w := 0, a := 2, b := b }
    let tlr : TlrForm := { sw := 0, g := 7, w := 1, d := 62, a := 2 }
    let gs (n : Fin 16) (b : Fin 64) : GsetForm := { sw := 0, g := 7, i := 1, n := n, b := b }
    let none_ : Group := { Tests.g with s := [(2, 0x7000#32)] }
    let m : Mast := { Tests.m0 with s := [(2, 0#32)], ctxs := [(0, { ring := 0, rlog := 0, taken := 2, counter := 1 })] }
    let s := Tests.on Tests.g
    let after : State := { s with launches := [(1, { fetchLaunch with index := 1, record := { groups := 1, lflags := 2 } }), (2, { fetchLaunch with index := 0 })] }
    (∀ x ∈ ([(.tlwait (tlw 0), tlwUses (tlw 0)), (.tlwait (tlw 1), tlwUses (tlw 1)), (.tlread tlr, { s := [2, 62, 63] }), (.gset (gs 0 0), {}), (.gset (gs 15 1), {}),
      (.gsetClr { sw := 0, g := 7, n := 15 }, {}), (.sms Tests.nf, {}), (.waitpred Tests.nf, {})] : List (Instr × Uses)), ReadyUni s 32 Tests.P Tests.g x.1 0 7 x.2) ∧
    ReadyUni (Tests.on none_) 32 Tests.P none_ (.tlread tlr) 0 7 { s := [2, 62, 63] } ∧ ReadyUni after 32 Tests.P Tests.g (.waitpred Tests.nf) 0 7 {} ∧
    (∀ i ∈ ([.tlwait (tlw 1), .tlwait (tlw 2), .tlread tlr] : List Instr), RunsMast (Tests.core m) 0 m i 7) ∧
    (s.ctx 1 0).map (fun x => x.counter) = some 0 ∧ s.lidOf Tests.g = 1 ∧ s.guardOf 1 15 = 0 ∧ s.accessesDone 32 Tests.g = true ∧
    ((s.setG 32 (Tests.g.ready Tests.P)).releaseParty 0 32).holdsAny 0 32 = false ∧ ((s.setG 32 (Tests.g.ready Tests.P)).releaseParty 0 32).accessesDone 32 Tests.g = true ∧ s.launchOfG Tests.g = some fetchLaunch ∧ s.predecessorLive fetchLaunch = false ∧
    (find after.launches 1).map after.predecessorLive = some true ∧
    ({ s with blocks := [(1, { fetchBlock with guards := [(15, 1)] })] } : State).guardOf 1 15 = 1 ∧ (Tests.on none_).ctx 1 0x7000 = none ∧
    (∀ r ∈ [false, true], (match (Tests.core m).mastTimeline 0 0#32 r with | .ok x => x == (mastOwner 0, 0) | .error _ => false) = true) ∧
    (Tests.core m).ctx (mastOwner 0) 0 = some { ring := 0, rlog := 0, taken := 2, counter := 1 } :=
  ⟨Tests.allReadyUni rfl rfl (by decide +kernel), Tests.readyUni rfl rfl (by decide +kernel), Tests.readyUni rfl rfl (by decide +kernel), Tests.allRun rfl rfl (by decide +kernel),
    by decide +kernel⟩

theorem test_witness_TrapsAndSchedulingInstructions : -- no event and one undelivered; alone and with a group that may take the slot; sleeping, due and not; a starved group
    let trap : TrapForm := { sw := 0, g := 7, n := 63 }
    let rec_ : FaultRec := { code := 0x50, lanes := 1#32, pc := 0#64, addr := 0#64, detail := 0#64, value := 0#32, halts := false, clk := 0 }
    let told : Group := { Tests.g with event := some rec_ }
    let other : Group := { Tests.g with num := 1, slot := 1, phase := .pReady false, active := none }
    let two : State := { Tests.on Tests.g with groups := [(32, Tests.g), (33, other)], clk := 16384 }
    (∀ x ∈ ([(.trap trap, {}), (.brk trap, {}), (.yield Tests.nf, {}), (.sleep { sw := 0, g := 7, i := 1, b := 0 }, {}), (.sleep { sw := 0, g := 7, i := 1, b := 63 }, {})] : List (Instr × Uses)),
      ReadyUni (Tests.on Tests.g) 32 Tests.P Tests.g x.1 0 7 x.2) ∧
    ReadyUni (Tests.on Tests.g) 32 Tests.P Tests.g (.swpt { g := 7, n := 63 }) 1 7 {} ∧ ReadyUni (Tests.on told) 32 Tests.P told (.trap trap) 0 7 {} ∧ told.event ≠ none ∧
    RunsMast (Tests.core Tests.m0) 0 Tests.m0 (.sleep { sw := 0, g := 7, i := 1, b := 63 }) 7 ∧
    ReadyUni two 32 Tests.P Tests.g (.yield Tests.nf) 0 7 {} ∧
    (((two.setG 32 (Tests.g.ready Tests.P)).performed 32 (Tests.g.issued Tests.P) (Tests.P + 4#64) []).candidate 0 0 32).map (fun e => e.1) = some 33 ∧
    ((two.groups.filter fun x => two.promotable 0 0 32 x && decide (x.2.since + 16384 ≤ two.clk)).map fun e => e.1) = [33] ∧
    ((two.groups.filter fun x => x.2.residentAt 0 0 && x.2.inActive).map fun e => e.1) = [32] ∧
    (find (Tests.on (Tests.slp 0)).groups 32 = some (Tests.slp 0) ∧ (0 : Nat) ≤ (Tests.on (Tests.slp 0)).clk ∧ (Tests.on (Tests.slp 1)).clk < 1) ∧
    (Tests.on { Tests.slp 0 with waiting := .results }).wakeable 32 { Tests.slp 0 with waiting := .results } = true :=
  ⟨Tests.allReadyUni rfl rfl (by decide +kernel), Tests.readyUni rfl rfl (by decide +kernel), Tests.readyUni rfl rfl (by decide +kernel), by decide +kernel,
    Tests.allRun rfl rfl (l := [.sleep { sw := 0, g := 7, i := 1, b := 63 }]) (by decide +kernel) _ (List.mem_singleton.2 rfl),
    Tests.readyUni rfl rfl (by decide +kernel), by decide +kernel⟩



/-- The state of the tests whose context n of the launch is x. -/
def Tests.ctxIs (g : Group) (n : Nat) (x : Ctx) : State := { Tests.on g with launches := [(1, { fetchLaunch with ctxs := put fetchCtxs n x })] }

theorem test_witness_QueueRegistersComplete : -- binding to a push and a pop context, to none and by helpers only; a push FIFO with just room and full; a pop FIFO with entries and empty
    let qb (pop : Fin 2) : Instr := .qbind { sw := 0, g := 7, pop := pop, q := 15, b := 2 }
    let qf : QForm := { sw := 0, g := 7, v := 62, q := 15 }
    let at_ (n : Word) : Group := { Tests.g with s := [(2, n)] }
    let push : Group := { Tests.g with q := [(15, { ctx := 0x1000#32, pop := false })] }
    let pop : Group := { Tests.g with q := [(15, { ctx := 0x4000#32, pop := true })] }
    let helpers : Group := { Tests.g with helper := 0xFFFFFFFF#32 }
    let filled (n : Nat) : Ctx := { ring := 0, rlog := 0, push := List.replicate n 0#64 }
    let level : Ctx := { ring := 0, rlog := 0, pop := List.replicate 32 5#64 }
    let ready (s : State) (g : Group) (i : Instr) (u : Uses) : Prop := Ready s 32 Tests.P g i 0 u
    ready (Tests.on (at_ 0x1000#32)) (at_ 0x1000#32) (qb 0) { s := [2] } ∧ ready (Tests.on (at_ 0x4000#32)) (at_ 0x4000#32) (qb 1) { s := [2] } ∧
    ready (Tests.on (at_ 0x3000#32)) (at_ 0x3000#32) (qb 0) { s := [2] } ∧ ready (Tests.on helpers) helpers (qb 0) { s := [2] } ∧
    ready (Tests.ctxIs push 0x1000 (filled 224)) push (.qwr qf) { v := [62, 63] } ∧ ready (Tests.ctxIs push 0x1000 (filled 225)) push (.qwr qf) { v := [62, 63] } ∧
    ready (Tests.on pop) pop (.qwr qf) { v := [62, 63] } ∧ ready (Tests.on pop) pop (.qrd qf) { v := [62, 63] } ∧ ready (Tests.ctxIs pop 0x4000 level) pop (.qrd qf) { v := [62, 63] } ∧
    ready (Tests.on pop) pop (.qstat qf) { v := [62] } ∧
    ((Tests.on Tests.g).ctx 1 0x1000).isSome = true ∧ ((Tests.on Tests.g).ctx 1 0x4000).isSome = true ∧ push.executing Tests.P 7 &&& ~~~push.helper = 0xFFFFFFFF#32 ∧
    helpers.executing Tests.P 7 &&& ~~~helpers.helper = 0#32 ∧ find push.q 15 = some { ctx := 0x1000#32, pop := false } ∧ find pop.q 15 = some { ctx := 0x4000#32, pop := true } ∧
    (∀ n ∈ [224, 225], (Tests.ctxIs push 0x1000 (filled n)).ctx 1 0x1000 = some (filled n)) ∧ (Tests.ctxIs pop 0x4000 level).ctx 1 0x4000 = some level ∧
    (Tests.on pop).ctx 1 0x4000 = some { ring := 0, rlog := 0, room := 1 } := by
  refine ⟨?_, ?_, ?_, ?_, ?_, ?_, ?_, ?_, ?_, ?_, by decide +kernel⟩ <;> exact Tests.ready rfl rfl (by decide +kernel)

/-- A command's fields with its context given by imm6. -/
def Tests.cmd (imm opts : Nat) : UeForm := { Tests.ue with i := 1, b := 0, a := 20, imm := Fin.ofNat _ imm, opts := Fin.ofNat _ opts }
/-- Registers s20 on for a command: SRC 0x1000, DST 0x1000, then the given words. -/
def Tests.regs (ws : List Word) : SMap Word := (List.range ws.length).map fun i => (20 + i, ws.getD i 0#32)
/-- A group with these registers, in the state with the page at 0x1000. -/
def Tests.gc (ws : List Word) : Group := { Tests.g with s := Tests.regs ws }

theorem test_witness_EngineCommandsTakeANumber : -- each command with checks that pass, behind an acquire that waits and behind none; a context not bound; a core's own contexts
    let words (last : List Word) : List Word := [0x1000#32, 0#32, 0x1000#32, 0#32] ++ last
    let cpy := Tests.gc (words [0x100#32, 0#32])
    let gath := Tests.gc (words [1#32, 0#32, 0x1000#32, 0#32])
    let coll := Tests.gc (words [16#32, 0#32, 0#32, 0#32])
    let vdec := Tests.gc (words [16#32, 0#32, 0x00100010#32, 64#32])
    let after : Group := { cpy with acqAt := 5, sideCount := 1 }
    let ready (g : Group) : State := (Tests.mem g).setG 32 (g.ready Tests.P)
    let who (g : Group) : Who := (ready g).who (g.issueAt 32 Tests.P 8 7)
    let pass (l : List Check) : Bool := l.all Option.isNone
    let regs (g : Group) (n : Nat) : List Word := (List.range n).map fun k => g.sreg (20 + k)
    let takes (g : Group) (i : Instr) (f : UeForm) (n : Nat) : Prop := ReadyUni (Tests.mem g) 32 Tests.P g i 0 7 (ueUses f n)
    let m : Mast := { Tests.m0 with s := Tests.regs (words [0x100#32, 0#32]), ctxs := [(0, { ring := 0, rlog := 0 }), (0x1000, { ring := 0, rlog := 0 }), (0x2000, { ring := 0, rlog := 0 })] }
    takes cpy (.cpy (Tests.cmd 0 0)) (Tests.cmd 0 0) 6 ∧ takes after (.cpy (Tests.cmd 0 0)) (Tests.cmd 0 0) 6 ∧ takes gath (.gath (Tests.cmd 16 0)) (Tests.cmd 16 0) 8 ∧
    takes gath (.scat (Tests.cmd 16 0)) (Tests.cmd 16 0) 8 ∧ takes coll (.coll (Tests.cmd 16 0)) (Tests.cmd 16 0) 8 ∧ takes vdec (.vdec (Tests.cmd 0 0)) (Tests.cmd 0 0) 8 ∧
    takes cpy (.gath { Tests.cmd 16 0 with i := 0, b := 2 }) { Tests.cmd 16 0 with i := 0, b := 2 } 8 ∧
    (∀ i ∈ ([.cpy (Tests.cmd 0 0), .gath (Tests.cmd 16 0), .scat (Tests.cmd 16 0)] : List Instr), RunsMast (Tests.core m) 0 m i 7) ∧
    pass ((ready cpy).cpyChecks cpy (Tests.cmd 0 0) (who cpy) (regs cpy 6)) = true ∧ pass ((ready after).cpyChecks after (Tests.cmd 0 0) (who after) (regs after 6)) = true ∧
    pass ((ready gath).gathChecks gath (Tests.cmd 16 0) false (who gath) (regs gath 8)) = true ∧ pass ((ready gath).gathChecks gath (Tests.cmd 16 0) true (who gath) (regs gath 8)) = true ∧
    collOk 0 1 0 16 0 0 ((Tests.mem coll).ndevOf coll) (rg64 (regs coll 8) 0) (rg64 (regs coll 8) 2) = true ∧ vdecOk 0x00100010 64 (rg64 (regs vdec 8) 2) = true ∧
    pass [(ready coll).memRange (who coll) .copy 0x1000#64 64 0x33, (ready coll).memRange (who coll) .store 0x1000#64 64 0x33,
      (ready vdec).memRange (who vdec) .copy 0x1000#64 16 0x31, (ready vdec).memRange (who vdec) .store 0x1000#64 1 0x31] = true ∧
    (∀ n ∈ [0, 0x1000, 0x2000, 0x3000, 0x4000], ((Tests.mem cpy).ctx 1 n).isSome = true) ∧ (0#32).toNat / 4096 ≠ 1 ∧
    ((ready cpy).afterAcquires 32 cpy).1 = false ∧ (find ((ready cpy).afterAcquires 32 cpy).2.groups 32).isSome = true ∧ ((ready after).afterAcquires 32 after).1 = true ∧ cpy.acqAt = 0 ∧
    pass ((Tests.core m).cpyChecksMast 0 (Tests.cmd 0 0) ((List.range 6).map fun k => m.sreg (20 + k))) = true ∧
    pass ((Tests.core m).gathChecksMast 0 (Tests.cmd 16 0) false ((List.range 8).map fun k => m.sreg (20 + k))) = true ∧
    pass ((Tests.core m).gathChecksMast 0 (Tests.cmd 16 0) true ((List.range 8).map fun k => m.sreg (20 + k))) = true ∧
    (∀ n ∈ [0, 0x1000, 0x2000], ((Tests.core m).ctx (mastOwner 0) n).isSome = true) ∧ m.mayRun = true := by
  refine ⟨?_, ?_, ?_, ?_, ?_, ?_, ?_, Tests.allRun rfl rfl (by decide +kernel), by decide +kernel⟩ <;> exact Tests.readyUni rfl rfl (by decide +kernel)

theorem test_witness_EnqueueAndTensorDeclarations : -- a queue with room and full; a grid of no gangs; a declaration of one page, its freeze and its retirement
    let enq : UeForm := Tests.cmd 0 6
    let grid : UeForm := Tests.cmd 1 7
    let g := Tests.g
    let full := Tests.ctxIs g 0x5000 { ring := 0, rlog := 0, room := 1, items := [{ num := 1, count := 1, grid := false, arg := 0#64, guard := none }] }
    let d := Tests.gc [0x1000#32, 0#32, 0x1000#32, 0#32, 7#32, 1#32]
    let t : AForm := { sw := 0, g := 7, a := 20 }
    let decl : World := { decls := [{ tid := 7, ver := 1, base := 0x1000, bytes := 0x1000, frozen := false }] }
    let leaf : Leaf := { psize := 4096, x := true, w := true, rd := true, sealed_ := false, res := 0, pa := 0, remote := none, entry := 0 }
    let sd : State := { Tests.mem d with dies := [(homeDie 0 0x1000, { tlb := [(homePort 0 0x1000, [{ asid := 0, va := 0x1000, leaf := leaf }])] })] }
    let declared (s : State) : State := ((s.setG 32 (d.ready Tests.P)).fenceSc 32 d 5).2
    (∀ x ∈ ([(.enq enq, ueUses enq 4), (.enqw enq, ueUses enq 4), (.enqw grid, ueUses grid 4)] : List (Instr × Uses)), ReadyUni (Tests.on g) 32 Tests.P g x.1 0 7 x.2) ∧
    (∀ x ∈ ([(.enq enq, ueUses enq 4), (.enqw enq, ueUses enq 4)] : List (Instr × Uses)), ReadyUni full 32 Tests.P g x.1 0 7 x.2) ∧
    (∀ x ∈ ([(.tdeclDecl t, { s := regRun 20 6 }), (.tdeclFrz t, { s := regRun 20 6 }), (.tdeclRet t, { s := regRun 20 6 })] : List (Instr × Uses)),
      ReadyUni sd 32 Tests.P d x.1 0 7 x.2) ∧
    (Tests.on g).ctx 1 0x5000 = some { ring := 0, rlog := 0, room := 1 } ∧ find (Tests.on g).launches 1 = some fetchLaunch ∧ g.sreg 23 = 0#32 ∧ fetchLaunch.spawn = 1 ∧
    (((Tests.on g).setG 32 (g.ready Tests.P)).releaseGroup 32 g).1 = true ∧ (find (((Tests.on g).setG 32 (g.ready Tests.P)).releaseGroup 32 g).2.groups 32).isSome = true ∧
    (full.ctx 1 0x5000).map (fun x => x.items.length) = some 1 ∧
    ((sd.setG 32 (d.ready Tests.P)).fenceSc 32 d 5).1 = true ∧ (d.sreg64 20).toNat = 0x1000 ∧ (d.sreg 24).toNat = 7 ∧ (declared sd).worldOf d = 0 ∧
    ((declared sd).declPages 0 0 0x1000 0x2000 {} 3).1 = {} ∧ (({} : World).declFault 0 0x1000 0x1000 7 1).isNone = true ∧
    (∀ op ∈ [1, 2], (decl.declFault op 0x1000 0x1000 7 1).isNone = true ∧ (({} : World).declFault op 0x1000 0x1000 7 1).isSome = true) :=
  ⟨Tests.allReadyUni rfl rfl (by decide +kernel), Tests.allReadyUni rfl rfl (by decide +kernel), Tests.allReadyUni rfl rfl (by decide +kernel), by decide +kernel⟩

def Tests.uml : UmForm := { Tests.um with base := 12 }
def Tests.uma : UmaForm := { sw := 0, g := 7, d := 8, base := 12, off := 0, size := 2, scope := 0, atop := 0, pol := 0 }

theorem test_witness_UniformAccessesComplete : -- accesses of a group at 0x1000 that pass and fail; a core's SRAM at its end, its tier map, scratchpad and an atomic
    let s := Tests.mem Tests.gm
    let it := Tests.gm.issueAt 32 Tests.P 8 7
    let w := s.who it
    let ready := s.setG 32 (Tests.gm.ready Tests.P)
    let s1 := ready.refill w [0x1000#64]
    let m : Mast := { Tests.m0 with s := [(12, 0x3FFFC#32)] }
    let old : List Byte := [0xEF#8, 0xCD#8, 0xAB#8, 0x89#8]
    let turn (i : Instr) (s1 : State) (f : State → Acc × State) : Acc := (inTurn w s1.order (accAt i 0x1000) f s1).1
    let gives (r : MastAcc) : Bool := match r with | .ok _ _ => true | _ => false
    (∀ x ∈ ([(.sld Tests.uml, { s := [8, 12, 13] }), (.sst Tests.uml, { s := [8, 12, 13] }), (.sldsh Tests.uml, { s := [8, 12] }), (.sstsh Tests.uml, { s := [8, 12] }),
      (.satom Tests.uma, { s := [8, 12, 13] }), (.satsh Tests.uma, { s := [8, 12] })] : List (Instr × Uses)), ReadyUni s 32 Tests.P Tests.gm x.1 0 7 x.2) ∧
    clearRoad s Tests.gm false ∧ clearRoad s Tests.gm true ∧
    (∀ i ∈ ([.sld Tests.uml, .sst Tests.uml, .sldsh Tests.uml, .sstsh Tests.uml, .satom Tests.uma, .satsh Tests.uma] : List Instr), RunsMast (Tests.core m) 0 m i 7) ∧
    uniAddr (Tests.gm.sreg64 12) 0 = 0x1000#64 ∧ uniAddr32 (Tests.gm.sreg 12) 0 = 0x1000#32 ∧
    (∀ k ∈ [AccKind.load, .store, .atomic], s1.accFault w k 0x1000#64 4 false = none) ∧ ready.spFault Tests.gm false 0x1000#32 4 = none ∧
    turn (.sld Tests.uml) s1 (fun s => s.loadNow w 0x1000 4 false 0 false) = .ok old ∧
    turn (.sst Tests.uml) s1 (fun s => s.storeAtPoint w 0x1000 [1#8, 2#8, 3#8, 4#8] false false 0 it.pc it.lowest) = .ok [] ∧
    turn (.satom Tests.uma) s1 (fun s => s.atomicNow w 0x1000 2 0 5 0) = .ok old ∧ turn (.sldsh Tests.uml) ready (fun s => s.spLoad 32 Tests.gm false 0x1000#32 4) = .ok (List.replicate 4 0#8) ∧
    turn (.sstsh Tests.uml) ready (fun s => s.spStore 32 Tests.gm false 0x1000#32 [1#8, 2#8, 3#8, 4#8]) = .ok [] ∧
    turn (.satsh Tests.uma) ready (fun s => s.spAtomic 32 Tests.gm false 0x1000#32 2 0 5 0) = .ok (List.replicate 4 0#8) ∧
    s1.accFault w .load 0x1002#64 4 true = some (0x12, 0x1002#64, 0#64) ∧ s.spFault Tests.gm false 0x1002#32 4 = some (0x12, 0x1002#64, 0#64) ∧
    (uniAddr (m.sreg64 12) 0).toNat + 4 = 0x40000 ∧ gives ((Tests.core m).mastLoad 0 0x3FFFC 4 0) = true ∧ (Tests.core m).mastBar 0 0x3FFFC 4 1 = none ∧
    gives (((Tests.core m).mastForce 0 0x3FFFC 4).mastLoad 0 0x3FFFC 4 1) = true ∧ gives ((Tests.core m).mastStore 0 0x3FFFC 4 5) = true ∧
    gives ((Tests.core m).mastSpLoad 0 0#32 4) = true ∧ gives ((Tests.core m).mastSpStore 0 0#32 4 5) = true :=
  ⟨Tests.allReadyUni rfl rfl (by decide +kernel), ⟨rfl, fun _ => rfl, by decide +kernel⟩, ⟨rfl, fun h => by simp at h, by decide +kernel⟩, Tests.allRun rfl rfl (by decide +kernel), by decide +kernel⟩

theorem test_witness_PrivilegeAndOpcodeChecks : -- a group, with each switch marker; a core in user mode, in privileged mode with the guard off; a group-only and a lane instruction; a fetch that fails
    let user : Mast := { Tests.m0 with priv := false }
    Issues (Tests.on Tests.g) 32 Tests.P Tests.g 0 ∧ Issues (Tests.on Tests.g) 32 Tests.P Tests.g 1 ∧
    (Tests.core user).cur = .mast 0 ∧ (Tests.core user).mast 0 = user ∧ user.mayRun = true ∧ user.priv = false ∧
    (Tests.core Tests.m0).mast 0 = Tests.m0 ∧ Tests.m0.mayRun = true ∧ Tests.m0.priv = true ∧ (Instr.mret { sw := 0, g := 0 }).wf = true ∧ predOf Tests.m0.k 0 = false ∧
    encode (.iadd Tests.rf) = some (0x00703102, none) ∧ (0x1FFFFFFFF : Nat) < 2 ^ 33 ∧ (0x10 : Nat) ≠ 0x40 ∧ (0x10 : Nat) ≠ 0x36 :=
by
  refine ⟨?_, ?_, by decide +kernel⟩ <;> exact ⟨rfl, rfl, by decide +kernel, by decide +kernel, by decide +kernel, rfl⟩


/-- The state of the tests with a mast core m on cluster 0 that is the current agent, and group g (sub-partition 0, slot 0). -/
def Tests.mg (m : Mast) (g : Group) : State := { Tests.on g with cur := .mast 0, clusters := [(0, { mast := m })] }
/-- A fault record of lane 0. -/
def Tests.rec_ (code : Nat) : FaultRec := { code := code, lanes := 1#32, pc := 0x10000#64, addr := 5#64, detail := 0#64, value := 5#32, halts := false, clk := 0 }

theorem test_witness_TakingAnExceptionAndReturning : -- DEPTH 14 and 15; mret at DEPTH 0 and 1; a group's event with IE 1 and 0; a timer that has run out, awake and asleep
    let m (ie : Bool) (d : Nat) : Mast := { Tests.m0 with ie := ie, depth := d }
    let told : Group := { Tests.g with event := some (Tests.rec_ 0x51) }
    let timer : Mast := { Tests.m0 with ie := true, mtime := 7#32, wait := .sleep none }
    (m true 14).depth < 15 ∧ 15 ≤ (m true 15).depth ∧
    (∀ d ∈ [0, 1], RunsMast (Tests.core (m true d)) 0 (m true d) (.mret Tests.nf) 7 ∧ (m true d).priv = true) ∧
    (∀ ie ∈ [true, false], (Tests.mg (m ie 14) told).mast 0 = m ie 14 ∧ find (Tests.mg (m ie 14) told).groups 32 = some told ∧ told.event = some (Tests.rec_ 0x51) ∧ told.late = []) ∧
    (Tests.mg (m true 14) told).nextEvent 0 = .group 32 ∧ (Tests.mg (m false 14) told).nextEvent 0 = .group 32 ∧
    ({ Tests.core timer with clk := 7 } : State).nextEvent 0 = .timer ∧ timer.mtime ≠ 0#32 ∧ timer.mtime.toNat ≤ 7 ∧ (m true 0).running = true :=
  ⟨by decide +kernel, by decide +kernel, fun _ _ => ⟨⟨rfl, rfl, rfl, by decide +kernel, rfl, rfl⟩, rfl⟩, fun _ _ => ⟨rfl, rfl, rfl, rfl⟩, by decide +kernel⟩

theorem test_witness_MastReturnsToLanesAndMessages : -- a delivered hold; a buffer aligned and not; a good and a bad target; a free, a full and an absent mailbox; a message and none
    let g : Group := { Tests.g with hold := (List.range 32).map fun l => (l, .event 0x51 0x10004#64 true) }
    let m : Mast := { Tests.m0 with s := [(2, 1#32), (4, 0x3FF80#32), (6, 0x3FFC0#32), (8, 2#32), (10, 1#32)], mailbox := [(5, List.replicate 64 7#8)] }
    let s := Tests.mg m g
    let full : State := { s with clusters := put s.clusters 1 { mast := { mailbox := List.replicate 16 (0, []) } } }
    let send : MsendForm := { sw := 0, g := 7, p := 1, a := 2, b := 6 }
    (∀ i ∈ ([.mretGrp Tests.af, .mretRes Tests.abf, .mretRes { Tests.abf with b := 8 }, .mretPc { Tests.abf with b := 4 }, .mretPc { Tests.abf with b := 8 }, .mpark Tests.nf, .msend send,
      .mrecv { sw := 0, g := 7, d := 63, a := 6 }] : List Instr), RunsMast s 0 m i 7) ∧
    RunsMast (Tests.core { m with mailbox := [] }) 0 { m with mailbox := [] } (.mrecv { sw := 0, g := 7, d := 63, a := 6 }) 7 ∧
    goodTarget (m.sreg64 4) ∧ s.mgrp 0 = some (32, g) ∧ g.holdOf 31 = .event 0x51 0x10004#64 true ∧ g.live = 0xFFFFFFFF#32 ∧ (m.sreg 4).toNat % 16 = 0 ∧ (m.sreg 4).toNat + 128 = 0x40000 ∧ (m.sreg 8).toNat % 16 ≠ 0 ∧
    (m.sreg64 8).toNat % 4 ≠ 0 ∧ (m.sreg 6).toNat % 64 = 0 ∧ (m.sreg 6).toNat + 64 = 0x40000 ∧ (m.sreg 2).toNat = 1 ∧
    s.inService 1 = true ∧ (s.mast 1).mailbox = [] ∧ (full.mast 1).mailbox.length = 16 ∧ ({ s with dies := [(0, { maps := [(0, 0xFF#64)] })] } : State).inService 1 = false ∧
    m.mailbox = [(5, List.replicate 64 7#8)] ∧ ((Tests.mg m Tests.g).mgrp 0).isSome = true ∧ Tests.g.holdOf 31 = .free :=
  ⟨Tests.allRun rfl rfl (by decide +kernel), ⟨rfl, rfl, rfl, by decide +kernel, rfl, rfl⟩, ⟨by decide +kernel, by decide +kernel⟩, by decide +kernel⟩

/-- The header of a save of the tests' block under a variant of 16 registers: MAGIC, VERSION, shape, offsets and TOTAL (R37). -/
def Tests.image : SMap Byte := [(0, 0x41#8), (1, 0x53#8), (2, 0x48#8), (3, 0x4E#8), (4, 1#8), (0x15, 0xFF#8), (0x16, 1#8), (0x19, 0x2B#8), (0x20, 16#8), (0x31, 1#8), (0x39, 0x2A#8), (0x41, 0x2B#8)]

theorem test_witness_SavesHaltsAndScans : -- MGRP naming a group and none; a block halted by haltb, one under a save and one running; an image that R39 accepts; a busy and an idle cluster; the codes at the ends
    let g : Group := { Tests.g with halted := true, byHalt := true }
    let l : Launch := { fetchLaunch with kernel := { variants := [(0, {})] } }
    let m : Mast := { Tests.m0 with s := [(2, 2#32), (3, 6#32), (5, 8#32), (7, 3#32), (9, 4#32), (11, 1#32)], sram := Tests.image }
    let s : State := { Tests.mg m g with launches := [(1, l)] }
    let saving : State := { s with blocks := [(1, { fetchBlock with saving := some (5, 0) })] }
    let idle := Tests.core m
    let haltb (a : Fin 64) : Instr := .haltb { sw := 0, g := 7, a := a }
    let gsave (n : Fin 64) : Instr := .gsave { sw := 0, g := 7, n := n }
    let gkill (a : Fin 64) : Instr := .gkill { sw := 0, g := 7, a := a }
    let scan (a : Fin 64) : Instr := .scan { sw := 0, g := 7, d := 63, a := a }
    (∀ i ∈ [haltb 2, haltb 3, haltb 5, gsave 5, gsave 6, gsave 4, .gload Tests.nf, gkill 1, gkill 11, gkill 2, scan 7, scan 9], RunsMast s 0 m i 7) ∧
    (∀ i ∈ [gsave 5, .gload Tests.nf, gkill 11], RunsMast saving 0 m i 7) ∧ (∀ i ∈ [gsave 5, .gload Tests.nf, gkill 1, scan 7], RunsMast idle 0 m i 7) ∧
    s.mgrpBlock 0 = some (1, fetchBlock) ∧ s.blockHalted 1 = true ∧ s.gangDumping 1 fetchBlock true = false ∧ fetchBlock.saving = none ∧ s.mastBar 0 0 16 1 = none ∧ s.mastBar 0 0 16 0 = none ∧ (Tests.mg m Tests.g).blockHalted 1 = false ∧
    (saving.mgrpBlock 0).map (fun b => b.2.saving) = some (some (5, 0)) ∧ (saving.mgrpBlock 0).map (fun b => saving.gangDumping b.1 b.2 true) = some true ∧ saving.blockHalted 1 = true ∧
    s.haltTargets 0 0 = some [32] ∧ s.haltTargets 0 1 = some [32] ∧ s.haltTargets 0 2 = some [32] ∧ idle.mgrpBlock 0 = none ∧ g.phase ≠ .retired ∧ g.cluster = 0 ∧
    idle.groups = [] ∧ m.ctxs = [] ∧ s.launchOf fetchBlock = some l ∧
    wantShape (s.readOwn 0 0 256) l 0 = some { vregs := 16, tiles := 0, accs := 0, scratch := 0, swpt := 0xFF } ∧ saveOk (s.readOwn 0 0 256) fetchBlock l 0 = true :=
  ⟨Tests.allRun rfl rfl (by decide +kernel), Tests.allRun rfl rfl (by decide +kernel), Tests.allRun rfl rfl (by decide +kernel), by decide +kernel⟩

theorem test_witness_TranslationWorldsAndControlRegisters : -- an attribute word accepted with V 1, with V 0, and refused; page, ASID and all; both resource kinds, idle and busy; registers 0, 15 and 16
    let m : Mast := { Tests.m0 with s := [(2, 0x2000#32), (4, 0x47#32), (6, 0x10#32), (8, 0x10#32), (10, 0x1F1#32), (12, 0x20#32), (14, 1#32)] }
    let s := Tests.core m
    let busy := Tests.mg m Tests.g
    (∀ i ∈ ([.ctbw { Tests.abf with b := 8 }, .ctbw Tests.abf, .ctbw { Tests.abf with b := 6 }, .ctbiPage Tests.abf, .ctbiAsid Tests.ob, .ctbiAll Tests.nf, .wcfg { sw := 0, g := 7, a := 12, b := 0 },
      .wcfg { sw := 0, g := 7, a := 10, b := 0 }, .wcfg { sw := 0, g := 7, a := 12, b := 14 }, .mcrr { sw := 0, g := 7, d := 63, n := 0 }, .mcrr { sw := 0, g := 7, d := 63, n := 15 },
      .mcrr { sw := 0, g := 7, d := 63, n := 16 }, .mcrw { sw := 0, g := 7, a := 2, n := 15 }, .mcrw { sw := 0, g := 7, a := 2, n := 63 }] : List Instr), RunsMast s 0 m i 7) ∧
    m.priv = true ∧ ctbwOk 0x1 0x2000 0 8 = true ∧ ctbwOk 0x0 0x2000 0 8 = true ∧ ctbwOk 0x10 0x2000 0 8 = false ∧ ctbwOk 0x1 0x2001 0 8 = false ∧ (s.cluster 0).ctb.length ≤ 1024 ∧
    s.wcfgBusy 0 0 2 = false ∧ s.wcfgBusy 0 1 31 = false ∧ busy.wcfgBusy 0 0 0 = true ∧ busy.wcfgBusy 0 1 0 = true ∧ (0x1F1 % 16 = 1 ∧ 0x1F1 / 16 = 31) ∧ (0x20 % 16 = 0 ∧ 0x20 / 16 = 2) ∧
    0 ∉ (s.fn 0).clusters ∧ 0 ∈ (({ s with fns := [(0, { clusters := [0] })] } : State).fn 0).clusters :=
  ⟨Tests.allRun rfl rfl (by decide +kernel), by decide +kernel⟩


/-- The bytes of 8-byte table entries in memory. -/
def Tests.words (es : List (Nat × Nat)) : List Host.Cell := es.flatMap fun e => ((List.range 8).map fun i => (e.1 + i, BitVec.ofNat 8 (e.2 / 256 ^ i))).filter fun c => c.2 != 0#8
/-- Five levels of tables from 0x100000 on for address 0x1000 of ASID 0, whose home is die 1, down to a leaf with frame 0x200000. -/
def Tests.tables : State :=
  { mem := Tests.words [(0x100000, 0x101001), (0x101000, 0x102001), (0x102000, 0x103001), (0x103000, 0x104001), (0x104008, 0x20003B)]
    dies := [(1, { asids := [(0, [1, 0x100000])] })] }
/-- A fault of page 0x1000. -/
def Tests.fb (seq : Nat) : FbEntry := { seq := seq, asid := 0, page := 0x1000, cause := 0, flags := 0, count := 1, origin := 0, clk := 0, resolved := false }

theorem test_witness_results_walks_and_replays : -- MemoryAgentsDoTheirWork: results to lane 31 and s63; a late fault; a refill; a walk; a held fault; a logged store; a parked ld
    let g : Group := { Tests.g with pending := [{ writes := [(.vec 31 63, 7#32), (.uni 63, 9#32)] }] }
    let late : Group := { Tests.g with late := [Tests.rec_ 0x10] }
    let held : State := { dies := [(0, { fbbase := 0x20000#64, heldFaults := [Tests.fb 0] })] }
    let e : SideLog := { gid := 32, bid := 1, lid := 1, asid := 0, page := 1, pc := Tests.P, ops := [{ lane := 0, addr := 0x1000, size := 4, atop := none, y := 5, y2 := 0 }] }
    let log : State := { Tests.mem Tests.gm with clusters := [(0, { ctb := [Tests.page], sideLogs := [(0, [e])] })] }
    let p : Parked := { w0 := 622363392, w1 := 16384, lanes := 1#32, one := false, row := false, pc := Tests.P, addrs := [(0, 0x1000)] }
    let parked : Group := { Tests.gm with replay := [p] }
    let s := Tests.mem parked
    let leaf : Leaf := { pa := 0x200000, psize := 4096, res := 0, sealed_ := false, x := true, w := true, rd := true, remote := none, entry := 0x104008 }
    (∃ v t, Performs (fun s l => inTurn ((Tests.mem parked).whoOf 32 parked) p.seq (accAt (.ld Tests.ml) (getD p.addrs l 0)) (fun s =>
      if s.pageMoves ((Tests.mem parked).whoOf 32 parked).asid (getD p.addrs l 0) then (.wait, s)
      else s.loadNow ((Tests.mem parked).whoOf 32 parked) (getD p.addrs l 0) 4 false 0) s) s [0] v t) ∧
    find (Tests.on g).groups 32 = some g ∧ g.pending[0]? = some { writes := [(.vec 31 63, 7#32), (.uni 63, 9#32)] } ∧ ([Dest.vec 31 63, Dest.uni 63] : List Dest).Nodup ∧
    (Tests.on g).dumping 1 = false ∧ find (Tests.on late).groups 32 = some late ∧ late.event = none ∧ late.late = [Tests.rec_ 0x10] ∧
    (match ((Tests.mem Tests.gm).attrs 0 0 0x1000).1 with | .ok x => x == Tests.page | .error _ => false) = true ∧ ((Tests.mem Tests.gm).cluster 0).ctb.length ≤ 1024 ∧
    (((Tests.mem Tests.gm).cluster 0).ctb.filter fun x => x.mast).length ≤ 256 ∧
    homeDie (canonAsid 0 0x1000) 0x1000 = 1 ∧ (Tests.tables.die 1).tlbFind (homePort 0 0x1000) 0 0x1000 = none ∧ (Tests.tables.walk 1 0 0x1000).1 = .leaf leaf ∧
    sortLeaf leaf (Tests.tables.swapping 0 0x1000) = none ∧ (held.die 0).heldFaults = [Tests.fb 0] ∧ (held.die 0).slotFree = true ∧
    log.sideLog 0 0 = [e] ∧ log.savedBefore 32 0 = false ∧ log.waitingOf 32 0 = [] ∧ (log.bindPieces (log.logWho 0 0 e) 0).pageMoves 0 0x1000 = false ∧
    ((log.bindPieces (log.logWho 0 0 e) 0).storeNow (log.logWho 0 0 e) 0x1000 (toBytes 4 5) false).1 = .ok [] ∧
    find s.groups 32 = some parked ∧ parked.replay[0]? = some p ∧ decodeWords p.w0 p.w1 = .ok (.ld Tests.ml) ∧ lanesOf (p.lanes &&& parked.live) = [0] ∧ s.dumping 1 = false :=
  ⟨Tests.performsAll (by decide +kernel) (by decide), by decide +kernel⟩

theorem test_witness_swaps_copies_and_scrubs : -- MemoryAgentsDoTheirWork: a pair of one line before and after its exchange; the last ASID and line; a copy of the last version; a narrow byte; the tier's ends
    let w : Swap := { asidH := 0, vaH := 0, asidC := 0, vaC := 0, paH := 0, paC := 0x100000000000, entryH := 0, entryC := 0, lines := 1, done := 0 }
    let swap (d : Nat) : State := { dies := [(0, { swap := some { w with done := d } })] }
    let h : Held := { val := 5#8, party := 32 }
    let pub : State := { Tests.mem Tests.gm with clusters := [(0, { l1held := [(0x1001, h)] })] }
    let x : L1Line := { wts := 3, lease := 4 }
    let copy : State := { Tests.on Tests.g with clusters := [(0, { l1 := [(0x20, x)] })], lineTs := [(0x20, { wts := 3, lease := 4 })] }
    let q : Req := { lid := pub.lidOfParty 32, world := 0, asid := 0, kind := some .store, flags := 2, origin := 0 }
    ((swap 0).die 0).swap = some w ∧ w.done < w.lines ∧ w.paH + 128 * w.lines ≤ w.paC ∧ (swap 0).linePoisoned w.paH = false ∧ (swap 0).linePoisoned w.paC = false ∧
    ((swap 1).die 0).swap = some { w with done := 1 } ∧ w.lines ≤ 1 ∧ (swap 1).groups = [] ∧ (swap 1).clusters = [] ∧ (swap 1).farWaits = [] ∧
    65535 < 2 ^ 16 ∧ 2 ^ 49 - 1 < 2 ^ 49 ∧
    0x20 % 2 ^ 65 = lineKey (canonAsid 0 (0x20 * 128)) (0x20 * 128) ∧ (0x20, x) ∈ (copy.cluster 0).l1 ∧ (∀ e ∈ (copy.cluster 0).l1, e.1 % 2 ^ 65 = 0x20 % 2 ^ 65 → e = (0x20, x)) ∧
    x.wts = (copy.lineTsOf 0 (0x20 * 128)).wts ∧ find copy.groups 32 = some Tests.g ∧ Tests.g.cluster = 0 ∧
    (pub.cluster 0).l1held = [(0x1001, h)] ∧ pub.devHeld = [] ∧ 0x1001 / 128 = l1key (canonAsid 0 (0x20 * 128)) (0x20 * 128) / 128 ∧ (pub.homeWrite q 0x1001 [5#8]).1 = .ok [] ∧
    1279 < 1280 ∧ (Tests.on { Tests.g with errs := [.vreg 31 1] }).mayIssue { Tests.g with errs := [.vreg 31 1] } Tests.P = true ∧ has (Tests.g.executing Tests.P 7) 31 ∧ Tests.g.helper = 0#32 ∧ inTier 0 = true ∧ inTier 0x1BFFFFFFFFFF = true := by
  decide +kernel

theorem test_witness_FaultUnitAndMaintenanceRegisters : -- an unresolved entry without waiters; no such entry; no operation and one that runs; a range of two lines
    let s : State := { dies := [(15, { entries := [Tests.fb 4], invaddr := 0x80#64, invlen := 0x100#64 })] }
    let busy : State := { dies := [(15, { inv := some (4, 0, 0x80, 0x100) })] }
    ((s.die 15).entries.find? fun e => e.seq = 4 && !e.resolved) = some (Tests.fb 4) ∧ s.waitersOn 0 0x1000 4096 = [] ∧ s.farWaits = [] ∧
    ((s.die 15).entries.find? fun e => e.seq = 5 && !e.resolved) = none ∧ (s.die 15).inv = none ∧ (s.die 15).invaddr.toNat % 128 = 0 ∧ (s.die 15).invlen.toNat % 128 = 0 ∧
    (s.die 15).invlen ≠ 0#64 ∧ (busy.die 15).inv ≠ none ∧ (eccHome 0).2 = 0 ∧ (eccHome 0x1000000000).2 ≠ 0 := by
  decide +kernel

/-- A command numbered 1 with this opcode and these descriptor words. -/
def Tests.ec (op : Nat) (ws : List Word) : Cmd :=
  { op := op, num := 1, count := 0, regs := ws, opts := 0, imm := 0, ntf := false, guard := none, gid := 32, bid := 1, pc := 0x10000#64, asid := 0, lanes := 1#32 }
/-- A context with one command whose ring is at 0x1000. -/
def Tests.ex (c : Cmd) : Ctx := { ring := 0x1000, rlog := 0, cmds := [c] }
/-- The state with the page at 0x1000 in which context n of the launch is x. -/
def Tests.em (n : Nat) (x : Ctx) : State := { Tests.mem Tests.gm with launches := [(1, { fetchLaunch with ctxs := put fetchCtxs n x })] }

theorem test_witness_EngineEventsMoveDecodeAndComplete : -- one witness per clause but that of a decoded sample, whose Config.videoStep has no value to show (log entry 7)
    let cpy := Tests.ec 0x24 [0x1000#32, 0#32, 0x1040#32, 0#32, 16#32, 0#32]
    let s := Tests.em 0 (Tests.ex cpy)
    let done : Cmd := { cpy with landed := [0], bytes := 16 }
    let bad : Cmd := { cpy with failed := some (0x10, 0x1000) }
    let own := mastOwner 0
    let core (c : Cmd) : State := Tests.core { Tests.m0 with ctxs := [(0, Tests.ex c)] }
    let video (n : Word) := Tests.ec 0x28 [0x1000#32, 0#32, 0x1000#32, 0#32, n, 0#32, 0x00100010#32, 64#32]
    let piece : Piece := { gid := 32, bid := 1, dst := 0x3FF0, obj := 0, src := 0x1000, asid := 0, size := 16, stream := false, data := some (List.replicate 16 1#8) }
    let ld : State := { Tests.on Tests.g with clusters := [(0, { pieces := [piece] })] }
    let bs := toBytes 16 0x0123456789ABCDEF0123456789ABCDEF
    let read := State.engRead { s with free := s.free + 16 } 1 cpy false 0x1000 16 0x31
    s.ctx 1 0 = some (Tests.ex cpy) ∧ cpy.amount = 16 ∧ chunkOf (cpy.place (bit cpy.opts 1) 2) cpy.amount 0 = some (0x1040, 0, 16) ∧ cpy.place false 0 + 16 ≤ cpy.place false 2 ∧
    read.1 = .ok bs ∧ (read.2.engWrite 1 cpy false 0x1040 bs 0x11).1 = .ok [] ∧
    (Tests.em 0 (Tests.ex done)).allLanded 1 done = true ∧ ((Tests.em 0 (Tests.ex done)).writeRecord 1 0 1 0 0 done.done).1 = true ∧ (0 / 4096 : Nat) ≠ 5 ∧
    (core done).ctx own 0 = some (Tests.ex done) ∧ (core done).allLanded own done = true ∧ find (core done).launches own = none ∧ find (core bad).launches own = none ∧
    (core bad).ctx own 0 = some (Tests.ex bad) ∧ bad.failed = some (0x10, 0x1000) ∧ ((Tests.em 0 (Tests.ex bad)).writeRecord 1 0 1 2 0x10 bad.done).1 = true ∧
    (Tests.em 0x4000 (Tests.ex (video 0#32))).ctx 1 0x4000 = some (Tests.ex (video 0#32)) ∧ (video 0#32).op = 0x28 ∧ (video 0#32).ended = 0 ∧ (video 0#32).amount = 0 ∧
    (Tests.em 0x4000 (Tests.ex (video 0#32))).notifyWaits (video 0#32) = false ∧ (Tests.em 0x4000 (Tests.ex (video 0#32))).decodes (Tests.ex (video 0#32)) = true ∧ (Tests.ex (video 0#32)).reserved = [] ∧
    ((Tests.em 0x4000 (Tests.ex (video 16#32))).readSend 1 (video 16#32) 0x1000 3 16).2.1 = .ok bs ∧
    (ld.cluster 0).pieces[0]? = some piece ∧ find ld.blocks 1 = some fetchBlock ∧
    (match ld.spPlace fetchBlock false (BitVec.ofNat 32 0x3FF0) 16 with | .ok (m, o) => m == fetchBlock && o == 0x3FF0 | .error _ => false) = true := by
  decide +kernel

/-- The tests' launch with variants 0 and 1 of 16 and 32 registers, both with switch point 0, whose function owns clusters 0 and 1. -/
def Tests.kl : Launch := { fetchLaunch with kernel := { variants := [(0, { swpts := [(0, 0, 0, [])] }), (1, { vregs := 32, swpts := [(0, 0, 0, [])] })] }, record := { groups := 1, vmask := 3 } }
/-- The state with that launch, this block and group, on function 0 with 1280 clusters' first two. -/
def Tests.kb (l : Launch) (b : Block) (gs : SMap Group) : State :=
  { Tests.on Tests.g with clk := 4500000, groups := gs, blocks := [(1, b)], launches := [(1, l)], fns := [(0, { clusters := [0, 1], share := 1280 })], clusters := [(0, { ctb := [Tests.page] })], dies := (List.range 16).map fun d => (d, { asids := [(0, [0])] })
                          l2 := (List.range 16).map fun i => (l2key 0 0 (0x1000 + 16 * i), { Tests.sector with data := 0#128 }) }
/-- A gang that has not been placed. -/
def Tests.gang : Gang := { ctx := 0, num := 0, gang := 0, arg := 0#64, groupItem := false, queued := true }

theorem test_witness_SwitchesSlicesAndPreemption : -- BlocksAreSwitchedSavedRestoredAndEnded, the clauses of requests and of beginning a save
    let s := Tests.kb Tests.kl fetchBlock [(32, Tests.g)]
    let asked : Block := { fetchBlock with request := some (1, 100000) }
    let other : Block := { fetchBlock with phase := .saved 2, blk := 1 }
    let two : State := { s with blocks := [(1, fetchBlock), (2, other)] }
    let n : Launch := { Tests.kl with record := { groups := 1, vmask := 3, prio := 1 }, kernel := { variants := [(0, { scratch := 1048576 })] }, gangs := [(0, Tests.gang)] }
    let pre : State := { s with launches := [(1, Tests.kl), (2, n)] }
    find s.blocks 1 = some fetchBlock ∧ s.launchOf fetchBlock = some Tests.kl ∧ find Tests.kl.kernel.variants 1 = some { vregs := 32, swpts := [(0, 0, 0, [])] } ∧ fetchBlock.phase = .resident ∧
    fetchBlock.saving = none ∧ fetchBlock.request = none ∧ fetchBlock.held = false ∧ fetchBlock.withdrawnAt = none ∧ Tests.kl.record.vmask.testBit 1 = true ∧ Tests.kl.record.lflags.testBit 3 = false ∧
    (Tests.kl.variantOf fetchBlock).footprint Tests.kl.kernel.groups < ({ vregs := 32 } : Variant).footprint Tests.kl.kernel.groups ∧
    s.fitsBlock 0 0 1 false { vregs := 32, swpts := [(0, 0, 0, [])] } [1] = true ∧
    asked.request = some (1, 100000) ∧ 100000 + 450000 ≤ s.clk ∧ s.clk < 4500000 - 450000 + 1 + 450000 ∧
    fetchBlock.residentAt + 4500000 ≤ two.clk ∧ (∀ e ∈ two.blocks, e.2.cluster = 0 → e.2.phase = .resident → e.2.saving = none → fetchBlock.residentAt ≤ e.2.residentAt) ∧ (2, other) ∈ two.blocks ∧
    two.launchOf other = some Tests.kl ∧ n.phase = .running ∧ pre.offered 2 n 15 = some Tests.gang ∧ pre.gangFit n false = none ∧ pre.gangFit n true = none ∧
    (pre.fn 0).clusters.contains 0 = true ∧ Tests.kl.record.prio < n.record.prio ∧ pre.before n fetchBlock = false ∧ (∀ e ∈ pre.blocks, e.2 ≠ fetchBlock → e.2.phase ≠ .resident) := by
  decide +kernel

theorem test_witness_SavesAndRestores : -- BlocksAreSwitchedSavedRestoredAndEnded, the clauses of completing a save, restoring and replacing
    let begun (r : Nat) : Block := { fetchBlock with saving := some (r, 0), save := 0x1000 }
    let own := Tests.kb Tests.kl (begun 5) [(32, Tests.g)]
    let s := Tests.kb Tests.kl (begun 2) [(32, Tests.g)]
    let out : Block := { fetchBlock with phase := .saved 2, save := 0x1000 }
    let word (i : Nat) : Nat := (List.range 16).foldl (fun x k => x + (getD Tests.image (16 * i + k) 0#8).toNat * 256 ^ k) 0
    let saved : State := { Tests.kb Tests.kl out [] with l2 := (List.range 16).map fun i => (l2key 0 0 (0x1000 + 16 * i), { Tests.sector with data := BitVec.ofNat 128 (word i) }) }
    let at_ : Group := { Tests.g with phase := .aPark, waiting := .swpt 0, waitPc := Tests.P }
    let var := Tests.kb Tests.kl { fetchBlock with request := some (1, 0), save := 0x1000, ngroups := 0 } [(32, at_)]
    let rests (s : State) (g : Group) : Bool := g.saveable && !s.fenceFirst 32 g && g.planeOwed.isNone && (s.engine 0 0).holder.isNone && !s.holdsAny 0 32
    let wrote := s.saveArea 1 2 (s.saveSwpt 1 2)
    let moved := (var.updB 1 fun b => { b with sideCounts := var.sideCountsOf 1, faults := [], nested := [], genRetired := true }).saveArea 1 1 0
    (begun 5).saving = some (5, 0) ∧ (own.groups.map fun e => e.1).Nodup ∧ rests own Tests.g = true ∧ own.savePoison 1 255 = false ∧ (own.cluster 0).pieces = [] ∧
    (own.clusters.all fun e => e.2.mast.wait == .nothing) = true ∧
    (s.blocks.filter fun (e : Nat × Block) => e.2.lid = 1) = [(1, begun 2)] ∧ s.launchOf (begun 2) = some Tests.kl ∧ rests s Tests.g = true ∧ (s.cluster 0).pieces = [] ∧
    wrote.1 = true ∧ (find wrote.2.blocks 1).map (fun b => b.struck) = some none ∧ wrote.2.savePoison 1 (wrote.2.saveSwpt 1 2) = false ∧ wrote.2.holdsAny 0 32 = false ∧
    saved.launchOf out = some Tests.kl ∧ out.swpt = 255 ∧ saved.longestSaved out = true ∧ saved.placeable 0 0 = true ∧ saved.fitsBlock 0 0 1 false { swpts := [(0, 0, 0, [])] } [] = true ∧
    (saved.restoreAll [(1, 0, 0)]).1 = .done ∧
    var.switchPoint 1 = some 0 ∧ var.fitsBlock 0 0 0 false { vregs := 32, swpts := [(0, 0, 0, [])] } [1] = true ∧ var.restedFor 1 Group.saveable = true ∧ var.savePoison 1 0 = false ∧
    moved.1 = true ∧ ((moved.2.setAside 1 1 0).restoreAll [(1, 0, 1)]).1 = .done := by
  decide +kernel

theorem test_witness_PlacementRetirementAndRecovery : -- BlocksAreSwitchedSavedRestoredAndEnded, the other clauses
    let l : Launch := { Tests.kl with gangs := [(0, Tests.gang)] }
    let s := Tests.kb l fetchBlock [(32, { Tests.g with phase := .retired, exited := 0xFFFFFFFF#32 })]
    let rest := Tests.kb l fetchBlock [(32, Tests.g)]
    let free : State := { s with groups := [], blocks := [] }
    let hit : Block := { fetchBlock with struck := some (0x40, 4050000) }
    let core (m : Mast) : State := { s with blocks := [(1, hit)], clusters := [(0, { mast := m })] }
    let scan (due : Nat) : Mast := { Tests.m0 with wait := .scan 0 due 3 }
    let need : Launch := { Tests.kl with gangs := [(0, Tests.gang)], record := { groups := 1, vmask := 3, prio := 1 } }
    let wanted : State := { core (scan 4500001) with launches := [(1, need)], groups := [], blocks := [], fns := [(0, { clusters := [0], share := 1280 })] }
    ({ Tests.m0 with wait := .halt [32] } : Mast).wait = .halt [32] ∧ find rest.groups 32 = some Tests.g ∧ Tests.g.restful = true ∧ rest.fenceFirst 32 Tests.g = false ∧
    l.replaying = false ∧ l.status = 0 ∧ (free.fn 0).share ≠ 0 ∧ free.turnOf 1 l 15 = true ∧ free.offered 1 l 15 = some Tests.gang ∧
    (free.gangFit l false).map (fun x => (x.1, x.2.2)) = some (1, [0]) ∧ free.clustersOk 0 0 1 1 false { vregs := 32, swpts := [(0, 0, 0, [])] } [0] = true ∧
    s.groupsOf 1 ≠ [] ∧ (s.groups.all fun e => e.2.phase == .retired && e.2.pipe.isEmpty) = true ∧ (s.cluster 0).pieces = [] ∧ s.holdsAny 0 32 = false ∧ (s.cluster 0).sideLogs = [] ∧
    hit.struck = some (0x40, 4050000) ∧ (s.groups.all fun e => e.2.event.isNone) = true ∧ hit.warned = none ∧ (core {}).gangSaving hit = false ∧ (core { stopped := true }).gangSaving hit = false ∧ ((core {}).mast 0).stopped = false ∧ ((core { stopped := true }).mast 0).stopped = true ∧ 4050000 + 450000 ≤ (core {}).clk ∧
    (core {}).clk < 4050001 + 450000 ∧
    ((core (scan 4500000)).mast 0).wait = .scan 0 4500000 3 ∧ 4500000 ≤ (core (scan 4500000)).clk ∧ wanted.clk < 4500001 ∧ (wanted.mast 0).mprio.toNat % 16 ≤ need.record.prio ∧
    wanted.needsCluster need 1 0 = true := by
  decide +kernel

/-- The leaf of the page that holds every address. -/
def Tests.whole : Leaf := { psize := 2 ^ 56, x := true, w := true, rd := true, sealed_ := false, res := 0, pa := 0, remote := none, entry := 0 }
/-- Every page of ASID 0 is near, at the frame of its own number. -/
def Tests.near : SMap Die :=
  (List.range 16).map fun d => (d, { asids := [(0, [0])], tlb := (List.range 4).map fun p => (p, [{ asid := 0, va := 0, leaf := Tests.whole }]) })

theorem Tests.home_lt (va : Nat) : homeDie 0 va < 16 ∧ homePort 0 va < 4 := by
  have h (x y : Nat) (hx : x < 2 ^ 9) (hy : y < 2 ^ 9) : x ^^^ y < 2 ^ 9 := Nat.xor_lt_two_pow hx hy
  have b (hi lo : Nat) (hh : hi + 1 - lo ≤ 9) : bits va hi lo < 2 ^ 9 :=
    Nat.lt_of_lt_of_le (Nat.mod_lt _ (Nat.two_pow_pos _)) (Nat.pow_le_pow_right (by decide) hh)
  have e : bits va 15 7 ^^^ bits va 24 16 ^^^ bits va 33 25 ^^^ bits va 42 34 ^^^ bits va 51 43 ^^^ bits va 55 52 ^^^ 0 % 512 < 2 ^ 9 :=
    have low := h _ _ (h _ _ (b 15 7 (by omega)) (b 24 16 (by omega))) (b 33 25 (by omega))
    h _ _ (h _ _ (h _ _ (h _ _ low (b 42 34 (by omega))) (b 51 43 (by omega))) (b 55 52 (by omega))) (Nat.mod_lt _ (by omega))
  unfold homePort homeSlice homeDie
  omega

theorem Tests.near_leaf (s : State) (hs : s.dies = Tests.near) (va : Nat) (hv : va < 2 ^ 56) : (s.portLeaf 0 va).1 = .leaf Tests.whole := by
  have t : ∀ d < 16, ∀ p < 4, getD ((({ dies := Tests.near } : State).die d).tlb) p [] = [{ asid := 0, va := 0, leaf := Tests.whole }] := by decide +kernel
  have e : s.die (homeDie 0 va) = ({ dies := Tests.near } : State).die (homeDie 0 va) := by simp only [State.die, hs]
  have f : (s.die (homeDie 0 va)).tlbFind (homePort 0 va) 0 va = some Tests.whole := by
    rw [e, Die.tlbFind, t _ (Tests.home_lt va).1 _ (Tests.home_lt va).2]
    simp [Tests.whole, show va < 72057594037927936 from hv]
  simp only [State.portLeaf, f]

theorem test_witness_areas : -- BlocksAreSwitchedSavedRestoredAndEnded: where every page is near, the place that the yard core tries first serves
    let l : Launch := { Tests.kl with gangs := [(0, Tests.gang)] }
    ({ Tests.kb l fetchBlock [] with blocks := [], dies := Tests.near } : State).areasFor 1 l 1 1 = true := by
  intro l
  have hl : l.saveBytes 1 + 1 * 32 * l.record.tlslane ≤ 2 ^ 20 := by decide +kernel
  have ok (a n : Nat) (ha : a < 2 ^ 55) (hn : n ≤ 2 ^ 20) : ({ Tests.kb l fetchBlock [] with blocks := [], dies := Tests.near } : State).areaOk 0 a n = true := by
    have q (x : Nat) (hx : x ≤ 2 ^ 55 + 2 ^ 20) : inShared x = false := by simp only [inShared, beq_eq_false_iff_ne]; omega
    have r : ({ Tests.kb l fetchBlock [] with blocks := [], dies := Tests.near } : State).areaFree 0 a n = true := rfl
    simp only [State.areaOk, q a (by omega), q (a + n) (by omega), r, Bool.and_eq_true, decide_eq_true_eq, List.all_eq_true, List.mem_range, Bool.or_eq_true,
      Bool.not_false, and_true]
    refine ⟨by omega, fun i hi => ?_⟩
    by_cases hv : a + n ≤ a / 4096 * 4096 + 4096 * i
    · exact Or.inl hv
    · rw [Tests.near_leaf _ rfl _ (by omega)]; exact Or.inr rfl
  have some_ : ((({ Tests.kb l fetchBlock [] with blocks := [], dies := Tests.near } : State).areaFor 0 (l.saveBytes 1 + 1 * 32 * l.record.tlslane)).isSome) = true := by
    rw [State.areaFor, List.find?_isSome]
    exact ⟨_, List.mem_cons_self, ok _ _ (Nat.lt_of_le_of_lt (Nat.div_mul_le_self _ _) (Nat.mod_lt _ (by decide))) hl⟩
  obtain ⟨a, ha⟩ := Option.isSome_iff_exists.1 some_
  simp only [State.areasFor, show List.range 1 = [0] from rfl, List.foldl, show l.asid = 0 from rfl, ha]

/-- The bytes of a launch record (R263): VERSION 1, one group, one block, variant 0, one device, DONEADDR 0x1000. -/
def Tests.lrec : List Nat := (List.range 256).map fun i => getD [(0, 1), (0x20, 1), (0x21, 1), (0x22, 1), (0x23, 1), (0x49, 0x10)] i 0
/-- A state with ring 0 of function 0 at 0x1000, whose entry 0 is that record; the page is mapped on die 1, an image at 0 is loaded. -/
def Tests.rg (f : Fn → Fn) (ls : SMap Launch) : State :=
  let word (i : Nat) : Nat := (List.range 16).foldl (fun x k => x + getD (Tests.lrec.mapIdx fun j b => (j, b)) (16 * i + k) 0 * 256 ^ k) 0
  { booted := true, launches := ls, clk := 22500000
    fns := [(0, f { rings := [(0, { rbase := 0x1000#64, rlog := 1, enable := true, tail := 1#32 })], images := [{ base := 0, kernels := [Tests.kl.kernel] }] })]
    dies := [(0, { asids := [(0, [1, 0x100000])] }), (1, { asids := [(0, [1, 0x100000])], tlb := [(homePort 0 0x1000, [{ asid := 0, va := 0x1000, leaf := { Tests.whole with pa := 0x1000, psize := 4096 } }])] })]
    l2 := (List.range 32).map fun i => (l2key 0 0 (0x1000 + 16 * i), { Tests.sector with data := BitVec.ofNat 128 (if i < 16 then 0 else word (i - 16)) }) }

theorem test_witness_LaunchesAreAdmitted : -- LaunchesAndRingsProgress: a ring with an entry, a packet, an admitted launch on one device and, as rank 0 and 1, on two; bytes that are no image
    let s := Tests.rg id []
    let bs : List Byte := Tests.lrec.map fun x => BitVec.ofNat 8 x
    let a : Launch := { Tests.kl with phase := .admitted }
    let a2 (rank : Nat) : Launch := { a with rank := rank, devs := [1, 0], record := { groups := 1, vmask := 3, ndev := 2 } }
    let ok (x : Admit × State) : Bool := match x.1 with | .ok _ _ _ _ => true | _ => false
    let got := s.updF 0 fun x => { x with packets := x.packets ++ [(0, bs)] }
    s.booted = true ∧ s.estop = false ∧ (getD (s.fn 0).rings 0 {}).running = true ∧ (getD (s.fn 0).rings 0 {}).resetTo = none ∧ s.ringHeld 0 0 = false ∧ (s.fn 0).packets = [] ∧
    (s.hwRead (s.fnWorld 0) (s.fnAsid 0) 0x1000 4).1 = .ok [0#8, 0#8, 0#8, 0#8] ∧ (s.hwRead 0 0 0x1100 256).1 = .ok bs ∧ ok (s.examine 0 bs (parseRecord bs)) = true ∧
    ok (got.examine 0 bs (parseRecord bs)) = true ∧ ((s.examine 0 bs (parseRecord bs)).2.hwStore 0 0 0x1000 [1#8, 0#8, 0#8, 0#8]).1 = .ok [] ∧
    a.phase = .admitted ∧ a.record.wring.testBit 15 = false ∧ (Tests.rg id [(1, a)]).ringLets a = true ∧ a.record.ndev = 1 ∧
    (∀ r ∈ [0, 1], (Tests.rg id [(1, a2 r)]).ringLets (a2 r) = true ∧ (a2 r).record.ndev ≠ 1 ∧ 1 ∉ (a2 r).readyFrom) ∧ parseImage 0 bs = none := by
  decide +kernel

theorem test_witness_LaunchesRunAndEnd : -- LaunchesAndRingsProgress: ranks 0 and 1 of two devices in each phase, a launch whose work has ended, a replaying one; a pool in use
    let a : Launch := { Tests.kl with phase := .barrier, record := { groups := 1, vmask := 3, ndev := 2, gen := 7 }, readyFrom := [0] }
    let one : Launch := { a with rank := 1 }
    let done : Launch := { Tests.kl with spawn := 0, gangs := [], record := { groups := 1, vmask := 3, doneaddr := 0x1000 } }
    let again : Launch := { Tests.kl with replaying := true }
    let s := Tests.rg id [(1, done)]
    let used := Tests.rg id [(1, { Tests.kl with shadows := [(0, { frame := 0, written := [] })] })]
    a.rank = 0 ∧ 1 < a.record.ndev ∧ a.phase = .barrier ∧ 1 ∉ a.readyFrom ∧ (List.range 2).all (fun r => r == 1 || a.readyFrom.contains r) = true ∧
    ({ a with readyFrom := [] } : Launch).readyFrom.contains 0 = false ∧ one.rank ≠ 0 ∧ one.phase = .barrier ∧ a.phase ≠ .ended ∧ a.admittedAt + 22500000 ≤ s.clk ∧ s.clk < 1 + 22500000 ∧
    ({ a with phase := .running } : Launch).doneFrom = [] ∧ (0 : Nat) < 1 ∧
    s.workEnded 1 done = true ∧ done.status = 0 ∧ done.allDone = true ∧ done.shadows = [] ∧ done.owed = [] ∧ done.nfail = 0 ∧ s.estop = false ∧
    (s.hwStore 0 0 0x1000 (launchRecord 1 0 0 0 0 0 0 s.clk)).1 = .ok [] ∧ again.replaying = true ∧ (again.ctxs.all fun e => e.2.cmds.isEmpty) = true ∧
    0x1FFFFFF0000 % 65536 = 0 ∧ inFast 0x1FFFFFF0000 = true ∧ (used.launches.any fun e => e.2.fn == 0 && !e.2.shadows.isEmpty) = true ∧
    (s.launches.all fun e => e.2.shadows.isEmpty) = true := by
  decide +kernel

/-- A port with its link up, transmit and receive rings 0 and 16 of 16 descriptors at 0x1000 with one to serve. -/
def Tests.port : Eth := { linkup := true, ectl := 7#64, rings := [(0, 0x1000#64), (1, 4#64), (3, 1#64), (128, 0x1000#64), (129, 4#64), (131, 1#64)] }
/-- A state with five-level tables whose 2 MiB leaf maps address 0 for every die. -/
def Tests.bar : State :=
  { booted := true, mem := Tests.words [(0x100000, 0x101001), (0x101000, 0x102001), (0x102000, 0x103001), (0x103000, 0x20003B)]
    dies := (List.range 16).map fun d => (d, { asids := [(0, [1, 0x100000])] }) }

/-- The shared region's first page is near, on every die. -/
def Tests.shared : SMap Die :=
  (List.range 16).map fun d => (d, { asids := [(0, [0])], tlb := (List.range 4).map fun p =>
    (p, [{ asid := 0, va := 0x00FF000000000000, leaf := { Tests.whole with psize := 4096 } }]) })

theorem test_witness_links : -- DevicesAndLinksAnswer: a link that is up, paused, replaying the 63rd time; no request, and requests at the shared region's first bytes and beyond its first page; a down link
    let l : Link := { up := true, expected := 4095, sent := [4094, 4095], replayed := some 4095, replays := 63, paused := [1] }
    let s : State := { links := [(17, l)], dies := Tests.shared }
    let went : State := { s with links := setD s.links 17 { l with expected := (l.expected + 1) % 4096, retryAsked := false, sent := ackFlits l.sent 0, arriving := l.arriving.drop 1 } {} }
    let req (k : AccKind) : Req := { asid := 0, kind := some k, flags := 8, origin := 0x7FFF }
    let r (kind size : Nat) (data : List Byte) : FarReq := { device := 0, kind := kind, off := 0, size := size, op := 0, data := data }
    (∀ x ∈ [r 0 0 [], r 1 16 [], r 2 1 [1#8]], ({ l with arriving := [x] } : Link).arriving.head? = some x ∧ x.off + x.size ≤ 2 ^ 48) ∧ (r 2 1 [1#8]).data.length = 1 ∧
    (getD s.links 17 {}).up = true ∧ l.sent.contains 4095 = true ∧ l.replayed = some 4095 ∧ 63 ≤ l.replays ∧ ({ l with replays := 62 } : Link).replays < 63 ∧ 2 ∉ l.paused ∧
    (getD s.links 0 {}).up = false ∧ (went.homeRead (req .load) 0x00FF000000000000 16).1 = .ok (List.replicate 16 0#8) ∧
    (went.homeWrite (req .store) 0x00FF000000000000 [1#8]).1 = .ok [] ∧
    (match (went.homeRead (req .load) 0x00FF000000001000 16).1 with | .fail _ _ => true | _ => false) = true := by
  decide +kernel

theorem test_witness_ports_and_windows : -- DevicesAndLinksAnswer: a port with descriptors; a block under the aperture; a root port; a mapped BAR 4; a control page
    let eth : State := { mem := [(0x1009, 1#8)], eth := [(3, Tests.port)] }
    let frame : List Byte := (List.range 60).map fun i => BitVec.ofNat 8 (if i = 0 then 1 else 0)
    let ap : State := { Tests.on Tests.g with blocks := [(1, { fetchBlock with bgen := 1 })] }
    let idle : State := { eth := [(3, { Tests.port with rings := [] })] }
    let calm : State := { Tests.bar with reply := none }
    let lets (rd wr : Bool) := calm.barLets 0 (Tests.bar.fnAsid 16) 0x1000 8 rd wr
    let pulled := ((lets true true).2.forcePublish (2 ^ 11) 0 0x1000).inPlace 0 0x1000 (fun s => s.homeRead { world := 0, asid := 0 } 0x1000 8)
    Tests.port.ectl.getLsbD 2 = true ∧ 7 ∉ Tests.port.pausedPrio ∧
    (getD eth.eth 3 {}).ectl.getLsbD 0 = true ∧ (getD eth.eth 3 {}).linkup = true ∧ (getD eth.eth 3 {}).ready 0 = true ∧ eth.estop = false ∧
    eth.dmaRead ((getD eth.eth 3 {}).descriptor 0) 32 = some ((List.range 32).map fun i => if i = 9 then 1#8 else 0#8) ∧
    fieldAt ((List.range 32).map fun i => if i = 9 then 1#8 else 0#8) 8 4 = 256 ∧ (eth.dmaRead 0 256).isSome = true ∧
    frame.length = 60 ∧ (getD eth.eth 3 {}).accepts frame = true ∧ receiveRing frame = 16 ∧ (getD eth.eth 3 {}).ready 16 = true ∧ (getD idle.eth 3 {}).ready 16 = false ∧
    (eth.dmaRead ((getD eth.eth 3 {}).descriptor 16) 32).isSome = true ∧
    (ap.apertureBlock (2 ^ 30 + 0x3FFF) 1).map (fun x => (x.1, x.2.2)) = some (1, 0x3FFF) ∧ (ap.apertureBlock (2 ^ 30 + 0x3FFF) 2).isNone = true ∧
    ({ rcctl := 0x80#64 } : State).rcctl.toNat.testBit 7 = true ∧ inTier 0 = true ∧ inTier (0 + 16 - 1) = true ∧ inTier 0x1C0000000000 = false ∧
    (pageOf 0xFF00000000000).1 = .outside ∧
    Tests.bar.booted = true ∧ Tests.bar.estop = false ∧ Tests.bar.fnWorld 16 = 0 ∧ (Tests.bar.fn 16).winbase = 0#64 ∧ (lets true false).1 = true ∧ (lets false true).1 = true ∧
    (lets true true).1 = true ∧ ((lets true false).2.barRead 0 0 (State.barWrite.pieces16 0x1000 8)).1.isSome = true ∧ pulled.1 = .ok (toBytes 8 0) ∧
    (pulled.2.inPlace 0 0x1000 (fun s => s.homeWrite { world := 0, asid := 0 } 0x1000 (toBytes 8 5))).1 = .ok [] ∧
    inDevice 0xF000000000000 = true ∧ pageOf 0xF000000000000 = (.ms 0, 0) ∧ (Page.ms 0).accepts 0 8 = true := by
  decide +kernel

theorem test_witness_ModuleBootsPowersAndStops : -- flash images that fail at each check; the mainmast's and the mainyard's messages; a core that has not reported, with and without a spare
    let bad (f : Flash) : State := { flash := f }
    let msg (k : Nat) : List Byte := BitVec.ofNat 8 k :: List.replicate 63 0#8
    let ready : State := { booted := true, clusters := [(0, { mast := { running := true, mailbox := [(9, msg 4)] } })] }
    let done : State := { hostless := true, phase := 3, clusters := [(0x7FE, { mast := { running := true, mailbox := [(0, msg 5)] } })] }
    let late : State := { booted := true, clk := 450000000, dies := [(0, { maps := [(0, 0x876543210#64), (1, 0xF76543210#64)] })] }
    let up : State := { booted := true, clk := 2250000, clusters := [(9, { mast := { running := true } })], dies := late.dies }
    (up.oldestMsg 0 = none ∧ 9 < up.flash.nsh ∧ (up.mast 9).running = true ∧ (up.mast 9).stopped = false ∧ 8 * 9 ∉ up.bootWork ∧ up.readyShards = [] ∧ up.inService 0 = true ∧
      (up.mast 0).mailbox.length < 16 ∧ up.windowAt + 2250000 ≤ up.clk ∧ (bad {}).clk < (bad {}).windowAt + 2250000 ∧ 8 * 7 ∉ late.bootWork) ∧
    (bad {}).booted = false ∧ (bad {}).estop = false ∧ (bad { headerOk := false }).flash.headerOk = false ∧ (bad { signatureOk := false }).flash.signatureOk = false ∧
    (bad { yardsOk := false }).flash.yardsOk = false ∧ (bad {}).flash = {} ∧
    ready.oldestMsg 0 = some (9, msg 4) ∧ ((msg 4).getD 0 0#8).toNat = 4 ∧ 9 ∉ ready.readyShards ∧ 1 < ready.flash.nsh ∧
    (done.mast 0x7FE).mailbox = [(0, msg 5)] ∧ (msg 5).getD 0 0#8 = 5#8 ∧ done.phase = 3 ∧ done.estop = false ∧
    late.booted = true ∧ 15 < late.flash.nsh ∧ 7 ∉ late.readyShards ∧ late.inService 7 = true ∧ late.inService 15 = true ∧ (late.mast 7).releasedAt + 450000000 ≤ late.clk ∧
    bits (getD (late.die 0).maps 0 0#64).toNat 35 32 ≠ 15 ∧ 7 ∉ late.retried ∧ bits (getD (late.die 0).maps 1 0#64).toNat 35 32 = 15 := by
  decide +kernel

/-- A submitted world-command record: OP, then these bytes at their offsets, all others 0. -/
def Tests.wcmd (op : Nat) (bs : List (Nat × Byte)) : Fn := { wbusy := true, wcmd := (List.range 256).map fun i => if i = 0 then BitVec.ofNat 8 op else getD bs i 0#8 }
/-- The HMAC under session key 1 of a record's first 0xC0 bytes without its STATUS (R368). -/
def Tests.tag (op : Nat) (bs : List (Nat × Byte)) : List Byte :=
  fitBytes 32 (hmac512 1 ((Tests.wcmd op bs).wcmd.take 2 ++ [0#8, 0#8] ++ ((Tests.wcmd op bs).wcmd.drop 4).take 0xBC))
/-- The same record with that TAG. -/
def Tests.signed (op : Nat) (bs : List (Nat × Byte)) : Fn :=
  { wbusy := true, wcmd := (List.range 256).map fun i => if 0xC0 ≤ i ∧ i < 0xE0 then (Tests.tag op bs).getD (i - 0xC0) 0#8 else if i = 0 then BitVec.ofNat 8 op else getD bs i 0#8 }
/-- The arguments of a SEALINST of one line at 0x1000 for declaration 1, version 1, from 0. -/
def Tests.sealArgs : List (Nat × Byte) := [(8, 1#8), (0xC, 1#8), (0x11, 0x10#8), (0x18, 1#8)]
/-- The state in which function fn has submitted that record and world w is as given. -/
def Tests.wst (fn : Nat) (x : Fn) (w : Nat) (y : World) : State := { booted := true, clk := 2250, fns := [(fn, x)], worlds := [(w, y)] }

theorem test_witness_WorldCommands : -- WorldsAndInjectionsAreServed: each command in due form, on virtual function 15 or the physical one; heartbeat at and before its deadline
    let sub (s : State) (fn op : Nat) (unused : List (Nat × Nat)) : Bool := (s.fn fn).wbusy && s.booted && !s.estop && (s.fn fn).arg 0 2 == op && decide ((s.fn fn).wsubAt / 2250 < s.clk / 2250) && zeroAt (s.fn fn).wcmd 0xE0 32 &&
      unused.all fun u => zeroAt (s.fn fn).wcmd u.1 u.2
    let w : World := { alive := true, ks := some 1, deadline := 2251 }
    let create := Tests.wst 15 (Tests.wcmd 1 [(8, 8#8), (9, 1#8), (0xC, 0x60#8), (0xD, 0xEA#8)]) 1 {}
    let live (op : Nat) (bs : List (Nat × Byte)) : State := Tests.wst 15 (Tests.wcmd op bs) 16 { w with ks := none }
    let sig (op : Nat) (bs : List (Nat × Byte)) : State := Tests.wst 15 (Tests.signed op bs) 16 w
    let pf (op : Nat) (bs : List (Nat × Byte)) (w : World) : State := Tests.wst 16 (Tests.wcmd op bs) 16 w
    let d : Decl := { tid := 1, ver := 1, base := 0x1000, bytes := 0x1000, frozen := true }
    let seal_ : State := { sig 5 Tests.sealArgs with worlds := [(16, { w with decls := [d] })], mem := Tests.words [(0x100000, 0x101001), (0x101000, 0x102001), (0x102000, 0x103001), (0x103000, 0x20007B)], dies := Tests.bar.dies }
    let read : State := { pf 10 [(0x11, 0x10#8), (0x18, 0x10#8)] {} with debugOpen := true, mem := Tests.bar.mem, dies := Tests.bar.dies }
    (sub create 15 1 [(0x0A, 2), (0x30, 0x90)] = true ∧ (create.fn 15).arg 8 1 = 8 ∧ (create.fn 15).arg 9 1 = 1 ∧ (create.fn 15).arg 0xC 4 = 60000 ∧ (create.world 16).alive = false ∧
      create.debugOpen = false ∧ create.waysUsed + 8 ≤ 24 ∧ create.unlockWaits (create.fn 15) = false ∧ create.l2 = []) ∧
    (sub (live 2 []) 15 2 [(0x08, 8), (0x30, 0x90)] = true ∧ sub (live 3 []) 15 3 [(0x08, 8), (0x30, 0x90)] = true ∧ ((live 3 []).world 16).alive = true ∧ ((live 3 []).world 16).ks = none) ∧
    (sub (sig 4 [(8, 3#8)]) 15 4 [(0x09, 7), (0x38, 0x88)] = true ∧ ((sig 4 [(8, 3#8)]).fn 15).arg 8 1 = 3 ∧ find ((sig 4 []).world 16).slots 3 = none) ∧
    (sub seal_ 15 5 [(0x1C, 4), (0x28, 0x98)] = true ∧ ((seal_.world 16).decls.find? fun d => d.tid = (seal_.fn 15).arg 8 4 && d.ver = (seal_.fn 15).arg 0xC 4).isSome = true ∧
      (seal_.fn 15).arg 0x10 8 = 0x1000 ∧ (seal_.fn 15).arg 0x18 4 = 1 ∧ inTier ((seal_.fn 15).arg 0x20 8) = true ∧ inTier (0 + 136 * 1 - 1) = true ∧ (seal_.fn 15).wprog = none ∧
      (seal_.sealedFrame 0 0x1000).isSome = true ∧ ((seal_.translated 0 0x1000).installLine w d 0x1000 0 1 0).isNone = true) ∧
    (sub (sig 6 []) 15 6 [(0x08, 0xB8)] = true ∧ (sig 6 []).clk < w.deadline ∧ sub (sig 7 []) 15 7 [(0x09, 0xB7)] = true ∧ (sig 7 []).savingIn 16 = false ∧
      ({ sig 7 [] with clk := 2251 } : State).savingIn 16 = false ∧ w.ending = false) ∧
    (sub (pf 7 [(8, 16#8)] w) 16 7 [(0x09, 0xB7)] = true ∧ ((pf 7 [(8, 16#8)] w).fn 16).arg 8 1 = 16 ∧ ((pf 7 [(8, 16#8)] w).world 16).alive = true ∧ (pf 7 [(8, 16#8)] w).savingIn 16 = false) ∧
    (sub (pf 8 [] {}) 16 8 [(0x08, 8), (0x50, 0x70)] = true ∧ (pf 8 [] {}).createWaits ((pf 8 [] {}).fn 16) = false ∧ ((pf 8 [] {}).worlds.all fun e => !e.2.alive) = true ∧ sub (pf 9 [] {}) 16 9 [(0x08, 0xB8)] = true) ∧
    sub read 16 10 [(0x09, 7), (0x1C, 0xA4)] = true ∧ read.debugOpen = true ∧ (read.fn 16).arg 0x18 4 = 16 ∧ (read.fn 16).arg 0x10 8 = 0x1000 ∧
    (match read.debugRead 0 (read.fnAsid 16) 0x1000 1 with | (.ok _, _) => true | _ => false) = true := by
  refine ⟨?_, ?_, ?_, ?_, ?_, ?_, ?_, ?_⟩ <;> decide +kernel

/-- The second form of SEALINST's later events: a line of zeros at 0 whose MAC under slot key 5 stands after it is installed (R366). -/
theorem test_witness_sealinst_installs :
    let d : Decl := { tid := 1, ver := 1, base := 0x1000, bytes := 0x1000, frozen := true }
    let w : World := { alive := true, ks := some 1, slots := [(0, 5)], decls := [d] }
    let mac := (macOf 5 (cbBlock 1 1 0 0xFFFF) (List.replicate 8 0#128)).toNat
    let mem := Tests.words [(0x80, mac), (0x100000, 0x101001), (0x101000, 0x102001), (0x102000, 0x103001), (0x103000, 0x20007B)]
    let s : State := { Tests.wst 15 { Tests.signed 5 Tests.sealArgs with wprog := some 0 } 16 w with dies := Tests.bar.dies, mem := mem }
    (s.fn 15).wprog = some 0 ∧ ((s.translated 0 0x1000).installLine w d 0x1000 0 1 0).isSome = true := by
  decide +kernel

theorem Tests.tag_placed (op : Nat) (bs : List (Nat × Byte)) : ((Tests.signed op bs).wcmd.drop 0xC0).take 32 = Tests.tag op bs := by
  have h : (Tests.tag op bs).length = 32 := by simp [Tests.tag, fitBytes, zeros]
  apply List.ext_getElem (by simp [h, Tests.signed])
  intro n h1 h2
  rw [h] at h2
  have h3 : 192 + n < 224 := by omega
  simp [Tests.signed, h3, List.getD_eq_getElem?_getD, h, h2]

/-- The records of the test above that are authenticated carry the HMAC that `signed` of WorldsAndInjectionsAreServed asks for. -/
theorem test_witness_signed_commands :
    ∀ x ∈ ([(4, [(8, 3#8)]), (5, Tests.sealArgs), (6, []), (7, [])] : List (Nat × List (Nat × Byte))),
      fitBytes 32 (hmac512 1 ((Tests.signed x.1 x.2).wcmd.take 2 ++ [0#8, 0#8] ++ ((Tests.signed x.1 x.2).wcmd.drop 4).take 0xBC)) = ((Tests.signed x.1 x.2).wcmd.drop 0xC0).take 32 := by
  have h : ∀ x ∈ ([(4, [(8, 3#8)]), (5, Tests.sealArgs), (6, []), (7, [])] : List (Nat × List (Nat × Byte))),
      (Tests.signed x.1 x.2).wcmd.take 0xC0 = (Tests.wcmd x.1 x.2).wcmd.take 0xC0 := by decide +kernel
  intro x hx
  have h1 := congrArg (List.take 2) (h x hx)
  have h2 := congrArg (List.drop 4) (h x hx)
  simp only [List.take_take, List.drop_take, Nat.min_def, Nat.reduceLeDiff, Nat.reduceSub, if_true] at h1 h2
  rw [Tests.tag_placed, h1, h2, Tests.tag]

theorem test_witness_InjectionsAndMapRequests : -- WorldsAndInjectionsAreServed: an injection of each kind; a free cluster with and without a spare, a busy one, a value without bit 12
    let map : SMap DWord := [(0, 0x876543210#64), (1, 0xF76543210#64)]
    let die (f a : Nat) : Die := { fictl := BitVec.ofNat 64 f, fiaddr := BitVec.ofNat 64 a, fidata := 0x80000000#64, fistat := 1#64, maps := map }
    let st (f a : Nat) : State := { Tests.on Tests.g with dies := [(0, die f a)] }
    let acc := 0xFBFFFFFFFF % 2 ^ 29 / 2 ^ 27 * 2 ^ 27 + 31 * 2 ^ 29 + 63 * 2 ^ 34 + 1
    let free : State := { dies := [(0, { maps := map, mapbusy := some 4096 })] }
    let busy : State := { Tests.on Tests.g with dies := [(0, { maps := map, mapbusy := some 4096 })] }
    ((st acc 0).pendingInjection 0 0 = some acc ∧ acc.testBit 5 = false ∧ (st acc 0).injectRefused 0 acc 0 = false ∧ (st acc 0).logicalOf 0 (bits acc 19 13) = some 0 ∧
      ((st acc 0).groupIn 0 (bits acc 21 20) (bits acc 26 22)).map (fun x => x.1) = some 32 ∧ bits acc 28 27 = 3 ∧ bits acc 33 29 = 31 ∧ bits acc 39 34 = 63) ∧
    ((st 3 0x1FFFFFFFF80).pendingInjection 0 1 = some 3 ∧ (st 3 0x1FFFFFFFF80).injectRefused 0 3 0x1FFFFFFFF80 = false) ∧
    ((st 5 0x7FFF8).pendingInjection 0 2 = some 5 ∧ (st 5 0x7FFF8).injectRefused 0 5 0x7FFF8 = false ∧ (st 5 0x7FFF8).logicalOf 0 (bits 5 19 13) = some 0) ∧
    ((free.die 0).mapbusy = some 4096 ∧ free.inService 0 = true ∧ free.inService 8 = true ∧ bits (getD (free.die 0).maps 0 0#64).toNat 35 32 = 8 ∧ bits (getD (free.die 0).maps 1 0#64).toNat 35 32 = 15) ∧
    busy.inService 0 = true ∧ (busy.blocks.any fun e => e.2.cluster == 0 && e.2.phase != .gone) = true := by
  refine ⟨?_, ?_, ?_, ?_, ?_⟩ <;> decide +kernel

/-- The bytes of 4-byte words in SRAM. -/
def Tests.words4 (es : List (Nat × Nat)) : SMap Byte := es.flatMap fun e => ((List.range 4).map fun i => (e.1 + i, BitVec.ofNat 8 (e.2 / 256 ^ i))).filter fun c => c.2 != 0#8
/-- The state in which lane 0 of the tests' group waits at a delivered trap whose frame (R331) holds this call and these arguments. -/
def Tests.sys (num : Nat) (args : List Nat) : State :=
  let g : Group := { Tests.g with hold := [(0, .event 0x51 0x10004#64 true)] }
  let m : Mast := { Tests.m0 with frameDepth := [(0, 1)], sram := Tests.words4 ([(0x3F000, num), (0x3F004, 1), (0x3F010, 0x10000)] ++ args.mapIdx fun i x => (0x3F020 + 128 * i, x)) }
  { Tests.mg m g with blocks := [(1, { fetchBlock with bgen := 1 })], files := [(1, { size := 1024, drive := 0, lba := 2 })], drives := [(0, [(1536, 7#8)])], eth := [(3, { linkup := true, ectl := 1#64 })]
                      sockets := [{ owner := 0, lid := 1, index := 0, port := 3, etype := 0x0600 }] }
/-- The call that the core finds. -/
def Tests.kc (num : Nat) (args : List Nat) : KCall := ((Tests.sys num args).frameCall 0 0).getD { origin := 0, gid := 0, bgen := 0, tag := 0, lanes := 0#32, redo := false, launch := 0, block := 0, group := 0, pc := 0, call := 99, args := [] }

/-- The state in which that call is in service at its own shard, its command under way. -/
def Tests.srv (num : Nat) (args : List Nat) (slot : Nat) : State :=
  { Tests.sys num args with served := [{ owner := 0, call := Tests.kc num args, phase := .command, slot := slot }] }

theorem test_witness_SystemCallsAreServed : -- each call of R333 with arguments at the ends of their ranges, at its start and its end, an unknown one, a redelivered one, one of another owner, and a message of each kind
    let lives (s : State) (k : KCall) : Bool := (find s.blocks (k.gid / 32)).any (fun b => b.bgen == k.bgen && b.phase == .resident && !b.genRetired) && s.groups.all fun e => !s.leaving e.2.bid
    let due (s : State) (num : Nat) (args : List Nat) : Bool :=
      let k := (s.frameCall 0 0).getD (Tests.kc 0 [])
      (s.frameCall 0 0).isSome && (List.range 3).all (fun i => (s.frameCall 0 (i + 1)).isNone) && k.call == num && (List.range 6).all fun i => k.arg i == args.getD i 0
    let owned (num : Nat) (args : List Nat) : Bool :=
      let s := Tests.sys num args
      let k := Tests.kc num args
      due s num args && s.callOwner 0 k == 0 && (s.recorded k).isNone && s.callWorld k == 0 && lives s k && s.served.isEmpty
    let serving (s : State) (num : Nat) : Bool := (List.range 4).all (fun sp => (s.frameCall 0 sp).all fun k => !k.servedBy num) &&
      (match s.served with | [x] => x.owner == 0 && x.call.call == num && lives s x.call | _ => false)
    let file := [1, 512, 0, 512, 0x3E00, 0]
    let rd := Tests.kc 1 file
    let ring : Eth := { linkup := true, ectl := 1#64, rings := [(0, 0x2000#64), (1, 4#64)] }
    let port : State := { Tests.sys 5 [0, 0, 0, 1, 0x3FF0] with eth := [(3, ring)] }
    let sent : State := { Tests.srv 5 [0, 0, 0, 1, 0x3FF0] 0x2000 with mem := Tests.words [(0x2008, 0x100000000)] }
    let redo : State := { Tests.srv 1 file 7 with served := [{ owner := 0, call := Tests.kc 1 file, phase := .command, slot := 7 }], clusters := [(0, { mast := { (Tests.sys 1 file).mast 0 with
      sram := Tests.words4 ([(0x3F000, 1), (0x3F004, 1), (0x3F008, 256), (0x3F010, 0x10000)] ++ file.mapIdx fun i x => (0x3F020 + 128 * i, x)) } })], groups := [(64, { Tests.g with bid := 2, hold := [(0, .event 0x51 0x10004#64 true)] })], blocks := [(2, { fetchBlock with bgen := 2 })] }
    let map : SMap Die := [(0, { maps := [(1, 0x876543210#64)] })]
    let far (n : Nat) : State := { Tests.sys 3 [1] with flash := { fshard := [0, 9] }, dies := map, clusters := (Tests.sys 3 [1]).clusters ++ [(9, { mast := { mailbox := List.replicate n (0, []) } })] }
    let msg (k : KCall) (kind : Nat) : State := let s := Tests.sys 3 [1]; { s with calls := [k], clusters := [(0, { mast := { s.mast 0 with mailbox := [(1, k.message kind 5#32)] } })] }
    let sz := Tests.kc 3 [1]
    let other : KCall := { sz with origin := 1 }
    let on : State := { msg other 1 with flash := { fshard := [0, 9] }, dies := map }
    let reply : State := { Tests.sys 3 [1] with served := [{ owner := 0, call := { sz with origin := 9 }, phase := .reply }], groups := [], dies := map }
    let fault (a : Nat) : State := { Tests.sys 3 [1] with dies := [(0, { maps := [(1, 0x876543210#64)], fbhead := 1#64, entries := [{ Tests.fb 0 with asid := a }] })] }
    (((Tests.sys 1 []).mast 0).running = true ∧ ((Tests.sys 1 []).mast 0).stopped = false ∧ (Tests.sys 1 []).booted = true ∧ (Tests.sys 1 []).estop = false) ∧
    (owned 1 file = true ∧ rd.fileArgsOk = true ∧ rd.offset < 1024 ∧ find (Tests.sys 1 file).files (rd.arg 0) = some { size := 1024, drive := 0, lba := 2 } ∧ ((Tests.sys 1 file).commands 0 0).length < 63) ∧
    (owned 2 file = true ∧ (Tests.kc 2 file).offset + 512 ≤ 1024 ∧ ((Tests.sys 2 []).apertureIn (Tests.kc 2 file) 0x3E00 512).map List.length = some 512) ∧
    (serving (Tests.srv 1 file 0) 1 = true ∧ serving (Tests.srv 2 file 0) 2 = true ∧ ((Tests.srv 2 file 0).apertureIn (Tests.kc 2 file) 0x3E00 512).map List.length = some 512) ∧
    (due redo 1 file = true ∧ ((redo.frameCall 0 0).map fun k => k.redo) = some true ∧ (redo.served.all fun x => some x.call.key == (redo.frameCall 0 0).map fun k => k.key) = true) ∧
    (owned 3 [1] = true ∧ owned 4 [3, 0xFFFF] = true ∧ owned 5 [0, 0, 0, 1, 0x3FF0] = true) ∧ due port 5 [0, 0, 0, 1, 0x3FF0] = true ∧
    ((port.apertureIn (Tests.kc 5 [0, 0, 0, 1, 0x3FF0]) 0x3FF0 1).isSome = true ∧ ring.reg 0 1 = 4 ∧ (ring.reg 0 3 + 1) % ring.ringSize 0 ≠ ring.reg 0 2) ∧
    (serving sent 5 = true ∧ (sent.dmaRead 0x2000 32).map (fun d => bit (fieldAt d 12 4) 0) = some true) ∧
    (owned 6 [0, 0, 0, 64, 0x3FC0] = true ∧ owned 7 [0] = true ∧ owned 8 [] = true ∧ owned 0 [] = true) ∧
    (due (far 15) 3 [1] = true ∧ (far 15).callOwner 0 sz = 9 ∧ (far 15).inService 9 = true ∧ ((far 15).mast 9).mailbox.length = 15 ∧ ((far 16).mast 9).mailbox.length = 16) ∧
    (((msg other 1).oldestMsg 0).map (fun x => (x.2.getD 0 0#8).toNat) = some 1 ∧ ((msg sz 3).oldestMsg 0).map (fun x => (x.2.getD 0 0#8).toNat) = some 3) ∧
    ((msg other 1).callOwner 0 ((msg other 1).callOfMsg (other.message 1 5#32)) = 0 ∧ ((msg other 1).callOfMsg (other.message 1 5#32)).origin = 1 ∧ ((msg other 1).callOfMsg (other.message 1 5#32)).call = 3 ∧
      ((msg other 1).callOfMsg (other.message 1 5#32)).arg 0 = 1) ∧
    (on.callOwner 0 (on.callOfMsg (other.message 1 5#32)) = 9 ∧ on.inService 9 = true ∧ (on.mast 9).mailbox = []) ∧
    ((List.range 4).all (fun sp => (reply.frameCall 0 sp).isNone) = true ∧ reply.inService 9 = true ∧ (reply.mast 9).mailbox = []) ∧
    ((msg sz 2).calls.find? fun k => k.origin = 0 && k.tag % 2 ^ 32 = fieldAt (sz.message 2 5#32) 4 4) = some sz ∧ lives (msg sz 2) sz = true ∧
    ((fault 0).faultDue 0).map (fun x => (fault 0).regionOwner x.2) = some 0 ∧ ((fault 9).faultDue 0).map (fun x => (fault 9).regionOwner x.2) = some 9 ∧ (fault 9).inService 9 = true ∧
    (fault 0).oldestMsg 0 = none := by
  refine ⟨⟨rfl, rfl, rfl, rfl⟩, ?_⟩
  decide +kernel

theorem test_witness_EncodingAndDecodingAgree : -- a one-word and a two-word instruction, and words that decode
    (Instr.iadd Tests.rf).wf = true ∧ encode (.iadd Tests.rf) = some (0x00703102, none) ∧ (Instr.ld Tests.ml).wf = true ∧ encode (.ld Tests.ml) = some (622363392, some 16384) ∧
    decodeWords 0x00703102 0 = .ok (.iadd Tests.rf) ∧ decodeWords 622363392 16384 = .ok (.ld Tests.ml) := by decide +kernel

theorem test_witness_EveryStepKeepsMemoryCanonical : -- memory that lists two bytes, and a step that answers a next state
    let s : State := { (State.reset.withFetchWord 32 0x00703102) with mem := [(0, 1#8), (0x1C0000000000, 255#8)] }
    s.canonical ∧ Tests.next (step s) (fun t => t.mem == [(0, 1#8), (0x1C0000000000, 255#8)]) = true :=
  ⟨(by decide +kernel : Memory.wf [(0, 1#8), (0x1C0000000000, 255#8)] = true), by decide +kernel⟩

theorem test_witness_StepRunsTheDecodedInstruction : -- a group's words that decode, words that do not, words that another issue keeps from the pipe, a page that is not mapped, one on its way; a core's words; two moves of one clk
    let s := State.reset.withFetchWord 32 0x00703102
    let bad := State.reset.withFetchWord 32 0x38000000
    let away : State := { s with clusters := [], l2 := [] }
    let late : State := { away with dies := [(homeDie 0 0x10000, { tlb := [(homePort 0 0x10000, [{ asid := 0, va := 0x10000, leaf :=
      { psize := 4096, x := true, w := true, rd := true, sealed_ := false, res := 3, pa := 0, remote := none, entry := 0 } }])] })] }
    let core := State.reset.withFetchWord 32 0xDD703000
    let after (s : State) (a : Agent) : State := { (s.advance 1) with agenda := [], cur := a }
    let g := fetchGroupInit
    let mine (s : State) : State := after s (.group 32 0x10000#64)
    let ready (s : State) : Bool := (mine s).mayIssue g 0x10000#64 && !(mine s).fetchHeld g 0x10000#64 && s.agenda == [.issue 1 (.group 32 0x10000#64)] && find s.groups 32 == some g
    (([] : List Move).takeWhile Move.sameClk = [] ∧ [Move.issue 2 .nobody, .issue 0 .nobody].takeWhile Move.sameClk = []) ∧
    s.firstOf (.issue 1 (.group 32 0x10000#64)) [.event 0 (.launchCompletion 1)] = (.event 0 (.launchCompletion 1), [.issue 0 (.group 32 0x10000#64)]) ∧
    (s.advance 1).firstOf (.issue 1 (.group 32 0x10000#64)) [] = (.issue 1 (.group 32 0x10000#64), []) ∧ g.issued 0x10000#64 ≠ 0#32 ∧
    ready s = true ∧ ready bad = true ∧ ready away = true ∧ ready late = true ∧
    ((mine s).fetchGroup g 0x10000#64).1 = .words 0x00703102 0 ∧ (mine s).pipeTakes 32 g 0x00703102 = true ∧
    ((mine s).pipeUsed g 0x00703102).pipeTakes 32 g 0x00703102 = false ∧ ((mine s).pipeUsed g 0x00703102).mayIssue g 0x10000#64 = true ∧
    ((mine bad).fetchGroup g 0x10000#64).1 = .words 0x38000000 0 ∧ decodeWords 0x38000000 0 = .error .illegalOpcode ∧
    (match ((mine away).fetchGroup g 0x10000#64).1 with | .fault _ _ _ => true | _ => false) = true ∧ ((mine late).fetchGroup g 0x10000#64).1 = .delayed 0x10000 ∧
    core.agenda = [.issue 1 (.mast 0)] ∧ (core.mast 0).running = true ∧ (core.mast 0).stopped = false ∧ (core.mast 0).wait = .nothing ∧
    (core.mast 0).pc.toNat + 8 ≤ 0x40000 ∧ (after core (.mast 0)).eventDue 0 = false := by
  decide +kernel
/-- Published vectors: SHA-512 of "abc" (FIPS 180-4), the AES-256 example of FIPS 197, the 256-bit key of RFC 3394 4.6, CRC-32C of "123456789". -/
theorem test_published_vectors :
    shaBytes [0x61, 0x62, 0x63] = bigBytes 64 0xDDAF35A193617ABACC417349AE20413112E6FA4E89A97EA20A9EEEE64B55D39A2192992A274FC1A836BA3C23A3FEEBBD454D4423643CE80E2A9AC94FA54CA49F ∧
    aesBytes (littleEndian (List.range 32)) (bigBytes 16 0x00112233445566778899AABBCCDDEEFF) = bigBytes 16 0x8EA2B7CA516745BFEAFC49904B496089 ∧
    unwrapBytes (littleEndian (List.range 32)) (bigBytes 40 0x28C9F404C4B810F4CBCCB35CFB87F8263F5786E2D80ED326CBC7F0E71A99F43BFB988B9B7A02DD21) =
      some (bigBytes 32 0x00112233445566778899AABBCCDDEEFF000102030405060708090A0B0C0D0E0F) ∧
    crcBytes [0x31, 0x32, 0x33, 0x34, 0x35, 0x36, 0x37, 0x38, 0x39] = 0xE3069283 := by
  decide +kernel

/-- An image of 576 bytes with one kernel of one variant (R69 to R71); its digest is the SHA-512 of the other bytes. -/
def Tests.im : List Byte :=
  List.map (BitVec.ofNat 8) ((List.range 0x240).map fun i => if 0x60 ≤ i ∧ i < 0xA0 then 
    (bigBytes 64 0xb6ef9ec762c4df8f08ebf5c9a03264179c263306e6581e651feb9499dddbdb63bc3b25c6296dca09b642af803b57b9d0ebdf288b922424537f292aebdfed8aa6).getD (i - 0x60) 0 else getD
    [(0x0, 0x45), (0x1, 0x57), (0x2, 0x45), (0x3, 0x56), (0x4, 0x1), (0x8, 0x1), (0x11, 0x1), (0x21, 0x2), (0x28, 0x40), (0x50, 0x40),
      (0x51, 0x2), (0x10C, 0x1), (0x10D, 0x1), (0x10E, 0x1), (0x111, 0x2), (0x201, 0x10), (0x204, 0x1), (0x209, 0x40), (0x228, 0x40)] i 0)

theorem test_witness_an_image_that_loads : -- LaunchesAndRingsProgress: the clause of an image that R73 accepts
    (parseImage 0 Tests.im).isSome = true := by
  decide +kernel

/-! ### The clauses that rest on the state alone -/

theorem Tests.nothingHeld (k : Cluster) (h : k.l1held = []) (c : Nat) : (getD [(0, k)] c ({} : Cluster)).l1held = [] := by
  simp only [getD]
  split
  · exact h
  · rfl

theorem test_witness_uniform_accesses_at_home : -- UniformAccessesComplete: the line at 0x1000 is at home, nothing waits
    quietHome (Tests.mem Tests.gm) 32 Tests.gm ∧
    ((pieces 0x1000 4).all fun p => match find (Tests.mem Tests.gm).l2 (l2key 0 0 p.1) with | some x => !x.poison | none => false) = true ∧
    (Tests.mem Tests.gm).frozenAt 0 0x1000 = false ∧ (Tests.mem Tests.gm).frozenAt 0 0x1003 = false ∧
    (Tests.mem Tests.gm).blockOf Tests.gm = some fetchBlock ∧ fetchBlock.phase ≠ .gone ∧ (Tests.mem Tests.gm).spPoison fetchBlock 0x1000 4 = false :=
  ⟨⟨by decide +kernel, by decide +kernel, rfl, Tests.nothingHeld _ rfl, rfl, rfl, rfl⟩, by decide +kernel, by decide +kernel, by decide +kernel, by decide +kernel,
    by decide +kernel, by decide +kernel⟩

theorem test_witness_tile_rows_at_home : -- TileLoadsAndMatrixWaits and the instructions that ask for no awaited access
    quietHome (Tests.mat Tests.gx Tests.held) 32 Tests.gx ∧ Tests.gx.awaits = 0 ∧ Tests.gx.sideCount = 0 ∧
    ((List.range 8).all fun j => (pieces (0x1000 + 16 * j) 16).all fun p =>
      match find (Tests.mat Tests.gx Tests.held).l2 (l2key 0 0 p.1) with | some x => !x.poison | none => false) = true ∧
    (match (Tests.mat Tests.gx Tests.held).spPlace fetchBlock false 0x1000#32 128 with | .ok (m, o) => m == fetchBlock && o == 0x1000 | .error _ => false) = true ∧
    (Tests.mat Tests.gx Tests.held).spPoison fetchBlock 0x1000 128 = false ∧ (Tests.mat Tests.gx Tests.held).blockOf Tests.gx = some fetchBlock :=
  ⟨⟨by decide +kernel, by decide +kernel, rfl, Tests.nothingHeld _ rfl, rfl, rfl, rfl⟩, by decide +kernel, by decide +kernel, by decide +kernel, by decide +kernel,
    by decide +kernel, by decide +kernel⟩

theorem test_witness_replays_at_home : -- MemoryAgentsDoTheirWork: a logged store and a parked load to the line at 0x1000, a held byte, an event at its source
    let e : SideLog := { gid := 32, bid := 1, lid := 1, asid := 0, page := 1, pc := Tests.P, ops := [{ lane := 0, addr := 0x1000, size := 4, atop := none, y := 5, y2 := 0 }] }
    let k : Cluster := { ctb := [Tests.page], sideLogs := [(0, [e])] }
    let log : State := { Tests.mem Tests.gm with clusters := [(0, k)] }
    let p : Parked := { w0 := 622363392, w1 := 16384, lanes := 1#32, one := false, row := false, pc := Tests.P, addrs := [(0, 0x1000)] }
    let parked : Group := { Tests.gm with replay := [p] }
    let s := Tests.mem parked
    let w (n : Nat) : DWord := BitVec.ofNat 64 (n * 2 ^ 51)
    let waits : Die := { eccq := [w 1, w 2], eccWait := [w 3] }
    ((∀ c, (log.cluster c).l1held = []) ∧ (log.cluster 0).l1 = [] ∧ log.devHeld = [] ∧ log.devCopy = [] ∧ log.dir = [] ∧ (log.cluster 0).pieces = [] ∧ log.farWaits = []) ∧
    (log.entriesPoisoned 32 = false ∧ (log.bindPieces (log.logWho 0 0 e) 0).farWaits.isEmpty = true ∧ e.bad = false ∧ (log.logWho 0 0 e).world = 0 ∧ log.frozenAt 0 0x1000 = false ∧
      (log.logWho 0 0 e).lid = 1 ∧ fetchLaunch.replayable = false ∧
      ((log.bindPieces (log.logWho 0 0 e) 0).storeHome (log.logWho 0 0 e) 0 0x1000 (toBytes 4 5) false false).1 = .ok [] ∧
      ((pieces 0x1000 4).all fun p => match find log.l2 (l2key 0 0 p.1) with | some x => !x.poison | none => false) = true) ∧
    ((∀ c, (s.cluster c).l1held = []) ∧ s.waitingOf 32 0 = [] ∧ s.sideLog 0 0 = [] ∧ s.pageMoves 0 0x1000 = false ∧ parked.errs = []) ∧
    ({ val := 5#8, party := 32 } : Held).bad = false ∧ ({ val := 5#8, party := 32 } : Held).release = false ∧
    waits.eccWait = [w 3] ∧ waits.eccq.length ≤ 256 ∧ ((waits.eccq.tail.getLast?).map fun y => bits y.toNat 51 7) ≠ some (bits (w 3).toNat 51 7) ∧
    ({ fbbase := 0x20000#64, heldFaults := [Tests.fb 0] } : Die).joined (Tests.fb 0) = none ∧
    ({ dies := [(0, { inv := some (4, 0, 0x80, 0x100) })] } : State).rangeHeld 0 0x80 0x100 = false :=
  ⟨⟨Tests.nothingHeld _ rfl, rfl, rfl, rfl, rfl, rfl, rfl⟩, by decide +kernel, ⟨Tests.nothingHeld _ rfl, by decide +kernel, by decide +kernel, by decide +kernel, rfl⟩,
    by decide +kernel⟩

theorem test_witness_helpers_and_leaving_blocks : -- PrivilegeAndOpcodeChecks: a fetch that fails for helper lanes alone; MastReturnsToLanesAndMessages: a block on its way out
    let g : Group := { Tests.g with helper := 0xFFFFFFFF#32 }
    let s : State := { Tests.mg Tests.m0 Tests.g with blocks := [(1, { fetchBlock with saving := some (2, 0) })] }
    (Tests.on g).cur = .group 32 Tests.P ∧ g.issued Tests.P ≠ 0#32 ∧ g.issued Tests.P &&& ~~~g.helper = 0#32 ∧ (Tests.on g).mayIssue g Tests.P = true ∧
    (s.mgrp 0).isSome = true ∧ s.leaving Tests.g.bid = true ∧ (Tests.mg Tests.m0 Tests.g).leaving Tests.g.bid = false := by
  decide +kernel

theorem test_witness_blocks_and_launches_at_work : -- BlocksAreSwitchedSavedRestoredAndEnded, LaunchesAndRingsProgress: conditions that the tests above do not show
    let s := Tests.kb Tests.kl fetchBlock [(32, Tests.g)]
    let hit : Block := { fetchBlock with struck := some (0x40, 4049999), warned := some 4050000 }
    let two : Launch := { Tests.kl with rank := 1, record := { groups := 1, vmask := 3, ndev := 2 }, doneFrom := [1] }
    let done : Launch := { Tests.kl with spawn := 0, gangs := [], record := { groups := 1, vmask := 3, doneaddr := 0x1000 } }
    let again : Launch := { Tests.kl with replaying := true, record := { groups := 1, vmask := 3, param := 0x1000 }, pcopy := [5#8] }
    let r := Tests.rg id [(1, again)]
    (fetchBlock.struck = none ∧ Tests.kl.record.lflags.testBit 2 = false ∧ (s.engine 0 0).waiters = [] ∧ (s.engine 0 0).holder = none) ∧
    (hit.warned.getD 0 + 450000 ≤ s.clk ∧ ¬ s.clk + 1 < hit.warned.getD 0 + 450000 ∧ Tests.g.event = none ∧ (Tests.rec_ 0x40).halts = false ∧ ({ Tests.rec_ 0x40 with halts := true } : FaultRec).halts = true) ∧
    (two.rank ≠ 0 ∧ 0 < two.record.ndev ∧ 0 ∉ two.doneFrom ∧ two.phase = .running ∧ two.rank ∈ two.doneFrom) ∧
    (done.failAt = none ∧ done.record.ndev = 1) ∧
    again.replaying = true ∧ again.prepared = false ∧ again.started = true ∧ again.record.ndev = 1 ∧ (again.ctxs.all fun e => e.2.cmds.isEmpty) = true ∧
    ((r.discardShadows 1).hwStore 0 0 0x1000 [5#8]).1 = .ok [] ∧
    ((Tests.em 0 (Tests.ex (Tests.ec 0x24 [0x1000#32, 0#32, 0x1040#32, 0#32, 16#32, 0#32]))).writeRecord 1 0 1 0 0 0 0).1 = true := by
  decide +kernel

end Checks
end

section
/-!
SUPPORT. Who may execute which opcode (R24, R42, R59 to R61, R203, R232, R441): what a mast core's issue answers for the opcodes it may not
execute, which instructions issue through which operation, and what a word that does not decode and a fetch that fails do.
-/
namespace Sys2Proof.Machine
open Sys2Proof

/-! ### Issue on a mast core -/

/-- A mast core cannot run a lane-set instruction (R203). -/
theorem laneIssue_mast {s : State} {c : Nat} (h : s.cur = .mast c) (hm : (s.mast c).mayRun = true) (i : Instr) (sw : Fin 2) (gd : Fin 8)
    (len : Nat) (u : Uses) (slots : Bool) (body : Issue → State → State) :
    laneIssue s i sw gd len u slots body = .next (s.mastFault c 0x01 0#64 0#64) := by
  simp only [laneIssue, h, hm, if_true]

/-- A mast core cannot run a uniform opcode that only groups execute, whatever its fields and guard hold (R60, R203). -/
theorem uniGroupOnly_mast {s : State} {c : Nat} (h : s.cur = .mast c) (hm : (s.mast c).mayRun = true) (i : Instr) (sw : Fin 2) (gd : Fin 8)
    (len : Nat) (u : Uses) (slots : Bool) (body : Issue → State → State) :
    uniGroupOnly s i sw gd len u slots body = .next (s.mastFault c 0x01 0#64 0#64) := by
  simp only [uniGroupOnly, h, hm, if_true, mastIllegal]

/-- A mast core that goes on changes its PC alone. -/
theorem State.mastNext_id (s : State) (c len : Nat) :
    s.mastNext c len id = s.setM c { s.mast c with pc := (s.mast c).pc + BitVec.ofNat 64 len } := rfl

/-- A privileged instruction of a privileged mast core, its guard off, only advances (R60, R203). -/
theorem privIssue_skips {s : State} {c : Nat} {m : Mast} {i : Instr} {gd : Fin 8} (h : SkipsMast s c m i gd) (hp : m.priv = true)
    (sw : Fin 2) (body : Nat → Mast → State → Out) :
    privIssue s i sw gd body = .next (s.setM c { m with pc := m.pc + 4#64 }) := by
  simp [privIssue, h.cur, h.core, h.may, hp, uniMast_skips h, State.mastNext_id]

/-! ### Which instructions issue how -/

/-- Instruction i issues as a privileged opcode with switch bit sw and guard gd. -/
def IssuesPrivileged (i : Instr) (gd : Fin 8) (sw : Fin 2) : Prop :=
  ∃ body, ∀ s, exec i s = privIssue s i sw gd body

/-- In state s instruction i issues as a lane-set instruction. -/
def IssuesAsLane (i : Instr) (s : State) : Prop :=
  ∃ sw gd len u slots body, exec i s = laneIssue s i sw gd len u slots body

/-- In state s instruction i issues as a uniform instruction that only groups execute. -/
def IssuesForGroupsOnly (i : Instr) (s : State) : Prop :=
  ∃ sw gd len u slots body, exec i s = uniGroupOnly s i sw gd len u slots body

/-- A word whose opcode part has bit 31 set is no lane-set word (R41). -/
theorem not_laneWord_of_opcode_ge {n b w : Nat} {y x : Option Nat} (h : some (n + b, y) = some (w, x)) (hn : 2 ^ 31 ≤ n) : ¬ w < 2 ^ 31 := by
  obtain ⟨rfl, -⟩ : n + b = w ∧ y = x := by simpa using h
  omega

/-- Every instruction with a lane-set word (bit 31 clear, R41) issues as one. -/
theorem issuesAsLane_of_encode {i : Instr} {w : Nat} {x : Option Nat} (he : encode i = some (w, x)) (hw : w < 2 ^ 31) (s : State) :
    IssuesAsLane i s := by
  cases i with
  | iadd | isub | iadds | isubs | imul | imulh | imad | imin | imax | andI | orI | xorI | andn | shl | shr | sra | shli | shri | srai
  | popc | clz | icmp | movl | iaddw | fadd | fsub | fmul | ffma | fmin | fmax | fabs | fneg | fcmp | frcp | frsq | fsqrt | fexp2 | flog2
  | fsin | fcos | hadd | hmul | hfma | badd | bmul | bfma | icvf | fcvi | fcvh | hcvf | icvn | bpk | bunpk | bpsel | bra | call | ret
  | jmprVector | jmprUniform | callrVector | callrUniform | join | waitI | exitI | plog | pmovGet | pmovSet | srd | nop | shfl | vote
  | redi | redf | scani | qswp | qbcast | qfill | ld | lds | st | ldacq | strel | ldsh | ldssh | stsh | ldg | stg | atom | red | atsh
  | redsh | atg | ldbc | pref | evict | ldasy | gwaddr | mldwTile | mldwMem | mma | mflip | acpyReg | acpyTile | acpyMem | acpyStat | ackd
  | azero | tld | tst | tldsh | tstsh | tmovGet | tmovPut | mbmap | mwait | mwaitRel | aset | qbind | qwr | qrd | qstat =>
    unfold IssuesAsLane exec
    exact ⟨_, _, _, _, _, _, rfl⟩
  | sadd | ssub | smul | smad | smin | smax | sand | sor | sxor | sshl | sshr | ssra | scmp | smovl | klog | sbra | scall | sret | ssr
  | sget | sld | sst | satom | sldsh | sstsh | satsh | fenceSc | fenceRel | fenceAcq | bar | barxInit | barxExpect | barxArrive
  | barxArrexp | barxInval | barw | sstep | tlwait | gset | gsetClr | sms | waitpred | tlread | cpy | gath | scat | coll | vdec
  | tdeclDecl | tdeclFrz | tdeclRet | enq | enqw | trap | brk | swpt | yield | snop | sleep | mret | mretGrp | mretRes | mretPc | msend
  | mrecv | gsave | gload | haltb | scan | ctbw | ctbiPage | ctbiAsid | ctbiAll | wcfg | mcrr | mcrw | mpark | gkill =>
    exact absurd hw (not_laneWord_of_opcode_ge he (by decide))
  | _ => cases he

/-- A mast core that may run raises F_ILLEGAL_OPCODE for what issues as a lane-set instruction. -/
theorem IssuesAsLane.mast {i : Instr} {s : State} (hi : IssuesAsLane i s) {c : Nat} (h : s.cur = .mast c) (hm : (s.mast c).mayRun = true) :
    exec i s = .next (s.mastFault c 0x01 0#64 0#64) := by
  obtain ⟨_, _, _, _, _, _, hx⟩ := hi
  rw [hx, laneIssue_mast h hm]

/-- A mast core that may run raises it too for what issues for groups only. -/
theorem IssuesForGroupsOnly.mast {i : Instr} {s : State} (hi : IssuesForGroupsOnly i s) {c : Nat} (h : s.cur = .mast c)
    (hm : (s.mast c).mayRun = true) : exec i s = .next (s.mastFault c 0x01 0#64 0#64) := by
  obtain ⟨_, _, _, _, _, _, hx⟩ := hi
  rw [hx, uniGroupOnly_mast h hm]

/-! ### Words that do not decode -/

/-- The model's bit of a number is the library's. -/
theorem bit_eq_testBit (x i : Nat) : bit x i = x.testBit i := by
  rw [bit, Nat.testBit_eq_decide_div_mod_eq]; rfl

/-- A privileged uniform opcode (R24, R58). -/
abbrev PrivilegedWord (w : Nat) : Prop := w.testBit 31 = true ∧ 0x32 ≤ bits w 29 23 ∧ bits w 29 23 ≤ 0x3F

/-- A uniform opcode number that only groups execute (R58, R203). -/
abbrev GroupOpcode (op : Nat) : Prop := (0x1B ≤ op ∧ op ≤ 0x1E) ∨ (0x20 ≤ op ∧ op ≤ 0x22) ∨ (0x27 ≤ op ∧ op ≤ 0x2F)

/-- For a group that may issue it, a uniform word that does not decode faults in all issued lanes: F_ILLEGAL_OPCODE for an unassigned opcode,
then F_PRIV for a privileged one, then F_RESERVED_FIELD (R59, R60). -/
theorem undecoded_group {s : State} {gid w : Nat} {pc : DWord} {g : Group} (h : Issues s gid pc g (if w.testBit 30 then 1 else 0))
    (hu : w.testBit 31 = true) (reserved : Bool) :
    s.undecoded w reserved = (s.setG gid (g.ready pc)).raise gid
      (if reserved = false then 0x01 else if PrivilegedWord w then 0x03 else 0x02) (g.issued pc) pc 0#64 0#64 := by
  simp [State.undecoded, h.cur, h.here, h.may, h.lanes, h.free, bit_eq_testBit, hu, PrivilegedWord, State.unstall_eq h.cur,
    State.updG_eq_setG _ h.here]

section
variable {s : State} {c : Nat} (h : s.cur = .mast c) (hm : (s.mast c).mayRun = true)
include h hm

/-- A word that does not decode, on a mast core that may run: its faults in the order of R60. -/
theorem undecoded_mast (w : Nat) (reserved : Bool) :
    s.undecoded w reserved = s.mastFault c
      (if reserved = false ∨ w.testBit 31 = false ∨ GroupOpcode (bits w 29 23) then 0x01
       else if PrivilegedWord w ∧ (s.mast c).priv = false then 0x03 else 0x02) 0#64 0#64 := by
  simp [State.undecoded, h, hm, bit_eq_testBit, or_assoc, and_assoc]

/-- F_ILLEGAL_OPCODE where the opcode is unassigned or none of a mast core's (R59, R203). -/
theorem undecoded_mast_illegal {w : Nat} {reserved : Bool}
    (hi : reserved = false ∨ w.testBit 31 = false ∨ GroupOpcode (bits w 29 23)) : s.undecoded w reserved = s.mastFault c 0x01 0#64 0#64 := by
  rw [undecoded_mast h hm, if_pos hi]

/-- F_PRIV for a privileged opcode in unprivileged mode (R59). -/
theorem undecoded_mast_privileged {w : Nat} (hw : PrivilegedWord w) (hp : (s.mast c).priv = false) :
    s.undecoded w true = s.mastFault c 0x03 0#64 0#64 := by
  have hi : ¬ (true = false ∨ w.testBit 31 = false ∨ GroupOpcode (bits w 29 23)) := by
    obtain ⟨hu, hlo, -⟩ := hw
    rintro (h | h | h)
    · cases h
    · simp [hu] at h
    · omega
  rw [undecoded_mast h hm, if_neg hi, if_pos ⟨hw, hp⟩]

/-- F_RESERVED_FIELD for an assigned opcode that the core may execute (R59). -/
theorem undecoded_mast_reserved {w : Nat} (hu : w.testBit 31 = true) (hg : ¬ GroupOpcode (bits w 29 23))
    (hp : PrivilegedWord w → (s.mast c).priv = true) : s.undecoded w true = s.mastFault c 0x02 0#64 0#64 := by
  have hpriv : ¬ (PrivilegedWord w ∧ (s.mast c).priv = false) := fun ⟨hw, hf⟩ => by simp [hp hw] at hf
  rw [undecoded_mast h hm, if_neg (by simp [hu, hg]), if_neg hpriv]

end

/-! ### A fetch that fails -/

/-- Where a fetch fails for helper lanes alone, they exit (R138, R441). -/
theorem fetchFail_helpers {s : State} {gid : Nat} {g : Group} (hg : find s.groups gid = some g) {I : Word} (hI : I &&& ~~~g.helper = 0#32)
    (code : Nat) (pc addr detail : DWord) : s.fetchFail gid g code I pc addr detail = s.setG gid (g.leave I) := by
  rw [State.fetchFail, if_pos hI, State.updG_eq_setG _ hg]

/-- Else, for no uncorrectable error, the lanes fault (R441). -/
theorem fetchFail_raises {g : Group} {I : Word} (hI : ¬ I &&& ~~~g.helper = 0#32) {code : Nat} (h40 : code ≠ 0x40) (h36 : code ≠ 0x36)
    (s : State) (gid : Nat) (pc addr detail : DWord) :
    s.fetchFail gid g code I pc addr detail = s.raise gid code I pc addr detail := by
  simp [State.fetchFail, hI, h40, h36]

/-- What the event of a fetch that fails does to the path of a group that may issue (R441). -/
theorem exec_fetchFault_group {s : State} {gid : Nat} {pc : DWord} {g : Group} (h : s.cur = .group gid pc) (hg : find s.groups gid = some g)
    (hl : g.issued pc ≠ 0#32) (hm : s.mayIssue g pc = true) {code : Nat} (hc : code < 256) (detail addr : Nat) :
    exec (.fetchFault (code + 256 * detail) addr) s =
      .next (s.fetchFail gid g code (g.issued pc) pc (BitVec.ofNat 64 addr) (BitVec.ofNat 64 detail)) := by
  have hcode : (code + 256 * detail) % 256 = code := by omega
  have hdetail : (code + 256 * detail) / 256 = detail := by omega
  simp [exec, execFetchFault, h, hg, hl, hm, hcode, hdetail]

/-- The same on a mast core that may run, whose fault takes ADDR alone (R323). -/
theorem exec_fetchFault_mast {s : State} {c : Nat} (h : s.cur = .mast c) (hm : (s.mast c).mayRun = true) {code : Nat} (hc : code < 256)
    (detail addr : Nat) :
    exec (.fetchFault (code + 256 * detail) addr) s = .next (s.mastFault c code (BitVec.ofNat 64 addr) 0#64) := by
  have hcode : (code + 256 * detail) % 256 = code := by omega
  simp [exec, execFetchFault, h, hm, hcode]

/-! ### The obligation -/

/-- Settles O42: by the operation through which each instruction issues, the order of the checks on a word that does not decode, and the two
ways a failing fetch ends. -/
theorem privilegeAndOpcodeChecks : Obligations.PrivilegeAndOpcodeChecks := by
  unfold Obligations.PrivilegeAndOpcodeChecks
  intro privileged groupOnly
  have hpriv : ∀ {i gd sw}, privileged i gd sw → IssuesPrivileged i gd sw := by
    rintro i gd sw (⟨f, rfl | rfl | rfl | rfl, rfl, rfl⟩ | ⟨f, rfl | rfl | rfl, rfl, rfl⟩ | ⟨f, rfl | rfl | rfl | rfl | rfl, rfl, rfl⟩ |
      ⟨f, rfl | rfl, rfl, rfl⟩ | ⟨f, rfl, rfl, rfl⟩ | ⟨f, rfl, rfl, rfl⟩ | ⟨f, rfl, rfl, rfl⟩ | ⟨f, rfl, rfl, rfl⟩ | ⟨f, rfl, rfl, rfl⟩) <;>
    exact ⟨_, fun _ => rfl⟩
  have hgroup : ∀ {i}, groupOnly i → ∀ s, IssuesForGroupsOnly i s := by
    rintro i (⟨f, rfl⟩ | ⟨f, rfl | rfl | rfl⟩ | ⟨f, rfl | rfl⟩ | ⟨f, rfl⟩ | ⟨f, rfl | rfl | rfl | rfl⟩ | ⟨f, rfl⟩ | ⟨f, rfl⟩ |
      ⟨f, rfl | rfl | rfl | rfl⟩ | ⟨f, rfl | rfl | rfl⟩ | ⟨f, rfl | rfl⟩ | ⟨f, rfl⟩) s <;>
    (unfold IssuesForGroupsOnly exec; exact ⟨_, _, _, _, _, _, rfl⟩)
  refine ⟨fun i gd sw s hi => ?_, fun i s c hc hm hi => ?_, fun s word _ => ?_, fun s code detail addr hcode h40 h36 => ?_⟩
  · obtain ⟨body, hx⟩ := hpriv hi
    rw [hx]
    exact ⟨fun gid pc g h => privIssue_group h i gd body, fun c hc hm hp => privIssue_unprivileged hc hm hp i sw gd body,
      fun c m hc hcore hm hp hw hk => privIssue_skips ⟨hc, hcore, hm, hw, hk⟩ hp sw body⟩
  · rcases hi with hi | ⟨w, x, he, hw⟩
    · exact (hgroup hi s).mast hc hm
    · exact (issuesAsLane_of_encode he hw s).mast hc hm
  · intro w reserved uniform op privOp groupOp
    have hx : exec (.illegalOpcode word) s = .next (s.undecoded w reserved) := rfl
    rw [hx]
    refine ⟨fun gid pc g h hu => congrArg Host.Outcome.next (undecoded_group h hu reserved),
      fun c hc hm => ⟨fun hi => ?_, fun hr hw hp => ?_, fun hr hu hg hp => ?_⟩⟩
    · exact congrArg Host.Outcome.next (undecoded_mast_illegal hc hm hi)
    · rw [hr]; exact congrArg Host.Outcome.next (undecoded_mast_privileged hc hm hw hp)
    · rw [hr]; exact congrArg Host.Outcome.next (undecoded_mast_reserved hc hm hu hg hp)
  · refine ⟨fun gid pc g hc hg hl hm => ?_, fun c hc hm => exec_fetchFault_mast hc hm hcode detail addr⟩
    rw [exec_fetchFault_group hc hg hl hm hcode]
    split
    · next hI => rw [fetchFail_helpers hg hI, State.updG_eq_setG _ hg]
    · next hI => rw [fetchFail_raises hI h40 h36]

end Sys2Proof.Machine
end

section
/-!
SUPPORT. The operand forms as fields of words, and with them the round trip between an instruction and its words (R41 to R59).
-/
namespace Sys2Proof

/-! ### Fields of a word -/

/-- Fields of a word, each with its highest bit, its lowest bit and its value, as `bitsAre` takes them. -/
abbrev Fields := List (Nat × Nat × Nat)

/-- The word that holds some fields and is 0 elsewhere. -/
def wordOf : Fields → Nat
  | [] => 0
  | c :: cs => c.2.2 * 2 ^ c.2.1 + wordOf cs

/-- A value fits its field. -/
def Fits (c : Nat × Nat × Nat) : Prop := c.2.2 < 2 ^ (c.1 + 1 - c.2.1)

/-- The same field as word w holds it. -/
def asIn (w : Nat) (c : Nat × Nat × Nat) : Nat × Nat × Nat := (c.1, c.2.1, fld w c.1 c.2.1 % 2 ^ (c.1 + 1 - c.2.1))

/-- Fields, highest first, that leave no bit of [n-1:0] out and take none twice. -/
def tiles : Nat → Fields → Bool
  | n, [] => n == 0
  | n, c :: cs => c.1 + 1 == n && decide (c.2.1 ≤ c.1) && tiles c.2.1 cs

/-- The same of fields in any order. -/
def covers (n : Nat) (cs : Fields) : Bool := tiles n (cs.insertionSort fun a b => b.2.1 ≤ a.2.1)

@[simp] theorem wordOf_nil : wordOf [] = 0 := by rw [wordOf]

@[simp] theorem wordOf_cons (c : Nat × Nat × Nat) (cs : Fields) : wordOf (c :: cs) = c.2.2 * 2 ^ c.2.1 + wordOf cs := by rw [wordOf]

theorem wordOf_append (cs ds : Fields) : wordOf (cs ++ ds) = wordOf cs + wordOf ds := by
  induction cs with
  | nil => simp
  | cons c cs ih => rw [List.cons_append, wordOf_cons, wordOf_cons, ih, Nat.add_assoc]

/-- The order of the fields does not matter. -/
theorem wordOf_perm {cs ds : Fields} (h : cs.Perm ds) : wordOf cs = wordOf ds := by
  induction h with
  | nil => rfl
  | cons c _ ih => rw [wordOf_cons, wordOf_cons, ih]
  | swap c d cs => simp only [wordOf_cons]; omega
  | trans _ _ ih ih' => exact ih.trans ih'

theorem bitsAre_perm {w : Nat} {cs ds : Fields} (h : cs.Perm ds) : bitsAre w cs = bitsAre w ds := h.all_eq

theorem bitsAre_append (w : Nat) (cs ds : Fields) : bitsAre w (cs ++ ds) = (bitsAre w cs && bitsAre w ds) := List.all_append

theorem bitsAre_eq_true {w : Nat} {cs : Fields} : bitsAre w cs = true ↔ ∀ c ∈ cs, fld w c.1 c.2.1 = c.2.2 := by
  simp [bitsAre]

theorem fld_lt (w hi lo : Nat) : fld w hi lo < 2 ^ (hi + 1 - lo) := Nat.mod_lt _ (Nat.two_pow_pos _)

theorem asIn_eq_self_iff {w : Nat} {c : Nat × Nat × Nat} : asIn w c = c ↔ fld w c.1 c.2.1 = c.2.2 := by
  rw [asIn, Nat.mod_eq_of_lt (fld_lt ..), Prod.ext_iff, Prod.ext_iff]
  simp

/-- Fields that word w holds are the word's own. -/
theorem map_asIn_of_bitsAre {w : Nat} {cs : Fields} (h : bitsAre w cs = true) : cs.map (asIn w) = cs :=
  List.map_congr_left (g := id) (fun c hc => asIn_eq_self_iff.mpr (bitsAre_eq_true.mp h c hc)) |>.trans (List.map_id _)

/-- A word holds its own fields. -/
theorem bitsAre_map_asIn (w : Nat) (cs : Fields) : bitsAre w (cs.map (asIn w)) = true := by
  simp [bitsAre, asIn, Nat.mod_eq_of_lt (fld_lt ..)]

/-- The low bits of a word are its field on top and the bits below. -/
theorem mod_two_pow_split (w : Nat) {hi lo : Nat} (h : lo ≤ hi) : w % 2 ^ (hi + 1) = fld w hi lo * 2 ^ lo + w % 2 ^ lo := by
  have : 2 ^ (hi + 1) = 2 ^ lo * 2 ^ (hi + 1 - lo) := by rw [← Nat.pow_add]; congr 1; omega
  rw [this, Nat.mod_mul, fld]; ring

/-- A word that holds fields which tile it is the word of these fields. -/
theorem wordOf_of_tiles {w n : Nat} {cs : Fields} (ht : tiles n cs = true) (h : bitsAre w cs = true) : wordOf cs = w % 2 ^ n := by
  induction cs generalizing n with
  | nil => obtain rfl : n = 0 := by simpa [tiles] using ht
           simp [Nat.mod_one]
  | cons c cs ih =>
    obtain ⟨hi, lo, v⟩ := c
    simp only [tiles, Bool.and_eq_true, beq_iff_eq, decide_eq_true_eq] at ht
    obtain ⟨⟨rfl, hle⟩, ht⟩ := ht
    obtain ⟨hv, hcs⟩ : fld w hi lo = v ∧ bitsAre w cs = true := by simpa [bitsAre] using h
    rw [mod_two_pow_split w hle, wordOf_cons, ih ht hcs, hv]

/-- The word of fields that tile it holds them. -/
theorem bitsAre_of_tiles {n : Nat} {cs : Fields} (ht : tiles n cs = true) (hf : ∀ c ∈ cs, Fits c) :
    wordOf cs < 2 ^ n ∧ ∀ w, w % 2 ^ n = wordOf cs → bitsAre w cs = true := by
  induction cs generalizing n with
  | nil => exact ⟨Nat.two_pow_pos n, fun _ _ => rfl⟩
  | cons c cs ih =>
    obtain ⟨hi, lo, v⟩ := c
    simp only [tiles, Bool.and_eq_true, beq_iff_eq, decide_eq_true_eq] at ht
    obtain ⟨⟨rfl, hle⟩, ht⟩ := ht
    obtain ⟨hlt, hold⟩ := ih ht fun c hc => hf c (List.mem_cons_of_mem _ hc)
    have hv : v < 2 ^ (hi + 1 - lo) := hf _ List.mem_cons_self
    have hp : 2 ^ (hi + 1) = 2 ^ lo * 2 ^ (hi + 1 - lo) := by rw [← Nat.pow_add]; congr 1; omega
    simp only [wordOf_cons]
    refine ⟨?_, fun w hw => ?_⟩
    · rw [hp]
      have := Nat.mul_le_mul_right (2 ^ lo) hv
      linarith [Nat.succ_mul v (2 ^ lo)]
    rw [mod_two_pow_split w hle] at hw
    have hr : w % 2 ^ lo < 2 ^ lo := Nat.mod_lt _ (Nat.two_pow_pos _)
    have hfld : fld w hi lo = v := by
      have := congrArg (· / 2 ^ lo) hw
      simpa [Nat.add_div_of_dvd_right, Nat.div_eq_of_lt, hr, hlt, Nat.mul_div_cancel] using this
    have : bitsAre w cs = true := hold w (by rw [hfld] at hw; simpa using hw)
    simpa [bitsAre, hfld] using this

/-- Whether fields cover a word is a matter of their places. -/
theorem tiles_map_asIn (w n : Nat) (cs : Fields) : tiles n (cs.map (asIn w)) = tiles n cs := by
  induction cs generalizing n with
  | nil => rfl
  | cons c cs ih => simp only [List.map_cons, tiles, asIn, ih]

theorem covers_map_asIn (w n : Nat) (cs : Fields) : covers n (cs.map (asIn w)) = covers n cs := by
  rw [covers, ← List.map_insertionSort (fun a b => b.2.1 ≤ a.2.1) (fun a b => b.2.1 ≤ a.2.1) (asIn w) cs fun _ _ _ _ => Iff.rfl,
    tiles_map_asIn, covers]

section
variable {n : Nat} {cs : Fields} (hc : covers n cs = true)
include hc

/-- A word that holds fields which cover it is the word of these fields. -/
theorem wordOf_of_covers {w : Nat} (hw : w < 2 ^ n) (h : bitsAre w cs = true) : wordOf cs = w := by
  have hp := cs.perm_insertionSort fun a b => b.2.1 ≤ a.2.1
  rw [← wordOf_perm hp, wordOf_of_tiles hc (by rwa [bitsAre_perm hp]), Nat.mod_eq_of_lt hw]

/-- The word of fields that cover it holds them. -/
theorem bitsAre_of_covers (hf : ∀ c ∈ cs, Fits c) : wordOf cs < 2 ^ n ∧ bitsAre (wordOf cs) cs = true := by
  have hp := cs.perm_insertionSort fun a b => b.2.1 ≤ a.2.1
  obtain ⟨hlt, hold⟩ := bitsAre_of_tiles hc fun c h => hf c (hp.mem_iff.mp h)
  rw [wordOf_perm hp] at hlt hold
  exact ⟨hlt, by simpa only [bitsAre_perm hp] using hold _ (Nat.mod_eq_of_lt hlt)⟩
end

/-! ### Operand forms -/

/-- An operand form of the model with the places of its fields in the two words: `read` takes its fields out of the words, `bits` and `ext`
put them in. A form without a second word has `ext` 0. -/
structure Layout (F : Type) where
  read : Nat → Nat → F
  bits : F → Nat
  ext : F → Nat := fun _ => 0
  word : F → Fields
  second : F → Fields := fun _ => []
  bits_eq : ∀ f, bits f = wordOf (word f)
  ext_eq : ∀ f, ext f = wordOf (second f) := by intro _; rw [wordOf]
  word_read : ∀ w x f, word (read w x) = (word f).map (asIn w) := by intro _ _ _; rfl
  second_read : ∀ w x f, second (read w x) = (second f).map (asIn x) := by intro _ _ _; rfl
  fits : ∀ f, ∀ c ∈ word f ++ second f, Fits c := by
    intro f
    simp only [List.cons_append, List.nil_append, List.forall_mem_cons, List.not_mem_nil, false_imp_iff, implies_true, and_true]
    and_intros <;> exact lt_of_lt_of_eq (Fin.isLt _) (by norm_num)
  inj : ∀ f g, word f = word g → second f = second g → f = g := by rintro ⟨⟩ ⟨⟩; simp +contextual [Fin.ext_iff]

/-- The places of RForm's fields. -/
def RForm.layout : Layout RForm where
  read w _ := RForm.read w
  bits := RForm.bits
  word f := [(30, 30, f.sw), (22, 20, f.g), (19, 19, f.e), (18, 18, f.t), (17, 12, f.d), (11, 6, f.a), (5, 0, f.b)]
  bits_eq f := by simp only [wordOf_cons, wordOf_nil, RForm.bits]; omega

/-- The places of R1Form's fields. -/
def R1Form.layout : Layout R1Form where
  read w _ := R1Form.read w
  bits := R1Form.bits
  word f := [(30, 30, f.sw), (22, 20, f.g), (18, 18, f.t), (17, 12, f.d), (11, 6, f.a)]
  bits_eq f := by simp only [wordOf_cons, wordOf_nil, R1Form.bits]; omega

/-- The places of GwForm's fields. -/
def GwForm.layout : Layout GwForm where
  read w _ := GwForm.read w
  bits := GwForm.bits
  word f := [(30, 30, f.sw), (22, 20, f.g), (19, 19, f.e), (17, 12, f.d), (11, 6, f.a), (5, 0, f.b)]
  bits_eq f := by simp only [wordOf_cons, wordOf_nil, GwForm.bits]; omega

/-- The places of I6Form's fields. -/
def I6Form.layout : Layout I6Form where
  read w _ := I6Form.read w
  bits := I6Form.bits
  word f := [(30, 30, f.sw), (22, 20, f.g), (18, 18, f.t), (17, 12, f.d), (11, 6, f.a), (5, 0, f.i)]
  bits_eq f := by simp only [wordOf_cons, wordOf_nil, I6Form.bits]; omega

/-- The places of PForm's fields. -/
def PForm.layout : Layout PForm where
  read w _ := PForm.read w
  bits := PForm.bits
  word f := [(30, 30, f.sw), (22, 20, f.g), (19, 19, f.e), (17, 15, f.c), (14, 12, f.p), (11, 6, f.a), (5, 0, f.b)]
  bits_eq f := by simp only [wordOf_cons, wordOf_nil, PForm.bits]; omega

/-- The places of LForm's fields. -/
def LForm.layout : Layout LForm where
  read := LForm.read
  bits := LForm.bits
  ext := LForm.ext
  word f := [(30, 30, f.sw), (22, 20, f.g), (18, 18, f.t), (17, 12, f.d)]
  second f := [(31, 0, f.lit)]
  bits_eq f := by simp only [wordOf_cons, wordOf_nil, LForm.bits]; omega
  ext_eq f := by simp only [wordOf_cons, wordOf_nil, LForm.ext]; omega

/-- The places of CvForm's fields. -/
def CvForm.layout : Layout CvForm where
  read w _ := CvForm.read w
  bits := CvForm.bits
  word f := [(30, 30, f.sw), (22, 20, f.g), (18, 18, f.t), (17, 12, f.d), (11, 6, f.a), (5, 3, f.f), (2, 0, f.r)]
  bits_eq f := by simp only [wordOf_cons, wordOf_nil, CvForm.bits]; omega

/-- The places of Cv0Form's fields. -/
def Cv0Form.layout : Layout Cv0Form where
  read w _ := Cv0Form.read w
  bits := Cv0Form.bits
  word f := [(30, 30, f.sw), (22, 20, f.g), (18, 18, f.t), (17, 12, f.d), (11, 6, f.a), (5, 3, f.f)]
  bits_eq f := by simp only [wordOf_cons, wordOf_nil, Cv0Form.bits]; omega

/-- The places of BForm's fields. -/
def BForm.layout : Layout BForm where
  read w _ := BForm.read w
  bits := BForm.bits
  word f := [(30, 30, f.sw), (22, 20, f.g), (19, 0, f.o)]
  bits_eq f := by simp only [wordOf_cons, wordOf_nil, BForm.bits]; omega

/-- The places of NForm's fields. -/
def NForm.layout : Layout NForm where
  read w _ := NForm.read w
  bits := NForm.bits
  word f := [(30, 30, f.sw), (22, 20, f.g)]
  bits_eq f := by simp only [wordOf_cons, wordOf_nil, NForm.bits]; omega

/-- The places of AForm's fields. -/
def AForm.layout : Layout AForm where
  read w _ := AForm.read w
  bits := AForm.bits
  word f := [(30, 30, f.sw), (22, 20, f.g), (11, 6, f.a)]
  bits_eq f := by simp only [wordOf_cons, wordOf_nil, AForm.bits]; omega

/-- The places of OpBForm's fields. -/
def OpBForm.layout : Layout OpBForm where
  read w _ := OpBForm.read w
  bits := OpBForm.bits
  word f := [(30, 30, f.sw), (22, 20, f.g), (5, 0, f.b)]
  bits_eq f := by simp only [wordOf_cons, wordOf_nil, OpBForm.bits]; omega

/-- The places of JForm's fields. -/
def JForm.layout : Layout JForm where
  read w _ := JForm.read w
  bits := JForm.bits
  word f := [(30, 30, f.sw), (22, 20, f.g), (19, 16, f.j), (15, 0, f.o)]
  bits_eq f := by simp only [wordOf_cons, wordOf_nil, JForm.bits]; omega

/-- The places of WForm's fields. -/
def WForm.layout : Layout WForm where
  read w _ := WForm.read w
  bits := WForm.bits
  word f := [(30, 30, f.sw), (22, 20, f.g), (19, 16, f.j)]
  bits_eq f := by simp only [wordOf_cons, wordOf_nil, WForm.bits]; omega

/-- The places of PlogForm's fields. -/
def PlogForm.layout : Layout PlogForm where
  read w _ := PlogForm.read w
  bits := PlogForm.bits
  word f := [(30, 30, f.sw), (22, 20, f.g), (17, 15, f.c), (14, 12, f.p), (9, 9, f.nx), (8, 6, f.x), (3, 3, f.ny), (2, 0, f.y)]
  bits_eq f := by simp only [wordOf_cons, wordOf_nil, PlogForm.bits]; omega

/-- The places of DForm's fields. -/
def DForm.layout : Layout DForm where
  read w _ := DForm.read w
  bits := DForm.bits
  word f := [(30, 30, f.sw), (22, 20, f.g), (17, 12, f.d)]
  bits_eq f := by simp only [wordOf_cons, wordOf_nil, DForm.bits]; omega

/-- The places of SrdForm's fields. -/
def SrdForm.layout : Layout SrdForm where
  read w _ := SrdForm.read w
  bits := SrdForm.bits
  word f := [(30, 30, f.sw), (22, 20, f.g), (17, 12, f.d), (4, 4, f.rc), (3, 0, f.sel)]
  bits_eq f := by simp only [wordOf_cons, wordOf_nil, SrdForm.bits]; omega

/-- The places of QswpForm's fields. -/
def QswpForm.layout : Layout QswpForm where
  read w _ := QswpForm.read w
  bits := QswpForm.bits
  word f := [(30, 30, f.sw), (22, 20, f.g), (17, 12, f.d), (11, 6, f.a), (5, 0, f.k)]
  bits_eq f := by simp only [wordOf_cons, wordOf_nil, QswpForm.bits]; omega

/-- The places of QbcForm's fields. -/
def QbcForm.layout : Layout QbcForm where
  read w _ := QbcForm.read w
  bits := QbcForm.bits
  word f := [(30, 30, f.sw), (22, 20, f.g), (17, 12, f.d), (11, 6, f.a), (1, 0, f.n)]
  bits_eq f := by simp only [wordOf_cons, wordOf_nil, QbcForm.bits]; omega

/-- The places of DaForm's fields. -/
def DaForm.layout : Layout DaForm where
  read w _ := DaForm.read w
  bits := DaForm.bits
  word f := [(30, 30, f.sw), (22, 20, f.g), (17, 12, f.d), (11, 6, f.a)]
  bits_eq f := by simp only [wordOf_cons, wordOf_nil, DaForm.bits]; omega

/-- The places of ShflForm's fields. -/
def ShflForm.layout : Layout ShflForm where
  read := ShflForm.read
  bits := ShflForm.bits
  ext := ShflForm.ext
  word f := [(30, 30, f.sw), (22, 20, f.g), (19, 19, f.e), (17, 12, f.d), (11, 6, f.a), (5, 0, f.b)]
  second f := [(31, 26, f.mreg), (25, 25, f.mall), (24, 20, f.op)]
  bits_eq f := by simp only [wordOf_cons, wordOf_nil, ShflForm.bits]; omega
  ext_eq f := by simp only [wordOf_cons, wordOf_nil, ShflForm.ext]; omega

/-- The places of GForm's fields. -/
def GForm.layout : Layout GForm where
  read := GForm.read
  bits := GForm.bits
  ext := GForm.ext
  word f := [(30, 30, f.sw), (22, 20, f.g), (17, 12, f.d), (11, 6, f.a)]
  second f := [(31, 26, f.mreg), (25, 25, f.mall), (24, 20, f.op)]
  bits_eq f := by simp only [wordOf_cons, wordOf_nil, GForm.bits]; omega
  ext_eq f := by simp only [wordOf_cons, wordOf_nil, GForm.ext]; omega

/-- The places of MForm's fields. -/
def MForm.layout : Layout MForm where
  read := MForm.read
  bits := MForm.bits
  ext := MForm.ext
  word f := [(30, 30, f.sw), (22, 20, f.g), (19, 19, f.bc), (17, 12, f.d), (11, 6, f.base)]
  second f := [(31, 16, f.off), (15, 13, f.size), (12, 12, f.cls), (11, 9, f.scope), (8, 5, f.rc), (4, 2, f.grain), (1, 0, f.pol)]
  bits_eq f := by simp only [wordOf_cons, wordOf_nil, MForm.bits]; omega
  ext_eq f := by simp only [wordOf_cons, wordOf_nil, MForm.ext]; omega

/-- The places of MaForm's fields. -/
def MaForm.layout : Layout MaForm where
  read := MaForm.read
  bits := MaForm.bits
  ext := MaForm.ext
  word f := [(30, 30, f.sw), (22, 20, f.g), (19, 19, f.bc), (17, 12, f.d), (11, 6, f.base)]
  second f := [(31, 16, f.off), (15, 13, f.size), (11, 9, f.scope), (8, 4, f.atop), (1, 0, f.pol)]
  bits_eq f := by simp only [wordOf_cons, wordOf_nil, MaForm.bits]; omega
  ext_eq f := by simp only [wordOf_cons, wordOf_nil, MaForm.ext]; omega

/-- The places of UmForm's fields. -/
def UmForm.layout : Layout UmForm where
  read := UmForm.read
  bits := UmForm.bits
  ext := UmForm.ext
  word f := [(30, 30, f.sw), (22, 20, f.g), (17, 12, f.d), (11, 6, f.base)]
  second f := [(31, 16, f.off), (15, 13, f.size), (12, 12, f.cls), (11, 9, f.scope), (8, 5, f.rc), (4, 2, f.grain), (1, 0, f.pol)]
  bits_eq f := by simp only [wordOf_cons, wordOf_nil, UmForm.bits]; omega
  ext_eq f := by simp only [wordOf_cons, wordOf_nil, UmForm.ext]; omega

/-- The places of UmaForm's fields. -/
def UmaForm.layout : Layout UmaForm where
  read := UmaForm.read
  bits := UmaForm.bits
  ext := UmaForm.ext
  word f := [(30, 30, f.sw), (22, 20, f.g), (17, 12, f.d), (11, 6, f.base)]
  second f := [(31, 16, f.off), (15, 13, f.size), (11, 9, f.scope), (8, 4, f.atop), (1, 0, f.pol)]
  bits_eq f := by simp only [wordOf_cons, wordOf_nil, UmaForm.bits]; omega
  ext_eq f := by simp only [wordOf_cons, wordOf_nil, UmaForm.ext]; omega

/-- The places of MldwTForm's fields. -/
def MldwTForm.layout : Layout MldwTForm where
  read := MldwTForm.read
  bits := MldwTForm.bits
  ext := MldwTForm.ext
  word f := [(30, 30, f.sw), (22, 20, f.g)]
  second f := [(31, 29, f.fmt), (28, 27, f.spar), (21, 19, f.ta), (12, 12, f.kind)]
  bits_eq f := by simp only [wordOf_cons, wordOf_nil, MldwTForm.bits]; omega
  ext_eq f := by simp only [wordOf_cons, wordOf_nil, MldwTForm.ext]; omega

/-- The places of MldwMForm's fields. -/
def MldwMForm.layout : Layout MldwMForm where
  read := MldwMForm.read
  bits := MldwMForm.bits
  ext := MldwMForm.ext
  word f := [(30, 30, f.sw), (22, 20, f.g), (11, 6, f.a), (5, 0, f.b)]
  second f := [(31, 29, f.fmt), (28, 27, f.spar), (12, 12, f.kind)]
  bits_eq f := by simp only [wordOf_cons, wordOf_nil, MldwMForm.bits]; omega
  ext_eq f := by simp only [wordOf_cons, wordOf_nil, MldwMForm.ext]; omega

/-- The places of MmaForm's fields. -/
def MmaForm.layout : Layout MmaForm where
  read := MmaForm.read
  bits := MmaForm.bits
  ext := MmaForm.ext
  word f := [(30, 30, f.sw), (22, 20, f.g)]
  second f := [(31, 29, f.fmt), (25, 25, f.flip), (24, 24, f.zc), (23, 22, f.acc), (21, 19, f.ta)]
  bits_eq f := by simp only [wordOf_cons, wordOf_nil, MmaForm.bits]; omega
  ext_eq f := by simp only [wordOf_cons, wordOf_nil, MmaForm.ext]; omega

/-- The places of AcpyRForm's fields. -/
def AcpyRForm.layout : Layout AcpyRForm where
  read := AcpyRForm.read
  bits := AcpyRForm.bits
  ext := AcpyRForm.ext
  word f := [(30, 30, f.sw), (22, 20, f.g), (17, 12, f.c)]
  second f := [(31, 29, f.fmt), (26, 26, f.ckd), (24, 24, f.zc), (23, 22, f.acc), (11, 6, f.n1), (5, 0, f.j0)]
  bits_eq f := by simp only [wordOf_cons, wordOf_nil, AcpyRForm.bits]; omega
  ext_eq f := by simp only [wordOf_cons, wordOf_nil, AcpyRForm.ext]; omega

/-- The places of AcpyTForm's fields. -/
def AcpyTForm.layout : Layout AcpyTForm where
  read := AcpyTForm.read
  bits := AcpyTForm.bits
  ext := AcpyTForm.ext
  word f := [(30, 30, f.sw), (22, 20, f.g)]
  second f := [(31, 29, f.fmt), (26, 26, f.ckd), (24, 24, f.zc), (23, 22, f.acc), (21, 19, f.ta), (0, 0, f.h)]
  bits_eq f := by simp only [wordOf_cons, wordOf_nil, AcpyTForm.bits]; omega
  ext_eq f := by simp only [wordOf_cons, wordOf_nil, AcpyTForm.ext]; omega

/-- The places of AcpyMForm's fields. -/
def AcpyMForm.layout : Layout AcpyMForm where
  read := AcpyMForm.read
  bits := AcpyMForm.bits
  ext := AcpyMForm.ext
  word f := [(30, 30, f.sw), (22, 20, f.g), (11, 6, f.a), (5, 0, f.b)]
  second f := [(31, 29, f.fmt), (26, 26, f.ckd), (24, 24, f.zc), (23, 22, f.acc)]
  bits_eq f := by simp only [wordOf_cons, wordOf_nil, AcpyMForm.bits]; omega
  ext_eq f := by simp only [wordOf_cons, wordOf_nil, AcpyMForm.ext]; omega

/-- The places of AcpySForm's fields. -/
def AcpySForm.layout : Layout AcpySForm where
  read := AcpySForm.read
  bits := AcpySForm.bits
  ext := AcpySForm.ext
  word f := [(30, 30, f.sw), (22, 20, f.g), (17, 12, f.c)]
  second f := [(23, 22, f.acc), (0, 0, f.clr)]
  bits_eq f := by simp only [wordOf_cons, wordOf_nil, AcpySForm.bits]; omega
  ext_eq f := by simp only [wordOf_cons, wordOf_nil, AcpySForm.ext]; omega

/-- The places of AckdForm's fields. -/
def AckdForm.layout : Layout AckdForm where
  read := AckdForm.read
  bits := AckdForm.bits
  ext := AckdForm.ext
  word f := [(30, 30, f.sw), (22, 20, f.g)]
  second f := [(31, 29, f.fmt), (23, 22, f.acc)]
  bits_eq f := by simp only [wordOf_cons, wordOf_nil, AckdForm.bits]; omega
  ext_eq f := by simp only [wordOf_cons, wordOf_nil, AckdForm.ext]; omega

/-- The places of AzeroForm's fields. -/
def AzeroForm.layout : Layout AzeroForm where
  read := AzeroForm.read
  bits := AzeroForm.bits
  ext := AzeroForm.ext
  word f := [(30, 30, f.sw), (22, 20, f.g)]
  second f := [(23, 22, f.acc)]
  bits_eq f := by simp only [wordOf_cons, wordOf_nil, AzeroForm.bits]; omega
  ext_eq f := by simp only [wordOf_cons, wordOf_nil, AzeroForm.ext]; omega

/-- The places of TldForm's fields. -/
def TldForm.layout : Layout TldForm where
  read := TldForm.read
  bits := TldForm.bits
  ext := TldForm.ext
  word f := [(30, 30, f.sw), (22, 20, f.g), (19, 19, f.bc), (11, 6, f.a), (5, 0, f.b)]
  second f := [(21, 19, f.ta)]
  bits_eq f := by simp only [wordOf_cons, wordOf_nil, TldForm.bits]; omega
  ext_eq f := by simp only [wordOf_cons, wordOf_nil, TldForm.ext]; omega

/-- The places of TmovForm's fields. -/
def TmovForm.layout : Layout TmovForm where
  read := TmovForm.read
  bits := TmovForm.bits
  ext := TmovForm.ext
  word f := [(30, 30, f.sw), (22, 20, f.g), (17, 12, f.c)]
  second f := [(21, 19, f.ta), (10, 5, f.n1), (4, 0, f.j0)]
  bits_eq f := by simp only [wordOf_cons, wordOf_nil, TmovForm.bits]; omega
  ext_eq f := by simp only [wordOf_cons, wordOf_nil, TmovForm.ext]; omega

/-- The places of MbmapForm's fields. -/
def MbmapForm.layout : Layout MbmapForm where
  read := MbmapForm.read
  bits := MbmapForm.bits
  ext := MbmapForm.ext
  word f := [(30, 30, f.sw), (22, 20, f.g), (11, 6, f.a), (5, 0, f.b)]
  second f := [(0, 0, f.high)]
  bits_eq f := by simp only [wordOf_cons, wordOf_nil, MbmapForm.bits]; omega
  ext_eq f := by simp only [wordOf_cons, wordOf_nil, MbmapForm.ext]; omega

/-- The places of AsetForm's fields. -/
def AsetForm.layout : Layout AsetForm where
  read := AsetForm.read
  bits := AsetForm.bits
  ext := AsetForm.ext
  word f := [(30, 30, f.sw), (22, 20, f.g), (17, 12, f.c)]
  second f := [(23, 22, f.acc), (12, 12, f.int), (11, 6, f.n1), (5, 0, f.j0)]
  bits_eq f := by simp only [wordOf_cons, wordOf_nil, AsetForm.bits]; omega
  ext_eq f := by simp only [wordOf_cons, wordOf_nil, AsetForm.ext]; omega

/-- The places of QbindForm's fields. -/
def QbindForm.layout : Layout QbindForm where
  read w _ := QbindForm.read w
  bits := QbindForm.bits
  word f := [(30, 30, f.sw), (22, 20, f.g), (12, 12, f.pop), (9, 6, f.q), (5, 0, f.b)]
  bits_eq f := by simp only [wordOf_cons, wordOf_nil, QbindForm.bits]; omega

/-- The places of QForm's fields. -/
def QForm.layout : Layout QForm where
  read w _ := QForm.read w
  bits := QForm.bits
  word f := [(30, 30, f.sw), (22, 20, f.g), (17, 12, f.v), (9, 6, f.q)]
  bits_eq f := by simp only [wordOf_cons, wordOf_nil, QForm.bits]; omega

/-- The places of UrForm's fields. -/
def UrForm.layout : Layout UrForm where
  read w _ := UrForm.read w
  bits := UrForm.bits
  word f := [(30, 30, f.sw), (22, 20, f.g), (19, 19, f.i), (18, 18, f.w), (17, 12, f.d), (11, 6, f.a), (5, 0, f.b)]
  bits_eq f := by simp only [wordOf_cons, wordOf_nil, UrForm.bits]; omega

/-- The places of UpForm's fields. -/
def UpForm.layout : Layout UpForm where
  read w _ := UpForm.read w
  bits := UpForm.bits
  word f := [(30, 30, f.sw), (22, 20, f.g), (19, 19, f.i), (18, 18, f.w), (17, 15, f.c), (14, 12, f.p), (11, 6, f.a), (5, 0, f.b)]
  bits_eq f := by simp only [wordOf_cons, wordOf_nil, UpForm.bits]; omega

/-- The places of UlForm's fields. -/
def UlForm.layout : Layout UlForm where
  read := UlForm.read
  bits := UlForm.bits
  ext := UlForm.ext
  word f := [(30, 30, f.sw), (22, 20, f.g), (18, 18, f.w), (17, 12, f.d)]
  second f := [(31, 0, f.lit)]
  bits_eq f := by simp only [wordOf_cons, wordOf_nil, UlForm.bits]; omega
  ext_eq f := by simp only [wordOf_cons, wordOf_nil, UlForm.ext]; omega

/-- The places of SsrForm's fields. -/
def SsrForm.layout : Layout SsrForm where
  read w _ := SsrForm.read w
  bits := SsrForm.bits
  word f := [(30, 30, f.sw), (22, 20, f.g), (18, 18, f.w), (17, 12, f.d), (4, 4, f.rc), (3, 0, f.sel)]
  bits_eq f := by simp only [wordOf_cons, wordOf_nil, SsrForm.bits]; omega

/-- The places of SgetForm's fields. -/
def SgetForm.layout : Layout SgetForm where
  read w _ := SgetForm.read w
  bits := SgetForm.bits
  word f := [(30, 30, f.sw), (22, 20, f.g), (17, 12, f.d), (5, 0, f.i)]
  bits_eq f := by simp only [wordOf_cons, wordOf_nil, SgetForm.bits]; omega

/-- The places of FenceForm's fields. -/
def FenceForm.layout : Layout FenceForm where
  read w _ := FenceForm.read w
  bits := FenceForm.bits
  word f := [(30, 30, f.sw), (22, 20, f.g), (17, 15, f.scope)]
  bits_eq f := by simp only [wordOf_cons, wordOf_nil, FenceForm.bits]; omega

/-- The places of BarForm's fields. -/
def BarForm.layout : Layout BarForm where
  read w _ := BarForm.read w
  bits := BarForm.bits
  word f := [(30, 30, f.sw), (22, 20, f.g), (3, 0, f.n)]
  bits_eq f := by simp only [wordOf_cons, wordOf_nil, BarForm.bits]; omega

/-- The places of BarxForm's fields. -/
def BarxForm.layout : Layout BarxForm where
  read w _ := BarxForm.read w
  bits := BarxForm.bits
  word f := [(30, 30, f.sw), (22, 20, f.g), (19, 19, f.i), (11, 6, f.a), (5, 0, f.b)]
  bits_eq f := by simp only [wordOf_cons, wordOf_nil, BarxForm.bits]; omega

/-- The places of AbForm's fields. -/
def AbForm.layout : Layout AbForm where
  read w _ := AbForm.read w
  bits := AbForm.bits
  word f := [(30, 30, f.sw), (22, 20, f.g), (11, 6, f.a), (5, 0, f.b)]
  bits_eq f := by simp only [wordOf_cons, wordOf_nil, AbForm.bits]; omega

/-- The places of TlwForm's fields. -/
def TlwForm.layout : Layout TlwForm where
  read w _ := TlwForm.read w
  bits := TlwForm.bits
  word f := [(30, 30, f.sw), (22, 20, f.g), (19, 19, f.i), (18, 18, f.w), (11, 6, f.a), (5, 0, f.b)]
  bits_eq f := by simp only [wordOf_cons, wordOf_nil, TlwForm.bits]; omega

/-- The places of GsetForm's fields. -/
def GsetForm.layout : Layout GsetForm where
  read w _ := GsetForm.read w
  bits := GsetForm.bits
  word f := [(30, 30, f.sw), (22, 20, f.g), (19, 19, f.i), (9, 6, f.n), (5, 0, f.b)]
  bits_eq f := by simp only [wordOf_cons, wordOf_nil, GsetForm.bits]; omega

/-- The places of GclrForm's fields. -/
def GclrForm.layout : Layout GclrForm where
  read w _ := GclrForm.read w
  bits := GclrForm.bits
  word f := [(30, 30, f.sw), (22, 20, f.g), (9, 6, f.n)]
  bits_eq f := by simp only [wordOf_cons, wordOf_nil, GclrForm.bits]; omega

/-- The places of TlrForm's fields. -/
def TlrForm.layout : Layout TlrForm where
  read w _ := TlrForm.read w
  bits := TlrForm.bits
  word f := [(30, 30, f.sw), (22, 20, f.g), (18, 18, f.w), (17, 12, f.d), (11, 6, f.a)]
  bits_eq f := by simp only [wordOf_cons, wordOf_nil, TlrForm.bits]; omega

/-- The places of UeForm's fields. -/
def UeForm.layout : Layout UeForm where
  read := UeForm.read
  bits := UeForm.bits
  ext := UeForm.ext
  word f := [(30, 30, f.sw), (22, 20, f.g), (19, 19, f.i), (18, 18, f.w), (17, 12, f.d), (11, 6, f.a), (5, 0, f.b)]
  second f := [(31, 31, f.gv), (30, 27, f.gslot), (26, 26, f.ntf), (25, 16, f.opts), (15, 0, f.imm)]
  bits_eq f := by simp only [wordOf_cons, wordOf_nil, UeForm.bits]; omega
  ext_eq f := by simp only [wordOf_cons, wordOf_nil, UeForm.ext]; omega

/-- The places of TrapForm's fields. -/
def TrapForm.layout : Layout TrapForm where
  read w _ := TrapForm.read w
  bits := TrapForm.bits
  word f := [(30, 30, f.sw), (22, 20, f.g), (5, 0, f.n)]
  bits_eq f := by simp only [wordOf_cons, wordOf_nil, TrapForm.bits]; omega

/-- The places of SwptForm's fields. -/
def SwptForm.layout : Layout SwptForm where
  read w _ := SwptForm.read w
  bits := SwptForm.bits
  word f := [(22, 20, f.g), (5, 0, f.n)]
  bits_eq f := by simp only [wordOf_cons, wordOf_nil, SwptForm.bits]; omega

/-- The places of SleepForm's fields. -/
def SleepForm.layout : Layout SleepForm where
  read w _ := SleepForm.read w
  bits := SleepForm.bits
  word f := [(30, 30, f.sw), (22, 20, f.g), (19, 19, f.i), (5, 0, f.b)]
  bits_eq f := by simp only [wordOf_cons, wordOf_nil, SleepForm.bits]; omega

/-- The places of MsendForm's fields. -/
def MsendForm.layout : Layout MsendForm where
  read w _ := MsendForm.read w
  bits := MsendForm.bits
  word f := [(30, 30, f.sw), (22, 20, f.g), (14, 12, f.p), (11, 6, f.a), (5, 0, f.b)]
  bits_eq f := by simp only [wordOf_cons, wordOf_nil, MsendForm.bits]; omega

/-- The places of DnForm's fields. -/
def DnForm.layout : Layout DnForm where
  read w _ := DnForm.read w
  bits := DnForm.bits
  word f := [(30, 30, f.sw), (22, 20, f.g), (17, 12, f.d), (5, 0, f.n)]
  bits_eq f := by simp only [wordOf_cons, wordOf_nil, DnForm.bits]; omega

/-- The places of AnForm's fields. -/
def AnForm.layout : Layout AnForm where
  read w _ := AnForm.read w
  bits := AnForm.bits
  word f := [(30, 30, f.sw), (22, 20, f.g), (11, 6, f.a), (5, 0, f.n)]
  bits_eq f := by simp only [wordOf_cons, wordOf_nil, AnForm.bits]; omega

/-! ### Rows of the opcode maps -/

/-- The fields that say which opcode word n has: its set and its number (R41, R42). -/
def opcodeOf (n : Nat) : Fields := [(31, 31, fld n 31 31), (29, 23, fld n 29 23)]

/-- The opcode maps at the opcode of word n. -/
def parseAs (n w x : Nat) : Except DecodeError Instr :=
  bif fld n 31 31 == 0 then parseLane (fld n 29 23) w x else parseUniform (fld n 29 23) w x

/-- Word w has the opcode of word n. -/
def SameOpcode (n w : Nat) : Prop := fld w 31 31 = fld n 31 31 ∧ fld w 29 23 = fld n 29 23

theorem bitsAre_opcodeOf {n w : Nat} : bitsAre w (opcodeOf n) = true ↔ SameOpcode n w := by
  simp [bitsAre, opcodeOf, SameOpcode]

theorem SameOpcode.isTwoWord {n w : Nat} (h : SameOpcode n w) : isTwoWord w = isTwoWord n := by
  unfold Sys2Proof.isTwoWord; rw [h.1, h.2]

theorem SameOpcode.parse {n w : Nat} (h : SameOpcode n w) (x : Nat) : parseAs w w x = parseAs n w x := by
  unfold parseAs; rw [h.1, h.2]

/-- A word pair decodes to what the opcode maps give where no reserved use shows (R59). -/
theorem decodeWords_eq_ok {w x : Nat} {i : Instr} : decodeWords w x = .ok i ↔ parseAs w w x = .ok i ∧ i.wf = true := by
  have hset : (if fld w 31 31 == 0 then parseLane (fld w 29 23) w x else parseUniform (fld w 29 23) w x) = parseAs w w x :=
    (Bool.cond_eq_ite ..).symm
  rw [decodeWords, hset]
  cases parseAs w w x with
  | error e => simp
  | ok j => by_cases hj : j.wf <;> simp [hj] <;> grind

/-- Field d takes in field c and says another thing of its bits. -/
def opposes (d c : Nat × Nat × Nat) : Bool :=
  decide (d.2.1 ≤ c.2.1) && decide (c.2.1 ≤ c.1) && decide (c.1 ≤ d.1) && fld d.2.2 (c.1 - d.2.1) (c.2.1 - d.2.1) != c.2.2

/-- Some of the fields cs and some of the fields ds say different things of the same bits. -/
def conflict (cs ds : Fields) : Bool := cs.any fun c => ds.any fun d => opposes c d || opposes d c

/-- A field within a field of a word. -/
theorem fld_fld (w : Nat) {hi lo hi' lo' : Nat} (hl : lo ≤ lo') (hm : lo' ≤ hi') (hh : hi' ≤ hi) :
    fld (fld w hi lo) (hi' - lo) (lo' - lo) = fld w hi' lo' := by
  have hpow : hi + 1 - lo = lo' - lo + (hi + 1 - lo') := by omega
  have hwidth : hi' - lo + 1 - (lo' - lo) = hi' + 1 - lo' := by omega
  rw [fld, fld, fld, hpow, Nat.pow_add, Nat.mod_mul_right_div_self, Nat.div_div_eq_div_mul, ← Nat.pow_add, Nat.add_sub_cancel' hl,
    hwidth, Nat.mod_mod_of_dvd _ (Nat.pow_dvd_pow 2 (by omega))]

theorem not_holds_of_opposes {w : Nat} {d c : Nat × Nat × Nat} (h : opposes d c = true) (hd : fld w d.1 d.2.1 = d.2.2) :
    fld w c.1 c.2.1 ≠ c.2.2 := by
  simp only [opposes, Bool.and_eq_true, decide_eq_true_eq, bne_iff_ne] at h
  obtain ⟨⟨⟨hl, hm⟩, hh⟩, hne⟩ := h
  rwa [← hd, fld_fld w hl hm hh] at hne

theorem not_bitsAre_of_conflict {w : Nat} {cs ds : Fields} (h : conflict cs ds = true) (hd : bitsAre w ds = true) :
    bitsAre w cs = false := by
  simp only [conflict, List.any_eq_true, Bool.or_eq_true] at h
  obtain ⟨c, hc, d, hd', h⟩ := h
  refine Bool.eq_false_iff.mpr fun hcs => ?_
  have hc := bitsAre_eq_true.mp hcs c hc
  have hd := bitsAre_eq_true.mp hd d hd'
  rcases h with h | h
  · exact not_holds_of_opposes h hc hd
  · exact not_holds_of_opposes h hd hc

/-- Of the words with the fixed bits wc and xc, an opcode's alternatives r make the instruction i. -/
def Takes (r : Nat → Nat → Except DecodeError Instr) (wc xc : Fields) (i : Nat → Nat → Instr) : Prop :=
  ∀ w x, bitsAre w wc = true → bitsAre x xc = true → r w x = .ok (i w x)

section
variable {r o : Nat → Nat → Except DecodeError Instr} {wc xc wc' xc' : Fields} {i j : Nat → Nat → Instr}

/-- The only alternative of an opcode that fixes no further bit. -/
theorem Takes.all (h : r = fun w x => .ok (i w x)) : Takes r [] [] i := fun w x _ _ => congrFun (congrFun h w) x

/-- The first alternative is taken where its fixed bits are there. -/
theorem Takes.first (h : r = fun w x => alt w x wc xc (i w x) (o w x)) : Takes r wc xc i := fun w x hw hx => by
  simp [h, alt, hw, hx]

/-- An alternative whose fixed bits contradict wc or xc leaves the words to those after it. -/
theorem Takes.later (h : r = fun w x => alt w x wc' xc' (j w x) (o w x)) (ho : Takes o wc xc i)
    (hc : (conflict wc' wc || conflict xc' xc) = true := by rfl) : Takes r wc xc i := fun w x hw hx => by
  simp only [h]
  rw [← ho w x hw hx, alt, if_neg]
  rcases Bool.or_eq_true_iff.mp hc with hc | hc
  · simp [not_bitsAre_of_conflict hc hw]
  · simp [not_bitsAre_of_conflict hc hx]
end

/-- The two ways an alternative answers an instruction. -/
theorem of_alt_eq_ok {w x : Nat} {wc xc : Fields} {i j : Instr} {r other : Except DecodeError Instr} (he : r = alt w x wc xc j other)
    (h : r = .ok i) : (bitsAre w wc = true ∧ bitsAre x xc = true ∧ j = i) ∨ other = .ok i := by
  rw [he, alt] at h
  split at h
  · next hb => exact .inl ⟨(Bool.and_eq_true_iff.mp hb).1, (Bool.and_eq_true_iff.mp hb).2, Except.ok.inj h⟩
  · exact .inr h

/-- The constant n of a first word: the bits that its row of the opcode table fixes. With its form's fields they take in each bit of the
word, and none twice. -/
structure FirstWord {F : Type} (L : Layout F) (n : Nat) (wc : Fields) : Prop where
  fixed : wordOf (opcodeOf n ++ wc) = n := by decide +kernel
  holds : bitsAre n wc = true := by decide +kernel
  cover : covers 32 (opcodeOf n ++ wc ++ L.word (L.read 0 0)) = true := by decide +kernel

/-- The same of a second word m. -/
structure SecondWord {F : Type} (L : Layout F) (m : Nat) (xc : Fields) : Prop where
  fixed : wordOf xc = m := by decide +kernel
  holds : bitsAre m xc = true := by decide +kernel
  cover : covers 32 (xc ++ L.second (L.read 0 0)) = true := by decide +kernel

theorem fits_of_bitsAre {w : Nat} {cs : Fields} (h : bitsAre w cs = true) : ∀ c ∈ cs, Fits c := fun c hc =>
  (fld_lt w c.1 c.2.1).trans_eq' (bitsAre_eq_true.mp h c hc)

section
variable {F : Type} {L : Layout F} {n m : Nat} {wc xc : Fields}

/-- Where the words hold a form's fields, reading them gives the form. -/
theorem Layout.read_eq {w x : Nat} {f : F} (hw : bitsAre w (L.word f) = true) (hx : bitsAre x (L.second f) = true) : L.read w x = f :=
  L.inj _ _ (by rw [L.word_read w x f, map_asIn_of_bitsAre hw]) (by rw [L.second_read w x f, map_asIn_of_bitsAre hx])

theorem FirstWord.covers_word (r : FirstWord L n wc) (f : F) : covers 32 (opcodeOf n ++ wc ++ L.word f) = true := by
  rw [← covers_map_asIn 0, List.map_append, ← L.word_read 0 0 f, L.word_read 0 0 (L.read 0 0), ← List.map_append, covers_map_asIn]
  exact r.cover

theorem SecondWord.covers_second (r : SecondWord L m xc) (f : F) : covers 32 (xc ++ L.second f) = true := by
  rw [← covers_map_asIn 0, List.map_append, ← L.second_read 0 0 f, L.second_read 0 0 (L.read 0 0), ← List.map_append, covers_map_asIn]
  exact r.cover

theorem FirstWord.holds_encoded (r : FirstWord L n wc) (f : F) :
    n + L.bits f < 2 ^ 32 ∧ SameOpcode n (n + L.bits f) ∧ bitsAre (n + L.bits f) wc = true ∧
      bitsAre (n + L.bits f) (L.word f) = true := by
  have hn : n + L.bits f = wordOf (opcodeOf n ++ wc ++ L.word f) := by rw [wordOf_append, r.fixed, L.bits_eq]
  have hf : ∀ c ∈ opcodeOf n ++ wc ++ L.word f, Fits c := by
    have := fits_of_bitsAre (bitsAre_opcodeOf.mpr ⟨rfl, rfl⟩ : bitsAre n (opcodeOf n) = true)
    have := fits_of_bitsAre r.holds
    have := L.fits f
    grind
  obtain ⟨hlt, h⟩ := bitsAre_of_covers (r.covers_word f) hf
  simp only [bitsAre_append, Bool.and_eq_true, bitsAre_opcodeOf] at h
  obtain ⟨⟨hop, hwc⟩, hword⟩ := h
  rw [hn]
  exact ⟨hlt, hop, hwc, hword⟩

theorem SecondWord.holds_encoded (r : SecondWord L m xc) (f : F) :
    m + L.ext f < 2 ^ 32 ∧ bitsAre (m + L.ext f) xc = true ∧ bitsAre (m + L.ext f) (L.second f) = true := by
  have hm : m + L.ext f = wordOf (xc ++ L.second f) := by rw [wordOf_append, r.fixed, L.ext_eq]
  have hf : ∀ c ∈ xc ++ L.second f, Fits c := by
    have := fits_of_bitsAre r.holds
    have := L.fits f
    grind
  obtain ⟨hlt, h⟩ := bitsAre_of_covers (r.covers_second f) hf
  simp only [bitsAre_append, Bool.and_eq_true] at h
  rw [hm]
  exact ⟨hlt, h⟩

/-- Words with a row's fixed bits are the row's constants and what its form reads from them. -/
theorem FirstWord.encodes_read (r : FirstWord L n wc) {w : Nat} (x : Nat) (hlt : w < 2 ^ 32) (hop : SameOpcode n w)
    (hw : bitsAre w wc = true) : n + L.bits (L.read w x) = w := by
  rw [L.bits_eq]
  conv_lhs => rw [← r.fixed, ← wordOf_append]
  refine wordOf_of_covers (r.covers_word _) hlt ?_
  rw [bitsAre_append, bitsAre_append, bitsAre_opcodeOf.mpr hop, hw, L.word_read w x (L.read w x), bitsAre_map_asIn]
  rfl

theorem SecondWord.encodes_read (r : SecondWord L m xc) (w : Nat) {x : Nat} (hlt : x < 2 ^ 32) (hx : bitsAre x xc = true) :
    m + L.ext (L.read w x) = x := by
  rw [L.ext_eq, ← r.fixed, ← wordOf_append]
  refine wordOf_of_covers (r.covers_second _) hlt ?_
  rw [bitsAre_append, hx, L.second_read w x (L.read w x), bitsAre_map_asIn, Bool.and_self]

/-! ### From an instruction to its words and back -/

/-- Words w, and x if there are two, stand for instruction i by the opcode maps. -/
def StandsFor (w : Nat) (x : Option Nat) (i : Instr) : Prop :=
  w < 2 ^ 32 ∧ (∀ y ∈ x, y < 2 ^ 32) ∧ isTwoWord w = x.isSome ∧ parseAs w w (x.getD 0) = .ok i

variable {con : F → Instr} {f : F}

variable (L) in
/-- An instruction of a one-word form: `hp` says which of its opcode's alternatives is its own. -/
theorem oneWord_standsFor {w : Nat} {x : Option Nat} (h : encode (con f) = some (w, x))
    (henc : encode (con f) = some (n + L.bits f, none) := by rfl)
    (hp : Takes (parseAs n) wc [] (fun w x => con (L.read w x)) := by exact .first rfl)
    (hn : FirstWord L n wc := by exact {})
    (hx : L.second f = [] := by rfl) (hlen : isTwoWord n = false := by rfl) : StandsFor w x (con f) := by
  obtain ⟨rfl, rfl⟩ : n + L.bits f = w ∧ none = x := by simpa [henc] using h
  obtain ⟨hlt, hop, hwc, hf⟩ := hn.holds_encoded f
  refine ⟨hlt, nofun, hop.isTwoWord.trans hlen, ?_⟩
  rw [hop.parse, hp _ _ hwc rfl]
  exact congrArg (Except.ok <| con ·) (L.read_eq hf (by rw [hx]; rfl))

variable (L) in
/-- The same of a two-word form, where the second word's constant may be 0 and not written. -/
theorem twoWords_standsFor {y w : Nat} {x : Option Nat} (h : encode (con f) = some (w, x))
    (henc : encode (con f) = some (n + L.bits f, some y) := by rfl)
    (hp : Takes (parseAs n) wc xc (fun w x => con (L.read w x)) := by exact .first rfl)
    (hn : FirstWord L n wc := by exact {})
    (hm : SecondWord L (wordOf xc) xc := by exact {})
    (hy : y = wordOf xc + L.ext f := by simp; rfl)
    (hlen : isTwoWord n = true := by rfl) : StandsFor w x (con f) := by
  obtain ⟨rfl, rfl⟩ : n + L.bits f = w ∧ some y = x := by simpa [henc] using h
  obtain ⟨hlt, hop, hwc, hf⟩ := hn.holds_encoded f
  obtain ⟨hlt', hxc, hf'⟩ := hm.holds_encoded f
  subst hy
  refine ⟨hlt, by rintro _ ⟨⟩; exact hlt', hop.isTwoWord.trans hlen, ?_⟩
  rw [hop.parse, Option.getD_some, hp _ _ hwc hxc]
  exact congrArg (Except.ok <| con ·) (L.read_eq hf hf')

/-- Instruction i encodes to w, and to x where w's opcode is of a two-word form. -/
def EncodesTo (i : Instr) (w x : Nat) : Prop := encode i = some (w, if isTwoWord w then some x else none)

section
variable (L) {s op w x : Nat} {i : Instr} {r other : Except DecodeError Instr}
  (hs : fld w 31 31 = s) (ho : fld w 29 23 = op) (hw : w < 2 ^ 32)
include hs ho hw

/-- An opcode's first alternative in the map, of a one-word form; `hother` is left to the alternatives after it. -/
theorem oneWord_encodesTo (h : r = .ok i)
    (he : r = alt w x wc [] (con (L.read w x)) other := by rfl) (hother : other = .ok i → EncodesTo i w x := by exact nofun)
    (henc : ∀ f, encode (con f) = some (n + L.bits f, none) := by intro _; rfl)
    (hn : FirstWord L n wc := by exact {}) (hlen : isTwoWord n = false := by rfl)
    (hop : fld n 31 31 = s ∧ fld n 29 23 = op := by exact ⟨rfl, rfl⟩) : EncodesTo i w x := by
  have hop : SameOpcode n w := ⟨hs.trans hop.1.symm, ho.trans hop.2.symm⟩
  obtain ⟨hwc, -, rfl⟩ | h := of_alt_eq_ok he h
  · rw [EncodesTo, henc, hn.encodes_read x hw hop hwc, hop.isTwoWord, hlen]; rfl
  · exact hother h

/-- The same of a two-word form. -/
theorem twoWords_encodesTo (hx : x < 2 ^ 32) {y : F → Nat} (h : r = .ok i)
    (he : r = alt w x wc xc (con (L.read w x)) other := by rfl) (hother : other = .ok i → EncodesTo i w x := by exact nofun)
    (henc : ∀ f, encode (con f) = some (n + L.bits f, some (y f)) := by intro _; rfl)
    (hn : FirstWord L n wc := by exact {})
    (hm : SecondWord L (wordOf xc) xc := by exact {})
    (hy : ∀ f, y f = wordOf xc + L.ext f := by intro f; simp; rfl) (hlen : isTwoWord n = true := by rfl)
    (hop : fld n 31 31 = s ∧ fld n 29 23 = op := by exact ⟨rfl, rfl⟩) : EncodesTo i w x := by
  have hop : SameOpcode n w := ⟨hs.trans hop.1.symm, ho.trans hop.2.symm⟩
  obtain ⟨hwc, hxc, rfl⟩ | h := of_alt_eq_ok he h
  · rw [EncodesTo, henc, hy, hn.encodes_read x hw hop hwc, hm.encodes_read w hx hxc, hop.isTwoWord, hlen]; rfl
  · exact hother h
end
end

/-- What an instruction encodes to stands for it: a case for each operand form and place among its opcode's alternatives. -/
theorem standsFor_of_encode {i : Instr} {w : Nat} {x : Option Nat} (h : encode i = some (w, x)) : StandsFor w x i := by
  cases i with
  | iadd f | isub f | iadds f | isubs f | imul f | imulh f | imad f | imin f | imax f | andI f | orI f | xorI f | andn f | shl f | shr f
  | sra f | iaddw f | fadd f | fsub f | fmul f | ffma f | fmin f | fmax f | hadd f | hmul f | hfma f | badd f | bmul f | bfma f =>
    exact oneWord_standsFor RForm.layout h (hp := by exact .all rfl)
  | shli f | shri f | srai f =>
    exact oneWord_standsFor I6Form.layout h
  | popc f | clz f | fabs f | fneg f | frcp f | frsq f | fsqrt f | fexp2 f | flog2 f | fsin f | fcos f =>
    exact oneWord_standsFor R1Form.layout h
  | icmp f | fcmp f =>
    exact oneWord_standsFor PForm.layout h
  | movl f =>
    exact twoWords_standsFor LForm.layout h
  | icvf f | fcvi f | fcvh f | icvn f =>
    exact oneWord_standsFor CvForm.layout h
  | hcvf f | bpk f | bunpk f | bpsel f =>
    exact oneWord_standsFor Cv0Form.layout h
  | bra f | call f | sbra f | scall f =>
    exact oneWord_standsFor BForm.layout h (hp := by exact .all rfl)
  | ret f | exitI f | nop f | sret f | sstep f | sms f | waitpred f | yield f | snop f | mret f | gload f | mpark f =>
    exact oneWord_standsFor NForm.layout h
  | jmprVector f | callrVector f | haltb f | gkill f =>
    exact oneWord_standsFor AForm.layout h
  | jmprUniform f | callrUniform f | ctbiAsid f =>
    exact oneWord_standsFor OpBForm.layout h (hp := by exact .later rfl <| .first rfl)
  | join f =>
    exact oneWord_standsFor JForm.layout h (hp := by exact .all rfl)
  | waitI f =>
    exact oneWord_standsFor WForm.layout h
  | plog f | klog f =>
    exact oneWord_standsFor PlogForm.layout h
  | pmovGet f =>
    exact oneWord_standsFor DForm.layout h
  | pmovSet f | mretGrp f =>
    exact oneWord_standsFor AForm.layout h (hp := by exact .later rfl <| .first rfl)
  | srd f =>
    exact oneWord_standsFor SrdForm.layout h
  | shfl f =>
    exact twoWords_standsFor ShflForm.layout h
  | vote f | redi f | redf f | scani f =>
    exact twoWords_standsFor GForm.layout h
  | qswp f =>
    exact oneWord_standsFor QswpForm.layout h
  | qbcast f =>
    exact oneWord_standsFor QbcForm.layout h
  | qfill f | mrecv f | scan f =>
    exact oneWord_standsFor DaForm.layout h
  | ld f | lds f | st f | ldacq f | strel f | ldsh f | ldssh f | stsh f | ldg f | stg f | ldbc f | pref f | evict f | ldasy f =>
    exact twoWords_standsFor MForm.layout h
  | atom f | red f | atsh f | redsh f | atg f =>
    exact twoWords_standsFor MaForm.layout h
  | gwaddr f =>
    exact oneWord_standsFor GwForm.layout h
  | mldwTile f =>
    exact twoWords_standsFor MldwTForm.layout h
  | mldwMem f =>
    exact twoWords_standsFor MldwMForm.layout h (hp := by exact .later rfl <| .first rfl)
  | mma f =>
    exact twoWords_standsFor MmaForm.layout h
  | mflip f | mwait f =>
    exact twoWords_standsFor NForm.layout h
  | acpyReg f =>
    exact twoWords_standsFor AcpyRForm.layout h
  | acpyTile f =>
    exact twoWords_standsFor AcpyTForm.layout h (hp := by exact .later rfl <| .first rfl)
  | acpyMem f =>
    exact twoWords_standsFor AcpyMForm.layout h (hp := by exact .later rfl <| .later rfl <| .first rfl)
  | acpyStat f =>
    exact twoWords_standsFor AcpySForm.layout h (hp := by exact .later rfl <| .later rfl <| .later rfl <| .first rfl)
  | ackd f =>
    exact twoWords_standsFor AckdForm.layout h
  | azero f =>
    exact twoWords_standsFor AzeroForm.layout h
  | tld f | tst f | tldsh f | tstsh f =>
    exact twoWords_standsFor TldForm.layout h
  | tmovGet f =>
    exact twoWords_standsFor TmovForm.layout h
  | tmovPut f =>
    exact twoWords_standsFor TmovForm.layout h (hp := by exact .later rfl <| .first rfl)
  | mbmap f =>
    exact twoWords_standsFor MbmapForm.layout h
  | mwaitRel f =>
    exact twoWords_standsFor NForm.layout h (hp := by exact .later rfl <| .first rfl)
  | aset f =>
    exact twoWords_standsFor AsetForm.layout h
  | qbind f =>
    exact oneWord_standsFor QbindForm.layout h
  | qwr f | qrd f | qstat f =>
    exact oneWord_standsFor QForm.layout h
  | sadd f | ssub f | smul f | smad f | smin f | smax f | sand f | sor f | sxor f | sshl f | sshr f | ssra f =>
    exact oneWord_standsFor UrForm.layout h (hp := by exact .all rfl)
  | scmp f =>
    exact oneWord_standsFor UpForm.layout h (hp := by exact .all rfl)
  | smovl f =>
    exact twoWords_standsFor UlForm.layout h
  | ssr f =>
    exact oneWord_standsFor SsrForm.layout h
  | sget f =>
    exact oneWord_standsFor SgetForm.layout h
  | sld f | sst f | sldsh f | sstsh f =>
    exact twoWords_standsFor UmForm.layout h
  | satom f | satsh f =>
    exact twoWords_standsFor UmaForm.layout h
  | fenceSc f =>
    exact oneWord_standsFor FenceForm.layout h
  | fenceRel f =>
    exact oneWord_standsFor FenceForm.layout h (hp := by exact .later rfl <| .first rfl)
  | fenceAcq f =>
    exact oneWord_standsFor FenceForm.layout h (hp := by exact .later rfl <| .later rfl <| .first rfl)
  | bar f =>
    exact oneWord_standsFor BarForm.layout h
  | barxInit f =>
    exact oneWord_standsFor BarxForm.layout h
  | barxExpect f =>
    exact oneWord_standsFor BarxForm.layout h (hp := by exact .later rfl <| .first rfl)
  | barxArrive f =>
    exact oneWord_standsFor AForm.layout h (hp := by exact .later rfl <| .later rfl <| .first rfl)
  | barxArrexp f =>
    exact oneWord_standsFor BarxForm.layout h (hp := by exact .later rfl <| .later rfl <| .later rfl <| .first rfl)
  | barxInval f =>
    exact oneWord_standsFor AForm.layout h (hp := by exact .later rfl <| .later rfl <| .later rfl <| .later rfl <| .first rfl)
  | barw f | ctbw f | ctbiPage f | wcfg f =>
    exact oneWord_standsFor AbForm.layout h
  | tlwait f =>
    exact oneWord_standsFor TlwForm.layout h
  | gset f =>
    exact oneWord_standsFor GsetForm.layout h
  | gsetClr f =>
    exact oneWord_standsFor GclrForm.layout h (hp := by exact .later rfl <| .first rfl)
  | tlread f =>
    exact oneWord_standsFor TlrForm.layout h
  | cpy f | gath f | scat f | coll f | vdec f | enq f | enqw f =>
    exact twoWords_standsFor UeForm.layout h (hp := by exact .all rfl)
  | tdeclDecl f =>
    exact twoWords_standsFor AForm.layout h
  | tdeclFrz f =>
    exact twoWords_standsFor AForm.layout h (hp := by exact .later rfl <| .first rfl)
  | tdeclRet f =>
    exact twoWords_standsFor AForm.layout h (hp := by exact .later rfl <| .later rfl <| .first rfl)
  | trap f | brk f | gsave f =>
    exact oneWord_standsFor TrapForm.layout h
  | swpt f =>
    exact oneWord_standsFor SwptForm.layout h
  | sleep f =>
    exact oneWord_standsFor SleepForm.layout h
  | mretRes f =>
    exact oneWord_standsFor AbForm.layout h (hp := by exact .later rfl <| .later rfl <| .first rfl)
  | mretPc f =>
    exact oneWord_standsFor AbForm.layout h (hp := by exact .later rfl <| .later rfl <| .later rfl <| .first rfl)
  | msend f =>
    exact oneWord_standsFor MsendForm.layout h
  | ctbiAll f =>
    exact oneWord_standsFor NForm.layout h (hp := by exact .later rfl <| .later rfl <| .first rfl)
  | mcrr f =>
    exact oneWord_standsFor DnForm.layout h
  | mcrw f =>
    exact oneWord_standsFor AnForm.layout h
  | _ => cases h

/-- Words that the lane set's map gives an instruction are those it encodes to: a case for each list of an opcode's operand forms. -/
theorem encodesTo_of_parseLane {op w x : Nat} {i : Instr} (hs : fld w 31 31 = 0) (ho : fld w 29 23 = op) (hw : w < 2 ^ 32)
    (hx : x < 2 ^ 32) (h : parseLane op w x = .ok i) : EncodesTo i w x := by
  match op, ho, h with
  | 0, ho, h | 1, ho, h | 2, ho, h | 3, ho, h | 4, ho, h | 5, ho, h | 6, ho, h | 7, ho, h | 8, ho, h | 9, ho, h | 10, ho, h | 11, ho, h
  | 12, ho, h | 13, ho, h | 14, ho, h | 15, ho, h | 23, ho, h | 24, ho, h | 25, ho, h | 26, ho, h | 27, ho, h | 28, ho, h | 29, ho, h
  | 40, ho, h | 41, ho, h | 42, ho, h | 43, ho, h | 44, ho, h | 45, ho, h =>
    exact oneWord_encodesTo RForm.layout hs ho hw h
  | 16, ho, h | 17, ho, h | 18, ho, h =>
    exact oneWord_encodesTo I6Form.layout hs ho hw h
  | 19, ho, h | 20, ho, h | 30, ho, h | 31, ho, h | 33, ho, h | 34, ho, h | 35, ho, h | 36, ho, h | 37, ho, h | 38, ho, h | 39, ho, h =>
    exact oneWord_encodesTo R1Form.layout hs ho hw h
  | 21, ho, h | 32, ho, h =>
    exact oneWord_encodesTo PForm.layout hs ho hw h
  | 22, ho, h =>
    exact twoWords_encodesTo LForm.layout hs ho hw hx h
  | 46, ho, h | 47, ho, h | 48, ho, h | 50, ho, h =>
    exact oneWord_encodesTo CvForm.layout hs ho hw h
  | 49, ho, h | 51, ho, h | 52, ho, h | 53, ho, h =>
    exact oneWord_encodesTo Cv0Form.layout hs ho hw h
  | 54, ho, h | 55, ho, h =>
    exact oneWord_encodesTo BForm.layout hs ho hw h
  | 56, ho, h | 61, ho, h | 65, ho, h =>
    exact oneWord_encodesTo NForm.layout hs ho hw h
  | 57, ho, h | 58, ho, h =>
    refine oneWord_encodesTo AForm.layout hs ho hw h (hother := fun h => ?_)
    exact oneWord_encodesTo OpBForm.layout hs ho hw h
  | 59, ho, h =>
    exact oneWord_encodesTo JForm.layout hs ho hw h
  | 60, ho, h =>
    exact oneWord_encodesTo WForm.layout hs ho hw h
  | 62, ho, h =>
    exact oneWord_encodesTo PlogForm.layout hs ho hw h
  | 63, ho, h =>
    refine oneWord_encodesTo DForm.layout hs ho hw h (hother := fun h => ?_)
    exact oneWord_encodesTo AForm.layout hs ho hw h
  | 64, ho, h =>
    exact oneWord_encodesTo SrdForm.layout hs ho hw h
  | 66, ho, h =>
    exact twoWords_encodesTo ShflForm.layout hs ho hw hx h
  | 67, ho, h | 68, ho, h | 69, ho, h | 70, ho, h =>
    exact twoWords_encodesTo GForm.layout hs ho hw hx h
  | 71, ho, h =>
    exact oneWord_encodesTo QswpForm.layout hs ho hw h
  | 72, ho, h =>
    exact oneWord_encodesTo QbcForm.layout hs ho hw h
  | 73, ho, h =>
    exact oneWord_encodesTo DaForm.layout hs ho hw h
  | 74, ho, h | 75, ho, h | 76, ho, h | 77, ho, h | 78, ho, h | 79, ho, h | 80, ho, h | 81, ho, h | 82, ho, h | 83, ho, h | 89, ho, h
  | 90, ho, h | 91, ho, h | 92, ho, h =>
    exact twoWords_encodesTo MForm.layout hs ho hw hx h
  | 84, ho, h | 85, ho, h | 86, ho, h | 87, ho, h | 88, ho, h =>
    exact twoWords_encodesTo MaForm.layout hs ho hw hx h
  | 93, ho, h =>
    exact oneWord_encodesTo GwForm.layout hs ho hw h
  | 94, ho, h =>
    refine twoWords_encodesTo MldwTForm.layout hs ho hw hx h (hother := fun h => ?_)
    exact twoWords_encodesTo MldwMForm.layout hs ho hw hx h
  | 95, ho, h =>
    exact twoWords_encodesTo MmaForm.layout hs ho hw hx h
  | 96, ho, h =>
    exact twoWords_encodesTo NForm.layout hs ho hw hx h
  | 97, ho, h =>
    refine twoWords_encodesTo AcpyRForm.layout hs ho hw hx h (hother := fun h => ?_)
    refine twoWords_encodesTo AcpyTForm.layout hs ho hw hx h (hother := fun h => ?_)
    refine twoWords_encodesTo AcpyMForm.layout hs ho hw hx h (hother := fun h => ?_)
    exact twoWords_encodesTo AcpySForm.layout hs ho hw hx h
  | 98, ho, h =>
    exact twoWords_encodesTo AckdForm.layout hs ho hw hx h
  | 99, ho, h =>
    exact twoWords_encodesTo AzeroForm.layout hs ho hw hx h
  | 100, ho, h | 101, ho, h | 102, ho, h | 103, ho, h =>
    exact twoWords_encodesTo TldForm.layout hs ho hw hx h
  | 104, ho, h =>
    refine twoWords_encodesTo TmovForm.layout hs ho hw hx h (hother := fun h => ?_)
    exact twoWords_encodesTo TmovForm.layout hs ho hw hx h
  | 105, ho, h =>
    exact twoWords_encodesTo MbmapForm.layout hs ho hw hx h
  | 106, ho, h =>
    refine twoWords_encodesTo NForm.layout hs ho hw hx h (hother := fun h => ?_)
    exact twoWords_encodesTo NForm.layout hs ho hw hx h
  | 107, ho, h =>
    exact twoWords_encodesTo AsetForm.layout hs ho hw hx h
  | 108, ho, h =>
    exact oneWord_encodesTo QbindForm.layout hs ho hw h
  | 109, ho, h | 110, ho, h | 111, ho, h =>
    exact oneWord_encodesTo QForm.layout hs ho hw h
  | n + 112, _, h => exact nomatch h

/-- Words that the uniform set's map gives an instruction are those it encodes to: a case for each list of an opcode's operand forms. -/
theorem encodesTo_of_parseUniform {op w x : Nat} {i : Instr} (hs : fld w 31 31 = 1) (ho : fld w 29 23 = op) (hw : w < 2 ^ 32)
    (hx : x < 2 ^ 32) (h : parseUniform op w x = .ok i) : EncodesTo i w x := by
  match op, ho, h with
  | 0, ho, h | 1, ho, h | 2, ho, h | 3, ho, h | 4, ho, h | 5, ho, h | 6, ho, h | 7, ho, h | 8, ho, h | 9, ho, h | 10, ho, h | 11, ho, h =>
    exact oneWord_encodesTo UrForm.layout hs ho hw h
  | 12, ho, h =>
    exact oneWord_encodesTo UpForm.layout hs ho hw h
  | 13, ho, h =>
    exact twoWords_encodesTo UlForm.layout hs ho hw hx h
  | 14, ho, h =>
    exact oneWord_encodesTo PlogForm.layout hs ho hw h
  | 15, ho, h | 16, ho, h =>
    exact oneWord_encodesTo BForm.layout hs ho hw h
  | 17, ho, h | 30, ho, h | 33, ho, h | 34, ho, h | 47, ho, h | 48, ho, h | 54, ho, h | 62, ho, h =>
    exact oneWord_encodesTo NForm.layout hs ho hw h
  | 18, ho, h =>
    exact oneWord_encodesTo SsrForm.layout hs ho hw h
  | 19, ho, h =>
    exact oneWord_encodesTo SgetForm.layout hs ho hw h
  | 20, ho, h | 21, ho, h | 23, ho, h | 24, ho, h =>
    exact twoWords_encodesTo UmForm.layout hs ho hw hx h
  | 22, ho, h | 25, ho, h =>
    exact twoWords_encodesTo UmaForm.layout hs ho hw hx h
  | 26, ho, h =>
    refine oneWord_encodesTo FenceForm.layout hs ho hw h (hother := fun h => ?_)
    refine oneWord_encodesTo FenceForm.layout hs ho hw h (hother := fun h => ?_)
    exact oneWord_encodesTo FenceForm.layout hs ho hw h
  | 27, ho, h =>
    exact oneWord_encodesTo BarForm.layout hs ho hw h
  | 28, ho, h =>
    refine oneWord_encodesTo BarxForm.layout hs ho hw h (hother := fun h => ?_)
    refine oneWord_encodesTo BarxForm.layout hs ho hw h (hother := fun h => ?_)
    refine oneWord_encodesTo AForm.layout hs ho hw h (hother := fun h => ?_)
    refine oneWord_encodesTo BarxForm.layout hs ho hw h (hother := fun h => ?_)
    exact oneWord_encodesTo AForm.layout hs ho hw h
  | 29, ho, h | 57, ho, h | 59, ho, h =>
    exact oneWord_encodesTo AbForm.layout hs ho hw h
  | 31, ho, h =>
    exact oneWord_encodesTo TlwForm.layout hs ho hw h
  | 32, ho, h =>
    refine oneWord_encodesTo GsetForm.layout hs ho hw h (hother := fun h => ?_)
    exact oneWord_encodesTo GclrForm.layout hs ho hw h
  | 35, ho, h =>
    exact oneWord_encodesTo TlrForm.layout hs ho hw h
  | 36, ho, h | 37, ho, h | 38, ho, h | 39, ho, h | 40, ho, h | 42, ho, h | 43, ho, h =>
    exact twoWords_encodesTo UeForm.layout hs ho hw hx h
  | 41, ho, h =>
    refine twoWords_encodesTo AForm.layout hs ho hw hx h (hother := fun h => ?_)
    refine twoWords_encodesTo AForm.layout hs ho hw hx h (hother := fun h => ?_)
    exact twoWords_encodesTo AForm.layout hs ho hw hx h
  | 44, ho, h | 45, ho, h | 53, ho, h =>
    exact oneWord_encodesTo TrapForm.layout hs ho hw h
  | 46, ho, h =>
    exact oneWord_encodesTo SwptForm.layout hs ho hw h
  | 49, ho, h =>
    exact oneWord_encodesTo SleepForm.layout hs ho hw h
  | 50, ho, h =>
    refine oneWord_encodesTo NForm.layout hs ho hw h (hother := fun h => ?_)
    refine oneWord_encodesTo AForm.layout hs ho hw h (hother := fun h => ?_)
    refine oneWord_encodesTo AbForm.layout hs ho hw h (hother := fun h => ?_)
    exact oneWord_encodesTo AbForm.layout hs ho hw h
  | 51, ho, h =>
    exact oneWord_encodesTo MsendForm.layout hs ho hw h
  | 52, ho, h | 56, ho, h =>
    exact oneWord_encodesTo DaForm.layout hs ho hw h
  | 55, ho, h | 63, ho, h =>
    exact oneWord_encodesTo AForm.layout hs ho hw h
  | 58, ho, h =>
    refine oneWord_encodesTo AbForm.layout hs ho hw h (hother := fun h => ?_)
    refine oneWord_encodesTo OpBForm.layout hs ho hw h (hother := fun h => ?_)
    exact oneWord_encodesTo NForm.layout hs ho hw h
  | 60, ho, h =>
    exact oneWord_encodesTo DnForm.layout hs ho hw h
  | 61, ho, h =>
    exact oneWord_encodesTo AnForm.layout hs ho hw h
  | n + 64, _, h => exact nomatch h

/-! ### Bytes in memory order, and the round trip -/

theorem length_leBytes (n w : Nat) : (leBytes n w).length = n := by
  induction n generalizing w with
  | zero => rfl
  | succ n ih => rw [leBytes, List.length_cons, ih]

theorem leNat_leBytes {n w : Nat} (h : w < 256 ^ n) : leNat (leBytes n w) = w := by
  induction n generalizing w with
  | zero => rw [leBytes, leNat]; omega
  | succ n ih =>
    rw [leBytes, leNat, ih (Nat.div_lt_of_lt_mul (by rwa [← Nat.pow_succ'])), BitVec.toNat_ofNat]
    exact Nat.mod_add_div w 256

/-- The first four bytes are the word's, and the others follow. -/
theorem leNat_take_leBytes {w : Nat} (h : w < 2 ^ 32) (bs : List (BitVec 8)) : leNat ((leBytes 4 w ++ bs).take 4) = w := by
  rw [List.take_left' (length_leBytes 4 w), leNat_leBytes h]

/-- The bytes of a first word, and of a second one where the opcode has it, decode as the words do. -/
theorem decode_leBytes {w : Nat} {x : Option Nat} (hw : w < 2 ^ 32) (hx : ∀ y ∈ x, y < 2 ^ 32) (hlen : isTwoWord w = x.isSome) :
    decode (leBytes 4 w ++ x.elim [] (leBytes 4)) = some (decodeWords w (x.getD 0), []) := by
  have hrest (bs : List (BitVec 8)) : (leBytes 4 w ++ bs).drop 4 = bs := List.drop_left' (length_leBytes 4 w)
  simp only [decode, leNat_take_leBytes hw, hrest, hlen]
  cases x with
  | none => simp [length_leBytes]
  | some y =>
    have hy : leNat ((leBytes 4 y).take 4) = y := by simpa using leNat_take_leBytes (hx y rfl) []
    simp [length_leBytes, hy, List.drop_eq_nil_iff]

theorem encodesTo_of_parseAs {w x : Nat} {i : Instr} (hw : w < 2 ^ 32) (hx : x < 2 ^ 32) (h : parseAs w w x = .ok i) : EncodesTo i w x := by
  have hset : fld w 31 31 < 2 := fld_lt w 31 31
  obtain hs | hs : fld w 31 31 = 0 ∨ fld w 31 31 = 1 := by omega
  · exact encodesTo_of_parseLane hs rfl hw hx (by simpa [parseAs, hs] using h)
  · exact encodesTo_of_parseUniform hs rfl hw hx (by simpa [parseAs, hs] using h)

/-- Settles O56: every row of the opcode maps covers its words with its opcode, its fixed bits and its form's fields, so the words an
instruction encodes to are read back as it, and words read as an instruction are those it encodes to. -/
theorem encodingAndDecodingAgree : Obligations.EncodingAndDecodingAgree := by
  refine ⟨fun i w x hwf henc => ?_, fun w x i hw hx hdec => ?_⟩
  · obtain ⟨hw, hx, hlen, hparse⟩ := standsFor_of_encode henc
    have hdec : decodeWords w (x.getD 0) = .ok i := decodeWords_eq_ok.mpr ⟨hparse, hwf⟩
    exact ⟨hw, hx, hlen, hdec, by rw [← hdec]; exact decode_leBytes hw hx hlen⟩
  · obtain ⟨hparse, hwf⟩ := decodeWords_eq_ok.mp hdec
    exact ⟨hwf, encodesTo_of_parseAs hw hx hparse⟩

/-- Settles O60: the decoder is evaluated on each word pair. -/
theorem specWordsDecodeAsTheSpecEncodesThem : Obligations.SpecWordsDecodeAsTheSpecEncodesThem := by
  exact ⟨rfl, rfl, rfl, rfl, rfl, rfl, rfl, rfl, rfl, rfl, rfl, rfl⟩

end Sys2Proof
end

section
/-!
SUPPORT. A state in which replaying a logged store forces another store back into the side log (R159, R251, R309).
-/
namespace Sys2Proof.Machine
open Sys2Proof

/-- A logged store of the byte 5 to address 0, whose group is no longer resident. -/
def loggedStore : SideLog :=
  { gid := 0, bid := 0, lid := 0, asid := 0, page := 0, pc := 0, ops := [{ lane := 0, addr := 0, size := 1, atop := none, y := 5, y2 := 0 }] }

/-- The leaf of an absent page (RES 3, R306): the port sends an access of a sector that L2 lacks to the fault unit. -/
def absentLeaf : Leaf :=
  { pa := 0, psize := 4096, res := 3, sealed_ := false, x := false, w := true, rd := true, remote := none, entry := 0 }

/-- The logged store is alone in its side log and its sector stands in L2. Of the same line the cluster's L1 holds a stream store of group 1, to
address 16, whose sector does not stand in L2 and whose page is absent. -/
def besideHeldByte : State :=
  { groups := [(1, { bid := 0, num := 0, cluster := 0, sp := 0, slot := 0 })]
    l2 := [(l2key 0 0 0, { data := 0, dirty := false, poison := false, pa := 0 })]
    clusters := [(0, { sideLogs := [(0, [loggedStore])], l1held := [(l1key 0 16, { val := 0, party := 1 })] })]
    dies := [(0, { asids := [(0, [])], tlb := [(0, [{ asid := 0, va := 0, leaf := absentLeaf }])] })] }

/-- The party of the logged store. -/
abbrev loggedParty : Who := besideHeldByte.logWho 0 0 loggedStore

theorem bindPieces_besideHeldByte : besideHeldByte.bindPieces loggedParty 0 = besideHeldByte := rfl

theorem waitingOf_besideHeldByte : besideHeldByte.waitingOf 0 0 = [] := rfl

/-- The logged store comes to its home, and no request of another device waits. -/
theorem storeHome_besideHeldByte :
    ∃ t, besideHeldByte.storeHome loggedParty 0 0 (toBytes 1 5) false false = (.ok [], t) ∧ t.farWaits = [] :=
  ⟨_, Prod.ext (by decide +kernel) rfl, by decide +kernel⟩

/-- The replay publishes the held byte first; its page is absent, so it is in the side log afterwards. -/
theorem sideLog_after_replay {t : State} (h : exec (.sideLogReplay 0 0) besideHeldByte = .next t) :
    (t.sideLog 0 0).map (·.gid) = [1] := by
  obtain rfl : t = _ := (Host.Outcome.next.inj h).symm
  decide +kernel

/-- Refutes O47: where a logged store is replayed, a held byte of its line is published first; if the page of that byte is absent, the byte's
store comes to the side log, which is therefore not empty although the logged store was performed and has left it: the clause on the replay lacks a
premise that no store of the line is held. -/
theorem not_memoryAgentsDoTheirWork : ¬ Obligations.MemoryAgentsDoTheirWork := by
  intro h
  obtain ⟨-, -, -, -, -, hreplay, -⟩ := h
  obtain ⟨s1, hstore, hfar⟩ := storeHome_besideHeldByte
  obtain ⟨hperformed, -⟩ := hreplay besideHeldByte 0 0 loggedStore { lane := 0, addr := 0, size := 1, atop := none, y := 5, y2 := 0 }
    rfl rfl rfl rfl rfl rfl rfl rfl (fun x hx => absurd hx (by simp [loggedStore, waitingOf_besideHeldByte])) rfl (by decide +kernel)
  obtain ⟨t, hstep, hempty, -⟩ := hperformed [] s1 hstore hfar
  have hlogged := sideLog_after_replay hstep
  simp [hempty] at hlogged

end Sys2Proof.Machine
end

section
/-!
SUPPORT. What the result shapes of a lane-set instruction leave of a group, once per shape: from the operation through which an
instruction issues to the words of the statements (R56, R98, R99, R104).
-/
namespace Sys2Proof.Machine
open Sys2Proof

/-! ### Masks -/

theorem getLsbD_laneBit (l k : Nat) (hl : l < 32) : (laneBit l).getLsbD k = decide (k = l) := by
  rw [laneBit, BitVec.getLsbD_ofNat, Nat.testBit_two_pow]
  by_cases h : k = l
  · simp [h, hl]
  · simp [h, Ne.symm h]

/-- A mask built up lane by lane. -/
theorem getLsbD_foldl_laneBit (p : Nat → Bool) (L : List Nat) (hL : ∀ k ∈ L, k < 32) (m : Word) (l : Nat) :
    (L.foldl (fun m k => if p k then m ||| laneBit k else m) m).getLsbD l = (m.getLsbD l || (decide (l ∈ L) && p l)) := by
  induction L generalizing m with
  | nil => simp
  | cons k L ih =>
    have hk : k < 32 := hL k List.mem_cons_self
    rw [List.foldl_cons, ih fun j hj => hL j (List.mem_cons_of_mem _ hj)]
    by_cases hp : p k <;> by_cases hlk : l = k <;> simp [hp, hlk, getLsbD_laneBit _ _ hk]

/-- The mask of the lanes that satisfy p has the bits of p. -/
@[simp] theorem getLsbD_maskOf (p : Nat → Bool) (l : Nat) : (maskOf p).getLsbD l = (decide (l < 32) && p l) := by
  rw [maskOf, getLsbD_foldl_laneBit _ _ fun k hk => List.mem_range.mp hk]
  simp

theorem has_maskOf {p : Nat → Bool} {l : Nat} (hl : l < 32) : has (maskOf p) l ↔ p l = true := by
  rw [has, getLsbD_maskOf, decide_eq_true hl, Bool.true_and]

theorem has_and_not {m n : Word} {l : Nat} : has (m &&& ~~~n) l ↔ has m l ∧ ¬ has n l := by
  rw [has, BitVec.getLsbD_and, BitVec.getLsbD_not, Bool.and_eq_true, Bool.and_eq_true, Bool.not_eq_true', ← Bool.not_eq_true]
  exact and_congr_right fun h => and_iff_right (decide_eq_true (BitVec.lt_of_getLsbD h))

/-- A mask that is not 0 has a lowest lane. -/
theorem exists_lowestIn {m : Word} (h : m ≠ 0#32) : ∃ low, lowestIn m low := by
  have hex : ∃ l, has m l := by
    by_contra hno
    exact h (BitVec.eq_of_getLsbD_eq fun l _ => by simpa [has] using not_exists.mp hno l)
  exact ⟨Nat.find hex, Nat.find_spec hex, fun _ => Nat.find_min hex⟩

theorem nodup_lanesOf (m : Word) : (lanesOf m).Nodup := List.nodup_range.filter _

theorem lanesOf_zero : lanesOf 0#32 = [] := by simp [lanesOf]

/-! ### Vector results -/

/-- `WritesVec` depends on the values of the 32 lanes alone. -/
theorem WritesVec.congr {g g' : Group} {pc pc' : DWord} {I E : Word} {t : Fin 2} {d : Nat} {f f' : Nat → Word}
    (h : WritesVec g g' pc I E pc' t d f) (hf : ∀ l < 32, f l = f' l) : WritesVec g g' pc I E pc' t d f' where
  rest := h.rest
  pcs := h.pcs
  file l hl r hr := by rw [h.file l hl r hr, hf l hl]
  bypass := h.bypass
  seen ht l hl r hr := by rw [h.seen ht l hl r hr, hf l hl]

/-- An instruction that runs as a vector operation, its slots accepted, completes with the operation's values. -/
theorem completesVec_of_exec {i : Instr} {sw : Fin 2} {gd : Fin 8} {len : Nat} {u : Uses} {t : Fin 2} {d : Fin 64}
    {slots : State → Group → Prop} {val : State → Group → Nat → Word} (ok : State → Bool) (f : State → Group → Nat → Word)
    (run : State → Out) (hx : ∀ s, exec i s = run s) (hr : ∀ s, run s = vectorOp s i sw gd len u (ok s) t d (f s))
    (hok : ∀ s gid pc g, Issues s gid pc g sw → slots s g → ok s = true)
    (hv : ∀ s gid pc g, Issues s gid pc g sw → slots s g → ∀ l < 32, f s g l = val s g l) :
    CompletesVec i sw gd len u t d slots val := by
  intro s gid pc g h hw hu hs
  obtain ⟨g', he, hg⟩ := vectorOp_completes h i gd len u (ok s) t d (f s) d.isLt (issueFault_none hw (hok s gid pc g h hs) hu)
  exact ⟨g', ((hx s).trans (hr s)).trans he, hg.congr (hv s gid pc g h hs)⟩

/-- An R-form instruction whose meaning `run` is an `alu` completes with any description of its operation. -/
theorem completesR_of_alu {i : RForm → Instr} {op val : Word → Word → Word → Word} (run : RForm → State → Out)
    (hx : ∀ f s, exec (i f) s = run f s) (hr : ∀ f s, run f s = alu (i f) f s op) (h : ∀ x y d, op x y d = val x y d) :
    CompletesR i val := fun f =>
  completesVec_of_exec (fun _ => true) _ (run f) (hx f) (hr f) (fun _ _ _ _ _ _ => rfl) fun _ _ _ _ _ _ _ _ => h ..

/-- The same for unary R forms. -/
theorem completesR1_of_alu1 {i : R1Form → Instr} {op val : Word → Word} (run : R1Form → State → Out)
    (hx : ∀ f s, exec (i f) s = run f s) (hr : ∀ f s, run f s = alu1 (i f) f s op) (h : ∀ x, op x = val x) : CompletesR1 i val := fun f =>
  completesVec_of_exec (fun _ => true) _ (run f) (hx f) (hr f) (fun _ _ _ _ _ _ => rfl) fun _ _ _ _ _ _ _ _ => h _

/-- The same for I6 forms. -/
theorem completesI6_of_aluImm {i : I6Form → Instr} {op val : Word → Nat → Word} (run : I6Form → State → Out)
    (hx : ∀ f s, exec (i f) s = run f s) (hr : ∀ f s, run f s = aluImm (i f) f s op) (h : ∀ x n, op x n = val x n) :
    CompletesI6 i val := fun f =>
  completesVec_of_exec (fun _ => true) _ (run f) (hx f) (hr f) (fun _ _ _ _ _ _ => rfl) fun _ _ _ _ _ _ _ _ => h ..

/-! ### Results in a register pair -/

theorem Group.put_put_eq (b : Group) (E : Word) (t : Fin 2) (d d' : Nat) (x y : Nat → Word) :
    ∃ v tr, (b.put E t d x).put E t d' y = { b with v := v, transient := tr } := by
  obtain ⟨v, tr, h⟩ : ∃ v tr, b.put E t d x = { b with v := v, transient := tr } := ⟨_, _, b.put_rest E t d x⟩
  rw [h]
  exact ⟨_, _, Group.put_rest ..⟩

/-- What writing a pair and advancing leaves. -/
theorem Group.put_put_setPc_writesPair (g : Group) (pc : DWord) (I E : Word) (pc' : DWord) (t : Fin 2) (d : Nat) (f : Nat → DWord)
    (hd : d + 1 < 64) :
    WritesPair g ((((g.begun pc).put E t d fun l => (f l).setWidth 32).put E t (d + 1) fun l => ((f l) >>> 32).setWidth 32).setPc I pc')
      pc I E pc' t d f := by
  obtain ⟨v, tr, h⟩ := (g.begun pc).put_put_eq E t d (d + 1) (fun l => (f l).setWidth 32) fun l => ((f l) >>> 32).setWidth 32
  constructor
  · rw [h, Group.begun_rest]
    rfl
  · intro l hl
    rw [Group.pcOf_setPc _ _ _ _ hl, ← g.begun_pcOf pc l, h]
    rfl
  · intro l hl r hr
    change Group.vreg (Group.put _ E t (d + 1) _) l r = _
    rw [Group.put_vreg _ _ _ _ _ _ _ hl hd hr, Group.put_vreg _ _ _ _ _ _ _ hl (by omega) hr, Group.begun_vreg]
    by_cases h : r = d
    · simp [h]
    · simp [h]
  · rintro rfl
    exact (Group.put_transient0 ..).trans (Group.put_transient0 ..)
  · rintro rfl l hl r hr
    change Group.readV (Group.put _ E 1 (d + 1) _) l r = _
    rw [Group.put_readV1 _ _ _ _ _ _ hl, Group.put_readV1 _ _ _ _ _ _ hl]
    by_cases h : r = d
    · simp [h]
    · simp [h]

/-- `WritesPair` depends on the values of the 32 lanes alone. -/
theorem WritesPair.congr {g g' : Group} {pc pc' : DWord} {I E : Word} {t : Fin 2} {d : Nat} {f f' : Nat → DWord}
    (h : WritesPair g g' pc I E pc' t d f) (hf : ∀ l < 32, f l = f' l) : WritesPair g g' pc I E pc' t d f' where
  rest := h.rest
  pcs := h.pcs
  file l hl r hr := by rw [h.file l hl r hr, hf l hl]
  bypass := h.bypass
  seen ht l hl r hr := by rw [h.seen ht l hl r hr, hf l hl]

/-- A lane-set instruction whose body writes a pair and advances completes as `WritesPair` says. -/
theorem laneIssue_pair_completes {s : State} {gid : Nat} {pc : DWord} {g : Group} {sw : Fin 2} (h : Issues s gid pc g sw)
    (i : Instr) (gd : Fin 8) (len : Nat) (u : Uses) (slots : Bool) (t : Fin 2) (d : Nat) (f : Group → Nat → DWord) (hd : d + 1 < 64)
    (hf : s.issueFault g i u slots = none) :
    ∃ g', vectorOp64 s i sw gd len u slots t d f = .next (s.setG gid g') ∧
      WritesPair g g' pc (g.issued pc) (g.executing pc gd) (asPc (pc + BitVec.ofNat 64 len)) t d (f g) := by
  refine ⟨_, ?_, Group.put_put_setPc_writesPair g pc _ _ _ t d (f g) hd⟩
  rw [vectorOp64, laneIssue_runs h _ _ _ _ _ _ hf]
  simp only [Issue.done, Issue.nextPc]
  rw [State.updG_setG _ _ _ _ g h.here]

/-- An instruction that runs as a vector operation on pairs, its destination even, completes with the operation's values. -/
theorem completesPair_of_exec {i : Instr} {sw : Fin 2} {gd : Fin 8} {len : Nat} {u : Uses} {t : Fin 2} {d : Fin 64}
    {slots : State → Group → Prop} {val : State → Group → Nat → DWord} (ok : State → Bool) (f : State → Group → Nat → DWord)
    (run : State → Out) (hx : ∀ s, exec i s = run s) (hr : ∀ s, run s = vectorOp64 s i sw gd len u (ok s) t d (f s))
    (hd : i.wf = true → d.val % 2 = 0)
    (hok : ∀ s gid pc g, Issues s gid pc g sw → slots s g → ok s = true)
    (hv : ∀ s gid pc g, Issues s gid pc g sw → slots s g → ∀ l < 32, f s g l = val s g l) :
    CompletesPair i sw gd len u t d slots val := by
  intro s gid pc g h hw hu hs
  have hlt : d.val + 1 < 64 := by have := hd hw; omega
  obtain ⟨g', he, hg⟩ :=
    laneIssue_pair_completes h i gd len u (ok s) t d (f s) hlt (issueFault_none hw (hok s gid pc g h hs) hu)
  exact ⟨g', ((hx s).trans (hr s)).trans he, hg.congr (hv s gid pc g h hs)⟩

/-! ### Predicate results -/

/-- A predicate after a write to some lanes of one; p7 reads true and takes no write (R11). -/
theorem Group.preds_setPreds (g : Group) (n : Nat) (m vals : Word) (l k : Nat) :
    ((g.setPreds n m vals).preds k).getLsbD l =
      if m.getLsbD l = true ∧ k = n ∧ n ≠ 7 then vals.getLsbD l else (g.preds k).getLsbD l := by
  by_cases hn : n = 7
  · simp [Group.setPreds, hn]
  by_cases hk : k = 7
  · have hkn : ¬ k = n := fun h => hn (h ▸ hk)
    rw [if_neg fun h => hkn h.2.1]
    simp only [Group.preds, if_pos hk]
  simp only [Group.setPreds, Group.preds, if_neg hn, if_neg hk, getD_setD]
  by_cases hkn : k = n
  · by_cases hm : m.getLsbD l = true
    · have hl : l < 32 := BitVec.lt_of_getLsbD hm
      simp [hkn, hm, hn]
    · have hlt : (getD g.p n 0#32).getLsbD l = true → l < 32 := BitVec.lt_of_getLsbD
      simpa [hkn, hm] using hlt
  · simp [hkn]

theorem Group.setPreds_rest (g : Group) (n : Nat) (m vals : Word) : g.setPreds n m vals = { g with p := (g.setPreds n m vals).p } := by
  unfold Group.setPreds; split <;> rfl

theorem Group.preds_setPc (g : Group) (m : Word) (x : DWord) (n : Nat) : (g.setPc m x).preds n = g.preds n := rfl

theorem Group.begun_preds (g : Group) (pc : DWord) (n : Nat) : (g.begun pc).preds n = g.preds n := by
  unfold Group.begun Group.ready; split <;> rfl

/-- A lane-set instruction whose body writes one predicate of the executing lanes completes as `WritesPred` says. -/
theorem laneIssue_pred_completes {s : State} {gid : Nat} {pc : DWord} {g : Group} {sw : Fin 2} (h : Issues s gid pc g sw)
    (i : Instr) (gd : Fin 8) (u : Uses) (n : Nat) (m : Issue → Word) (val : Nat → Bool) (hf : s.issueFault g i u true = none)
    (hm : ∀ it : Issue, it.g = g → it.E = g.executing pc gd → ∀ l < 32, has it.E l → (m it).getLsbD l = val l) :
    ∃ g', (laneIssue s i sw gd 4 u true fun it s => it.done s fun g => g.setPreds n it.E (m it)) = .next (s.setG gid g') ∧
      WritesPred g g' pc (g.issued pc) (g.executing pc gd) (asPc (pc + 4#64)) n val := by
  rw [laneIssue_runs h _ _ _ _ _ _ hf]
  simp only [Issue.done, Issue.nextPc]
  rw [State.updG_setG _ _ _ _ g h.here]
  refine ⟨_, rfl, ?_, ?_, ?_⟩
  · rw [Group.setPc_rest, Group.setPreds_rest]
  · intro l hl
    rw [Group.pcOf_setPc _ _ _ _ hl, Group.setPreds_rest]
    exact congrArg _ (g.begun_pcOf pc l)
  · intro l hl k _
    rw [Group.preds_setPc, Group.preds_setPreds, Group.begun_preds]
    split
    · next hE => exact hm _ rfl rfl l hl hE.1
    · rfl

/-- A P-form compare whose meaning `run` is a `predicateOp` completes with any description of its condition. -/
theorem completesP_of_predicateOp {i : PForm → Instr} {op val : Nat → Word → Word → Bool}
    (run : PForm → State → Out) (hx : ∀ f s, exec (i f) s = run f s)
    (hr : ∀ f s, run f s = predicateOp s (i f) f.sw f.g (if f.e.val = 1 then { v := [f.a], s := [f.b] } else { v := [f.a, f.b] })
      f.p fun g l => op f.c (g.readV l f.a) (g.opb f.e f.b l))
    (h : ∀ c < 8, ∀ x y, op c x y = val c x y) : CompletesP i val := by
  intro f s gid pc g hi hw hu
  have he : (if f.e.val = 1 then ({ v := [f.a], s := [f.b] } : Uses) else { v := [f.a, f.b] }) =
      if f.e = 1 then { v := [f.a], s := [f.b] } else { v := [f.a, f.b] } := if_congr (Fin.ext_iff (b := 1)).symm rfl rfl
  rw [hx, hr, predicateOp, he]
  refine laneIssue_pred_completes hi _ _ _ _ _ _ (issueFault_none hw rfl hu) fun it hg hE l hl hl' => ?_
  rw [getLsbD_maskOf, hg, decide_eq_true hl, hl', Bool.true_and, Bool.true_and]
  exact h f.c f.c.isLt _ _

end Sys2Proof.Machine
end

section
/-!
SUPPORT. The integer operations of the lanes as arithmetic on integers (R99, R102 to R104, R106), and the statements on integer, shift, count and
compare instructions.
-/
namespace Sys2Proof.Machine
open Sys2Proof

/-! ### Clamps and products (R99, R102) -/

/-- The clamp of R99 as the statements write it. -/
theorem clampS_eq (n : Nat) (z : Int) : clampS n z = max (-2 ^ (n - 1)) (min (2 ^ (n - 1) - 1) z) := by
  have h : (1 : Int) ≤ 2 ^ (n - 1) := one_le_pow₀ (by norm_num)
  unfold clampS
  push_cast
  generalize (2 : Int) ^ (n - 1) = b at *
  omega

/-- The high half of a 64-bit number. -/
theorem setWidth_ushiftRight_32 (p : DWord) : (p >>> 32).setWidth 32 = BitVec.ofInt 32 (p.toInt / 2 ^ 32) := by
  apply BitVec.eq_of_toNat_eq
  have hp := p.isLt
  rw [BitVec.toNat_setWidth, BitVec.toNat_ushiftRight, Nat.shiftRight_eq_div_pow, BitVec.toNat_ofInt, BitVec.toInt_eq_toNat_cond]
  split <;> omega

/-- Sign extension makes the 64-bit product of two words exact. -/
theorem toInt_signExtend_mul (x y : Word) : (x.signExtend 64 * y.signExtend 64).toInt = x.toInt * y.toInt := by
  have hx := x.toInt_lt; have hx' := x.le_toInt; have hy := y.toInt_lt; have hy' := y.le_toInt
  have habs : |x.toInt * y.toInt| ≤ 2 ^ 31 * 2 ^ 31 := by
    rw [abs_mul]
    exact mul_le_mul (abs_le.mpr ⟨by omega, by omega⟩) (abs_le.mpr ⟨by omega, by omega⟩) (abs_nonneg _) (by norm_num)
  obtain ⟨hlo, hhi⟩ := abs_le.mp habs
  rw [BitVec.toInt_mul, BitVec.toInt_signExtend_of_le (by decide), BitVec.toInt_signExtend_of_le (by decide)]
  exact Int.bmod_eq_of_le (by omega) (by omega)

theorem sminBv_eq_ofInt (x y : Word) : sminBv x y = BitVec.ofInt 32 (min x.toInt y.toInt) := by
  unfold sminBv
  simp only [BitVec.slt_eq_decide, decide_eq_true_eq]
  split
  · next h => rw [min_eq_right h.le, BitVec.ofInt_toInt]
  · next h => rw [min_eq_left (not_lt.mp h), BitVec.ofInt_toInt]

theorem smaxBv_eq_ofInt (x y : Word) : smaxBv x y = BitVec.ofInt 32 (max x.toInt y.toInt) := by
  unfold smaxBv
  simp only [BitVec.slt_eq_decide, decide_eq_true_eq]
  split
  · next h => rw [max_eq_right h.le, BitVec.ofInt_toInt]
  · next h => rw [max_eq_left (not_lt.mp h), BitVec.ofInt_toInt]

theorem add_eq_ofInt (x y : Word) : x + y = BitVec.ofInt 32 (x.toInt + y.toInt) := by
  rw [BitVec.ofInt_add, BitVec.ofInt_toInt, BitVec.ofInt_toInt]

theorem mul_eq_ofInt (x y : Word) : x * y = BitVec.ofInt 32 (x.toInt * y.toInt) := by
  rw [BitVec.ofInt_mul, BitVec.ofInt_toInt, BitVec.ofInt_toInt]

theorem sub_eq_ofInt (x y : Word) : x - y = BitVec.ofInt 32 (x.toInt - y.toInt) := by
  rw [sub_eq_add_neg, Int.sub_eq_add_neg, BitVec.ofInt_add, BitVec.ofInt_neg, BitVec.ofInt_toInt, BitVec.ofInt_toInt]

/-- Settles O1: each instruction runs as a vector operation whose word operation is the stated one on integers. -/
theorem laneIntegerAndLogicResults : Obligations.LaneIntegerAndLogicResults := by
  unfold Obligations.LaneIntegerAndLogicResults
  refine ⟨completesR_of_alu execIadd (fun _ _ => rfl) (fun _ _ => rfl) fun x y _ => add_eq_ofInt x y,
    completesR_of_alu execIsub (fun _ _ => rfl) (fun _ _ => rfl) fun x y _ => sub_eq_ofInt x y,
    completesR_of_alu execIadds (fun _ _ => rfl) (fun _ _ => rfl) fun _ _ _ => congrArg _ (clampS_eq 32 _),
    completesR_of_alu execIsubs (fun _ _ => rfl) (fun _ _ => rfl) fun _ _ _ => congrArg _ (clampS_eq 32 _),
    completesR_of_alu execImul (fun _ _ => rfl) (fun _ _ => rfl) fun x y _ => mul_eq_ofInt x y,
    completesR_of_alu execImulh (fun _ _ => rfl) (fun _ _ => rfl) fun x y _ => ?imulh,
    completesR_of_alu execImad (fun _ _ => rfl) (fun _ _ => rfl) fun x y d => ?imad,
    completesR_of_alu execImin (fun _ _ => rfl) (fun _ _ => rfl) fun x y _ => sminBv_eq_ofInt x y,
    completesR_of_alu execImax (fun _ _ => rfl) (fun _ _ => rfl) fun x y _ => smaxBv_eq_ofInt x y,
    completesR_of_alu execAndI (fun _ _ => rfl) (fun _ _ => rfl) fun _ _ _ => rfl,
    completesR_of_alu execOrI (fun _ _ => rfl) (fun _ _ => rfl) fun _ _ _ => rfl,
    completesR_of_alu execXorI (fun _ _ => rfl) (fun _ _ => rfl) fun _ _ _ => rfl,
    completesR_of_alu execAndn (fun _ _ => rfl) (fun _ _ => rfl) fun _ _ _ => rfl, fun f => ?movl⟩
  case imulh => rw [setWidth_ushiftRight_32, toInt_signExtend_mul]
  case imad => rw [mul_eq_ofInt, BitVec.ofInt_add, BitVec.ofInt_toInt]
  case movl =>
    exact completesVec_of_exec (fun _ => true) _ (execMovl f) (fun _ => rfl) (fun _ => rfl) (fun _ _ _ _ _ _ => rfl)
      fun _ _ _ _ _ _ _ _ => rfl

/-! ### Shifts (R103) -/

theorem shlAll_eq_ofNat (x : Word) (n : Nat) : shlAll x n = BitVec.ofNat 32 (x.toNat * 2 ^ n) := by
  unfold shlAll
  split
  · next h =>
    obtain ⟨k, rfl⟩ := Nat.exists_eq_add_of_le h
    apply BitVec.eq_of_toNat_eq
    rw [BitVec.toNat_ofNat, BitVec.toNat_ofNat, Nat.pow_add, Nat.mul_left_comm, Nat.mul_mod_right, Nat.zero_mod]
  · exact BitVec.eq_of_toNat_eq (by rw [BitVec.toNat_shiftLeft, BitVec.toNat_ofNat, Nat.shiftLeft_eq])

theorem shrAll_eq_ofNat (x : Word) (n : Nat) : shrAll x n = BitVec.ofNat 32 (x.toNat / 2 ^ n) := by
  apply BitVec.eq_of_toNat_eq
  have hx : x.toNat / 2 ^ n < 2 ^ 32 := (Nat.div_le_self ..).trans_lt x.isLt
  unfold shrAll
  rw [BitVec.toNat_ofNat, Nat.mod_eq_of_lt hx]
  split
  · next h => rw [BitVec.toNat_ofNat, Nat.div_eq_of_lt (x.isLt.trans_le (Nat.pow_le_pow_right two_pos h)), Nat.zero_mod]
  · rw [BitVec.toNat_ushiftRight, Nat.shiftRight_eq_div_pow]

/-- An integer between -2^31 and 2^31 over a power of two from 2^31 on is its sign. -/
theorem toInt_div_two_pow_of_le (x : Word) {n : Nat} (h : 32 ≤ n) : x.toInt / 2 ^ n = if x.toInt < 0 then -1 else 0 := by
  have hx := x.toInt_lt; have hx' := x.le_toInt
  have hp : (2 : Int) ^ 32 ≤ 2 ^ n := pow_le_pow_right₀ (by norm_num) h
  split
  · next hneg => exact Int.ediv_eq_neg_one_of_neg_of_le hneg (by omega)
  · next hpos => exact Int.ediv_eq_zero_of_lt (by omega) (by omega)

theorem sraAll_eq_ofInt (x : Word) (n : Nat) : sraAll x n = BitVec.ofInt 32 (x.toInt / 2 ^ n) := by
  unfold sraAll
  split
  · next h =>
    simp only [toInt_div_two_pow_of_le x h, BitVec.msb_eq_toInt, decide_eq_true_eq]
    split <;> rfl
  · apply BitVec.eq_of_toInt_eq
    rw [BitVec.toInt_sshiftRight, Int.shiftRight_eq_div_pow, BitVec.toInt_ofInt]
    have hx := x.toInt_lt; have hx' := x.le_toInt
    have hp : (0 : Int) < 2 ^ n := by positivity
    have hle : x.toInt / 2 ^ n ≤ max x.toInt 0 := by
      rcases le_total 0 x.toInt with h0 | h0
      · exact (Int.ediv_le_self _ h0).trans (le_max_left ..)
      · have h1 : x.toInt / 2 ^ n < 1 := (Int.ediv_lt_iff_lt_mul hp).mpr (by omega)
        omega
    have hge : min x.toInt 0 ≤ x.toInt / 2 ^ n := by
      rw [Int.le_ediv_iff_mul_le hp]
      rcases le_total 0 x.toInt with h0 | h0
      · rw [min_eq_right h0]; omega
      · rw [min_eq_left h0]; nlinarith
    rw [Int.bmod_eq_of_le (by omega) (by omega)]
    norm_cast

/-- Settles O2: the model's shifts are those of integers for every amount. -/
theorem laneShiftResults : Obligations.LaneShiftResults := by
  unfold Obligations.LaneShiftResults
  intro left right signed
  refine ⟨completesR_of_alu execShl (fun _ _ => rfl) (fun _ _ => rfl) fun x y _ => shlAll_eq_ofNat x y.toNat,
    completesR_of_alu execShr (fun _ _ => rfl) (fun _ _ => rfl) fun x y _ => shrAll_eq_ofNat x y.toNat,
    completesR_of_alu execSra (fun _ _ => rfl) (fun _ _ => rfl) fun x y _ => sraAll_eq_ofInt x y.toNat,
    completesI6_of_aluImm execShli (fun _ _ => rfl) (fun _ _ => rfl) fun x n => shlAll_eq_ofNat x n,
    completesI6_of_aluImm execShri (fun _ _ => rfl) (fun _ _ => rfl) fun x n => shrAll_eq_ofNat x n,
    completesI6_of_aluImm execSrai (fun _ _ => rfl) (fun _ _ => rfl) fun x n => sraAll_eq_ofInt x n, fun x n hn => ⟨?_, ?_, ?_⟩⟩
  · exact (shlAll_eq_ofNat x n).symm.trans (if_pos hn)
  · exact (shrAll_eq_ofNat x n).symm.trans (if_pos hn)
  · simp only [signed]
    rw [toInt_div_two_pow_of_le x hn]
    split <;> rfl

/-! ### Counts (R102) -/

theorem popCount_eq_card (x : Word) : popCount x = BitVec.ofNat 32 (Finset.univ.filter fun i : Fin 32 => x.getLsbD i = true).card := by
  rw [popCount, ← List.map_coe_finRange_eq_range, List.countP_map, List.countP_eq_length_filter]
  change _ = BitVec.ofNat 32 ((List.finRange 32).filter fun i : Fin 32 => decide (x.getLsbD i = true)).length
  simp [Function.comp_def]

/-- Leading zeros of a word, as a number. -/
def leadingZerosNat (x : Word) : Nat := if x = 0#32 then 32 else 31 - Nat.log2 x.toNat

theorem leadingZeros_eq_ofNat (x : Word) : leadingZeros x = BitVec.ofNat 32 (leadingZerosNat x) := by
  unfold leadingZeros leadingZerosNat; split <;> rfl

/-- The leading zeros of a word are what its size says. -/
theorem leadingZerosNat_spec (x : Word) :
    leadingZerosNat x ≤ 32 ∧ x.toNat < 2 ^ (32 - leadingZerosNat x) ∧ (leadingZerosNat x < 32 → 2 ^ (31 - leadingZerosNat x) ≤ x.toNat) := by
  unfold leadingZerosNat
  split
  · next h => subst h; decide
  · next h =>
    have h0 : x.toNat ≠ 0 := fun h0 => h (BitVec.eq_of_toNat_eq h0)
    have hlog : Nat.log2 x.toNat < 32 := (Nat.log2_lt h0).mpr x.isLt
    have h1 : 32 - (31 - Nat.log2 x.toNat) = Nat.log2 x.toNat + 1 := by omega
    have h2 : 31 - (31 - Nat.log2 x.toNat) = Nat.log2 x.toNat := by omega
    rw [h1, h2]
    exact ⟨by omega, Nat.lt_log2_self, fun _ => Nat.log2_self_le h0⟩

/-! ### The pair sum (R106) -/

/-- The registers that `iaddw` names are even. -/
theorem iaddw_wf_iff (f : RForm) : (Instr.iaddw f).wf = true ↔ f.d.val % 2 = 0 ∧ f.a.val % 2 = 0 ∧ f.b.val % 2 = 0 := by
  change (f.d.val % 2 == 0 && f.a.val % 2 == 0 && f.b.val % 2 == 0) = true ↔ _
  simp only [Bool.and_eq_true, beq_iff_eq, and_assoc]

theorem add_eq_ofNat (x y : DWord) : x + y = BitVec.ofNat 64 (x.toNat + y.toNat) := by
  rw [BitVec.ofNat_add, BitVec.ofNat_toNat, BitVec.ofNat_toNat, BitVec.setWidth_eq, BitVec.setWidth_eq]

/-! ### Conditions (R104, R110) -/

/-- A comparison of values answers -1, 0 or 1. -/
theorem FVal.cmp_cases (x y : FVal) : x.cmp y = -1 ∨ x.cmp y = 0 ∨ x.cmp y = 1 := by
  unfold FVal.cmp
  split <;> grind

/-- Settles O3: counts by their definitions, the pair sum as a number, and the conditions number by number. -/
theorem laneCountPairAddAndCompareResults : Obligations.LaneCountPairAddAndCompareResults := by
  unfold Obligations.LaneCountPairAddAndCompareResults
  refine ⟨completesR1_of_alu1 execPopc (fun _ _ => rfl) (fun _ _ => rfl) popCount_eq_card,
    ⟨leadingZerosNat, completesR1_of_alu1 execClz (fun _ _ => rfl) (fun _ _ => rfl) leadingZeros_eq_ofNat, leadingZerosNat_spec⟩,
    fun f => ?iaddw, completesP_of_predicateOp execIcmp (fun _ _ => rfl) (fun _ _ => rfl) fun c hc x y => ?icmp,
    completesP_of_predicateOp (op := fun c x y => fcond c x.toNat y.toNat) execFcmp (fun _ _ => rfl) (fun _ _ => rfl)
      fun c hc x y => ?fcmp, by decide⟩
  case iaddw =>
    have he : f.e.val = 1 ↔ f.e = 1 := (Fin.ext_iff (b := 1)).symm
    refine completesPair_of_exec (fun _ => true)
      (fun _ g l => g.readV64 l f.a + (if f.e.val = 1 then g.sreg64 f.b else g.readV64 l f.b)) (execIaddw f) (fun _ => rfl)
      (fun s => congrArg (vectorOp64 s _ _ _ _ · _ _ _ _) (if_congr he rfl rfl)) (fun hw => ?_) (fun _ _ _ _ _ _ => rfl)
      fun s gid pc g _ _ l _ => ?_
    · exact ((iaddw_wf_iff f).mp hw).1
    · rw [if_congr he rfl rfl]
      exact add_eq_ofNat _ _
  case icmp =>
    interval_cases c <;>
      simp [icond, BitVec.slt_eq_decide, BitVec.sle_eq_decide, BitVec.ult_eq_decide, BitVec.ule_eq_decide] <;> rfl
  case fcmp =>
    unfold fcond
    dsimp only
    cases isNan32 x.toNat || isNan32 y.toNat
    · rcases FVal.cmp_cases (fp32.val x.toNat) (fp32.val y.toNat) with h | h | h <;> rw [h] <;> interval_cases c <;> rfl
    · interval_cases c <;> rfl

end Sys2Proof.Machine
end

section
/-!
SUPPORT. The lanes' floating point and conversion instructions as the statements describe them: packed halves, rounding modes, format slots,
sign extension and bit planes (R75 to R78, R84, R85, R107 to R116).
-/
namespace Sys2Proof.Machine
open Sys2Proof

/-! ### The size of a rounded result -/

theorem FFmt.infBits_lt (f : FFmt) (neg : Bool) : f.infBits neg < 2 ^ (f.ebits + f.fbits + 1) := by
  have h : f.emax * 2 ^ f.fbits < 2 ^ (f.ebits + f.fbits) := by
    rw [Nat.pow_add]
    exact Nat.mul_lt_mul_of_pos_right (Nat.sub_lt (Nat.two_pow_pos _) one_pos) (Nat.two_pow_pos _)
  unfold FFmt.infBits
  rw [Nat.pow_succ]
  split <;> omega

theorem FFmt.nanBits_lt (f : FFmt) : f.nanBits < 2 ^ (f.ebits + f.fbits + 1) := by
  have h : (f.emax + 1) * 2 ^ f.fbits = 2 ^ (f.ebits + f.fbits) := by
    rw [FFmt.emax, Nat.sub_add_cancel (Nat.two_pow_pos _), Nat.pow_add]
  have h1 : 2 ^ (f.fbits - 1) ≤ 2 ^ f.fbits := Nat.pow_le_pow_right two_pos (Nat.sub_le ..)
  have h2 := Nat.two_pow_pos (f.ebits + f.fbits)
  rw [Nat.add_mul, one_mul] at h
  unfold FFmt.nanBits
  rw [Nat.pow_succ]
  omega

theorem FFmt.overflow_lt (f : FFmt) (mode : RMode) (neg : Bool) : f.overflow mode neg < 2 ^ (f.ebits + f.fbits + 1) := by
  have hi := f.infBits_lt
  have hm : ∀ n, f.maxBits n < 2 ^ (f.ebits + f.fbits + 1) := fun n => (Nat.sub_le ..).trans_lt (hi n)
  unfold FFmt.overflow
  split <;> simp only [hi, hm]

theorem FFmt.round_lt (f : FFmt) (mode : RMode) (neg : Bool) (m : Nat) (e : Int) : f.round mode neg m e < 2 ^ (f.ebits + f.fbits + 1) := by
  have hinf : f.infBits false ≤ 2 ^ (f.ebits + f.fbits) := by
    unfold FFmt.infBits
    rw [Nat.pow_add]
    exact Nat.mul_le_mul_right _ (Nat.sub_le ..)
  have hs : (if neg then 2 ^ (f.ebits + f.fbits) else 0) ≤ 2 ^ (f.ebits + f.fbits) := by split <;> omega
  have hp := Nat.two_pow_pos (f.ebits + f.fbits)
  unfold FFmt.round
  dsimp only
  split
  · rw [Nat.pow_succ]; omega
  · generalize (_ : Nat) * 2 ^ f.fbits + _ = enc
    split
    · exact f.overflow_lt mode neg
    · rw [Nat.pow_succ]; omega

/-- A value's bits fit their format. -/
theorem FFmt.bitsOf_lt (f : FFmt) (mode : RMode) (v : FVal) : f.bitsOf mode v < 2 ^ (f.ebits + f.fbits + 1) := by
  cases v with
  | nan => exact f.nanBits_lt
  | inf n => exact f.infBits_lt n
  | fin n m e => exact f.round_lt mode n m e

/-! ### Two values in one word -/

/-- Two numbers side by side. -/
theorem ofNat_add_two_pow_mul (n lo hi : Nat) (h : lo < 2 ^ n) :
    BitVec.ofNat (n + n) (lo + 2 ^ n * hi) = BitVec.ofNat n hi ++ BitVec.ofNat n lo := by
  apply BitVec.eq_of_toNat_eq
  rw [BitVec.toNat_append, BitVec.toNat_ofNat, BitVec.toNat_ofNat, BitVec.toNat_ofNat, Nat.mod_eq_of_lt h, Nat.shiftLeft_eq,
    Nat.mul_comm (hi % 2 ^ n), ← Nat.two_pow_add_eq_or_of_lt h, Nat.pow_add, Nat.mod_mul, Nat.add_mul_mod_self_left, Nat.mod_eq_of_lt h,
    Nat.add_mul_div_left _ _ (Nat.two_pow_pos n), Nat.div_eq_of_lt h, Nat.zero_add, Nat.add_comm]

/-- A packed instruction acts on its halves independently (R77). -/
theorem packed_eq_append {f : Nat → Nat → Nat → Nat} (hf : ∀ a b c, f a b c < 2 ^ 16) (x y z : Word) :
    packed f x y z = BitVec.ofNat 16 (f (bits x.toNat 31 16) (bits y.toNat 31 16) (bits z.toNat 31 16)) ++
      BitVec.ofNat 16 (f (bits x.toNat 15 0) (bits y.toNat 15 0) (bits z.toNat 15 0)) :=
  ofNat_add_two_pow_mul 16 _ _ (hf ..)

/-- Settles O4: the model rounds the exact result once, and its halves do not meet. -/
theorem laneFloatResults : Obligations.LaneFloatResults := by
  unfold Obligations.LaneFloatResults
  intro one two sum product fused
  refine ⟨completesR_of_alu execFadd (fun _ _ => rfl) (fun _ _ => rfl) fun _ _ _ => rfl,
    completesR_of_alu execFsub (fun _ _ => rfl) (fun _ _ => rfl) fun _ _ _ => rfl,
    completesR_of_alu execFmul (fun _ _ => rfl) (fun _ _ => rfl) fun _ _ _ => rfl,
    completesR_of_alu execFfma (fun _ _ => rfl) (fun _ _ => rfl) fun _ _ _ => rfl,
    completesR_of_alu execFmin (fun _ _ => rfl) (fun _ _ => rfl) fun _ _ _ => ?fmin,
    completesR_of_alu execFmax (fun _ _ => rfl) (fun _ _ => rfl) fun _ _ _ => ?fmax,
    completesR_of_alu execHadd (fun _ _ => rfl) (fun _ _ => rfl) (packed_eq_append fun _ _ _ => fp16.bitsOf_lt _ _),
    completesR_of_alu execHmul (fun _ _ => rfl) (fun _ _ => rfl) (packed_eq_append fun _ _ _ => fp16.bitsOf_lt _ _),
    completesR_of_alu execHfma (fun _ _ => rfl) (fun _ _ => rfl) (packed_eq_append fun _ _ _ => fp16.bitsOf_lt _ _),
    completesR_of_alu execBadd (fun _ _ => rfl) (fun _ _ => rfl) (packed_eq_append fun _ _ _ => bf16.bitsOf_lt _ _),
    completesR_of_alu execBmul (fun _ _ => rfl) (fun _ _ => rfl) (packed_eq_append fun _ _ _ => bf16.bitsOf_lt _ _),
    completesR_of_alu execBfma (fun _ _ => rfl) (fun _ _ => rfl) (packed_eq_append fun _ _ _ => bf16.bitsOf_lt _ _)⟩
  case fmin => simp only [onNat, fmin32, Bool.and_eq_true]; rfl
  case fmax => simp only [onNat, fmax32, Bool.and_eq_true]; rfl

/-! ### Slots and modes (R84, R90, R111) -/

/-- The slot that the current group's instruction names is the group's. -/
theorem Issues.curSlot {s : State} {gid : Nat} {pc : DWord} {g : Group} {sw : Fin 2} (h : Issues s gid pc g sw) (n : Nat) :
    s.curSlot n = s.slot g n := by
  simp only [State.curSlot, h.cur, h.here]

/-- A vector operation that names a slot completes where the slot is accepted, with the values that the slot gives. -/
theorem completesVec_of_slot {i : Instr} {sw : Fin 2} {gd : Fin 8} {len : Nat} {u : Uses} {t : Fin 2} {d : Fin 64}
    {slots : State → Group → Prop} {val : State → Group → Nat → Word} (n : Fin 8) (ok : BitVec 128 → Bool)
    (f : BitVec 128 → Group → Nat → Word) (run : State → Out) (hx : ∀ s, exec i s = run s)
    (hr : ∀ s, run s = vectorOp s i sw gd len u (ok (s.curSlot n)) t d (f (s.curSlot n)))
    (hok : ∀ s g, slots s g → ok (s.slot g n) = true) (hv : ∀ s g, slots s g → ∀ l < 32, f (s.slot g n) g l = val s g l) :
    CompletesVec i sw gd len u t d slots val :=
  completesVec_of_exec (fun s => ok (s.curSlot n)) (fun s => f (s.curSlot n)) run hx hr
    (fun s _ _ g h hs => by rw [h.curSlot]; exact hok s g hs) fun s _ _ g h hs => by rw [h.curSlot]; exact hv s g hs

/-- The same for a result pair. -/
theorem completesPair_of_slot {i : Instr} {sw : Fin 2} {gd : Fin 8} {len : Nat} {u : Uses} {t : Fin 2} {d : Fin 64}
    {slots : State → Group → Prop} {val : State → Group → Nat → DWord} (n : Fin 8) (ok : BitVec 128 → Bool)
    (f : BitVec 128 → Group → Nat → DWord) (run : State → Out) (hx : ∀ s, exec i s = run s)
    (hr : ∀ s, run s = vectorOp64 s i sw gd len u (ok (s.curSlot n)) t d (f (s.curSlot n))) (hd : i.wf = true → d.val % 2 = 0)
    (hok : ∀ s g, slots s g → ok (s.slot g n) = true) (hv : ∀ s g, slots s g → ∀ l < 32, f (s.slot g n) g l = val s g l) :
    CompletesPair i sw gd len u t d slots val :=
  completesPair_of_exec (fun s => ok (s.curSlot n)) (fun s => f (s.curSlot n)) run hx hr hd
    (fun s _ _ g h hs => by rw [h.curSlot]; exact hok s g hs) fun s _ _ g h hs => by rw [h.curSlot]; exact hv s g hs

theorem roundOf_eq (r : Fin 8) (x : BitVec 128) :
    roundOf r x = if r = 0 then slotMode x else if r = 1 then .rne else if r = 2 then .rz else if r = 3 then .rd else .ru := by
  fin_cases r <;> rfl

theorem halfFmt_bitsOf_lt (x : BitVec 128) (mode : RMode) (v : FVal) : (halfFmt x).bitsOf mode v < 2 ^ 16 := by
  unfold halfFmt
  split
  · exact fp16.bitsOf_lt mode v
  · exact bf16.bitsOf_lt mode v

/-! ### Sign extension (R99, R113, R115, R116) -/

/-- The sign extension of R99 reads an n-bit number as signed. -/
theorem sextInt_eq_toInt (n x : Nat) : sextInt n x = (BitVec.ofNat n x).toInt := by
  unfold sextInt
  rw [BitVec.toInt_eq_toNat_cond, BitVec.toNat_ofNat]
  cases n with
  | zero => simp [Nat.mod_one]
  | succ n =>
    have hp : 2 ^ (n + 1) = 2 * 2 ^ n := by rw [Nat.pow_succ, Nat.mul_comm]
    rw [Nat.add_sub_cancel, hp]
    split <;> split <;> first | omega | push_cast; ring

/-- icvn's wrapped value. -/
theorem ofInt_sextInt (n : Nat) (x : Word) : BitVec.ofInt 32 (sextInt n x.toNat) = (x.setWidth n).signExtend 32 := by
  rw [sextInt_eq_toInt, BitVec.ofNat_toNat]; rfl

theorem icvnVal_eq (n : Nat) (r : Fin 8) (x : Word) : icvnVal n r x =
    if r = 0 then (x.setWidth n).signExtend 32
    else if r = 1 then BitVec.ofInt 32 (max (-2 ^ (n - 1)) (min (2 ^ (n - 1) - 1) x.toInt))
    else BitVec.ofInt 32 (min (max x.toInt 0) (2 ^ n - 1)) := by
  rw [← ofInt_sextInt, ← clampS_eq]
  fin_cases r <;> rfl

/-! ### Bit planes (R114 to R116) -/

/-- A bit of bpk's word. -/
theorem getLsbD_bpkVal (p : Nat) (x : Nat → Word) (l i : Nat) (hi : i < 32) :
    (bpkVal p x l).getLsbD i =
      (decide (l < p) && (BitVec.ofInt p (max (-2 ^ (p - 1)) (min (2 ^ (p - 1) - 1) (x i).toInt))).getLsbD (p - 1 - l)) := by
  unfold bpkVal
  split
  · next h =>
    rw [getLsbD_maskOf, decide_eq_true hi, decide_eq_true h, Bool.true_and, Bool.true_and, bit_eq_testBit, wrapNat, clampS_eq,
      ← BitVec.toNat_ofInt]
    rfl
  · next h => simp [h]

/-- The number that q planes form, the top one first. -/
theorem testBit_foldl_planes (b : Nat → Bool) (q j : Nat) :
    ((List.range q).foldl (fun t j => 2 * t + (if b j then 1 else 0)) 0).testBit j = (decide (j < q) && b (q - 1 - j)) := by
  induction q generalizing j with
  | zero => simp
  | succ q ih =>
    rw [List.range_succ, List.foldl_append, List.foldl_cons, List.foldl_nil]
    cases j with
    | zero => cases h : b q <;> simp [h, Nat.testBit_zero]
    | succ j =>
      have hdiv : ∀ t, (2 * t + (if b q then 1 else 0)) / 2 = t := fun t => by split <;> omega
      rw [Nat.testBit_succ, hdiv, ih]
      have : q - 1 - j = q + 1 - 1 - (j + 1) := by omega
      simp [this]

/-- The same as a bit vector. -/
theorem ofNat_foldl_planes (b : Nat → Bool) (q : Nat) :
    BitVec.ofNat q ((List.range q).foldl (fun t j => 2 * t + (if b j then 1 else 0)) 0) = BitVec.ofFnLE fun j : Fin q => b (q - 1 - j) := by
  ext j hj
  rw [← BitVec.getLsbD_eq_getElem, ← BitVec.getLsbD_eq_getElem, BitVec.getLsbD_ofNat, testBit_foldl_planes, BitVec.getLsbD_ofFnLE]
  simp [hj]

/-- The top q bits of a p-bit pattern are the floor of its signed value over 2^(p-q). -/
theorem sextInt_top (p q : Nat) (hq : 1 ≤ q) (hqp : q ≤ p) (x : Nat) :
    sextInt q (x % 2 ^ p / 2 ^ (p - q)) = (BitVec.ofNat p x).toInt / 2 ^ (p - q) := by
  obtain ⟨r, rfl⟩ := Nat.exists_eq_add_of_le' hq
  obtain ⟨k, rfl⟩ := Nat.exists_eq_add_of_le hqp
  have hk : r + 1 + k - (r + 1) = k := by omega
  have hr : r + 1 + k - 1 = r + k := by omega
  have hlt : x % 2 ^ (r + 1 + k) / 2 ^ k < 2 ^ (r + 1) :=
    (Nat.div_lt_iff_lt_mul (Nat.two_pow_pos k)).mpr (Nat.pow_add .. ▸ Nat.mod_lt _ (Nat.two_pow_pos _))
  rw [← sextInt_eq_toInt, hk, sextInt, sextInt, Nat.mod_eq_of_lt hlt, hr, Nat.add_sub_cancel,
    if_congr (Nat.div_lt_iff_lt_mul (Nat.two_pow_pos k)) rfl rfl, ← Nat.pow_add]
  split
  · push_cast; rfl
  · have h : ((x % 2 ^ (r + 1 + k) : Nat) : Int) - 2 ^ (r + 1 + k) = (x % 2 ^ (r + 1 + k) : Nat) + -2 ^ (r + 1) * 2 ^ k := by
      rw [pow_add]; ring
    rw [h, Int.add_mul_ediv_right _ _ (by positivity)]
    push_cast
    ring

/-- A value of planes with the centre written as in R115. -/
theorem bpVal_eq (p q : Nat) (centre : Bool) (t : Nat) :
    bpVal p q centre t = sextInt q t * 2 ^ (p - q) + (if centre ∧ q < p then 2 ^ (p - q - 1) else 0) := by
  simp [bpVal]

/-- Settles O6: slots and modes are read as the statement reads them, and each conversion is its description bit for bit. -/
theorem laneConversionResults : Obligations.LaneConversionResults := by
  unfold Obligations.LaneConversionResults
  intro mode halfType half planes prefixValue
  have hmode : ∀ (r : Fin 8) (x : BitVec 128), roundOf r x = mode r x := roundOf_eq
  have hprefix : ∀ p q c t, bpVal p q c t = prefixValue p q c (sextInt q t) := bpVal_eq
  have hround : ∀ (r : Fin 8) (x : BitVec 128), (r = 0 → slotType x ≠ 0) → (decide (r.val ≠ 0) || decide (slotType x ≠ 0)) = true :=
    fun r x h => by
      rw [Bool.or_eq_true, decide_eq_true_eq, decide_eq_true_eq, or_iff_not_imp_left, not_ne_iff]
      exact fun h0 => h (Fin.ext h0)
  refine ⟨fun f => ?icvf, fun f => ?fcvi, fun f => ?fcvh, fun f => ?hcvf, fun f => ?icvn, fun f => ?bpk, fun f => ?bunpk, fun f => ?bpsel⟩
  case icvf =>
    refine completesVec_of_slot f.f (fun x => f.r.val ≠ 0 || slotType x ≠ 0)
      (fun x g l => BitVec.ofNat 32 (icvf32 (roundOf f.r x) (g.readV l f.a).toInt)) (execIcvf f) (fun _ => rfl) (fun _ => rfl)
      (fun s g hs => hround f.r _ hs) fun s g _ l _ => ?_
    rw [hmode]; rfl
  case fcvi =>
    refine completesVec_of_slot f.f (fun x => f.r.val ≠ 0 || slotType x ≠ 0)
      (fun x g l => BitVec.ofInt 32 (fcvi32 (roundOf f.r x) (g.readV l f.a).toNat)) (execFcvi f) (fun _ => rfl) (fun _ => rfl)
      (fun s g hs => hround f.r _ hs) fun s g _ l _ => ?_
    rw [hmode]
    unfold fcvi32
    rcases fp32.val (g.readV l f.a).toNat with _ | n | ⟨n, m, e⟩
    · rfl
    · cases n <;> rfl
    · exact congrArg _ (clampS_eq 32 _)
  case fcvh =>
    refine completesVec_of_slot f.f (fun x => slotType x = 2 || slotType x = 3)
      (fun x g l => BitVec.ofNat 32 (fconv fp32 (halfFmt x) (roundOf f.r x) (g.readV l f.a).toNat
        + 65536 * fconv fp32 (halfFmt x) (roundOf f.r x) (g.readV l (f.a + 1)).toNat))
      (execFcvh f) (fun _ => rfl) (fun _ => rfl) (fun s g hs => by simpa using hs) fun s g _ l _ => ?_
    rw [hmode]
    exact ofNat_add_two_pow_mul 16 _ _ (halfFmt_bitsOf_lt ..)
  case hcvf =>
    refine completesPair_of_slot f.f (fun x => slotType x = 2 || slotType x = 3)
      (fun x g l => BitVec.ofNat 64 (fconv (halfFmt x) fp32 .rne (bits (g.readV l f.a).toNat 15 0)
        + 2 ^ 32 * fconv (halfFmt x) fp32 .rne (bits (g.readV l f.a).toNat 31 16)))
      (execHcvf f) (fun _ => rfl) (fun _ => rfl) (fun hw => beq_iff_eq.mp hw) (fun s g hs => by simpa using hs) fun s g _ l _ => ?_
    exact ofNat_add_two_pow_mul 32 _ _ (fp32.bitsOf_lt ..)
  case icvn =>
    refine completesVec_of_slot f.f (fun x => slotType x = 4 || slotType x = 5)
      (fun x g l => icvnVal (if slotType x = 4 then 8 else 16) f.r (g.readV l f.a))
      (execIcvn f) (fun _ => rfl) (fun _ => rfl) (fun s g hs => by simpa using hs) fun s g _ l _ => ?_
    exact icvnVal_eq _ _ _
  case bpk =>
    refine completesVec_of_slot f.f (fun x => slotType x = 0x10) (fun x g l => bpkVal (slotPst x) (fun i => g.readV i f.a) l)
      (execBpk f) (fun _ => rfl) (fun _ => rfl) (fun s g hs => decide_eq_true hs) fun s g _ l _ => ?_
    ext i hi
    rw [← BitVec.getLsbD_eq_getElem, getLsbD_bpkVal _ _ _ _ hi, BitVec.getElem_ofFnLE]
  case bunpk =>
    refine completesVec_of_slot f.f (fun x => slotType x = 0x10)
      (fun x g l => BitVec.ofInt 32 (bpVal (slotPst x) (slotPrd x) (slotCentre x)
        ((List.range (slotPrd x)).foldl (fun t j => 2 * t + (if (g.readV j f.a).getLsbD l then 1 else 0)) 0)))
      (execBunpk f) (fun _ => rfl) (fun _ => rfl) (fun s g hs => decide_eq_true hs.1) fun s g _ l _ => ?_
    rw [hprefix, sextInt_eq_toInt, ofNat_foldl_planes fun j => (g.readV j f.a).getLsbD l]
  case bpsel =>
    refine completesVec_of_slot f.f (fun x => slotType x = 0x10)
      (fun x g l => BitVec.ofInt 32 (bpVal (slotPst x) (slotPrd x) (slotCentre x)
        ((g.readV l f.a).toNat % 2 ^ slotPst x / 2 ^ (slotPst x - slotPrd x))))
      (execBpsel f) (fun _ => rfl) (fun _ => rfl) (fun s g hs => decide_eq_true hs.1) fun s g hs l _ => ?_
    obtain ⟨-, hq, hqp⟩ := hs
    rw [hprefix, sextInt_top _ _ hq hqp, BitVec.ofNat_toNat]

end Sys2Proof.Machine
end

section
/-!
SUPPORT. What the control instructions of the lanes share: folds over the lanes of a mask, what the issue leaves of a group, execution faults that
no lane raises or that some lane raises, branch targets (R14, R45, R98, R100, R117 to R119).
-/
namespace Sys2Proof.Machine
open Sys2Proof

/-! ### Folds over lanes -/

/-- What every step of a fold leaves alone the fold leaves alone. -/
theorem foldl_keeps {α β γ : Type} (view : α → γ) (F : α → β → α) (L : List β) (h : ∀ a, ∀ b ∈ L, view (F a b) = view a) (a : α) :
    view (L.foldl F a) = view a := by
  induction L generalizing a with
  | nil => rfl
  | cons b L ih =>
    rw [List.foldl_cons, ih fun a b hb => h a b (List.mem_cons_of_mem _ hb), h a b List.mem_cons_self]

/-- A fold whose steps change one key each reads as one step at the keys of the list. -/
theorem foldl_reads {α β : Type} (read : α → Nat → β) (F : α → Nat → α) (new : Nat → β → β) {L : List Nat} (hL : L.Nodup)
    (h : ∀ a, ∀ l ∈ L, ∀ k, read (F a l) k = if k = l then new l (read a l) else read a k) (a : α) (k : Nat) :
    read (L.foldl F a) k = if k ∈ L then new k (read a k) else read a k := by
  induction L generalizing a with
  | nil => simp
  | cons b L ih =>
    obtain ⟨hb, hL⟩ := List.nodup_cons.mp hL
    rw [List.foldl_cons, ih hL fun a l hl => h a l (List.mem_cons_of_mem _ hl), h a b List.mem_cons_self]
    by_cases hk : k = b
    · subst hk; simp [hb]
    · simp [hk]

/-- Two folds agree where their steps agree on what earlier steps leave alone. -/
theorem foldl_eq_of_nodup {α : Type} (F F' : α → Nat → α) (P : α → Nat → Prop) (hF : ∀ a l, P a l → F a l = F' a l)
    (hP : ∀ a l k, k ≠ l → P a k → P (F' a l) k) {L : List Nat} (hL : L.Nodup) (a : α) (ha : ∀ l ∈ L, P a l) :
    L.foldl F a = L.foldl F' a := by
  induction L generalizing a with
  | nil => rfl
  | cons b L ih =>
    obtain ⟨hb, hL⟩ := List.nodup_cons.mp hL
    rw [List.foldl_cons, List.foldl_cons, hF a b (ha b List.mem_cons_self)]
    exact ih hL _ fun l hl => hP a b l (fun h => hb (h ▸ hl)) (ha l (List.mem_cons_of_mem _ hl))

/-- The lowest lane of a mask comes first. -/
theorem head?_lanesOf {m : Word} {low : Nat} : (lanesOf m).head? = some low ↔ lowestIn m low := by
  rw [lanesOf, List.head?_filter, List.find?_range_eq_some]
  constructor
  · rintro ⟨h1, -, h2⟩
    exact ⟨h1, fun k hk => by simpa using h2 k hk⟩
  · rintro ⟨h1, h2⟩
    exact ⟨h1, List.mem_range.mpr (BitVec.lt_of_getLsbD h1), fun k hk => by simpa using h2 k hk⟩

/-! ### What issuing leaves of a group (R56, R289) -/

theorem Group.ready_eq (g : Group) (pc : DWord) : g.ready pc = { g with phase := (g.ready pc).phase, waiting := (g.ready pc).waiting } := by
  unfold Group.ready; split <;> rfl

theorem Group.begun_eq (g : Group) (pc : DWord) :
    g.begun pc = { g with phase := (g.begun pc).phase, waiting := (g.begun pc).waiting, transient := (g.begun pc).transient } := by
  unfold Group.begun; rw [Group.ready_eq]; rfl

@[simp] theorem Group.begun_stackOf (g : Group) (pc : DWord) (l : Nat) : (g.begun pc).stackOf l = g.stackOf l := by rw [Group.begun_eq]; rfl
@[simp] theorem Group.begun_spillOf (g : Group) (pc : DWord) (l : Nat) : (g.begun pc).spillOf l = g.spillOf l := by rw [Group.begun_eq]; rfl
@[simp] theorem Group.begun_meetOf (g : Group) (pc : DWord) (l : Nat) : (g.begun pc).meetOf l = g.meetOf l := by rw [Group.begun_eq]; rfl
@[simp] theorem Group.begun_rejoin (g : Group) (pc : DWord) (n : Nat) : (g.begun pc).rejoin n = g.rejoin n := by rw [Group.begun_eq]; rfl
@[simp] theorem Group.begun_spilling (g : Group) (pc : DWord) : (g.begun pc).spilling = g.spilling := by rw [Group.begun_eq]
@[simp] theorem Group.begun_exited (g : Group) (pc : DWord) : (g.begun pc).exited = g.exited := by rw [Group.begun_eq]
@[simp] theorem Group.begun_helper (g : Group) (pc : DWord) : (g.begun pc).helper = g.helper := by rw [Group.begun_eq]
@[simp] theorem Group.begun_gstat (g : Group) (pc : DWord) : (g.begun pc).gstat = g.gstat := by rw [Group.begun_eq]

/-- A group that was not parked for results is not when it issues. -/
theorem Group.begun_waiting_ne {g : Group} (pc : DWord) (h : g.waiting ≠ .results) : (g.begun pc).waiting ≠ .results := by
  unfold Group.begun Group.ready
  split
  · exact nofun
  · exact h

/-- The PC of a lane after some lanes have been moved. -/
theorem Group.pcOf_setPc_laneBit (g : Group) {l : Nat} (hl : l < 32) (x : DWord) (k : Nat) :
    (g.setPc (laneBit l) x).pcOf k = if k = l then x else g.pcOf k := by
  simp only [Group.pcOf, Group.setPc]
  rw [getD_foldl_setD]
  refine if_congr ?_ rfl rfl
  rw [mem_lanesOf, getLsbD_laneBit l k hl, decide_eq_true_eq]
  exact ⟨And.right, fun h => ⟨h ▸ hl, h⟩⟩

/-- An issued lane is at P, has not exited and is not held (R98). -/
theorem Group.of_issued {g : Group} {pc : DWord} {l : Nat} (h : has (g.issued pc) l) :
    l < 32 ∧ ¬ has g.exited l ∧ g.pcOf l = pc ∧ g.holdOf l = .free := by
  simp only [has, Group.issued, getLsbD_maskOf, Bool.and_eq_true, decide_eq_true_eq, Bool.not_eq_true', beq_iff_eq] at h
  obtain ⟨hl, ⟨hx, hpc⟩, hfree⟩ := h
  exact ⟨hl, by simp [has, hx], hpc, hfree⟩

/-- An executing lane is issued (R98). -/
theorem Group.issued_of_executing {g : Group} {pc : DWord} {gd : Fin 8} {l : Nat} (h : has (g.executing pc gd) l) : has (g.issued pc) l := by
  simp only [has, Group.executing, BitVec.getLsbD_and, Bool.and_eq_true] at h
  exact h.1

/-! ### A lane-set instruction without an issue fault -/

section
variable (g : Group) (gid : Nat) (pc : DWord) (len : Nat) (gd : Fin 8)

@[simp] theorem Group.issueAt_gid : (g.issueAt gid pc len gd).gid = gid := rfl
@[simp] theorem Group.issueAt_g : (g.issueAt gid pc len gd).g = g := rfl
@[simp] theorem Group.issueAt_pc : (g.issueAt gid pc len gd).pc = pc := rfl
@[simp] theorem Group.issueAt_I : (g.issueAt gid pc len gd).I = g.issued pc := rfl
@[simp] theorem Group.issueAt_E : (g.issueAt gid pc len gd).E = g.executing pc gd := rfl
@[simp] theorem Group.issueAt_nextPc : (g.issueAt gid pc len gd).nextPc = asPc (pc + BitVec.ofNat 64 len) := rfl

end

/-- An instruction that its group may issue runs its body on the issue at P. -/
theorem Ready.runs {s : State} {gid : Nat} {pc : DWord} {g : Group} {i : Instr} {sw : Fin 2} {u : Uses} (h : Ready s gid pc g i sw u)
    (gd : Fin 8) (len : Nat) (body : Issue → State → State) :
    laneIssue s i sw gd len u true body = .next (body (g.issueAt gid pc len gd) (s.setG gid (g.begun pc))) :=
  laneIssue_runs h.toIssues i gd len u true body (issueFault_none h.formed rfl h.budget)

/-- One whose body changes the group alone sets the group to what its change makes of the begun one. -/
theorem Ready.runs_updG {s : State} {gid : Nat} {pc : DWord} {g : Group} {i : Instr} {sw : Fin 2} {u : Uses} (h : Ready s gid pc g i sw u)
    (gd : Fin 8) (len : Nat) (F : Issue → Group → Group) :
    laneIssue s i sw gd len u true (fun it s => s.updG it.gid (F it)) = .next (s.setG gid (F (g.issueAt gid pc len gd) (g.begun pc))) :=
  (h.runs gd len _).trans (congrArg Host.Outcome.next (State.updG_setG _ _ _ _ g h.here))

/-- An instruction in which no executing lane fails acts (R100). -/
theorem Issue.guarded_acts {it : Issue} {fault : Nat → Option (Nat × DWord × DWord)} (h : ∀ l < 32, has it.E l → fault l = none)
    (s0 s : State) (act : Issue → State → State) (whole : Bool) : it.guarded s0 s fault act whole = act it s := by
  have h0 : (maskOf fun l => it.E.getLsbD l && (fault l).isSome) = 0#32 := by
    ext l hl
    rw [← BitVec.getLsbD_eq_getElem, getLsbD_maskOf, decide_eq_true hl, Bool.true_and]
    by_cases hE : has it.E l
    · simp [h l hl hE]
    · simp [Bool.eq_false_iff.mpr hE]
  rw [Issue.guarded, if_pos h0]

/-- One in which some executing lane that is no helper fails raises the fault of the lowest one for all of them (R100). -/
theorem Issue.guarded_raises {it : Issue} {fault : Nat → Option (Nat × DWord × DWord)} {solid : Word} {low code : Nat} {addr detail : DWord}
    (hs : ∀ l < 32, has solid l ↔ has it.E l ∧ ¬ has it.g.helper l ∧ (fault l).isSome) (hl : lowestIn solid low)
    (hf : fault low = some (code, addr, detail)) (s0 s : State) (act : Issue → State → State) :
    it.guarded s0 s fault act = s0.raise it.gid code solid it.pc addr detail := by
  have hsolid : (maskOf fun l => it.E.getLsbD l && (fault l).isSome) &&& ~~~it.g.helper = solid := by
    ext l hl
    rw [← BitVec.getLsbD_eq_getElem, ← BitVec.getLsbD_eq_getElem, BitVec.getLsbD_and, getLsbD_maskOf, BitVec.getLsbD_not, Bool.eq_iff_iff]
    refine Iff.trans ?_ (hs l hl).symm
    simp only [has, hl, decide_true, Bool.true_and, Bool.and_eq_true, Bool.not_eq_true', Bool.not_eq_true]
    tauto
  have hne : solid ≠ 0#32 := by
    rintro rfl
    exact absurd hl.1 (by simp [has])
  have hF : (maskOf fun l => it.E.getLsbD l && (fault l).isSome) ≠ 0#32 := fun h => hne (by rw [← hsolid, h, BitVec.zero_and])
  rw [Issue.guarded]
  simp only [if_neg hF, hsolid, if_neg hne, head?_lanesOf.mpr hl, hf]
  rfl

/-- A group without an undelivered event takes the record, and the lanes of its mask are held at P (R329, R330). -/
theorem State.raise_eq_setG {s : State} {gid : Nat} {g : Group} (hg : find s.groups gid = some g) (he : g.event = none) (code : Nat) (lanes : Word)
    (P addr detail : DWord) :
    s.raise gid code lanes P addr detail = s.setG gid
      ({ g with event := some (faultRec code lanes P addr detail s.clk), lastFault := some (faultRec code lanes P addr detail s.clk) }.setHold lanes
        (.event code P false)) := by
  rw [State.raise, State.post, State.updG_eq_setG _ hg]
  simp only [he]
  rfl

/-! ### Branches (R45, R117, R119) -/

theorem branchTarget_eq (P : DWord) (n off : Nat) : branchTarget P n off = asPc (P + BitVec.ofInt 64 (4 * (BitVec.ofNat n off).toInt)) := by
  rw [branchTarget, branchSum, sextInt_eq_toInt]

theorem targetFault_of_good {x : DWord} (h : goodTarget x) : targetFault x = none := by
  obtain ⟨h4, h56⟩ := h
  have h1 : bits x.toNat 1 0 = 0 := by rw [bits]; omega
  have h2 : bits x.toNat 63 56 = 0 := by rw [bits]; omega
  simp [targetFault, h1, h2]

theorem targetFault_of_not_good {x : DWord} (h : ¬ goodTarget x) :
    targetFault x = some (if x.toNat % 4 ≠ 0 then 0x12 else 0x10, x, 0#64) := by
  have h1 : bits x.toNat 1 0 = x.toNat % 4 := by rw [bits]; omega
  rw [targetFault, h1]
  by_cases h4 : x.toNat % 4 = 0
  · have h2 : bits x.toNat 63 56 ≠ 0 := fun h2 => h ⟨h4, by have := x.isLt; rw [bits] at h2; omega⟩
    simp [h4, h2]
  · simp [h4]

/-- A register-indirect target faults exactly where R119 does not accept it. -/
theorem isSome_targetFault_iff (x : DWord) : (targetFault x).isSome = true ↔ ¬ goodTarget x := by
  by_cases h : goodTarget x
  · simp [targetFault_of_good h, h]
  · simp [targetFault_of_not_good h, h]

/-- The issued lanes that do not execute go on and each executing lane goes to its target. -/
theorem Group.branched_of_pcOf {g g' : Group} {I E : Word} {next : DWord} {target : Nat → DWord}
    (h : ∀ l < 32, g'.pcOf l = if has E l then target l else if has I l then next else g.pcOf l) : g.Branched g' I E next target := by
  intro l hl
  refine ⟨fun hE => ?_, fun hE hI => ?_, fun hE hI => ?_⟩
  · rw [h l hl, if_pos hE]
  · rw [h l hl, if_neg hE, if_pos hI]
  · rw [h l hl, if_neg hE, if_neg hI]

/-- The lanes of L, each sent to its own target. -/
theorem Group.pcOf_foldl_setPc (L : List Nat) (hL : ∀ l ∈ L, l < 32) (hn : L.Nodup) (target : Nat → DWord) (g : Group) (k : Nat) :
    (L.foldl (fun g l => g.setPc (laneBit l) (target l)) g).pcOf k = if k ∈ L then target k else g.pcOf k :=
  foldl_reads Group.pcOf _ (fun l _ => target l) hn (fun g _ hl k => g.pcOf_setPc_laneBit (hL _ hl) _ k) g k

theorem Group.foldl_setPc_rest (L : List Nat) (target : Nat → DWord) (g : Group) :
    L.foldl (fun g l => g.setPc (laneBit l) (target l)) g = { g with pc := (L.foldl (fun g l => g.setPc (laneBit l) (target l)) g).pc } := by
  induction L generalizing g with
  | nil => rfl
  | cons l L ih => rw [List.foldl_cons, ih]; rfl

theorem lt_of_mem_lanesOf {m : Word} {l : Nat} (h : l ∈ lanesOf m) : l < 32 := ((mem_lanesOf m l).mp h).1

/-- A lane is in a mask's list where its bit is set. -/
theorem mem_lanesOf_iff_has {m : Word} {l : Nat} : l ∈ lanesOf m ↔ has m l :=
  (mem_lanesOf m l).trans ⟨And.right, fun h => ⟨BitVec.lt_of_getLsbD h, h⟩⟩

/-- The PCs after a branch of the lanes of E. -/
theorem Group.branched_setPc (g : Group) (pc : DWord) (I E : Word) (next target : DWord) :
    g.Branched (((g.begun pc).setPc I next).setPc E target) I E next fun _ => target :=
  Group.branched_of_pcOf fun l hl => by rw [Group.pcOf_setPc _ _ _ _ hl, Group.pcOf_setPc _ _ _ _ hl, Group.begun_pcOf]

/-- A jump whose targets are accepted moves the PCs alone (R119). -/
theorem jumpTo_completes {s : State} {gid : Nat} {pc : DWord} {g : Group} (hg : find s.groups gid = some g) (gd : Fin 8)
    {target : Nat → DWord} (ht : ∀ l < 32, has (g.executing pc gd) l → goodTarget (target l)) :
    ∃ g', jumpTo s (g.issueAt gid pc 4 gd) target (s.setG gid (g.begun pc)) = s.setG gid g' ∧ g' = { (g.begun pc) with pc := g'.pc } ∧
      g.Branched g' (g.issued pc) (g.executing pc gd) (asPc (pc + 4#64)) target := by
  refine ⟨(lanesOf (g.executing pc gd)).foldl (fun g l => g.setPc (laneBit l) (target l)) ((g.begun pc).setPc (g.issued pc) (asPc (pc + 4#64))),
    ?_, ?_, Group.branched_of_pcOf fun l hl => ?_⟩
  · rw [jumpTo, Issue.guarded_acts fun l hl hE => targetFault_of_good (ht l hl hE), Group.issueAt, State.updG_setG _ _ _ _ g hg]
    rfl
  · rw [Group.foldl_setPc_rest]; rfl
  · rw [Group.pcOf_foldl_setPc _ (fun _ => lt_of_mem_lanesOf) (nodup_lanesOf _), Group.pcOf_setPc _ _ _ _ hl, Group.begun_pcOf]
    exact if_congr mem_lanesOf_iff_has rfl rfl

/-- A `jmpr` with a vector pair of which the lowest failing lane that is no helper is known posts that lane's fault (R100, R119, R330). -/
theorem jmprVector_raises {s : State} {gid : Nat} {pc : DWord} {g : Group} {f : AForm}
    (h : Ready s gid pc g (.jmprVector f) f.sw { v := [f.a, f.a + 1] }) {bad : Word} {low : Nat}
    (hb : ∀ l < 32, has bad l ↔ has (g.executing pc f.g) l ∧ ¬ has g.helper l ∧ ¬ goodTarget (g.readV64 l f.a)) (hl : lowestIn bad low) :
    exec (.jmprVector f) s = .next (s.raise gid (if (g.readV64 low f.a).toNat % 4 ≠ 0 then 0x12 else 0x10) bad pc (g.readV64 low f.a) 0#64) := by
  have hlow : ¬ goodTarget (g.readV64 low f.a) := ((hb low (BitVec.lt_of_getLsbD hl.1)).mp hl.1).2.2
  refine (h.runs f.g 4 _).trans (congrArg Host.Outcome.next ?_)
  exact Issue.guarded_raises (it := g.issueAt gid pc 4 f.g) (fun l hl => (hb l hl).trans <| by rw [isSome_targetFault_iff]; rfl) hl
    (targetFault_of_not_good hlow) _ _ _

/-- Settles O7: the branches set PCs alone, and the lowest failing target of a `jmpr` names the fault. -/
theorem branchesAndNopMoveOnlyThePc : Obligations.BranchesAndNopMoveOnlyThePc := by
  unfold Obligations.BranchesAndNopMoveOnlyThePc
  refine ⟨fun f s gid pc g h => ?bra, fun f s gid pc g h ht => ?vector, fun f s gid pc g h ht => ?uniform, fun f s gid pc g h => ?nop, ?fault⟩
  case bra =>
    refine ⟨((g.begun pc).setPc (g.issued pc) (asPc (pc + 4#64))).setPc (g.executing pc f.g) (branchTarget pc 20 f.o),
      h.runs_updG f.g 4 _, rfl, ?_⟩
    rw [branchTarget_eq]
    exact g.branched_setPc pc _ _ _ _
  case vector =>
    obtain ⟨g', hj, hrest, hpc⟩ := jumpTo_completes h.here f.g ht
    exact ⟨g', (h.runs f.g 4 _).trans (congrArg Host.Outcome.next hj), hrest, hpc⟩
  case uniform =>
    obtain ⟨g', hj, hrest, hpc⟩ := jumpTo_completes (target := fun _ => g.sreg64 f.b) h.here f.g fun _ _ _ => ht
    exact ⟨g', (h.runs f.g 4 _).trans (congrArg Host.Outcome.next hj), hrest, hpc⟩
  case nop =>
    refine ⟨(g.begun pc).setPc (g.issued pc) (asPc (pc + 4#64)), h.runs_updG f.g 4 _, rfl, fun l hl => ?_⟩
    rw [Group.pcOf_setPc _ _ _ _ hl, Group.begun_pcOf]
  case fault =>
    classical
    intro f s gid pc g low h he bad hlow hbad hmin
    have hm : ∀ l < 32, has (maskOf fun l => decide (bad l)) l ↔ bad l :=
      fun l hl => (has_maskOf hl).trans decide_eq_true_iff
    have hlowest : lowestIn (maskOf fun l => decide (bad l)) low :=
      ⟨(hm low hlow).mpr hbad, fun k hk => mt (hm k (hk.trans hlow)).mp (hmin k hk)⟩
    refine ⟨_, _, (jmprVector_raises h hm hlowest).trans (congrArg Host.Outcome.next (State.raise_eq_setG h.here he ..)), rfl, rfl, hm, rfl, rfl, rfl,
      fun l hl => ?_⟩
    rw [Group.holdOf_setHold _ _ _ _ hl]
    exact ⟨fun hb => if_pos ((hm l hl).mpr hb), fun hb => if_neg (mt (hm l hl).mp hb)⟩

end Sys2Proof.Machine
end

section
/-!
SUPPORT. The return stack, the rejoin registers and the waits on them (R13, R14, R16, R118, R123, R124).
-/
namespace Sys2Proof.Machine
open Sys2Proof

/-! ### Return stacks -/

/-- The group whose lanes of L have the return stacks `st` and stand at `target`. -/
def Group.restack (g : Group) (L : List Nat) (st : Nat → List DWord) (target : Nat → DWord) : Group :=
  L.foldl (fun g l => (g.setStack l (st l)).setPc (laneBit l) (target l)) g

theorem Group.restack_rest (g : Group) (L : List Nat) (st : Nat → List DWord) (target : Nat → DWord) :
    g.restack L st target = { g with pc := (g.restack L st target).pc, stack := (g.restack L st target).stack } := by
  unfold Group.restack
  induction L generalizing g with
  | nil => rfl
  | cons l L ih => rw [List.foldl_cons, ih]; rfl

section
variable (g : Group) {m : Word} (st : Nat → List DWord) (target : Nat → DWord) (k : Nat)

theorem Group.stackOf_restack : (g.restack (lanesOf m) st target).stackOf k = if has m k then st k else g.stackOf k := by
  rw [← if_congr mem_lanesOf_iff_has rfl rfl]
  exact foldl_reads Group.stackOf (fun g l => (g.setStack l (st l)).setPc (laneBit l) (target l)) (fun l _ => st l) (nodup_lanesOf m)
    (fun g l _ k => g.stackOf_setStack l k (st l)) g k

theorem Group.pcOf_restack : (g.restack (lanesOf m) st target).pcOf k = if has m k then target k else g.pcOf k := by
  rw [← if_congr mem_lanesOf_iff_has rfl rfl]
  exact foldl_reads Group.pcOf _ (fun l _ => target l) (nodup_lanesOf m)
    (fun g l hl k => (g.setStack l (st l)).pcOf_setPc_laneBit (lt_of_mem_lanesOf hl) (target l) k) g k

end

/-- A fold that changes each lane's stack from what it holds is a restacking from what the lanes held before. -/
theorem Group.foldl_eq_restack (g : Group) (m : Word) (F : Group → Nat → Group) (st : Nat → List DWord) (target : Nat → DWord)
    (h : ∀ g' : Group, ∀ l, g'.stackOf l = g.stackOf l → has m l → F g' l = (g'.setStack l (st l)).setPc (laneBit l) (target l)) :
    (lanesOf m).foldl F g = g.restack (lanesOf m) st target := by
  refine foldl_eq_of_nodup F _ (fun g' l => g'.stackOf l = g.stackOf l ∧ has m l) (fun g' l hl => h g' l hl.1 hl.2)
    (fun g' l k hk hP => ⟨?_, hP.2⟩) (nodup_lanesOf m) g fun l hl => ⟨rfl, mem_lanesOf_iff_has.mp hl⟩
  exact (g'.stackOf_setStack l k _).trans ((if_neg hk).trans hP.1)

/-! ### Stack accesses that reach no memory -/

theorem getD_foldl_put {α : Type} (L : List Nat) (m : SMap α) (f : Nat → α) (d : α) (k : Nat) :
    getD (L.foldl (fun m l => put m l (f l)) m) k d = if k ∈ L then f k else getD m k d := by
  induction L generalizing m with
  | nil => simp
  | cons a L ih =>
    rw [List.foldl_cons, ih, getD_eq_find (put m a (f a)), find_put]
    by_cases hL : k ∈ L
    · simp [hL]
    · by_cases ha : k = a
      · simp [ha]
      · simp [hL, ha, getD_eq_find]

/-- Where each lane's access answers at once, the state and the list of late faults are as they were. -/
theorem foldl_tried_lane {op : State → Nat → Spill × State} {s : State} {x : Nat → DWord} {L : List Nat}
    (h : ∀ l ∈ L, op s l = (.ok (x l), s)) (vals : SMap DWord) :
    L.foldl (Tried.lane op) { s := s, vals := vals } = { s := s, vals := L.foldl (fun m l => put m l (x l)) vals } := by
  induction L generalizing vals with
  | nil => rfl
  | cons l L ih =>
    have hl : Tried.lane op { s := s, vals := vals } l = { s := s, vals := put vals l (x l) } := by
      simp only [Tried.lane, h l List.mem_cons_self]
    rw [List.foldl_cons, List.foldl_cons, hl, ih fun k hk => h k (List.mem_cons_of_mem _ hk)]

/-- A group that is not parked for results stays as it is. -/
theorem State.unparkResults_of_ne {s : State} {gid : Nat} {g : Group} (hg : find s.groups gid = some g) (h : g.waiting ≠ .results) :
    s.unparkResults gid = s := by
  simp only [State.unparkResults, hg]
  rw [if_neg]
  simp [h]

/-- A call or return none of whose accesses fails late changes the group, which goes on if it waited for its results (R118). -/
theorem Issue.spillDone_of_none (it : Issue) (w : Who) (s : State) (vals : SMap DWord) (f : Group → Nat → DWord → Group) :
    it.spillDone w { s := s, vals := vals } f = (s.updG it.gid fun g => (lanesOf it.E).foldl (fun g l => f g l (getD vals l 0#64))
      ({ g with spilling := g.spilling.erase it.pc }.setPc (it.I &&& ~~~it.E) it.nextPc)).unparkResults it.gid := by
  have hE : it.E &&& ~~~0#32 = it.E := BitVec.and_allOnes
  rw [Issue.spillDone]
  simp only [List.foldl_nil, hE]

theorem State.find_setG {s : State} {gid : Nat} {g : Group} (hg : find s.groups gid = some g) (x : Group) :
    find (s.setG gid x).groups gid = some x := by
  simp [State.setG, hg]

/-- A call or return of a group that is not parked for results, whose lanes' accesses answer at once from the stacks, changes the group alone
(R118). -/
theorem Issue.stackRun_completes {s0 s : State} {gid : Nat} {pc : DWord} {g b : Group} (hg : find s.groups gid = some g) (hb : b.waiting ≠ .results)
    {gd : Fin 8} {whole : Bool} {mem : Nat → Bool} {op : State → Who → Group → Nat → Spill × State}
    {f : Issue → Group → Nat → DWord → Group}
    {x : Nat → DWord} (hmem : ∀ l, has (g.executing pc gd) l → mem l = false)
    (hop : ∀ w l, has (g.executing pc gd) l → op (s.setG gid b) w g l = (.ok (x l), s.setG gid b))
    (st : Nat → List DWord) (target : Nat → DWord)
    (hf : ∀ g' : Group, ∀ l, g'.stackOf l = b.stackOf l → has (g.executing pc gd) l →
      f (g.issueAt gid pc 4 gd) g' l (x l) = (g'.setStack l (st l)).setPc (laneBit l) (target l)) :
    (g.issueAt gid pc 4 gd).stackRun s0 (s.setG gid b) whole mem op f = s.setG gid
      (({ b with spilling := b.spilling.erase pc }.setPc (g.issued pc &&& ~~~g.executing pc gd) (asPc (pc + 4#64))).restack
        (lanesOf (g.executing pc gd)) st target) := by
  have hany : (lanesOf (g.executing pc gd)).any mem = false := List.any_eq_false.mpr fun l hl => by simp [hmem l (mem_lanesOf_iff_has.mp hl)]
  have hfold : ∀ B : Group, (∀ l, B.stackOf l = b.stackOf l) →
      (lanesOf (g.executing pc gd)).foldl (fun g' l => f (g.issueAt gid pc 4 gd) g' l
        (getD ((lanesOf (g.executing pc gd)).foldl (fun m l => put m l (x l)) []) l 0#64)) B = B.restack (lanesOf (g.executing pc gd)) st target := by
    intro B hB
    refine B.foldl_eq_restack _ _ st target fun g' l hst hl => ?_
    rw [getD_foldl_put, if_pos (mem_lanesOf_iff_has.mpr hl)]
    exact hf g' l (hst.trans (hB l)) hl
  have hit : (g.issueAt gid pc 4 gd).E = g.executing pc gd := rfl
  rw [Issue.stackRun, hit, hany, Bool.and_false, if_neg Bool.false_ne_true]
  dsimp only
  refine (Issue.guarded_acts (fun l _ hl => congrArg (fun r => Spill.precise r.1) (hop _ l hl)) _ _ _ _).trans ?_
  rw [hit, foldl_tried_lane fun l hl => hop _ l (mem_lanesOf_iff_has.mp hl)]
  rw [if_neg Bool.false_ne_true, Issue.spillDone_of_none, hit]
  change ((s.setG gid b).updG gid _).unparkResults gid = _
  rw [State.updG_setG _ _ _ _ g hg]
  rw [hfold]
  · exact State.unparkResults_of_ne (State.find_setG hg _) (by rw [Group.restack_rest]; exact hb)
  · exact fun _ => rfl

/-! ### Calls and returns (R118) -/

/-- The group after a call or return: its executing lanes restacked and sent to their targets, the other issued lanes at the next PC, the wait for
a spill at P forgotten. -/
def Group.afterStack (g : Group) (pc : DWord) (E : Word) (st : Nat → List DWord) (target : Nat → DWord) : Group :=
  ({ g.begun pc with spilling := (g.begun pc).spilling.erase pc }.setPc (g.issued pc &&& ~~~E) (asPc (pc + 4#64))).restack (lanesOf E) st target

section
variable (g : Group) (pc : DWord) (E : Word) (st : Nat → List DWord) (target : Nat → DWord)

theorem Group.afterStack_rest : g.afterStack pc E st target =
    { (g.begun pc) with pc := (g.afterStack pc E st target).pc, stack := (g.afterStack pc E st target).stack, spilling := g.spilling.erase pc } := by
  rw [← g.begun_spilling pc]
  conv_lhs => rw [Group.afterStack, Group.restack_rest]
  rfl

theorem Group.afterStack_stackOf (l : Nat) :
    (has E l → (g.afterStack pc E st target).stackOf l = st l) ∧ (¬ has E l → (g.afterStack pc E st target).stackOf l = g.stackOf l) := by
  rw [Group.afterStack, Group.stackOf_restack]
  exact ⟨fun h => if_pos h, fun h => (if_neg h).trans (g.begun_stackOf pc l)⟩

theorem Group.afterStack_branched : g.Branched (g.afterStack pc E st target) (g.issued pc) E (asPc (pc + 4#64)) target := by
  refine Group.branched_of_pcOf fun l hl => ?_
  rw [Group.afterStack, Group.pcOf_restack]
  refine ite_congr rfl (fun _ => rfl) fun hE => ?_
  rw [Group.pcOf_setPc _ _ _ _ hl]
  exact if_congr (has_and_not.trans (and_iff_left hE)) rfl (g.begun_pcOf pc l)

end

/-- A call whose lanes all have room pushes and branches (R118). -/
theorem callTo_completes {s0 s : State} {gid : Nat} {pc : DWord} {g : Group} (hg : find s.groups gid = some g) (hw : g.waiting ≠ .results)
    (gd : Fin 8) (hroom : ∀ l < 32, has (g.executing pc gd) l → (g.stackOf l).length < 8) (target : Nat → DWord) :
    callTo s0 (g.issueAt gid pc 4 gd) false target (s.setG gid (g.begun pc)) =
      s.setG gid (g.afterStack pc (g.executing pc gd) (fun l => g.stackOf l ++ [asPc (pc + 4#64)]) target) := by
  have hlt : ∀ l, has (g.executing pc gd) l → (g.stackOf l).length < 8 := fun l hl => hroom l (BitVec.lt_of_getLsbD hl) hl
  refine Issue.stackRun_completes (x := fun _ => 0#64) hg (Group.begun_waiting_ne pc hw) (fun l hl => ?_) (fun w l hl => if_pos (hlt l hl)) _ _
    fun g' l hst hl => ?_
  · exact decide_eq_false (not_le.mpr (hlt l hl))
  · rw [g.begun_stackOf] at hst
    have h8 : ¬ (g'.stackOf l).length ≥ 8 := by rw [hst]; exact not_le.mpr (hlt l hl)
    dsimp only
    rw [if_neg h8, hst]
    rfl

/-- A return whose lanes all have a resident entry pops it and goes there (R118). -/
theorem retFrom_completes {s0 s : State} {gid : Nat} {pc : DWord} {g : Group} (hg : find s.groups gid = some g) (hw : g.waiting ≠ .results)
    (gd : Fin 8) (hst : ∀ l < 32, has (g.executing pc gd) l → g.stackOf l ≠ []) :
    retFrom s0 (g.issueAt gid pc 4 gd) false (s.setG gid (g.begun pc)) =
      s.setG gid (g.afterStack pc (g.executing pc gd) (fun l => (g.stackOf l).dropLast) fun l => asPc ((g.stackOf l).getLastD 0#64)) := by
  have hne : ∀ l, has (g.executing pc gd) l → g.stackOf l ≠ [] := fun l hl => hst l (BitVec.lt_of_getLsbD hl) hl
  have hlast : ∀ l, has (g.executing pc gd) l → (g.stackOf l).getLast? = some ((g.stackOf l).getLastD 0#64) := fun l hl => by
    rw [List.getLastD_eq_getLast?, List.getLast?_eq_some_getLast (hne l hl)]; rfl
  refine Issue.stackRun_completes (x := fun l => (g.stackOf l).getLastD 0#64) hg (Group.begun_waiting_ne pc hw) (fun l hl => ?_) (fun w l hl => ?_) _ _
    fun g' l hgl hl => ?_
  · change ((g.stackOf l).isEmpty && _) = false
    rw [List.isEmpty_eq_false_iff.mpr (hne l hl), Bool.false_and]
  · simp only [State.popLane, hlast l hl]
  · rw [g.begun_stackOf] at hgl
    rw [hgl]
    split
    · next h => exact absurd h (hne l hl)
    · rfl

/-- A return of lanes whose stacks and spill depths are empty raises F_RETSTACK where one is no helper (R14, R118). -/
theorem retFrom_raises {s0 s : State} {gid : Nat} {pc : DWord} {g : Group} (gd : Fin 8)
    (hsolid : g.executing pc gd &&& ~~~g.helper ≠ 0#32)
    (hst : ∀ l < 32, has (g.executing pc gd) l → g.stackOf l = [] ∧ g.spillOf l = 0) :
    retFrom s0 (g.issueAt gid pc 4 gd) false s = s0.raise gid 0x07 (g.executing pc gd &&& ~~~g.helper) pc 0#64 0#64 := by
  have hlane : ∀ l, has (g.executing pc gd) l → g.stackOf l = [] ∧ g.spillOf l = 0 := fun l hl => hst l (BitVec.lt_of_getLsbD hl) hl
  have hpop : ∀ s w l, has (g.executing pc gd) l → State.popLane s w g l = (.fail 0, s) := fun s w l hl => by
    simp [State.popLane, hlane l hl]
  have hany : (lanesOf (g.executing pc gd)).any (fun l => (g.stackOf l).isEmpty && g.spillOf l != 0) = false :=
    List.any_eq_false.mpr fun l hl => by simp [hlane l (mem_lanesOf_iff_has.mp hl)]
  obtain ⟨low, hlow⟩ := exists_lowestIn hsolid
  have hnone : ((g.issueAt gid pc 4 gd).mustWait false && (lanesOf (g.issueAt gid pc 4 gd).E).any
      fun l => ((g.issueAt gid pc 4 gd).g.stackOf l).isEmpty && (g.issueAt gid pc 4 gd).g.spillOf l != 0) = false :=
    Bool.and_eq_false_imp.mpr fun _ => hany
  rw [retFrom, Issue.stackRun, hnone, if_neg Bool.false_ne_true]
  refine Issue.guarded_raises (it := g.issueAt gid pc 4 gd) (fun l _ => has_and_not.trans ?_) hlow ?_ _ _ _
  · refine and_congr_right fun hE => (and_iff_left ?_).symm
    exact congrArg (fun r => r.1.precise.isSome) (hpop s _ l hE)
  · exact congrArg (fun r => Spill.precise r.1) (hpop s _ low (has_and_not.mp hlow.1).1)

/-- Settles O8: with resident room or entries no lane's stack access reaches memory. -/
theorem callsPushAndReturnsPop : Obligations.CallsPushAndReturnsPop := by
  unfold Obligations.CallsPushAndReturnsPop
  intro room pushed
  have hpushed : ∀ (g : Group) pc E target, pushed g (g.afterStack pc E (fun l => g.stackOf l ++ [asPc (pc + 4#64)]) target) E pc :=
    fun g pc E target => ⟨g.afterStack_rest .., fun l _ => g.afterStack_stackOf ..⟩
  refine ⟨fun f s gid pc g h hw hroom => ?call, fun f s gid pc g h hw hroom ht => ?vector, fun f s gid pc g h hw hroom ht => ?uniform,
    fun f s gid pc g h hw hst => ?ret, fun f s gid pc g h hsolid hst => ?empty⟩
  case call =>
    refine ⟨_, (h.runs f.g 4 _).trans (congrArg Host.Outcome.next (callTo_completes h.here hw f.g hroom _)), hpushed .., ?_⟩
    rw [← branchTarget_eq]
    exact g.afterStack_branched pc _ _ _
  case vector =>
    refine ⟨_, (h.runs f.g 4 _).trans (congrArg Host.Outcome.next ?_), hpushed .., g.afterStack_branched pc _ _ _⟩
    exact (Issue.guarded_acts (fun l hl hE => targetFault_of_good (ht l hl hE)) _ _ _ _).trans (callTo_completes h.here hw f.g hroom _)
  case uniform =>
    refine ⟨_, (h.runs f.g 4 _).trans (congrArg Host.Outcome.next ?_), hpushed .., g.afterStack_branched pc _ _ _⟩
    exact (Issue.guarded_acts (fun l hl hE => targetFault_of_good ht) _ _ _ _).trans (callTo_completes h.here hw f.g hroom _)
  case ret =>
    exact ⟨_, (h.runs f.g 4 _).trans (congrArg Host.Outcome.next (retFrom_completes h.here hw f.g hst)), g.afterStack_rest ..,
      fun l _ => g.afterStack_stackOf .., g.afterStack_branched pc _ _ _⟩
  case empty => exact (h.runs f.g 4 _).trans (congrArg Host.Outcome.next (retFrom_raises f.g hsolid hst))

end Sys2Proof.Machine
end

section
/-!
SUPPORT. Claiming a rejoin register (R16, R123).
-/
namespace Sys2Proof.Machine
open Sys2Proof

theorem Group.foldl_setMeet_eq (L : List Nat) (x : DWord) (g : Group) : ∃ m, L.foldl (fun g l => g.setMeet l x) g = { g with meet := m } := by
  induction L generalizing g with
  | nil => exact ⟨_, rfl⟩
  | cons l L ih => obtain ⟨m, hm⟩ := ih (g.setMeet l x); exact ⟨m, hm⟩

theorem Group.meetOf_foldl_setMeet (m : Word) (x : DWord) (g : Group) (k : Nat) :
    ((lanesOf m).foldl (fun g l => g.setMeet l x) g).meetOf k = if has m k then x else g.meetOf k := by
  rw [← if_congr mem_lanesOf_iff_has rfl rfl]
  exact foldl_reads Group.meetOf _ (fun _ _ => x) (nodup_lanesOf m) (fun g l _ k => g.meetOf_setMeet l k x) g k

/-- The group after a join that takes register n for the lanes of E, `low` the lowest of them, to meet at `point`. -/
def Group.joined (g : Group) (pc : DWord) (E : Word) (n low : Nat) (point : DWord) : Group :=
  ((lanesOf E).foldl (fun g l => g.setMeet l point) ((g.begun pc).setRejoin n { mask := E, addr := g.meetOf low })).setPc (g.issued pc)
    (asPc (pc + 4#64))

section
variable (g : Group) (pc : DWord) (E : Word) (n low : Nat) (point : DWord)

theorem Group.joined_eq : ∃ m, g.joined pc E n low point =
    { (g.begun pc).setRejoin n { mask := E, addr := g.meetOf low } with meet := m }.setPc (g.issued pc) (asPc (pc + 4#64)) := by
  obtain ⟨m, hm⟩ := Group.foldl_setMeet_eq (lanesOf E) point ((g.begun pc).setRejoin n { mask := E, addr := g.meetOf low })
  exact ⟨m, by rw [Group.joined, hm]⟩

theorem Group.joined_rest : g.joined pc E n low point = { (g.begun pc) with
    pc := (g.joined pc E n low point).pc, j := (g.joined pc E n low point).j, meet := (g.joined pc E n low point).meet } := by
  obtain ⟨m, hm⟩ := g.joined_eq pc E n low point
  rw [hm]
  generalize g.begun pc = b
  rfl

theorem Group.joined_advanced : g.Advanced (g.joined pc E n low point) (g.issued pc) (asPc (pc + 4#64)) := fun l hl => by
  obtain ⟨m, hm⟩ := g.joined_eq pc E n low point
  rw [hm, Group.pcOf_setPc _ _ _ _ hl, ← g.begun_pcOf pc l]
  generalize g.begun pc = b
  rfl

theorem Group.joined_rejoin (k : Nat) :
    (g.joined pc E n low point).rejoin k = if k = n then { mask := E, addr := g.meetOf low } else g.rejoin k := by
  obtain ⟨m, hm⟩ := g.joined_eq pc E n low point
  rw [hm, ← g.begun_rejoin pc]
  generalize g.begun pc = b
  exact b.rejoin_setRejoin ..

theorem Group.joined_meetOf (l : Nat) : (g.joined pc E n low point).meetOf l = if has E l then point else g.meetOf l :=
  (Group.meetOf_foldl_setMeet ..).trans (congrArg _ (g.begun_meetOf pc l))

end

/-- What `join` does to the group that it issues for. -/
theorem exec_join_acts {s : State} {gid : Nat} {pc : DWord} {g : Group} {f : JForm} (h : Ready s gid pc g (.join f) f.sw {})
    (hfree : ∀ l < 32, has (g.executing pc f.g) l → (g.rejoin f.j).mask = 0#32) :
    ((lanesOf (g.executing pc f.g)).head? = none →
      exec (.join f) s = .next (s.setG gid ((g.begun pc).setPc (g.issued pc) (asPc (pc + 4#64))))) ∧
    (∀ low, (lanesOf (g.executing pc f.g)).head? = some low →
      exec (.join f) s = .next (s.setG gid (g.joined pc (g.executing pc f.g) f.j low (branchTarget pc 16 f.o)))) := by
  have hx : exec (.join f) s = execJoin f s := rfl
  have hacts : ∀ l < 32, has (g.issueAt gid pc 4 f.g).E l →
      (if ((g.issueAt gid pc 4 f.g).g.rejoin f.j).mask ≠ 0#32 then some (0x05, 0#64, 0#64) else none : Option (Nat × DWord × DWord)) = none :=
    fun l hl hE => if_neg (not_not.mpr (hfree l hl hE))
  rw [hx, execJoin, h.runs, Issue.guarded_acts hacts, Issue.done, Group.issueAt_gid, State.updG_setG _ _ _ _ g h.here]
  simp only [Group.issueAt_E, Group.issueAt_I, Group.issueAt_pc, Group.issueAt_nextPc, Group.begun_meetOf]
  refine ⟨fun hhead => ?_, fun low hhead => ?_⟩
  · simp only [hhead]
  · simp only [hhead]; rfl

/-- Settles O9: a free register is taken for the executing lanes, a busy one fails for each of them. -/
theorem joinClaimsARejoinRegister : Obligations.JoinClaimsARejoinRegister := by
  unfold Obligations.JoinClaimsARejoinRegister
  intro f s gid pc g h E
  refine ⟨fun hm low hlow => ?free, fun hE => ?none, fun hm hsolid => ?busy⟩
  case free =>
    refine ⟨_, (exec_join_acts h fun _ _ _ => hm).2 low (head?_lanesOf.mpr hlow), g.joined_rest .., g.joined_advanced pc E _ _ _,
      fun n _ => g.joined_rejoin .., fun l _ => ?_⟩
    rw [Group.joined_meetOf, branchTarget_eq]
    exact ⟨fun hE => if_pos hE, fun hE => if_neg hE⟩
  case none =>
    have hno : ∀ l < 32, has E l → (g.rejoin f.j).mask = 0#32 := fun l _ hl => by simp [hE, has] at hl
    refine ⟨_, (exec_join_acts h hno).1 (by change (lanesOf E).head? = none; rw [hE, lanesOf_zero]; rfl), rfl, fun l hl => ?_⟩
    rw [Group.pcOf_setPc _ _ _ _ hl, Group.begun_pcOf]
  case busy =>
    obtain ⟨low, hlow⟩ := exists_lowestIn hsolid
    refine (h.runs f.g 4 _).trans (congrArg Host.Outcome.next ?_)
    refine Issue.guarded_raises (it := g.issueAt gid pc 4 f.g) (fun l _ => has_and_not.trans ?_) hlow (if_pos hm) _ _ _
    exact and_congr_right fun _ => (and_iff_left (congrArg Option.isSome (if_pos hm))).symm

end Sys2Proof.Machine
end

section
/-!
SUPPORT. Predicates, special registers and the exchange within quads (R11, R21, R22, R126 to R128, R137, R138).
-/
namespace Sys2Proof.Machine
open Sys2Proof

/-! ### Predicates (R126, R127) -/

theorem plogOp_eq (c : Fin 8) (x y : Bool) : plogOp c x y = if c = 0 then x && y else if c = 1 then x || y else x != y := by
  fin_cases c <;> rfl

theorem beq_one_eq_decide (n : Fin 2) : (n.val == 1) = decide (n = 1) := by
  fin_cases n <;> rfl

/-- `pmov.get`'s word: the seven predicates and a 1. -/
theorem foldl_preds_eq_ofFnLE (g : Group) {l : Nat} (hl : l < 32) :
    (List.range 8).foldl (fun x n => if (g.preds n).getLsbD l then x ||| laneBit n else x) 0#32 =
      BitVec.ofFnLE fun i : Fin 32 => if i.val < 7 then (g.preds i).getLsbD l else decide (i.val = 7) := by
  have h7 : (g.preds 7).getLsbD l = true := by
    rw [Group.preds, if_pos rfl, BitVec.getLsbD_allOnes, decide_eq_true hl]
  ext i hi
  rw [← BitVec.getLsbD_eq_getElem, getLsbD_foldl_laneBit (fun n => (g.preds n).getLsbD l) _ fun k hk => by rw [List.mem_range] at hk; omega,
    BitVec.getElem_ofFnLE]
  simp only [List.mem_range]
  rcases lt_trichotomy i 7 with h | rfl | h
  · simp [h, show i < 8 by omega]
  · simp [h7]
  · simp [show ¬ i < 8 by omega, show ¬ i < 7 by omega, show i ≠ 7 by omega]

theorem Group.foldl_setPreds_eq (L : List Nat) (E : Word) (x : Nat → Word) (g : Group) :
    ∃ p, L.foldl (fun g n => g.setPreds n E (x n)) g = { g with p := p } := by
  induction L generalizing g with
  | nil => exact ⟨_, rfl⟩
  | cons n L ih =>
    obtain ⟨p, hp⟩ := ih (g.setPreds n E (x n))
    exact ⟨p, by rw [List.foldl_cons, hp, Group.setPreds_rest]⟩

/-- The predicates after several of them have been written in the lanes of E. -/
theorem Group.preds_foldl_setPreds (L : List Nat) (hL : L.Nodup) (h7 : ∀ n ∈ L, n ≠ 7) (E : Word) (x : Nat → Word) (g : Group) (l k : Nat) :
    ((L.foldl (fun g n => g.setPreds n E (x n)) g).preds k).getLsbD l =
      if k ∈ L then (if E.getLsbD l then (x k).getLsbD l else (g.preds k).getLsbD l) else (g.preds k).getLsbD l := by
  refine foldl_reads (fun g k => (g.preds k).getLsbD l) _ (fun n b => if E.getLsbD l then (x n).getLsbD l else b) hL (fun g n hn k => ?_) g k
  rw [Group.preds_setPreds]
  by_cases hk : k = n
  · subst hk; simp [h7 k hn]
  · simp [hk]

/-! ### Special registers (R22, R128) -/

/-- What `srd` may select: only %gstat may be cleared, and a 64-bit selector takes an even register (R128). -/
theorem srd_wf_iff (f : SrdForm) :
    (Instr.srd f).wf = true ↔ f.sel.val ≤ 9 ∧ (f.rc.val = 0 ∨ f.sel.val = 7) ∧ (f.sel.val < 8 ∨ f.d.val % 2 = 0) := by
  change (decide (f.sel.val ≤ 9) && (f.rc.val == 0 || f.sel.val == 7) && (decide (f.sel.val < 8) || f.d.val % 2 == 0)) = true ↔ _
  simp only [Bool.and_eq_true, Bool.or_eq_true, decide_eq_true_eq, beq_iff_eq, and_assoc]

theorem execSrd_eq_vectorOp {f : SrdForm} (hrc : f.rc = 0) (hsel : f.sel.val < 8) (s : State) :
    execSrd f s = vectorOp s (.srd f) f.sw f.g 4 { v := [f.d] } true 0 f.d fun g l => (s.special g f.sel l).setWidth 32 := by
  simp [execSrd, vectorOp, hrc, show ¬ 8 ≤ f.sel.val by omega]

theorem execSrd_eq_vectorOp64 {f : SrdForm} (hrc : f.rc = 0) (hsel : 8 ≤ f.sel.val) (s : State) :
    execSrd f s = vectorOp64 s (.srd f) f.sw f.g 4 { v := [f.d, f.d + 1] } true 0 f.d fun g l => s.special g f.sel l := by
  simp [execSrd, vectorOp64, hrc, hsel]

/-- The group after a read of %gstat that clears its sticky bits. -/
def Group.cleared (g : Group) (pc : DWord) (E : Word) (d : Nat) (x : Word) : Group :=
  ({ g.begun pc with gstat := if E = 0#32 then (g.begun pc).gstat else (g.begun pc).gstat &&& ~~~stickyMask }.put E 0 d fun _ => x).setPc
    (g.issued pc) (asPc (pc + 4#64))

theorem setWidth_special_gstat (s : State) (g : Group) (l : Nat) : (s.special g 7 l).setWidth 32 = BitVec.ofNat 32 (s.gstatOf g) :=
  BitVec.setWidth_ofNat_of_le (by decide) _

theorem exec_srd_clear {s : State} {gid : Nat} {pc : DWord} {g : Group} {f : SrdForm} (hrc : f.rc = 1)
    (h : Ready s gid pc g (.srd f) f.sw { v := [f.d] }) :
    exec (.srd f) s = .next (s.setG gid (g.cleared pc (g.executing pc f.g) f.d (BitVec.ofNat 32 (s.gstatOf g)))) := by
  have hsel : f.sel.val = 7 := by
    obtain ⟨-, h0 | h7, -⟩ := (srd_wf_iff f).mp h.formed
    · exact absurd (congrArg Fin.val hrc) (by omega)
    · exact h7
  have hx : exec (.srd f) s = execSrd f s := rfl
  rw [hx, execSrd]
  simp only [hsel, show ¬ 7 ≥ 8 by decide, decide_false, Bool.false_eq_true, if_false, setWidth_special_gstat]
  rw [h.runs]
  by_cases hE : g.executing pc f.g = 0#32
  · simp only [hrc, hE, Issue.done, Group.cleared, Group.issueAt_E, Group.issueAt_g, Group.issueAt_gid, ne_eq, not_true_eq_false, and_false, if_false,
      if_true, State.updG_setG _ _ _ _ g h.here]
    rfl
  · simp only [hrc, hE, Issue.done, Group.cleared, Group.issueAt_E, Group.issueAt_g, Group.issueAt_gid, ne_eq, not_false_eq_true, and_true, if_true,
      if_false, Fin.val_one, State.updG_setG _ _ _ _ g h.here]
    rfl

theorem Group.cleared_spec (g : Group) (pc : DWord) (E : Word) {d : Nat} (hd : d < 64) (x : Word) :
    let g' := g.cleared pc E d x
    g' = { (g.begun pc) with v := g'.v, pc := g'.pc, gstat := g'.gstat } ∧ g.Advanced g' (g.issued pc) (asPc (pc + 4#64)) ∧
      g'.gstat = (if E = 0#32 then g.gstat else g.gstat &&& ~~~0xFD#32) ∧
      ∀ l < 32, ∀ r < 64, g'.vreg l r = if has E l ∧ r = d then x else g.vreg l r := by
  have hg := g.begun_gstat pc
  have hpc := g.begun_pcOf pc
  have hv := g.begun_vreg pc
  unfold Group.cleared
  generalize g.begun pc = b at *
  refine ⟨?rest, fun l hl => ?pcs, ?gstat, fun l hl r hr => ?regs⟩
  case rest => rw [Group.setPc_rest, Group.put_rest, Group.put_transient0]
  case pcs => rw [Group.pcOf_setPc _ _ _ _ hl, Group.put_rest, ← hpc l]; rfl
  case gstat => rw [← hg, Group.setPc_rest, Group.put_rest]; rfl
  case regs =>
    change Group.vreg (Group.put _ _ _ _ _) l r = _
    rw [Group.put_vreg _ _ _ _ _ _ _ hl hd hr, ← hv l r]
    simp only [true_and, has]
    rfl

/-- Settles O12. -/
theorem lanePredicatesAndSpecialReads : Obligations.LanePredicatesAndSpecialReads := by
  unfold Obligations.LanePredicatesAndSpecialReads
  refine ⟨fun f s gid pc g h hw hu => ?plog, fun f => ?get, fun f s gid pc g h => ?set, fun f hrc hsel => ?srd, fun f hrc hsel => ?srd64,
    fun f s gid pc g hrc h => ?clear, fun _ _ _ => ⟨rfl, rfl, rfl, rfl⟩⟩
  case plog =>
    have hx : exec (.plog f) s = execPlog f s := rfl
    rw [hx]
    refine laneIssue_pred_completes h _ _ _ _ _ _ (issueFault_none hw rfl hu) fun it hg _ l hl _ => ?_
    rw [getLsbD_maskOf, hg, decide_eq_true hl, Bool.true_and, plogOp_eq, beq_one_eq_decide, beq_one_eq_decide]
  case get =>
    exact completesVec_of_exec (fun _ => true) _ (execPmovGet f) (fun _ => rfl) (fun _ => rfl) (fun _ _ _ _ _ _ => rfl)
      fun _ _ _ g _ _ l hl => foldl_preds_eq_ofFnLE g hl
  case set =>
    obtain ⟨p, hp⟩ := Group.foldl_setPreds_eq (List.range 7) (g.executing pc f.g) (fun n => maskOf fun l => (g.readV l f.a).getLsbD n)
      (g.begun pc)
    refine ⟨_, h.runs_updG f.g 4 _, ?_, fun l hl => ?_, fun l hl n hn => ?_⟩
    · simp only [Group.issueAt_E, Group.issueAt_g]
      rw [hp]
      generalize g.begun pc = b
      rfl
    · simp only [Group.issueAt_E, Group.issueAt_g]
      rw [hp, Group.pcOf_setPc _ _ _ _ hl, ← g.begun_pcOf pc l]
      generalize g.begun pc = b
      rfl
    · rw [Group.preds_setPc, Group.preds_foldl_setPreds _ List.nodup_range (fun k hk => by have := List.mem_range.mp hk; omega),
        if_pos (List.mem_range.mpr hn), Group.begun_preds, getLsbD_maskOf, decide_eq_true hl, Bool.true_and]
      rfl
  case srd =>
    exact completesVec_of_exec (fun _ => true) _ (execSrd f) (fun _ => rfl) (execSrd_eq_vectorOp hrc hsel) (fun _ _ _ _ _ _ => rfl)
      fun _ _ _ _ _ _ _ _ => rfl
  case srd64 =>
    exact completesPair_of_exec (fun _ => true) _ (execSrd f) (fun _ => rfl) (execSrd_eq_vectorOp64 hrc hsel)
      (fun hw => ((srd_wf_iff f).mp hw).2.2.resolve_left hsel.not_gt) (fun _ _ _ _ _ _ => rfl) fun _ _ _ _ _ _ _ _ => rfl
  case clear =>
    exact ⟨_, exec_srd_clear hrc h, g.cleared_spec pc _ f.d.isLt _⟩

end Sys2Proof.Machine
end

section
/-!
SUPPORT. The exchange within quads, and `qfill`, which revives the exited lanes of quads that execute (R137, R138).
-/
namespace Sys2Proof.Machine
open Sys2Proof

/-! ### The lowest executing lane of a quad -/

/-- h is the lowest lane of E in the quad of lane l. -/
def lowestInQuad (E : Word) (l h : Nat) : Prop := h / 4 = l / 4 ∧ has E h ∧ ∀ k < h, k / 4 = l / 4 → ¬ has E k

theorem quadLow_eq_some_iff {E : Word} {l h : Nat} : quadLow E l = some h ↔ lowestInQuad E l h := by
  rw [quadLow, List.find?_map, Option.map_eq_some_iff]
  simp only [List.find?_range_eq_some, Function.comp_apply, List.mem_range, Bool.not_eq_true']
  constructor
  · rintro ⟨i, ⟨hi, h4, hlow⟩, rfl⟩
    refine ⟨by omega, hi, fun k hk hq => ?_⟩
    have := hlow (k - 4 * (l / 4)) (by omega)
    rw [show 4 * (l / 4) + (k - 4 * (l / 4)) = k by omega] at this
    simp [has, this]
  · rintro ⟨hq, hE, hlow⟩
    refine ⟨h - 4 * (l / 4), ⟨?_, by omega, fun j hj => ?_⟩, by omega⟩
    · rwa [show 4 * (l / 4) + (h - 4 * (l / 4)) = h by omega]
    · simpa [has] using hlow (4 * (l / 4) + j) (by omega) (by omega)

/-! ### One revived lane -/

/-- The rejoin registers that hold lane h of g take lane m too. -/
def Group.joinRejoins (g x : Group) (m h : Nat) : Group :=
  (List.range 16).foldl (fun x n =>
    if (g.rejoin n).mask.getLsbD h then x.setRejoin n { x.rejoin n with mask := (x.rejoin n).mask ||| laneBit m } else x) x

/-- Lane m of x is revived by lane h of g (R138). -/
def Group.revive (g x : Group) (next : DWord) (d a m h : Nat) : Group :=
  (g.joinRejoins ((((x.setPc (laneBit m) next).setMeet m (g.meetOf h)).setStack m (g.stackOf h)).setSpill m 0) m h).setV m d (g.readV h a)

theorem Group.joinRejoins_eq (g x : Group) (m h : Nat) : ∃ j, g.joinRejoins x m h = { x with j := j } := by
  unfold Group.joinRejoins
  generalize List.range 16 = L
  induction L generalizing x with
  | nil => exact ⟨_, rfl⟩
  | cons n L ih =>
    rw [List.foldl_cons]
    split
    · exact (ih _).imp fun j hj => hj
    · exact ih x

theorem Group.rejoin_joinRejoins (g x : Group) (m h : Nat) {n : Nat} (hn : n < 16) :
    (g.joinRejoins x m h).rejoin n =
      if (g.rejoin n).mask.getLsbD h then { x.rejoin n with mask := (x.rejoin n).mask ||| laneBit m } else x.rejoin n := by
  rw [Group.joinRejoins, foldl_reads Group.rejoin _
    (fun n r => if (g.rejoin n).mask.getLsbD h then { r with mask := r.mask ||| laneBit m } else r) List.nodup_range fun x n _ k => ?step]
  · exact if_pos (List.mem_range.mpr hn)
  case step =>
    split
    · rw [Group.rejoin_setRejoin]
    · split
      · next hk => rw [hk]
      · rfl

section
variable (g x : Group) (next : DWord) (d a m h : Nat)

theorem Group.revive_eq : ∃ j, g.revive x next d a m h = { x with
    v := (x.setV m d (g.readV h a)).v, pc := (x.setPc (laneBit m) next).pc, meet := (x.setMeet m (g.meetOf h)).meet,
    stack := (x.setStack m (g.stackOf h)).stack, spill := (x.setSpill m 0).spill, j := j } := by
  obtain ⟨j, hj⟩ := g.joinRejoins_eq ((((x.setPc (laneBit m) next).setMeet m (g.meetOf h)).setStack m (g.stackOf h)).setSpill m 0) m h
  refine ⟨j, ?_⟩
  rw [Group.revive, hj]
  dsimp only [Group.setPc, Group.setMeet, Group.setStack, Group.setSpill, Group.setV]

theorem Group.revive_rest : g.revive x next d a m h = { x with
    v := (g.revive x next d a m h).v, pc := (g.revive x next d a m h).pc, meet := (g.revive x next d a m h).meet,
    stack := (g.revive x next d a m h).stack, spill := (g.revive x next d a m h).spill, j := (g.revive x next d a m h).j } := by
  obtain ⟨j, hj⟩ := g.revive_eq x next d a m h
  rw [hj]

theorem Group.pcOf_revive (hm : m < 32) (k : Nat) : (g.revive x next d a m h).pcOf k = if k = m then next else x.pcOf k := by
  obtain ⟨j, hj⟩ := g.revive_eq x next d a m h
  rw [hj]; exact x.pcOf_setPc_laneBit hm next k

theorem Group.meetOf_revive (k : Nat) : (g.revive x next d a m h).meetOf k = if k = m then g.meetOf h else x.meetOf k := by
  obtain ⟨j, hj⟩ := g.revive_eq x next d a m h
  rw [hj]; exact x.meetOf_setMeet m k (g.meetOf h)

theorem Group.stackOf_revive (k : Nat) : (g.revive x next d a m h).stackOf k = if k = m then g.stackOf h else x.stackOf k := by
  obtain ⟨j, hj⟩ := g.revive_eq x next d a m h
  rw [hj]; exact x.stackOf_setStack m k (g.stackOf h)

theorem Group.spillOf_revive (k : Nat) : (g.revive x next d a m h).spillOf k = if k = m then 0 else x.spillOf k := by
  obtain ⟨j, hj⟩ := g.revive_eq x next d a m h
  rw [hj]; exact x.spillOf_setSpill m k 0

theorem Group.vreg_revive (hd : d < 64) (k : Nat) {r : Nat} (hr : r < 64) :
    (g.revive x next d a m h).vreg k r = if k = m then (if r = d then g.readV h a else x.vreg m r) else x.vreg k r := by
  obtain ⟨j, hj⟩ := g.revive_eq x next d a m h
  rw [hj]
  refine (x.vreg_setV m d k r (g.readV h a) hd hr).trans ?_
  by_cases hk : k = m
  · simp [hk]
  · simp [hk]

theorem Group.rejoin_revive {n : Nat} (hn : n < 16) : (g.revive x next d a m h).rejoin n =
    if (g.rejoin n).mask.getLsbD h then { x.rejoin n with mask := (x.rejoin n).mask ||| laneBit m } else x.rejoin n := by
  refine (g.rejoin_joinRejoins _ m h hn).trans ?_
  dsimp only [Group.rejoin, Group.setPc, Group.setMeet, Group.setStack, Group.setSpill]

end

/-! ### All revived lanes -/

/-- The lanes of R are revived, lane m by lane `low m`. -/
def Group.reviveAll (g x : Group) (next : DWord) (d a : Nat) (low : Nat → Nat) (R : Word) : Group :=
  (lanesOf R).foldl (fun x m => g.revive x next d a m (low m)) x

section
variable (g x : Group) (next : DWord) (d a : Nat) (low : Nat → Nat) (R : Word)

theorem Group.reviveAll_rest : g.reviveAll x next d a low R = { x with
    v := (g.reviveAll x next d a low R).v, pc := (g.reviveAll x next d a low R).pc, meet := (g.reviveAll x next d a low R).meet,
    stack := (g.reviveAll x next d a low R).stack, spill := (g.reviveAll x next d a low R).spill, j := (g.reviveAll x next d a low R).j } := by
  unfold Group.reviveAll
  generalize lanesOf R = L
  induction L generalizing x with
  | nil => rfl
  | cons m L ih => rw [List.foldl_cons, ih, Group.revive_rest]

theorem Group.pcOf_reviveAll (k : Nat) : (g.reviveAll x next d a low R).pcOf k = if has R k then next else x.pcOf k := by
  rw [← if_congr mem_lanesOf_iff_has rfl rfl]
  exact foldl_reads Group.pcOf _ (fun _ _ => next) (nodup_lanesOf R)
    (fun x m hm k => g.pcOf_revive x next d a m (low m) (lt_of_mem_lanesOf hm) k) x k

theorem Group.meetOf_reviveAll (k : Nat) : (g.reviveAll x next d a low R).meetOf k = if has R k then g.meetOf (low k) else x.meetOf k := by
  rw [← if_congr mem_lanesOf_iff_has rfl rfl]
  exact foldl_reads Group.meetOf _ (fun m _ => g.meetOf (low m)) (nodup_lanesOf R)
    (fun x m _ k => g.meetOf_revive x next d a m (low m) k) x k

theorem Group.stackOf_reviveAll (k : Nat) : (g.reviveAll x next d a low R).stackOf k = if has R k then g.stackOf (low k) else x.stackOf k := by
  rw [← if_congr mem_lanesOf_iff_has rfl rfl]
  exact foldl_reads Group.stackOf _ (fun m _ => g.stackOf (low m)) (nodup_lanesOf R)
    (fun x m _ k => g.stackOf_revive x next d a m (low m) k) x k

theorem Group.spillOf_reviveAll (k : Nat) : (g.reviveAll x next d a low R).spillOf k = if has R k then 0 else x.spillOf k := by
  rw [← if_congr mem_lanesOf_iff_has rfl rfl]
  exact foldl_reads Group.spillOf _ (fun _ _ => 0) (nodup_lanesOf R)
    (fun x m _ k => g.spillOf_revive x next d a m (low m) k) x k

theorem Group.vreg_reviveAll (hd : d < 64) (k : Nat) {r : Nat} (hr : r < 64) : (g.reviveAll x next d a low R).vreg k r =
    if has R k then (if r = d then g.readV (low k) a else x.vreg k r) else x.vreg k r := by
  rw [← if_congr mem_lanesOf_iff_has rfl rfl]
  exact foldl_reads (fun x k => Group.vreg x k r) _ (fun m w => if r = d then g.readV (low m) a else w) (nodup_lanesOf R)
    (fun x m _ k => g.vreg_revive x next d a m (low m) hd k hr) x k

theorem Group.rejoin_reviveAll_mask {n : Nat} (hn : n < 16) (k : Nat) : ((g.reviveAll x next d a low R).rejoin n).mask.getLsbD k =
    if has R k then (x.rejoin n).mask.getLsbD k || (g.rejoin n).mask.getLsbD (low k) else (x.rejoin n).mask.getLsbD k := by
  rw [← if_congr mem_lanesOf_iff_has rfl rfl]
  refine foldl_reads (fun x k => (Group.rejoin x n).mask.getLsbD k) _ (fun m b => b || (g.rejoin n).mask.getLsbD (low m)) (nodup_lanesOf R)
    (fun x m hm k => ?_) x k
  rw [Group.rejoin_revive _ _ _ _ _ _ _ hn]
  by_cases hh : (g.rejoin n).mask.getLsbD (low m) = true
  · rw [if_pos hh, BitVec.getLsbD_or, getLsbD_laneBit _ _ (lt_of_mem_lanesOf hm), hh]
    by_cases hk : k = m
    · simp [hk]
    · simp [hk]
  · rw [if_neg hh, Bool.eq_false_iff.mpr hh, Bool.or_false]
    split
    · next hk => rw [hk]
    · rfl

theorem Group.rejoin_reviveAll_addr {n : Nat} (hn : n < 16) : ((g.reviveAll x next d a low R).rejoin n).addr = (x.rejoin n).addr := by
  refine foldl_keeps (fun x => (Group.rejoin x n).addr) _ _ (fun x m _ => ?_) x
  rw [Group.rejoin_revive _ _ _ _ _ _ _ hn]
  split <;> rfl

end

/-! ### `qfill` -/

/-- The exited lanes of quads in which a lane of E executes. -/
def Group.revived (g : Group) (E : Word) : Word := maskOf fun m => g.exited.getLsbD m && (quadLow E m).isSome

/-- The group with its issued lanes advanced and the lanes of its executing quads revived. -/
def Group.qfillRevived (g : Group) (pc : DWord) (E : Word) (d a : Nat) : Group :=
  g.reviveAll ((g.begun pc).setPc (g.issued pc) (asPc (pc + 4#64))) (asPc (pc + 4#64)) d a (fun m => (quadLow E m).getD 0) (g.revived E)

/-- The group after `qfill`. -/
def Group.qfilled (g : Group) (pc : DWord) (E : Word) (d a : Nat) : Group :=
  let x := g.qfillRevived pc E d a
  { x with exited := x.exited &&& ~~~g.revived E, helper := x.helper ||| g.revived E }.put E 0 d fun l => g.readV l a

theorem Group.has_revived_iff {g : Group} {E : Word} {l : Nat} : has (g.revived E) l ↔ has g.exited l ∧ ∃ h, lowestInQuad E l h := by
  have hlt : has g.exited l → l < 32 := fun h => BitVec.lt_of_getLsbD h
  simp only [has, Group.revived, getLsbD_maskOf, Bool.and_eq_true, decide_eq_true_eq, Option.isSome_iff_exists, quadLow_eq_some_iff]
  exact ⟨And.right, fun h => ⟨hlt h.1, h⟩⟩

theorem exec_qfill {s : State} {gid : Nat} {pc : DWord} {g : Group} {f : DaForm} (h : Ready s gid pc g (.qfill f) f.sw { v := [f.d, f.a] }) :
    exec (.qfill f) s = .next (s.setG gid (g.qfilled pc (g.executing pc f.g) f.d f.a)) := by
  refine (h.runs_updG f.g 4 _).trans (congrArg (fun x => Host.Outcome.next (s.setG gid x)) ?_)
  rw [Group.qfilled, Group.qfillRevived, Group.reviveAll, ← List.foldl_ext _ _ _ fun x m hm => ?step]
  · rfl
  case step =>
    obtain ⟨-, low, hlow⟩ := Group.has_revived_iff.mp (mem_lanesOf_iff_has.mp hm)
    simp only [Group.issueAt_E, quadLow_eq_some_iff.mpr hlow]
    rfl

section
variable (g : Group) (pc : DWord) (E : Word) (d a : Nat)

theorem Group.qfillRevived_eq : ∃ v p m st sp j, g.qfillRevived pc E d a =
    { (g.begun pc) with v := v, pc := p, meet := m, stack := st, spill := sp, j := j } :=
  ⟨_, _, _, _, _, _, Group.reviveAll_rest ..⟩

theorem Group.qfilled_eq : ∃ v, g.qfilled pc E d a = { g.qfillRevived pc E d a with
    exited := g.exited &&& ~~~g.revived E, helper := g.helper ||| g.revived E, v := v } := by
  obtain ⟨v, p, m, st, sp, j, hx⟩ := g.qfillRevived_eq pc E d a
  refine ⟨(g.qfilled pc E d a).v, ?_⟩
  conv_lhs => rw [Group.qfilled, Group.put_rest, Group.put_transient0]
  rw [Group.qfilled, hx, ← g.begun_exited pc, ← g.begun_helper pc]

theorem Group.qfilled_rest : g.qfilled pc E d a = { (g.begun pc) with
    v := (g.qfilled pc E d a).v, pc := (g.qfilled pc E d a).pc, meet := (g.qfilled pc E d a).meet, stack := (g.qfilled pc E d a).stack,
    spill := (g.qfilled pc E d a).spill, j := (g.qfilled pc E d a).j, exited := (g.qfilled pc E d a).exited,
    helper := (g.qfilled pc E d a).helper } := by
  obtain ⟨v, p, m, st, sp, j, hx⟩ := g.qfillRevived_eq pc E d a
  obtain ⟨v, hv⟩ := g.qfilled_eq pc E d a
  rw [hv, hx]

theorem Group.qfilled_vreg (hd : d < 64) {l r : Nat} (hl : l < 32) (hr : r < 64) : (g.qfilled pc E d a).vreg l r =
    if has E l ∧ r = d then g.readV l a else if has (g.revived E) l ∧ r = d then g.readV ((quadLow E l).getD 0) a else g.vreg l r := by
  rw [Group.qfilled, Group.put_vreg _ _ _ _ _ _ _ hl hd hr]
  simp only [true_and, has]
  refine ite_congr rfl (fun _ => rfl) fun _ => ?_
  refine (g.vreg_reviveAll _ _ d a _ _ hd l hr).trans ?_
  rw [← ite_and, ← g.begun_vreg pc]
  rfl

theorem Group.qfilled_exited (l : Nat) : has (g.qfilled pc E d a).exited l ↔ has g.exited l ∧ ¬ has (g.revived E) l := by
  obtain ⟨v, hv⟩ := g.qfilled_eq pc E d a
  rw [hv]
  exact has_and_not

theorem Group.qfilled_helper (l : Nat) : has (g.qfilled pc E d a).helper l ↔ has g.helper l ∨ has (g.revived E) l := by
  obtain ⟨v, hv⟩ := g.qfilled_eq pc E d a
  rw [hv, has, BitVec.getLsbD_or, Bool.or_eq_true]

theorem Group.qfilled_pcOf {l : Nat} (hl : l < 32) : (g.qfilled pc E d a).pcOf l =
    if has (g.revived E) l then asPc (pc + 4#64) else if has (g.issued pc) l then asPc (pc + 4#64) else g.pcOf l := by
  obtain ⟨v, hv⟩ := g.qfilled_eq pc E d a
  rw [hv]
  refine (g.pcOf_reviveAll ..).trans ?_
  rw [Group.pcOf_setPc _ _ _ _ hl, Group.begun_pcOf]

theorem Group.qfilled_meetOf (l : Nat) : (g.qfilled pc E d a).meetOf l =
    if has (g.revived E) l then g.meetOf ((quadLow E l).getD 0) else g.meetOf l := by
  obtain ⟨v, hv⟩ := g.qfilled_eq pc E d a
  rw [hv]
  exact (g.meetOf_reviveAll ..).trans (congrArg _ (g.begun_meetOf pc l))

theorem Group.qfilled_stackOf (l : Nat) : (g.qfilled pc E d a).stackOf l =
    if has (g.revived E) l then g.stackOf ((quadLow E l).getD 0) else g.stackOf l := by
  obtain ⟨v, hv⟩ := g.qfilled_eq pc E d a
  rw [hv]
  exact (g.stackOf_reviveAll ..).trans (congrArg _ (g.begun_stackOf pc l))

theorem Group.qfilled_spillOf (l : Nat) : (g.qfilled pc E d a).spillOf l = if has (g.revived E) l then 0 else g.spillOf l := by
  obtain ⟨v, hv⟩ := g.qfilled_eq pc E d a
  rw [hv]
  exact (g.spillOf_reviveAll ..).trans (congrArg _ (g.begun_spillOf pc l))

theorem Group.qfilled_rejoin_mask {n : Nat} (hn : n < 16) (l : Nat) : has ((g.qfilled pc E d a).rejoin n).mask l ↔
    has (g.rejoin n).mask l ∨ has (g.revived E) l ∧ has (g.rejoin n).mask ((quadLow E l).getD 0) := by
  obtain ⟨v, hv⟩ := g.qfilled_eq pc E d a
  have h := g.rejoin_reviveAll_mask ((g.begun pc).setPc (g.issued pc) (asPc (pc + 4#64))) (asPc (pc + 4#64)) d a
    (fun m => (quadLow E m).getD 0) (g.revived E) hn l
  have hb : ((g.begun pc).setPc (g.issued pc) (asPc (pc + 4#64))).rejoin n = g.rejoin n := g.begun_rejoin pc n
  rw [hv]
  refine (iff_of_eq (congrArg (· = true) (h.trans (by rw [hb])))).trans ?_
  by_cases hR : has (g.revived E) l
  · simp [hR, has]
  · simp [hR, has]

theorem Group.qfilled_rejoin_addr {n : Nat} (hn : n < 16) : ((g.qfilled pc E d a).rejoin n).addr = (g.rejoin n).addr := by
  obtain ⟨v, hv⟩ := g.qfilled_eq pc E d a
  rw [hv]
  exact (g.rejoin_reviveAll_addr _ _ _ _ _ _ hn).trans (congrArg Rejoin.addr (g.begun_rejoin pc n))

end

/-- Settles O14: the quad reads run as vector operations, and `qfill` leaves `Group.qfilled`. -/
theorem quadExchangeResults : Obligations.QuadExchangeResults := by
  unfold Obligations.QuadExchangeResults
  refine ⟨fun f => completesVec_of_exec (fun _ => true) _ (execQswp f) (fun _ => rfl) (fun _ => rfl) (fun _ _ _ _ _ _ => rfl)
      fun _ _ _ _ _ _ _ _ => rfl,
    fun f => completesVec_of_exec (fun _ => true) _ (execQbcast f) (fun _ => rfl) (fun _ => rfl) (fun _ _ _ _ _ _ => rfl)
      fun _ _ _ _ _ _ _ _ => rfl, fun f s gid pc g hr => ?qfill⟩
  case qfill =>
    intro E
    have hE : ∀ l, has E l → ¬ has g.exited l := fun l hl => (Group.of_issued (Group.issued_of_executing hl)).2.1
    refine ⟨_, exec_qfill hr, g.qfilled_rest pc E f.d f.a, fun l hl r hr n hn => ⟨fun h hrev => ?revived, fun hno => ?other,
      g.qfilled_rejoin_addr pc E f.d f.a hn⟩⟩
    case revived =>
      obtain ⟨hx, hlow⟩ := hrev
      have hR : has (g.revived E) l := Group.has_revived_iff.mpr ⟨hx, h, hlow⟩
      have hq : (quadLow E l).getD 0 = h := by rw [quadLow_eq_some_iff.mpr hlow]; rfl
      have hEl : ¬ has E l := fun he => hE l he hx
      refine ⟨fun h => ((g.qfilled_exited ..).mp h).2 hR, (g.qfilled_helper ..).mpr (.inr hR), ?_, ?_, ?_, ?_, ?_, ?_⟩
      · rw [Group.qfilled_pcOf _ _ _ _ _ hl, if_pos hR]
      · rw [Group.qfilled_meetOf, if_pos hR, hq]
      · rw [Group.qfilled_stackOf, if_pos hR, hq]
      · rw [Group.qfilled_spillOf, if_pos hR]
      · rw [Group.qfilled_rejoin_mask _ _ _ _ _ hn, hq, and_iff_right hR]
      · rw [Group.qfilled_vreg _ _ _ _ _ f.d.isLt hl hr, if_neg fun he => hEl he.1, hq, if_congr (and_iff_right hR) rfl rfl]
    case other =>
      have hR : ¬ has (g.revived E) l := fun hR => by
        obtain ⟨hx, h, hlow⟩ := Group.has_revived_iff.mp hR
        exact hno h ⟨hx, hlow⟩
      refine ⟨?_, ?_, ?_, ?_, ?_, ?_, ?_, ?_⟩
      · rw [Group.qfilled_exited, and_iff_left hR]
      · rw [Group.qfilled_helper, or_iff_left hR]
      · rw [Group.qfilled_pcOf _ _ _ _ _ hl, if_neg hR]
      · rw [Group.qfilled_meetOf, if_neg hR]
      · rw [Group.qfilled_stackOf, if_neg hR]
      · rw [Group.qfilled_spillOf, if_neg hR]
      · rw [Group.qfilled_rejoin_mask _ _ _ _ _ hn, or_iff_left fun h => hR h.1]
      · rw [Group.qfilled_vreg _ _ _ _ _ f.d.isLt hl hr, if_neg fun h : has (g.revived E) l ∧ _ => hR h.1]

end Sys2Proof.Machine
end

section
/-!
SUPPORT. FP32 words as real numbers, and rounding to nearest even of a value known exactly or up to a sticky bit (R75, R76, R84).
-/
namespace Sys2Proof.Machine
open Sys2Proof

/-! ### The number that an FP32 word stands for (R75) -/

/-- The factor of a sign. -/
noncomputable def signFactor (n : Bool) : ℝ := if n then -1 else 1

theorem abs_signFactor (n : Bool) : |signFactor n| = 1 := by cases n <;> simp [signFactor]

theorem signFactor_mul_self (n : Bool) : signFactor n * signFactor n = 1 := by cases n <;> simp [signFactor]

theorem signFactor_ne_zero (n : Bool) : signFactor n ≠ 0 := by cases n <;> simp [signFactor]

/-- The word encodes a number. -/
def Fp32Finite (x : Word) : Prop := ∃ n m e, fp32.val x.toNat = .fin n m e

/-- The number that a word encodes, 0 for infinities and NaN. -/
noncomputable def fp32Real (x : Word) : ℝ :=
  match fp32.val x.toNat with
  | .fin n m e => (if n then -1 else 1) * (m : ℝ) * (2 : ℝ) ^ e
  | _ => 0

/-- r is the FP32 word nearest to q, ties to even, an infinity where the rounded magnitude overflows (R84). -/
def Fp32Nearest (q : ℝ) (r : Word) : Prop :=
  if |q| < 2 ^ 128 - 2 ^ 103 then
    Fp32Finite r ∧ ∀ y, Fp32Finite y → |fp32Real r - q| ≤ |fp32Real y - q| ∧
      (|fp32Real r - q| = |fp32Real y - q| → fp32Real y = fp32Real r ∨ r.getLsbD 0 = false)
  else r = if q < 0 then 0xFF800000#32 else 0x7F800000#32

theorem fp32Real_of_val {x : Word} {n : Bool} {m : Nat} {e : Int} (h : fp32.val x.toNat = .fin n m e) :
    fp32Real x = signFactor n * m * 2 ^ e := by
  rw [fp32Real, h, signFactor]

/-- The fields of an FP32 word with their numbers. -/
theorem fp32_val_eq (x : Nat) : fp32.val x = if x / 2 ^ 23 % 2 ^ 8 = 255 then (if x % 2 ^ 23 = 0 then .inf (bit x 31) else .nan)
    else if x / 2 ^ 23 % 2 ^ 8 = 0 then .fin (bit x 31) (x % 2 ^ 23) (-149)
    else .fin (bit x 31) (2 ^ 23 + x % 2 ^ 23) (-149 + (x / 2 ^ 23 % 2 ^ 8 : Nat) - 1) := rfl

/-- The fields of a finite word. -/
theorem fp32_val_fin {x : Nat} {n : Bool} {m : Nat} {e : Int} (h : fp32.val x = .fin n m e) : m < 2 ^ 24 ∧ -149 ≤ e := by
  have hf : x % 2 ^ 23 < 2 ^ 23 := Nat.mod_lt _ (by norm_num)
  rw [fp32_val_eq] at h
  split at h
  · split at h <;> exact nomatch h
  · split at h
    · injection h with _ hm he
      omega
    · injection h with _ hm he
      omega

/-- What a sign, an exponent field and a fraction encode. -/
theorem fp32_val_fields (n : Bool) {ex frac : Nat} (hex : ex < 255) (hf : frac < 2 ^ 23) :
    fp32.val ((if n then 2 ^ 31 else 0) + (ex * 2 ^ 23 + frac)) =
      if ex = 0 then .fin n frac (-149) else .fin n (2 ^ 23 + frac) (-149 + (ex : Int) - 1) := by
  have hfrac : ((if n then 2 ^ 31 else 0) + (ex * 2 ^ 23 + frac)) % 2 ^ 23 = frac := by cases n <;> simp <;> omega
  have hexp : ((if n then 2 ^ 31 else 0) + (ex * 2 ^ 23 + frac)) / 2 ^ 23 % 2 ^ 8 = ex := by cases n <;> simp <;> omega
  have hbit : bit ((if n then 2 ^ 31 else 0) + (ex * 2 ^ 23 + frac)) 31 = n := by cases n <;> simp [bit] <;> omega
  generalize (if n then 2 ^ 31 else 0) + (ex * 2 ^ 23 + frac) = x at *
  rw [fp32_val_eq, hfrac, hexp, hbit, if_neg (by omega)]

/-- The encoding is linear: q units of 2^(j - 149), q a full significand unless j = 0, stand at j * 2^23 + q. -/
theorem fp32_val_linear (n : Bool) {j q : Nat} (hq : q ≤ 2 ^ 24) (hj : j = 0 ∨ 2 ^ 23 ≤ q) (hlt : j * 2 ^ 23 + q < 255 * 2 ^ 23) :
    ∃ m e, fp32.val ((if n then 2 ^ 31 else 0) + (j * 2 ^ 23 + q)) = .fin n m e ∧ (m : ℝ) * 2 ^ e = q * 2 ^ ((j : Int) - 149) := by
  rcases lt_or_ge q (2 ^ 23) with h23 | h23
  · obtain rfl : j = 0 := by omega
    exact ⟨q, -149, by rw [fp32_val_fields n (by norm_num) h23, if_pos rfl], by norm_num⟩
  rcases hq.lt_or_eq with h24 | rfl
  · refine ⟨q, (j : Int) - 149, ?_, rfl⟩
    rw [show j * 2 ^ 23 + q = (j + 1) * 2 ^ 23 + (q - 2 ^ 23) by omega, fp32_val_fields n (by omega) (by omega), if_neg (by omega),
      show 2 ^ 23 + (q - 2 ^ 23) = q by omega, show -149 + ((j + 1 : Nat) : Int) - 1 = j - 149 by omega]
  · refine ⟨2 ^ 23, (j : Int) - 149 + 1, ?_, ?_⟩
    · rw [show j * 2 ^ 23 + 2 ^ 24 = (j + 2) * 2 ^ 23 + 0 by omega, fp32_val_fields n (by omega) (by norm_num), if_neg (by omega),
        show 2 ^ 23 + 0 = 2 ^ 23 from rfl, show -149 + ((j + 2 : Nat) : Int) - 1 = j - 149 + 1 by omega]
    · rw [zpow_add₀ two_ne_zero]; push_cast; ring

/-! ### Rounding to nearest even -/

/-- q is a whole number nearest to a, ties to even. -/
def NearestEven (a : ℝ) (q : Nat) : Prop := |a - q| ≤ 1 / 2 ∧ (|a - q| = 1 / 2 → q % 2 = 0)

/-- The number v is m units of 2^e, or lies strictly between the units next to an odd m of at least 26 bits (whose last bit is sticky). -/
def Sticky (m : Nat) (e : Int) (v : ℝ) : Prop :=
  v = m * 2 ^ e ∨ (m % 2 = 1 ∧ 2 ^ 25 ≤ m ∧ ((m : ℝ) - 1) * 2 ^ e < v ∧ v < ((m : ℝ) + 1) * 2 ^ e)

/-- m over 2^sh, rounded as the model does. -/
def rneShift (m sh : Nat) : Nat :=
  if roundUp .rne false (m / 2 ^ sh) (m % 2 ^ sh) (2 ^ (sh - 1)) then m / 2 ^ sh + 1 else m / 2 ^ sh

theorem nearestEven_div {t h : ℝ} {q : Nat} (hh : 0 < h) (hlow : ((2 * q : ℝ) - 1) * h ≤ t) (hhigh : t ≤ (2 * q + 1) * h)
    (heven : (t = (2 * q - 1) * h ∨ t = (2 * q + 1) * h) → q % 2 = 0) : NearestEven (t / (2 * h)) q := by
  have hd : t / (2 * h) - q = (t - 2 * q * h) / (2 * h) := by field_simp
  refine ⟨?_, fun h' => heven ?_⟩
  · rw [hd, abs_le, le_div_iff₀ (by positivity), div_le_iff₀ (by positivity)]
    constructor <;> linarith
  · rw [hd] at h'
    rcases (abs_eq (by norm_num)).mp h' with h' | h'
    · right; rw [div_eq_iff (by positivity)] at h'; linarith
    · left; rw [div_eq_iff (by positivity)] at h'; linarith

/-- A number at or past the middle of two units is rounded up. -/
theorem nearestEven_up {t h : ℝ} {q : Nat} (hh : 0 < h) (hlow : h ≤ t - 2 * h * q) (hhigh : t - 2 * h * q ≤ 2 * h)
    (htie : t - 2 * h * q = h → q % 2 = 1) : NearestEven (t / (2 * h)) (q + 1) := by
  refine nearestEven_div hh (by push_cast; linarith) (by push_cast; linarith) ?_
  push_cast
  rintro (he | he)
  · have := htie (by linarith)
    omega
  · linarith

/-- A number at or before the middle of two units is rounded down. -/
theorem nearestEven_down {t h : ℝ} {q : Nat} (hh : 0 < h) (hlow : 0 ≤ t - 2 * h * q) (hhigh : t - 2 * h * q ≤ h)
    (htie : t - 2 * h * q = h → q % 2 = 0) : NearestEven (t / (2 * h)) q := by
  refine nearestEven_div hh (by linarith) (by linarith) ?_
  rintro (he | he)
  · linarith
  · exact htie (by linarith)

theorem roundUp_rne_iff {n : Bool} {q r half : Nat} : roundUp .rne n q r half = true ↔ half < r ∨ (r = half ∧ q % 2 = 1) := by
  simp [roundUp]

/-- The model's rounding of m over 2^sh is to nearest even, of m itself and of what a sticky m stands for. -/
theorem rneShift_nearest {m sh : Nat} (hsh : 0 < sh) {t : ℝ} (ht : t = m ∨ (m % 2 = 1 ∧ 2 ≤ sh ∧ (m : ℝ) - 1 < t ∧ t < m + 1)) :
    NearestEven (t / 2 ^ sh) (rneShift m sh) := by
  obtain ⟨k, rfl⟩ : ∃ k, sh = k + 1 := ⟨sh - 1, by omega⟩
  have hpow : (2 : Nat) ^ (k + 1) = 2 * 2 ^ k := pow_succ' ..
  have hpowR : (2 : ℝ) ^ (k + 1) = 2 * ((2 ^ k : Nat) : ℝ) := by rw [pow_succ']; norm_cast
  have hev : 2 ≤ k + 1 → (2 ^ k) % 2 = 0 := fun h => by
    obtain ⟨j, rfl⟩ : ∃ j, k = j + 1 := ⟨k - 1, by omega⟩
    rw [pow_succ']; omega
  have hpos : 0 < 2 ^ k := Nat.two_pow_pos k
  rw [rneShift, Nat.add_sub_cancel, hpow, hpowR]
  generalize 2 ^ k = h at *
  have hr := Nat.mod_lt m (show 0 < 2 * h by omega)
  have hm : 2 * h * (m / (2 * h)) + m % (2 * h) = m := Nat.div_add_mod ..
  generalize m / (2 * h) = q at *
  generalize m % (2 * h) = r at *
  have hh : (0 : ℝ) < h := by exact_mod_cast hpos
  have hmR : (m : ℝ) = 2 * h * q + r := by exact_mod_cast hm.symm
  have hodd : m % 2 = 1 → r % 2 = 1 := fun h1 => by
    rw [← hm, Nat.mul_assoc, Nat.mul_add_mod] at h1; exact h1
  have htie : r ≠ h → t - 2 * h * q = r → t - 2 * h * q = h → False := fun hne h1 h2 => hne (by exact_mod_cast h1.symm.trans h2)
  split
  · next hup =>
    rw [roundUp_rne_iff] at hup
    rcases ht with rfl | ⟨h1, h2, hlo, hhi⟩
    · have hhr : (h : ℝ) ≤ r := by exact_mod_cast (show h ≤ r by omega)
      have hrh : (r : ℝ) < 2 * h := by exact_mod_cast hr
      refine nearestEven_up hh (by linarith) (by linarith) fun he => ?_
      by_contra hq
      exact htie (by omega) (by linarith) he
    · have hhr : (h : ℝ) + 1 ≤ r := by have := hodd h1; have := hev h2; exact_mod_cast (show h + 1 ≤ r by omega)
      have hrh : (r : ℝ) + 1 ≤ 2 * h := by exact_mod_cast hr
      exact nearestEven_up hh (by linarith) (by linarith) fun he => by linarith
  · next hup =>
    rw [roundUp_rne_iff] at hup
    have hr0 : (0 : ℝ) ≤ r := Nat.cast_nonneg r
    rcases ht with rfl | ⟨h1, h2, hlo, hhi⟩
    · have hrh : (r : ℝ) ≤ h := by exact_mod_cast (show r ≤ h by omega)
      refine nearestEven_down hh (by linarith) (by linarith) fun he => ?_
      by_contra hq
      exact htie (by omega) (by linarith) he
    · have hrh : (r : ℝ) + 1 ≤ h := by have := hodd h1; have := hev h2; exact_mod_cast (show r + 1 ≤ h by omega)
      have hr1 : (1 : ℝ) ≤ r := by have := hodd h1; exact_mod_cast (show 1 ≤ r by omega)
      exact nearestEven_down hh (by linarith) (by linarith) fun he => by linarith

/-- The size of a number is that of its units. -/
theorem Sticky.bounds {m : Nat} {e : Int} {v : ℝ} (h : Sticky m e v) (hm : m ≠ 0) :
    (2 : ℝ) ^ ((Nat.log2 m : Int) + e) ≤ v ∧ v < 2 ^ ((Nat.log2 m : Int) + e + 1) := by
  have he : (0 : ℝ) < 2 ^ e := by positivity
  have hlo := Nat.log2_self_le hm
  have hhi : m < 2 ^ (m.log2 + 1) := Nat.lt_log2_self
  have hz : ∀ k : Nat, (2 : ℝ) ^ ((k : Int) + e) = ((2 ^ k : Nat) : ℝ) * 2 ^ e := fun k => by
    rw [zpow_add₀ two_ne_zero, zpow_natCast]; norm_cast
  rw [hz, show (m.log2 : Int) + e + 1 = ((m.log2 + 1 : Nat) : Int) + e by omega, hz]
  rcases h with rfl | ⟨hodd, h25, hvlo, hvhi⟩
  · exact ⟨by gcongr, by gcongr⟩
  · have hlog : 0 < m.log2 := Nat.pos_of_ne_zero fun h0 => by rw [h0] at hhi; omega
    have hlo' : 2 ^ m.log2 + 1 ≤ m := by
      obtain ⟨k, hk⟩ : ∃ k, m.log2 = k + 1 := ⟨m.log2 - 1, by omega⟩
      rw [hk, pow_succ'] at hlo ⊢
      omega
    have hloR : ((2 ^ m.log2 : Nat) : ℝ) ≤ m - 1 := by
      have : ((2 ^ m.log2 : Nat) : ℝ) + 1 ≤ m := by exact_mod_cast hlo'
      linarith
    have hhiR : (m : ℝ) + 1 ≤ ((2 ^ (m.log2 + 1) : Nat) : ℝ) := by exact_mod_cast hhi
    exact ⟨(mul_le_mul_of_nonneg_right hloR he.le).trans hvlo.le, hvhi.trans_le (mul_le_mul_of_nonneg_right hhiR he.le)⟩

theorem nearestEven_self (q : Nat) : NearestEven q q := by
  refine ⟨by simp, fun h => ?_⟩
  rw [sub_self, abs_zero] at h
  norm_num at h

/-- The whole units of 2^lsb that m units of 2^e round to. -/
def rneUnits (m : Nat) (e lsb : Int) : Nat := if lsb ≤ e then m * 2 ^ (e - lsb).toNat else rneShift m (lsb - e).toNat

theorem rneUnits_nearest {m : Nat} {e lsb : Int} {v : ℝ} (h : Sticky m e v) (hlsb : (m.log2 : Int) + e - 23 ≤ lsb) :
    NearestEven (v / 2 ^ lsb) (rneUnits m e lsb) := by
  have hbig : 2 ^ 25 ≤ m → 25 ≤ m.log2 := fun h25 => (Nat.le_log2 (by omega)).mpr h25
  unfold rneUnits
  split
  · next hle =>
    obtain ⟨k, rfl⟩ : ∃ k : Nat, e = lsb + k := ⟨(e - lsb).toNat, by omega⟩
    rcases h with rfl | ⟨-, h25, -⟩
    · have hq : (m : ℝ) * 2 ^ (lsb + (k : Int)) / 2 ^ lsb = ((m * 2 ^ (lsb + (k : Int) - lsb).toNat : Nat) : ℝ) := by
        rw [zpow_add₀ two_ne_zero, zpow_natCast, show (lsb + (k : Int) - lsb).toNat = k by omega]
        push_cast
        field_simp
      rw [hq]
      exact nearestEven_self _
    · have := hbig h25
      omega
  · next hgt =>
    obtain ⟨sh, rfl⟩ : ∃ sh : Nat, lsb = e + sh := ⟨(lsb - e).toNat, by omega⟩
    have he : (0 : ℝ) < 2 ^ e := by positivity
    rw [zpow_add₀ two_ne_zero, zpow_natCast, ← div_div, show (e + (sh : Int) - e).toNat = sh by omega]
    refine rneShift_nearest (by omega) (h.imp (fun hv => ?_) fun ⟨hodd, h25, hvlo, hvhi⟩ => ⟨hodd, ?_, ?_, ?_⟩)
    · rw [hv]; field_simp
    · have := hbig h25
      omega
    · rwa [lt_div_iff₀ he]
    · rwa [div_lt_iff₀ he]

/-- The exponent of the unit of a rounded FP32 number, counted from the least one. -/
def unitIndex (m : Nat) (e : Int) : Nat := (max ((m.log2 : Int) + e - 23) (-149) + 149).toNat

theorem fp32_round_eq (n : Bool) {m : Nat} (e : Int) (hm : m ≠ 0) :
    fp32.round .rne n m e =
      if 255 * 2 ^ 23 ≤ unitIndex m e * 2 ^ 23 + rneUnits m e ((unitIndex m e : Int) - 149) then fp32.infBits n
      else (if n then 2 ^ 31 else 0) + (unitIndex m e * 2 ^ 23 + rneUnits m e ((unitIndex m e : Int) - 149)) := by
  have hlsb : (unitIndex m e : Int) - 149 = max ((m.log2 : Int) + e - (23 : Nat)) (-149) := by unfold unitIndex; omega
  have hmin : fp32.emin = -149 := rfl
  have hinf : fp32.infBits false = 255 * 2 ^ 23 := rfl
  have hj : ((unitIndex m e : Int) - 149 - -149).toNat = unitIndex m e := by omega
  have hf : fp32.fbits = 23 := rfl
  have he : fp32.ebits + 23 = 31 := rfl
  rw [FFmt.round, if_neg hm]
  simp only [hmin, hinf, hf, he, ← hlsb, hj]
  have hq : ∀ lsb : Int, (if lsb < e then (if lsb ≤ e then m * 2 ^ (e - lsb).toNat else m / 2 ^ (lsb - e).toNat)
      else if lsb = e then (if lsb ≤ e then m * 2 ^ (e - lsb).toNat else m / 2 ^ (lsb - e).toNat)
      else if roundUp .rne n (if lsb ≤ e then m * 2 ^ (e - lsb).toNat else m / 2 ^ (lsb - e).toNat)
          (if lsb ≤ e then 0 else m % 2 ^ (lsb - e).toNat) (if lsb ≤ e then 1 else 2 ^ ((lsb - e).toNat - 1))
        then (if lsb ≤ e then m * 2 ^ (e - lsb).toNat else m / 2 ^ (lsb - e).toNat) + 1
        else (if lsb ≤ e then m * 2 ^ (e - lsb).toNat else m / 2 ^ (lsb - e).toNat)) = rneUnits m e lsb := fun lsb => by
    rcases lt_trichotomy lsb e with h | h | h
    · rw [if_pos h, rneUnits]
      simp only [h.le, if_true]
    · rw [if_neg h.not_lt, if_pos h, rneUnits, if_pos h.le, if_pos h.le]
    · simp only [rneUnits, h.not_gt, h.ne', h.not_ge, if_false]
      rfl
  rw [hq]
  rfl

/-- The model's FP32 rounding to nearest even: q units of 2^(j - 149), a full significand unless j = 0, encoded linearly (R84). -/
theorem fp32_round_rne (n : Bool) {m : Nat} {e : Int} {v : ℝ} (hm : m ≠ 0) (h : Sticky m e v) :
    ∃ j q : Nat, NearestEven (v / 2 ^ ((j : Int) - 149)) q ∧ v < 2 ^ 24 * 2 ^ ((j : Int) - 149) ∧
      (j = 0 ∨ 2 ^ 23 * 2 ^ ((j : Int) - 149) ≤ v) ∧
      fp32.round .rne n m e =
        if 255 * 2 ^ 23 ≤ j * 2 ^ 23 + q then fp32.infBits n else (if n then 2 ^ 31 else 0) + (j * 2 ^ 23 + q) := by
  obtain ⟨hlo, hhi⟩ := h.bounds hm
  have hz : ∀ (k : Nat) (z : Int), (2 : ℝ) ^ k * 2 ^ z = 2 ^ (k + z) := fun k z => by rw [zpow_add₀ two_ne_zero, zpow_natCast]
  refine ⟨unitIndex m e, _, rneUnits_nearest h (by unfold unitIndex; omega), ?_, ?_, fp32_round_eq n e hm⟩
  · rw [hz]
    exact hhi.trans_le (zpow_le_zpow_right₀ one_le_two (by unfold unitIndex; omega))
  · rw [hz]
    refine or_iff_not_imp_left.mpr fun h0 => (zpow_le_zpow_right₀ one_le_two ?_).trans hlo
    unfold unitIndex at h0 ⊢
    omega

end Sys2Proof.Machine
end

section
/-!
SUPPORT. The model's FP32 rounding gives the nearest FP32 word (R84, R109).
-/
namespace Sys2Proof.Machine
open Sys2Proof

/-! ### Whole units and other FP32 numbers -/

/-- A finite word is a whole number of units of 2^(j - 149), or smaller than every full significand of them. -/
theorem fp32Real_units {y : Word} (hy : Fp32Finite y) (j : Nat) :
    (∃ z : Int, fp32Real y = z * 2 ^ ((j : Int) - 149)) ∨ (0 < j ∧ |fp32Real y| < 2 ^ 23 * 2 ^ ((j : Int) - 149)) := by
  obtain ⟨n, m, e, hval⟩ := hy
  obtain ⟨hm, he⟩ := fp32_val_fin hval
  rw [fp32Real_of_val hval]
  rcases le_or_gt ((j : Int) - 149) e with hle | hlt
  · obtain ⟨k, rfl⟩ : ∃ k : Nat, e = (j : Int) - 149 + k := ⟨(e - (j - 149)).toNat, by omega⟩
    refine .inl ⟨(if n then -1 else 1) * m * 2 ^ k, ?_⟩
    rw [zpow_add₀ two_ne_zero, zpow_natCast, signFactor]
    push_cast
    ring
  · have hmR : (m : ℝ) < 2 ^ 24 := by exact_mod_cast hm
    have hpow : (2 : ℝ) ^ e * 2 ≤ 2 ^ ((j : Int) - 149) := by
      rw [← zpow_add_one₀ two_ne_zero]
      exact zpow_le_zpow_right₀ one_le_two (by omega)
    have hpos : (0 : ℝ) < 2 ^ e := by positivity
    refine .inr ⟨by omega, ?_⟩
    rw [abs_mul, abs_mul, abs_signFactor, one_mul, Nat.abs_cast, abs_of_pos hpos]
    calc (m : ℝ) * 2 ^ e < 2 ^ 24 * 2 ^ e := by gcongr
      _ = 2 ^ 23 * (2 ^ e * 2) := by ring
      _ ≤ 2 ^ 23 * 2 ^ ((j : Int) - 149) := by gcongr

/-- The nearest whole number against another one. -/
theorem NearestEven.le_int {a : ℝ} {q : Nat} (h : NearestEven a q) (z : Int) :
    |q - a| ≤ |z - a| ∧ (|q - a| = |z - a| → (z : ℝ) = q ∨ q % 2 = 0) := by
  obtain ⟨hle, heven⟩ := h
  rw [abs_sub_comm] at hle heven
  by_cases hz : z = q
  · subst hz
    exact ⟨le_rfl, fun _ => .inl (by norm_cast)⟩
  have h1 : (1 : ℝ) ≤ |(z : ℝ) - q| := by
    have : (1 : Int) ≤ |z - q| := Int.one_le_abs (sub_ne_zero.mpr hz)
    exact_mod_cast this
  have h2 : |(z : ℝ) - q| ≤ |z - a| + |q - a| := by
    rw [abs_sub_comm (q : ℝ) a]
    exact abs_sub_le _ _ _
  exact ⟨by linarith, fun he => .inr (heven (by linarith))⟩

/-- The nearest whole number against a number that is whole or below every full significand, while a has one. -/
theorem NearestEven.le_of_units {a y : ℝ} {q : Nat} (h : NearestEven a q) (hy : (∃ z : Int, y = z) ∨ (y < 2 ^ 23 ∧ 2 ^ 23 ≤ a)) :
    |q - a| ≤ |y - a| ∧ (|q - a| = |y - a| → y = q ∨ q % 2 = 0) := by
  rcases hy with ⟨z, rfl⟩ | ⟨hlt, hle⟩
  · exact h.le_int z
  · have h1 : |(q : ℝ) - a| ≤ |((2 ^ 23 : Int) : ℝ) - a| := (h.le_int (2 ^ 23)).1
    rw [show ((2 ^ 23 : Int) : ℝ) = 2 ^ 23 by norm_num] at h1
    have h2 : |(2 : ℝ) ^ 23 - a| < |y - a| := by
      rw [abs_of_nonpos (by linarith), abs_of_nonpos (by linarith)]
      linarith
    exact ⟨(h1.trans_lt h2).le, fun he => absurd he (h1.trans_lt h2).ne⟩

section
variable {v : ℝ} {j q : Nat} (hnear : NearestEven (v / 2 ^ ((j : Int) - 149)) q) (hlt : v < 2 ^ 24 * 2 ^ ((j : Int) - 149))
  (hge : j = 0 ∨ 2 ^ 23 * 2 ^ ((j : Int) - 149) ≤ v)
include hnear

include hlt in
theorem units_le : q ≤ 2 ^ 24 := by
  have hu : (0 : ℝ) < 2 ^ ((j : Int) - 149) := by positivity
  have h1 := (abs_le.mp hnear.1).1
  have h2 : v / 2 ^ ((j : Int) - 149) < 2 ^ 24 := (div_lt_iff₀ hu).mpr hlt
  have h3 : (q : ℝ) < 2 ^ 24 + 1 := by linarith
  exact Nat.lt_succ_iff.mp (by exact_mod_cast h3)

include hge in
theorem units_ge : j = 0 ∨ 2 ^ 23 ≤ q := by
  refine hge.imp_right fun hge => ?_
  have hu : (0 : ℝ) < 2 ^ ((j : Int) - 149) := by positivity
  have h1 := (abs_le.mp hnear.1).2
  have h2 : 2 ^ 23 ≤ v / 2 ^ ((j : Int) - 149) := (le_div_iff₀ hu).mpr hge
  have h3 : (2 : ℝ) ^ 23 < q + 1 := by linarith
  exact Nat.lt_succ_iff.mp (by exact_mod_cast h3)

include hlt hge in
/-- The encoding overflows where the number is at least half a unit above the largest finite one (R84). -/
theorem overflows_iff : 255 * 2 ^ 23 ≤ j * 2 ^ 23 + q ↔ 2 ^ 128 - 2 ^ 103 ≤ v := by
  have hq := units_le hnear hlt
  have hq' := units_ge hnear hge
  have hz : ∀ a b : Int, a ≤ b → (2 : ℝ) ^ a ≤ 2 ^ b := fun a b h => zpow_le_zpow_right₀ one_le_two h
  rcases lt_trichotomy j 253 with hj | rfl | hj
  · have := hz ((j : Int) - 149) 103 (by omega)
    rw [show (2 : ℝ) ^ (103 : Int) = 2 ^ 103 by norm_cast] at this
    refine iff_of_false (by omega) (not_le.mpr (hlt.trans_le ?_))
    calc (2 : ℝ) ^ 24 * 2 ^ ((j : Int) - 149) ≤ 2 ^ 24 * 2 ^ 103 := by gcongr
      _ ≤ 2 ^ 128 - 2 ^ 103 := by norm_num
  · rw [show ((253 : Nat) : Int) - 149 = (104 : Nat) by norm_num, zpow_natCast] at hnear hlt hge
    have hA : v = v / 2 ^ 104 * 2 ^ 104 := by field_simp
    obtain ⟨hnear, heven⟩ := hnear
    rw [abs_le] at hnear
    constructor
    · intro h
      obtain rfl : q = 2 ^ 24 := by omega
      push_cast at hnear
      rw [hA]
      nlinarith [hnear.1]
    · intro h
      by_contra hcon
      have hq1 : (q : ℝ) ≤ 2 ^ 24 - 1 := by
        have : q + 1 ≤ 2 ^ 24 := by omega
        have : ((q + 1 : Nat) : ℝ) ≤ 2 ^ 24 := by exact_mod_cast this
        push_cast at this
        linarith
      have h1 : (2 : ℝ) ^ 24 - 1 / 2 ≤ v / 2 ^ 104 := by rw [le_div_iff₀ (by positivity)]; linarith
      have hqe : (q : ℝ) = 2 ^ 24 - 1 := by linarith [hnear.2]
      have hodd : q = 2 ^ 24 - 1 := by
        have : ((q + 1 : Nat) : ℝ) = (2 ^ 24 : Nat) := by push_cast; linarith
        have : q + 1 = 2 ^ 24 := by exact_mod_cast this
        omega
      have := heven (by rw [abs_of_nonneg] <;> linarith [hnear.2])
      omega
  · have := hz 105 ((j : Int) - 149) (by omega)
    rw [show (2 : ℝ) ^ (105 : Int) = 2 ^ 105 by norm_cast] at this
    refine iff_of_true (by omega) (le_trans ?_ (hge.resolve_left (by omega)))
    calc (2 : ℝ) ^ 128 - 2 ^ 103 ≤ 2 ^ 23 * 2 ^ 105 := by norm_num
      _ ≤ 2 ^ 23 * 2 ^ ((j : Int) - 149) := by gcongr

end

/-- FP32 rounding to nearest even gives the nearest word (R84). -/
theorem fp32_round_nearest (n : Bool) {m : Nat} {e : Int} {v : ℝ} (hm : m ≠ 0) (h : Sticky m e v) :
    Fp32Nearest (signFactor n * v) (BitVec.ofNat 32 (fp32.round .rne n m e)) := by
  have hv : 0 < v := lt_of_lt_of_le (by positivity) (h.bounds hm).1
  obtain ⟨j, q, hnear, hlt, hge, hround⟩ := fp32_round_rne n hm h
  have hover := overflows_iff hnear hlt hge
  have habs : |signFactor n * v| = v := by rw [abs_mul, abs_signFactor, one_mul, abs_of_pos hv]
  rw [Fp32Nearest, habs, hround]
  by_cases ho : 255 * 2 ^ 23 ≤ j * 2 ^ 23 + q
  · rw [if_neg (not_lt.mpr (hover.mp ho)), if_pos ho]
    cases n
    · rw [if_neg (by simp [signFactor, hv.le])]; rfl
    · rw [if_pos (by simp [signFactor, hv])]; rfl
  rw [if_pos (not_le.mp (mt hover.mpr ho)), if_neg ho]
  rw [not_le] at ho
  have hnat : (BitVec.ofNat 32 ((if n then 2 ^ 31 else 0) + (j * 2 ^ 23 + q))).toNat = (if n then 2 ^ 31 else 0) + (j * 2 ^ 23 + q) := by
    rw [BitVec.toNat_ofNat]
    cases n
    · simp; omega
    · simp; omega
  have hlow : q % 2 = 0 → (BitVec.ofNat 32 ((if n then 2 ^ 31 else 0) + (j * 2 ^ 23 + q))).getLsbD 0 = false := fun hq => by
    rw [BitVec.getLsbD, hnat, Nat.testBit_zero]
    cases n
    · simp; omega
    · simp; omega
  generalize BitVec.ofNat 32 ((if n then 2 ^ 31 else 0) + (j * 2 ^ 23 + q)) = r at hnat hlow ⊢
  obtain ⟨m', e', hval, hme⟩ := fp32_val_linear n (units_le hnear hlt) (units_ge hnear hge) ho
  rw [← hnat] at hval
  have hr : fp32Real r = signFactor n * (q * 2 ^ ((j : Int) - 149)) := by rw [fp32Real_of_val hval, mul_assoc, hme]
  refine ⟨⟨n, m', e', hval⟩, fun y hy => ?_⟩
  have hunits := fp32Real_units hy j
  have hge' : 0 < j → 2 ^ 23 ≤ v / 2 ^ ((j : Int) - 149) := fun hj =>
    (le_div_iff₀ (by positivity)).mpr (hge.resolve_left hj.ne')
  have hupos : (0 : ℝ) < 2 ^ ((j : Int) - 149) := by positivity
  generalize (2 : ℝ) ^ ((j : Int) - 149) = u at *
  have hdist : ∀ w : ℝ, |w - signFactor n * v| = |signFactor n * w / u - v / u| * u := fun w => by
    have hw : w - signFactor n * v = signFactor n * (signFactor n * w - v) := by
      rw [mul_sub, ← mul_assoc, signFactor_mul_self, one_mul]
    rw [hw, abs_mul, abs_signFactor, one_mul, ← sub_div, abs_div, abs_of_pos hupos, div_mul_cancel₀ _ hupos.ne']
  have hrq : signFactor n * fp32Real r / u = q := by
    rw [hr, ← mul_assoc, signFactor_mul_self, one_mul, mul_div_cancel_right₀ _ hupos.ne']
  have hY : (∃ z : Int, signFactor n * fp32Real y / u = z) ∨ (signFactor n * fp32Real y / u < 2 ^ 23 ∧ 2 ^ 23 ≤ v / u) := by
    refine hunits.imp (fun ⟨z, hz⟩ => ?_) fun ⟨hj, hlt⟩ => ⟨?_, hge' hj⟩
    · refine ⟨(if n then -1 else 1) * z, ?_⟩
      rw [hz, ← mul_assoc, mul_div_cancel_right₀ _ hupos.ne', signFactor]
      push_cast
      rfl
    · rw [div_lt_iff₀ hupos]
      exact (le_abs_self _).trans_lt (by rwa [abs_mul, abs_signFactor, one_mul])
  obtain ⟨hle, heq⟩ := hnear.le_of_units hY
  rw [hdist, hdist, hrq]
  refine ⟨mul_le_mul_of_nonneg_right hle hupos.le, fun he => (heq (mul_right_cancel₀ hupos.ne' he)).imp (fun hyq => ?_) hlow⟩
  rw [← hrq, div_left_inj' hupos.ne'] at hyq
  exact mul_left_cancel₀ (signFactor_ne_zero n) hyq

end Sys2Proof.Machine
end

section
/-!
SUPPORT. Reciprocal, square root and integer powers of two (R109), and the statement on the FP32 functions of one operand.
-/
namespace Sys2Proof.Machine
open Sys2Proof

/-! ### Reciprocal -/

/-- The quotient of 2^64 with its sticky bit stands for the reciprocal. -/
theorem sticky_reciprocal {m : Nat} (e : Int) (h0 : m ≠ 0) (hm : m < 2 ^ 24) :
    Sticky (2 * (2 ^ 64 / m) + (if 2 ^ 64 % m = 0 then 0 else 1)) (-e - 65) (1 / (m * 2 ^ e)) := by
  have hdiv : m * (2 ^ 64 / m) + 2 ^ 64 % m = 2 ^ 64 := Nat.div_add_mod ..
  have hr := Nat.mod_lt (2 ^ 64) (Nat.pos_of_ne_zero h0)
  have hq : 2 ^ 40 ≤ 2 ^ 64 / m := by
    rw [Nat.le_div_iff_mul_le (Nat.pos_of_ne_zero h0)]
    calc 2 ^ 40 * m ≤ 2 ^ 40 * 2 ^ 24 := by gcongr
      _ = 2 ^ 64 := by norm_num
  generalize 2 ^ 64 / m = q at *
  generalize 2 ^ 64 % m = r at *
  have hmR : (0 : ℝ) < m := by exact_mod_cast Nat.pos_of_ne_zero h0
  have hdivR : (m : ℝ) * q + r = 2 ^ 64 := by exact_mod_cast hdiv
  have hz : (2 : ℝ) ^ (-e - 65) = 1 / (2 ^ e * (2 * 2 ^ 64)) := by
    rw [zpow_sub₀ two_ne_zero, zpow_neg, show (2 : ℝ) ^ (65 : Int) = 2 * 2 ^ 64 by norm_cast]
    field_simp
  have he : (0 : ℝ) < 2 ^ e := by positivity
  have hrR : (r : ℝ) < m := by exact_mod_cast hr
  have hK : (0 : ℝ) < 2 ^ 64 := by positivity
  generalize (2 : ℝ) ^ 64 = K at *
  generalize (2 : ℝ) ^ e = u at *
  rw [Sticky, hz]
  split
  · next h =>
    subst h
    left
    rw [← hdivR] at hK ⊢
    simp only [Nat.cast_zero, add_zero] at hK ⊢
    have hq0 : (q : ℝ) ≠ 0 := (pos_of_mul_pos_right hK hmR.le).ne'
    push_cast
    field_simp
  · next h =>
    have hr0 : (0 : ℝ) < r := by exact_mod_cast Nat.pos_of_ne_zero h
    refine .inr ⟨by omega, by omega, ?_, ?_⟩
    · push_cast
      rw [mul_one_div, div_lt_div_iff₀ (by positivity) (by positivity)]
      nlinarith
    · push_cast
      rw [mul_one_div, div_lt_div_iff₀ (by positivity) (by positivity)]
      nlinarith

/-! ### Square root -/

theorem isqrt_spec (n i r : Nat) (hlo : r * r ≤ n) (hhi : n < (r + 2 ^ i) * (r + 2 ^ i)) :
    isqrt n i r * isqrt n i r ≤ n ∧ n < (isqrt n i r + 1) * (isqrt n i r + 1) := by
  induction i generalizing r with
  | zero => exact ⟨hlo, hhi⟩
  | succ i ih =>
    rw [isqrt]
    split
    · next h => exact ih _ h (by rwa [show r + 2 ^ i + 2 ^ i = r + 2 ^ (i + 1) by rw [pow_succ]; omega])
    · next h => exact ih _ hlo (not_le.mp h)

/-- The root of a whole number, twice with its sticky bit, stands for the root. -/
theorem sticky_sqrt {k : Nat} (e : Int) (hlo : 2 ^ 90 ≤ k) (hhi : k < 2 ^ 120) :
    Sticky (2 * isqrt k 60 0 + (if isqrt k 60 0 * isqrt k 60 0 = k then 0 else 1)) (e - 1) (Real.sqrt k * 2 ^ e) := by
  obtain ⟨h1, h2⟩ := isqrt_spec k 60 0 (by omega) (by rw [Nat.zero_add, ← pow_add]; exact hhi)
  have hr : 2 ^ 45 ≤ isqrt k 60 0 := by
    by_contra h
    have : (isqrt k 60 0 + 1) * (isqrt k 60 0 + 1) ≤ 2 ^ 45 * 2 ^ 45 := Nat.mul_le_mul (by omega) (by omega)
    omega
  generalize isqrt k 60 0 = r at *
  have he : (0 : ℝ) < 2 ^ e := by positivity
  rw [Sticky, zpow_sub_one₀ two_ne_zero]
  generalize (2 : ℝ) ^ e = u at *
  split
  · next h =>
    subst h
    left
    rw [Nat.cast_mul, Real.sqrt_mul_self (Nat.cast_nonneg r)]
    push_cast
    ring
  · next h =>
    have h1R : (r : ℝ) < Real.sqrt k := Real.lt_sqrt_of_sq_lt (by rw [sq]; exact_mod_cast lt_of_le_of_ne h1 h)
    have h2R : Real.sqrt k < r + 1 := (Real.sqrt_lt' (by positivity)).mpr (by rw [sq]; exact_mod_cast h2)
    refine .inr ⟨by omega, by omega, ?_, ?_⟩
    · push_cast; nlinarith
    · push_cast; nlinarith

/-! ### Reciprocals, roots and powers of FP32 words -/

theorem Sticky.ne_zero {m : Nat} {e : Int} {v : ℝ} (h : Sticky m e v) (hv : 0 < v) : m ≠ 0 := by
  rintro rfl
  rcases h with rfl | ⟨h, -⟩
  · simp at hv
  · exact absurd h (by decide)

theorem fp32Real_sign {x : Word} {n : Bool} {m : Nat} {e : Int} (h : fp32.val x.toNat = .fin n m e) :
    (fp32Real x ≠ 0 ↔ m ≠ 0) ∧ (0 < fp32Real x ↔ n = false ∧ m ≠ 0) := by
  have he : (0 : ℝ) < 2 ^ e := by positivity
  have hm : (0 : ℝ) ≤ m := Nat.cast_nonneg m
  rw [fp32Real_of_val h]
  constructor
  · simp [signFactor_ne_zero, he.ne']
  · cases n
    · simp [signFactor, he, Nat.pos_iff_ne_zero]
    · simp [signFactor]; positivity

/-- `frcp` of a number that is not 0 is the nearest word to its reciprocal. -/
theorem frcp32_nearest {x : Word} (hx : Fp32Finite x) (h0 : fp32Real x ≠ 0) :
    Fp32Nearest (1 / fp32Real x) (BitVec.ofNat 32 (frcp32 x.toNat)) := by
  obtain ⟨n, m, e, hval⟩ := hx
  have hm := (fp32Real_sign hval).1.mp h0
  have hr : 1 / fp32Real x = signFactor n * (1 / (m * 2 ^ e)) := by
    rw [fp32Real_of_val hval]
    cases n <;> simp [signFactor]
  have hs := sticky_reciprocal e hm (fp32_val_fin hval).1
  rw [hr, frcp32, hval]
  simp only [if_neg hm]
  exact fp32_round_nearest n (hs.ne_zero (by positivity)) hs

/-- The root of m * 2^(2 * e), rounded from the root of m * 2^90. -/
theorem round_isqrt_nearest {m : Nat} (e : Int) (h0 : m ≠ 0) (hm : m < 2 ^ 25) :
    Fp32Nearest (Real.sqrt (m * 2 ^ (2 * e))) (BitVec.ofNat 32 (fp32.round .rne false
      (2 * isqrt (m * 2 ^ 90) 60 0 + (if isqrt (m * 2 ^ 90) 60 0 * isqrt (m * 2 ^ 90) 60 0 = m * 2 ^ 90 then 0 else 1)) (e - 45 - 1))) := by
  have hs := sticky_sqrt (k := m * 2 ^ 90) (e - 45) (by omega) (by omega)
  have hmR : (0 : ℝ) < m := by exact_mod_cast Nat.pos_of_ne_zero h0
  have hroot : Real.sqrt ((m * 2 ^ 90 : Nat) : ℝ) * 2 ^ (e - 45) = Real.sqrt (m * 2 ^ (2 * e)) := by
    have hsq : (m : ℝ) * 2 ^ (2 * e) = ((m * 2 ^ 90 : Nat) : ℝ) * (2 ^ (e - 45)) ^ 2 := by
      rw [← zpow_natCast, ← zpow_mul, show (e - 45) * ((2 : Nat) : Int) = 2 * e - 90 by push_cast; ring, zpow_sub₀ two_ne_zero,
        show (2 : ℝ) ^ (90 : Int) = 2 ^ 90 by norm_cast]
      push_cast
      field_simp
      norm_num
    rw [hsq, Real.sqrt_mul (Nat.cast_nonneg _), Real.sqrt_sq (by positivity)]
  rw [hroot] at hs
  have := fp32_round_nearest false (hs.ne_zero (Real.sqrt_pos.mpr (by positivity))) hs
  rwa [signFactor, if_neg (by decide), one_mul] at this

/-- `fsqrt` of a positive number is the nearest word to its root. -/
theorem fsqrt32_nearest {x : Word} (hx : Fp32Finite x) (h0 : 0 < fp32Real x) :
    Fp32Nearest (Real.sqrt (fp32Real x)) (BitVec.ofNat 32 (fsqrt32 x.toNat)) := by
  obtain ⟨n, m, e, hval⟩ := hx
  obtain ⟨rfl, hm⟩ := (fp32Real_sign hval).2.mp h0
  obtain ⟨hlt, -⟩ := fp32_val_fin hval
  rw [fsqrt32, hval, fp32Real_of_val hval, signFactor, if_neg (by decide), one_mul]
  simp only [if_neg hm, Bool.false_eq_true, if_false]
  rcases Int.even_or_odd' e with ⟨c, rfl | rfl⟩
  · have h2 : ¬ 2 * c % 2 ≠ 0 := by omega
    rw [if_neg h2, if_neg h2, show (2 * c - 90) / 2 = c - 45 by omega]
    exact round_isqrt_nearest c hm (by omega)
  · have h2 : (2 * c + 1) % 2 ≠ 0 := by omega
    rw [if_pos h2, if_pos h2, show (2 * c + 1 - 1 - 90) / 2 = c - 45 by omega,
      show (m : ℝ) * 2 ^ (2 * c + 1) = ((2 * m : Nat) : ℝ) * 2 ^ (2 * c) by rw [zpow_add_one₀ two_ne_zero]; push_cast; ring]
    exact round_isqrt_nearest c (by omega) (by omega)

theorem toInt?_of_real {x : Word} {n : Bool} {m : Nat} {e k : Int} (hval : fp32.val x.toNat = .fin n m e) (hk : fp32Real x = k) :
    (FVal.fin n m e).toInt? = some k := by
  rw [fp32Real_of_val hval] at hk
  have hs : ∀ a : Nat, signFactor n * (a : ℝ) = ((sInt n a : Int) : ℝ) := fun a => by cases n <;> simp [signFactor, sInt]
  rw [FVal.toInt?]
  rcases le_or_gt 0 e with he | he
  · obtain ⟨j, rfl⟩ := Int.eq_ofNat_of_zero_le he
    rw [if_pos he, Int.toNat_natCast]
    rw [mul_assoc, zpow_natCast, show (m : ℝ) * 2 ^ j = ((m * 2 ^ j : Nat) : ℝ) by push_cast; rfl, hs] at hk
    exact congrArg some (by exact_mod_cast hk)
  · obtain ⟨j, rfl⟩ : ∃ j : Nat, e = -j := ⟨(-e).toNat, by omega⟩
    have hp : (2 : ℝ) ^ j ≠ 0 := by positivity
    rw [zpow_neg, zpow_natCast, ← div_eq_mul_inv, div_eq_iff hp, hs] at hk
    have hz : sInt n m = k * 2 ^ j := by exact_mod_cast hk
    have hm : m = k.natAbs * 2 ^ j := by
      have habs := congrArg Int.natAbs hz
      rwa [Int.natAbs_mul, Int.natAbs_pow, show (sInt n m).natAbs = m by cases n <;> simp [sInt]] at habs
    rw [if_neg (not_le.mpr he), neg_neg, Int.toNat_natCast, hm, Nat.mul_mod_left,
      if_pos rfl, Nat.mul_div_cancel _ (Nat.two_pow_pos j)]
    rw [hm, show sInt n (k.natAbs * 2 ^ j) = sInt n k.natAbs * 2 ^ j by cases n <;> simp [sInt]] at hz
    exact congrArg some (mul_right_cancel₀ (by positivity) hz)

/-- A power of two from the least FP32 number to the greatest power below infinity is rounded to itself. -/
theorem round_two_pow {k : Int} (hlo : -149 ≤ k) (hhi : k ≤ 127) :
    Fp32Finite (BitVec.ofNat 32 (fp32.round .rne false 1 k)) ∧ fp32Real (BitVec.ofNat 32 (fp32.round .rne false 1 k)) = 2 ^ k := by
  have hj : unitIndex 1 k = (max (k - 23) (-149) + 149).toNat := by
    rw [unitIndex, show Nat.log2 1 = 0 from rfl, Nat.cast_zero, zero_add]
  have hq : rneUnits 1 k ((unitIndex 1 k : Int) - 149) = 2 ^ (k + 149 - unitIndex 1 k).toNat := by
    rw [rneUnits, if_pos (by omega), one_mul]
    congr 1
    omega
  have hle : (k + 149 - unitIndex 1 k).toNat ≤ 23 := by omega
  have hq23 : 2 ^ (k + 149 - unitIndex 1 k).toNat ≤ 2 ^ 23 := Nat.pow_le_pow_right two_pos hle
  have hfull : unitIndex 1 k = 0 ∨ 2 ^ 23 ≤ 2 ^ (k + 149 - unitIndex 1 k).toNat :=
    or_iff_not_imp_left.mpr fun h => Nat.pow_le_pow_right two_pos (by omega)
  have hlt : unitIndex 1 k * 2 ^ 23 + 2 ^ (k + 149 - unitIndex 1 k).toNat < 255 * 2 ^ 23 := by omega
  obtain ⟨m, e, hval, hme⟩ := fp32_val_linear false (hq23.trans (by norm_num)) hfull hlt
  have hnat : (BitVec.ofNat 32 (fp32.round .rne false 1 k)).toNat =
      (if false then 2 ^ 31 else 0) + (unitIndex 1 k * 2 ^ 23 + 2 ^ (k + 149 - unitIndex 1 k).toNat) := by
    rw [fp32_round_eq _ _ one_ne_zero, hq, if_neg (not_le.mpr hlt), BitVec.toNat_ofNat, if_neg (by decide)]
    omega
  rw [← hnat] at hval
  refine ⟨⟨_, _, _, hval⟩, ?_⟩
  rw [fp32Real_of_val hval, signFactor, if_neg (by decide), one_mul, hme]
  push_cast
  rw [← zpow_natCast, ← zpow_add₀ two_ne_zero]
  congr 1
  omega

/-- `fexp2` of a whole number from -149 to 127 is that power of two. -/
theorem fexp2b32_whole {x : Word} {k : Int} (hx : Fp32Finite x) (hk : fp32Real x = k) (hlo : -149 ≤ k) (hhi : k ≤ 127) :
    Fp32Finite (BitVec.ofNat 32 (fexp2b32 x.toNat)) ∧ fp32Real (BitVec.ofNat 32 (fexp2b32 x.toNat)) = 2 ^ k := by
  obtain ⟨n, m, e, hval⟩ := hx
  rw [fexp2b32, hval]
  simp only [toInt?_of_real hval hk]
  rw [if_pos ⟨hlo, hhi⟩]
  exact round_two_pow hlo hhi

/-! ### Signs, NaN and the operands of R109 -/

theorem isNan32_iff {x : Nat} : isNan32 x = true ↔ fp32.val x = .nan := by
  rw [isNan32, beq_iff_eq]

/-- A word above -0 that is no NaN is minus infinity or a negative number. -/
theorem fp32_val_of_negative {x : Word} (hn : isNan32 x.toNat = false) (hx : 0x80000000#32 < x) :
    fp32.val x.toNat = .inf true ∨ ∃ m e, m ≠ 0 ∧ fp32.val x.toNat = .fin true m e := by
  have hnan : fp32.val x.toNat ≠ .nan := fun h => by rw [isNan32_iff.mpr h] at hn; exact nomatch hn
  have hlt : 2 ^ 31 < x.toNat := by simpa [BitVec.lt_def] using hx
  have hx32 := x.isLt
  have hbit : bit x.toNat 31 = true := by rw [bit, beq_iff_eq]; omega
  rw [fp32_val_eq, hbit] at hnan ⊢
  split at hnan
  · split at hnan
    · next h1 h2 => rw [if_pos h1, if_pos h2]; exact .inl rfl
    · exact absurd rfl hnan
  · next h1 =>
    rw [if_neg h1]
    split
    · next h2 => exact .inr ⟨_, _, by omega, rfl⟩
    · exact .inr ⟨_, _, by omega, rfl⟩

theorem fabs32_eq_and {x : Word} (hn : isNan32 x.toNat = false) : BitVec.ofNat 32 (fabs32 x.toNat) = x &&& 0x7FFFFFFF#32 := by
  rw [fabs32, hn, if_neg (by decide)]
  apply BitVec.eq_of_toNat_eq
  rw [BitVec.toNat_ofNat, BitVec.toNat_and, show (0x7FFFFFFF#32).toNat = 2 ^ 31 - 1 from rfl, Nat.and_two_pow_sub_one_eq_mod]
  omega

/-- Adding the top bit inverts it. -/
theorem add_intMin_eq_xor (x : Word) : x + 0x80000000#32 = x ^^^ 0x80000000#32 := by
  apply BitVec.eq_of_getLsbD_eq
  intro i hi
  rw [BitVec.getLsbD, BitVec.toNat_add, Nat.testBit_mod_two_pow, decide_eq_true hi, Bool.true_and, Nat.add_comm,
    show (0x80000000#32).toNat = 2 ^ 31 from rfl, BitVec.getLsbD_xor, show 0x80000000#32 = BitVec.twoPow 32 31 from rfl, BitVec.getLsbD_twoPow]
  rcases Nat.lt_succ_iff_lt_or_eq.mp hi with h | rfl
  · rw [Nat.testBit_two_pow_add_gt h]
    simp [h.ne', BitVec.getLsbD]
  · rw [Nat.testBit_two_pow_add_eq]
    simp [BitVec.getLsbD]

theorem fneg32_eq_xor {x : Word} (hn : isNan32 x.toNat = false) : BitVec.ofNat 32 (fneg32 x.toNat) = x ^^^ 0x80000000#32 := by
  rw [fneg32, hn, if_neg (by decide), ← add_intMin_eq_xor]
  apply BitVec.eq_of_toNat_eq
  rw [BitVec.toNat_ofNat, BitVec.toNat_add, Nat.mod_mod]
  rfl

/-- Settles O5: the model's functions of R109 as word operations. -/
theorem laneFloatFunctionResults : Obligations.LaneFloatFunctionResults := by
  unfold Obligations.LaneFloatFunctionResults
  intro finite real nearest
  refine ⟨fun x => BitVec.ofNat 32 (fabs32 x.toNat), fun x => BitVec.ofNat 32 (fneg32 x.toNat), fun x => BitVec.ofNat 32 (frcp32 x.toNat),
    fun x => BitVec.ofNat 32 (frsq32 x.toNat), fun x => BitVec.ofNat 32 (fsqrt32 x.toNat), fun x => BitVec.ofNat 32 (fexp2b32 x.toNat),
    fun x => BitVec.ofNat 32 (flog2b32 x.toNat), fun x => BitVec.ofNat 32 (fsin32 x.toNat), fun x => BitVec.ofNat 32 (fcos32 x.toNat),
    completesR1_of_alu1 execFabs (fun _ _ => rfl) (fun _ _ => rfl) fun _ => rfl,
    completesR1_of_alu1 execFneg (fun _ _ => rfl) (fun _ _ => rfl) fun _ => rfl,
    completesR1_of_alu1 execFrcp (fun _ _ => rfl) (fun _ _ => rfl) fun _ => rfl,
    completesR1_of_alu1 execFrsq (fun _ _ => rfl) (fun _ _ => rfl) fun _ => rfl,
    completesR1_of_alu1 execFsqrt (fun _ _ => rfl) (fun _ _ => rfl) fun _ => rfl,
    completesR1_of_alu1 execFexp2 (fun _ _ => rfl) (fun _ _ => rfl) fun _ => rfl,
    completesR1_of_alu1 execFlog2 (fun _ _ => rfl) (fun _ _ => rfl) fun _ => rfl,
    completesR1_of_alu1 execFsin (fun _ _ => rfl) (fun _ _ => rfl) fun _ => rfl,
    completesR1_of_alu1 execFcos (fun _ _ => rfl) (fun _ _ => rfl) fun _ => rfl,
    fun x hx => ?nan, fun x hx => ⟨fabs32_eq_and hx, fneg32_eq_xor hx⟩, fun x hx hneg => ?negative, ?rcp, ?rsq, ?sqrt, ?exp2,
    fun x => frcp32_nearest, fun x => fsqrt32_nearest, fun x k => fexp2b32_whole, ?log2, ?sin, ?infinite⟩
  case nan =>
    have hval := isNan32_iff.mp hx
    have hbits : BitVec.ofNat 32 fp32.nanBits = 0x7FC00000#32 := rfl
    simp [fabs32, fneg32, frcp32, frsq32, fsqrt32, fexp2b32, flog2b32, fsin32, fcos32, hx, hval, hbits]
  case negative =>
    rcases fp32_val_of_negative hx hneg with hval | ⟨m, e, hm, hval⟩
    · simp only [frsq32, fsqrt32, flog2b32, hval]
      exact ⟨rfl, rfl, rfl⟩
    · simp only [frsq32, fsqrt32, flog2b32, hval, if_neg hm]
      exact ⟨rfl, rfl, rfl⟩
  case rcp => exact ⟨rfl, rfl, rfl, rfl⟩
  case rsq => exact ⟨rfl, rfl, rfl⟩
  case sqrt => exact ⟨rfl, rfl, rfl⟩
  case exp2 => exact ⟨rfl, rfl, rfl⟩
  case log2 => exact ⟨rfl, rfl, rfl, rfl⟩
  case sin => exact ⟨rfl, rfl⟩
  case infinite =>
    simp only [List.mem_cons, List.not_mem_nil, or_false, forall_eq_or_imp, forall_eq]
    exact ⟨⟨rfl, rfl⟩, rfl, rfl⟩

end Sys2Proof.Machine
end

section
/-!
SUPPORT. States that refute the statements on `wait`, on the retirement of a group, and on group-wide operations.
-/
namespace Sys2Proof.Machine
open Sys2Proof

/-! ### States of one block -/

/-- Group `gid` in the state that an outcome answers. -/
def groupAfter (gid : Nat) (o : Out) : Option Group :=
  match o with
  | .next t => find t.groups gid
  | _ => none

theorem groupAfter_setG {s : State} {gid : Nat} {g : Group} (hg : find s.groups gid = some g) (g' : Group) :
    groupAfter gid (.next (s.setG gid g')) = some g' := State.find_setG hg g'

/-- Group 0 of block 1, active and ready in slot 0. -/
def loneGroup : Group := { bid := 1, num := 0, cluster := 0, sp := 0, slot := 0, phase := .aReady, active := some 0 }

/-- Group 32 issues at 0x10000, its block resident; `gs` are the groups. -/
def loneState (gs : SMap Group) : State :=
  { cur := .group 32 0x10000#64, groups := gs, blocks := [(1, fetchBlock)], launches := [(1, fetchLaunch)] }

/-! ### `wait` -/

/-- Lane 0 executes, lanes 1 and 2 stand elsewhere; lanes 0 and 1 are the members of j0, lane 2 is the one member of j1 and is held at a wait on it. -/
def waitingGroup : Group :=
  { loneGroup with
    exited := ~~~7#32, pc := [(0, 0x10000#64)], hold := [(2, .wait 1)]
    j := [(0, { mask := 3#32, addr := 0#64 }), (1, { mask := 4#32, addr := 0#64 })] }

/-- `wait j0`. -/
def waitOnZero : WForm := { sw := 0, g := 7, j := 0 }

theorem ready_waitOnZero : Ready (loneState [(32, waitingGroup)]) 32 0x10000#64 waitingGroup (.waitI waitOnZero) waitOnZero.sw {} where
  cur := rfl
  here := rfl
  lanes := by decide
  may := by decide
  free := rfl
  clean := rfl
  formed := rfl
  budget := by decide

/-- The wait on j0 also releases j1. -/
theorem rejoin_after_waitOnZero :
    (groupAfter 32 (exec (.waitI waitOnZero) (loneState [(32, waitingGroup)]))).map (fun g => (g.rejoin 1).mask) = some 0#32 := by
  decide

/-- Refutes O10: the premise that no other rejoin register is ready ranges over `n < 16` in `Fin 16`, where 16 is 0, so it says nothing. With
j1 ready, `wait j0` frees j1 too, where the statement lets it change PCs and holds alone. -/
theorem not_waitHoldsUntilAllMembersArrive : ¬ Obligations.WaitHoldsUntilAllMembersArrive := by
  unfold Obligations.WaitHoldsUntilAllMembersArrive
  intro h
  obtain ⟨hfirst, -⟩ := h waitOnZero _ _ _ _ ready_waitOnZero fun n hn => absurd hn (Nat.not_lt_zero n.val)
  obtain ⟨g', he, hg', -⟩ := hfirst ⟨1, by decide⟩
  have hj : g'.j = waitingGroup.j := by rw [hg', Group.begun_eq]
  have hfreed := rejoin_after_waitOnZero
  rw [he, groupAfter_setG rfl, Option.map_some, Group.rejoin, hj] at hfreed
  exact absurd hfreed (by decide)

/-! ### `exit` -/

/-- Lane 0 is the one live lane. -/
def lastLaneGroup : Group := { loneGroup with exited := ~~~1#32, pc := [(0, 0x10000#64)] }

/-- A parked group that is ready for a slot. -/
def parkedGroup : Group := { loneGroup with phase := .pReady false, active := none }

/-- `exit` under no guard. -/
def exitAlways : NForm := { sw := 0, g := 7 }

theorem ready_exitAlways :
    Ready (loneState [(32, lastLaneGroup), (32, parkedGroup)]) 32 0x10000#64 lastLaneGroup (.exitI exitAlways) exitAlways.sw {} where
  cur := rfl
  here := rfl
  lanes := by decide
  may := by decide
  free := rfl
  clean := rfl
  formed := rfl
  budget := by decide

/-- The slot that the group leaves goes to the parked group, which is looked up under the same number. -/
theorem phase_after_exitAlways :
    (groupAfter 32 (exec (.exitI exitAlways) (loneState [(32, lastLaneGroup), (32, parkedGroup)]))).map (·.phase) = some .aReady := by
  decide +kernel

/-- Refutes O11: the statement ranges over states that list two groups under one number. There the parked one takes the slot of the one that
retires, and the update of that number overwrites both. -/
theorem not_exitEndsLanesAndRetiresTheGroup : ¬ Obligations.ExitEndsLanesAndRetiresTheGroup := by
  unfold Obligations.ExitEndsLanesAndRetiresTheGroup
  intro h
  obtain ⟨-, hlast⟩ := h exitAlways _ _ _ _ ready_exitAlways (by decide) (by decide)
  obtain ⟨t, g', he, hfind, hphase, -⟩ := hlast (by decide)
  have hslot := phase_after_exitAlways
  rw [he, groupAfter, hfind, Option.map_some, hphase] at hslot
  exact absurd hslot (by decide)

/-! ### Group-wide operations -/

/-- `vote` that counts the lanes whose v1 is not 0, its members in s0, into v0. -/
def countVote : GForm := { sw := 0, g := 7, d := 0, a := 1, mreg := 0, mall := 0, op := 1 }

/-- Lane 0 executes and is the one member; lane 1, no member, is held at the same PC for the same mask. -/
def votingGroup : Group :=
  { loneGroup with
    exited := ~~~3#32, pc := [(0, 0x10000#64), (1, 0x10000#64)], s := [(0, 1#32)]
    hold := [(1, .member 1#32 true (.vote countVote) [1#32])] }

theorem ready_countVote : Ready (loneState [(32, votingGroup)]) 32 0x10000#64 votingGroup (.vote countVote) countVote.sw
    (gUses countVote.d countVote.a countVote.mreg countVote.mall) where
  cur := rfl
  here := rfl
  lanes := by decide
  may := by decide
  free := rfl
  clean := rfl
  formed := rfl
  budget := by decide

/-- Lane 1 contributes and gets the count. -/
theorem vreg_after_countVote :
    (groupAfter 32 (exec (.vote countVote) (loneState [(32, votingGroup)]))).map (fun g => g.vreg 1 0) = some 1#32 := by
  decide

/-- Refutes O13: the premises allow a lane outside M that is held at P with mask M. It contributes, and its register is written, where the
statement has the executing lanes alone contribute. -/
theorem not_groupWideOperationsComplete : ¬ Obligations.GroupWideOperationsComplete := by
  unfold Obligations.GroupWideOperationsComplete
  intro h
  obtain ⟨hvote, -⟩ := h
  obtain ⟨g', he, -, hregs⟩ := hvote countVote _ _ _ _ ready_countVote ⟨by decide, by decide, by decide⟩
  have hcount := vreg_after_countVote
  rw [he, groupAfter_setG rfl, Option.map_some, hregs 1 (by decide) 0 (by decide), if_neg (by decide)] at hcount
  exact absurd hcount (by decide)

end Sys2Proof.Machine
end

section
/-!
SUPPORT. A step as the run of the words that the moving agent fetches (R41, R42, R59, R290, R322, R441).
-/
namespace Sys2Proof.Machine
open Sys2Proof

/-- What running the fetched words w and x comes to, by the way they decode (R59). -/
def RunsDecoded (o : Out) (s : State) (w x : Nat) : Prop :=
  (∀ i, decodeWords w x = .ok i → o = exec i s) ∧ (decodeWords w x = .error .illegalOpcode → o = exec (.illegalOpcode w) s) ∧
  (decodeWords w x = .error .reservedField → o = exec (.illegalOpcode (w + 2 ^ 32)) s)

theorem runsDecoded_iff {o : Out} {s : State} {w x : Nat} : RunsDecoded o s w x ↔ o = runWords s w x := by
  unfold RunsDecoded runWords
  cases decodeWords w x with
  | ok i => simp
  | error e => cases e <;> simp

/-- A move alone in its clk is the next one. -/
theorem State.firstOf_alone {s : State} {m : Move} {rest : List Move} (h : rest.takeWhile Move.sameClk = []) : s.firstOf m rest = (m, rest) := by
  simp only [State.firstOf, h]

/-- A step with an agenda carries out the first of the moves that share its clk. -/
theorem step_agenda {s : State} {m now : Move} {more rest : List Move} (h : s.agenda = m :: more)
    (hfirst : (s.advance m.dt).firstOf m more = (now, rest)) : step s = runMove { s.advance m.dt with agenda := rest } now := by
  simp only [step, h, hfirst]

section Group
variable {s : State} {gid : Nat} {pc : DWord} {g : Group}

/-- A path that may issue goes by what its fetch yields (R441). -/
theorem issueGroup_fetches (hg : find s.groups gid = some g) (hmay : s.mayIssue g pc = true) (hI : g.issued pc ≠ 0#32)
    (hheld : s.fetchHeld g pc = false) :
    issueGroup s gid pc = match s.fetchGroup g pc with
      | (.words w x, t) =>
        if g.spilling.contains pc then runWords t w x
        else if s.pipeTakes gid g w then g.tookPipe gid pc w (runWords t w x) else .next s
      | (.fault code addr detail, t) => exec (.fetchFault (code + 256 * detail) addr) t
      | (.delayed va, t) => .next (t.delayFetch gid g pc va) := by
  simp [issueGroup, hg, State.canIssue, hmay, hI, hheld] <;> rfl

/-- A pipe that takes an instruction is used unless the group stays before it (R290). -/
theorem Group.tookPipe_next {w : Nat} {t : State} :
    g.tookPipe gid pc w (.next t) = .next (if (find t.groups gid).any fun x => x.stays pc then t else t.pipeUsed g w) := rfl

theorem Group.tookPipe_of_not_next {w : Nat} {o : Out} (h : ∀ t, o ≠ .next t) : g.tookPipe gid pc w o = o := by
  cases o with
  | next t => exact absurd rfl (h t)
  | _ => rfl

/-- A fetch that its page delays leaves the path waiting and memory as the fetch left it. -/
theorem State.find_delayFetch (t : State) (g : Group) (va : Nat) :
    find (t.delayFetch gid g pc va).groups gid = (find t.groups gid).map fun x =>
      { x with phase := .aStall, waiting := .fetch (canonAsid (t.asidOf g) va) va, waitPc := pc } := by
  simp [State.delayFetch, State.find_updG]

end Group

/-- A fetch from a core's SRAM without a bad entry reads its four bytes (R322). -/
theorem State.mastFetchWord_sram {s : State} {c a : Nat} (hbad : (s.mast c).bad = []) (ha : a + 4 ≤ 0x40000) :
    s.mastFetchWord c a = (some (.ok ((s.mast c).rd a 4)), s) := by
  have hplace : s.mastPlace c a 4 2 = .sram a := by
    rw [State.mastPlace, if_pos (by omega), if_pos ha]
  simp [State.mastFetchWord, hplace, Mast.badAt, hbad]

/-- A mast core runs the words at a PC in its SRAM (R322). -/
theorem runMast_sram {s : State} {c : Nat} (hbad : (s.mast c).bad = []) (hpc : (s.mast c).pc.toNat + 8 ≤ 0x40000) :
    let w := (s.mast c).rd (s.mast c).pc.toNat 4
    runMast s c = runWords s w (if isTwoWord w then (s.mast c).rd ((s.mast c).pc.toNat + 4) 4 else 0) := by
  have hnot : ¬ ((s.mast c).pc.toNat < 0x40000 ∧ 0x40000 ≤ (s.mast c).pc.toNat + 4) := by omega
  simp only [runMast, State.mastFetchWord_sram hbad (show (s.mast c).pc.toNat + 4 ≤ 0x40000 by omega),
    State.mastFetchWord_sram hbad (show (s.mast c).pc.toNat + 4 + 4 ≤ 0x40000 by omega), if_neg hnot]
  split <;> rfl

/-- Settles O59: each clause is the model's issue of the one agent, read through what its fetch yields. -/
theorem stepRunsTheDecodedInstruction : Obligations.StepRunsTheDecodedInstruction := by
  unfold Obligations.StepRunsTheDecodedInstruction
  refine ⟨fun s m rest h => State.firstOf_alone h, fun s m now more rest hag hfirst => ?_⟩
  rw [step_agenda hag hfirst]
  generalize ({ s.advance m.dt with agenda := rest } : State) = s0
  refine ⟨?_, ?_, ?_⟩
  · rintro dt gid pc g rfl hg
    intro s1 hmay hI hheld
    have hrun : runMove s0 (.issue dt (.group gid pc)) = _ := issueGroup_fetches (s := s1) hg hmay hI hheld
    rw [hrun]
    refine ⟨fun w x s2 hf => ?_, fun code addr detail s2 hf => by simp only [hf], fun va s2 hf => ?_⟩
    · simp only [hf]
      refine ⟨fun hsp => ?_, fun hsp hpipe => ?_, fun o ho hsp hpipe => ?_⟩
      · exact runsDecoded_iff.2 (by simp [hsp])
      · simp [hsp, hpipe]
      · rw [← runsDecoded_iff.1 ho]
        simp only [List.contains_eq_mem, hsp, decide_false, Bool.false_eq_true, if_false, hpipe, if_true]
        exact ⟨fun t ht => by rw [ht, Group.tookPipe_next], fun ht => Group.tookPipe_of_not_next ht⟩
    · simp only [hf]
      exact ⟨_, rfl, rfl, rfl, State.find_delayFetch s2 g va⟩
  · rintro dt c k rfl rfl hrun hstop hwait hbad hpc
    intro s1 hdue
    refine runsDecoded_iff.2 ?_
    have hmast : s1.mast c = s0.mast c := rfl
    have hissue : runMove s0 (.issue dt (.mast c)) = runMast s1 c := by
      simp [runMove, issueAs, issueMast, s1, show ({ s0 with cur := .mast c } : State).mast c = s0.mast c from rfl, hrun, hstop, hwait]
      intro h; exact absurd h (by simpa [s1] using hdue)
    rw [hissue]
    exact runMast_sram (s := s1) hbad hpc
  · rintro dt i rfl; rfl

end Sys2Proof.Machine
end

section
/-!
SUPPORT. What a per-lane global access meets before it acts: the road, and the fault of the lowest failing lane (R100, R142, R157).
-/
namespace Sys2Proof.Machine
open Sys2Proof

/-- With a clear road an access waits for no turn (R142, R246, R314). -/
theorem mustWait_of_clearRoad {s : State} {gid : Nat} {pc : DWord} {g : Group} {stream : Bool} {len : Nat} {gd : Fin 8}
    (h : clearRoad s g stream) : (g.issueAt gid pc len gd).mustWait stream = false := by
  obtain ⟨hback, hside, -⟩ := h
  cases stream with
  | true => simp [Issue.mustWait, hback]
  | false => simp [Issue.mustWait, hback, hside rfl]

/-- The mask of the lanes that satisfy a predicate, and its lowest lane. -/
theorem exists_mask_lowest {P : Nat → Prop} {low : Nat} (hlow : low < 32) (hP : P low) (hmin : ∀ l < low, ¬ P l) :
    ∃ m : Word, (∀ l < 32, has m l ↔ P l) ∧ lowestIn m low := by
  classical
  have hm : ∀ l < 32, has (maskOf fun l => decide (P l)) l ↔ P l := fun l hl => by simp [has_maskOf, hl]
  refine ⟨_, hm, (hm low hlow).2 hP, fun k hk hhas => hmin k hk ((hm k (by omega)).1 hhas)⟩

/-- An instruction whose lowest failing lane is `low` raises that lane's fault for all failing lanes (R100). -/
theorem Issue.exists_guarded_raises {it : Issue} {fault : Nat → Option (Nat × DWord × DWord)} {low code : Nat} {addr detail : DWord}
    (hlow : low < 32) (hfail : has it.E low ∧ ¬ has it.g.helper low ∧ fault low ≠ none)
    (hmin : ∀ l < low, ¬ (has it.E l ∧ ¬ has it.g.helper l ∧ fault l ≠ none)) (hf : fault low = some (code, addr, detail))
    (s0 s : State) (act : Issue → State → State) :
    ∃ m : Word, (∀ l < 32, has m l ↔ has it.E l ∧ ¬ has it.g.helper l ∧ fault l ≠ none) ∧
      it.guarded s0 s fault act = s0.raise it.gid code m it.pc addr detail := by
  obtain ⟨m, hm, hmlow⟩ := exists_mask_lowest (P := fun l => has it.E l ∧ ¬ has it.g.helper l ∧ fault l ≠ none) hlow hfail hmin
  refine ⟨m, hm, Issue.guarded_raises (fun l hl => ?_) hmlow hf s0 s act⟩
  rw [hm l hl, Option.isSome_iff_ne_none]

section
variable {s : State} {gid : Nat} {pc : DWord} {g : Group} {i : Instr} {f : MForm}
  (h : Ready s gid pc g i f.sw (mUses f.bc f.d (dataRegs f.size) f.base)) (hroad : clearRoad s g (decide (f.cls = 1)))
include h hroad

/-- An ordinary or sign-extending load with a clear road checks its lanes, then acts. -/
theorem laneLoad_guarded (signed : Bool) : ∃ act, laneLoad i f signed false s = .next ((g.issueAt gid pc 8 f.g).guarded s
    ((s.setG gid (g.begun pc)).refill (s.who (g.issueAt gid pc 8 f.g))
      ((lanesOf (g.issueAt gid pc 8 f.g).E).map (g.laneAddr f.bc f.base f.size f.off)))
    (fun l => ((s.setG gid (g.begun pc)).refill (s.who (g.issueAt gid pc 8 f.g))
      ((lanesOf (g.issueAt gid pc 8 f.g).E).map (g.laneAddr f.bc f.base f.size f.off))).accFault (s.who (g.issueAt gid pc 8 f.g)) .load
        (g.laneAddr f.bc f.base f.size f.off l) (nbytes f.size) (lineBad g f.base f.off f.size)) act) := by
  have hwait := mustWait_of_clearRoad (gid := gid) (pc := pc) (len := 8) (gd := f.g) hroad
  have hcls : decide (f.cls.val = 1) = decide (f.cls = 1) := by simp [Fin.ext_iff]
  rw [laneLoad, h.runs f.g 8]
  simp only [hcls, Group.issueAt_g, hwait, Bool.false_eq_true, if_false]
  exact ⟨_, rfl⟩

/-- The same for a store that does not release. -/
theorem laneStore_guarded : ∃ act, laneStore i f false s = .next ((g.issueAt gid pc 8 f.g).guarded s
    ((s.setG gid (g.begun pc)).refill (s.who (g.issueAt gid pc 8 f.g))
      ((lanesOf (g.issueAt gid pc 8 f.g).E).map (g.laneAddr f.bc f.base f.size f.off)))
    (fun l => ((s.setG gid (g.begun pc)).refill (s.who (g.issueAt gid pc 8 f.g))
      ((lanesOf (g.issueAt gid pc 8 f.g).E).map (g.laneAddr f.bc f.base f.size f.off))).accFault (s.who (g.issueAt gid pc 8 f.g)) .store
        (g.laneAddr f.bc f.base f.size f.off l) (nbytes f.size) (lineBad g f.base f.off f.size)) act) := by
  have hwait := mustWait_of_clearRoad (gid := gid) (pc := pc) (len := 8) (gd := f.g) hroad
  have hcls : decide (f.cls.val = 1) = decide (f.cls = 1) := by simp [Fin.ext_iff]
  rw [laneStore, h.runs f.g 8]
  simp only [hcls, Group.issueAt_g, hwait, Bool.false_eq_true, if_false]
  exact ⟨_, rfl⟩

end

/-- Settles O25: the checks come before every effect, and the lowest failing lane's answer is the one raised. -/
theorem preciseAccessFaultsChangeNothing : Obligations.PreciseAccessFaultsChangeNothing := by
  unfold Obligations.PreciseAccessFaultsChangeNothing
  constructor
  · intro f s gid pc g low code a d h hroad it w addr s1 check failing hlow hfail hmin hcheck
    obtain ⟨act, hexec⟩ := laneLoad_guarded h hroad false
    obtain ⟨m, hm, hraise⟩ := Issue.exists_guarded_raises hlow hfail hmin hcheck s s1 act
    exact ⟨m, hm, hexec.trans (congrArg Host.Outcome.next hraise)⟩
  · intro f s gid pc g low code a d h hroad it w addr s1 check failing hlow hfail hmin hcheck
    obtain ⟨act, hexec⟩ := laneStore_guarded h hroad
    obtain ⟨m, hm, hraise⟩ := Issue.exists_guarded_raises hlow hfail hmin hcheck s s1 act
    exact ⟨m, hm, hexec.trans (congrArg Host.Outcome.next hraise)⟩

end Sys2Proof.Machine
end

section
/-!
SUPPORT. A state in which `evict` publishes a held byte that its home refuses, which halts the group that issued it (R147, R251, R363).
-/
namespace Sys2Proof.Machine
open Sys2Proof

/-- `evict` of the line at address 0. -/
def evictLineZero : MForm :=
  { sw := 0, g := 7, bc := 0, d := 0, base := 0, off := 0, size := 0, cls := 0, scope := 0, rc := 0, grain := 0, pol := 0 }

/-- Lane 0 alone issues. -/
def evictingGroup : Group := { loneGroup with exited := ~~~1#32, pc := [(0, 0x10000#64)] }

/-- The page of address 0 as the cluster's CTB and the port's buffer list it: near, mapped and permitted. -/
def nearEntry : CtbEntry :=
  { mast := false, asid := 0, va := 0, psize := 4096, world := 0, sealed_ := false, res := 0, x := false, w := true, rd := true, pa := 0 }
def nearLeaf : Leaf :=
  { pa := 0, psize := 4096, res := 0, sealed_ := false, x := false, w := true, rd := true, remote := none, entry := 0 }

/-- The L1 holds no stream store. This device holds the group's stream store to address 0, which a frozen declaration covers. -/
def heldUnderFrozen : State :=
  { loneState [(32, evictingGroup)] with
    clusters := [(0, { ctb := [nearEntry] })]
    dies := [(0, { asids := [(0, [])], tlb := [(0, [{ asid := 0, va := 0, leaf := nearLeaf }])] })]
    devHeld := [(l1key 0 0, { val := 0, party := 32 })]
    worlds := [(0, { decls := [{ tid := 0, ver := 0, base := 0, bytes := 4096, frozen := true }] })] }

theorem ready_evictLineZero : Ready heldUnderFrozen 32 0x10000#64 evictingGroup (.evict evictLineZero) evictLineZero.sw
    (mUses evictLineZero.bc evictLineZero.d 1 evictLineZero.base) where
  cur := rfl
  here := rfl
  lanes := by decide
  may := by decide
  free := rfl
  clean := rfl
  formed := rfl
  budget := by decide

/-- The publication of the line fails at the home, and the group is halted for it (R158). -/
theorem halted_after_evictLineZero :
    (groupAfter 32 (exec (.evict evictLineZero) heldUnderFrozen)).map (·.halted) = some true := by
  decide +kernel

/-- Refutes O23: the clause on the group asks that the cluster's L1 hold no stream store and says nothing of those that the device holds of the
same line. `evict` publishes these too, and one that a frozen declaration refuses halts its group, here the one that issues. -/
theorem not_hintsAsynchronousLoadsAndWindowAddresses : ¬ Obligations.HintsAsynchronousLoadsAndWindowAddresses := by
  unfold Obligations.HintsAsynchronousLoadsAndWindowAddresses
  intro h
  obtain ⟨-, hevict, -⟩ := h
  obtain ⟨t, he, hgroup, -⟩ := hevict evictLineZero _ _ _ _ ready_evictLineZero
  obtain ⟨g', hfind, hg', -⟩ := hgroup rfl
  have hruns : g'.halted = evictingGroup.halted := by rw [hg', Group.begun_eq]
  have hhalted := halted_after_evictLineZero
  rw [he, groupAfter, hfind, Option.map_some, hruns] at hhalted
  exact absurd hhalted (by decide)

end Sys2Proof.Machine
end

section
/-!
SUPPORT. A state in which a releasing store waits behind a side-log entry that holds no access (R149, R251, R253).
-/
namespace Sys2Proof.Machine
open Sys2Proof

/-! ### What the hints of stores leave, and what the end of a memory instruction does -/

/-- At a line, the hints of stores note the line's use alone (R143). -/
theorem State.lineHints_stores (s : State) (w : Who) (va : Nat) (old : Bool) (touched : List Nat) (rc grain pol : Nat) :
    ∃ u, s.lineHints w va old touched rc grain pol false = { s with lineUse := u } := by
  simp only [State.lineHints, Bool.false_eq_true, if_false, Bool.false_and]
  split
  · exact ⟨s.lineUse, rfl⟩
  · exact ⟨_, rfl⟩

theorem State.settleHints_stores (s s0 : State) (w : Who) (vas : List Nat) (n : Nat) (stream : Bool) (scope rc grain pol : Nat) :
    ∃ u, s.settleHints s0 w vas n stream scope rc grain pol false = { s with lineUse := u } := by
  simp only [State.settleHints]
  generalize List.eraseDups (List.map (fun x : Nat => x / 8) _) = lines
  induction lines generalizing s with
  | nil => exact ⟨s.lineUse, rfl⟩
  | cons line rest ih =>
    rw [List.foldl_cons]
    obtain ⟨u, hu⟩ := State.lineHints_stores s w (line * 128) _ _ rc grain pol
    rw [hu]
    exact ih _

theorem State.settleHints_stores_l2 (s s0 : State) (w : Who) (vas : List Nat) (n : Nat) (stream : Bool) (scope rc grain pol : Nat) :
    (s.settleHints s0 w vas n stream scope rc grain pol false).l2 = s.l2 := by
  obtain ⟨u, hu⟩ := State.settleHints_stores s s0 w vas n stream scope rc grain pol
  rw [hu]

theorem State.settleHints_stores_launches (s s0 : State) (w : Who) (vas : List Nat) (n : Nat) (stream : Bool) (scope rc grain pol : Nat) :
    (s.settleHints s0 w vas n stream scope rc grain pol false).launches = s.launches := by
  obtain ⟨u, hu⟩ := State.settleHints_stores s s0 w vas n stream scope rc grain pol
  rw [hu]

@[simp] theorem State.performed_l2 (t : State) (gid : Nat) (I : Word) (pc' : DWord) (ws : List (Dest × Word)) :
    (t.performed gid I pc' ws).l2 = t.l2 := by
  unfold State.performed State.bind; split <;> rfl

@[simp] theorem State.performed_launches (t : State) (gid : Nat) (I : Word) (pc' : DWord) (ws : List (Dest × Word)) :
    (t.performed gid I pc' ws).launches = t.launches := by
  unfold State.performed State.bind; split <;> rfl

/-- The byte at home depends on L2 and on the launches alone. -/
theorem State.homeByte_congr {s t : State} (hl2 : t.l2 = s.l2) (hla : t.launches = s.launches) (lid asid va : Nat) :
    t.homeByte lid asid va = s.homeByte lid asid va := by
  simp only [State.homeByte, State.verOf, hl2, hla]

/-! ### The state -/

/-- `strel` of four bytes of v1 to the address in v2 and v3, which is 0: ordinary, scope 0. -/
def releasingStore : MForm :=
  { sw := 0, g := 7, bc := 0, d := 1, base := 2, off := 0, size := 2, cls := 0, scope := 0, rc := 0, grain := 0, pol := 0 }

/-- Lane 0 alone issues; its v1 is 5. -/
def releasingGroup : Group := { loneGroup with exited := ~~~1#32, pc := [(0, 0x10000#64)], v := [(1, 5#32)] }

/-- The page of address 0: mapped and writable. -/
def writableEntry : CtbEntry :=
  { mast := false, asid := 0, va := 0, psize := 4096, world := 0, sealed_ := false, res := 0, x := false, w := true, rd := true, pa := 0 }

/-- An earlier side-log entry of the group that lists no access, in another sub-partition. -/
def emptyLogEntry : SideLog := { gid := 32, bid := 1, lid := 1, asid := 0, page := 0, pc := 0, ops := [] }

/-- The sector of address 0 stands in L2; no access waits, and no byte is held. -/
def behindEmptyEntry : State :=
  { loneState [(32, releasingGroup)] with
    order := 1
    clusters := [(0, { ctb := [writableEntry], sideLogs := [(1, [emptyLogEntry])] })]
    l2 := [(l2key 0 0 0, { data := 0, dirty := false, poison := false, pa := 0 })] }

theorem ready_releasingStore : Ready behindEmptyEntry 32 0x10000#64 releasingGroup (.strel releasingStore) releasingStore.sw
    (mUses releasingStore.bc releasingStore.d (dataRegs releasingStore.size) releasingStore.base) where
  cur := rfl
  here := rfl
  lanes := by decide
  may := by decide
  free := rfl
  clean := rfl
  formed := rfl
  budget := by decide

theorem clearRoad_releasingStore : clearRoad behindEmptyEntry releasingGroup (decide (releasingStore.cls = 1)) :=
  ⟨rfl, fun _ => rfl, by decide⟩

theorem quietHome_behindEmptyEntry : quietHome behindEmptyEntry 32 releasingGroup := by
  refine ⟨by decide, rfl, rfl, fun c => ?_, rfl, rfl, rfl⟩
  by_cases hc : c = 0
  · subst hc; rfl
  · simp [State.cluster, behindEmptyEntry, getD_eq_find, find, Ne.symm hc]

theorem notReplayable_behindEmptyEntry (la : Launch) (h : find behindEmptyEntry.launches 1 = some la) : la.replayable = false := by
  obtain rfl : fetchLaunch = la := Option.some.inj h
  rfl

theorem standing_behindEmptyEntry : ∀ l ∈ lanesOf 1#32,
    atHome behindEmptyEntry (behindEmptyEntry.who (releasingGroup.issueAt 32 0x10000#64 8 7)) (releasingGroup.laneAddr 0 2 2 0 l).toNat 4 ∧
    ∀ k < 4, behindEmptyEntry.frozenAt 0 ((releasingGroup.laneAddr 0 2 2 0 l).toNat + k) = false ∧
      behindEmptyEntry.frozenAt 0 ((releasingGroup.laneAddr 0 2 2 0 l).toNat + k) = false := by
  intro l hl
  obtain rfl : l = 0 := by revert l; decide
  refine ⟨⟨rfl, ?_⟩, by decide⟩
  intro p hp
  obtain rfl : p = (0, 4) := by
    rw [show pieces (releasingGroup.laneAddr 0 2 2 0 0).toNat 4 = [(0, 4)] by decide] at hp
    simpa using hp
  exact ⟨{ data := 0, dirty := false, poison := false, pa := 0 }, by decide, rfl⟩

/-- The byte at home of address 0 in the state that an outcome answers. -/
def firstByteAfter (o : Out) : Option Byte :=
  match o with
  | .next t => some (t.homeByte 1 0 0)
  | _ => none

/-- The store has gone to the side log: the byte at home is as before. -/
theorem firstByte_after_releasingStore : firstByteAfter (exec (.strel releasingStore) behindEmptyEntry) = some 0#8 := by
  decide +kernel

/-- Refutes O20: an earlier side-log entry of the group without accesses is nothing that waits, but a release waits for every entry. The store of
clause (3) therefore goes to the side log, and the byte at home keeps its value. -/
theorem not_globalStoresPerformInLaneOrder : ¬ Obligations.GlobalStoresPerformInLaneOrder := by
  unfold Obligations.GlobalStoresPerformInLaneOrder
  intro h
  obtain ⟨-, hstrel⟩ := h
  obtain ⟨-, -, hhome, -⟩ := hstrel releasingStore _ _ _ _ ready_releasingStore clearRoad_releasingStore (by decide)
  obtain ⟨t, -, hbytes, hexec⟩ := hhome (.inl (by decide)) quietHome_behindEmptyEntry notReplayable_behindEmptyEntry standing_behindEmptyEntry
  have hstored : t.homeByte 1 0 0 = 5#8 := hbytes 0 (by decide) (by decide)
  have hafter := firstByte_after_releasingStore
  rw [hexec, firstByteAfter, State.homeByte_congr (s := t) (by rw [State.performed_l2, State.settleHints_stores_l2])
    (by rw [State.performed_launches, State.settleHints_stores_launches]), hstored] at hafter
  exact absurd hafter (by decide)

end Sys2Proof.Machine
end

section
/-!
SUPPORT. A state in which waking one waiter of a barrier object swaps another waiter out of its slot (R168, R291, R294).
-/
namespace Sys2Proof.Machine
open Sys2Proof

/-- Object 0 of block 1 as the last arrival completes its phase 0. -/
def completingObject : BarObj := { pend := 0, arr := 1, count := 1, phase := 0, valid := true, overrun := false }

/-- A group parked for phase 0 of the object, in active slot 0. -/
def objectWaiter : Group := { loneGroup with num := 1, phase := .aPark, waiting := .barw (objKey 1 0) 0#32, active := some 0 }

/-- A group that is swapped out, parked for nothing. -/
def swappedOut : Group := { loneGroup with num := 0, phase := .pPark, active := none }

/-- A pending group that became ready in clk 0. -/
def readyPending : Group := { loneGroup with num := 2, phase := .pReady false, active := none }

/-- The eight active slots are taken: slot 0 by group 33, which waits for the object. Number 32 is listed twice: first for the group that is swapped
out, then for another waiter of the object, in
another sub-partition. -/
def twoUnderOneNumber : State :=
  { loneState ([(32, swappedOut), (32, { objectWaiter with sp := 1 }), (33, objectWaiter), (34, readyPending)] ++
      (List.range 7).map fun i => (35 + i, { loneGroup with num := 3 + i, active := some (i + 1) })) with clk := 1 }

theorem waiters_parked : ∀ e ∈ twoUnderOneNumber.groups, ∀ k, e.2.waiting = .barw (objKey 1 0) k → e.2.phase = .aPark := by
  have h : ∀ e ∈ twoUnderOneNumber.groups, e.2.phase = .aPark ∨ e.2.waiting = .nothing := by decide
  intro e he k hk
  exact (h e he).resolve_right fun hn => by simp [hn] at hk

/-- The release of number 32 wakes the group that is swapped out, and the schedule gives group 33's slot to the pending one. -/
theorem phase_after_completion :
    (find (twoUnderOneNumber.evalObj fetchBlock 1 0 completingObject).groups 33).map (·.phase) = some (.pReady true) := by
  decide +kernel

/-- Refutes O35: the statement ranges over states that list two groups under one number, of which one waits for the object. The release goes to the
other; waking it swaps a second waiter out of its slot, so that this one ends pending and not active. -/
theorem not_barrierWaitersAreReleased : ¬ Obligations.BarrierWaitersAreReleased := by
  unfold Obligations.BarrierWaitersAreReleased
  intro h
  obtain ⟨-, -, hcompletes⟩ := h
  obtain ⟨hfreed, -⟩ := hcompletes twoUnderOneNumber fetchBlock 1 0 completingObject 33 objectWaiter 0#32 waiters_parked rfl rfl rfl
  obtain ⟨x', hfind, hphase, -⟩ := hfreed rfl rfl rfl
  have hswapped := phase_after_completion
  rw [hfind, Option.map_some, hphase] at hswapped
  exact absurd hswapped (by decide)

end Sys2Proof.Machine
end

section
/-!
SUPPORT. What the operations of the memory system leave alone: everything of the state but memory, its caches and ports, and the launches' shadows;
and what publishing held stores leaves alone (R245 to R256, R298 to R321, R390).
-/
namespace Sys2Proof.Machine
open Sys2Proof

/-! ### What lies above the memory system -/

/-- The state without what the memory system changes: bytes, caches, timestamps, ports, links, and shadows. -/
def State.upper (s : State) : State :=
  { s with mem := [], memPoison := [], spare := [], l2 := [], lineTs := [], tsTop := 0, lineUse := [], msc := [], remote := [], free := 0
           dies := [], launches := [], fns := [], links := [] }

/-- A fold of operations that leave the upper state alone leaves it alone. -/
theorem State.upper_foldl {β : Type} {F : State → β → State} (h : ∀ s x, (F s x).upper = s.upper) (l : List β) (s : State) :
    (l.foldl F s).upper = s.upper :=
  foldl_keeps State.upper F l (fun a b _ => h a b) s

@[simp] theorem State.upper_ite (c : Prop) [Decidable c] (s t : State) : (if c then s else t).upper = if c then s.upper else t.upper :=
  apply_ite State.upper c s t

section
variable (s : State)

@[simp] theorem State.upper_updD (d : Nat) (f : Die → Die) : (s.updD d f).upper = s.upper := rfl
@[simp] theorem State.upper_updL (k : Nat) (f : Launch → Launch) : (s.updL k f).upper = s.upper := rfl
@[simp] theorem State.upper_updF (k : Nat) (f : Fn → Fn) : (s.updF k f).upper = s.upper := rfl

@[simp] theorem State.upper_asidEntry (d asid : Nat) : (s.asidEntry d asid).2.upper = s.upper := by
  unfold State.asidEntry; split <;> rfl

@[simp] theorem State.upper_walk (d asid va : Nat) : (s.walk d asid va).2.upper = s.upper := by
  simp only [State.walk]
  split
  · rfl
  · split <;> exact s.upper_asidEntry d asid

@[simp] theorem State.upper_portLeaf (asid va : Nat) (access : Bool) : (s.portLeaf asid va access).2.upper = s.upper := by
  simp only [State.portLeaf]
  split
  · rfl
  · split <;> simp

@[simp] theorem State.upper_mscUse (pa mask : Nat) (dirty : Bool) : (s.mscUse pa mask dirty).upper = s.upper := by
  simp only [State.mscUse]; split <;> rfl

@[simp] theorem State.upper_foldLease (asid va : Nat) : (s.foldLease asid va).upper = s.upper := rfl

@[simp] theorem State.upper_sealLine (world asid va line : Nat) (sealedPage : Bool) (plain : List (BitVec 128)) :
    (s.sealLine world asid va line sealedPage plain).upper = s.upper := rfl

@[simp] theorem State.upper_evictLine (ver asid va : Nat) : (s.evictLine ver asid va).upper = s.upper := by
  unfold State.evictLine
  extract_lets line keys present gone
  have hgone (t : State) : (gone t).upper = t.upper := rfl
  split
  · exact hgone s
  · extract_lets dirty world
    have hport : (if ver = 0 then s.portLeaf asid va else (.stop 0 false, s)).2.upper = s.upper := by
      simp [apply_ite Prod.snd]
    generalize (if ver = 0 then s.portLeaf asid va else (.stop 0 false, s)) = port at hport ⊢
    obtain ⟨w, s1⟩ := port
    dsimp -zeta only
    rcases w with l | ⟨c, d⟩
    on_goal 1 => cases l.remote.isNone <;> dsimp -zeta only
    all_goals
      extract_lets m plain s2 lost mark s3
      have hs2 : s2.upper = s1.upper := by simp only [s2, State.upper_ite]; split <;> rfl
      calc _ = s3.upper := State.upper_mscUse s3 _ _ _
        _ = s2.upper := rfl
        _ = s.upper := hs2.trans hport

@[simp] theorem State.upper_trimSet (asid va world room : Nat) : (s.trimSet asid va world room).upper = s.upper := by
  exact State.upper_foldl (fun s e => s.upper_evictLine _ _ _) _ s

@[simp] theorem State.upper_wayRoom (ver asid va world : Nat) : (s.wayRoom ver asid va world).upper = s.upper := by
  simp [State.wayRoom]

@[simp] theorem State.upper_install (world ver asid va pa : Nat) (sealedPage : Bool) :
    (s.install world ver asid va pa sealedPage).2.upper = s.upper := by
  simp only [State.install]
  generalize (if world = 0 then some (s.hostBlock asid va (pa / 16 * 16)) else s.unseal world asid va (pa / 16 * 16) sealedPage) = data
  cases data with
  | none => rfl
  | some d => exact (State.upper_mscUse _ _ _ _).trans (s.upper_wayRoom ver asid va world)

@[simp] theorem State.upper_installBlock (world ver asid va pa n : Nat) (sealedPage : Bool) :
    (s.installBlock world ver asid va pa n sealedPage).upper = s.upper := by
  exact State.upper_foldl (fun s e => by simp) _ s

@[simp] theorem State.upper_touch (q : Req) (va : Nat) : (s.touch q va).2.upper = s.upper := by
  simp only [State.touch]
  split
  · rfl
  · split
    · simp
    · split
      · simp
      · split
        · simp [apply_ite Prod.snd]
        · split
          on_goal 2 =>
            split
            · simp
          all_goals
            split
            · simp
            · split
              · next s3 h =>
                have hinstall := congrArg (fun r => State.upper r.2) h
                simp only [State.upper_install, State.upper_asidEntry, State.upper_portLeaf] at hinstall
                simp [← hinstall]
              · simp

@[simp] theorem State.upper_touchAll (q : Req) (ps : List (Nat × Nat)) : (s.touchAll q ps).2.upper = s.upper := by
  induction ps generalizing s with
  | nil => rfl
  | cons p ps ih =>
    have htouch := s.upper_touch q p.1
    simp only [State.touchAll]
    split
    · next s1 h => rw [h] at htouch; exact (ih s1).trans htouch
    · exact htouch

@[simp] theorem State.upper_homeStore (lid asid va : Nat) (bs : List Byte) : (s.homeStore lid asid va bs).upper = s.upper := rfl
@[simp] theorem State.upper_markWritten (lid asid va : Nat) : (s.markWritten lid asid va).upper = s.upper := rfl
@[simp] theorem State.upper_tsStore (asid va ts : Nat) : (s.tsStore asid va ts).2.upper = s.upper := rfl
@[simp] theorem State.upper_tsLoad (asid va ts : Nat) : (s.tsLoad asid va ts).2.upper = s.upper := rfl
@[simp] theorem State.upper_homePoisoned (lid asid va : Nat) : (s.homePoisoned lid asid va).upper = s.upper := rfl
@[simp] theorem State.upper_remoteNote (dev off : Nat) (bs : List Byte) : (s.remoteNote dev off bs).upper = s.upper := rfl

@[simp] theorem State.upper_sendFlit (ch dev va : Nat) : (s.sendFlit ch dev va).upper = s.upper := by
  simp only [State.sendFlit]; split <;> rfl

@[simp] theorem State.upper_physSetByte (pa : Nat) (b : Byte) : (s.physSetByte pa b).upper = s.upper := rfl

@[simp] theorem State.upper_physWrite (pa : Nat) (bs : List Byte) : (s.physWrite pa bs).upper = s.upper :=
  State.upper_foldl (fun s i => s.upper_physSetByte (pa + i) (bs.getD i 0#8)) _ s

@[simp] theorem State.upper_writeEntry (d : Nat) (e : FbEntry) : (s.writeEntry d e).upper = s.upper := s.upper_physWrite _ _

@[simp] theorem State.upper_enterFault (d : Nat) (e : FbEntry) : (s.enterFault d e).upper = s.upper := by
  simp only [State.enterFault]; split <;> simp

@[simp] theorem State.upper_faultEntry (d asid page psize cause flags origin : Nat) (once : Bool) :
    (s.faultEntry d asid page psize cause flags origin once).upper = s.upper := by
  simp [State.faultEntry]

@[simp] theorem State.upper_popVictim (d asid psize : Nat) (q : List DWord) : (s.popVictim d asid psize q).2.2.upper = s.upper := by
  induction q generalizing s with
  | nil => rfl
  | cons v q ih =>
    simp only [State.popVictim]
    split
    · split <;> simp [ih]
    · simp [ih]

@[simp] theorem State.upper_faultPage (asid va cause psize flags origin : Nat) (once : Bool) :
    (s.faultPage asid va cause psize flags origin once).upper = s.upper := by
  simp only [State.faultPage]
  split
  · split
    · rfl
    · split <;> simp
  · simp

@[simp] theorem State.upper_eccEvent (pa kind : Nat) : (s.eccEvent pa kind).upper = s.upper := rfl

@[simp] theorem State.upper_eccRead (lid asid va n : Nat) : (s.eccRead lid asid va n).upper = s.upper := by
  refine State.upper_foldl (fun s p => ?_) _ s
  split <;> simp

@[simp] theorem State.upper_storeAt (q : Req) (va : Nat) (bs : List Byte) : (s.storeAt q va bs).2.upper = s.upper := by
  have htouch := s.upper_touchAll q (pieces va bs.length)
  simp only [State.storeAt]
  split
  · next s1 h => rw [h] at htouch; exact (State.upper_foldl (fun s (p : Nat × Nat) => s.upper_homeStore q.lid (canonAsid q.asid va) p.1 ((bs.drop (p.1 - va)).take p.2)) _ s1).trans htouch
  · exact htouch

@[simp] theorem State.upper_commitSector (lid gk sec : Nat) : (s.commitSector lid gk sec).upper = s.upper := by
  unfold State.commitSector
  extract_lets asid va world q drop
  have hdrop (t : State) : (drop t).upper = t.upper := rfl
  have upper_of_eq {r : Touch × State} {o : Touch} {t t0 : State} (h : r = (o, t)) (hr : r.2.upper = t0.upper) : t.upper = t0.upper := by
    rw [← hr, h]
  split
  · next s1 h =>
    have h1 := upper_of_eq h (s.upper_touch _ _)
    extract_lets bs
    split
    · exact h1
    · split <;> next s2 h' =>
        have h2 := (upper_of_eq h' (s1.upper_storeAt _ _ _)).trans h1
        simp [hdrop, h2]
  · next s1 h => exact (hdrop _).trans (upper_of_eq h (s.upper_touch _ _))

@[simp] theorem State.upper_commitShadows (lid : Nat) : (s.commitShadows lid).upper = s.upper := by
  simp only [State.commitShadows]
  split
  · rfl
  · next l hl =>
    exact State.upper_foldl (fun s (e : Nat × Shadow) => State.upper_foldl (fun s sec => s.upper_commitSector lid e.1 sec) e.2.written s) l.shadows s

@[simp] theorem State.upper_shadowFor (q : Req) (va : Nat) : (s.shadowFor q va).upper = s.upper := by
  simp only [State.shadowFor]
  split
  · rfl
  · split
    · simp
    · rw [State.upper_updL]
      refine (State.upper_foldl (fun s pg => ?_) _ _).trans (State.upper_foldl (fun s ln => s.upper_evictLine 0 (canonAsid q.asid va) (ln * 128)) _ s)
      split
      · split <;> rfl
      · rfl

@[simp] theorem State.upper_homeWrite (q : Req) (va : Nat) (bs : List Byte) : (s.homeWrite q va bs).2.upper = s.upper := by
  unfold State.homeWrite
  extract_lets asid ps s0
  split
  · rfl
  · split
    · simp
    · have h0 : s0.upper = s.upper := State.upper_foldl (fun s (p : Nat × Nat) => s.upper_shadowFor q p.1) ps s
      have upper_of_eq {o : Touch} {t : State} (h : s0.touchAll q ps = (o, t)) : t.upper = s.upper := by
        rw [← h0, ← s0.upper_touchAll q ps, h]
      split
      · next s1 h =>
        exact (State.upper_foldl (fun s (p : Nat × Nat) => (State.upper_markWritten _ _ _ _).trans (State.upper_homeStore _ _ _ _ _)) ps s1).trans
          (upper_of_eq h)
      · next s1 h => simp [apply_ite Prod.snd, upper_of_eq h]
      · next s1 h => simp [upper_of_eq h]
      · next s1 h => exact upper_of_eq h

@[simp] theorem State.upper_homeRead (q : Req) (va n : Nat) : (s.homeRead q va n).2.upper = s.upper := by
  unfold State.homeRead
  extract_lets asid ps
  have upper_of_eq {o : Touch} {t : State} (h : s.touchAll q ps = (o, t)) : t.upper = s.upper := by
    rw [← s.upper_touchAll q ps, h]
  split
  · next s1 h => simp [apply_ite Prod.snd, upper_of_eq h]
  · next s1 h =>
    split
    · exact (State.upper_sendFlit s1 _ _ _).trans (upper_of_eq h)
    · exact upper_of_eq h
  · next s1 h => simp [upper_of_eq h]
  · next s1 h => exact upper_of_eq h

end

/-! ### What publishing held stores leaves -/

/-- The current agent, what each group waits for, and each block's guard slots. -/
def State.calm (s : State) : Agent × List (Nat × Waiting) × List (Nat × SMap Nat) :=
  (s.cur, s.groups.map fun e => (e.1, e.2.waiting), s.blocks.map fun e => (e.1, e.2.guards))

theorem State.calm_foldl {β : Type} {F : State → β → State} (h : ∀ s x, (F s x).calm = s.calm) (l : List β) (s : State) :
    (l.foldl F s).calm = s.calm :=
  foldl_keeps State.calm F l (fun a b _ => h a b) s

theorem State.calm_of_upper {s t : State} (h : t.upper = s.upper) : t.calm = s.calm := by
  change t.upper.calm = s.upper.calm
  rw [h]

/-- A change of one entry that keeps what is seen of it is not seen. -/
theorem map_upd_eq {α β : Type} {m : SMap α} {k : Nat} {f : α → α} {v : α → β} (h : ∀ x, v (f x) = v x) :
    (upd m k f).map (fun e => (e.1, v e.2)) = m.map fun e => (e.1, v e.2) := by
  induction m with
  | nil => rfl
  | cons e m ih =>
    obtain ⟨j, x⟩ := e
    rw [upd]
    split <;> simp [h, ih]

section
variable (s : State)

@[simp] theorem State.calm_ite (c : Prop) [Decidable c] (s t : State) : (if c then s else t).calm = if c then s.calm else t.calm :=
  apply_ite State.calm c s t

theorem State.calm_updG {k : Nat} {f : Group → Group} (h : ∀ g, (f g).waiting = g.waiting) : (s.updG k f).calm = s.calm := by
  simp [State.calm, State.updG, map_upd_eq (v := Group.waiting) h]

theorem State.calm_updB {k : Nat} {f : Block → Block} (h : ∀ b, (f b).guards = b.guards) : (s.updB k f).calm = s.calm := by
  simp [State.calm, State.updB, map_upd_eq (v := Block.guards) h]

@[simp] theorem State.calm_updC (c : Nat) (f : Cluster → Cluster) : (s.updC c f).calm = s.calm := rfl

theorem Group.foldl_setHold_waiting (ls : List Nat) (h : Group → Nat → Hold) (g : Group) :
    (ls.foldl (fun g l => g.setHold (laneBit l) (h g l)) g).waiting = g.waiting :=
  foldl_keeps Group.waiting _ ls (fun _ _ _ => by rw [Group.setHold_waiting]) g

@[simp] theorem State.calm_raiseLate (gid code : Nat) (lanes : Word) (P addr detail : DWord) :
    (s.raiseLate gid code lanes P addr detail).calm = s.calm := by
  unfold State.raiseLate
  rw [State.calm_updB _ fun b => by split <;> rfl]
  refine State.calm_updG _ fun g => ?_
  dsimp only
  split
  · rfl
  · exact Group.foldl_setHold_waiting _ (fun g l => .event code (g.pcOf l) false) _

@[simp] theorem State.calm_strike (bid code : Nat) : (s.strike bid code).calm = s.calm := by
  unfold State.strike
  split
  · rfl
  · simp only [State.calm, List.map_map]
    congr 2
    refine List.map_congr_left fun e _ => ?_
    dsimp only [Function.comp]
    split <;> rfl

@[simp] theorem State.calm_reportUnheld (l : List Unheld) : (s.reportUnheld l).calm = s.calm := by
  refine State.calm_foldl (fun s k => ?_) _ s
  dsimp only
  split
  · rfl
  · split <;> simp

theorem State.calm_unhold (c : Nat) (keys : List Nat) : (s.unhold c keys).calm = s.calm := by
  refine State.calm_foldl (fun s line => ?_) _ _
  dsimp only
  split <;> rfl

theorem State.calm_logHeld {asid va : Nat} {run : List (Nat × Held)} {h : Held} {t : State} (ht : s.logHeld asid va run h = some t) :
    t.calm = s.calm := by
  simp only [State.logHeld, Option.bind_eq_some_iff, Option.map_eq_some_iff] at ht
  obtain ⟨g, -, l, -, rfl⟩ := ht
  rfl

theorem State.calm_publishRun (origin : Nat) {drop : State → List Nat → State} (hdrop : ∀ t ks, (drop t ks).calm = t.calm)
    (run : List (Nat × Held)) : (s.publishRun origin drop run).1.calm = s.calm := by
  unfold State.publishRun
  split
  · rfl
  · next key h rest =>
    extract_lets asid va q
    have hwrite {o : Acc} {t : State} {bs : List Byte} (e : s.homeWrite q va bs = (o, t)) : t.calm = s.calm := by
      refine State.calm_of_upper ?_
      rw [← s.upper_homeWrite q va bs, e]
    split
    · next s1 e =>
      split
      · next s2 e2 => exact (hdrop _ _).trans ((State.calm_logHeld _ e2).trans (hwrite e))
      · exact hwrite e
    · next s1 e =>
      refine (hdrop _ _).trans ?_
      rw [State.calm_of_upper (State.upper_tsStore _ _ _ _)]
      split
      · exact (State.calm_of_upper (State.upper_homePoisoned _ _ _ _)).trans (hwrite e)
      · exact hwrite e
    · next s1 e => exact (hdrop _ _).trans (hwrite e)

theorem State.calm_publishAll (origin : Nat) (held : State → List (Nat × Held)) {drop : State → List Nat → State}
    (hdrop : ∀ t ks, (drop t ks).calm = t.calm) (sel : List (Nat × Held)) : (s.publishAll origin held drop sel).calm = s.calm := by
  simp only [State.publishAll, State.calm_reportUnheld]
  refine foldl_keeps (fun r : State × List Unheld => r.1.calm) _ _ (fun r run _ => ?_) (s, [])
  split
  · rfl
  · exact State.calm_publishRun _ origin hdrop run

@[simp] theorem State.calm_publishIf (c : Nat) (p : Nat → Held → Bool) : (s.publishIf c p).calm = s.calm :=
  s.calm_publishAll c _ (fun t ks => t.calm_unhold c ks) _

@[simp] theorem State.calm_publishDev (p : Nat → Held → Bool) : (s.publishDev p).calm = s.calm :=
  s.calm_publishAll 0 (fun s => s.devHeld) (drop := fun s ks => { s with devHeld := delIf s.devHeld fun x => ks.contains x }) (fun _ _ => rfl) _

/-- The release of a party changes neither the current agent, nor what a group waits for, nor a block's guard slots. -/
@[simp] theorem State.calm_releaseParty (c party : Nat) : (s.releaseParty c party).calm = s.calm := by
  simp [State.releaseParty]

end

theorem State.cur_of_calm {s t : State} (h : t.calm = s.calm) : t.cur = s.cur := congrArg Prod.fst h

@[simp] theorem State.cur_releaseParty (s : State) (c party : Nat) : (s.releaseParty c party).cur = s.cur := by
  have h := State.calm_releaseParty s c party
  exact State.cur_of_calm h

theorem State.waiting_of_calm {s t : State} (h : t.calm = s.calm) :
    t.groups.map (fun e => (e.1, e.2.waiting)) = s.groups.map fun e => (e.1, e.2.waiting) := congrArg (fun v => v.2.1) h

theorem State.guards_of_calm {s t : State} (h : t.calm = s.calm) :
    t.blocks.map (fun e => (e.1, e.2.guards)) = s.blocks.map fun e => (e.1, e.2.guards) := congrArg (fun v => v.2.2) h

end Sys2Proof.Machine
end

section
/-!
SUPPORT. Uniform instructions of a group or a mast core at issue: what the issue runs, and what a guard that is off leaves (R202, R203).
-/
namespace Sys2Proof.Machine
open Sys2Proof

/-- The issue of a uniform instruction of `len` bytes whose guard is on: its executing lanes are the issued ones (R202). -/
def Group.uniAt (g : Group) (gid : Nat) (pc : DWord) (len : Nat) : Issue :=
  { gid := gid, g := g, pc := pc, len := len, I := g.issued pc, E := g.issued pc }

section
variable (g : Group) (gid : Nat) (pc : DWord) (len : Nat)

@[simp] theorem Group.uniAt_gid : (g.uniAt gid pc len).gid = gid := rfl
@[simp] theorem Group.uniAt_g : (g.uniAt gid pc len).g = g := rfl
@[simp] theorem Group.uniAt_pc : (g.uniAt gid pc len).pc = pc := rfl
@[simp] theorem Group.uniAt_I : (g.uniAt gid pc len).I = g.issued pc := rfl
@[simp] theorem Group.uniAt_E : (g.uniAt gid pc len).E = g.issued pc := rfl
@[simp] theorem Group.uniAt_nextPc : (g.uniAt gid pc len).nextPc = asPc (pc + BitVec.ofNat 64 len) := rfl

end

/-- Going past an instruction is the end of one that binds nothing (R98). -/
theorem Issue.past_eq_performed (it : Issue) (I : Word) (t : State) : it.past I t = t.performed it.gid I it.nextPc [] := rfl

section
variable {s : State} {gid : Nat} {pc : DWord} {g : Group} {i : Instr} {sw : Fin 2} {gd : Fin 8} {u : Uses}

theorem ReadyUni.runs_uniGroup (h : ReadyUni s gid pc g i sw gd u) (len : Nat) (body : Issue → State → State) :
    uniGroup s i sw gd len u true gid pc body = .next (body (g.uniAt gid pc len) (s.setG gid (g.ready pc))) :=
  uniGroup_runs h.toIssues i gd len u true body (issueFault_none h.formed rfl h.budget) h.guard h.solid

/-- A uniform instruction that a group may issue with its guard on runs its body (R202). -/
theorem ReadyUni.runs (h : ReadyUni s gid pc g i sw gd u) (len : Nat) (body : Issue → State → State) (mast : Nat → Mast → State → Out) (ok : Bool) :
    uniIssue s i sw gd len u true body mast ok = .next (body (g.uniAt gid pc len) (s.setG gid (g.ready pc))) :=
  (uniIssue_group h.cur i sw gd len u true body mast ok).trans (h.runs_uniGroup len body)

/-- The same for an opcode that no mast core executes. -/
theorem ReadyUni.runs_groupOnly (h : ReadyUni s gid pc g i sw gd u) (len : Nat) (body : Issue → State → State) :
    uniGroupOnly s i sw gd len u true body = .next (body (g.uniAt gid pc len) (s.setG gid (g.ready pc))) :=
  (uniGroupOnly_group h.cur i sw gd len u true body).trans (h.runs_uniGroup len body)

/-- A uniform instruction of a mast core with its guard on runs its body (R203). -/
theorem RunsMast.runs {c : Nat} {m : Mast} (h : RunsMast s c m i gd) (sw : Fin 2) (len : Nat) (u : Uses) (body : Issue → State → State)
    (mast : Nat → Mast → State → Out) : uniIssue s i sw gd len u true body mast true = mast c m s :=
  (uniIssue_mast h.cur i sw gd len u true body mast true).trans (uniMast_runs h len (mast c))

end

/-- A uniform instruction with its guard off, or with helper lanes only, only advances (R202, R203). -/
theorem skips_of_uniIssue {i : Instr} {sw : Fin 2} {gd : Fin 8} {len : Nat} {u : Uses}
    {body : State → Issue → State → State} {mast : State → Nat → Mast → State → Out}
    (hexec : ∀ s, exec i s = uniIssue s i sw gd len u true (body s) (mast s)) : SkipsWithoutEffect i sw gd len u := by
  constructor
  · intro s gid pc g h hoff
    refine ⟨(g.ready pc).setPc (g.issued pc) (asPc (pc + BitVec.ofNat 64 len)), ?_, ?_, ?_⟩
    · rw [hexec, uniIssue_group h.cur]
      exact uniGroup_skips h.toIssues i gd len u true (body s) (issueFault_none h.formed rfl h.budget) hoff
    · rfl
    · intro l hl
      rw [Group.pcOf_setPc _ _ _ l hl, Group.ready_pcOf]
  · intro s c m h
    rw [hexec, uniIssue_mast h.cur, uniMast_skips h, State.mastNext_id, h.core]

end Sys2Proof.Machine
end

section
/-!
SUPPORT. Fences: what their conditions depend on, what a stall leaves, and what an acquire does to the L1 (R162, R246, R253).
-/
namespace Sys2Proof.Machine
open Sys2Proof

/-! ### What the conditions of a fence depend on -/

section
variable (s : State) (gid : Nat) (x g : Group) (k : Nat)

@[simp] theorem State.accessesDone_setG : (s.setG k x).accessesDone gid g = s.accessesDone gid g := rfl
@[simp] theorem State.readsDone_setG : (s.setG k x).readsDone gid g = s.readsDone gid g := rfl
@[simp] theorem State.loadsDone_setG : (s.setG k x).loadsDone gid g = s.loadsDone gid g := rfl
@[simp] theorem State.commandsDone_setG : (s.setG k x).commandsDone gid g = s.commandsDone gid g := rfl

/-- A release of a group whose accesses are performed is done when nothing of it is left (R253, R309). -/
theorem State.releaseGroup_performed (h : s.accessesDone gid g = true) : s.releaseGroup gid g =
    (!((s.releaseParty g.cluster gid).holdsAny g.cluster gid || !(s.releaseParty g.cluster gid).accessesDone gid g), s.releaseParty g.cluster gid) := by
  simp [State.releaseGroup, h]

theorem State.releaseGroup_waits (h : s.accessesDone gid g = false) : s.releaseGroup gid g = (false, s) := by
  simp [State.releaseGroup, h]

end

/-! ### Stalls -/

/-- A group in a stall at P for `w`. -/
def stalledAt (pc : DWord) (w : Waiting) (g : Group) : Group := { g with phase := .aStall, waiting := w, waitPc := pc }

theorem State.stall_eq {s : State} {gid : Nat} {pc : DWord} (h : s.cur = .group gid pc) (w : Waiting) :
    s.stall gid w = s.updG gid (stalledAt pc w) := by
  simp only [State.stall, State.curPc, h]
  rfl

/-- A stall leaves of the readied group what it leaves of the group itself. -/
theorem State.stall_ready {s : State} {gid : Nat} {pc : DWord} {g : Group} (hcur : s.cur = .group gid pc) (hg : find s.groups gid = some g)
    (w : Waiting) : (s.setG gid (g.ready pc)).stall gid w = s.updG gid (stalledAt pc w) := by
  rw [State.stall_eq (s := s.setG gid (g.ready pc)) hcur, State.updG_setG _ _ _ _ g hg, State.updG_eq_setG _ hg, Group.ready_eq]
  rfl

/-- After a release the path is still the current one. -/
theorem State.stall_released {s : State} {gid : Nat} {pc : DWord} (x : Group) (h : s.cur = .group gid pc) (c : Nat) (w : Waiting) :
    ((s.setG gid x).releaseParty c gid).stall gid w = ((s.setG gid x).releaseParty c gid).updG gid (stalledAt pc w) := by
  have hset : (s.setG gid x).cur = .group gid pc := h
  have hcur : ((s.setG gid x).releaseParty c gid).cur = .group gid pc := by rw [State.cur_releaseParty, hset]
  rw [State.stall_eq hcur]

/-! ### Acquires -/

@[simp] theorem State.cluster_passTs (s : State) (gid c : Nat) : (s.passTs gid).cluster c = s.cluster c := rfl

@[simp] theorem State.l1_acquire (s : State) (c : Nat) : ((s.acquire c).cluster c).l1 = [] := by
  have h : ((s.updC c fun k => { k with l1 := [] }).cluster c).l1 = [] := by rw [State.cluster_updC, if_pos rfl]
  exact h

/-- From scope 4 on every stream copy of the cluster leaves (R253). -/
theorem State.l1_acquireAt {scope : Nat} (hscope : 4 ≤ scope) (s : State) (gid c : Nat) : ((s.acquireAt gid c scope).cluster c).l1 = [] := by
  rw [State.acquireAt, State.cluster_passTs, if_neg (by omega)]
  split
  · exact (show (({ s.acquire c with devCopy := s.devCopy } : State).cluster c) = (s.acquire c).cluster c from rfl) ▸ s.l1_acquire c
  · exact s.l1_acquire c

/-! ### The obligation -/

section
variable {s : State} {gid : Nat} {pc : DWord} {g : Group} {f : FenceForm}

theorem exec_fenceSc_eq (h : ReadyUni s gid pc g (.fenceSc f) f.sw f.g {}) : exec (.fenceSc f) s = .next
    (if ((s.setG gid (g.ready pc)).fenceSc gid g f.scope).1 then
      ((s.setG gid (g.ready pc)).fenceSc gid g f.scope).2.performed gid (g.issued pc) (asPc (pc + 4#64)) []
    else ((s.setG gid (g.ready pc)).fenceSc gid g f.scope).2.stall gid .fence) := by
  have hruns : exec (.fenceSc f) s = _ := h.runs 4 _ _ true
  rw [hruns]
  simp only [Group.uniAt_gid, Group.uniAt_g, Group.uniAt_I, Issue.past_eq_performed, Group.uniAt_nextPc]
  split <;> next t ht => simp [ht]

theorem exec_fenceRel_eq (h : ReadyUni s gid pc g (.fenceRel f) f.sw f.g {}) : exec (.fenceRel f) s = .next
    (if ((s.setG gid (g.ready pc)).releaseGroup gid g).1 then
      ((s.setG gid (g.ready pc)).releaseGroup gid g).2.performed gid (g.issued pc) (asPc (pc + 4#64)) []
    else ((s.setG gid (g.ready pc)).releaseGroup gid g).2.stall gid .fence) := by
  have hruns : exec (.fenceRel f) s = _ := h.runs 4 _ _ true
  rw [hruns]
  simp only [Group.uniAt_gid, Group.uniAt_g, Group.uniAt_I, Issue.past_eq_performed, Group.uniAt_nextPc]
  split <;> next t ht => simp [ht]

theorem exec_fenceAcq_eq (h : ReadyUni s gid pc g (.fenceAcq f) f.sw f.g {}) : exec (.fenceAcq f) s = .next
    (if s.loadsDone gid g then ((s.setG gid (g.ready pc)).acquireAt gid g.cluster f.scope).performed gid (g.issued pc) (asPc (pc + 4#64)) []
    else (s.setG gid (g.ready pc)).stall gid .sideLog) :=
  h.runs 4 _ _ true

end

/-- A mast core that goes on after an acquire takes the next PC. -/
theorem State.mastNext_four (s : State) (c : Nat) : s.mastNext c 4 id = s.updM c fun m => { m with pc := m.pc + 4#64 } := rfl

theorem State.updM_eq_setM {s : State} {c : Nat} {m : Mast} (h : s.mast c = m) (f : Mast → Mast) : s.updM c f = s.setM c (f m) := by
  simp only [State.setM, State.updM, ← h]
  rfl

/-- Settles O32: the guard, then the conditions, which the readying of the group does not touch, then the release or the acquire. -/
theorem fencesCompleteOncePerformed : Obligations.FencesCompleteOncePerformed := by
  unfold Obligations.FencesCompleteOncePerformed
  refine ⟨fun f => ⟨skips_of_uniIssue fun s => rfl, skips_of_uniIssue fun s => rfl, skips_of_uniIssue fun s => rfl⟩, ?_, ?_⟩
  · intro f s gid pc g ready released left stalled
    have hdone : ready.accessesDone gid g = s.accessesDone gid g := State.accessesDone_setG s gid _ g gid
    have hcmds : ready.commandsDone gid g = s.commandsDone gid g := State.commandsDone_setG s gid _ g gid
    have hleft (h : s.accessesDone gid g = true) : ready.releaseGroup gid g = (!left, released) :=
      State.releaseGroup_performed ready gid g (hdone.trans h)
    refine ⟨fun h => ⟨fun hacc hcom hnone => ?_, fun hwaits => ?_, fun hacc hcom hsome => ?_⟩, fun h => ⟨fun hacc => ?_, fun hacc => ?_⟩,
      fun h => ⟨fun hloads => ?_, fun hloads => ?_⟩⟩
    · have hfence : ready.fenceSc gid g f.scope = (true, released.acquireAt gid g.cluster f.scope) := by
        simp [State.fenceSc, hcmds, hcom, hleft hacc, hnone]
      refine ⟨?_, fun hscope => State.l1_acquireAt hscope released gid g.cluster⟩
      rw [exec_fenceSc_eq h, hfence, if_pos rfl]
    · have hfence : ready.fenceSc gid g f.scope = (false, ready) := by
        cases hcom : s.commandsDone gid g with
        | false => simp [State.fenceSc, hcmds, hcom]
        | true =>
          have hacc : s.accessesDone gid g = false := hwaits.resolve_right (by simp [hcom])
          simp [State.fenceSc, hcmds, hcom, State.releaseGroup_waits ready gid g (hdone.trans hacc)]
      rw [exec_fenceSc_eq h, hfence, if_neg Bool.false_ne_true, State.stall_ready h.cur h.here]
      rfl
    · have hfence : ready.fenceSc gid g f.scope = (false, released) := by
        simp [State.fenceSc, hcmds, hcom, hleft hacc, hsome]
      rw [exec_fenceSc_eq h, hfence, if_neg Bool.false_ne_true, State.stall_released _ h.cur]
      rfl
    · rw [exec_fenceRel_eq h, hleft hacc]
      cases hl : left with
      | false => simp
      | true =>
        simp only [Bool.not_true, Bool.false_eq_true, if_false, if_true]
        rw [State.stall_released _ h.cur]
        rfl
    · rw [exec_fenceRel_eq h, State.releaseGroup_waits ready gid g (hdone.trans hacc), if_neg Bool.false_ne_true,
        State.stall_ready h.cur h.here]
      rfl
    · rw [exec_fenceAcq_eq h, hloads, if_pos rfl]
    · rw [exec_fenceAcq_eq h, hloads, if_neg Bool.false_ne_true, State.stall_ready h.cur h.here]
      rfl
  · intro f s c m acquired
    refine ⟨fun h => (h.runs f.sw 4 {} _ _).trans ?_, fun h => (h.runs f.sw 4 {} _ _).trans ?_, fun h => (h.runs f.sw 4 {} _ _).trans ?_⟩
    · have hidle : (m.ctxs.all fun (e : Nat × Ctx) => e.2.cmds.isEmpty) = true ↔ ∀ e ∈ m.ctxs, e.2.cmds = [] := by simp
      by_cases hi : ∀ e ∈ m.ctxs, e.2.cmds = []
      · simp only [hidle.2 hi, if_true, if_pos hi]
        rfl
      · simp only [if_neg hi, if_neg (mt hidle.1 hi)]
        rw [State.mastRetry, State.updM_eq_setM h.core]
    · rw [State.mastNext_four, State.updM_eq_setM h.core]
    · rfl

end Sys2Proof.Machine
end

section
/-!
SUPPORT. Barriers and supersteps: convergence of a group, and the release of those that wait (R163, R164, R170, R289).
-/
namespace Sys2Proof.Machine
open Sys2Proof

/-! ### Convergence (R163) -/

/-- The issue of an instruction for which the whole group has converged: every live lane is issued and executes. -/
def Group.metAt (g : Group) (gid : Nat) (pc : DWord) (len : Nat) : Issue :=
  { gid := gid, g := g, pc := pc, len := len, I := g.live, E := g.live }

section
variable {g : Group} {gid : Nat} {pc : DWord} {len : Nat}

/-- With every other live lane held at the instruction the group acts once, for all its live lanes. -/
theorem converge_gathered (h : ∀ l < 32, has (g.live &&& ~~~g.issued pc) l → g.pcOf l = pc ∧ g.holdOf l = .converge) (s : State)
    (act : Issue → State → State) : converge (g.uniAt gid pc len) s act =
      act (g.metAt gid pc len) (s.updG gid fun x => x.setHold (g.live &&& ~~~g.issued pc) .free) := by
  have hall : (lanesOf (g.live &&& ~~~g.issued pc)).all (fun l => g.pcOf l == pc && g.holdOf l == .converge) = true := by
    rw [List.all_eq_true]
    intro l hl
    obtain ⟨hpc, hhold⟩ := h l (lt_of_mem_lanesOf hl) (mem_lanesOf_iff_has.1 hl)
    simp [hpc, hhold]
  simp only [converge, Group.uniAt_g, Group.uniAt_I, Group.uniAt_pc, hall, if_true]
  rfl

/-- Else the issuing path is held. -/
theorem converge_waits (h : ¬ ∀ l < 32, has (g.live &&& ~~~g.issued pc) l → g.pcOf l = pc ∧ g.holdOf l = .converge) (s : State)
    (act : Issue → State → State) : converge (g.uniAt gid pc len) s act = s.updG gid fun x => x.setHold (g.issued pc) .converge := by
  have hsome : (lanesOf (g.live &&& ~~~g.issued pc)).all (fun l => g.pcOf l == pc && g.holdOf l == .converge) = false := by
    rw [← Bool.not_eq_true, List.all_eq_true]
    intro hall
    refine h fun l hl hlane => ?_
    simpa using hall l (mem_lanesOf_iff_has.2 hlane)
  simp only [converge, Group.uniAt_g, Group.uniAt_I, Group.uniAt_pc, hsome, Bool.false_eq_true, if_false]
  rfl

end

/-! ### Waking (R289) -/

section
variable {γ : Type} {view : State → γ} (hview : ∀ (s : State) (k : Nat) (f : Group → Group), view (s.updG k f) = view s)
include hview

/-- What no change of a group touches, the schedule does not touch. -/
theorem State.view_schedule (s : State) (c sp n : Nat) : view (s.schedule c sp n) = view s := by
  induction n generalizing s with
  | zero => rfl
  | succ n ih =>
    unfold State.schedule
    split
    · split
      · rw [ih, State.promote, hview]
      · rfl
    · split
      · rfl
      · split
        · rfl
        · rw [ih, State.promote, hview, hview]

theorem State.view_scheduleAll (s : State) (c : Nat) : view (s.scheduleAll c) = view s :=
  foldl_keeps view _ _ (fun s sp _ => State.view_schedule hview s c sp 32) s

/-- Nor does waking a group. -/
theorem State.view_wake (s : State) (gid : Nat) : view (s.wake gid) = view s := by
  unfold State.wake
  split
  · rfl
  · split
    · exact hview _ _ _
    · rw [State.view_scheduleAll hview, hview]
    · rfl

end

/-! ### Release of those that wait (R164, R170) -/

/-- What the opening of a barrier or superstep does for an arrival: a group that waits for it goes on after an acquire, and is ready. -/
def State.freeWaiter (W : Waiting) (scope : Nat) (s : State) (gid : Nat) : State :=
  match find s.groups gid with
  | some g => if g.waiting == W then ((s.passWait gid 4).acquireAt gid g.cluster scope).wake gid else s
  | none => s

theorem State.openBar_eq {s : State} {bid : Nat} {b : Block} (h : find s.blocks bid = some b) (n : Nat) :
    s.openBar bid n = (getD b.bars n []).foldl (State.freeWaiter (.bar n) 3) (s.updB bid fun b => { b with bars := del b.bars n }) := by
  rw [State.openBar, h]; rfl

theorem State.openSuper_eq {s : State} {lid : Nat} {l : Launch} (h : find s.launches lid = some l) :
    s.openSuper lid = l.superstep.foldl (State.freeWaiter .superstep 6) (s.updL lid fun l => { l with superstep := [] }) := by
  rw [State.openSuper, h]; rfl

@[simp] theorem State.blocks_acquireAt (s : State) (gid c scope : Nat) : (s.acquireAt gid c scope).blocks = s.blocks := by
  unfold State.acquireAt; split <;> [rfl; (split <;> rfl)]

@[simp] theorem State.launches_acquireAt (s : State) (gid c scope : Nat) : (s.acquireAt gid c scope).launches = s.launches := by
  unfold State.acquireAt; split <;> [rfl; (split <;> rfl)]

theorem State.groups_acquireAt (s : State) (gid c scope : Nat) :
    (s.acquireAt gid c scope).groups = upd s.groups gid fun g => { g with ts := s.tsTop + 1 } := by
  unfold State.acquireAt; split <;> [rfl; (split <;> rfl)]

theorem State.blocks_freeWaiter (W : Waiting) (scope : Nat) (s : State) (gid : Nat) : (s.freeWaiter W scope gid).blocks = s.blocks := by
  unfold State.freeWaiter
  split
  · split
    · rw [State.view_wake (view := State.blocks) (fun _ _ _ => rfl), State.blocks_acquireAt]; rfl
    · rfl
  · rfl

theorem State.launches_freeWaiter (W : Waiting) (scope : Nat) (s : State) (gid : Nat) : (s.freeWaiter W scope gid).launches = s.launches := by
  unfold State.freeWaiter
  split
  · split
    · rw [State.view_wake (view := State.launches) (fun _ _ _ => rfl), State.launches_acquireAt]; rfl
    · rfl
  · rfl

/-- x' is x, ready, its lanes after the instruction that parked them. -/
def Freed (x x' : Group) : Prop :=
  x'.phase = .aReady ∧ x'.waiting = .nothing ∧
  ∀ l < 32, x'.pcOf l = if has (x.issued x.waitPc) l then asPc (x.waitPc + 4#64) else x.pcOf l

section
variable {W : Waiting} {scope : Nat} {s : State} {w : Nat} {x : Group}

/-- A waiting group in an active slot is freed, and no other group changes. -/
theorem State.find_freeWaiter (hx : find s.groups w = some x) (hwait : x.waiting = W) (hphase : x.phase = .aPark) :
    ∃ x', Freed x x' ∧ ∀ k, find (s.freeWaiter W scope w).groups k = if k = w then some x' else find s.groups k := by
  let y : Group := { (x.setPc (x.issued x.waitPc) (asPc (x.waitPc + 4#64))) with ts := (s.passWait w 4).tsTop + 1 }
  have hat (k : Nat) : find ((s.passWait w 4).acquireAt w x.cluster scope).groups k = if k = w then some y else find s.groups k := by
    rw [State.groups_acquireAt, find_upd, State.passWait, State.find_updG, State.find_updG, if_pos rfl, hx]
    split <;> rfl
  refine ⟨{ y with phase := .aReady, waiting := .nothing }, ⟨rfl, rfl, fun l hl => Group.pcOf_setPc x _ _ l hl⟩, fun k => ?_⟩
  have hfree : s.freeWaiter W scope w = ((s.passWait w 4).acquireAt w x.cluster scope).wake w := by
    simp only [State.freeWaiter, hx, hwait, beq_self_eq_true, if_true]
  have hwake : ((s.passWait w 4).acquireAt w x.cluster scope).wake w =
      ((s.passWait w 4).acquireAt w x.cluster scope).updG w fun g => { g with phase := .aReady, waiting := .nothing } := by
    have hy : find ((s.passWait w 4).acquireAt w x.cluster scope).groups w = some y := (hat w).trans (if_pos rfl)
    have hyphase : y.phase = .aPark := hphase
    simp only [State.wake, hy, hyphase]
  rw [hfree, hwake, State.find_updG, hat w, hat k, if_pos rfl]
  split <;> rfl

/-- A group that waits for something else stays as it is. -/
theorem State.freeWaiter_other (hx : ∀ x, find s.groups w = some x → x.waiting ≠ W) : s.freeWaiter W scope w = s := by
  unfold State.freeWaiter
  split
  · next g hg => rw [if_neg (by simpa using hx g hg)]
  · rfl

end

section
variable {W : Waiting} {scope : Nat} {s : State} {w k : Nat} {y : Group} (hW : W ≠ .nothing)
  (hphase : ∀ x, find s.groups w = some x → x.waiting = W → x.phase = .aPark)
include hW hphase

/-- What still waits after one release did so before. -/
theorem State.waits_of_freeWaiter (hy : find (s.freeWaiter W scope w).groups k = some y) (hwait : y.waiting = W) : find s.groups k = some y := by
  by_cases hx : ∃ x, find s.groups w = some x ∧ x.waiting = W
  · obtain ⟨x, hx, hxw⟩ := hx
    obtain ⟨x', ⟨-, hnothing, -⟩, hfind⟩ := State.find_freeWaiter (scope := scope) hx hxw (hphase x hx hxw)
    rw [hfind k] at hy
    split at hy
    · obtain rfl := Option.some.inj hy
      exact absurd (hwait.symm.trans hnothing) hW
    · exact hy
  · rwa [State.freeWaiter_other fun x h1 h2 => hx ⟨x, h1, h2⟩] at hy

omit hW in
/-- What does not wait for the opening is not changed. -/
theorem State.find_freeWaiter_other (hy : find s.groups k = some y) (hother : y.waiting ≠ W) : find (s.freeWaiter W scope w).groups k = some y := by
  by_cases hx : ∃ x, find s.groups w = some x ∧ x.waiting = W
  · obtain ⟨x, hx, hxw⟩ := hx
    obtain ⟨x', -, hfind⟩ := State.find_freeWaiter (scope := scope) hx hxw (hphase x hx hxw)
    have hne : k ≠ w := by
      rintro rfl
      rw [hx] at hy
      exact hother (Option.some.inj hy ▸ hxw)
    rw [hfind k, if_neg hne, hy]
  · rwa [State.freeWaiter_other fun x h1 h2 => hx ⟨x, h1, h2⟩]

end

section
variable {W : Waiting} (hW : W ≠ .nothing) (scope : Nat) (ws : List Nat) (s : State)
  (hphase : ∀ w ∈ ws, ∀ x, find s.groups w = some x → x.waiting = W → x.phase = .aPark)
include hW hphase

theorem State.find_foldl_freeWaiter_other {k : Nat} {y : Group} (hy : find s.groups k = some y) (hother : y.waiting ≠ W) :
    find (ws.foldl (State.freeWaiter W scope) s).groups k = some y := by
  induction ws generalizing s with
  | nil => exact hy
  | cons w ws ih =>
    have hw := hphase w List.mem_cons_self
    exact ih _ (fun v hv x hx hwait => hphase v (List.mem_cons_of_mem _ hv) x (State.waits_of_freeWaiter hW hw hx hwait) hwait)
      (State.find_freeWaiter_other hw hy hother)

/-- The arrivals of a list that wait, all in active slots, are freed. -/
theorem State.find_foldl_freeWaiter {w : Nat} (hw : w ∈ ws) {x : Group} (hx : find s.groups w = some x) (hwait : x.waiting = W) :
    ∃ x', find (ws.foldl (State.freeWaiter W scope) s).groups w = some x' ∧ Freed x x' := by
  induction ws generalizing s with
  | nil => exact absurd hw List.not_mem_nil
  | cons v ws ih =>
    have hv := hphase v List.mem_cons_self
    have hrest : ∀ u ∈ ws, ∀ y, find (s.freeWaiter W scope v).groups u = some y → y.waiting = W → y.phase = .aPark := fun u hu y hy hyw =>
      hphase u (List.mem_cons_of_mem _ hu) y (State.waits_of_freeWaiter hW hv hy hyw) hyw
    by_cases hvw : w = v
    · subst hvw
      obtain ⟨x', hfreed, hfind⟩ := State.find_freeWaiter (scope := scope) hx hwait (hv x hx hwait)
      refine ⟨x', State.find_foldl_freeWaiter_other hW scope ws _ hrest ((hfind w).trans (if_pos rfl)) ?_, hfreed⟩
      rw [hfreed.2.1]; exact hW.symm
    · refine ih _ hrest ((List.mem_cons.1 hw).resolve_left hvw) ?_
      by_cases hvx : ∃ y, find s.groups v = some y ∧ y.waiting = W
      · obtain ⟨y, hy, hyw⟩ := hvx
        obtain ⟨y', -, hfind⟩ := State.find_freeWaiter (scope := scope) hy hyw (hv y hy hyw)
        rw [hfind w, if_neg hvw, hx]
      · rwa [State.freeWaiter_other fun y h1 h2 => hvx ⟨y, h1, h2⟩]

end

/-! ### The obligation -/

/-- Settles O33: convergence decides whether the group arrives; the opening frees the arrivals one after another. -/
theorem barriersAndSuperstepsGather : Obligations.BarriersAndSuperstepsGather := by
  unfold Obligations.BarriersAndSuperstepsGather
  intro others gathered met freed
  refine ⟨?_, ?_, ?_, ?_⟩
  · intro f s gid pc g h
    have hexec : exec (.bar f) s = _ := h.runs_groupOnly 4 _
    refine ⟨fun hnot => ?_, fun hall s3 hfence => ?_, fun hall s3 hfence => ?_⟩
    · rw [hexec, converge_waits hnot, State.updG_setG _ _ _ _ g h.here]
    · have hact := converge_gathered (gid := gid) (len := 4) hall (s.setG gid (g.ready pc))
      rw [State.updG_setG _ _ _ _ g h.here] at hact
      rw [hexec, hact]
      simp only [show (s.setG gid ((g.ready pc).setHold (g.live &&& ~~~g.issued pc) .free)).fenceSc (g.metAt gid pc 4).gid (g.metAt gid pc 4).g 3 = (true, s3) from hfence]
      exact ⟨fun hdone => congrArg Host.Outcome.next (if_pos hdone), fun hdone => congrArg Host.Outcome.next (if_neg (Bool.eq_false_iff.1 hdone))⟩
    · have hact := converge_gathered (gid := gid) (len := 4) hall (s.setG gid (g.ready pc))
      rw [State.updG_setG _ _ _ _ g h.here] at hact
      rw [hexec, hact]
      simp only [show (s.setG gid ((g.ready pc).setHold (g.live &&& ~~~g.issued pc) .free)).fenceSc (g.metAt gid pc 4).gid (g.metAt gid pc 4).g 3 = (false, s3) from hfence]
      rfl
  · intro f s gid pc g l h hl
    have hexec : exec (.sstep f) s = _ := h.runs_groupOnly 4 _
    have hlaunch : (s.setG gid (g.ready pc)).launchOfG g = some l := hl
    simp only [Group.uniAt_gid, Group.uniAt_g, Group.uniAt_I, Group.uniAt_pc, hlaunch] at hexec
    refine ⟨fun hnot => ?_, fun hco hnot => ?_, fun hco hall s3 hfence => ?_⟩
    · rw [hexec]; simp only [hnot, Bool.not_false, if_true]
    · rw [hexec]
      simp only [hco, Bool.not_true, Bool.false_eq_true, if_false]
      rw [converge_waits hnot, State.updG_setG _ _ _ _ g h.here]
    · have hact := converge_gathered (gid := gid) (len := 4) hall (s.setG gid (g.ready pc))
      rw [State.updG_setG _ _ _ _ g h.here] at hact
      rw [hexec]
      simp only [hco, Bool.not_true, Bool.false_eq_true, if_false]
      rw [hact]
      simp only [show (s.setG gid ((g.ready pc).setHold (g.live &&& ~~~g.issued pc) .free)).fenceSc (g.metAt gid pc 4).gid (g.metAt gid pc 4).g 6 = (true, s3) from hfence]
      refine ⟨fun hone hdone => congrArg Host.Outcome.next (if_pos ⟨hone, hdone⟩), fun hnot => congrArg Host.Outcome.next (if_neg ?_)⟩
      rintro ⟨hone, hdone⟩
      exact hnot.elim (fun h => h hone) fun h => Bool.false_ne_true (h.symm.trans hdone)
  · intro s bid n b hb
    have hfirst : find (s.updB bid fun b => { b with bars := del b.bars n }).blocks bid = some { b with bars := del b.bars n } := by
      rw [State.find_updB, if_pos rfl, hb]; rfl
    rw [State.openBar_eq hb]
    refine ⟨⟨_, ?_, rfl⟩, fun hphase w hw x hx hwait => ?_⟩
    · rw [foldl_keeps State.blocks _ _ (fun s w _ => State.blocks_freeWaiter _ _ s w), hfirst]
    · exact State.find_foldl_freeWaiter (by simp) 3 _ (s.updB bid _) hphase hw hx hwait
  · intro s lid l hl
    have hfirst : find (s.updL lid fun l => { l with superstep := [] }).launches lid = some { l with superstep := [] } := by
      rw [State.find_updL, if_pos rfl, hl]; rfl
    rw [State.openSuper_eq hl]
    refine ⟨⟨_, ?_, rfl⟩, fun hphase w hw x hx hwait => ?_⟩
    · rw [foldl_keeps State.launches _ _ (fun s w _ => State.launches_freeWaiter _ _ s w), hfirst]
    · exact State.find_foldl_freeWaiter (by simp) 6 _ (s.updL lid _) hphase hw hx hwait

end Sys2Proof.Machine
end

section
/-!
SUPPORT. Runs of uniform registers, timelines, guard slots and launch order (R171 to R173, R406).
-/
namespace Sys2Proof.Machine
open Sys2Proof

/-! ### Runs of uniform registers -/

/-- A run of words written to uniform registers of a mast core: those registers hold them, the others what they held. -/
theorem Mast.uniRun_setRun (m : Mast) (d : Nat) (ws : List Word) : m.UniRun (m.setRun d ws) d ws := by
  intro r _
  have h : ∀ n, ((List.range n).foldl (fun (m : Mast) i => m.setS (d + i) (ws.getD i 0#32)) m).sreg r =
      if d ≤ r ∧ r < d + n then ws.getD (r - d) 0#32 else m.sreg r := by
    intro n
    induction n with
    | zero => rw [if_neg (by omega)]; rfl
    | succ n ih =>
      rw [List.range_succ, List.foldl_append, List.foldl_cons, List.foldl_nil, Mast.sreg_setS, ih]
      by_cases hr : r = d + n
      · subst hr; simp
      · rw [if_neg hr]
        by_cases hin : d ≤ r ∧ r < d + n
        · rw [if_pos hin, if_pos (by omega)]
        · rw [if_neg hin, if_neg (by omega)]
  exact h ws.length

/-- Such a run changes no other part of the core. -/
theorem Mast.setRun_rest (m : Mast) (d : Nat) (ws : List Word) : m.setRun d ws = { m with s := (m.setRun d ws).s } := by
  have h : ∀ l : List Nat, ∀ x : Mast, l.foldl (fun (m : Mast) i => m.setS (d + i) (ws.getD i 0#32)) x =
      { x with s := (l.foldl (fun (m : Mast) i => m.setS (d + i) (ws.getD i 0#32)) x).s } := by
    intro l
    induction l with
    | nil => intro x; rfl
    | cons i l ih => intro x; rw [List.foldl_cons, ih]; rfl
  exact h _ m

/-! ### Timelines (R171) -/

/-- The number that `tlwait` waits for, read from the registers of a group or a mast core. -/
theorem tlwNumber_eq (f : TlwForm) (rd : Nat → Word) : tlwNumber f rd =
    if f.i = 1 then f.b.val else if f.w = 1 then (pair (rd f.b) (rd (f.b + 1))).toNat else (rd f.b).toNat := by
  simp only [tlwNumber, Fin.ext_iff]; rfl

/-- The words of a counter. -/
theorem tlrWords_eq (f : TlrForm) (n : Nat) :
    tlrWords f n = if f.w = 1 then [BitVec.ofNat 32 n, BitVec.ofNat 32 (n / 2 ^ 32)] else [BitVec.ofNat 32 n] := by
  simp only [tlrWords, Fin.ext_iff]; rfl

theorem uniWrites_tlrWords (f : TlrForm) (n : Nat) : uniWrites f.d (tlrWords f n) =
    if f.w = 1 then [(.uni f.d, BitVec.ofNat 32 n), (.uni (f.d + 1), BitVec.ofNat 32 (n / 2 ^ 32))] else [(.uni f.d, BitVec.ofNat 32 n)] := by
  rw [tlrWords_eq]
  split <;> rfl

@[simp] theorem State.mast_acquire (s : State) (c k : Nat) : (s.acquire c).mast k = s.mast k := by
  have h : (s.updC c fun k => { k with l1 := [] }).mast k = s.mast k := by
    rw [State.mast_updC]
    split
    · next h => rw [h]; rfl
    · rfl
  exact h

/-- An acquire of a mast core changes of the core its timestamp alone. -/
theorem State.mast_acquireMast (s : State) (c scope : Nat) : ∃ ts, (s.acquireMast c scope).mast c = { s.mast c with ts := ts } := by
  have hpass (t : State) : (t.passTsM c).mast c = { t.mast c with ts := t.tsTop + 1 } := by
    unfold State.passTsM
    rw [State.mast_updM, if_pos rfl]
    rfl
  unfold State.acquireMast
  split
  · exact ⟨_, hpass s⟩
  · split
    · exact ⟨_, (hpass _).trans (by rw [show ({ s.acquire c with devCopy := s.devCopy } : State).mast c = (s.acquire c).mast c from rfl, State.mast_acquire])⟩
    · exact ⟨_, (hpass _).trans (by rw [State.mast_acquire])⟩

/-! ### Guard slots (R172) -/

/-- What a map's entry looks like through a view, by the list of views. -/
theorem find_map_view {α β : Type} (v : α → β) (m : SMap α) (k : Nat) : find (m.map fun e => (e.1, v e.2)) k = (find m k).map v := by
  induction m with
  | nil => rfl
  | cons e m ih =>
    obtain ⟨j, x⟩ := e
    simp only [List.map_cons, find]
    split <;> simp [ih]

theorem State.find_guards_of_calm {s t : State} (h : t.calm = s.calm) (bid : Nat) :
    (find t.blocks bid).map Block.guards = (find s.blocks bid).map Block.guards := by
  rw [← find_map_view, ← find_map_view, State.guards_of_calm h]

theorem State.guardOf_of_calm {s t : State} (h : t.calm = s.calm) (bid n : Nat) : t.guardOf bid n = s.guardOf bid n := by
  have hg := State.find_guards_of_calm h bid
  unfold State.guardOf
  cases ht : find t.blocks bid <;> cases hs : find s.blocks bid <;> simp_all

/-- A slot that is set reads so; the block's other slots are as before. -/
theorem State.guardOf_setGuard {s : State} {bid : Nat} (h : (find s.blocks bid).isSome) (n v k : Nat) :
    (s.setGuard bid n v).guardOf bid k = if k = n then v else s.guardOf bid k := by
  obtain ⟨b, hb⟩ := Option.isSome_iff_exists.1 h
  simp [State.guardOf, State.setGuard, hb]

/-- The sampling of a resolved slot changes no block. -/
theorem State.blocks_sampleAll (s : State) (lid : Nat) : (s.sampleAll lid).blocks = s.blocks := by
  unfold State.sampleAll
  split
  · rfl
  · refine foldl_keeps State.blocks _ _ (fun s n _ => ?_) s
    unfold State.sampleHead State.updCtx
    split <;> rfl

theorem State.guardOf_sampleAll (s : State) (lid bid n : Nat) : (s.sampleAll lid).guardOf bid n = s.guardOf bid n := by
  unfold State.guardOf; rw [State.blocks_sampleAll]

/-- A group that may issue has its block. -/
theorem Issues.block {s : State} {gid : Nat} {pc : DWord} {g : Group} {sw : Fin 2} (h : Issues s gid pc g sw) : (find s.blocks g.bid).isSome := by
  have hmay := h.may
  unfold State.mayIssue State.blockOf at hmay
  cases hb : find s.blocks g.bid with
  | none => simp [hb] at hmay
  | some b => rfl

/-! ### The obligation -/

theorem tlwait_skips (f : TlwForm) : SkipsWithoutEffect (.tlwait f) f.sw f.g 4 (tlwUses f) :=
  skips_of_uniIssue fun _ => rfl

theorem tlread_skips (f : TlrForm) : SkipsWithoutEffect (.tlread f) f.sw f.g 4 { s := f.a.val :: regRun f.d (f.w.val + 1) } :=
  skips_of_uniIssue fun _ => rfl

/-- Settles O36: each instruction reads a counter, a slot or a mark of its group's launch or block, which the issue does not touch. -/
theorem timelinesGuardsAndLaunchOrder : Obligations.TimelinesGuardsAndLaunchOrder := by
  unfold Obligations.TimelinesGuardsAndLaunchOrder
  refine ⟨tlwait_skips, tlread_skips, ?_, ?_, ?_, ?_, ?_, ?_, ?_, ?_⟩
  · intro f s gid pc g h n c
    have hexec : exec (.tlwait f) s = _ := h.runs 4 _ _ true
    have hn : tlwNumber f g.sreg = n := tlwNumber_eq f g.sreg
    rw [hexec]
    simp only [Group.uniAt_gid, Group.uniAt_g, Group.uniAt_I, Group.uniAt_pc, Issue.past_eq_performed, Group.uniAt_nextPc, hn]
    have hctx (o : Option Ctx) (ho : s.ctx (s.lidOf g) c = o) : (s.setG gid (g.ready pc)).ctx ((s.setG gid (g.ready pc)).lidOf g) (g.sreg f.a).toNat = o := ho
    refine ⟨fun x hx hle => ?_, fun x hx hlt => ?_, fun hx => ?_⟩
    · simp only [hctx _ hx, if_pos hle]
    · simp only [hctx _ hx, if_neg (Nat.not_le.2 hlt)]
      rfl
    · simp only [hctx _ hx]
  · intro f s gid pc g h c
    have hexec : exec (.tlread f) s = _ := h.runs 4 _ _ true
    rw [hexec]
    simp only [Group.uniAt_gid, Group.uniAt_g, Group.uniAt_I, Group.uniAt_pc, Group.uniAt_nextPc, Issue.past, uniWrites_tlrWords]
    have hctx (o : Option Ctx) (ho : s.ctx (s.lidOf g) c = o) : (s.setG gid (g.ready pc)).ctx ((s.setG gid (g.ready pc)).lidOf g) (g.sreg f.a).toNat = o := ho
    refine ⟨fun x hx => ?_, fun hx => ?_⟩
    · simp only [hctx _ hx]
      rfl
    · simp only [hctx _ hx]
  · intro f s cl m own n x h hplace hx
    have hexec : exec (.tlwait f) s = _ := h.runs f.sw 4 (tlwUses f) _ _
    rw [hexec]
    simp only [hplace, hx, tlwNumber_eq, State.mastNext_four, State.mastRetry, State.updM_eq_setM h.core]
    rfl
  · intro f s cl m own n x h hplace hx
    have hexec : exec (.tlread f) s = _ := h.runs f.sw 4 _ _ _
    obtain ⟨ts, hts⟩ := s.mast_acquireMast cl 6
    rw [h.core] at hts
    simp only [hplace, hx, tlrWords_eq, State.mastNext, State.updM_eq_setM hts] at hexec
    refine ⟨s.acquireMast cl 6, _, hexec, rfl, ?_, ?_⟩
    · rw [hts, Mast.setRun_rest]
    · exact Mast.uniRun_setRun { m with ts := ts } f.d _
  · intro f s gid pc g h v s2
    have hexec : exec (.gset f) s = _ := h.runs_groupOnly 4 _
    have hv : (if f.i.val = 1 then f.b.val else (g.sreg f.b).toNat) = v := by simp only [v, Fin.ext_iff]; rfl
    have hguard : (s.setG gid (g.ready pc)).guardOf g.bid f.n = s.guardOf g.bid f.n := rfl
    have hdone : (s.setG gid (g.ready pc)).accessesDone gid g = s.accessesDone gid g := rfl
    simp only [Group.uniAt_gid, Group.uniAt_g, Group.uniAt_I, Group.uniAt_pc, hv, hguard] at hexec
    refine ⟨fun hres => by rw [hexec, if_pos hres], fun hun hor => ?_⟩
    rw [if_neg (not_not_intro hun)] at hexec
    by_cases h0 : v = 0
    · rw [if_pos h0] at hexec
      have hread (k : Nat) := State.guardOf_setGuard (s := s.setG gid (g.ready pc)) h.block f.n 2 k
      refine ⟨((s.setG gid (g.ready pc)).setGuard g.bid f.n 2).sampleAll ((s.setG gid (g.ready pc)).lidOf g), hexec, ?_, fun n hn => ?_⟩
      · rw [State.guardOf_sampleAll, hread, if_pos rfl, if_pos h0]
      · rw [State.guardOf_sampleAll, hread, if_neg hn]
        rfl
    · obtain ⟨hacc, hheld, howed⟩ := hor.resolve_left h0
      have hrel : (s.setG gid (g.ready pc)).releaseGroup gid g = (true, s2) := by
        rw [State.releaseGroup_performed _ _ _ (hdone.trans hacc), hheld, howed]; rfl
      rw [if_neg h0] at hexec
      have hcalm : s2.calm = (s.setG gid (g.ready pc)).calm := State.calm_releaseParty _ _ _
      clear_value s2
      simp only [hrel, Issue.past_eq_performed, Group.uniAt_gid, Group.uniAt_nextPc] at hexec
      have hblock : (find s2.blocks g.bid).isSome := by
        have hviews := State.find_guards_of_calm hcalm g.bid
        rw [← Option.isSome_map (f := Block.guards), hviews, Option.isSome_map]
        exact h.block
      have hread (k : Nat) := State.guardOf_setGuard hblock f.n 1 k
      refine ⟨(s2.setGuard g.bid f.n 1).sampleAll ((s.setG gid (g.ready pc)).lidOf g), hexec, ?_, fun n hn => ?_⟩
      · rw [State.guardOf_sampleAll, hread, if_pos rfl, if_neg h0]
      · rw [State.guardOf_sampleAll, hread, if_neg hn, State.guardOf_of_calm hcalm]
        rfl
  · intro f s gid pc g h
    have hexec : exec (.gsetClr f) s = _ := h.runs_groupOnly 4 _
    have hread (k : Nat) := State.guardOf_setGuard (s := s.setG gid (g.ready pc)) h.block f.n 0 k
    exact ⟨_, hexec, (hread f.n).trans (if_pos rfl), fun n hn => (hread n).trans (if_neg hn), rfl, rfl⟩
  · intro f s gid pc g l h hl
    have hexec : exec (.sms f) s = _ := h.runs_groupOnly 4 _
    refine ⟨_, hexec, ?_, rfl, rfl⟩
    exact (State.find_updL _ _ _ _).trans ((if_pos rfl).trans (by rw [Group.uniAt_g]; exact congrArg (Option.map _) hl))
  · intro f s gid pc g l h hl
    have hexec : exec (.waitpred f) s = _ := h.runs_groupOnly 4 _
    have hlaunch : (s.setG gid (g.ready pc)).launchOfG g = some l := hl
    have hpred : (s.setG gid (g.ready pc)).predecessorLive l = s.predecessorLive l := rfl
    rw [hexec]
    simp only [Group.uniAt_g, Group.uniAt_gid, hlaunch, hpred]
    split <;> rfl

end Sys2Proof.Machine
end

section
/-!
SUPPORT. Barrier objects: bytes written into a scratchpad and read back, the evaluation of an object nobody waits on, and what a `barx`
operation leaves (R165 to R167).
-/
namespace Sys2Proof.Machine
open Sys2Proof

/-! ### Bytes of numbers -/

@[simp] theorem length_toBytes (n x : Nat) : (toBytes n x).length = n := by
  induction n generalizing x with
  | zero => rfl
  | succ n ih => simp [toBytes, ih]

@[simp] theorem ofBytes_toBytes (n x : Nat) : ofBytes (toBytes n x) = x % 256 ^ n := by
  induction n generalizing x with
  | zero => simp [toBytes, ofBytes, Nat.mod_one]
  | succ n ih => rw [toBytes, ofBytes, ih, Nat.pow_succ', Nat.mod_mul, BitVec.toNat_ofNat]

theorem ofBytes_lt (l : List Byte) : ofBytes l < 256 ^ l.length := by
  induction l with
  | nil => decide
  | cons b l ih =>
    have hb := b.isLt
    rw [ofBytes, List.length_cons, Nat.pow_succ']
    omega

theorem sextInt_wrapNat (z : Int) : sextInt 32 (wrapNat 32 z) = z.bmod (2 ^ 32) := by
  rw [sextInt_eq_toInt, BitVec.toInt_ofNat', wrapNat, Int.toNat_of_nonneg (Int.emod_nonneg _ (by decide)), Int.emod_bmod]

/-! ### Scratchpad bytes (R150) -/

/-- Within a bank the keys of consecutive bytes are consecutive. -/
theorem Block.spKey_add (b : Block) (a i : Nat) (h : a % 16384 + i < 16384) : b.spKey (a + i) = b.spKey a + i := by
  have hbank : (a + i) / 16384 = a / 16384 := by omega
  rw [Block.spKey, Block.spKey, hbank]
  omega

section
variable (s : State) (b : Block)

@[simp] theorem State.spWrite_groups (a : Nat) (bs : List Byte) : (s.spWrite b a bs).groups = s.groups := rfl
@[simp] theorem State.spWrite_mem (a : Nat) (bs : List Byte) : (s.spWrite b a bs).mem = s.mem := rfl
@[simp] theorem State.spWrite_l2 (a : Nat) (bs : List Byte) : (s.spWrite b a bs).l2 = s.l2 := rfl

/-- What a bank holds after bytes were stored within it. -/
theorem State.scratch_spWrite {a : Nat} {bs : List Byte} (h : a % 16384 + bs.length ≤ 16384) (k : Nat) :
    getD ((s.spWrite b a bs).cluster b.cluster).scratch k 0#8 =
      if b.spKey a ≤ k ∧ k < b.spKey a + bs.length then bs.getD (k - b.spKey a) 0#8 else getD (s.cluster b.cluster).scratch k 0#8 := by
  have hfold : (List.range bs.length).foldl (fun m i => setD m (b.spKey (a + i)) (bs.getD i 0#8) 0#8) (s.cluster b.cluster).scratch =
      ((List.range bs.length).map (b.spKey a + ·)).foldl (fun m k => setD m k (bs.getD (k - b.spKey a) 0#8) 0#8) (s.cluster b.cluster).scratch := by
    rw [List.foldl_map]
    refine List.foldl_ext _ _ _ fun m i hi => ?_
    rw [Block.spKey_add b a i (by have := List.mem_range.1 hi; omega), Nat.add_sub_cancel_left]
  simp only [State.spWrite, State.cluster_updC, if_true]
  rw [hfold, getD_foldl_setD]
  refine if_congr ?_ rfl rfl
  simp only [List.mem_map, List.mem_range]
  constructor
  · rintro ⟨i, hi, rfl⟩; omega
  · rintro ⟨hlo, hhi⟩; exact ⟨k - b.spKey a, by omega, by omega⟩

/-- Bytes stored within a bank are read back. -/
theorem State.spRead_spWrite {a : Nat} {bs : List Byte} (h : a % 16384 + bs.length ≤ 16384) {i n : Nat} (hin : i + n ≤ bs.length) :
    (s.spWrite b a bs).spRead b (a + i) n = (bs.drop i).take n := by
  refine List.ext_getElem (by simp [State.spRead]; omega) fun j hj hj' => ?_
  have hjn : j < n := by simpa [State.spRead] using hj
  simp only [State.spRead, List.getElem_map, List.getElem_range, State.spByte, State.scratch_spWrite s b h]
  rw [Nat.add_assoc, Block.spKey_add b a (i + j) (by omega), if_pos (by omega), Nat.add_sub_cancel_left]
  simp [List.getElem_take, List.getElem_drop, List.getD_eq_getElem?_getD, List.getElem?_eq_getElem (show i + j < bs.length by omega)]

end

/-! ### The bytes of an object (R165) -/

/-- What the 16 bytes of an object keep of its counters. -/
def BarObj.stored (o : BarObj) : BarObj := { o with pend := o.pend.bmod (2 ^ 32), arr := o.arr % 65536 }

/-- The 16 bytes of an object, as four words. -/
def BarObj.bytes (o : BarObj) : List Byte :=
  toBytes 4 (wrapNat 32 o.pend) ++ toBytes 4 (o.count % 65536 + 65536 * (o.arr % 65536)) ++ toBytes 4 o.phase
    ++ toBytes 4 ((if o.valid then 1 else 0) + (if o.overrun then 2 else 0))

@[simp] theorem BarObj.length_bytes (o : BarObj) : o.bytes.length = 16 := by simp [BarObj.bytes]

theorem State.setObj_resident (s : State) {b : Block} (hb : b.phase = .resident) (off : Nat) (o : BarObj) :
    s.setObj b off o = s.spWrite b off o.bytes := if_neg (not_not_intro hb)

section
variable {b : Block} {off : Nat} (hb : b.phase = .resident) (hoff : off % 16 = 0) (s : State) (o : BarObj)
include hb hoff

/-- An object written to an aligned place of a resident block's scratchpad reads back as its bytes keep it. -/
theorem State.objAt_setObj (hcount : o.count < 65536) (hphase : o.phase < 2 ^ 32) : (s.setObj b off o).objAt b off = o.stored := by
  have hbank : off % 16384 + o.bytes.length ≤ 16384 := by rw [BarObj.length_bytes]; omega
  have hread (i x : Nat) (hi : i < 4) (hx : (o.bytes.drop (4 * i)).take 4 = toBytes 4 x) (hlt : x < 256 ^ 4) :
      ofBytes ((s.spWrite b off o.bytes).spRead b (off + 4 * i) 4) = x := by
    rw [State.spRead_spWrite s b hbank (by rw [BarObj.length_bytes]; omega), hx, ofBytes_toBytes, Nat.mod_eq_of_lt hlt]
  have hflags : (if o.valid then 1 else 0) + (if o.overrun then 2 else 0) < 2 ^ 32 := by
    cases o.valid <;> cases o.overrun <;> decide
  rw [State.setObj_resident s hb]
  simp only [State.objAt, hb, ne_eq, not_true_eq_false, if_false]
  rw [hread 0 _ (by decide) rfl (by unfold wrapNat; omega), hread 1 _ (by decide) rfl (by omega), hread 2 _ (by decide) rfl hphase,
    hread 3 _ (by decide) rfl hflags, sextInt_wrapNat]
  simp only [BarObj.stored, BarObj.mk.injEq]
  refine ⟨trivial, by omega, by omega, trivial, ?_, ?_⟩
  · cases o.valid <;> cases o.overrun <;> rfl
  · cases o.valid <;> cases o.overrun <;> rfl

/-- Writing an object changes its 16 bytes alone. -/
theorem State.scratch_setObj_other {k : Nat} (hk : k < b.spKey off ∨ b.spKey off + 16 ≤ k) :
    getD ((s.setObj b off o).cluster b.cluster).scratch k 0#8 = getD (s.cluster b.cluster).scratch k 0#8 := by
  have hbank : off % 16384 + o.bytes.length ≤ 16384 := by rw [BarObj.length_bytes]; omega
  rw [State.setObj_resident s hb, State.scratch_spWrite s b hbank, BarObj.length_bytes, if_neg (by omega)]

end

/-- The object that an address accepted by R165 names stands at a multiple of 16. -/
theorem State.objPlace_aligned {s : State} {g : Group} {a : Word} {b m : Block} {bid off : Nat} (hfault : s.objFault g a = none)
    (hb : s.blockOf g = some b) (hplace : s.objPlace b a = some (bid, m, off)) : off % 16 = 0 := by
  have halign : a.toNat % 16 = 0 := by
    by_contra hne
    simp [State.objFault, State.spFault, hb, hne] at hfault
  unfold State.objPlace at hplace
  split at hplace
  · next mo _ hsp =>
    obtain ⟨rfl, rfl, rfl⟩ := hplace
    unfold State.spPlace at hsp
    split at hsp
    · split at hsp
      · cases hsp; exact halign
      · cases hsp
    · dsimp only at hsp
      split at hsp
      · cases hsp
      · split at hsp
        · cases hsp
        · split at hsp
          · cases hsp
          · cases hsp
            unfold bits
            omega
  · cases hplace

/-! ### The evaluation of an object nobody waits on (R167) -/

/-- Some group is parked at a `barw` on an object. -/
def State.awaited (s : State) (key : Nat) : Prop := ∃ e ∈ s.groups, ∃ k, e.2.waiting = .barw key k

theorem State.waitersOf_eq_nil {s : State} {key : Nat} (h : ¬ s.awaited key) (phase : Nat) : s.waitersOf key phase = [] := by
  rw [State.waitersOf, List.map_eq_nil_iff, List.filter_eq_nil_iff]
  intro e he
  split
  · next k p hw =>
    rintro hk
    simp only [Bool.and_eq_true, decide_eq_true_eq] at hk
    exact h ⟨e, he, p, by rw [hw, hk.1]⟩
  · exact Bool.false_ne_true

/-- It depends on what the groups wait for alone. -/
theorem State.awaited_of_calm {s t : State} (h : t.calm = s.calm) {key : Nat} (ht : t.awaited key) : s.awaited key := by
  obtain ⟨e, he, k, hk⟩ := ht
  have hmem : (e.1, e.2.waiting) ∈ s.groups.map fun e => (e.1, e.2.waiting) := by
    rw [← State.waiting_of_calm h]
    exact List.mem_map.2 ⟨e, he, rfl⟩
  obtain ⟨e', he', heq⟩ := List.mem_map.1 hmem
  exact ⟨e', he', k, (congrArg Prod.snd heq).trans hk⟩

/-- An entry of an updated map is an entry of the map, or the updated one. -/
theorem mem_upd {α : Type} {m : SMap α} {k : Nat} {f : α → α} {e : Nat × α} (h : e ∈ upd m k f) : e ∈ m ∨ ∃ x, find m k = some x ∧ e = (k, f x) := by
  induction m with
  | nil => exact .inl h
  | cons e' m ih =>
    obtain ⟨j, y⟩ := e'
    rw [upd] at h
    rw [find]
    split at h
    · next hj =>
      rw [if_pos hj]
      rcases List.mem_cons.1 h with rfl | h
      · exact .inr ⟨y, rfl, by rw [hj]⟩
      · exact .inl (List.mem_cons_of_mem _ h)
    · next hj =>
      rw [if_neg hj]
      rcases List.mem_cons.1 h with rfl | h
      · exact .inl List.mem_cons_self
      · exact (ih h).imp (List.mem_cons_of_mem _) id

theorem find_mem {α : Type} {m : SMap α} {k : Nat} {x : α} (h : find m k = some x) : (k, x) ∈ m := by
  induction m with
  | nil => cases h
  | cons e m ih =>
    obtain ⟨j, y⟩ := e
    rw [find] at h
    split at h
    · next hj => cases h; cases hj; exact List.mem_cons_self
    · exact List.mem_cons_of_mem _ (ih h)

theorem Group.ready_waiting (g : Group) (pc : DWord) : (g.ready pc).waiting = .nothing ∨ (g.ready pc).waiting = g.waiting := by
  unfold Group.ready
  split
  · exact .inl rfl
  · exact .inr rfl

/-- A group that goes on as `ready` leaves it waits on no object it did not wait on. -/
theorem State.awaited_of_setG {s : State} {gid : Nat} {pc : DWord} {g x : Group} (hg : find s.groups gid = some g) (hx : x.waiting = (g.ready pc).waiting)
    {key : Nat} (h : (s.setG gid x).awaited key) : s.awaited key := by
  obtain ⟨e, he, k, hk⟩ := h
  rcases mem_upd he with he | ⟨y, -, rfl⟩
  · exact ⟨e, he, k, hk⟩
  · rcases g.ready_waiting pc with hw | hw
    · rw [hx, hw] at hk; cases hk
    · exact ⟨(gid, g), find_mem hg, k, by rw [← hk, hx, hw]⟩

/-- With nobody waiting on it an object is stored as its evaluation leaves it, and nothing else happens. -/
theorem State.evalObj_unawaited {s : State} {b : Block} {bid off : Nat} (h : ¬ s.awaited (objKey bid off)) (o : BarObj) :
    s.evalObj b bid off o = s.setObj b off o.eval.1 := by
  have hgroups : (s.setObj b off o.eval.1).groups = s.groups := by
    unfold State.setObj; split <;> rfl
  have hnone : ¬ (s.setObj b off o.eval.1).awaited (objKey bid off) := by
    rw [State.awaited, hgroups]; exact h
  simp only [State.evalObj, State.waitersOf_eq_nil hnone, List.foldl_nil]
  split <;> rfl

/-! ### The `barx` operations (R166) -/

/-- What a `barx` operation does once its group has met: the `go` of `barx`. -/
def barxAct (s : State) (areg : Nat) (val : Group → Nat) (range : Nat → Bool) (fresh rel orphan : Bool) (op : Nat → BarObj → BarObj)
    (it : Issue) (s2 : State) : State :=
  let a := it.g.sreg areg
  let v := val it.g
  if !range v then s.raise it.gid 0x02 it.I it.pc 0#64 0#64
  else
    match s2.objFault it.g a with
    | some (c, ad, d) => s.raise it.gid c it.I it.pc ad d
    | none =>
      match (s2.blockOf it.g).bind fun b => s2.objPlace b a with
      | none => s2
      | some (bid, m, off) =>
        if m.phase == .resident && s2.spPoison m off 16 then it.past it.I ((s2.countWord m.cluster 1).lateFault (s2.whoOf it.gid it.g) 0x40 it.I it.pc (a.setWidth 64) 0#64 true)
        else
          let o := s2.objAt m off
          if !fresh && !o.valid then s.raise it.gid 0x21 it.I it.pc (a.setWidth 64) 0#64
          else if !fresh && o.overrun then s.raise it.gid 0x20 it.I it.pc (a.setWidth 64) 0#64
          else
            match (if rel then s2.releaseBarrier it.gid it.g else (true, s2)) with
            | (false, s3) => s3.stall it.gid .sideLog
            | (true, s3) =>
              let key := objKey bid off
              let s3 := if rel then s3.oweAt key it.gid else s3
              let s4 := if orphan && o.valid then (s3.waitersOf key o.phase).foldl (fun s g => s.failWaiter 0x21 key g) s3 else s3
              let s5 := if fresh then s4.updB bid fun b => { b with objects := if b.objects.contains off then b.objects else off :: b.objects } else s4
              it.past it.I (s5.evalObj m bid off (op v o))

theorem barx_eq (i : Instr) (sw : Fin 2) (gd : Fin 8) (u : Uses) (areg : Nat) (val : Group → Nat) (range : Nat → Bool) (fresh rel orphan : Bool)
    (op : Nat → BarObj → BarObj) (s : State) : barx i sw gd u areg val range fresh rel orphan op s =
      uniGroupOnly s i sw gd 4 u true fun it0 s1 =>
        if rel then converge it0 s1 (barxAct s areg val range fresh rel orphan op) else barxAct s areg val range fresh rel orphan op it0 s1 := rfl

/-- An address that names an object of a resident block, unpoisoned, on which nobody waits. -/
structure NamesObject (s : State) (g : Group) (a : Word) (bid : Nat) (m : Block) (off : Nat) : Prop where
  fault : s.objFault g a = none
  clean : s.spPoison m off 16 = false
  place : ∃ b, s.blockOf g = some b ∧ s.objPlace b a = some (bid, m, off)
  resident : m.phase = .resident
  unawaited : ¬ s.awaited (objKey bid off)

theorem NamesObject.aligned {s : State} {g : Group} {a : Word} {bid : Nat} {m : Block} {off : Nat} (h : NamesObject s g a bid m off) : off % 16 = 0 := by
  obtain ⟨b, hb, hplace⟩ := h.place
  exact State.objPlace_aligned h.fault hb hplace

/-- The counters of an object as its bytes hold them. -/
theorem State.objAt_bound (s : State) (m : Block) (off : Nat) : (s.objAt m off).count < 65536 ∧ (s.objAt m off).phase < 2 ^ 32 := by
  unfold State.objAt
  split
  · exact ⟨by decide, by decide⟩
  · refine ⟨Nat.mod_lt _ (by decide), ?_⟩
    have hlt := ofBytes_lt (s.spRead m (off + 4 * 2) 4)
    rwa [State.spRead, List.length_map, List.length_range] at hlt

/-- The operation leaves an object's bytes in the state it acted on, which is `s1` but for barrier bookkeeping. -/
structure LeavesObject (s1 t : State) (m : Block) (off : Nat) (o : BarObj) : Prop where
  groups : t.groups = s1.groups
  mem : t.mem = s1.mem
  l2 : t.l2 = s1.l2
  object : t.objAt m off = o.eval.1.stored
  others : ∀ k, (k < m.spKey off ∨ m.spKey off + 16 ≤ k) → getD (t.cluster m.cluster).scratch k 0#8 = getD (s1.cluster m.cluster).scratch k 0#8

theorem BarObj.eval_bound {o : BarObj} (hcount : o.count < 65536) (hphase : o.phase < 2 ^ 32) : o.eval.1.count < 65536 ∧ o.eval.1.phase < 2 ^ 32 := by
  unfold BarObj.eval
  split
  · exact ⟨hcount, Nat.mod_lt _ (by decide)⟩
  · split <;> exact ⟨hcount, hphase⟩

theorem leavesObject_evalObj {s1 s3 : State} (hgroups : s3.groups = s1.groups) (hmem : s3.mem = s1.mem) (hl2 : s3.l2 = s1.l2)
    (hclusters : s3.clusters = s1.clusters) {bid off : Nat} {m : Block} (hm : m.phase = .resident) (hoff : off % 16 = 0)
    (hnone : ¬ s1.awaited (objKey bid off)) {o : BarObj} (hcount : o.count < 65536) (hphase : o.phase < 2 ^ 32) :
    LeavesObject s1 (s3.evalObj m bid off o) m off o := by
  have hnone3 : ¬ s3.awaited (objKey bid off) := by rw [State.awaited, hgroups]; exact hnone
  obtain ⟨hcount', hphase'⟩ := BarObj.eval_bound hcount hphase
  rw [State.evalObj_unawaited hnone3]
  refine ⟨?_, ?_, ?_, State.objAt_setObj hm hoff s3 _ hcount' hphase', fun k hk => ?_⟩
  · rw [State.setObj_resident s3 hm]; exact hgroups
  · rw [State.setObj_resident s3 hm]; exact hmem
  · rw [State.setObj_resident s3 hm]; exact hl2
  · rw [State.scratch_setObj_other hm hoff s3 _ hk, State.cluster, State.cluster, hclusters]

section
variable {s s2 : State} {areg : Nat} {val : Group → Nat} {range : Nat → Bool} {fresh rel orphan : Bool} {op : Nat → BarObj → BarObj} {it : Issue}
  {bid : Nat} {m : Block} {off : Nat}

theorem barxAct_out_of_range (h : range (val it.g) = false) : barxAct s areg val range fresh rel orphan op it s2 = s.raise it.gid 0x02 it.I it.pc 0#64 0#64 := by
  simp only [barxAct, h]; rfl

variable (h : NamesObject s2 it.g (it.g.sreg areg) bid m off) (hrange : range (val it.g) = true)
include h hrange

theorem barxAct_accepted : barxAct s areg val range fresh rel orphan op it s2 =
    if !fresh && !(s2.objAt m off).valid then s.raise it.gid 0x21 it.I it.pc ((it.g.sreg areg).setWidth 64) 0#64
    else if !fresh && (s2.objAt m off).overrun then s.raise it.gid 0x20 it.I it.pc ((it.g.sreg areg).setWidth 64) 0#64
    else
      match (if rel then s2.releaseBarrier it.gid it.g else (true, s2)) with
      | (false, s3) => s3.stall it.gid .sideLog
      | (true, s3) =>
        let key := objKey bid off
        let s3 := if rel then s3.oweAt key it.gid else s3
        let s4 := if orphan && (s2.objAt m off).valid then (s3.waitersOf key (s2.objAt m off).phase).foldl (fun s g => s.failWaiter 0x21 key g) s3 else s3
        let s5 := if fresh then s4.updB bid fun b => { b with objects := if b.objects.contains off then b.objects else off :: b.objects } else s4
        it.past it.I (s5.evalObj m bid off (op (val it.g) (s2.objAt m off))) := by
  obtain ⟨b, hb, hplace⟩ := h.place
  simp only [barxAct, hrange, h.fault, hb, Option.bind_some, hplace, h.clean, Bool.and_false, Bool.not_true, Bool.false_eq_true, if_false]

/-- An accepted operation leaves the object's new bytes; `s1` is the state that the release leaves, where there is one. -/
theorem barxAct_leaves {s1 : State} (hlive : fresh = true ∨ (s2.objAt m off).valid = true ∧ (s2.objAt m off).overrun = false)
    (hrel : (if rel then s2.releaseBarrier it.gid it.g else (true, s2)) = (true, s1)) (hnone : ¬ s1.awaited (objKey bid off))
    (hcount : (op (val it.g) (s2.objAt m off)).count < 65536) (hphase : (op (val it.g) (s2.objAt m off)).phase < 2 ^ 32) :
    ∃ t, barxAct s areg val range fresh rel orphan op it s2 = t.performed it.gid it.I it.nextPc [] ∧
      LeavesObject s1 t m off (op (val it.g) (s2.objAt m off)) := by
  have hdead : (!fresh && !(s2.objAt m off).valid) = false := by
    rcases hlive with h | ⟨h, -⟩ <;> simp [h]
  have hover : (!fresh && (s2.objAt m off).overrun) = false := by
    rcases hlive with h | ⟨-, h⟩ <;> simp [h]
  have howe : (if rel then s1.oweAt (objKey bid off) it.gid else s1).groups = s1.groups := by split <;> rfl
  have hnone' : ¬ (if rel then s1.oweAt (objKey bid off) it.gid else s1).awaited (objKey bid off) := by
    rw [State.awaited, howe]; exact hnone
  rw [barxAct_accepted h hrange, hdead, hover]
  simp only [hrel, State.waitersOf_eq_nil hnone', List.foldl_nil, ite_self, Bool.false_eq_true, if_false]
  refine ⟨_, Issue.past_eq_performed _ _ _, leavesObject_evalObj ?_ ?_ ?_ ?_ h.resident h.aligned hnone hcount hphase⟩
  all_goals cases rel <;> cases fresh <;> rfl

end

/-- The evaluation of R167, case by case. -/
theorem BarObj.eval_fst (o : BarObj) : o.eval.1 =
    if o.arr = o.count ∧ o.pend = 0 then { o with phase := (o.phase + 1) % 2 ^ 32, arr := 0 }
    else if o.count < o.arr ∨ (o.arr = o.count ∧ o.pend < 0) ∨ 2 ^ 31 ≤ o.pend ∨ o.pend < -(2 ^ 31) then { o with overrun := true }
    else o := by
  have htop : (2 ^ 31 - 1 < o.pend) ↔ 2 ^ 31 ≤ o.pend := by omega
  simp only [BarObj.eval, gt_iff_lt, htop]
  split
  · rfl
  · split <;> rfl

/-- A `barx` arrival's release leaves nothing of the group held, its loads and pipe accesses being performed. -/
theorem State.releaseBarrier_performed {s : State} {gid : Nat} {g : Group} (hpipe : g.pipeMem = false) (hreads : s.readsDone gid g = true)
    (hheld : (s.releaseParty g.cluster gid).holdsAny g.cluster gid = false) : s.releaseBarrier gid g = (true, s.releaseParty g.cluster gid) := by
  unfold State.releaseBarrier
  simp only [hpipe, hreads, hheld]
  rfl

section
variable {s : State} {gid : Nat} {pc : DWord} {g : Group} {i : Instr} {sw : Fin 2} {gd : Fin 8} {u : Uses} {areg : Nat} {val : Group → Nat}
  {range : Nat → Bool} {fresh rel orphan : Bool} {op : Nat → BarObj → BarObj} {bid : Nat} {m : Block} {off : Nat}

/-- A `barx` operation of a group that may issue it acts on what the group's issue leaves. -/
theorem exec_barx (h : ReadyUni s gid pc g i sw gd u) (hexec : exec i s = barx i sw gd u areg val range fresh rel orphan op s) : exec i s = .next
    (if rel then converge (g.uniAt gid pc 4) (s.setG gid (g.ready pc)) (barxAct s areg val range fresh rel orphan op)
      else barxAct s areg val range fresh rel orphan op (g.uniAt gid pc 4) (s.setG gid (g.ready pc))) := by
  rw [hexec, barx_eq]
  exact h.runs_groupOnly 4 _

/-- The same for an arrival for which the group has converged. -/
theorem exec_barx_met (h : ReadyUni s gid pc g i sw gd u) (hexec : exec i s = barx i sw gd u areg val range fresh true orphan op s)
    (hmet : ∀ l < 32, has (g.live &&& ~~~g.issued pc) l → g.pcOf l = pc ∧ g.holdOf l = .converge) : exec i s = .next
      (barxAct s areg val range fresh true orphan op (g.metAt gid pc 4) (s.setG gid ((g.ready pc).setHold (g.live &&& ~~~g.issued pc) .free))) := by
  rw [exec_barx h hexec, if_pos rfl, converge_gathered hmet, State.updG_setG _ _ _ _ g h.here]

theorem NamesObject.setG {x : Group} {a : Word} (hg : find s.groups gid = some g) (hx : x.waiting = (g.ready pc).waiting)
    (h : NamesObject s g a bid m off) : NamesObject (s.setG gid x) g a bid m off where
  fault := h.fault
  clean := h.clean
  place := h.place
  resident := h.resident
  unawaited hw := h.unawaited (State.awaited_of_setG hg hx hw)

end

section
variable {s : State} {gid : Nat} {pc : DWord} {g : Group} {i : Instr} {sw : Fin 2} {gd : Fin 8} {u : Uses} {areg : Nat} {val : Group → Nat}
  {range : Nat → Bool} {fresh orphan : Bool} {op : Nat → BarObj → BarObj} {bid : Nat} {m : Block} {off : Nat}

/-- An accepted operation of the issuing path leaves the object's new bytes. -/
theorem exec_barx_leaves (h : ReadyUni s gid pc g i sw gd u) (hexec : exec i s = barx i sw gd u areg val range fresh false orphan op s)
    (hobj : NamesObject s g (g.sreg areg) bid m off) (hrange : range (val g) = true)
    (hlive : fresh = true ∨ (s.objAt m off).valid = true ∧ (s.objAt m off).overrun = false)
    (hcount : (op (val g) (s.objAt m off)).count < 65536) (hphase : (op (val g) (s.objAt m off)).phase < 2 ^ 32) :
    ∃ t : State, exec i s = .next (t.performed gid (g.issued pc) (asPc (pc + 4#64)) []) ∧
      LeavesObject (s.setG gid (g.ready pc)) t m off (op (val g) (s.objAt m off)) := by
  have hset := hobj.setG (pc := pc) h.here (x := g.ready pc) rfl
  obtain ⟨t, ht, hleft⟩ := barxAct_leaves (s := s) (orphan := orphan) (it := g.uniAt gid pc 4) hset hrange hlive (rel := false) rfl hset.unawaited hcount hphase
  exact ⟨t, by rw [exec_barx h hexec, if_neg Bool.false_ne_true, ht]; rfl, hleft⟩

/-- An accepted arrival of the whole group releases first. -/
theorem exec_barx_arrival (h : ReadyUni s gid pc g i sw gd u) (hexec : exec i s = barx i sw gd u areg val range false true false op s)
    (hobj : NamesObject s g (g.sreg areg) bid m off) (hrange : range (val g) = true)
    (hlive : (s.objAt m off).valid = true ∧ (s.objAt m off).overrun = false)
    (hmet : ∀ l < 32, has (g.live &&& ~~~g.issued pc) l → g.pcOf l = pc ∧ g.holdOf l = .converge)
    (hpipe : g.pipeMem = false) (hreads : s.readsDone gid g = true)
    (hheld : ((s.setG gid ((g.ready pc).setHold (g.live &&& ~~~g.issued pc) .free)).releaseParty g.cluster gid).holdsAny g.cluster gid = false)
    (hcount : (op (val g) (s.objAt m off)).count < 65536) (hphase : (op (val g) (s.objAt m off)).phase < 2 ^ 32) :
    ∃ t : State, exec i s = .next (t.performed gid g.live (asPc (pc + 4#64)) []) ∧
      LeavesObject ((s.setG gid ((g.ready pc).setHold (g.live &&& ~~~g.issued pc) .free)).releaseParty g.cluster gid) t m off
        (op (val g) (s.objAt m off)) := by
  have hset := hobj.setG (pc := pc) h.here (Group.setHold_waiting (g := g.ready pc) (g.live &&& ~~~g.issued pc) .free)
  have hrel := State.releaseBarrier_performed (s := s.setG gid ((g.ready pc).setHold (g.live &&& ~~~g.issued pc) .free)) hpipe
    ((State.readsDone_setG ..).trans hreads) hheld
  obtain ⟨t, ht, hleft⟩ := barxAct_leaves (s := s) (orphan := false) (it := g.metAt gid pc 4) hset hrange (.inr hlive) (rel := true) hrel
    (fun hw => hset.unawaited (State.awaited_of_calm (State.calm_releaseParty _ _ _) hw)) hcount hphase
  exact ⟨t, by rw [exec_barx_met h hexec hmet, ht]; rfl, hleft⟩

end

/-! What each instruction's operation is (R166). -/

theorem exec_barxInit (f : BarxForm) (s : State) : exec (.barxInit f) s =
    barx (.barxInit f) f.sw f.g (barxUses f) f.a (barxVal f) (fun v => decide (1 ≤ v ∧ v ≤ 65535)) true false true
      (fun v _ => { pend := 0, arr := 0, count := v, phase := 0, valid := true, overrun := false }) s := rfl

theorem exec_barxExpect (f : BarxForm) (s : State) : exec (.barxExpect f) s =
    barx (.barxExpect f) f.sw f.g (barxUses f) f.a (barxVal f) (fun v => decide (v ≤ 0x7FFFFFFF)) false false false
      (fun v o => { o with pend := o.pend + v }) s := rfl

theorem exec_barxArrive (f : AForm) (s : State) : exec (.barxArrive f) s =
    barx (.barxArrive f) f.sw f.g { s := [f.a] } f.a (fun _ => 0) (fun _ => true) false true false (fun _ o => { o with arr := o.arr + 1 }) s := rfl

theorem exec_barxArrexp (f : BarxForm) (s : State) : exec (.barxArrexp f) s =
    barx (.barxArrexp f) f.sw f.g (barxUses f) f.a (barxVal f) (fun v => decide (v ≤ 0x7FFFFFFF)) false true false
      (fun v o => { o with pend := o.pend + v, arr := o.arr + 1 }) s := rfl

theorem exec_barxInval (f : AForm) (s : State) : exec (.barxInval f) s =
    barx (.barxInval f) f.sw f.g { s := [f.a] } f.a (fun _ => 0) (fun _ => true) false false true (fun _ o => { o with valid := false }) s := rfl

/-- Settles O34: nobody waits on the object, so the evaluation of R167 only stores it. -/
theorem barrierObjectOperations : Obligations.BarrierObjectOperations := by
  unfold Obligations.BarrierObjectOperations
  intro evaluated stored value others frame object live leaves
  have hvalue (f : BarxForm) (g : Group) : barxVal f g = value f g := by
    simp only [barxVal, value, Fin.ext_iff]; rfl
  have hevaluated (o : BarObj) : evaluated o = o.eval.1 := (BarObj.eval_fst o).symm
  have hnames {s : State} {g : Group} {a : Word} {bid : Nat} {m : Block} {off : Nat} (h : object s g a bid m off) : NamesObject s g a bid m off := by
    obtain ⟨hfault, hclean, hplace, hres, hnone⟩ := h
    exact ⟨hfault, hclean, hplace, hres, fun ⟨e, he, k, hk⟩ => hnone e he k hk⟩
  have hleaves {i : Instr} {s s1 : State} {gid : Nat} {lanes : Word} {pc : DWord} {m : Block} {off : Nat} {o : BarObj}
      (h : ∃ t : State, exec i s = .next (t.performed gid lanes (asPc (pc + 4#64)) []) ∧ LeavesObject s1 t m off o) :
      leaves i s s1 gid lanes pc m off o := by
    obtain ⟨t, hexec, hleft⟩ := h
    exact ⟨t, hexec, hleft.groups, hleft.mem, hleft.l2, by rw [hevaluated]; exact hleft.object, hleft.others⟩
  clear_value evaluated
  refine ⟨fun f s gid pc g bid m off => ?_, fun f s gid pc g bid m off => ?_⟩
  · intro s1 o a
    obtain ⟨hcount, hphase⟩ := s.objAt_bound m off
    have hrange (h : value f g < 2 ^ 31) : decide (barxVal f g ≤ 0x7FFFFFFF) = true := decide_eq_true (by rw [hvalue]; exact Nat.le_of_lt_succ h)
    have hset (h : ReadyUni s gid pc g (.barxExpect f) f.sw f.g (barxUses f)) (hobj : object s g a bid m off) :
        NamesObject (s.setG gid (g.ready pc)) (g.uniAt gid pc 4).g ((g.uniAt gid pc 4).g.sreg f.a) bid m off := (hnames hobj).setG (pc := pc) h.here rfl
    refine ⟨fun h hobj => ⟨fun hlo hhi => ?_, fun hout => ?_⟩, fun h hobj => ⟨fun hin hlive => ?_, fun hout => ?_, fun hin hdead => ?_, fun hin hval hover => ?_⟩,
      fun h hobj hin hlive hmet => ?_⟩
    · rw [← hvalue] at hlo hhi ⊢
      exact hleaves (exec_barx_leaves h (exec_barxInit f s) (hnames hobj) (decide_eq_true ⟨hlo, hhi⟩) (.inl rfl) (Nat.lt_succ_of_le hhi) (Nat.two_pow_pos 32))
    · rw [← hvalue] at hout
      have hrefused : decide (1 ≤ barxVal f g ∧ barxVal f g ≤ 65535) = false := decide_eq_false (by omega)
      rw [exec_barx h (exec_barxInit f s), if_neg Bool.false_ne_true, barxAct_out_of_range hrefused]
      rfl
    · have hall := exec_barx_leaves h (exec_barxExpect f s) (hnames hobj) (hrange hin) (.inr hlive) hcount hphase
      rw [← hvalue]
      exact hleaves hall
    · rw [← hvalue] at hout
      have hrefused : decide (barxVal f g ≤ 0x7FFFFFFF) = false := decide_eq_false (by omega)
      rw [exec_barx h (exec_barxExpect f s), if_neg Bool.false_ne_true, barxAct_out_of_range hrefused]
      rfl
    · rw [exec_barx h (exec_barxExpect f s), if_neg Bool.false_ne_true, barxAct_accepted (hset h hobj) (hrange hin)]
      exact congrArg Host.Outcome.next (if_pos (by simp [show ((s.setG gid (g.ready pc)).objAt m off).valid = false from hdead]))
    · rw [exec_barx h (exec_barxExpect f s), if_neg Bool.false_ne_true, barxAct_accepted (hset h hobj) (hrange hin)]
      exact congrArg Host.Outcome.next ((if_neg (by simp [show ((s.setG gid (g.ready pc)).objAt m off).valid = true from hval])).trans
        (if_pos (by simp [show ((s.setG gid (g.ready pc)).objAt m off).overrun = true from hover])))
    · intro s2 hpipe hreads hheld
      have hall := exec_barx_arrival h (exec_barxArrexp f s) (hnames hobj) (hrange hin) hlive hmet hpipe hreads hheld hcount hphase
      rw [← hvalue]
      exact hleaves hall
  · intro s1 o a
    obtain ⟨hcount, hphase⟩ := s.objAt_bound m off
    refine ⟨fun h hobj hlive => ⟨fun hmet => ?_, fun hapart => ?_⟩, fun h hobj hlive => ?_⟩
    · intro s2 hpipe hreads hheld
      exact hleaves (exec_barx_arrival h (exec_barxArrive f s) (hnames hobj) rfl hlive hmet hpipe hreads hheld hcount hphase)
    · have hnot : ¬ ∀ l < 32, has (g.live &&& ~~~g.issued pc) l → g.pcOf l = pc ∧ g.holdOf l = .converge := by
        obtain ⟨l, hl, hlane, hor⟩ := hapart
        intro hall
        obtain ⟨hpc, hhold⟩ := hall l hl hlane
        exact hor.elim (· hpc) (· hhold)
      rw [exec_barx h (exec_barxArrive f s), if_pos rfl, converge_waits hnot, State.updG_setG _ _ _ _ g h.here]
    · exact hleaves (exec_barx_leaves h (exec_barxInval f s) (hnames hobj) rfl (.inr hlive) hcount hphase)

end Sys2Proof.Machine
end

section
/-!
SUPPORT. Per-lane accesses that all perform: what their run leaves, and the end of an instruction none of whose lanes waits or fails
(R54, R98, R142, R159).
-/
namespace Sys2Proof.Machine
open Sys2Proof

/-! ### Accesses in turn -/

/-- An attempt with no earlier lane waiting is the access in its turn. -/
theorem Ran.attempt_eq_inTurn {r : Ran} (hw : r.waiting = []) (w : Who) (y : AccOp) (f : State → Acc × State) :
    r.attempt w y f = inTurn w r.before y f r.s := by
  simp only [inTurn, Ran.attempt, hw]

/-- Where nothing of the group waits and its page holds no side-log entry, the access is performed at once. -/
theorem inTurn_of_quiet {w : Who} {before : Nat} {y : AccOp} {s : State} (hwait : s.waitingOf w.gid before = [])
    (hlog : s.pageLogged w before y = false) (f : State → Acc × State) : inTurn w before y f s = f s := by
  have hfollow : s.mustFollow w.gid before y = false := by rw [State.mustFollow, hwait]; rfl
  simp only [inTurn, Ran.attempt, List.any_nil, hfollow, hlog, Bool.or_self, Bool.false_eq_true, if_false]

/-- No side-log entry of a page holds back an access of a bank. -/
theorem State.pageLogged_bank (s : State) (w : Who) (before : Nat) {y : AccOp} (hy : y.space ≠ 0) : s.pageLogged w before y = false := by
  simp [State.pageLogged, hy]

/-! ### Runs of lanes that all perform -/

section
variable {w : Who} {before : Nat} {y : Nat → AccOp} {f : Nat → State → Acc × State} {v : Nat → List Byte} {t : State}

/-- A run of loads that all perform collects their results, and leaves the state after the last one. -/
theorem Ran.foldl_load_performs (ws : Nat → List Byte → List (Dest × Word)) {ls : List Nat} {r : Ran} (hw : r.waiting = []) (hb : r.before = before)
    (h : Performs (fun s l => inTurn w before (y l) (f l) s) r.s ls v t) :
    ls.foldl (fun r l => r.load w l (y l) (ws l) (f l)) r = { r with s := t, writes := r.writes ++ ls.flatMap fun l => ws l (v l) } := by
  induction ls generalizing r with
  | nil =>
    obtain rfl : t = r.s := h
    simp
  | cons l ls ih =>
    obtain ⟨s1, hl, hrest⟩ := h
    replace hl : inTurn w before (y l) (f l) r.s = (.ok (v l), s1) := hl
    have hload : r.load w l (y l) (ws l) (f l) = { r with s := s1, writes := r.writes ++ ws l (v l) } := by
      rw [Ran.load, Ran.attempt_eq_inTurn hw, hb, hl]
    rw [List.foldl_cons, hload, ih (by exact hw) (by exact hb) hrest, List.flatMap_cons, List.append_assoc]

/-- A run of stores that all perform leaves the state after the last one. -/
theorem Ran.foldl_store_performs (op : Nat → SideOp) {ls : List Nat} {r : Ran} (hw : r.waiting = []) (hb : r.before = before)
    (h : Performs (fun s l => inTurn w before (y l) (f l) s) r.s ls v t) :
    ls.foldl (fun r l => r.store w l (y l) (op l) (f l)) r = { r with s := t } := by
  induction ls generalizing r with
  | nil =>
    obtain rfl : t = r.s := h
    rfl
  | cons l ls ih =>
    obtain ⟨s1, hl, hrest⟩ := h
    replace hl : inTurn w before (y l) (f l) r.s = (.ok (v l), s1) := hl
    have hstore : r.store w l (y l) (op l) (f l) = { r with s := s1 } := by
      rw [Ran.store, Ran.attempt_eq_inTurn hw, hb, hl]
    rw [List.foldl_cons, hstore, ih (by exact hw) (by exact hb) hrest]

theorem runLanes_loads_perform {s : State} {it : Issue} {m : Word} (ws : Nat → List Byte → List (Dest × Word))
    (h : Performs (fun s' l => inTurn w s.order (y l) (f l) s') s (lanesOf m) v t) :
    runLanes s it m (fun r l => r.load w l (y l) (ws l) (f l)) =
      { s := t, before := s.order, silent := it.g.helper, writes := (lanesOf m).flatMap fun l => ws l (v l) } :=
  Ran.foldl_load_performs ws rfl rfl h

theorem runLanes_stores_perform {s : State} {it : Issue} {m : Word} (op : Nat → SideOp)
    (h : Performs (fun s' l => inTurn w s.order (y l) (f l) s') s (lanesOf m) v t) :
    runLanes s it m (fun r l => r.store w l (y l) (op l) (f l)) = { s := t, before := s.order, silent := it.g.helper } :=
  Ran.foldl_store_performs op rfl rfl h

end

/-- An instruction none of whose accesses waits or fails binds its results and goes on, its side log being within its capacity (R98). -/
theorem Ran.finish_performed {r : Ran} {s0 : State} {it : Issue} {w : Who} (hroom : (s0.sideLog w.c w.sp).length ≤ 64) (hparked : r.parked = [])
    (hlog : r.log = []) (hfailed : r.failed = none) (hlanes : r.failLanes = 0#32) (i : Instr) (one row : Bool) :
    r.finish s0 it w i one row = r.s.performed it.gid it.I it.nextPc r.writes := by
  have hes (whole : Word) : s0.sideEntries w it.pc r.log s0.order i whole = [] := by rw [hlog]; rfl
  have hfit : ¬ (64 < (s0.sideLog w.c w.sp).length + ([] : List SideLog).length ∨ (!([] : List SideLog).isEmpty && s0.logRefused w.c) = true) := by
    simp; omega
  simp only [Ran.finish, hes, hparked, hfailed, hlanes, List.isEmpty_nil, Bool.not_true, Bool.false_and, Bool.false_eq_true, if_false, if_true,
    Bool.and_self, gt_iff_lt] at hfit ⊢
  rw [if_neg hfit]
  rfl

end Sys2Proof.Machine
end

section
/-!
SUPPORT. Accesses of scratchpad banks: which bytes they change, and that they perform at once where nothing of the group waits
(R150, R151, R153, R248).
-/
namespace Sys2Proof.Machine
open Sys2Proof

/-! ### What waits, and what keeps it so -/

/-- The accesses of a group in a cluster's side logs and pieces that wait before a place in its order. -/
def Cluster.waitingOf (k : Cluster) (gid before : Nat) : List AccOp :=
  (k.sideLogs.flatMap fun (l : Nat × List SideLog) => (l.2.filter fun x => x.gid = gid && decide (x.seq < before)).flatMap SideLog.accs)
    ++ (k.pieces.filter fun p => p.gid = gid && p.data.isNone && decide (p.seq < before)).map Piece.acc

/-- Nothing of a group waits: neither a parked load of it nor an access in a cluster. -/
theorem State.waitingOf_eq_nil_iff (s : State) (gid before : Nat) : s.waitingOf gid before = [] ↔
    (∀ g, find s.groups gid = some g → (g.replay.filter fun p => decide (p.seq < before)).flatMap Parked.accs = []) ∧
      ∀ e ∈ s.clusters, e.2.waitingOf gid before = [] := by
  rw [State.waitingOf, List.append_eq_nil_iff, List.flatMap_eq_nil_iff]
  refine and_congr ?_ Iff.rfl
  cases find s.groups gid <;> simp

/-- An entry of a store is one that was there, or the one written. -/
theorem mem_setD {α : Type} [DecidableEq α] {m : SMap α} {k : Nat} {x d : α} {e : Nat × α} (h : e ∈ setD m k x d) : e ∈ m ∨ e = (k, x) := by
  have hput : ∀ m : SMap α, e ∈ put m k x → e ∈ m ∨ e = (k, x) := by
    intro m
    induction m with
    | nil => intro h; exact .inr (List.mem_singleton.1 h)
    | cons f m ih =>
      obtain ⟨j, y⟩ := f
      rw [put]
      intro h
      split at h
      · exact (List.mem_cons.1 h).symm
      · split at h
        · exact (List.mem_cons.1 h).symm.imp (List.mem_cons_of_mem _) id
        · rcases List.mem_cons.1 h with rfl | h
          · exact .inl List.mem_cons_self
          · exact (ih h).imp (List.mem_cons_of_mem _) id
  have hdel : ∀ m : SMap α, e ∈ del m k → e ∈ m := by
    intro m
    induction m with
    | nil => exact id
    | cons f m ih =>
      obtain ⟨j, y⟩ := f
      rw [del]
      intro h
      split at h
      · exact List.mem_cons_of_mem _ (ih h)
      · rcases List.mem_cons.1 h with rfl | h
        · exact List.mem_cons_self
        · exact List.mem_cons_of_mem _ (ih h)
  rw [setD] at h
  split at h
  · exact .inl (hdel m h)
  · exact hput m h

theorem State.waitingOf_cluster {s : State} {gid before : Nat} (h : s.waitingOf gid before = []) (c : Nat) : (s.cluster c).waitingOf gid before = [] := by
  rw [State.cluster, getD_eq_find]
  cases hc : find s.clusters c with
  | none => rfl
  | some k => exact ((s.waitingOf_eq_nil_iff gid before).1 h).2 (c, k) (find_mem hc)

/-- A change of a cluster that touches neither its side logs nor its pieces lets nothing wait that did not. -/
theorem State.waitingOf_updC {s : State} {gid before : Nat} (h : s.waitingOf gid before = []) {c : Nat} {f : Cluster → Cluster}
    (hf : ∀ k, (f k).sideLogs = k.sideLogs ∧ (f k).pieces = k.pieces) : (s.updC c f).waitingOf gid before = [] := by
  rw [State.waitingOf_eq_nil_iff]
  refine ⟨((s.waitingOf_eq_nil_iff gid before).1 h).1, fun e he => ?_⟩
  rcases mem_setD he with he | rfl
  · exact ((s.waitingOf_eq_nil_iff gid before).1 h).2 e he
  · obtain ⟨hlogs, hpieces⟩ := hf (s.cluster c)
    rw [Cluster.waitingOf, hlogs, hpieces]
    exact State.waitingOf_cluster h c

/-- A change of a group that keeps its replay entries does so too. -/
theorem State.waitingOf_updG {s : State} {gid before : Nat} (h : s.waitingOf gid before = []) {j : Nat} {f : Group → Group}
    (hf : ∀ g, find s.groups j = some g → (f g).replay = g.replay) : (s.updG j f).waitingOf gid before = [] := by
  rw [State.waitingOf_eq_nil_iff]
  obtain ⟨hgroups, hclusters⟩ := (s.waitingOf_eq_nil_iff gid before).1 h
  refine ⟨fun g hg => ?_, hclusters⟩
  rw [State.find_updG] at hg
  split at hg
  · next hj =>
    subst hj
    obtain ⟨x, hx, rfl⟩ := Option.map_eq_some_iff.1 hg
    rw [hf x hx]
    exact hgroups x hx
  · exact hgroups g hg

/-- It depends on the groups and the clusters alone. -/
theorem State.waitingOf_congr {s t : State} (hg : t.groups = s.groups) (hc : t.clusters = s.clusters) (gid before : Nat) :
    t.waitingOf gid before = s.waitingOf gid before := by
  unfold State.waitingOf
  rw [hg, hc]

/-! ### Work of the banks -/

/-- State t is s but for work of the banks, in which only bytes of `W` (cluster and key) changed and no granule was poisoned. -/
structure BankWork (W : Nat → Nat → Prop) (gid before : Nat) (s t : State) : Prop where
  blocks : t.blocks = s.blocks
  launches : t.launches = s.launches
  mem : t.mem = s.mem
  l2 : t.l2 = s.l2
  l1held : ∀ c, (t.cluster c).l1held = (s.cluster c).l1held
  l1 : ∀ c, (t.cluster c).l1 = (s.cluster c).l1
  poison : ∀ c k, getD (s.cluster c).poison k false = false → getD (t.cluster c).poison k false = false
  scratch : ∀ c k, ¬ W c k → getD (t.cluster c).scratch k 0#8 = getD (s.cluster c).scratch k 0#8
  waiting : s.waitingOf gid before = [] → t.waitingOf gid before = []

section
variable {W : Nat → Nat → Prop} {gid before : Nat}

theorem BankWork.refl (s : State) : BankWork W gid before s s :=
  ⟨rfl, rfl, rfl, rfl, fun _ => rfl, fun _ => rfl, fun _ _ h => h, fun _ _ _ => rfl, id⟩

theorem BankWork.mono {W' : Nat → Nat → Prop} {s t : State} (hW : ∀ c k, W c k → W' c k) (h : BankWork W gid before s t) : BankWork W' gid before s t :=
  { h with scratch := fun c k hk => h.scratch c k fun hw => hk (hW c k hw) }

theorem BankWork.trans {r s t : State} (h : BankWork W gid before r s) (h' : BankWork W gid before s t) : BankWork W gid before r t where
  blocks := h'.blocks.trans h.blocks
  launches := h'.launches.trans h.launches
  mem := h'.mem.trans h.mem
  l2 := h'.l2.trans h.l2
  l1held c := (h'.l1held c).trans (h.l1held c)
  l1 c := (h'.l1 c).trans (h.l1 c)
  poison c k hk := h'.poison c k (h.poison c k hk)
  scratch c k hk := (h'.scratch c k hk).trans (h.scratch c k hk)
  waiting hw := h'.waiting (h.waiting hw)

/-- A change of a group that keeps its replay entries is no work of a bank. -/
theorem BankWork.updG (s : State) {j : Nat} {f : Group → Group} (hf : ∀ g, find s.groups j = some g → (f g).replay = g.replay) :
    BankWork W gid before s (s.updG j f) :=
  ⟨rfl, rfl, rfl, rfl, fun _ => rfl, fun _ => rfl, fun _ _ h => h, fun _ _ _ => rfl, fun h => State.waitingOf_updG h hf⟩

/-- A change of one cluster's scratchpad, poison marks and timestamp. -/
theorem BankWork.updC (s : State) {c : Nat} {f : Cluster → Cluster}
    (hf : ∀ k, (f k).sideLogs = k.sideLogs ∧ (f k).pieces = k.pieces ∧ (f k).l1held = k.l1held ∧ (f k).l1 = k.l1)
    (hpoison : ∀ k, getD (s.cluster c).poison k false = false → getD (f (s.cluster c)).poison k false = false)
    (hscratch : ∀ k, ¬ W c k → getD (f (s.cluster c)).scratch k 0#8 = getD (s.cluster c).scratch k 0#8) :
    BankWork W gid before s (s.updC c f) where
  blocks := rfl
  launches := rfl
  mem := rfl
  l2 := rfl
  l1held j := by
    rw [State.cluster_updC]
    split
    · next h => subst h; exact (hf _).2.2.1
    · rfl
  l1 j := by
    rw [State.cluster_updC]
    split
    · next h => subst h; exact (hf _).2.2.2
    · rfl
  poison j k hk := by
    rw [State.cluster_updC]
    split
    · next h => subst h; exact hpoison k hk
    · exact hk
  scratch j k hk := by
    rw [State.cluster_updC]
    split
    · next h => subst h; exact hscratch k hk
    · rfl
  waiting h := State.waitingOf_updC h fun k => ⟨(hf k).1, (hf k).2.1⟩

theorem getD_delIf {α : Type} (m : SMap α) (p : Nat → Bool) (k : Nat) (d : α) : getD (delIf m p) k d = if p k then d else getD m k d := by
  induction m with
  | nil => simp [delIf, getD]
  | cons e m ih =>
    obtain ⟨j, x⟩ := e
    rw [delIf, List.filter_cons]
    by_cases hj : j = k
    · subst hj
      by_cases hp : p j
      · simpa [hp, delIf] using ih
      · simp [hp, getD]
    · by_cases hp : p j
      · simpa [hp, getD, hj, delIf] using ih
      · simpa [hp, getD, hj, delIf] using ih

/-- The timestamp that a bank's access takes. -/
theorem BankWork.spStamp (s : State) (j c : Nat) (store : Bool) : BankWork W gid before s (s.spStamp j c store) := by
  unfold State.spStamp
  split
  · exact BankWork.refl s
  · next g hg =>
    have hts : BankWork W gid before s (s.updC c fun k => { k with spTs := max g.ts ((s.cluster c).spTs + if store then 1 else 0) }) :=
      BankWork.updC s (fun k => ⟨rfl, rfl, rfl, rfl⟩) (fun _ h => h) fun _ _ => rfl
    refine (hts.trans (BankWork.updG _ (j := j) (f := fun g' => { g' with ts := max g.ts ((s.cluster c).spTs + if store then 1 else 0) }) fun _ _ => rfl)).trans ?_
    exact ⟨rfl, rfl, rfl, rfl, fun _ => rfl, fun _ => rfl, fun _ _ h => h, fun _ _ _ => rfl, id⟩

/-- Bytes stored in a block's scratchpad. -/
theorem BankWork.spWrite (s : State) {b : Block} {a : Nat} {bs : List Byte} (hW : ∀ i < bs.length, W b.cluster (b.spKey (a + i))) :
    BankWork W gid before s (s.spWrite b a bs) := by
  refine BankWork.updC s (fun k => ⟨rfl, rfl, rfl, rfl⟩) (fun k hk => ?_) fun k hk => ?_
  · dsimp only
    rw [getD_delIf, hk, ite_self]
  · refine foldl_keeps (fun m => getD m k 0#8) _ _ (fun m i hi => ?_) (s.cluster b.cluster).scratch
    change getD (setD m _ _ _) k _ = _
    rw [getD_setD, if_neg]
    rintro rfl
    exact hk (hW i (List.mem_range.1 hi))

end

/-! ### Accesses of the banks (R150, R153) -/

/-- Where an address of a block lies depends on the blocks and the launches alone. -/
theorem State.spPlace_congr {s t : State} (hb : t.blocks = s.blocks) (hl : t.launches = s.launches) (b : Block) (window : Bool) (a : Word) (n : Nat) :
    t.spPlace b window a n = s.spPlace b window a n := by
  have hgang : t.gangOf b = s.gangOf b := by simp only [State.gangOf, State.launchOf, hl]
  have hsize : t.gangSize b = s.gangSize b := by simp only [State.gangSize, hgang]
  have hmember (rank : Nat) : t.member b rank = s.member b rank := by simp only [State.member, hgang, hb]
  have hscratch (m : Block) : t.scratchOf m = s.scratchOf m := by simp only [State.scratchOf, State.launchOf, hl]
  simp only [State.spPlace, hsize, hmember, hscratch]

theorem State.blockOf_congr {s t : State} (hb : t.blocks = s.blocks) (g : Group) : t.blockOf g = s.blockOf g := by
  simp only [State.blockOf, hb]

/-- The access of n bytes at an address of a group lies in the scratchpad of block m from offset `off` on. -/
def State.bankPlace (s : State) (g : Group) (window : Bool) (a : Word) (n : Nat) (m : Block) (off : Nat) : Prop :=
  ∃ b, s.blockOf g = some b ∧ s.spPlace b window a n = .ok (m, off)

theorem State.exists_bankPlace {s : State} {g : Group} {window : Bool} {a : Word} {n : Nat} (h : s.spFault g window a n = none) :
    ∃ m off, s.bankPlace g window a n m off := by
  unfold State.spFault at h
  split at h
  · cases h
  · next b hb =>
    split at h
    · cases h
    · split at h
      · cases h
      · next p hp => exact ⟨p.1, p.2, b, hb, hp⟩

theorem State.bankPlace_unique {s : State} {g : Group} {window : Bool} {a : Word} {n : Nat} {m m' : Block} {off off' : Nat}
    (h : s.bankPlace g window a n m off) (h' : s.bankPlace g window a n m' off') : m' = m ∧ off' = off := by
  obtain ⟨b, hb, hp⟩ := h
  obtain ⟨b', hb', hp'⟩ := h'
  obtain rfl : b = b' := Option.some.inj (hb.symm.trans hb')
  have heq := Except.ok.inj (hp'.symm.trans hp)
  exact ⟨congrArg Prod.fst heq, congrArg Prod.snd heq⟩

theorem State.bankPlace_congr {s t : State} (hb : t.blocks = s.blocks) (hl : t.launches = s.launches) {g : Group} {window : Bool} {a : Word} {n : Nat}
    {m : Block} {off : Nat} : t.bankPlace g window a n m off ↔ s.bankPlace g window a n m off := by
  simp only [State.bankPlace, State.blockOf_congr hb, State.spPlace_congr hb hl]

section
variable {s : State} {j : Nat} {g : Group} {window : Bool} {a : Word} {m : Block} {off : Nat}

theorem State.spLoad_eq {n : Nat} (h : s.bankPlace g window a n m off) : s.spLoad j g window a n =
    if m.phase = .gone then (.ok (s.freeBytes n).1, (s.freeBytes n).2)
    else if s.spPoison m off n then (.fail 0x40 0, s.countWord m.cluster 1)
    else (.ok (s.spRead m off n), s.spStamp j m.cluster false) := by
  obtain ⟨b, hb, hp⟩ := h
  simp only [State.spLoad, hb, hp]

theorem State.spStore_eq {bs : List Byte} (h : s.bankPlace g window a bs.length m off) : s.spStore j g window a bs =
    if m.phase = .gone then (.ok [], s) else (.ok [], (s.spWrite m off bs).spStamp j m.cluster true) := by
  obtain ⟨b, hb, hp⟩ := h
  simp only [State.spStore, hb, hp]

variable {W : Nat → Nat → Prop} {gid before : Nat}

theorem BankWork.spLoad {n : Nat} (h : s.bankPlace g window a n m off) {bs : List Byte} {t : State} (ht : s.spLoad j g window a n = (.ok bs, t)) :
    BankWork W gid before s t := by
  rw [State.spLoad_eq h] at ht
  split at ht
  · cases ht
    exact ⟨rfl, rfl, rfl, rfl, fun _ => rfl, fun _ => rfl, fun _ _ h => h, fun _ _ _ => rfl, id⟩
  · split at ht
    · cases ht
    · cases ht
      exact BankWork.spStamp s _ _ _

theorem BankWork.spStore {bs : List Byte} (h : s.bankPlace g window a bs.length m off) (hW : ∀ i < bs.length, W m.cluster (m.spKey (off + i))) :
    BankWork W gid before s (s.spStore j g window a bs).2 := by
  rw [State.spStore_eq h]
  split
  · exact BankWork.refl s
  · exact (BankWork.spWrite s hW).trans (BankWork.spStamp _ _ _ _)

theorem State.spStore_ok {bs : List Byte} (h : s.bankPlace g window a bs.length m off) : ∃ t, s.spStore j g window a bs = (.ok [], t) := by
  rw [State.spStore_eq h]
  split <;> exact ⟨_, rfl⟩

/-- A load of unpoisoned granules performs; from a block that is there it answers what stands there. -/
theorem State.spLoad_ok {n : Nat} (h : s.bankPlace g window a n m off) (hclean : s.spPoison m off n = false) :
    ∃ bs t, s.spLoad j g window a n = (.ok bs, t) ∧ (m.phase ≠ .gone → bs = s.spRead m off n) := by
  rw [State.spLoad_eq h, hclean]
  split
  · next hgone => exact ⟨_, _, rfl, fun hne => absurd hgone hne⟩
  · exact ⟨_, _, rfl, fun _ => rfl⟩

variable {size op y y2 : Nat} (hlen : ∀ old, (atomBytes size op old y y2).length = nbytes size)
include hlen

/-- An atomic whose load performs stores the new bytes and answers the old. -/
theorem State.spAtomic_of_load (h : s.bankPlace g window a (nbytes size) m off) {bs : List Byte} {s1 : State}
    (hload : s.spLoad j g window a (nbytes size) = (.ok bs, s1)) :
    s.spAtomic j g window a size op y y2 = (.ok bs, (s1.spStore j g window a (atomBytes size op bs y y2)).2) := by
  have hwork : BankWork (fun _ _ => True) 0 0 s s1 := BankWork.spLoad h hload
  have hplace : s1.bankPlace g window a (atomBytes size op bs y y2).length m off := by
    rw [hlen, State.bankPlace_congr hwork.blocks hwork.launches]; exact h
  obtain ⟨t, ht⟩ := State.spStore_ok (j := j) hplace
  simp only [State.spAtomic, hload, ht]

theorem BankWork.spAtomic (h : s.bankPlace g window a (nbytes size) m off) (hW : ∀ i < nbytes size, W m.cluster (m.spKey (off + i)))
    {bs : List Byte} {t : State} (ht : s.spAtomic j g window a size op y y2 = (.ok bs, t)) : BankWork W gid before s t := by
  cases hload : s.spLoad j g window a (nbytes size) with
  | mk r s1 =>
    cases r with
    | ok old =>
      have hwork : BankWork W gid before s s1 := BankWork.spLoad h hload
      have hplace : s1.bankPlace g window a (atomBytes size op old y y2).length m off := by
        rw [hlen, State.bankPlace_congr hwork.blocks hwork.launches]; exact h
      rw [State.spAtomic_of_load hlen h hload] at ht
      cases ht
      exact hwork.trans (BankWork.spStore hplace (by rw [hlen]; exact hW))
    | wait => simp only [State.spAtomic, hload] at ht; cases ht
    | fail c d => simp only [State.spAtomic, hload] at ht; cases ht

theorem State.spAtomic_ok (h : s.bankPlace g window a (nbytes size) m off) (hclean : s.spPoison m off (nbytes size) = false) :
    ∃ bs t, s.spAtomic j g window a size op y y2 = (.ok bs, t) := by
  obtain ⟨bs, s1, hload, -⟩ := State.spLoad_ok (j := j) h hclean
  exact ⟨bs, _, State.spAtomic_of_load hlen h hload⟩

end

/-! ### Lanes that perform -/

section
variable {op : State → Nat → Acc × State} {Inv : State → Prop}

/-- What every access that performs keeps holds after the last one. -/
theorem Performs.keeps {ls : List Nat} {v : Nat → List Byte} {s t : State} (h : Performs op s ls v t)
    (hstep : ∀ l ∈ ls, ∀ s bs s', Inv s → op s l = (.ok bs, s') → Inv s') (hs : Inv s) : Inv t := by
  induction ls generalizing s with
  | nil => obtain rfl : t = s := h; exact hs
  | cons l ls ih =>
    obtain ⟨s1, hl, hrest⟩ := h
    exact ih hrest (fun k hk => hstep k (List.mem_cons_of_mem _ hk)) (hstep l List.mem_cons_self s _ s1 hs hl)

theorem Performs.congr_values {ls : List Nat} {v v' : Nat → List Byte} {s t : State} (h : Performs op s ls v t) (hv : ∀ l ∈ ls, v l = v' l) :
    Performs op s ls v' t := by
  induction ls generalizing s with
  | nil => exact h
  | cons l ls ih =>
    obtain ⟨s1, hl, hrest⟩ := h
    exact ⟨s1, by rw [← hv l List.mem_cons_self]; exact hl, ih hrest fun k hk => hv k (List.mem_cons_of_mem _ hk)⟩

/-- Where each access performs and keeps what the next one needs, all perform. -/
theorem exists_performs {Q : Nat → List Byte → Prop} {ls : List Nat} (hnodup : ls.Nodup) {s : State} (hs : Inv s)
    (hstep : ∀ l ∈ ls, ∀ s, Inv s → ∃ bs s', op s l = (.ok bs, s') ∧ Inv s' ∧ Q l bs) : ∃ v t, Performs op s ls v t ∧ ∀ l ∈ ls, Q l (v l) := by
  induction ls generalizing s with
  | nil => exact ⟨fun _ => [], s, rfl, fun l hl => absurd hl List.not_mem_nil⟩
  | cons l ls ih =>
    obtain ⟨hnew, hnodup⟩ := List.nodup_cons.1 hnodup
    obtain ⟨bs, s1, hop, hs1, hQ⟩ := hstep l List.mem_cons_self s hs
    obtain ⟨v, t, hrest, hv⟩ := ih hnodup hs1 fun k hk => hstep k (List.mem_cons_of_mem _ hk)
    have hne : ∀ k ∈ ls, v k = Function.update v l bs k := fun k hk => by
      have hkl : k ≠ l := fun h => hnew (h ▸ hk)
      rw [Function.update_of_ne hkl]
    refine ⟨Function.update v l bs, t, ⟨s1, by rw [Function.update_self]; exact hop, hrest.congr_values hne⟩, fun k hk => ?_⟩
    rcases List.mem_cons.1 hk with rfl | hk
    · rw [Function.update_self]; exact hQ
    · rw [← hne k hk]; exact hv k hk

end

/-! ### The instructions (R150, R151) -/

theorem length_flatMap_toBytes (n : Nat) (ws : List Word) : (ws.flatMap fun w => toBytes n w.toNat).length = n * ws.length := by
  induction ws with
  | nil => rfl
  | cons w ws ih => rw [List.flatMap_cons, List.length_append, length_toBytes, ih, List.length_cons]; ring

/-- The bytes that a lane stores are as many as its access has. -/
theorem length_laneBytes (g : Group) (d l : Nat) {size : Nat} (h : size ≤ 5) : (laneBytes g d size l).length = nbytes size := by
  simp only [laneBytes, storeBytes, List.length_take, length_flatMap_toBytes, List.length_map, regRun, List.length_range]
  interval_cases size <;> rfl

theorem length_atomBytes {atop size d : Nat} (h : atomOk atop size d = true) (old : List Byte) (y y2 : Nat) :
    (atomBytes size atop old y y2).length = nbytes size := by
  have hsize : size = 2 ∨ size = 3 := by
    simp only [atomOk, Bool.and_eq_true, Bool.or_eq_true, beq_iff_eq] at h
    obtain ⟨⟨-, hs⟩, -⟩ := h
    exact hs.imp_right And.left
  rcases hsize with rfl | rfl
  · rw [atomBytes, if_pos rfl, length_toBytes]; rfl
  · rw [atomBytes, if_neg (by decide), length_toBytes]; rfl

/-- The bytes of scratchpads that accesses of n bytes at these addresses of a group name: cluster and key. -/
def State.bankBytes (s : State) (g : Group) (stored : List Word) (n : Nat) (window : Bool) (c k : Nat) : Prop :=
  ∃ a ∈ stored, ∃ m off, s.bankPlace g window a n m off ∧ c = m.cluster ∧ ∃ i < n, k = m.spKey (off + i)

section
variable {s : State} {gid : Nat} {pc : DWord} {g : Group}

/-- The issue of a lane instruction is no work of a bank. -/
theorem BankWork.issue {W : Nat → Nat → Prop} {before : Nat} (hg : find s.groups gid = some g) : BankWork W gid before s (s.setG gid (g.begun pc)) := by
  refine BankWork.updG s fun x hx => ?_
  obtain rfl : g = x := Option.some.inj (hg.symm.trans hx)
  rw [Group.begun_eq]

/-- Where nothing of the group waits, an access of a bank is performed in its turn at once, whatever the banks did before it. -/
theorem BankWork.inTurn {W : Nat → Nat → Prop} {t : State} {w : Who} (hw : w.gid = gid) (h : BankWork W gid s.order s t) (hwait : s.waitingOf gid s.order = [])
    {y : AccOp} (hy : y.space ≠ 0) (f : State → Acc × State) : inTurn w s.order y f t = f t :=
  inTurn_of_quiet (by rw [hw]; exact h.waiting hwait) (t.pageLogged_bank w s.order hy) f

end

/-- The accesses of the lanes of an issue, each in its turn behind what waited when the instruction issued (R142). -/
abbrev State.turns (s : State) (it : Issue) (i : Instr) (addr : Nat → Word) (f : Nat → State → Acc × State) : State → Nat → Acc × State :=
  fun s' l => inTurn (s.who it) s.order (accAt i (addr l).toNat) (f l) s'

section
variable {s : State} {gid : Nat} {pc : DWord} {g : Group} {i : Instr} {v : Nat → List Byte} {t : State}

section
variable {f : MForm} {window : Bool} (h : Ready s gid pc g i f.sw (shUses f.bc f.d (dataRegs f.size) f.base)) (hroad : clearRoad s g false)
  (hok : ∀ l ∈ lanesOf (g.executing pc f.g), s.spFault g window (g.laneAddr32 f.bc f.base f.size f.off l) (nbytes f.size) = none)
include h hroad hok

theorem laneShLoad_performs {signed : Bool}
    (hall : Performs (s.turns (g.issueAt gid pc 8 f.g) i (g.laneAddr32 f.bc f.base f.size f.off)
      fun l s => s.spLoad gid g window (g.laneAddr32 f.bc f.base f.size f.off l) (nbytes f.size)) (s.setG gid (g.begun pc)) (lanesOf (g.executing pc f.g)) v t) :
    laneShLoad i f window signed s = .next (t.performed gid (g.issued pc) (asPc (pc + 8#64))
      ((lanesOf (g.executing pc f.g)).flatMap fun l => vecWrites l f.d (loadWords f.size signed (v l)))) := by
  have hwait := mustWait_of_clearRoad (gid := gid) (pc := pc) (len := 8) (gd := f.g) hroad
  obtain ⟨-, -, hroom⟩ := hroad
  have hsafe : ∀ l < 32, has (g.issueAt gid pc 8 f.g).E l →
      (s.setG gid (g.begun pc)).spFault g window (g.laneAddr32 f.bc f.base f.size f.off l) (nbytes f.size) = none :=
    fun l _ hE => hok l (mem_lanesOf_iff_has.2 hE)
  have hrun := runLanes_loads_perform (s := s.setG gid (g.begun pc)) (it := g.issueAt gid pc 8 f.g)
    (fun l bs => vecWrites l f.d (loadWords f.size signed bs)) hall
  rw [laneShLoad, h.runs f.g 8]
  simp only [hwait, Group.issueAt_g, Bool.false_eq_true, if_false]
  rw [Issue.guarded_acts hsafe]
  simp only [Group.issueAt_E, Group.issueAt_g, Group.issueAt_gid]
  rw [hrun, Ran.finish_performed hroom rfl rfl rfl rfl]
  rfl

theorem laneShStore_performs
    (hall : Performs (s.turns (g.issueAt gid pc 8 f.g) i (g.laneAddr32 f.bc f.base f.size f.off)
      fun l s => s.spStore gid g window (g.laneAddr32 f.bc f.base f.size f.off l) (laneBytes g f.d f.size l)) (s.setG gid (g.begun pc))
      (lanesOf (g.executing pc f.g &&& ~~~g.helper)) v t) :
    laneShStore i f window s = .next (t.performed gid (g.issued pc) (asPc (pc + 8#64)) []) := by
  have hwait := mustWait_of_clearRoad (gid := gid) (pc := pc) (len := 8) (gd := f.g) hroad
  obtain ⟨-, -, hroom⟩ := hroad
  have hsafe : ∀ l < 32, has (g.issueAt gid pc 8 f.g).E l →
      (s.setG gid (g.begun pc)).spFault g window (g.laneAddr32 f.bc f.base f.size f.off l) (nbytes f.size) = none :=
    fun l _ hE => hok l (mem_lanesOf_iff_has.2 hE)
  have hrun := runLanes_stores_perform (s := s.setG gid (g.begun pc)) (it := g.issueAt gid pc 8 f.g)
    (fun l => { lane := l, addr := (g.laneAddr32 f.bc f.base f.size f.off l).toNat, size := nbytes f.size, atop := none,
                y := ofBytes (laneBytes g f.d f.size l), y2 := 0, space := if window then 2 else 1 }) hall
  rw [laneShStore, h.runs f.g 8]
  simp only [hwait, Group.issueAt_g, Bool.false_eq_true, if_false]
  rw [Issue.guarded_acts hsafe]
  simp only [Group.issueAt_E, Group.issueAt_g, Group.issueAt_gid]
  rw [hrun, Ran.finish_performed hroom rfl rfl rfl rfl]
  rfl

end

section
variable {f : MaForm} {window : Bool} (h : Ready s gid pc g i f.sw (shUses f.bc f.d (atomRegs f.size f.atop) f.base)) (hroad : clearRoad s g false)
  (hok : ∀ l ∈ lanesOf (g.executing pc f.g), s.spFault g window (g.laneAddr32 f.bc f.base f.size f.off l) (nbytes f.size) = none)
include h hroad hok

theorem laneShAtomic_performs {ret : Bool}
    (hall : Performs (s.turns (g.issueAt gid pc 8 f.g) i (g.laneAddr32 f.bc f.base f.size f.off)
      fun l s => s.spAtomic gid g window (g.laneAddr32 f.bc f.base f.size f.off l) f.size f.atop
        (atomOperands f.size f.atop (g.readV l) f.d).1 (atomOperands f.size f.atop (g.readV l) f.d).2) (s.setG gid (g.begun pc))
      (lanesOf (g.executing pc f.g &&& ~~~g.helper)) v t) :
    laneShAtomic i f window ret s = .next (t.performed gid (g.issued pc) (asPc (pc + 8#64))
      (if ret then (lanesOf (g.executing pc f.g &&& ~~~g.helper)).flatMap fun l => vecWrites l f.d (loadWords f.size false (v l)) else [])) := by
  have hwait := mustWait_of_clearRoad (gid := gid) (pc := pc) (len := 8) (gd := f.g) hroad
  obtain ⟨-, -, hroom⟩ := hroad
  have hsafe : ∀ l < 32, has (g.issueAt gid pc 8 f.g).E l →
      (s.setG gid (g.begun pc)).spFault g window (g.laneAddr32 f.bc f.base f.size f.off l) (nbytes f.size) = none :=
    fun l _ hE => hok l (mem_lanesOf_iff_has.2 hE)
  have hloads := runLanes_loads_perform (s := s.setG gid (g.begun pc)) (it := g.issueAt gid pc 8 f.g)
    (fun l bs => vecWrites l f.d (loadWords f.size false bs)) hall
  have hstores := runLanes_stores_perform (s := s.setG gid (g.begun pc)) (it := g.issueAt gid pc 8 f.g)
    (fun l => { lane := l, addr := (g.laneAddr32 f.bc f.base f.size f.off l).toNat, size := nbytes f.size, atop := some f.atop,
                y := (atomOperands f.size f.atop (g.readV l) f.d).1, y2 := (atomOperands f.size f.atop (g.readV l) f.d).2,
                space := if window then 2 else 1 }) hall
  rw [laneShAtomic, h.runs f.g 8]
  simp only [hwait, Group.issueAt_g, Bool.false_eq_true, if_false]
  rw [Issue.guarded_acts hsafe]
  simp only [Group.issueAt_E, Group.issueAt_g, Group.issueAt_gid]
  cases ret with
  | true =>
    simp only [if_true]
    rw [hloads, Ran.finish_performed hroom rfl rfl rfl rfl]
    rfl
  | false =>
    simp only [Bool.false_eq_true, if_false]
    rw [hstores, Ran.finish_performed hroom rfl rfl rfl rfl]
    rfl

end

end

/-! ### What the lanes' accesses do together -/

section
variable {s : State} {gid : Nat} {pc : DWord} {g : Group} {i : Instr} {gd : Fin 8} {addr : Nat → Word} {ls : List Nat} {n : Nat} {window : Bool}

/-- The bytes of an access of one of the addresses are among those the addresses name, whatever the banks did before it. -/
theorem State.bankBytes_of_place {l : Nat} (hl : l ∈ ls) {m : Block} {off : Nat} (h : s.bankPlace g window (addr l) n m off) :
    ∀ i < n, s.bankBytes g (ls.map addr) n window m.cluster (m.spKey (off + i)) :=
  fun i hi => ⟨addr l, List.mem_map.2 ⟨l, hl, rfl⟩, m, off, h, rfl, i, hi, rfl⟩

/-- Accesses that perform, each of them bank work, are bank work together, where nothing waited. -/
theorem BankWork.of_performs {W : Nat → Nat → Prop} {f : Nat → State → Acc × State} (hg : find s.groups gid = some g)
    (hspace : ∀ a, (accAt i a).space ≠ 0) (hwait : s.waitingOf gid s.order = [])
    (hf : ∀ l ∈ ls, ∀ s' bs t, BankWork W gid s.order s s' → f l s' = (.ok bs, t) → BankWork W gid s.order s' t) {v : Nat → List Byte} {t : State}
    (hall : Performs (s.turns (g.issueAt gid pc 8 gd) i addr f) (s.setG gid (g.begun pc)) ls v t) : BankWork W gid s.order s t := by
  refine hall.keeps (Inv := BankWork W gid s.order s) (fun l hl s' bs t' hs' ht' => ?_) (BankWork.issue hg)
  rw [State.turns, hs'.inTurn rfl hwait (hspace _)] at ht'
  exact hs'.trans (hf l hl s' bs t' hs' ht')

/-- Where nothing waits and each access performs, all perform in turn. -/
theorem exists_turns {W : Nat → Nat → Prop} {f : Nat → State → Acc × State} {Q : Nat → List Byte → Prop} (hg : find s.groups gid = some g)
    (hspace : ∀ a, (accAt i a).space ≠ 0) (hwait : s.waitingOf gid s.order = []) (hnodup : ls.Nodup)
    (hf : ∀ l ∈ ls, ∀ s', BankWork W gid s.order s s' → ∃ bs t, f l s' = (.ok bs, t) ∧ BankWork W gid s.order s' t ∧ Q l bs) :
    ∃ v t, Performs (s.turns (g.issueAt gid pc 8 gd) i addr f) (s.setG gid (g.begun pc)) ls v t ∧ ∀ l ∈ ls, Q l (v l) := by
  refine exists_performs (Inv := BankWork W gid s.order s) hnodup (BankWork.issue hg) fun l hl s' hs' => ?_
  obtain ⟨bs, t, hop, hwork, hQ⟩ := hf l hl s' hs'
  exact ⟨bs, t, by rw [State.turns, hs'.inTurn rfl hwait (hspace _)]; exact hop, hs'.trans hwork, hQ⟩

/-- Unpoisoned granules stay so under work of the banks. -/
theorem BankWork.spPoison {W : Nat → Nat → Prop} {before : Nat} {t : State} (h : BankWork W gid before s t) {m : Block} {off : Nat} (hs : s.spPoison m off n = false) :
    t.spPoison m off n = false := by
  rw [State.spPoison, List.any_eq_false] at hs ⊢
  intro k hk
  have hclean := hs k hk
  rw [Bool.not_eq_true] at hclean ⊢
  exact h.poison _ _ hclean

/-- Work of the banks that changes no byte leaves what is read. -/
theorem BankWork.spRead {before : Nat} {t : State} (h : BankWork (fun _ _ => False) gid before s t) (m : Block) (off : Nat) : t.spRead m off n = s.spRead m off n := by
  refine List.map_congr_left fun k _ => ?_
  exact h.scratch _ _ id

end

/-- Settles O22: the banks' work touches nothing that makes an access wait, so each lane's access performs in its turn. -/
theorem scratchpadAccessesComplete : Obligations.ScratchpadAccessesComplete := by
  unfold Obligations.ScratchpadAccessesComplete
  intro frame sound loads stores atomics
  have hframe {s t : State} {gid : Nat} {g : Group} {stored : List Word} {n : Nat} {window : Bool}
      (h : s.waitingOf gid s.order = [] → BankWork (s.bankBytes g stored n window) gid s.order s t) : frame s t gid g stored n window := by
    intro hwait
    have hwork := h hwait
    refine ⟨hwork.mem, hwork.l2, fun c => ⟨hwork.l1held c, hwork.l1 c, fun k hk => hwork.scratch c k ?_⟩⟩
    rintro ⟨a, ha, m, off, ⟨b, hb, hp⟩, rfl, i, hi, rfl⟩
    exact hk a ha b m off hb hp rfl i hi rfl
  have hloads (i : MForm → Instr) (window signed : Bool) (hexec : ∀ f s, exec (i f) s = laneShLoad (i f) f window signed s)
      (hspace : ∀ f a, (accAt (i f) a).space ≠ 0) : loads i window signed := by
    intro f s gid pc g v t h hroad it n addr hok
    have hwork : ∀ l ∈ lanesOf it.E, ∀ s' bs t, BankWork (fun _ _ => False) gid s.order s s' → s'.spLoad gid g window (addr l) n = (.ok bs, t) →
        BankWork (fun _ _ => False) gid s.order s' t := by
      intro l hl s' bs t hs' ht
      obtain ⟨m, off, hp⟩ := State.exists_bankPlace (hok l hl)
      exact BankWork.spLoad ((State.bankPlace_congr hs'.blocks hs'.launches).2 hp) ht
    have hends {v : Nat → List Byte} {t : State} (hall : Performs (s.turns it (i f) addr fun l s => s.spLoad gid g window (addr l) n)
        (s.setG gid (g.begun pc)) (lanesOf it.E) v t) :
        exec (i f) s = .next (t.performed gid it.I (asPc (pc + 8#64)) ((lanesOf it.E).flatMap fun l => vecWrites l f.d (loadWords f.size signed (v l)))) ∧
          frame s t gid g [] n window :=
      ⟨(hexec f s).trans (laneShLoad_performs h hroad hok hall),
        hframe fun hwait => (BankWork.of_performs h.here (hspace f) hwait hwork hall).mono fun _ _ hk => hk.elim⟩
    refine ⟨fun hwait hsound => ?_, hends⟩
    obtain ⟨v, t, hall, hv⟩ := exists_turns (pc := pc) (gd := f.g) (addr := addr) (W := fun _ _ => False) (f := fun l s => s.spLoad gid g window (addr l) n)
      (Q := fun l bs => ∀ m off, s.bankPlace g window (addr l) n m off → m.phase ≠ .gone → bs = s.spRead m off n)
      h.here (hspace f) hwait (nodup_lanesOf it.E) fun l hl s' hs' => by
        obtain ⟨m, off, hp⟩ := State.exists_bankPlace (hok l hl)
        have ⟨b, hb, hpb⟩ := hp
        obtain ⟨bs, t, ht, hbs⟩ := State.spLoad_ok (j := gid) ((State.bankPlace_congr hs'.blocks hs'.launches).2 hp) (hs'.spPoison (hsound l hl b m off hb hpb))
        refine ⟨bs, t, ht, hwork l hl s' bs t hs' ht, fun m' off' hp' hres => ?_⟩
        obtain ⟨rfl, rfl⟩ := State.bankPlace_unique hp hp'
        rw [hbs hres, hs'.spRead]
    exact ⟨v, t, fun l hl b m off hb hp hres => hv l hl m off ⟨b, hb, hp⟩ hres, hends hall⟩
  have hstores (i : MForm → Instr) (window : Bool) (hexec : ∀ f s, exec (i f) s = laneShStore (i f) f window s)
      (hspace : ∀ f a, (accAt (i f) a).space ≠ 0) (hsize : ∀ f, (i f).wf = true → f.size.val ≤ 5) : stores i window := by
    intro f s gid pc g v t h hroad it n addr m hok all
    have hsub : ∀ l ∈ lanesOf m, l ∈ lanesOf it.E := fun l hl => by
      simp only [m, mem_lanesOf, BitVec.getLsbD_and, Bool.and_eq_true] at hl ⊢
      exact ⟨hl.1, hl.2.1⟩
    have hlen (l : Nat) : (laneBytes g f.d f.size l).length = n := length_laneBytes g f.d l (hsize f h.formed)
    have hplace : ∀ l ∈ lanesOf m, ∀ s', BankWork (s.bankBytes g ((lanesOf m).map addr) n window) gid s.order s s' →
        ∃ m' off, s'.bankPlace g window (addr l) (laneBytes g f.d f.size l).length m' off ∧ s.bankPlace g window (addr l) n m' off := by
      intro l hl s' hs'
      obtain ⟨m', off, hp⟩ := State.exists_bankPlace (hok l (hsub l hl))
      exact ⟨m', off, by rw [hlen]; exact (State.bankPlace_congr hs'.blocks hs'.launches).2 hp, hp⟩
    have hstep : ∀ l ∈ lanesOf m, ∀ s', BankWork (s.bankBytes g ((lanesOf m).map addr) n window) gid s.order s s' →
        ∃ bs t, s'.spStore gid g window (addr l) (laneBytes g f.d f.size l) = (.ok bs, t) ∧
          BankWork (s.bankBytes g ((lanesOf m).map addr) n window) gid s.order s' t ∧ True := by
      intro l hl s' hs'
      obtain ⟨m', off, hp', hp⟩ := hplace l hl s' hs'
      obtain ⟨t, ht⟩ := State.spStore_ok (j := gid) hp'
      have hwork : BankWork (s.bankBytes g ((lanesOf m).map addr) n window) gid s.order s' _ :=
        BankWork.spStore (j := gid) hp' (by rw [hlen]; exact State.bankBytes_of_place hl hp)
      rw [ht] at hwork
      exact ⟨[], t, ht, hwork, trivial⟩
    have hends {v : Nat → List Byte} {t : State} (hall : all v t) :
        exec (i f) s = .next (t.performed gid it.I (asPc (pc + 8#64)) []) ∧ frame s t gid g ((lanesOf m).map addr) n window := by
      refine ⟨(hexec f s).trans (laneShStore_performs h hroad hok hall), hframe fun hwait =>
        BankWork.of_performs h.here (hspace f) hwait (fun l hl s' bs t hs' ht => ?_) hall⟩
      obtain ⟨bs', t', ht', hwork, -⟩ := hstep l hl s' hs'
      rw [ht] at ht'
      cases ht'
      exact hwork
    refine ⟨fun hwait => ?_, hends⟩
    obtain ⟨v, t, hall, -⟩ := exists_turns (Q := fun _ _ => True) (pc := pc) (gd := f.g) (addr := addr) h.here (hspace f) hwait (nodup_lanesOf m) hstep
    exact ⟨v, t, hall, hends hall⟩
  have hatomics (i : MaForm → Instr) (window ret : Bool) (hexec : ∀ f s, exec (i f) s = laneShAtomic (i f) f window ret s)
      (hspace : ∀ f a, (accAt (i f) a).space ≠ 0) (hatom : ∀ f, (i f).wf = true → atomOk f.atop f.size f.d = true) : atomics i window ret := by
    intro f s gid pc g v t h hroad it n addr m operands hok all
    have hsub : ∀ l ∈ lanesOf m, l ∈ lanesOf it.E := fun l hl => by
      simp only [m, mem_lanesOf, BitVec.getLsbD_and, Bool.and_eq_true] at hl ⊢
      exact ⟨hl.1, hl.2.1⟩
    have hlen (l : Nat) (old : List Byte) := length_atomBytes (hatom f h.formed) old (operands l).1 (operands l).2
    have hwork : ∀ l ∈ lanesOf m, ∀ s' bs t, BankWork (s.bankBytes g ((lanesOf m).map addr) n window) gid s.order s s' →
        s'.spAtomic gid g window (addr l) f.size f.atop (operands l).1 (operands l).2 = (.ok bs, t) →
          BankWork (s.bankBytes g ((lanesOf m).map addr) n window) gid s.order s' t := by
      intro l hl s' bs t hs' ht
      obtain ⟨m', off, hp⟩ := State.exists_bankPlace (hok l (hsub l hl))
      exact BankWork.spAtomic (hlen l) ((State.bankPlace_congr hs'.blocks hs'.launches).2 hp) (State.bankBytes_of_place hl hp) ht
    have hends {v : Nat → List Byte} {t : State} (hall : all v t) :
        exec (i f) s = .next (t.performed gid it.I (asPc (pc + 8#64))
          (if ret then (lanesOf m).flatMap fun l => vecWrites l f.d (loadWords f.size false (v l)) else [])) ∧
        frame s t gid g ((lanesOf m).map addr) n window :=
      ⟨(hexec f s).trans (laneShAtomic_performs h hroad hok hall), hframe fun hwait => BankWork.of_performs h.here (hspace f) hwait hwork hall⟩
    refine ⟨fun hwait hsound => ?_, hends⟩
    obtain ⟨v, t, hall, -⟩ := exists_turns (Q := fun _ _ => True) (pc := pc) (gd := f.g) (addr := addr) h.here (hspace f) hwait (nodup_lanesOf m)
      fun l hl s' hs' => by
        obtain ⟨m', off, b, hb, hpb⟩ := State.exists_bankPlace (hok l (hsub l hl))
        obtain ⟨bs, t, ht⟩ := State.spAtomic_ok (j := gid) (hlen l) ((State.bankPlace_congr hs'.blocks hs'.launches).2 ⟨b, hb, hpb⟩)
          (hs'.spPoison (hsound l hl b m' off hb hpb))
        exact ⟨bs, t, ht, hwork l hl s' bs t hs' ht, trivial⟩
    exact ⟨v, t, hall, hends hall⟩
  have hbank : (1 : Nat) ≠ 0 := by decide
  have hgang : (2 : Nat) ≠ 0 := by decide
  have hsized {a b : Bool} {size : Nat} (h : (a && decide (size ≤ 4) && b) = true) : size ≤ 5 := by
    simp only [Bool.and_eq_true, decide_eq_true_eq] at h
    omega
  have hfirst {a b c : Bool} (h : (a && b && c) = true) : a = true := by
    simp only [Bool.and_eq_true] at h
    exact h.1.1
  exact ⟨hloads .ldsh _ _ (fun _ _ => rfl) fun _ _ => hbank, hloads .ldssh _ _ (fun _ _ => rfl) fun _ _ => hbank,
    hloads .ldg _ _ (fun _ _ => rfl) fun _ _ => hgang,
    hstores .stsh _ (fun _ _ => rfl) (fun _ _ => hbank) fun _ => hsized, hstores .stg _ (fun _ _ => rfl) (fun _ _ => hgang) fun _ => hsized,
    hatomics .atsh _ _ (fun _ _ => rfl) (fun _ _ => hbank) fun _ => hfirst, hatomics .redsh _ _ (fun _ _ => rfl) (fun _ _ => hbank) fun _ => hfirst,
    hatomics .atg _ _ (fun _ _ => rfl) (fun _ _ => hgang) fun _ => hfirst⟩

end Sys2Proof.Machine
end

section
/-!
SUPPORT. Accesses of bytes that stand unpoisoned at their home: a read changes nothing (R243, R298, R301, R380, R390).
-/
namespace Sys2Proof.Machine
open Sys2Proof

/-! ### Regions and keys -/

/-- An access of at most 16 bytes whose ends lie both in or both out of the shared region lies there wholly. -/
theorem inShared_add {va n k : Nat} (h : inShared va = inShared (va + n - 1)) (hn : n ≤ 16) (hk : k < n) : inShared (va + k) = inShared va := by
  simp only [inShared, Bool.beq_eq_decide_eq, decide_eq_decide] at h ⊢
  omega

theorem canonAsid_add {va n k : Nat} (asid : Nat) (h : inShared va = inShared (va + n - 1)) (hn : n ≤ 16) (hk : k < n) :
    canonAsid asid (va + k) = canonAsid asid va := by
  rw [canonAsid, canonAsid, inShared_add h hn hk]

/-- Addresses of one line agree in their region. -/
theorem canonAsid_line {va x : Nat} (asid : Nat) (h : x / 128 = va / 128) : canonAsid asid x = canonAsid asid va := by
  have hregion : x / 2 ^ 48 = va / 2 ^ 48 := by omega
  rw [canonAsid, canonAsid, inShared, inShared, hregion]

/-- The version of an address is that of its line. -/
theorem State.verOf_line (s : State) (lid asid : Nat) {va x : Nat} (h : x / 128 = va / 128) : s.verOf lid asid x = s.verOf lid asid va := by
  have hgrain : x / 65536 = va / 65536 := by omega
  rw [State.verOf, State.verOf, grainKey, grainKey, hgrain]

theorem State.verOf_congr {s t : State} (h : t.launches = s.launches) (lid asid va : Nat) : t.verOf lid asid va = s.verOf lid asid va := by
  rw [State.verOf, State.verOf, h]

/-- The keys of sectors tell their addresses apart. -/
theorem sector_of_l2key {v a va v' a' x : Nat} (hva : va < 2 ^ 56) (hx : x < 2 ^ 56) (h : l2key v a va = l2key v' a' x) : va / 16 = x / 16 := by
  unfold l2key at h
  omega

theorem line_of_wayKey {v a va v' a' x : Nat} (hva : va < 2 ^ 56) (hx : x < 2 ^ 56) (h : wayKey v a va = wayKey v' a' x) : va / 128 = x / 128 := by
  unfold wayKey at h
  omega

theorem address_of_l1key {a va a' x : Nat} (hva : va < 2 ^ 56) (hx : x < 2 ^ 56) (h : l1key a va = l1key a' x) : va = x := by
  unfold l1key at h
  omega

/-! ### Sectors at home -/

/-- The sector of an address as party w's launch sees it (R298, R390). -/
def State.homeSector (s : State) (lid asid va : Nat) : Option Sector :=
  find s.l2 (l2key (s.verOf lid (canonAsid asid va) va) (canonAsid asid va) va)

/-- Addresses of one sector have one. -/
theorem State.homeSector_eq (s : State) (lid asid : Nat) {va x : Nat} (h : x / 16 = va / 16) : s.homeSector lid asid x = s.homeSector lid asid va := by
  have hline : x / 128 = va / 128 := by omega
  rw [State.homeSector, State.homeSector, canonAsid_line asid hline, s.verOf_line lid _ hline, l2key, l2key, h]

theorem State.homeSector_congr {s t : State} (hl2 : t.l2 = s.l2) (hla : t.launches = s.launches) (lid asid va : Nat) :
    t.homeSector lid asid va = s.homeSector lid asid va := by
  rw [State.homeSector, State.homeSector, hl2, State.verOf_congr hla]

/-- The pieces of an access of at most 16 bytes lie in it, each within a sector. -/
theorem mem_pieces {va n : Nat} (hn : n ≤ 16) {p : Nat × Nat} (h : p ∈ pieces va n) :
    va ≤ p.1 ∧ 0 < p.2 ∧ p.1 + p.2 ≤ va + n ∧ p.1 % 16 + p.2 ≤ 16 := by
  unfold pieces at h
  split at h
  · cases h
  · dsimp only at h
    split at h
    · rw [List.mem_singleton] at h
      subst h
      omega
    · simp only [List.mem_cons, List.not_mem_nil, or_false] at h
      rcases h with rfl | rfl <;> dsimp only <;> omega

/-- They cover it. -/
theorem exists_piece {va n k : Nat} (hk : k < n) : ∃ p ∈ pieces va n, p.1 ≤ va + k ∧ va + k < p.1 + p.2 := by
  unfold pieces
  rw [if_neg (by omega)]
  dsimp only
  split
  · exact ⟨_, List.mem_singleton_self _, by dsimp only; omega, by dsimp only; omega⟩
  · by_cases hfirst : k < min n (16 - va % 16)
    · exact ⟨_, List.mem_cons_self, by dsimp only; omega, by dsimp only; omega⟩
    · exact ⟨_, List.mem_cons_of_mem _ (List.mem_singleton_self _), by dsimp only; omega, by dsimp only; omega⟩

/-- An access of at most 16 bytes below the top of the address space, in one region, whose sectors stand unpoisoned at their homes. -/
structure State.AtHome (s : State) (lid asid va n : Nat) : Prop where
  pos : 0 < n
  small : n ≤ 16
  below : va + n ≤ 2 ^ 56
  region : inShared va = inShared (va + n - 1)
  sectors : ∀ k < n, ∃ x, s.homeSector lid asid (va + k) = some x ∧ x.poison = false

section
variable {s : State} {lid asid va n : Nat}

theorem State.AtHome.of_atHome {w : Who} (h : atHome s w va n) (hpos : 0 < n) (hn : n ≤ 16) (htop : va + n ≤ 2 ^ 56) : s.AtHome w.lid w.asid va n where
  pos := hpos
  small := hn
  below := htop
  region := h.1
  sectors k hk := by
    obtain ⟨p, hp, hlo, hhi⟩ := exists_piece (va := va) hk
    obtain ⟨hle, hpos, hend, hsec⟩ := mem_pieces hn hp
    obtain ⟨x, hx, hclean⟩ := h.2 p hp
    have hsame : (va + k) / 16 = p.1 / 16 := by omega
    have hcanon : canonAsid w.asid p.1 = canonAsid w.asid va := by
      rw [show p.1 = va + (p.1 - va) by omega]
      exact canonAsid_add w.asid h.1 hn (by omega)
    exact ⟨x, by rw [State.homeSector_eq s w.lid w.asid hsame, State.homeSector, hcanon]; exact hx, hclean⟩

theorem State.AtHome.congr {t : State} (h : s.AtHome lid asid va n) (hl2 : t.l2 = s.l2) (hla : t.launches = s.launches) : t.AtHome lid asid va n :=
  { h with sectors := fun k hk => by rw [State.homeSector_congr hl2 hla]; exact h.sectors k hk }

/-- The sector of a piece of it. -/
theorem State.AtHome.piece (h : s.AtHome lid asid va n) {p : Nat × Nat} (hp : p ∈ pieces va n) :
    ∃ x, s.homeSector lid asid p.1 = some x ∧ x.poison = false := by
  obtain ⟨hle, hpos, hend, -⟩ := mem_pieces h.small hp
  rw [show p.1 = va + (p.1 - va) by omega]
  exact h.sectors _ (by omega)

theorem State.AtHome.canon (h : s.AtHome lid asid va n) {k : Nat} (hk : k < n) : canonAsid asid (va + k) = canonAsid asid va :=
  canonAsid_add asid h.region h.small hk

theorem State.AtHome.canon_piece (h : s.AtHome lid asid va n) {p : Nat × Nat} (hp : p ∈ pieces va n) : canonAsid asid p.1 = canonAsid asid va := by
  obtain ⟨hle, hpos, hend, -⟩ := mem_pieces h.small hp
  rw [show p.1 = va + (p.1 - va) by omega]
  exact h.canon (by omega)

/-- What its bytes read (R243). -/
theorem State.AtHome.homeByte (h : s.AtHome lid asid va n) {k : Nat} (hk : k < n) {x : Sector} (hx : s.homeSector lid asid (va + k) = some x) :
    s.homeByte lid (canonAsid asid va) (va + k) = sectorByte x.data ((va + k) % 16) := by
  rw [State.homeSector, h.canon hk] at hx
  simp only [State.homeByte, hx]

end

/-! ### Reads that hit -/

theorem State.touch_hit {s : State} {q : Req} {va : Nat} {x : Sector} (h : s.homeSector q.lid q.asid va = some x) : s.touch q va = (.ok, s) := by
  rw [State.homeSector] at h
  simp only [State.touch, h]

theorem State.touchAll_hits {s : State} {q : Req} {ps : List (Nat × Nat)} (h : ∀ p ∈ ps, ∃ x, s.homeSector q.lid q.asid p.1 = some x) :
    s.touchAll q ps = (.ok, s) := by
  induction ps with
  | nil => rfl
  | cons p ps ih =>
    obtain ⟨x, hx⟩ := h p List.mem_cons_self
    rw [State.touchAll, State.touch_hit hx]
    exact ih fun p hp => h p (List.mem_cons_of_mem _ hp)

/-- The bytes of an access at their home. -/
def State.homeBytes (s : State) (lid asid va n : Nat) : List Byte := (List.range n).map fun k => s.homeByte lid (canonAsid asid va) (va + k)

theorem State.homeBytes_congr {s t : State} (hl2 : t.l2 = s.l2) (hla : t.launches = s.launches) (lid asid va n : Nat) :
    t.homeBytes lid asid va n = s.homeBytes lid asid va n := by
  simp only [State.homeBytes, State.homeByte_congr hl2 hla]

theorem State.AtHome.touchAll {s : State} {q : Req} {va n : Nat} (h : s.AtHome q.lid q.asid va n) : s.touchAll q (pieces va n) = (.ok, s) :=
  State.touchAll_hits fun _ hp => (h.piece hp).imp fun _ hx => hx.1

/-- A read of bytes that stand unpoisoned at their home answers them and changes nothing. -/
theorem State.AtHome.homeRead {s : State} {q : Req} {va n : Nat} (h : s.AtHome q.lid q.asid va n) :
    s.homeRead q va n = (.ok (s.homeBytes q.lid q.asid va n), s) := by
  have hclean : (pieces va n).any (fun p => s.homePoison q.lid (canonAsid q.asid va) p.1) = false := by
    rw [List.any_eq_false]
    intro p hp
    obtain ⟨x, hx, hpoison⟩ := h.piece hp
    rw [State.homeSector, h.canon_piece hp] at hx
    simp only [State.homePoison, hx, hpoison, Bool.false_eq_true, not_false_eq_true]
  simp only [State.homeRead, h.touchAll, hclean, Bool.false_eq_true, if_false]
  rfl

end Sys2Proof.Machine
end

section
/-!
SUPPORT. Loads of bytes that stand at their home, with nothing waiting and no stream store held: they answer the bytes at home, whether
an L1's copy or the home serves them, and keep it so (R245, R250, R251).
-/
namespace Sys2Proof.Machine
open Sys2Proof

/-! ### Publishing nothing -/

theorem covered_nil (sel : List (Nat × Held)) : covered [] sel = [] := rfl

theorem State.publishAll_nothing {s : State} {held : State → List (Nat × Held)} (h : held s = []) (origin : Nat) (drop : State → List Nat → State)
    (sel : List (Nat × Held)) : s.publishAll origin held drop sel = s := by
  unfold State.publishAll
  rw [h, covered_nil]
  rfl

theorem State.publishIf_nothing {s : State} {c : Nat} (h : (s.cluster c).l1held = []) (p : Nat → Held → Bool) : s.publishIf c p = s :=
  State.publishAll_nothing h ..

theorem State.publishDev_nothing {s : State} (h : s.devHeld = []) (p : Nat → Held → Bool) : s.publishDev p = s :=
  State.publishAll_nothing h ..

theorem State.publishLine_nothing {s : State} {c : Nat} (h : (s.cluster c).l1held = []) (hdev : s.devHeld = []) (asid va : Nat) : s.publishLine c asid va = s := by
  rw [State.publishLine, State.publishIf_nothing h, State.publishDev_nothing hdev]

theorem State.forcePublish_nothing {s : State} (h : s.dir = []) (c asid va : Nat) : s.forcePublish c asid va = s := by
  rw [State.forcePublish, h]; rfl

/-! ### Translations -/

/-- The state without the ports and registers of its dies. -/
def State.sansDies (s : State) : State := { s with dies := [] }

section
variable (s : State)

@[simp] theorem State.sansDies_updD (d : Nat) (f : Die → Die) : (s.updD d f).sansDies = s.sansDies := rfl

@[simp] theorem State.sansDies_ite (c : Prop) [Decidable c] (s t : State) : (if c then s else t).sansDies = if c then s.sansDies else t.sansDies :=
  apply_ite State.sansDies c s t

@[simp] theorem State.sansDies_asidEntry (d asid : Nat) : (s.asidEntry d asid).2.sansDies = s.sansDies := by
  unfold State.asidEntry; split <;> rfl

@[simp] theorem State.sansDies_walk (d asid va : Nat) : (s.walk d asid va).2.sansDies = s.sansDies := by
  simp only [State.walk]
  split
  · rfl
  · split <;> exact s.sansDies_asidEntry d asid

/-- A port's translation changes dies alone. -/
@[simp] theorem State.sansDies_portLeaf (asid va : Nat) (access : Bool) : (s.portLeaf asid va access).2.sansDies = s.sansDies := by
  simp only [State.portLeaf]
  split
  · rfl
  · split <;> simp

@[simp] theorem State.sansDies_translated (asid va : Nat) : (s.translated asid va).sansDies = s.sansDies := s.sansDies_portLeaf _ _ _

@[simp] theorem State.sansDies_isRemote (asid va : Nat) : (s.isRemote asid va).2.sansDies = s.sansDies := by
  have h := s.sansDies_portLeaf (canonAsid asid va) va true
  unfold State.isRemote
  split <;> next e => rw [e] at h; exact h

end

/-! ### Bytes of sectors -/

theorem testBit_ofBytes (bs : List Byte) (i : Nat) {j : Nat} (hj : j < 8) : (ofBytes bs).testBit (8 * i + j) = (bs.getD i 0#8).getLsbD j := by
  induction bs generalizing i with
  | nil => simp [ofBytes]
  | cons b bs ih =>
    have hb : b.toNat < 2 ^ 8 := b.isLt
    rw [ofBytes, Nat.add_comm, show (256 : Nat) = 2 ^ 8 by rfl, Nat.testBit_two_pow_mul_add _ hb]
    cases i with
    | zero => rw [if_pos (by omega), Nat.mul_zero, Nat.zero_add]; rfl
    | succ i =>
      rw [if_neg (by omega), show 8 * (i + 1) + j - 8 = 8 * i + j by omega, ih]
      rfl

/-- The bytes of a sector made of bytes. -/
theorem sectorByte_ofBytes (bs : List Byte) {i : Nat} (hi : i < 16) : sectorByte (BitVec.ofNat 128 (ofBytes bs)) i = bs.getD i 0#8 := by
  ext j hj
  rw [← BitVec.getLsbD_eq_getElem, ← BitVec.getLsbD_eq_getElem, ← testBit_ofBytes bs i hj]
  simp only [sectorByte, BitVec.getLsbD_setWidth, BitVec.getLsbD_ushiftRight, BitVec.getLsbD_ofNat]
  simp [hj, show 8 * i + j < 128 by omega]

/-- The sector made of a sector's bytes at home is that sector, byte by byte. -/
theorem State.AtHome.sectorByte_whole {s : State} {lid asid va : Nat} (h : s.AtHome lid asid (va / 16 * 16) 16) {y : Sector}
    (hy : s.homeSector lid asid va = some y) {i : Nat} (hi : i < 16) :
    sectorByte (BitVec.ofNat 128 (ofBytes (s.homeBytes lid asid (va / 16 * 16) 16))) i = sectorByte y.data i := by
  have hyi : s.homeSector lid asid (va / 16 * 16 + i) = some y := by
    rw [State.homeSector_eq s lid asid (show (va / 16 * 16 + i) / 16 = va / 16 by omega), hy]
  have hmod : (va / 16 * 16 + i) % 16 = i := by omega
  rw [sectorByte_ofBytes _ hi, State.homeBytes, List.getD_eq_getElem _ _ (by simpa using hi), List.getElem_map, List.getElem_range, h.homeByte hi hyi, hmod]

/-! ### A memory at rest -/

theorem find_delIf {α : Type} (m : SMap α) (p : Nat → Bool) (k : Nat) : find (delIf m p) k = if p k then none else find m k := by
  induction m with
  | nil => simp [delIf, find]
  | cons e m ih =>
    obtain ⟨j, x⟩ := e
    rw [delIf, List.filter_cons]
    by_cases hj : j = k
    · subst hj
      by_cases hp : p j
      · simpa [hp, delIf] using ih
      · simp [hp, find]
    · by_cases hp : p j
      · simpa [hp, find, hj, delIf] using ih
      · simpa [hp, find, hj, delIf] using ih

/-- A line of an L1 holds, of the sector of an address, nothing or what stands at home. -/
def L1Line.Agrees (l : L1Line) (s0 : State) (w : Who) (va : Nat) : Prop :=
  ∀ d, find l.data (va / 16 % 8) = some d → ∃ x, s0.homeSector w.lid w.asid va = some x ∧ ∀ i < 16, sectorByte d i = sectorByte x.data i

/-- The key of the line of an address in an L1, in the version that party w sees. -/
def State.copyKey (s0 : State) (w : Who) (va : Nat) : Nat := wayKey (s0.verOf w.lid (canonAsid w.asid va) va) (canonAsid w.asid va) va

theorem State.copyKey_line (s0 : State) (w : Who) {va x : Nat} (h : x / 128 = va / 128) : s0.copyKey w x = s0.copyKey w va := by
  rw [State.copyKey, State.copyKey, canonAsid_line w.asid h, s0.verOf_line w.lid _ h, wayKey, wayKey, h]

theorem State.copyKey_congr {s t : State} (h : t.launches = s.launches) (w : Who) (va : Nat) : t.copyKey w va = s.copyKey w va := by
  rw [State.copyKey, State.copyKey, State.verOf_congr h]

/-- The copies that an L1 gives party w are what stands at home, and none is poisoned. -/
structure CopiesAgree (s0 : State) (w : Who) (l1 : SMap L1Line) : Prop where
  good : ∀ k l, find l1 k = some l → l.bad = 0
  agree : ∀ va < 2 ^ 56, ∀ l, find l1 (s0.copyKey w va) = some l → l.Agrees s0 w va

theorem CopiesAgree.nil (s0 : State) (w : Who) : CopiesAgree s0 w [] := ⟨fun _ _ h => (nomatch h), fun _ _ _ h => (nomatch h)⟩

/-- Copies may be dropped. -/
theorem CopiesAgree.sub {s0 : State} {w : Who} {l1 l1' : SMap L1Line} (h : CopiesAgree s0 w l1) (hsub : ∀ k l, find l1' k = some l → find l1 k = some l) :
    CopiesAgree s0 w l1' :=
  ⟨fun k l hl => h.good k l (hsub k l hl), fun va hva l hl => h.agree va hva l (hsub _ l hl)⟩

theorem CopiesAgree.delIf {s0 : State} {w : Who} {l1 : SMap L1Line} (h : CopiesAgree s0 w l1) (p : Nat → Bool) : CopiesAgree s0 w (delIf l1 p) := by
  refine h.sub fun k l hl => ?_
  rw [find_delIf] at hl
  split at hl
  · cases hl
  · exact hl

theorem CopiesAgree.del {s0 : State} {w : Who} {l1 : SMap L1Line} (h : CopiesAgree s0 w l1) (k : Nat) : CopiesAgree s0 w (del l1 k) := by
  refine h.sub fun j l hl => ?_
  rw [find_del] at hl
  split at hl
  · cases hl
  · exact hl

/-- A line that agrees at each of its addresses may be put. -/
theorem CopiesAgree.put {s0 : State} {w : Who} {l1 : SMap L1Line} (h : CopiesAgree s0 w l1) {va : Nat} (hva : va < 2 ^ 56) {l : L1Line}
    (hgood : l.bad = 0) (hl : ∀ x < 2 ^ 56, x / 128 = va / 128 → l.Agrees s0 w x) : CopiesAgree s0 w (put l1 (s0.copyKey w va) l) where
  good k l' hl' := by
    rw [find_put] at hl'
    split at hl'
    · cases hl'; exact hgood
    · exact h.good k l' hl'
  agree x hx l' hl' := by
    rw [find_put] at hl'
    split at hl'
    · next hkey =>
      cases hl'
      exact hl x hx (line_of_wayKey hx hva hkey)
    · exact h.agree x hx l' hl'

/-- The bytes that this device's home slice copied of other devices' memory are what stands at home, as party w sees it. -/
def DevCopiesAgree (s0 : State) (w : Who) (m : SMap Byte) : Prop :=
  ∀ va < 2 ^ 56, ∀ b, find m (l1key (canonAsid w.asid va) va) = some b → b = s0.homeByte w.lid (canonAsid w.asid va) va

/-- Nothing of party w waits before a place in its order, no stream store is held anywhere, and every copy is what stands at home; memory, L2 and the
launches are those of `s0`. -/
structure State.Resting (s0 : State) (w : Who) (before : Nat) (t : State) : Prop where
  mem : t.mem = s0.mem
  l2 : t.l2 = s0.l2
  launches : t.launches = s0.launches
  order : t.order = s0.order
  waiting : t.waitingOf w.gid before = []
  log : t.sideLog w.c w.sp = []
  held : ∀ c, (t.cluster c).l1held = []
  devHeld : t.devHeld = []
  dir : t.dir = []
  copies : CopiesAgree s0 w (t.cluster w.c).l1
  devCopies : DevCopiesAgree s0 w t.devCopy

section
variable {s0 t t' : State} {w : Who} {before : Nat}

theorem State.Resting.of_sansDies (h : s0.Resting w before t) (ht : t'.sansDies = t.sansDies) : s0.Resting w before t' := by
  have hrest : s0.Resting w before t.sansDies := { h with }
  rw [← ht] at hrest
  exact { hrest with }

/-- It says nothing of timestamps. -/
theorem State.Resting.stamps (h : s0.Resting w before t) (ts : SMap LineTs) (top : Nat) : s0.Resting w before { t with lineTs := ts, tsTop := top } :=
  { h with }

/-- A group may change, but for its replay entries. -/
theorem State.Resting.updG (h : s0.Resting w before t) {j : Nat} {f : Group → Group} (hf : ∀ g, find t.groups j = some g → (f g).replay = g.replay) :
    s0.Resting w before (t.updG j f) :=
  { h with waiting := State.waitingOf_updG h.waiting hf }

/-- The party's cluster may change, but for its side logs, pieces and held bytes, while its copies agree with what stands at home. -/
theorem State.Resting.updC (h : s0.Resting w before t) {f : Cluster → Cluster}
    (hf : ∀ k, (f k).sideLogs = k.sideLogs ∧ (f k).pieces = k.pieces ∧ (f k).l1held = k.l1held)
    (hcopies : CopiesAgree s0 w (f (t.cluster w.c)).l1) : s0.Resting w before (t.updC w.c f) where
  mem := h.mem
  l2 := h.l2
  launches := h.launches
  order := h.order
  waiting := State.waitingOf_updC h.waiting fun k => ⟨(hf k).1, (hf k).2.1⟩
  log := by
    rw [State.sideLog, State.cluster_updC, if_pos rfl, (hf _).1]
    exact h.log
  held c := by
    rw [State.cluster_updC]
    split
    · rw [(hf _).2.2]; exact h.held _
    · exact h.held c
  devHeld := h.devHeld
  dir := h.dir
  copies := by rw [State.cluster_updC, if_pos rfl]; exact hcopies
  devCopies := h.devCopies

/-- The copies of the party's cluster may change while they agree with what stands at home. -/
theorem State.Resting.updL1 (h : s0.Resting w before t) {f : Cluster → Cluster} (hf : ∀ k, f k = { k with l1 := (f k).l1 })
    (hcopies : CopiesAgree s0 w (f (t.cluster w.c)).l1) : s0.Resting w before (t.updC w.c f) :=
  h.updC (fun k => by rw [hf k]; exact ⟨rfl, rfl, rfl⟩) hcopies

/-- The checks of an address may bring its attributes to the cluster's CTB (R157). -/
theorem State.Resting.attrs (h : s0.Resting w before t) (asid va : Nat) : s0.Resting w before (t.attrs w.c asid va).2 := by
  have hput (u : State) (hu : s0.Resting w before u) (e : CtbEntry) : s0.Resting w before (u.updC w.c fun k => k.ctbPut e) :=
    hu.updC (fun _ => ⟨rfl, rfl, rfl⟩) hu.copies
  unfold State.attrs
  extract_lets a
  split
  · exact hput t h _
  · have hport : s0.Resting w before (t.portLeaf a va false).2 := h.of_sansDies (t.sansDies_portLeaf a va false)
    generalize t.portLeaf a va false = r at hport ⊢
    obtain ⟨leaf, s1⟩ := r
    cases leaf with
    | bad c x => exact hport
    | leaf l =>
      have hentry : s0.Resting w before (s1.asidEntry (homeDie a va) a).2 := State.Resting.of_sansDies hport (s1.sansDies_asidEntry _ _)
      dsimp only
      generalize s1.asidEntry (homeDie a va) a = r at hentry ⊢
      obtain ⟨e, s2⟩ := r
      dsimp only
      split
      · exact hentry
      · exact hput s2 hentry _

theorem State.Resting.refill (h : s0.Resting w before t) (addrs : List DWord) : s0.Resting w before (t.refill w addrs) := by
  unfold State.refill
  refine List.foldlRecOn _ _ h fun u hu a _ => ?_
  split
  · exact hu.attrs _ _
  · exact hu

theorem State.Resting.passTs (h : s0.Resting w before t) (j : Nat) : s0.Resting w before (t.passTs j) :=
  (h.stamps t.lineTs (t.tsTop + 1)).updG fun _ _ => rfl

theorem State.Resting.tsLoad (h : s0.Resting w before t) (asid va ts : Nat) : s0.Resting w before (t.tsLoad asid va ts).2 := h.stamps _ _

theorem State.Resting.tsStore (h : s0.Resting w before t) (asid va ts : Nat) : s0.Resting w before (t.tsStore asid va ts).2 := h.stamps _ _

theorem State.Resting.stamp (h : s0.Resting w before t) (va : Nat) (store : Bool) (tick : Nat) : s0.Resting w before (t.stamp w va store tick) := by
  unfold State.stamp
  split
  · exact h
  · split
    · exact (h.of_sansDies (t.sansDies_isRemote w.asid va)).passTs w.gid
    · refine State.Resting.updG ?_ fun _ _ => rfl
      split
      · exact h.tsStore _ _ _
      · exact h.tsLoad _ _ _

theorem State.Resting.acquire (h : s0.Resting w before t) : s0.Resting w before (t.acquire w.c) :=
  { h.updL1 (f := fun k => { k with l1 := [] }) (fun _ => rfl) (CopiesAgree.nil s0 w) with devCopies := fun _ _ _ h => nomatch h }

theorem State.Resting.acquireBy (h : s0.Resting w before t) : s0.Resting w before (t.acquireBy w.gid w.c) := h.acquire.passTs w.gid

theorem State.Resting.dropCopies (h : s0.Resting w before t) (asid va : Nat) : s0.Resting w before (t.dropCopies w.c asid va) :=
  h.updL1 (fun _ => rfl) (h.copies.delIf fun x => decide (x % 2 ^ 65 = lineKey asid va))

theorem State.Resting.publishLine (h : s0.Resting w before t) (asid va : Nat) : t.publishLine w.c asid va = t :=
  State.publishLine_nothing (h.held w.c) h.devHeld asid va

/-- What an access at the home asks of the L1 first drops copies alone. -/
theorem State.Resting.clearLines (h : s0.Resting w before t) (va n : Nat) : s0.Resting w before (t.clearLines w va n) := by
  unfold State.clearLines
  refine List.foldlRecOn _ _ h fun u hu x _ => ?_
  rw [hu.publishLine]
  exact hu.dropCopies _ _

theorem State.Resting.linesHeld (h : s0.Resting w before t) (va n : Nat) : t.linesHeld w va n = false := by
  simp [State.linesHeld, State.lineHeld, State.holdsLine, h.held, h.devHeld]

theorem State.Resting.gather (h : s0.Resting w before t) (vas : List Nat) (n : Nat) (stream : Bool) (scope : Nat) :
    s0.Resting w before (t.gather w vas n stream scope) := by
  unfold State.gather
  split
  · exact h.clearLines _ _
  · exact h

/-- With nothing held, room for a line is made by dropping a copy. -/
theorem State.Resting.l1Room (h : s0.Resting w before t) (asid va : Nat) : s0.Resting w before (t.l1Room w.c asid va) := by
  unfold State.l1Room
  simp only [h.held w.c, List.filter_nil, List.map_nil]
  split
  · exact h
  · split
    · exact h.updL1 (fun _ => rfl) (h.copies.del _)
    · exact h

theorem State.Resting.verOf (h : s0.Resting w before t) (lid asid va : Nat) : t.verOf lid asid va = s0.verOf lid asid va := State.verOf_congr h.launches ..

theorem State.Resting.sector (h : s0.Resting w before t) (lid asid va : Nat) : t.homeSector lid asid va = s0.homeSector lid asid va :=
  State.homeSector_congr h.l2 h.launches ..

/-- A copy of a line is taken of what stands at home. -/
theorem State.Resting.l1Fill (h : s0.Resting w before t) {va : Nat} (hva : va < 2 ^ 56) :
    s0.Resting w before (t.l1Fill w.c w.lid (canonAsid w.asid va) va) := by
  unfold State.l1Fill
  extract_lets ver line data s1 tsl
  have hroom : s0.Resting w before s1 := h.l1Room _ _
  split
  · exact h
  · refine hroom.updL1 (fun _ => rfl) ?_
    have hkey : wayKey ver (canonAsid w.asid va) va = s0.copyKey w va := by
      rw [State.copyKey, ← h.verOf]
    rw [hkey]
    refine hroom.copies.put hva rfl fun x hx hline d hd => ?_
    obtain ⟨i, -, hi⟩ := List.mem_filterMap.1 (find_mem hd)
    obtain ⟨y, hy, hyd⟩ := Option.bind_eq_some_iff.1 hi
    have hline' : (line + 16 * i) / 128 = va / 128 ∧ (line + 16 * i) / 16 = x / 16 ∧ d = y.data := by
      split at hyd
      · cases hyd
      · cases hyd
        exact ⟨by omega, by omega, rfl⟩
    obtain ⟨hsame, hsector, rfl⟩ := hline'
    refine ⟨y, ?_, fun _ _ => rfl⟩
    rw [← State.homeSector_eq s0 w.lid w.asid hsector, State.homeSector, canonAsid_line w.asid hsame, s0.verOf_line _ _ hsame, ← h.l2, ← h.verOf]
    exact hy

/-- A sector of another device's line that stands at home becomes a copy. -/
theorem State.Resting.l1FillRemote (h : s0.Resting w before t) {q : Req} (hlid : q.lid = w.lid) (hasid : q.asid = w.asid) {va : Nat} (hva : va < 2 ^ 56)
    {y : Sector} (hy : s0.homeSector w.lid w.asid va = some y) (hclean : y.poison = false) : s0.Resting w before (t.l1FillRemote w.c q va) := by
  have hhome : t.AtHome q.lid q.asid (va / 16 * 16) 16 := {
    pos := by decide
    small := le_rfl
    below := by omega
    region := by simp only [inShared, Bool.beq_eq_decide_eq, decide_eq_decide]; omega
    sectors := fun k hk => ⟨y, by rw [hlid, hasid, h.sector, State.homeSector_eq s0 _ _ (show (va / 16 * 16 + k) / 16 = va / 16 by omega)]; exact hy, hclean⟩ }
  unfold State.l1FillRemote
  extract_lets asid
  rw [hhome.homeRead]
  dsimp -zeta only
  extract_lets s2 k l
  have hroom : s0.Resting w before s2 := h.l1Room _ _
  have hkey : k = s0.copyKey w va := by rw [State.copyKey, ← hroom.verOf, ← hasid, ← hlid]
  split
  · refine hroom.updL1 (fun _ => rfl) ?_
    rw [hkey]
    have hgood : l.bad = 0 := by
      simp only [l, getD_eq_find]
      cases hl : find (s2.cluster w.c).l1 k with
      | none => rfl
      | some l' => exact hroom.copies.good k l' hl
    refine hroom.copies.put hva hgood fun x hx hline d hd => ?_
    have hold : l.Agrees s0 w x := by
      have hcopies := hroom.copies.agree x hx
      rw [State.copyKey_line s0 w hline, ← hkey] at hcopies
      simp only [l, getD_eq_find]
      cases hl : find (s2.cluster w.c).l1 k with
      | none => exact fun _ h => nomatch h
      | some l' => exact hcopies l' hl
    rw [find_put] at hd
    split at hd
    · next hsec =>
      have hsector : x / 16 = va / 16 := by omega
      have hyt : t.homeSector q.lid q.asid va = some y := by rw [hlid, hasid, h.sector, hy]
      refine ⟨y, (State.homeSector_eq s0 _ _ hsector).trans hy, fun i hi => ?_⟩
      rw [← Option.some.inj hd]
      exact hhome.sectorByte_whole hyt hi
    · exact hold d hd
  · exact hroom

theorem mem_lineEnds {va n x : Nat} (hpos : 0 < n) (h : x ∈ lineEnds va n) : ∃ k < n, x = va + k := by
  unfold lineEnds at h
  split at h
  · exact ⟨0, hpos, List.mem_singleton.1 h⟩
  · simp only [List.mem_cons, List.not_mem_nil, or_false] at h
    rcases h with rfl | rfl
    · exact ⟨0, hpos, rfl⟩
    · exact ⟨n - 1, by omega, by omega⟩

section
variable {va n : Nat} (h : s0.Resting w before t) (hat : s0.AtHome w.lid w.asid va n)
include h hat

/-- The copies of a load's lines are taken of what stands at home. -/
theorem State.Resting.fillL1 {q : Req} (hlid : q.lid = w.lid) (hasid : q.asid = w.asid) (bypass : Bool) : s0.Resting w before (t.fillL1 w q va n bypass) := by
  have hbelow := hat.below
  unfold State.fillL1
  split
  · exact h
  · split
    · refine List.foldlRecOn _ _ h fun u hu p hp => ?_
      obtain ⟨hle, hpos, hend, -⟩ := mem_pieces hat.small hp
      obtain ⟨y, hy, hclean⟩ := hat.piece hp
      exact hu.l1FillRemote hlid hasid (by omega) hy hclean
    · refine List.foldlRecOn _ _ h fun u hu x hx => ?_
      obtain ⟨k, hk, rfl⟩ := mem_lineEnds hat.pos hx
      exact hu.l1Fill (by omega)

/-- The state as its own base has the same bytes at home. -/
theorem State.Resting.homeRead {q : Req} (hlid : q.lid = w.lid) (hasid : q.asid = w.asid) : t.homeRead q va n = (.ok (s0.homeBytes w.lid w.asid va n), t) := by
  have hat' : t.AtHome q.lid q.asid va n := by rw [hlid, hasid]; exact hat.congr h.l2 h.launches
  rw [hat'.homeRead, hlid, hasid, State.homeBytes_congr h.l2 h.launches]

/-- Another device's bytes, from this device's copies or the home. -/
theorem State.Resting.farLoad {q : Req} (hlid : q.lid = w.lid) (hasid : q.asid = w.asid) :
    ∃ t', t.farLoad q va n = (.ok (s0.homeBytes w.lid w.asid va n), t') ∧ s0.Resting w before t' := by
  have hbelow := hat.below
  have hpos := hat.pos
  have hnone : ((List.range n).all fun _ => false) = false := by
    rw [List.all_eq_false]
    exact ⟨0, List.mem_range.2 hpos, Bool.false_ne_true⟩
  simp only [State.farLoad, h.devHeld, find, Option.isSome_none, Option.isNone_none, hnone, Bool.false_or, hasid]
  split
  · next hall =>
    refine ⟨t, ?_, h⟩
    refine congrArg (fun bs => (Acc.ok bs, t)) (List.map_congr_left fun i hi => ?_)
    simp only [Bool.and_eq_true, List.all_eq_true] at hall
    obtain ⟨b, hb⟩ := Option.isSome_iff_exists.1 (hall.2 i hi)
    have hi' := List.mem_range.1 hi
    have hcopy := h.devCopies (va + i) (by omega) b
    rw [hat.canon hi'] at hcopy
    rw [hb, Option.getD_some, hcopy hb]
  · rw [State.publishDev_nothing h.devHeld, h.homeRead hat hlid hasid]
    refine ⟨_, rfl, { h with devCopies := ?_ }⟩
    refine List.foldlRecOn (motive := DevCopiesAgree s0 w) _ _ h.devCopies fun m hm i hi x hx b hb => ?_
    have hi' := List.mem_range.1 hi
    rw [find_put] at hb
    split at hb
    · next hkey =>
      obtain rfl : x = va + i := address_of_l1key hx (by omega) hkey
      rw [← Option.some.inj hb, State.homeBytes, List.getD_eq_getElem _ _ (by simpa using hi'), List.getElem_map, List.getElem_range, hat.canon hi']
    · exact hm x hx b hb

omit hat in
/-- No byte that the L1 gives is poisoned. -/
theorem State.Resting.l1Bad (lid asid va n : Nat) : t.l1Bad w.c lid asid va n = false := by
  unfold State.l1Bad
  rw [List.any_eq_false]
  intro i _
  rw [h.held]
  cases hl : find (t.cluster w.c).l1 (wayKey (t.verOf lid asid va) asid (va + i)) with
  | none => exact Bool.false_ne_true
  | some l => simp [find, h.copies.good _ l hl]

omit hat in
theorem State.Resting.l1Answer (va n : Nat) (bs : List Byte) : t.l1Answer w va n bs = .ok bs := by
  rw [State.l1Answer, h.l1Bad]; rfl

omit hat in
theorem State.Resting.countBad (va n : Nat) : t.countBad w va n = t := by
  rw [State.countBad, h.l1Bad]; rfl

/-- A copy's byte is the byte at home. -/
theorem State.Resting.copyByte {k : Nat} (hk : k < n) {l : L1Line} (hl : find (t.cluster w.c).l1 (s0.copyKey w (va + k)) = some l) {d : BitVec 128}
    (hd : find l.data ((va + k) / 16 % 8) = some d) : sectorByte d ((va + k) % 16) = s0.homeByte w.lid (canonAsid w.asid va) (va + k) := by
  have hbelow := hat.below
  obtain ⟨x, hx, hbytes⟩ := h.copies.agree (va + k) (by omega) l hl d hd
  rw [hat.homeByte hk hx]
  exact hbytes _ (Nat.mod_lt _ (by decide))

/-- A stream load that the L1 serves reads copies of its bytes. -/
theorem State.Resting.l1Byte {scope tick : Nat} (hserves : t.l1Serves w va n true scope tick = true) {k : Nat} (hk : k < n) :
    t.l1Byte w.c w.lid (canonAsid w.asid va) (va + k) = some (s0.homeByte w.lid (canonAsid w.asid va) (va + k)) := by
  have hbelow := hat.below
  have hheld (x : Nat) : t.l1Held w.c w.lid (canonAsid w.asid va) x = none := by rw [State.l1Held, h.held]; rfl
  simp only [State.l1Serves, if_true, Bool.and_eq_true, List.all_eq_true, hheld] at hserves
  obtain ⟨p, hp, hlo, hhi⟩ := exists_piece (va := va) hk
  obtain ⟨hle, hpos, hend, hsec⟩ := mem_pieces hat.small hp
  have hsome : (t.l1Sector w.c w.lid (canonAsid w.asid va) p.1).isSome = true := by
    have hp' := hserves.2 p hp
    have hno : ((List.range p.2).all fun _ => (none : Option Byte).isSome) = false := by
      rw [List.all_eq_false]
      exact ⟨0, List.mem_range.2 hpos, Bool.false_ne_true⟩
    rw [hno, Bool.false_or, Bool.and_eq_true] at hp'
    exact hp'.1
  have hsame : p.1 / 128 = (va + k) / 128 := by omega
  have hidx : p.1 / 16 % 8 = (va + k) / 16 % 8 := by omega
  have hsector : t.l1Sector w.c w.lid (canonAsid w.asid va) (va + k) = t.l1Sector w.c w.lid (canonAsid w.asid va) p.1 := by
    simp only [State.l1Sector, hidx, wayKey, hsame, t.verOf_line _ _ hsame]
  rw [← hsector] at hsome
  obtain ⟨d, hd⟩ := Option.isSome_iff_exists.1 hsome
  obtain ⟨l, hl, hdata⟩ := Option.bind_eq_some_iff.1 hd
  rw [h.verOf, ← hat.canon hk] at hl
  simp only [State.l1Byte, hheld, hd, Option.map_some]
  rw [h.copyByte hat hk hl hdata]

/-- So does an ordinary load that a leased copy serves. -/
theorem State.Resting.leased {tick top : Nat} {bs : List Byte} (hl : t.leased w va n tick = some (top, bs)) : bs = s0.homeBytes w.lid w.asid va n := by
  unfold State.leased at hl
  dsimp only at hl
  split at hl
  · next g l hg hline =>
    split at hl
    · next hone =>
      obtain ⟨d, hd, heq⟩ := Option.map_eq_some_iff.1 hl
      rw [← (Prod.mk.inj heq).2]
      refine List.map_congr_left fun i hi => ?_
      have hi' := List.mem_range.1 hi
      have hsec : va / 16 = (va + i) / 16 := by omega
      have hbyte : va % 16 + i = (va + i) % 16 := by omega
      rw [hbyte]
      refine h.copyByte hat hi' (l := l) ?_ (by rw [← hsec]; exact hd)
      rw [State.copyKey_line s0 w (show (va + i) / 128 = va / 128 by omega), State.copyKey, ← h.verOf]
      exact hline
    · cases hl
  · cases hl

/-- A load of bytes that stand at their home answers them, whoever serves it. -/
theorem State.Resting.loadNow (stream : Bool) (scope : Nat) (bypass : Bool) (tick : Nat) (kind : AccKind) :
    ∃ t', t.loadNow w va n stream scope bypass tick kind = (.ok (s0.homeBytes w.lid w.asid va n), t') ∧ s0.Resting w before t' := by
  have hbytes (bs : List Byte) (hbs : bs = s0.homeBytes w.lid w.asid va n) {u : State} (hu : s0.Resting w before u) :
      ∃ t', (Acc.ok bs, u) = (.ok (s0.homeBytes w.lid w.asid va n), t') ∧ s0.Resting w before t' := ⟨u, by rw [hbs], hu⟩
  unfold State.loadNow
  extract_lets a q s1
  split
  · next hserves =>
    obtain ⟨rfl, hserves⟩ := Bool.and_eq_true_iff.1 hserves
    rw [h.l1Answer, h.countBad]
    refine hbytes _ (List.map_congr_left fun k hk => ?_) h
    rw [h.l1Byte hat hserves (List.mem_range.1 hk), Option.getD_some]
  · split
    · next hserves =>
      obtain ⟨hstream, hserves⟩ := Bool.and_eq_true_iff.1 hserves
      obtain rfl : stream = false := by simpa using hstream
      simp only [State.l1Serves, Bool.false_eq_true, if_false, Bool.and_eq_true] at hserves
      obtain ⟨⟨top, bs⟩, hl⟩ := Option.isSome_iff_exists.1 hserves.2
      have hu : s0.Resting w before (({ t with tsTop := max t.tsTop top } : State).updG w.gid fun g => { g with ts := top }) :=
        (h.stamps t.lineTs _).updG fun _ _ => rfl
      simp only [hl]
      rw [h.l1Answer, hu.countBad]
      exact hbytes _ (h.leased hat hl) hu
    · have hs1 : s0.Resting w before s1 := h.clearLines va n
      rw [hs1.linesHeld, if_neg Bool.false_ne_true]
      split
      · split
        · exact State.Resting.farLoad (hs1.of_sansDies (s1.sansDies_translated w.asid va)) hat rfl rfl
        · rw [hs1.homeRead hat rfl rfl]
          exact hbytes _ rfl hs1
      · rw [hs1.homeRead hat rfl rfl]
        refine hbytes _ rfl (State.Resting.fillL1 ?_ hat rfl rfl _)
        split
        · exact hs1
        · exact List.foldlRecOn _ _ hs1 fun u hu x _ => hu.stamp x false tick

/-- So does an acquire load: nobody holds anything to be published first. -/
theorem State.Resting.acquireNow (stream : Bool) (scope : Nat) :
    ∃ t', t.acquireNow w va n stream scope = (.ok (s0.homeBytes w.lid w.asid va n), t') ∧ s0.Resting w before t' := by
  obtain ⟨t', ht', hrest⟩ := h.acquire.loadNow hat stream scope true 1 .load
  have helse (c asid va : Nat) : t.heldElsewhere c asid va = false := by rw [State.heldElsewhere, h.dir]; rfl
  refine ⟨t'.acquireBy w.gid w.c, ?_, hrest.acquireBy⟩
  simp only [State.acquireNow, State.forcePublish_nothing h.dir, helse, Bool.false_eq_true, if_false, ht']

end

end

end Sys2Proof.Machine
end

section
/-!
SUPPORT. Global loads of a group whose accesses all perform, and of one whose bytes stand at home (R144, R146, R149, R253).
-/
namespace Sys2Proof.Machine
open Sys2Proof

/-! ### What the checks and the premises give -/

theorem nbytes_pos (size : Nat) : 0 < nbytes size := by
  unfold nbytes
  split
  · decide
  · exact Nat.two_pow_pos size

theorem nbytes_le {size : Nat} (h : size ≤ 5) : nbytes size ≤ 16 := by
  interval_cases size <;> decide

/-- An access that passes the checks of R157 ends below the top of the address space. -/
theorem State.below_of_accFault {s : State} {w : Who} {k : AccKind} {addr : DWord} {n : Nat} {bad : Bool} (h : s.accFault w k addr n bad = none)
    (hn : n ≤ 16) : addr.toNat + n ≤ 2 ^ 56 := by
  unfold State.accFault at h
  extract_lets va ends ats at h
  split at h
  · cases h
  · next hlow =>
    have hva : addr.toNat = va := rfl
    rw [hva]
    by_contra hover
    have hends : ends = [va, va + n - 1] := if_neg (by omega)
    have hbad : (.error (0x10, 0) : Except (Nat × Nat) CtbEntry) ∈ ats := by
      refine List.mem_map.2 ⟨va + n - 1, by simp [hends], if_pos (by omega)⟩
    split at h
    · cases h
    · next hnone =>
      rw [List.findSome?_eq_none_iff] at hnone
      exact absurd (hnone _ hbad) (by simp)

/-- A quiet group and memory are at rest, as the issue leaves them. -/
theorem State.Resting.of_quietHome {s : State} {gid : Nat} {g x : Group} {w : Who} (h : quietHome s gid g) (hg : find s.groups gid = some g)
    (hx : x.replay = g.replay) (hgid : w.gid = gid) (hc : w.c = g.cluster) (hsp : w.sp = g.sp) : s.Resting w s.order (s.setG gid x) := by
  obtain ⟨hwait, hlog, hl1, hheld, hdevHeld, hdevCopy, hdir⟩ := h
  have hself : s.Resting w s.order s := {
    mem := rfl, l2 := rfl, launches := rfl, order := rfl
    waiting := by rw [hgid]; exact hwait
    log := by rw [hc, hsp]; exact hlog
    held := hheld, devHeld := hdevHeld, dir := hdir
    copies := by rw [hc, hl1]; exact CopiesAgree.nil s w
    devCopies := by rw [hdevCopy]; exact fun _ _ _ h => nomatch h }
  refine hself.updG fun y hy => ?_
  obtain rfl : g = y := Option.some.inj (hg.symm.trans hy)
  exact hx

theorem Group.begun_replay (g : Group) (pc : DWord) : (g.begun pc).replay = g.replay := by rw [Group.begun_eq]

theorem Group.ready_replay (g : Group) (pc : DWord) : (g.ready pc).replay = g.replay := by
  unfold Group.ready
  split <;> rfl

/-- Where nothing of the party waits and its side log is empty, an access is performed in its turn at once. -/
theorem State.Resting.inTurn {s0 t : State} {w : Who} {before : Nat} (h : s0.Resting w before t) (y : AccOp) (f : State → Acc × State) :
    inTurn w before y f t = f t := by
  refine inTurn_of_quiet h.waiting ?_ f
  simp [State.pageLogged, h.log]

/-! ### Hints -/

/-- The hints of an access read of the state before it only the line uses, the versions and what the L1 serves. -/
theorem State.settleHints_congr {s1 s2 : State} {w : Who} (huse : s2.lineUse = s1.lineUse) (hla : s2.launches = s1.launches)
    (hserves : ∀ va n stream scope, s2.l1Serves w va n stream scope = s1.l1Serves w va n stream scope) (s : State) (vas : List Nat) (n : Nat)
    (stream : Bool) (scope rc grain pol : Nat) (loads : Bool) :
    s.settleHints s2 w vas n stream scope rc grain pol loads = s.settleHints s1 w vas n stream scope rc grain pol loads := by
  simp only [State.settleHints, huse, State.verOf_congr hla, hserves]

section
variable {s : State} {j : Nat} {f : Group → Group}

/-- The launch of a party is that of its group's block. -/
theorem State.lidOfParty_updG (hbid : ∀ g, (f g).bid = g.bid) (p : Nat) : (s.updG j f).lidOfParty p = s.lidOfParty p := by
  have hblock (g : Group) : (s.updG j f).blockOf (f g) = s.blockOf g := by simp [State.blockOf, hbid]
  simp only [State.lidOfParty, State.find_updG]
  by_cases hj : p = j
  · subst hj
    rw [if_pos rfl]
    cases find s.groups p with
    | none => rfl
    | some g => simp only [Option.map_some, hblock]
  · rw [if_neg hj]
    rfl

theorem State.leased_updG (hts : ∀ g, (f g).ts = g.ts) (w : Who) (va n tick : Nat) : (s.updG j f).leased w va n tick = s.leased w va n tick := by
  have hline : find ((s.updG j f).cluster w.c).l1 (wayKey ((s.updG j f).verOf w.lid (canonAsid w.asid va) va) (canonAsid w.asid va) va) =
    find (s.cluster w.c).l1 (wayKey (s.verOf w.lid (canonAsid w.asid va) va) (canonAsid w.asid va) va) := rfl
  simp only [State.leased, State.find_updG, hline]
  by_cases hj : w.gid = j
  · subst hj
    rw [if_pos rfl]
    cases find s.groups w.gid with
    | none => rfl
    | some g =>
      simp only [Option.map_some]
      cases find (s.cluster w.c).l1 (wayKey (s.verOf w.lid (canonAsid w.asid va) va) (canonAsid w.asid va) va) with
      | none => rfl
      | some l => simp only [hts]
  · rw [if_neg hj]

/-- What an L1 serves depends of a group on its block and its timestamp alone. -/
theorem State.l1Serves_updG (hts : ∀ g, (f g).ts = g.ts) (hbid : ∀ g, (f g).bid = g.bid) (w : Who) (va n : Nat) (stream : Bool) (scope : Nat) :
    (s.updG j f).l1Serves w va n stream scope = s.l1Serves w va n stream scope := by
  have hheld (c lid asid va : Nat) : (s.updG j f).l1Held c lid asid va = s.l1Held c lid asid va := by
    simp only [State.l1Held, State.lidOfParty_updG hbid]
    rfl
  simp only [State.l1Serves, hheld, State.leased_updG hts]
  rfl

theorem State.settleHints_updG (hts : ∀ g, (f g).ts = g.ts) (hbid : ∀ g, (f g).bid = g.bid) (t : State) (w : Who) (vas : List Nat) (n : Nat)
    (stream : Bool) (scope rc grain pol : Nat) (loads : Bool) :
    t.settleHints (s.updG j f) w vas n stream scope rc grain pol loads = t.settleHints s w vas n stream scope rc grain pol loads :=
  State.settleHints_congr (s1 := s) (s2 := s.updG j f) rfl rfl (State.l1Serves_updG hts hbid w) t vas n stream scope rc grain pol loads

end

/-! ### The loads -/

/-- A load that performs in its turn adds its results. -/
theorem Ran.load_performs {r : Ran} {w : Who} {y : AccOp} {f : State → Acc × State} {bs : List Byte} {t : State} (hw : r.waiting = [])
    (h : inTurn w r.before y f r.s = (.ok bs, t)) (l : Nat) (ws : List Byte → List (Dest × Word)) :
    r.load w l y ws f = { r with s := t, writes := r.writes ++ ws bs } := by
  rw [Ran.load, Ran.attempt_eq_inTurn hw, h]

section
variable {s : State} {gid : Nat} {pc : DWord} {g : Group}

/-- A per-lane load whose accesses all perform binds what they read (R54, R142, R144). -/
theorem laneLoad_performs {i : Instr} {f : MForm} (signed acquire : Bool) {v : Nat → List Byte} {t : State}
    (h : Ready s gid pc g i f.sw (mUses f.bc f.d (dataRegs f.size) f.base)) :
    let stream : Bool := decide (f.cls = 1)
    clearRoad s g stream →
    let it := g.issueAt gid pc 8 f.g
    let w := s.who it
    let n := nbytes f.size
    let addr (l : Nat) : DWord := g.laneAddr f.bc f.base f.size f.off l
    let bad (l : Nat) : Bool := if acquire then decide ((addr l).toNat % n ≠ 0) else lineBad g f.base f.off f.size
    let s1 := (s.setG gid (g.begun pc)).refill w ((lanesOf it.E).map addr)
    (∀ l ∈ lanesOf it.E, s1.accFault w .load (addr l) n (bad l) = none) →
    let s2 := if acquire = true ∧ it.E ≠ 0#32 then s1.updG gid fun g => { g with acqAt := s1.order } else s1
    let vas : List Nat := (lanesOf it.E).map fun l => (addr l).toNat
    let s3 := if acquire then s2 else s2.gather w vas n stream f.scope
    let read (l : Nat) (s : State) : Acc × State :=
      if acquire then s.acquireNow w (addr l).toNat n stream f.scope
      else s.loadNow w (addr l).toNat n stream f.scope (decide (f.pol = 1)) (tickOf vas n (decide ((lanesOf it.E).headD 0 = l)))
    Performs (fun s l => inTurn w s3.order (accAt i (addr l).toNat) (read l) s) s3 (lanesOf it.E) v t →
    laneLoad i f signed acquire s = .next ((t.settleHints s2 w vas n stream f.scope f.rc f.grain f.pol true).performed
      gid it.I (asPc (pc + 8#64)) ((lanesOf it.E).flatMap fun l => vecWrites l f.d (loadWords f.size signed (v l)))) := by
  intro stream hroad it w n addr bad s1 hok s2 vas s3 read hall
  have hcls : decide (f.cls.val = 1) = stream := by simp [stream, Fin.ext_iff]
  have hpol : decide (f.pol.val = 1) = decide (f.pol = 1) := by simp [Fin.ext_iff]
  have hwait := mustWait_of_clearRoad (gid := gid) (pc := pc) (len := 8) (gd := f.g) hroad
  obtain ⟨-, -, hroom⟩ := hroad
  have hsafe : ∀ l < 32, has it.E l → s1.accFault w .load (addr l) n (bad l) = none := fun l _ hE => hok l (mem_lanesOf_iff_has.2 hE)
  have hs2 : (if (acquire && it.E != 0#32) = true then s1.updG gid fun g => { g with acqAt := s1.order } else s1) = s2 :=
    if_congr (by simp) rfl rfl
  have hrun := runLanes_loads_perform (it := it) (fun l bs => vecWrites l f.d (loadWords f.size signed bs)) hall
  rw [laneLoad, h.runs f.g 8]
  simp only [hcls, hpol, hwait, Group.issueAt_g, Bool.false_eq_true, if_false]
  change Host.Outcome.next (it.guarded s s1 (fun l => s1.accFault w .load (addr l) n (bad l)) _) = _
  rw [Issue.guarded_acts hsafe]
  refine congrArg Host.Outcome.next ?_
  change (fun s4 : State => (fun r : Ran => { r with s := r.s.settleHints s4 w vas n stream f.scope f.rc f.grain f.pol true }.finish s it w i false false)
    (runLanes (if acquire then s4 else s4.gather w vas n stream f.scope) it it.E fun r l =>
      r.load w l (accAt i (addr l).toNat) (fun bs => vecWrites l f.d (loadWords f.size signed bs)) (read l)))
    (if (acquire && it.E != 0#32) = true then s1.updG gid fun g => { g with acqAt := s1.order } else s1) = _
  rw [hs2]
  dsimp only
  rw [show runLanes (if acquire then s2 else s2.gather w vas n stream f.scope) it it.E _ = _ from hrun, Ran.finish_performed hroom rfl rfl rfl rfl]
  rfl

/-- At a memory at rest it completes: each lane reads the bytes at home. -/
theorem laneLoad_at_home {i : Instr} {f : MForm} (signed acquire : Bool)
    (h : Ready s gid pc g i f.sw (mUses f.bc f.d (dataRegs f.size) f.base)) (hsize : f.size.val ≤ 5) (hroad : clearRoad s g (decide (f.cls = 1))) :
    let it := g.issueAt gid pc 8 f.g
    let w := s.who it
    let n := nbytes f.size
    let addr (l : Nat) : DWord := g.laneAddr f.bc f.base f.size f.off l
    let bad (l : Nat) : Bool := if acquire then decide ((addr l).toNat % n ≠ 0) else lineBad g f.base f.off f.size
    let s1 := (s.setG gid (g.begun pc)).refill w ((lanesOf it.E).map addr)
    (∀ l ∈ lanesOf it.E, s1.accFault w .load (addr l) n (bad l) = none) →
    quietHome s gid g → (∀ l ∈ lanesOf it.E, atHome s w (addr l).toNat n) →
    ∃ t : State, t.mem = s.mem ∧ t.l2 = s.l2 ∧
      laneLoad i f signed acquire s =
        .next ((t.settleHints s1 w ((lanesOf it.E).map fun l => (addr l).toNat) n (decide (f.cls = 1)) f.scope f.rc f.grain f.pol true).performed
          gid it.I (asPc (pc + 8#64)) ((lanesOf it.E).flatMap fun l => vecWrites l f.d (loadWords f.size signed
            ((List.range n).map fun k => s.homeByte w.lid (canonAsid w.asid (addr l).toNat) ((addr l).toNat + k))))) := by
  intro it w n addr bad s1 hok hquiet hat
  have hn : n ≤ 16 := nbytes_le hsize
  have hhome : ∀ l ∈ lanesOf it.E, s.AtHome w.lid w.asid (addr l).toNat n := fun l hl =>
    .of_atHome (hat l hl) (nbytes_pos _) hn (State.below_of_accFault (hok l hl) hn)
  have hrest : s.Resting w s.order s1 := State.Resting.refill (.of_quietHome hquiet h.here (g.begun_replay pc) rfl rfl rfl) _
  let s2 := if acquire = true ∧ it.E ≠ 0#32 then s1.updG gid fun g => { g with acqAt := s1.order } else s1
  let vas : List Nat := (lanesOf it.E).map fun l => (addr l).toNat
  have hrest2 : s.Resting w s.order s2 := by
    simp only [s2]
    split
    · exact hrest.updG fun _ _ => rfl
    · exact hrest
  let s3 := if acquire then s2 else s2.gather w vas n (decide (f.cls = 1)) f.scope
  have hrest3 : s.Resting w s.order s3 := by
    simp only [s3]
    split
    · exact hrest2
    · exact hrest2.gather _ _ _ _
  let read (l : Nat) (s : State) : Acc × State :=
    if acquire then s.acquireNow w (addr l).toNat n (decide (f.cls = 1)) f.scope
    else s.loadNow w (addr l).toNat n (decide (f.cls = 1)) f.scope (decide (f.pol = 1)) (tickOf vas n (decide ((lanesOf it.E).headD 0 = l)))
  have hstep : ∀ l ∈ lanesOf it.E, ∀ t, s.Resting w s.order t → ∃ bs t', inTurn w s3.order (accAt i (addr l).toNat) (read l) t = (.ok bs, t') ∧
      s.Resting w s.order t' ∧ bs = s.homeBytes w.lid w.asid (addr l).toNat n := by
    intro l hl t ht
    have hread : ∃ t', read l t = (.ok (s.homeBytes w.lid w.asid (addr l).toNat n), t') ∧ s.Resting w s.order t' := by
      simp only [read]
      split
      · exact ht.acquireNow (hhome l hl) _ _
      · exact ht.loadNow (hhome l hl) _ _ _ _ _
    obtain ⟨t', hread, ht'⟩ := hread
    exact ⟨_, t', by rw [hrest3.order, ht.inTurn, hread], ht', rfl⟩
  obtain ⟨v, t, hall, hv⟩ := exists_performs (op := fun s l => inTurn w s3.order (accAt i (addr l).toNat) (read l) s) (nodup_lanesOf it.E) hrest3 hstep
  have hend : s.Resting w s.order t := hall.keeps (fun l hl u bs u' hu hop => by
    obtain ⟨bs', t', hop', ht', -⟩ := hstep l hl u hu
    obtain ⟨-, rfl⟩ := Prod.mk.inj (hop.symm.trans hop')
    exact ht') hrest3
  have hhints : t.settleHints s2 w vas n (decide (f.cls = 1)) f.scope f.rc f.grain f.pol true =
      t.settleHints s1 w vas n (decide (f.cls = 1)) f.scope f.rc f.grain f.pol true := by
    simp only [s2]
    split
    · rw [State.settleHints_updG]
      · exact fun _ => rfl
      · exact fun _ => rfl
    · rfl
  have hvalues : ((lanesOf it.E).flatMap fun l => vecWrites l f.d (loadWords f.size signed (v l))) =
      (lanesOf it.E).flatMap fun l => vecWrites l f.d (loadWords f.size signed (s.homeBytes w.lid w.asid (addr l).toNat n)) :=
    List.flatMap_congr fun l hl => by rw [hv l hl]
  refine ⟨t, hend.mem, hend.l2, (laneLoad_performs signed acquire h hroad hok hall).trans ?_⟩
  rw [hhints, hvalues]
  rfl

/-- `ldbc` whose one access performs binds what it reads in every executing lane (R146). -/
theorem exec_ldbc_performs {f : MForm} {bs : List Byte} {t : State}
    (h : Ready s gid pc g (.ldbc f) f.sw { v := regRun f.d (dataRegs f.size), s := [f.base, f.base + 1] }) :
    let stream : Bool := decide (f.cls = 1)
    clearRoad s g stream →
    let it := g.issueAt gid pc 8 f.g
    let w := s.who it
    let n := nbytes f.size
    let addr := uniAddr (g.sreg64 f.base) f.off
    let s1 := (s.setG gid (g.begun pc)).refill w [addr]
    it.E ≠ 0#32 → s1.accFault w .load addr n false = none →
    inTurn w s1.order (accAt (.ldbc f) addr.toNat) (fun s => s.loadNow w addr.toNat n stream f.scope (decide (f.pol = 1))) s1 = (.ok bs, t) →
    exec (.ldbc f) s = .next ((t.settleHints s1 w [addr.toNat] n stream f.scope f.rc f.grain f.pol true).performed gid it.I (asPc (pc + 8#64))
      ((lanesOf it.E).flatMap fun l => vecWrites l f.d (loadWords f.size false bs))) := by
  intro stream hroad it w n addr s1 hE hok hin
  have hcls : decide (f.cls.val = 1) = stream := by simp [stream, Fin.ext_iff]
  have hpol : decide (f.pol.val = 1) = decide (f.pol = 1) := by simp [Fin.ext_iff]
  have hwait := mustWait_of_clearRoad (gid := gid) (pc := pc) (len := 8) (gd := f.g) hroad
  obtain ⟨-, -, hroom⟩ := hroad
  have hsafe : ∀ l < 32, has it.E l → sameFault (s1.accFault w .load addr n false) l = none := fun _ _ _ => hok
  have hload := Ran.load_performs (r := { s := s1, before := s1.order }) rfl hin ((lanesOf it.E).headD 0)
    (fun bs => (lanesOf it.E).flatMap fun l => vecWrites l f.d (loadWords f.size false bs))
  change execLdbc f s = _
  rw [execLdbc, h.runs f.g 8]
  simp only [hcls, hpol, hwait, Group.issueAt_g, Bool.false_eq_true, if_false]
  rw [if_neg hE]
  change Host.Outcome.next (it.guarded s s1 (sameFault (s1.accFault w .load addr n false)) _) = _
  rw [Issue.guarded_acts hsafe]
  refine congrArg Host.Outcome.next ?_
  change (fun r : Ran => { r with s := r.s.settleHints s1 w [addr.toNat] n stream f.scope f.rc f.grain f.pol true
                                  parked := if r.parked.isEmpty then r.parked else (lanesOf it.E).map fun l => (l, addr.toNat)
                                  failLanes := if r.failed.isSome then it.E else r.failLanes }.finish s it w (.ldbc f) true false)
    (({ s := s1, before := s1.order } : Ran).load w ((lanesOf it.E).headD 0) (accAt (.ldbc f) addr.toNat)
      (fun bs => (lanesOf it.E).flatMap fun l => vecWrites l f.d (loadWords f.size false bs))
      fun s => s.loadNow w addr.toNat n stream f.scope (decide (f.pol = 1))) = _
  rw [hload]
  dsimp only
  rw [Ran.finish_performed hroom rfl rfl rfl rfl]
  rfl

end

/-- Settles O19: where the accesses perform, the run collects what they read; at a memory at rest each of them performs and reads the bytes at home. -/
theorem globalLoadsBindTheBytesRead : Obligations.GlobalLoadsBindTheBytesRead := by
  unfold Obligations.GlobalLoadsBindTheBytesRead
  intro gives completes
  have hgives (i : MForm → Instr) (signed acquire : Bool) (hexec : ∀ f s, exec (i f) s = laneLoad (i f) f signed acquire s) : gives i signed acquire :=
    fun f s _ _ _ _ _ h hroad hok hall => (hexec f s).trans (laneLoad_performs signed acquire h hroad hok hall)
  have hcompletes (i : MForm → Instr) (signed acquire : Bool) (hexec : ∀ f s, exec (i f) s = laneLoad (i f) f signed acquire s)
      (hsize : ∀ f, (i f).wf = true → f.size.val ≤ 5) : completes i signed acquire := by
    intro f s gid pc g h hroad it w n addr bad s1 hok hquiet hat
    rw [hexec]
    exact laneLoad_at_home signed acquire h (hsize f h.formed) hroad hok hquiet hat
  refine ⟨hcompletes _ _ _ (fun _ _ => rfl) fun f hf => ?_, hcompletes _ _ _ (fun _ _ => rfl) fun f hf => ?_, hcompletes _ _ _ (fun _ _ => rfl) fun f hf => ?_,
    hgives _ _ _ fun _ _ => rfl, hgives _ _ _ fun _ _ => rfl, hgives _ _ _ fun _ _ => rfl, ?_⟩
  · exact of_decide_eq_true (Bool.and_eq_true_iff.1 (show (_ && decide (f.size.val ≤ 5)) = true from hf)).2
  · have hone := of_decide_eq_true (Bool.and_eq_true_iff.1 (show (_ && decide (f.size.val ≤ 1)) = true from hf)).2
    exact hone.trans (by decide)
  · have htwo := (Bool.and_eq_true_iff.1 (Bool.and_eq_true_iff.1 (show (_ && (f.size.val == 2 || f.size.val == 3) && _) = true from hf)).1).2
    rw [Bool.or_eq_true, beq_iff_eq, beq_iff_eq] at htwo
    omega
  · intro f s gid pc g bs t h stream hroad it w n addr s1
    have hcls : decide (f.cls.val = 1) = stream := by simp [stream, Fin.ext_iff]
    have hwait := mustWait_of_clearRoad (gid := gid) (pc := pc) (len := 8) (gd := f.g) hroad
    refine ⟨fun hE => ?_, fun hE hok hquiet hat => ?_, exec_ldbc_performs h hroad⟩
    · change execLdbc f s = _
      rw [execLdbc, h.runs f.g 8]
      simp only [hcls, hwait, Group.issueAt_g, Bool.false_eq_true, if_false]
      rw [if_pos hE]
      rfl
    · have hn : n ≤ 16 := by
        have hfour := (Bool.and_eq_true_iff.1 (Bool.and_eq_true_iff.1 (show (_ && decide (f.size.val ≤ 4) && _) = true from h.formed)).1).2
        exact nbytes_le ((of_decide_eq_true hfour).trans (by decide))
      have hhome : s.AtHome w.lid w.asid addr.toNat n := .of_atHome hat (nbytes_pos _) hn (State.below_of_accFault hok hn)
      have hrest : s.Resting w s.order s1 := State.Resting.refill (.of_quietHome hquiet h.here (g.begun_replay pc) rfl rfl rfl) _
      obtain ⟨t, ht, hend⟩ := hrest.loadNow hhome stream f.scope (decide (f.pol = 1)) 1 .load
      exact ⟨t, hend.mem, hend.l2, exec_ldbc_performs h hroad hE hok (by rw [hrest.order, hrest.inTurn]; exact ht)⟩

end Sys2Proof.Machine
end

section
/-!
SUPPORT. Uniform memory accesses of a group: what the one access comes to when it performs and when it fails a check (R157, R161, R202).
-/
namespace Sys2Proof.Machine
open Sys2Proof

/-! ### Accesses that perform -/

/-- A store that performs in its turn leaves the state after it. -/
theorem Ran.store_performs {r : Ran} {w : Who} {y : AccOp} {f : State → Acc × State} {bs : List Byte} {t : State} (hw : r.waiting = [])
    (h : inTurn w r.before y f r.s = (.ok bs, t)) (l : Nat) (op : SideOp) : r.store w l y op f = { r with s := t } := by
  rw [Ran.store, Ran.attempt_eq_inTurn hw, h]

/-- The one access of a group whose lanes end well ends the instruction (R98, R158). -/
theorem Ran.whole_finish_performed {s0 t : State} {it : Issue} {w : Who} {before : Nat} {ws : List (Dest × Word)} (hroom : (s0.sideLog w.c w.sp).length ≤ 64)
    (I : Word) (i : Instr) : (({ s := t, before := before, writes := ws } : Ran).whole I).finish s0 it w i true false =
      t.performed it.gid it.I it.nextPc ws :=
  Ran.finish_performed hroom rfl rfl rfl rfl i true false

section
variable {s0 s1 : State} {g : Group} {i : Instr} {off size : Nat}

section
variable {kind : AccKind} {base : DWord} {stream bad : Bool} {act : Who → Nat → Ran → Ran} (gid : Nat) (pc : DWord) (hroad : clearRoad s0 g stream)
include hroad

/-- A global access that passes its checks and performs binds its results and goes on (R161). -/
theorem uniAccess_performs {t : State} {before : Nat} {ws : List (Dest × Word)} :
    let it := g.uniAt gid pc 8
    let w := s0.who it
    let s2 := s1.refill w [uniAddr base off]
    s2.accFault w kind (uniAddr base off) (nbytes size) bad = none →
    act w (uniAddr base off).toNat { s := s2, before := s2.order } = { s := t, before := before, writes := ws } →
    uniAccess it s0 s1 i kind base off size stream bad act = t.performed gid (g.issued pc) (asPc (pc + 8#64)) ws := by
  intro it w s2 hok hact
  have hwait : it.mustWait stream = false := mustWait_of_clearRoad (gid := gid) (pc := pc) (len := 8) (gd := 7) hroad
  simp only [uniAccess, hwait, Bool.false_eq_true, if_false]
  rw [hok, hact]
  exact Ran.whole_finish_performed hroad.2.2 _ _

/-- One that fails a check raises the fault for the issued lanes at P (R202). -/
theorem uniAccess_raises {code : Nat} {a d : DWord} :
    let it := g.uniAt gid pc 8
    let w := s0.who it
    (s1.refill w [uniAddr base off]).accFault w kind (uniAddr base off) (nbytes size) bad = some (code, a, d) →
    uniAccess it s0 s1 i kind base off size stream bad act = s0.raise gid code (g.issued pc) pc a d := by
  intro it w hfault
  have hwait : it.mustWait stream = false := mustWait_of_clearRoad (gid := gid) (pc := pc) (len := 8) (gd := 7) hroad
  simp only [uniAccess, hwait, Bool.false_eq_true, if_false]
  rw [hfault]
  rfl

end

section
variable {base : Word} {act : Who → Word → Ran → Ran} (gid : Nat) (pc : DWord) (hroad : clearRoad s0 g false)
include hroad

/-- A scratchpad access that passes its checks and performs binds its results and goes on (R161). -/
theorem uniShAccess_performs {t : State} {before : Nat} {ws : List (Dest × Word)} (hok : s1.spFault g false (uniAddr32 base off) (nbytes size) = none)
    (hact : act (s0.who (g.uniAt gid pc 8)) (uniAddr32 base off) { s := s1, before := s1.order } = { s := t, before := before, writes := ws }) :
    uniShAccess (g.uniAt gid pc 8) s0 s1 i base off size act = t.performed gid (g.issued pc) (asPc (pc + 8#64)) ws := by
  have hwait : (g.uniAt gid pc 8).mustWait false = false := mustWait_of_clearRoad (gid := gid) (pc := pc) (len := 8) (gd := 7) hroad
  simp only [uniShAccess, hwait, Bool.false_eq_true, if_false, Group.uniAt_g]
  rw [hok, hact]
  exact Ran.whole_finish_performed hroad.2.2 _ _

theorem uniShAccess_raises {code : Nat} {a d : DWord} (hfault : s1.spFault g false (uniAddr32 base off) (nbytes size) = some (code, a, d)) :
    uniShAccess (g.uniAt gid pc 8) s0 s1 i base off size act = s0.raise gid code (g.issued pc) pc a d := by
  have hwait : (g.uniAt gid pc 8).mustWait false = false := mustWait_of_clearRoad (gid := gid) (pc := pc) (len := 8) (gd := 7) hroad
  simp only [uniShAccess, hwait, Bool.false_eq_true, if_false, Group.uniAt_g]
  rw [hfault]
  rfl

end

end

end Sys2Proof.Machine
end

section
/-!
SUPPORT. The six uniform memory instructions of a group with their guard on: what each comes to when its access performs and when it fails a
check (R161, R202).
-/
namespace Sys2Proof.Machine
open Sys2Proof

section
variable {s t : State} {gid : Nat} {pc : DWord} {g : Group} {bs : List Byte}

section
variable {f : UmForm}

theorem exec_sld_ends (h : ReadyUni s gid pc g (.sld f) f.sw f.g { s := regRun f.d (dataRegs f.size) ++ [f.base.val, f.base + 1] })
    (hroad : clearRoad s g (decide (f.cls = 1))) :
    let w := s.who (g.uniAt gid pc 8)
    let addr := uniAddr (g.sreg64 f.base) f.off
    let s1 := (s.setG gid (g.ready pc)).refill w [addr]
    let check := s1.accFault w .load addr (nbytes f.size) false
    (check = none → inTurn w s1.order (accAt (.sld f) addr.toNat)
        (fun s => s.loadNow w addr.toNat (nbytes f.size) (decide (f.cls = 1)) f.scope (decide (f.pol = 1))) s1 = (.ok bs, t) →
      exec (.sld f) s = .next ((t.settleHints s1 w [addr.toNat] (nbytes f.size) (decide (f.cls = 1)) f.scope f.rc f.grain f.pol true).performed
        gid (g.issued pc) (asPc (pc + 8#64)) (uniWrites f.d (loadWords f.size false bs)))) ∧
    ∀ code a d, check = some (code, a, d) → exec (.sld f) s = .next (s.raise gid code (g.issued pc) pc a d) := by
  intro w addr s1 check
  have hcls : decide (f.cls.val = 1) = decide (f.cls = 1) := by simp [Fin.ext_iff]
  have hpol : decide (f.pol.val = 1) = decide (f.pol = 1) := by simp [Fin.ext_iff]
  have hruns := h.runs 8
  change (_ → _ → execSld f s = _) ∧ ∀ _ _ _, _ → execSld f s = _
  simp only [execSld, hruns, hcls, hpol]
  refine ⟨fun hok hin => congrArg _ (uniAccess_performs (before := s1.order) gid pc hroad hok ?_), fun code a d hfault => congrArg _ (uniAccess_raises gid pc hroad hfault)⟩
  dsimp only
  exact congrArg (fun r : Ran => { r with s := r.s.settleHints s1 w [addr.toNat] (nbytes f.size) (decide (f.cls = 1)) f.scope f.rc f.grain f.pol true }) (Ran.load_performs (r := { s := s1, before := s1.order }) rfl hin (g.uniAt gid pc 8).lowest fun bs => uniWrites f.d (loadWords f.size false bs))

theorem exec_sst_ends (h : ReadyUni s gid pc g (.sst f) f.sw f.g { s := regRun f.d (dataRegs f.size) ++ [f.base.val, f.base + 1] })
    (hroad : clearRoad s g (decide (f.cls = 1))) :
    let it := g.uniAt gid pc 8
    let w := s.who it
    let addr := uniAddr (g.sreg64 f.base) f.off
    let s1 := (s.setG gid (g.ready pc)).refill w [addr]
    let check := s1.accFault w .store addr (nbytes f.size) false
    let far : Nat := if f.pol = 1 ∧ f.scope.val ≤ 3 then 4 else f.scope.val
    (check = none → inTurn w s1.order (accAt (.sst f) addr.toNat)
        (fun s => s.storeAtPoint w addr.toNat (uniData g.sreg f.d f.size) (decide (f.cls = 1)) false far pc it.lowest (g.issued pc)) s1 = (.ok bs, t) →
      exec (.sst f) s = .next ((t.settleHints s1 w [addr.toNat] (nbytes f.size) (decide (f.cls = 1)) far 0 f.grain f.pol false).performed
        gid (g.issued pc) (asPc (pc + 8#64)) [])) ∧
    ∀ code a d, check = some (code, a, d) → exec (.sst f) s = .next (s.raise gid code (g.issued pc) pc a d) := by
  intro it w addr s1 check far
  have hcls : decide (f.cls.val = 1) = decide (f.cls = 1) := by simp [Fin.ext_iff]
  have hfar : (if f.pol.val = 1 ∧ f.scope.val ≤ 3 then (4 : Nat) else f.scope.val) = far := if_congr (by simp [Fin.ext_iff]) rfl rfl
  have hruns := h.runs 8
  change (_ → _ → execSst f s = _) ∧ ∀ _ _ _, _ → execSst f s = _
  simp only [execSst, hruns, hcls, hfar]
  refine ⟨fun hok hin => congrArg _ (uniAccess_performs (before := s1.order) gid pc hroad hok ?_), fun code a d hfault => congrArg _ (uniAccess_raises gid pc hroad hfault)⟩
  dsimp only
  exact congrArg (fun r : Ran => { r with s := r.s.settleHints s1 w [addr.toNat] (nbytes f.size) (decide (f.cls = 1)) far 0 f.grain f.pol false }) (Ran.store_performs (r := { s := s1, before := s1.order }) rfl hin it.lowest _)

theorem exec_sldsh_ends (h : ReadyUni s gid pc g (.sldsh f) f.sw f.g { s := regRun f.d (dataRegs f.size) ++ [f.base.val] })
    (hroad : clearRoad s g false) :
    let w := s.who (g.uniAt gid pc 8)
    let a := uniAddr32 (g.sreg f.base) f.off
    let s1 := s.setG gid (g.ready pc)
    let check := s1.spFault g false a (nbytes f.size)
    (check = none → inTurn w s1.order (accAt (.sldsh f) a.toNat) (fun s => s.spLoad gid g false a (nbytes f.size)) s1 = (.ok bs, t) →
      exec (.sldsh f) s = .next (t.performed gid (g.issued pc) (asPc (pc + 8#64)) (uniWrites f.d (loadWords f.size false bs)))) ∧
    ∀ code x d, check = some (code, x, d) → exec (.sldsh f) s = .next (s.raise gid code (g.issued pc) pc x d) := by
  intro w a s1 check
  change (_ → _ → execSldsh f s = _) ∧ ∀ _ _ _, _ → execSldsh f s = _
  have hruns := h.runs 8
  simp only [execSldsh, hruns]
  exact ⟨fun hok hin => congrArg _ (uniShAccess_performs gid pc hroad hok (Ran.load_performs (r := { s := s1, before := s1.order }) rfl hin _ _)),
    fun code x d hfault => congrArg _ (uniShAccess_raises gid pc hroad hfault)⟩

theorem exec_sstsh_ends (h : ReadyUni s gid pc g (.sstsh f) f.sw f.g { s := regRun f.d (dataRegs f.size) ++ [f.base.val] })
    (hroad : clearRoad s g false) :
    let w := s.who (g.uniAt gid pc 8)
    let a := uniAddr32 (g.sreg f.base) f.off
    let s1 := s.setG gid (g.ready pc)
    let check := s1.spFault g false a (nbytes f.size)
    (check = none → inTurn w s1.order (accAt (.sstsh f) a.toNat) (fun s => s.spStore gid g false a (uniData g.sreg f.d f.size)) s1 = (.ok bs, t) →
      exec (.sstsh f) s = .next (t.performed gid (g.issued pc) (asPc (pc + 8#64)) [])) ∧
    ∀ code x d, check = some (code, x, d) → exec (.sstsh f) s = .next (s.raise gid code (g.issued pc) pc x d) := by
  intro w a s1 check
  change (_ → _ → execSstsh f s = _) ∧ ∀ _ _ _, _ → execSstsh f s = _
  have hruns := h.runs 8
  simp only [execSstsh, hruns]
  exact ⟨fun hok hin => congrArg _ (uniShAccess_performs gid pc hroad hok (Ran.store_performs (r := { s := s1, before := s1.order }) rfl hin _ _)),
    fun code x d hfault => congrArg _ (uniShAccess_raises gid pc hroad hfault)⟩

end

section
variable {f : UmaForm}

theorem exec_satom_ends (h : ReadyUni s gid pc g (.satom f) f.sw f.g { s := regRun f.d (atomRegs f.size f.atop) ++ [f.base.val, f.base + 1] })
    (hroad : clearRoad s g false) :
    let w := s.who (g.uniAt gid pc 8)
    let addr := uniAddr (g.sreg64 f.base) f.off
    let y := atomOperands f.size f.atop g.sreg f.d
    let s1 := (s.setG gid (g.ready pc)).refill w [addr]
    let check := s1.accFault w .atomic addr (nbytes f.size) (decide (addr.toNat % nbytes f.size ≠ 0))
    (check = none → inTurn w s1.order (accAt (.satom f) addr.toNat)
        (fun s => s.atomicNow w addr.toNat f.size f.atop y.1 y.2 f.scope) s1 = (.ok bs, t) →
      exec (.satom f) s = .next ((t.settleHints s1 w [addr.toNat] (nbytes f.size) false 6 0 0 f.pol false).performed
        gid (g.issued pc) (asPc (pc + 8#64)) (uniWrites f.d (loadWords f.size false bs)))) ∧
    ∀ code a d, check = some (code, a, d) → exec (.satom f) s = .next (s.raise gid code (g.issued pc) pc a d) := by
  intro w addr y s1 check
  change (_ → _ → execSatom f s = _) ∧ ∀ _ _ _, _ → execSatom f s = _
  have hruns := h.runs 8
  simp only [execSatom, hruns]
  refine ⟨fun hok hin => congrArg _ (uniAccess_performs (before := s1.order) gid pc hroad hok ?_), fun code a d hfault => congrArg _ (uniAccess_raises gid pc hroad hfault)⟩
  dsimp only
  exact congrArg (fun r : Ran => { r with s := r.s.settleHints s1 w [addr.toNat] (nbytes f.size) false 6 0 0 f.pol false }) (Ran.load_performs (r := { s := s1, before := s1.order }) rfl hin (g.uniAt gid pc 8).lowest fun bs => uniWrites f.d (loadWords f.size false bs))

theorem exec_satsh_ends (h : ReadyUni s gid pc g (.satsh f) f.sw f.g { s := regRun f.d (atomRegs f.size f.atop) ++ [f.base.val] })
    (hroad : clearRoad s g false) :
    let w := s.who (g.uniAt gid pc 8)
    let a := uniAddr32 (g.sreg f.base) f.off
    let y := atomOperands f.size f.atop g.sreg f.d
    let s1 := s.setG gid (g.ready pc)
    let check := s1.spFault g false a (nbytes f.size)
    (check = none → inTurn w s1.order (accAt (.satsh f) a.toNat) (fun s => s.spAtomic gid g false a f.size f.atop y.1 y.2) s1 = (.ok bs, t) →
      exec (.satsh f) s = .next (t.performed gid (g.issued pc) (asPc (pc + 8#64)) (uniWrites f.d (loadWords f.size false bs)))) ∧
    ∀ code x d, check = some (code, x, d) → exec (.satsh f) s = .next (s.raise gid code (g.issued pc) pc x d) := by
  intro w a y s1 check
  change (_ → _ → execSatsh f s = _) ∧ ∀ _ _ _, _ → execSatsh f s = _
  have hruns := h.runs 8
  simp only [execSatsh, hruns]
  exact ⟨fun hok hin => congrArg _ (uniShAccess_performs gid pc hroad hok (Ran.load_performs (r := { s := s1, before := s1.order }) rfl hin _ _)),
    fun code x d hfault => congrArg _ (uniShAccess_raises gid pc hroad hfault)⟩

end

end

end Sys2Proof.Machine
end

section
/-!
SUPPORT. Uniform memory accesses of a mast core to its own SRAM (R203, R322).
-/
namespace Sys2Proof.Machine
open Sys2Proof

/-! ### Bytes -/

theorem toBytes_ofBytes (bs : List Byte) : toBytes bs.length (ofBytes bs) = bs := by
  induction bs with
  | nil => rfl
  | cons b bs ih =>
    have hdiv : (b.toNat + 256 * ofBytes bs) / 256 = ofBytes bs := by have := b.isLt; omega
    have hmod : BitVec.ofNat 8 (b.toNat + 256 * ofBytes bs) = b := by
      apply BitVec.eq_of_toNat_eq
      have := b.isLt
      rw [BitVec.toNat_ofNat]
      omega
    rw [List.length_cons, ofBytes, toBytes, hdiv, hmod, ih]

/-- The bytes that a uniform store has are as many as its access. -/
theorem length_uniData (rd : Nat → Word) (d : Nat) {size : Nat} (h : size ≤ 5) : (uniData rd d size).length = nbytes size := by
  simp only [uniData, storeBytes, List.length_take, length_flatMap_toBytes, List.length_map, regRun, List.length_range]
  interval_cases size <;> rfl

/-- What the SRAM of a mast core holds after a run of bytes was written. -/
theorem Mast.getD_wrBytes (m : Mast) (off : Nat) (bs : List Byte) (k : Nat) :
    getD (m.wrBytes off bs).sram k 0#8 = if off ≤ k ∧ k < off + bs.length then bs.getD (k - off) 0#8 else getD m.sram k 0#8 := by
  have hfold : (m.wrBytes off bs).sram = ((List.range bs.length).map (off + ·)).foldl (fun r j => setD r j (bs.getD (j - off) 0#8) 0#8) m.sram := by
    simp only [Mast.wrBytes, List.foldl_map, Nat.add_sub_cancel_left]
  rw [hfold, getD_foldl_setD]
  refine if_congr ?_ rfl rfl
  simp only [List.mem_map, List.mem_range]
  exact ⟨fun ⟨i, hi, hik⟩ => by omega, fun ⟨hlo, hhi⟩ => ⟨k - off, by omega, by omega⟩⟩

/-! ### Two changes of a mast core -/

theorem put_put {α : Type} (m : SMap α) (k : Nat) (x y : α) : put (put m k x) k y = put m k y := by
  induction m with
  | nil => simp [put]
  | cons e m ih =>
    obtain ⟨j, z⟩ := e
    simp only [put]
    split
    · simp [put]
    · split
      · simp [put]
      · simp [put, *]

theorem setD_eq_put {α : Type} [DecidableEq α] {x d : α} (h : x ≠ d) (m : SMap α) (k : Nat) : setD m k x d = put m k x := if_neg h

/-- Two changes of a mast core that runs throughout are one. -/
theorem State.updM_updM {s : State} {c : Nat} {F G : Mast → Mast} (hF : (F (s.mast c)).running = true) (hG : (G (F (s.mast c))).running = true) :
    (s.updM c F).updM c G = s.updM c fun m => G (F m) := by
  have hne {k : Cluster} (h : k.mast.running = true) : k ≠ {} := fun he => by rw [he] at h; exact Bool.false_ne_true h
  have hself : (s.updM c F).cluster c = { s.cluster c with mast := F (s.mast c) } := by
    rw [State.updM, State.cluster_updC, if_pos rfl]; rfl
  have hfirst : (s.updM c F).clusters = put s.clusters c { s.cluster c with mast := F (s.mast c) } := setD_eq_put (hne hF) ..
  rw [State.updM, State.updC, hself, hfirst, setD_eq_put (hne hG), put_put, ← setD_eq_put (hne hG)]
  rfl

/-! ### The SRAM of a mast core (R322) -/

section
variable {s : State} {c va n : Nat} (hpos : 0 < n) (hin : va + n ≤ 0x40000)
include hpos hin

theorem mastParts_sram : mastParts va n = [(va, n)] := if_pos (.inl (by omega))

theorem State.mastPlace_sram (kind : Nat) : s.mastPlace c va n kind = .sram va := by
  rw [State.mastPlace, if_pos (by omega), if_pos hin]

theorem State.mastBar_sram (kind : Nat) : s.mastBar c va n kind = none := by
  simp only [State.mastBar, mastParts_sram hpos hin, List.findSome?_cons, State.mastPlace_sram hpos hin, List.findSome?_nil]

/-- A load of unpoisoned SRAM of a mast core reads the addressed bytes. -/
theorem State.mastLoad_sram (hclean : (s.mast c).bad = []) (kind : Nat) :
    s.mastLoad c va n kind = .ok (ofBytes ((List.range n).map fun i => getD (s.mast c).sram (va + i) 0#8)) s := by
  have hgood : (s.mast c).badAt va n = false := by rw [Mast.badAt, hclean]; rfl
  have hround : toBytes n ((s.mast c).rd va n) = (List.range n).map fun i => getD (s.mast c).sram (va + i) 0#8 := by
    have h := toBytes_ofBytes ((List.range n).map fun i => getD (s.mast c).sram (va + i) 0#8)
    rwa [List.length_map, List.length_range] at h
  simp only [State.mastLoad, State.mastBar_sram hpos hin, mastParts_sram hpos hin, List.foldl_cons, List.foldl_nil, State.mastLoadPart,
    State.mastPlace_sram hpos hin, hgood, Bool.false_eq_true, if_false, hround, List.nil_append]

omit hpos in
/-- A store to it writes the bytes. -/
theorem State.mastStore_sram {bs : List Byte} (hlen : bs.length = n) (hpos : 0 < n) :
    s.mastStore c va n (ofBytes bs) = .ok 0 (s.updM c fun m => m.wrBytes va bs) := by
  subst hlen
  simp only [State.mastStore, State.mastBar_sram hpos hin, mastParts_sram hpos hin, List.foldl_cons, List.foldl_nil, toBytes_ofBytes, Nat.sub_self,
    List.drop_zero, List.take_length, State.mastStorePart, State.mastPlace_sram hpos hin]

end

/-! ### The instructions on a mast core (R203) -/

section
variable {s : State} {c : Nat} {m : Mast} {f : UmForm}

theorem exec_sld_mast (h : RunsMast s c m (.sld f) f.g) : exec (.sld f) s =
    (s.mastLoad c (uniAddr (m.sreg64 f.base) f.off).toNat (nbytes f.size) 0).finish c 8 fun x m =>
      m.setRun f.d (loadWords f.size false (toBytes (nbytes f.size) x)) := h.runs f.sw 8 _ _ _

theorem exec_sst_mast (h : RunsMast s c m (.sst f) f.g) : exec (.sst f) s =
    (s.mastStore c (uniAddr (m.sreg64 f.base) f.off).toNat (nbytes f.size) (ofBytes (uniData m.sreg f.d f.size))).finish c 8 fun _ m => m :=
  h.runs f.sw 8 _ _ _

theorem exec_sldsh_mast (h : RunsMast s c m (.sldsh f) f.g) : exec (.sldsh f) s =
    (s.mastSpLoad c (uniAddr32 (m.sreg f.base) f.off) (nbytes f.size)).finish c 8 fun x m =>
      m.setRun f.d (loadWords f.size false (toBytes (nbytes f.size) x)) := h.runs f.sw 8 _ _ _

theorem exec_sstsh_mast (h : RunsMast s c m (.sstsh f) f.g) : exec (.sstsh f) s =
    (s.mastSpStore c (uniAddr32 (m.sreg f.base) f.off) (nbytes f.size) (ofBytes (uniData m.sreg f.d f.size))).finish c 8 fun _ m => m :=
  h.runs f.sw 8 _ _ _

/-- `sld` of a mast core's own SRAM binds the addressed bytes at once (R203, R322). -/
theorem exec_sld_sram (h : RunsMast s c m (.sld f) f.g) :
    let n := nbytes f.size
    let va := (uniAddr (m.sreg64 f.base) f.off).toNat
    va + n ≤ 0x40000 → ∃ m', exec (.sld f) s = .next (s.setM c m') ∧ m' = { m with s := m'.s, pc := m.pc + 8#64 } ∧
      m.UniRun m' f.d (loadWords f.size false ((List.range n).map fun i => getD m.sram (va + i) 0#8)) := by
  intro n va hin
  have hexec := exec_sld_mast h
  have hround := toBytes_ofBytes ((List.range n).map fun i => getD m.sram (va + i) 0#8)
  rw [List.length_map, List.length_range] at hround
  have hclean : (s.mast c).bad = [] := by rw [h.core]; exact h.clean
  rw [State.mastLoad_sram (nbytes_pos _) hin hclean, h.core, MastAcc.finish, State.mastNext, State.updM_eq_setM h.core, hround] at hexec
  refine ⟨_, hexec, ?_, ?_⟩
  · dsimp only
    rw [Mast.setRun_rest]
  · exact m.uniRun_setRun f.d _

/-- `sst` to it changes the addressed bytes and the PC alone (R203, R322). -/
theorem exec_sst_sram (h : RunsMast s c m (.sst f) f.g) (hsize : f.size.val ≤ 5) :
    let n := nbytes f.size
    let va := (uniAddr (m.sreg64 f.base) f.off).toNat
    va + n ≤ 0x40000 → ∃ m', exec (.sst f) s = .next (s.setM c m') ∧ m' = { m with sram := m'.sram, pc := m.pc + 8#64 } ∧
      ∀ k, getD m'.sram k 0#8 = if va ≤ k ∧ k < va + n then (uniData m.sreg f.d f.size).getD (k - va) 0#8 else getD m.sram k 0#8 := by
  intro n va hin
  have hexec := exec_sst_mast h
  have hlen : (uniData m.sreg f.d f.size).length = n := length_uniData m.sreg f.d hsize
  have hruns : m.running = true := by
    have hmay := h.may
    simp only [Mast.mayRun, Bool.and_eq_true] at hmay
    exact hmay.1.1
  rw [State.mastStore_sram hin hlen (nbytes_pos _), MastAcc.finish, State.mastNext, State.updM_updM (by rw [h.core]; exact hruns) (by rw [h.core]; exact hruns),
    State.updM_eq_setM h.core] at hexec
  refine ⟨_, hexec, ?_, fun k => ?_⟩
  · have hhealed : m.healed va (uniData m.sreg f.d f.size).length = m.bad := by rw [Mast.healed, h.clean]; rfl
    dsimp only [Mast.wrBytes]
    rw [hhealed]
  · rw [← hlen]
    exact m.getD_wrBytes va _ k

end

section
variable {s s1 t : State} {c old x : Nat} {m : Mast} {f : UmaForm}

/-- An atomic of a mast core whose read and write both end well answers the old bytes. -/
theorem mastAtomic_ok {size op y y2 n : Nat} {read : MastAcc} {write : State → Nat → MastAcc} (hread : read = .ok old s1)
    (hwrite : write s1 (ofBytes (atomBytes size op (toBytes n old) y y2)) = .ok x t) : mastAtomic size op y y2 n read write = .ok old t := by
  simp only [mastAtomic, hread, hwrite]

/-- `satom` of a mast core that passes its checks, and whose read and write end well (R153, R203). -/
theorem exec_satom_mast (h : RunsMast s c m (.satom f) f.g) :
    let n := nbytes f.size
    let va := (uniAddr (m.sreg64 f.base) f.off).toNat
    let y := atomOperands f.size f.atop m.sreg f.d
    s.mastBar c va n 1 = none → va % n = 0 → (s.mastForce c va n).mastLoad c va n 1 = .ok old s1 →
    s1.mastStore c va n (ofBytes (atomBytes f.size f.atop (toBytes n old) y.1 y.2)) = .ok x t →
    exec (.satom f) s = .next (t.mastNext c 8 fun m => m.setRun f.d (loadWords f.size false (toBytes n old))) := by
  intro n va y hbar halign hread hwrite
  have hexec : exec (.satom f) s = (s.mastAtomicBar c va n (mastAtomic f.size f.atop y.1 y.2 n ((s.mastForce c va n).mastLoad c va n 1)
      fun s1 x => s1.mastStore c va n x)).finish c 8 fun x m => m.setRun f.d (loadWords f.size false (toBytes n x)) := h.runs f.sw 8 _ _ _
  rw [hexec, mastAtomic_ok hread hwrite]
  simp only [State.mastAtomicBar, hbar, halign, ne_eq, not_true_eq_false, if_false]
  rfl

/-- `satsh` of a mast core whose read and write end well (R153, R325). -/
theorem exec_satsh_mast (h : RunsMast s c m (.satsh f) f.g) :
    let n := nbytes f.size
    let a := uniAddr32 (m.sreg f.base) f.off
    let y := atomOperands f.size f.atop m.sreg f.d
    s.mastSpLoad c a n = .ok old s1 → s1.mastSpStore c a n (ofBytes (atomBytes f.size f.atop (toBytes n old) y.1 y.2)) = .ok x t →
    exec (.satsh f) s = .next (t.mastNext c 8 fun m => m.setRun f.d (loadWords f.size false (toBytes n old))) := by
  intro n a y hread hwrite
  have hexec : exec (.satsh f) s = (mastAtomic f.size f.atop y.1 y.2 n (s.mastSpLoad c a n) fun s1 x => s1.mastSpStore c a n x).finish c 8
      fun x m => m.setRun f.d (loadWords f.size false (toBytes n x)) := h.runs f.sw 8 _ _ _
  rw [hexec, mastAtomic_ok hread hwrite]
  rfl

end

end Sys2Proof.Machine
end

section
/-!
SUPPORT. Uniform accesses of a group's own scratchpad, which are performed at once where nothing of the group waits (R151, R161, R244).
-/
namespace Sys2Proof.Machine
open Sys2Proof

/-- An aligned access lies within one bank. -/
theorem aligned_in_bank {a size : Nat} (hsize : size ≤ 5) (h : a % nbytes size = 0) : a % 16384 + nbytes size ≤ 16384 := by
  have hcase : nbytes size = 1 ∨ nbytes size = 2 ∨ nbytes size = 4 ∨ nbytes size = 8 ∨ nbytes size = 16 := by interval_cases size <;> decide
  rcases hcase with hn | hn | hn | hn | hn <;> rw [hn] at h ⊢ <;> omega

/-- An address of the group's own scratchpad that passes its checks is aligned, and lies in the group's block. -/
theorem State.bankPlace_of_block {s : State} {g : Group} {a : Word} {n : Nat} {b : Block} (hok : s.spFault g false a n = none) (hb : s.blockOf g = some b) :
    a.toNat % n = 0 ∧ s.bankPlace g false a n b a.toNat := by
  have halign : a.toNat % n = 0 := by
    by_contra hne
    simp only [State.spFault, hb, hne, ne_eq, not_false_eq_true, if_true, reduceCtorEq] at hok
  obtain ⟨m, off, b', hb', hp⟩ := State.exists_bankPlace hok
  obtain rfl : b = b' := Option.some.inj (hb.symm.trans hb')
  refine ⟨halign, b, hb, ?_⟩
  rw [State.spPlace] at hp ⊢
  simp only [Bool.not_false, if_true] at hp ⊢
  split at hp
  · next hin => rw [if_pos hin]
  · cases hp

theorem BankWork.ready {W : Nat → Nat → Prop} {s : State} {gid before : Nat} {g : Group} (hg : find s.groups gid = some g) (pc : DWord) :
    BankWork W gid before s (s.setG gid (g.ready pc)) := by
  refine BankWork.updG s fun x hx => ?_
  obtain rfl : g = x := Option.some.inj (hg.symm.trans hx)
  exact g.ready_replay pc

section
variable {s : State} {gid : Nat} {g : Group} {a : Word} {n : Nat} {b : Block} (hplace : s.bankPlace g false a n b a.toNat) (hres : b.phase ≠ .gone)
include hplace hres

/-- A load of the group's own scratchpad reads the bytes and changes no byte. -/
theorem State.spLoad_reads (hclean : s.spPoison b a.toNat n = false) :
    ∃ t, s.spLoad gid g false a n = (.ok (s.spRead b a.toNat n), t) ∧ BankWork (fun _ _ => False) gid s.order s t := by
  refine ⟨_, ?_, BankWork.spStamp s gid b.cluster false⟩
  rw [State.spLoad_eq hplace, if_neg hres, hclean]
  rfl

/-- A store leaves the bytes there. -/
theorem State.spStore_writes {bs : List Byte} (hlen : bs.length = n) (hbank : a.toNat % 16384 + n ≤ 16384) :
    ∃ t, s.spStore gid g false a bs = (.ok [], t) ∧ BankWork (fun _ _ => True) gid s.order s t ∧ t.spRead b a.toNat n = bs := by
  subst hlen
  have hwrite : BankWork (fun _ _ => True) gid s.order s (s.spWrite b a.toNat bs) := BankWork.spWrite s fun _ _ => trivial
  refine ⟨(s.spWrite b a.toNat bs).spStamp gid b.cluster true, ?_, hwrite.trans (BankWork.spStamp _ _ _ _), ?_⟩
  · rw [State.spStore_eq hplace, if_neg hres]
  · have hstamp : BankWork (fun _ _ => False) gid s.order (s.spWrite b a.toNat bs) ((s.spWrite b a.toNat bs).spStamp gid b.cluster true) :=
      BankWork.spStamp _ _ _ _
    have hread := State.spRead_spWrite s b hbank (i := 0) (n := bs.length) (Nat.zero_add _).le
    rw [hstamp.spRead]
    simpa using hread

end

/-- As a uniform instruction issues, an access of a bank is performed in its turn at once where nothing of the group waits. -/
theorem inTurn_bank_at_issue {s : State} {gid : Nat} {g : Group} (hg : find s.groups gid = some g) (hwait : s.waitingOf gid s.order = []) (pc : DWord)
    {y : AccOp} (hy : y.space ≠ 0) (f : State → Acc × State) :
    inTurn (s.who (g.uniAt gid pc 8)) (s.setG gid (g.ready pc)).order y f (s.setG gid (g.ready pc)) = f (s.setG gid (g.ready pc)) := by
  have hready : BankWork (fun _ _ => False) gid s.order s (s.setG gid (g.ready pc)) := BankWork.ready hg pc
  have hturn := hready.inTurn (w := s.who (g.uniAt gid pc 8)) rfl hwait hy f
  exact hturn

/-- A size that an atomic may have (R153). -/
theorem size_le_of_atomOk {atop size d : Nat} (h : atomOk atop size d = true) : size ≤ 5 := by
  simp only [atomOk, Bool.and_eq_true, Bool.or_eq_true, beq_iff_eq] at h
  omega

section
variable {s : State} {gid : Nat} {pc : DWord} {g : Group} {b : Block}

section
variable {f : UmForm} (hroad : clearRoad s g false)
  (hok : (s.setG gid (g.ready pc)).spFault g false (uniAddr32 (g.sreg f.base) f.off) (nbytes f.size) = none)
  (hwait : s.waitingOf gid s.order = []) (hb : s.blockOf g = some b) (hres : b.phase ≠ .gone)
include hroad hok hwait hb hres

/-- `sldsh` of unpoisoned bytes binds them (R161). -/
theorem exec_sldsh_reads (h : ReadyUni s gid pc g (.sldsh f) f.sw f.g { s := regRun f.d (dataRegs f.size) ++ [f.base.val] })
    (hclean : s.spPoison b (uniAddr32 (g.sreg f.base) f.off).toNat (nbytes f.size) = false) :
    let a := uniAddr32 (g.sreg f.base) f.off
    let s0 := s.setG gid (g.ready pc)
    ∃ t, s0.spLoad gid g false a (nbytes f.size) = (.ok (s.spRead b a.toNat (nbytes f.size)), t) ∧ t.mem = s.mem ∧ t.l2 = s.l2 ∧
      exec (.sldsh f) s = .next (t.performed gid (g.issued pc) (asPc (pc + 8#64))
        (uniWrites f.d (loadWords f.size false (s.spRead b a.toNat (nbytes f.size))))) := by
  intro a s0
  obtain ⟨-, hplace⟩ := State.bankPlace_of_block (b := b) hok hb
  obtain ⟨t, ht, hwork⟩ := State.spLoad_reads (s := s0) (gid := gid) hplace hres hclean
  refine ⟨t, ht, hwork.mem, hwork.l2, (exec_sldsh_ends h hroad).1 hok ((inTurn_bank_at_issue h.here hwait pc Nat.one_ne_zero _).trans ht)⟩

/-- `sstsh` leaves its bytes (R161). -/
theorem exec_sstsh_writes (h : ReadyUni s gid pc g (.sstsh f) f.sw f.g { s := regRun f.d (dataRegs f.size) ++ [f.base.val] }) (hsize : f.size.val ≤ 5) :
    let a := uniAddr32 (g.sreg f.base) f.off
    let s0 := s.setG gid (g.ready pc)
    ∃ t, s0.spStore gid g false a (uniData g.sreg f.d f.size) = (.ok [], t) ∧ t.mem = s.mem ∧ t.l2 = s.l2 ∧
      t.spRead b a.toNat (nbytes f.size) = uniData g.sreg f.d f.size ∧
      exec (.sstsh f) s = .next (t.performed gid (g.issued pc) (asPc (pc + 8#64)) []) := by
  intro a s0
  obtain ⟨halign, hplace⟩ := State.bankPlace_of_block (b := b) hok hb
  obtain ⟨t, ht, hwork, hread⟩ := State.spStore_writes (s := s0) (gid := gid) hplace hres (length_uniData g.sreg f.d hsize) (aligned_in_bank hsize halign)
  refine ⟨t, ht, hwork.mem, hwork.l2, hread, (exec_sstsh_ends h hroad).1 hok ((inTurn_bank_at_issue h.here hwait pc Nat.one_ne_zero _).trans ht)⟩

end

/-- `satsh` of unpoisoned bytes binds them and leaves the operation's result (R153, R161). -/
theorem exec_satsh_updates {f : UmaForm} (h : ReadyUni s gid pc g (.satsh f) f.sw f.g { s := regRun f.d (atomRegs f.size f.atop) ++ [f.base.val] })
    (hroad : clearRoad s g false) (hatom : atomOk f.atop f.size f.d = true)
    (hok : (s.setG gid (g.ready pc)).spFault g false (uniAddr32 (g.sreg f.base) f.off) (nbytes f.size) = none)
    (hwait : s.waitingOf gid s.order = []) (hb : s.blockOf g = some b) (hres : b.phase ≠ .gone)
    (hclean : s.spPoison b (uniAddr32 (g.sreg f.base) f.off).toNat (nbytes f.size) = false) :
    let a := uniAddr32 (g.sreg f.base) f.off
    let y := atomOperands f.size f.atop g.sreg f.d
    let old := s.spRead b a.toNat (nbytes f.size)
    ∃ t : State, exec (.satsh f) s = .next (t.performed gid (g.issued pc) (asPc (pc + 8#64)) (uniWrites f.d (loadWords f.size false old))) ∧
      t.mem = s.mem ∧ t.l2 = s.l2 ∧ t.spRead b a.toNat (nbytes f.size) = atomBytes f.size f.atop old y.1 y.2 := by
  intro a y old
  have hsize : f.size.val ≤ 5 := size_le_of_atomOk hatom
  obtain ⟨halign, hplace⟩ := State.bankPlace_of_block (b := b) hok hb
  obtain ⟨s1, hload, hwork1⟩ := State.spLoad_reads (s := s.setG gid (g.ready pc)) (gid := gid) hplace hres hclean
  have hplace1 : s1.bankPlace g false a (nbytes f.size) b a.toNat := (State.bankPlace_congr hwork1.blocks hwork1.launches).2 hplace
  have hlen := length_atomBytes hatom
  obtain ⟨t, hstore, hwork2, hread⟩ := State.spStore_writes (s := s1) (gid := gid) hplace1 hres (hlen old y.1 y.2) (aligned_in_bank hsize halign)
  have hatomic := State.spAtomic_of_load (j := gid) (y := y.1) (y2 := y.2) (fun old => hlen old y.1 y.2) hplace hload
  refine ⟨t, (exec_satsh_ends h hroad).1 hok ?_, hwork2.mem.trans hwork1.mem, hwork2.l2.trans hwork1.l2, hread⟩
  refine (inTurn_bank_at_issue h.here hwait pc Nat.one_ne_zero _).trans ?_
  rw [hatomic]
  exact congrArg (fun r : Acc × State => (Acc.ok old, r.2)) hstore

end

end Sys2Proof.Machine
end

section
/-!
SUPPORT. Stores to bytes that stand at their home: which bytes they leave (R243, R245, R298, R391).
-/
namespace Sys2Proof.Machine
open Sys2Proof

/-! ### Bytes of a sector -/

theorem sectorByte_setSectorByte (d : BitVec 128) (b : Byte) {i j : Nat} (hj : j < 16) :
    sectorByte (setSectorByte d i b) j = if j = i then b else sectorByte d j := by
  ext k hk
  rw [← BitVec.getLsbD_eq_getElem, ← BitVec.getLsbD_eq_getElem]
  have hin : 8 * j + k < 128 := by omega
  have hones (x : Nat) : (0xFF#128).getLsbD x = decide (x < 8) := by
    rw [BitVec.getLsbD_ofNat, show (0xFF : Nat) = 2 ^ 8 - 1 by rfl, Nat.testBit_two_pow_sub_one]
    by_cases hx : x < 8 <;> simp [hx]
    omega
  simp only [sectorByte, setSectorByte, apply_ite (fun x : Byte => x.getLsbD k), BitVec.getLsbD_setWidth, BitVec.getLsbD_ushiftRight, BitVec.getLsbD_or,
    BitVec.getLsbD_and, BitVec.getLsbD_not, BitVec.getLsbD_shiftLeft, hones, hk, hin, decide_true, Bool.true_and]
  by_cases hji : j = i
  · subst hji
    simp [hk]
    omega
  · have hfar : 8 * j + k < 8 * i ∨ 8 ≤ 8 * j + k - 8 * i := by omega
    rcases hfar with hlt | hge
    · simp [hji, hlt]
    · simp [hji, BitVec.getLsbD_of_ge b _ hge, Nat.not_lt.2 hge]

/-- Bytes stored within a sector: those places hold them, the others what they held. -/
theorem sectorByte_foldl_setSectorByte (v : Nat → Byte) (d : BitVec 128) {a n j : Nat} (hj : j < 16) :
    sectorByte ((List.range n).foldl (fun d i => setSectorByte d (a + i) (v i)) d) j = if a ≤ j ∧ j < a + n then v (j - a) else sectorByte d j := by
  induction n with
  | zero => rw [if_neg (by omega)]; rfl
  | succ n ih =>
    rw [List.range_succ, List.foldl_append, List.foldl_cons, List.foldl_nil, sectorByte_setSectorByte _ _ hj, ih]
    by_cases hlast : j = a + n
    · subst hlast
      rw [if_pos rfl, if_pos (by omega), Nat.add_sub_cancel_left]
    · rw [if_neg hlast]
      by_cases hin : a ≤ j ∧ j < a + n
      · rw [if_pos hin, if_pos (by omega)]
      · rw [if_neg hin, if_neg (by omega)]

/-! ### One piece of a store -/

theorem State.verOf_markWritten (s : State) (lid asid va lid' asid' va' : Nat) :
    (s.markWritten lid asid va).verOf lid' asid' va' = s.verOf lid' asid' va' := by
  have hfind : find (s.markWritten lid asid va).launches lid' = if lid' = lid then (find s.launches lid).map _ else find s.launches lid' := find_upd ..
  rw [State.verOf, State.verOf, hfind]
  by_cases hl : lid' = lid
  · subst hl
    rw [if_pos rfl]
    cases find s.launches lid' with
    | none => rfl
    | some l =>
      simp only [Option.map_some, find_upd]
      by_cases hk : grainKey asid' va' = grainKey asid va
      · simp [hk]
      · simp [hk]
  · rw [if_neg hl]

section
variable (s : State) (lid a : Nat)

/-- What a store within a sector leaves of it. -/
def Sector.stored (x : Sector) (off : Nat) (bs : List Byte) : Sector :=
  { x with data := (List.range bs.length).foldl (fun d i => setSectorByte d (off + i) (bs.getD i 0#8)) x.data
           dirty := true, poison := x.poison && decide (bs.length < 16) }

/-- The sector of an address as a launch sees it, in a given space. -/
def State.sectorIn (x : Nat) : Option Sector := find s.l2 (l2key (s.verOf lid a x) a x)

/-- A piece stored at home changes the sector it lies in. -/
theorem State.sectorIn_store {va x : Nat} (hva : va < 2 ^ 56) (hx : x < 2 ^ 56) (bs : List Byte) :
    ((s.homeStore lid a va bs).markWritten lid a va).sectorIn lid a x =
      if x / 16 = va / 16 then (s.sectorIn lid a x).map fun y => y.stored (va % 16) bs else s.sectorIn lid a x := by
  have hver (z : Nat) : ((s.homeStore lid a va bs).markWritten lid a va).verOf lid a z = s.verOf lid a z := State.verOf_markWritten _ _ _ _ _ _ _
  have hl2 : ((s.homeStore lid a va bs).markWritten lid a va).l2 = upd s.l2 (l2key (s.verOf lid a va) a va) fun y => y.stored (va % 16) bs := rfl
  rw [State.sectorIn, State.sectorIn, hver, hl2, find_upd]
  by_cases hsec : x / 16 = va / 16
  · have hkey : l2key (s.verOf lid a x) a x = l2key (s.verOf lid a va) a va := by
      rw [s.verOf_line lid a (show x / 128 = va / 128 by omega), l2key, l2key, hsec]
    rw [if_pos hsec, if_pos hkey, hkey]
  · rw [if_neg hsec, if_neg fun hkey => hsec (sector_of_l2key hx hva hkey)]

theorem State.homeByte_eq (x : Nat) : s.homeByte lid a x = match s.sectorIn lid a x with | some y => sectorByte y.data (x % 16) | none => 0#8 := rfl

/-- One piece of a store of `bs` at va. -/
def State.storePiece (va : Nat) (bs : List Byte) (s : State) (p : Nat × Nat) : State :=
  (s.homeStore lid a p.1 ((bs.drop (p.1 - va)).take p.2)).markWritten lid a p.1

variable {s lid a} {va : Nat} {bs : List Byte} {p : Nat × Nat} (hlow : va ≤ p.1) (hpos : 0 < p.2) (hend : p.1 + p.2 ≤ va + bs.length) (hsec : p.1 % 16 + p.2 ≤ 16)
  (htop : va + bs.length ≤ 2 ^ 56) {x : Nat} (hx : x < va + bs.length) {y : Sector} (hy : s.sectorIn lid a x = some y)
include hlow hpos hend hsec htop hx hy

/-- A piece leaves its bytes of the store, and every sector where it stood. -/
theorem State.homeByte_storePiece : (∃ y', (s.storePiece lid a va bs p).sectorIn lid a x = some y') ∧ (s.storePiece lid a va bs p).homeByte lid a x =
    if p.1 ≤ x ∧ x < p.1 + p.2 then bs.getD (x - va) 0#8 else s.homeByte lid a x := by
  have hlen : ((bs.drop (p.1 - va)).take p.2).length = p.2 := by simp; omega
  have hsector := State.sectorIn_store s lid a (va := p.1) (x := x) (by omega) (by omega) ((bs.drop (p.1 - va)).take p.2)
  by_cases hsame : x / 16 = p.1 / 16
  · rw [if_pos hsame, hy] at hsector
    refine ⟨⟨_, hsector⟩, ?_⟩
    rw [State.homeByte_eq, State.homeByte_eq, State.storePiece, hsector, hy]
    simp only [Option.map_some, Sector.stored, hlen]
    rw [sectorByte_foldl_setSectorByte _ _ (Nat.mod_lt _ (by decide))]
    by_cases hin : p.1 ≤ x ∧ x < p.1 + p.2
    · rw [if_pos (by omega), if_pos hin]
      have hoff : x % 16 - p.1 % 16 < p.2 := by omega
      have hidx : p.1 - va + (x % 16 - p.1 % 16) = x - va := by omega
      simp only [List.getD_eq_getElem?_getD, List.getElem?_take, List.getElem?_drop, if_pos hoff, hidx]
    · rw [if_neg (by omega), if_neg hin]
  · rw [if_neg hsame, hy] at hsector
    refine ⟨⟨_, hsector⟩, ?_⟩
    rw [State.homeByte_eq, State.homeByte_eq, State.storePiece, hsector, hy, if_neg (by omega)]

end

/-- The pieces of a store leave its bytes. -/
theorem State.homeByte_storePieces {lid a va : Nat} {bs : List Byte} (htop : va + bs.length ≤ 2 ^ 56) {ps : List (Nat × Nat)}
    (hps : ∀ p ∈ ps, va ≤ p.1 ∧ 0 < p.2 ∧ p.1 + p.2 ≤ va + bs.length ∧ p.1 % 16 + p.2 ≤ 16) {x : Nat} (hx : x < va + bs.length) {s : State} {y : Sector}
    (hy : s.sectorIn lid a x = some y) (hdone : s.homeByte lid a x = bs.getD (x - va) 0#8 ∨ ∃ p ∈ ps, p.1 ≤ x ∧ x < p.1 + p.2) :
    (ps.foldl (State.storePiece lid a va bs) s).homeByte lid a x = bs.getD (x - va) 0#8 := by
  induction ps generalizing s y with
  | nil => exact hdone.resolve_right fun ⟨p, hp, _⟩ => nomatch hp
  | cons p ps ih =>
    obtain ⟨hlow, hpos, hend, hsec⟩ := hps p List.mem_cons_self
    obtain ⟨⟨y', hy'⟩, hbyte⟩ := State.homeByte_storePiece hlow hpos hend hsec htop hx hy
    refine ih (fun p hp => hps p (List.mem_cons_of_mem _ hp)) hy' ?_
    rw [hbyte]
    by_cases hin : p.1 ≤ x ∧ x < p.1 + p.2
    · rw [if_pos hin]; exact .inl rfl
    · rw [if_neg hin]
      refine hdone.imp_right fun ⟨r, hr, hcov⟩ => ?_
      rcases List.mem_cons.1 hr with rfl | hr
      · exact absurd hcov hin
      · exact ⟨r, hr, hcov⟩

/-! ### Stores that hit (R243, R391) -/

/-- A launch that is not replayable takes no shadow. -/
theorem State.shadowWanted_plain {s : State} {q : Req} (hplain : ∀ la, find s.launches q.lid = some la → la.replayable = false) (va : Nat) :
    s.shadowWanted q va = none := by
  unfold State.shadowWanted
  cases hl : find s.launches q.lid with
  | none => rfl
  | some la => simp [hplain la hl]

/-- A store to bytes that stand at their home, in no frozen tensor and of a launch that is not replayable, leaves them there. -/
theorem State.AtHome.homeWrite {s : State} {q : Req} {va : Nat} {bs : List Byte} (h : s.AtHome q.lid q.asid va bs.length)
    (hfrozen : ∀ k < bs.length, s.frozenAt (q.waysOf va) (va + k) = false)
    (hplain : ∀ la, find s.launches q.lid = some la → la.replayable = false) :
    ∃ t, s.homeWrite q va bs = (.ok [], t) ∧ t.mem = s.mem ∧ ∀ k < bs.length, t.homeByte q.lid (canonAsid q.asid va) (va + k) = bs.getD k 0#8 := by
  have hps (p : Nat × Nat) (hp : p ∈ pieces va bs.length) := mem_pieces h.small hp
  have hthaw : (pieces va bs.length).any (fun p => s.frozenAt (q.waysOf va) p.1 || s.frozenAt (q.waysOf va) (p.1 + p.2 - 1)) = false := by
    rw [List.any_eq_false]
    intro p hp
    obtain ⟨hlow, hpos, hend, -⟩ := hps p hp
    have hfirst := hfrozen (p.1 - va) (by omega)
    have hlast := hfrozen (p.1 + p.2 - 1 - va) (by omega)
    rw [show va + (p.1 - va) = p.1 by omega] at hfirst
    rw [show va + (p.1 + p.2 - 1 - va) = p.1 + p.2 - 1 by omega] at hlast
    simp [hfirst, hlast]
  have hneeds : (pieces va bs.length).findSome? (fun p => s.shadowNeeds q p.1) = none := by
    rw [List.findSome?_eq_none_iff]
    intro p _
    simp only [State.shadowNeeds, State.shadowWanted_plain hplain]
  have hshadow : (pieces va bs.length).foldl (fun s p => s.shadowFor q p.1) s = s := by
    have hone (p : Nat × Nat) : s.shadowFor q p.1 = s := by simp only [State.shadowFor, State.shadowWanted_plain hplain]
    exact List.foldl_fixed' hone _
  refine ⟨(pieces va bs.length).foldl (State.storePiece q.lid (canonAsid q.asid va) va bs) s, ?_, ?_, fun k hk => ?_⟩
  · simp only [State.homeWrite, hthaw, hneeds, hshadow, h.touchAll, Bool.false_eq_true, if_false]
    rfl
  · exact foldl_keeps State.mem (State.storePiece q.lid (canonAsid q.asid va) va bs) _ (fun _ _ _ => rfl) s
  · obtain ⟨y, hy, -⟩ := h.sectors k hk
    have hsector : s.sectorIn q.lid (canonAsid q.asid va) (va + k) = some y := by rw [← h.canon hk]; exact hy
    have hbyte := State.homeByte_storePieces h.below hps (x := va + k) (by omega) hsector (.inr (exists_piece hk))
    rwa [Nat.add_sub_cancel_left] at hbyte

end Sys2Proof.Machine
end

section
/-!
SUPPORT. Stores and atomics performed at their home by a group of which nothing waits, where no stream store is held (R153, R243, R245, R251, R256).
-/
namespace Sys2Proof.Machine
open Sys2Proof

/-! ### What keeps the bytes at home -/

/-- Memory, L2, the launches and the clusters. -/
def State.stored (s : State) : List Host.Cell × SMap Sector × SMap Launch × SMap Cluster := (s.mem, s.l2, s.launches, s.clusters)

theorem State.stored_of_sansDies {s t : State} (h : t.sansDies = s.sansDies) : t.stored = s.stored := by
  change t.sansDies.stored = s.sansDies.stored
  rw [h]

/-- The timestamp of an access is not stored with its bytes. -/
theorem State.stored_stamp (s : State) (w : Who) (va : Nat) (store : Bool) (tick : Nat) : (s.stamp w va store tick).stored = s.stored := by
  unfold State.stamp
  split
  · rfl
  · split
    · have hremote : (s.isRemote w.asid va).2.stored = s.stored := State.stored_of_sansDies (s.sansDies_isRemote w.asid va)
      exact hremote
    · cases store <;> rfl

/-- Memory and the bytes at home are stored. -/
theorem State.home_of_stored {s t : State} (h : t.stored = s.stored) :
    t.mem = s.mem ∧ (∀ lid asid va, t.homeByte lid asid va = s.homeByte lid asid va) ∧ ∀ c, t.cluster c = s.cluster c := by
  simp only [State.stored, Prod.mk.injEq] at h
  obtain ⟨hmem, hl2, hla, hcl⟩ := h
  exact ⟨hmem, State.homeByte_congr hl2 hla, fun c => by rw [State.cluster, State.cluster, hcl]⟩

/-- Taking a copy of a line changes no byte at home, nothing being held. -/
theorem State.home_l1Fill {s : State} {c : Nat} (hheld : (s.cluster c).l1held = []) (lid asid va : Nat) :
    (s.l1Fill c lid asid va).mem = s.mem ∧ ∀ lid' asid' va', (s.l1Fill c lid asid va).homeByte lid' asid' va' = s.homeByte lid' asid' va' := by
  have hroom : (s.l1Room c asid va).mem = s.mem ∧ (s.l1Room c asid va).l2 = s.l2 ∧ (s.l1Room c asid va).launches = s.launches := by
    unfold State.l1Room
    simp only [hheld, List.filter_nil, List.map_nil]
    split
    · exact ⟨rfl, rfl, rfl⟩
    · split <;> exact ⟨rfl, rfl, rfl⟩
  unfold State.l1Fill
  extract_lets ver line data s1 t
  obtain ⟨hmem, hl2, hla⟩ : s1.mem = s.mem ∧ s1.l2 = s.l2 ∧ s1.launches = s.launches := hroom
  clear_value t s1
  split
  · exact ⟨rfl, fun _ _ _ => rfl⟩
  · exact ⟨hmem, State.homeByte_congr hl2 hla⟩

/-! ### The worlds' declarations -/

theorem State.worlds_of_upper {s t : State} (h : t.upper = s.upper) : t.worlds = s.worlds := by
  change t.upper.worlds = s.upper.worlds
  rw [h]

theorem State.cluster_of_upper {s t : State} (h : t.upper = s.upper) (c : Nat) : t.cluster c = s.cluster c := by
  change t.upper.cluster c = s.upper.cluster c
  rw [h]

theorem State.worlds_attrs (s : State) (c asid va : Nat) : (s.attrs c asid va).2.worlds = s.worlds := by
  unfold State.attrs
  extract_lets a
  split
  · rfl
  · have hport : (s.portLeaf a va false).2.worlds = s.worlds := State.worlds_of_upper (s.upper_portLeaf a va false)
    generalize s.portLeaf a va false = r at hport ⊢
    obtain ⟨leaf, s1⟩ := r
    cases leaf with
    | bad c x => exact hport
    | leaf l =>
      have hentry : (s1.asidEntry (homeDie a va) a).2.worlds = s1.worlds := State.worlds_of_upper (s1.upper_asidEntry (homeDie a va) a)
      dsimp only at hport ⊢
      generalize s1.asidEntry (homeDie a va) a = r at hentry ⊢
      obtain ⟨e, s2⟩ := r
      dsimp only at hentry ⊢
      split
      · exact hentry.trans hport
      · exact hentry.trans hport

theorem State.worlds_refill (s : State) (w : Who) (addrs : List DWord) : (s.refill w addrs).worlds = s.worlds := by
  unfold State.refill
  refine foldl_keeps State.worlds _ _ (fun s a _ => ?_) s
  split
  · exact s.worlds_attrs _ _ _
  · rfl

theorem State.frozenAt_congr {s t : State} (h : t.worlds = s.worlds) (world va : Nat) : t.frozenAt world va = s.frozenAt world va := by
  rw [State.frozenAt, State.frozenAt, State.world, State.world, h]

/-- With nothing held, what an access at the home asks of the L1 first changes no declaration. -/
theorem State.Resting.worlds_clearLines {s0 t : State} {w : Who} {before : Nat} (h : s0.Resting w before t) (va n : Nat) :
    (t.clearLines w va n).worlds = t.worlds := by
  refine (List.foldlRecOn (motive := fun u => s0.Resting w before u ∧ u.worlds = t.worlds) (lineEnds va n) _ ⟨h, rfl⟩ fun u hu x _ => ?_).2
  rw [hu.1.publishLine]
  exact ⟨hu.1.dropCopies _ _, hu.2⟩

/-! ### Stores and atomics -/

section
variable {s0 t : State} {w : Who} {before va : Nat} (h : s0.Resting w before t) (hworlds : t.worlds = s0.worlds)
  (hplain : ∀ la, find s0.launches w.lid = some la → la.replayable = false)
include h hworlds hplain

/-- A write at home, once the L1 was asked, leaves the bytes there. -/
theorem State.Resting.homeWrite {q : Req} (hlid : q.lid = w.lid) (hasid : q.asid = w.asid) (hworld : q.world = w.world) {bs : List Byte}
    (hat : s0.AtHome w.lid w.asid va bs.length) (hfrozen : ∀ k < bs.length, s0.frozenAt w.world (va + k) = false ∧ s0.frozenAt 0 (va + k) = false) :
    ∃ t', t.homeWrite q va bs = (.ok [], t') ∧ t'.mem = s0.mem ∧ (∀ c, t'.cluster c = t.cluster c) ∧
      ∀ k < bs.length, t'.homeByte w.lid (canonAsid w.asid va) (va + k) = bs.getD k 0#8 := by
  have hat' : t.AtHome q.lid q.asid va bs.length := by rw [hlid, hasid]; exact hat.congr h.l2 h.launches
  have hthaw : ∀ k < bs.length, t.frozenAt (q.waysOf va) (va + k) = false := by
    intro k hk
    rw [State.frozenAt_congr hworlds, Req.waysOf, hworld]
    split
    · exact (hfrozen k hk).2
    · exact (hfrozen k hk).1
  obtain ⟨t', ht', hmem, hbytes⟩ := hat'.homeWrite hthaw (by rw [h.launches, hlid]; exact hplain)
  rw [hlid, hasid] at hbytes
  have hupper := t.upper_homeWrite q va bs
  rw [ht'] at hupper
  exact ⟨t', ht', hmem.trans h.mem, fun c => State.cluster_of_upper hupper c, hbytes⟩

/-- A store at home leaves its bytes there. -/
theorem State.Resting.storeNow {bs : List Byte} (hat : s0.AtHome w.lid w.asid va bs.length)
    (hfrozen : ∀ k < bs.length, s0.frozenAt w.world (va + k) = false ∧ s0.frozenAt 0 (va + k) = false) (stream : Bool) :
    ∃ t', t.storeNow w va bs stream = (.ok [], t') ∧ t'.mem = s0.mem ∧
      ∀ k < bs.length, t'.homeByte w.lid (canonAsid w.asid va) (va + k) = bs.getD k 0#8 := by
  have hclear : s0.Resting w before (t.clearLines w va bs.length) := h.clearLines va bs.length
  obtain ⟨t', ht', hmem, -, hbytes⟩ := hclear.homeWrite ((h.worlds_clearLines va bs.length).trans hworlds) hplain (q := w.req .store) rfl rfl rfl hat hfrozen
  have hstored : ((lineEnds va bs.length).foldl (fun s x => if stream then (s.tsStore (canonAsid w.asid va) x 0).2 else s.stamp w x true) t').stored = t'.stored := by
    refine foldl_keeps State.stored _ _ (fun s x _ => ?_) t'
    cases stream with
    | true => rfl
    | false => exact s.stored_stamp w x true 1
  obtain ⟨hsame, hbyte, -⟩ := State.home_of_stored hstored
  refine ⟨_, ?_, hsame.trans hmem, fun k hk => (hbyte _ _ _).trans (hbytes k hk)⟩
  simp only [State.storeNow, hclear.linesHeld, ht', Bool.false_eq_true, if_false]

/-- An atomic at home answers the old bytes and leaves the operation's result (R153). -/
theorem State.Resting.atomicNow {size op y y2 : Nat} (hlen : ∀ old, (atomBytes size op old y y2).length = nbytes size)
    (hat : s0.AtHome w.lid w.asid va (nbytes size))
    (hfrozen : ∀ k < nbytes size, s0.frozenAt w.world (va + k) = false ∧ s0.frozenAt 0 (va + k) = false) (scope : Nat) :
    ∃ t', t.atomicNow w va size op y y2 scope = (.ok (s0.homeBytes w.lid w.asid va (nbytes size)), t') ∧ t'.mem = s0.mem ∧
      ∀ k < nbytes size, t'.homeByte w.lid (canonAsid w.asid va) (va + k) =
        (atomBytes size op (s0.homeBytes w.lid w.asid va (nbytes size)) y y2).getD k 0#8 := by
  have hnew := hlen (s0.homeBytes w.lid w.asid va (nbytes size))
  have hclear : s0.Resting w before (t.clearLines w va (nbytes size)) := h.clearLines va (nbytes size)
  have helse : (t.clearLines w va (nbytes size)).heldElsewhere w.c (canonAsid w.asid va) va = false := by rw [State.heldElsewhere, hclear.dir]; rfl
  have hread := hclear.homeRead hat (q := w.req .atomic true) rfl rfl
  obtain ⟨t', ht', hmem, hcl, hbytes⟩ := hclear.homeWrite ((h.worlds_clearLines va (nbytes size)).trans hworlds) hplain (q := w.req .atomic true)
    rfl rfl rfl (bs := atomBytes size op (s0.homeBytes w.lid w.asid va (nbytes size)) y y2) (by rw [hnew]; exact hat) (by rw [hnew]; exact hfrozen)
  rw [hnew] at hbytes
  obtain ⟨hsame, hbyte, hcl'⟩ := State.home_of_stored (t'.stored_stamp w va true 1)
  have hheld : ((t'.stamp w va true).cluster w.c).l1held = [] := by rw [hcl', hcl]; exact hclear.held w.c
  obtain ⟨hfill, hfillByte⟩ := State.home_l1Fill hheld w.lid (canonAsid w.asid va) va
  simp only [State.atomicNow, State.forcePublish_nothing h.dir, helse, hclear.linesHeld, hread, ht', Bool.or_self, Bool.false_eq_true, if_false]
  refine ⟨_, rfl, ?_, fun k hk => ?_⟩
  · split
    · exact hfill.trans (hsame.trans hmem)
    · exact hsame.trans hmem
  · rw [← hbytes k hk, ← hbyte]
    split
    · exact hfillByte _ _ _
    · rfl

end

end Sys2Proof.Machine
end

section
/-!
SUPPORT. Uniform global accesses of bytes that stand at their home, of a group of which nothing waits (R161, R243).
-/
namespace Sys2Proof.Machine
open Sys2Proof

section
variable {s : State} {gid : Nat} {pc : DWord} {g : Group} {i : Instr} {sw : Fin 2} {gd : Fin 8} {u : Uses}

/-- As a uniform instruction issues, a quiet group and memory are at rest. -/
theorem ReadyUni.resting (h : ReadyUni s gid pc g i sw gd u) (hquiet : quietHome s gid g) (addr : DWord) :
    s.Resting (s.who (g.uniAt gid pc 8)) s.order ((s.setG gid (g.ready pc)).refill (s.who (g.uniAt gid pc 8)) [addr]) :=
  State.Resting.refill (.of_quietHome hquiet h.here (g.ready_replay pc) rfl rfl rfl) _

end

/-- A store that no L1 takes is performed at its home (R251). -/
theorem State.storeAtPoint_home {stream : Bool} {scope : Nat} (h : stream = false ∨ scope = 6) (s : State) (w : Who) (va : Nat) (bs : List Byte)
    (pc : DWord) (lane : Nat) (whole : Word) : s.storeAtPoint w va bs stream false scope pc lane whole = s.storeNow w va bs stream := by
  have hl1 : (stream && decide (scope ≤ 3)) = false := by rcases h with rfl | rfl <;> simp
  have hdev : (stream && decide (scope ≤ 5)) = false := by rcases h with rfl | rfl <;> simp
  simp only [State.storeAtPoint, hl1, hdev, Bool.false_and, Bool.false_eq_true, if_false, State.storeHome, Bool.not_false, if_true]

section
variable {s : State} {gid : Nat} {pc : DWord} {g : Group}

/-- `sld` of bytes at their home binds them (R161). -/
theorem exec_sld_home {f : UmForm} (h : ReadyUni s gid pc g (.sld f) f.sw f.g { s := regRun f.d (dataRegs f.size) ++ [f.base.val, f.base + 1] })
    (hsize : f.size.val ≤ 5) (hroad : clearRoad s g (decide (f.cls = 1))) :
    let w := s.who (g.uniAt gid pc 8)
    let n := nbytes f.size
    let addr := uniAddr (g.sreg64 f.base) f.off
    let s1 := (s.setG gid (g.ready pc)).refill w [addr]
    s1.accFault w .load addr n false = none → quietHome s gid g → atHome s w addr.toNat n →
    ∃ t : State, t.mem = s.mem ∧ t.l2 = s.l2 ∧
      exec (.sld f) s = .next ((t.settleHints s1 w [addr.toNat] n (decide (f.cls = 1)) f.scope f.rc f.grain f.pol true).performed
        gid (g.issued pc) (asPc (pc + 8#64)) (uniWrites f.d (loadWords f.size false (s.homeBytes w.lid w.asid addr.toNat n)))) := by
  intro w n addr s1 hok hquiet hat
  have hn : n ≤ 16 := nbytes_le hsize
  have hhome : s.AtHome w.lid w.asid addr.toNat n := .of_atHome hat (nbytes_pos _) hn (State.below_of_accFault hok hn)
  have hrest : s.Resting w s.order s1 := h.resting hquiet addr
  obtain ⟨t, ht, hend⟩ := hrest.loadNow hhome (decide (f.cls = 1)) f.scope (decide (f.pol = 1)) 1 .load
  refine ⟨t, hend.mem, hend.l2, (exec_sld_ends h hroad).1 hok ?_⟩
  rw [hrest.order, hrest.inTurn]
  exact ht

/-- `sst` to bytes at their home, not taken by the L1, leaves its own there (R161, R243). -/
theorem exec_sst_home {f : UmForm} (h : ReadyUni s gid pc g (.sst f) f.sw f.g { s := regRun f.d (dataRegs f.size) ++ [f.base.val, f.base + 1] })
    (hsize : f.size.val ≤ 5) (hroad : clearRoad s g (decide (f.cls = 1))) :
    let w := s.who (g.uniAt gid pc 8)
    let n := nbytes f.size
    let addr := uniAddr (g.sreg64 f.base) f.off
    let s1 := (s.setG gid (g.ready pc)).refill w [addr]
    let far : Nat := if f.pol = 1 ∧ f.scope.val ≤ 3 then 4 else f.scope.val
    s1.accFault w .store addr n false = none → (decide (f.cls = 1) = false ∨ far = 6) → quietHome s gid g → atHome s w addr.toNat n →
    (∀ la, find s.launches w.lid = some la → la.replayable = false) →
    (∀ k < n, s.frozenAt w.world (addr.toNat + k) = false ∧ s.frozenAt 0 (addr.toNat + k) = false) →
    ∃ t : State, t.mem = s.mem ∧
      (∀ k < n, t.homeByte w.lid (canonAsid w.asid addr.toNat) (addr.toNat + k) = (uniData g.sreg f.d f.size).getD k 0#8) ∧
      exec (.sst f) s = .next ((t.settleHints s1 w [addr.toNat] n (decide (f.cls = 1)) far 0 f.grain f.pol false).performed
        gid (g.issued pc) (asPc (pc + 8#64)) []) := by
  intro w n addr s1 far hok hpast hquiet hat hplain hfrozen
  have hn : n ≤ 16 := nbytes_le hsize
  have hhome : s.AtHome w.lid w.asid addr.toNat n := .of_atHome hat (nbytes_pos _) hn (State.below_of_accFault hok hn)
  have hrest : s.Resting w s.order s1 := h.resting hquiet addr
  have hworlds : s1.worlds = s.worlds := State.worlds_refill _ _ _
  have hlen : (uniData g.sreg f.d f.size).length = n := length_uniData g.sreg f.d hsize
  obtain ⟨t, ht, hmem, hbytes⟩ := hrest.storeNow (bs := uniData g.sreg f.d f.size) hworlds hplain (by rw [hlen]; exact hhome) (by rw [hlen]; exact hfrozen)
    (decide (f.cls = 1))
  rw [hlen] at hbytes
  refine ⟨t, hmem, hbytes, (exec_sst_ends (bs := []) h hroad).1 hok ?_⟩
  rw [hrest.order, hrest.inTurn]
  exact (State.storeAtPoint_home hpast ..).trans ht

/-- `satom` of bytes at their home binds them and leaves the operation's result (R153, R161). -/
theorem exec_satom_home {f : UmaForm} (h : ReadyUni s gid pc g (.satom f) f.sw f.g { s := regRun f.d (atomRegs f.size f.atop) ++ [f.base.val, f.base + 1] })
    (hatom : atomOk f.atop f.size f.d = true) (hroad : clearRoad s g false) :
    let w := s.who (g.uniAt gid pc 8)
    let n := nbytes f.size
    let addr := uniAddr (g.sreg64 f.base) f.off
    let y := atomOperands f.size f.atop g.sreg f.d
    let s1 := (s.setG gid (g.ready pc)).refill w [addr]
    let old := s.homeBytes w.lid w.asid addr.toNat n
    s1.accFault w .atomic addr n (decide (addr.toNat % n ≠ 0)) = none → quietHome s gid g → atHome s w addr.toNat n →
    (∀ la, find s.launches w.lid = some la → la.replayable = false) →
    (∀ k < n, s.frozenAt w.world (addr.toNat + k) = false ∧ s.frozenAt 0 (addr.toNat + k) = false) →
    ∃ t : State, t.mem = s.mem ∧
      (∀ k < n, t.homeByte w.lid (canonAsid w.asid addr.toNat) (addr.toNat + k) = (atomBytes f.size f.atop old y.1 y.2).getD k 0#8) ∧
      exec (.satom f) s = .next ((t.settleHints s1 w [addr.toNat] n false 6 0 0 f.pol false).performed
        gid (g.issued pc) (asPc (pc + 8#64)) (uniWrites f.d (loadWords f.size false old))) := by
  intro w n addr y s1 old hok hquiet hat hplain hfrozen
  have hn : n ≤ 16 := nbytes_le (size_le_of_atomOk hatom)
  have hhome : s.AtHome w.lid w.asid addr.toNat n := .of_atHome hat (nbytes_pos _) hn (State.below_of_accFault hok hn)
  have hrest : s.Resting w s.order s1 := h.resting hquiet addr
  have hworlds : s1.worlds = s.worlds := State.worlds_refill _ _ _
  obtain ⟨t, ht, hmem, hbytes⟩ := hrest.atomicNow (y := y.1) (y2 := y.2) hworlds hplain (fun old => length_atomBytes hatom old y.1 y.2) hhome hfrozen f.scope
  refine ⟨t, hmem, hbytes, (exec_satom_ends h hroad).1 hok ?_⟩
  rw [hrest.order, hrest.inTurn]
  exact ht

end

end Sys2Proof.Machine
end

section
/-!
SUPPORT. The uniform memory instructions complete (R161, R202, R203).
-/
namespace Sys2Proof.Machine
open Sys2Proof

theorem size_le_of_wf {a b : Bool} {size : Nat} (h : (a && decide (size ≤ 3) && b) = true) : size ≤ 5 := by
  simp only [Bool.and_eq_true, decide_eq_true_eq] at h
  omega

theorem setWidth_word_back (x : Word) : (x.setWidth 64).setWidth 32 = x := by
  rw [BitVec.setWidth_setWidth_of_le x (by decide), BitVec.setWidth_eq]

theorem toNat_setWidth_word (x : Word) : (x.setWidth 64).toNat = x.toNat :=
  BitVec.toNat_setWidth_of_le (by decide)

/-- Settles O41: the one access either fails its checks or performs in its turn; at a memory or a scratchpad at rest it does, and its bytes are those there. -/
theorem uniformAccessesComplete : Obligations.UniformAccessesComplete := by
  unfold Obligations.UniformAccessesComplete
  intro gives data none_
  refine ⟨fun f => ⟨?_, ?_, ?_, ?_⟩, fun f => ⟨?_, ?_⟩, ?_, ?_, ?_, ?_, ?_, ?_⟩
  · exact fun s gid pc g bs t h hroad => exec_sld_ends h hroad
  · exact fun s gid pc g bs t h hroad => exec_sst_ends h hroad
  · intro s gid pc g bs t h hroad
    simp only [if_true, setWidth_word_back, toNat_setWidth_word]
    exact exec_sldsh_ends h hroad
  · intro s gid pc g bs t h hroad
    simp only [if_true, setWidth_word_back, toNat_setWidth_word]
    exact exec_sstsh_ends h hroad
  · exact fun s gid pc g bs t h hroad => exec_satom_ends h hroad
  · intro s gid pc g bs t h hroad
    simp only [if_true, setWidth_word_back, toNat_setWidth_word]
    exact exec_satsh_ends h hroad
  · intro f s gid pc g it w n va a stream s0 s1 ended bank
    have hva : BitVec.ofNat 64 va = uniAddr (g.sreg64 f.base) f.off := by rw [BitVec.ofNat_toNat, BitVec.setWidth_eq]
    have hs1 : s1 = s0.refill w [uniAddr (g.sreg64 f.base) f.off] := congrArg (fun x => s0.refill w [x]) hva
    clear_value s1
    subst hs1
    rw [hva]
    refine ⟨fun h hroad => exec_sld_home h (size_le_of_wf h.formed) hroad, fun h hroad => ?_, fun h hroad hok hwait b hb hres hclean => ?_,
      fun h hroad hok hwait b hb hres _ => ?_⟩
    · exact exec_sst_home h (size_le_of_wf (Bool.and_eq_true_iff.1 h.formed).1) hroad
    · obtain ⟨t, ht, hmem, hl2, hexec⟩ := exec_sldsh_reads hroad hok hwait hb hres h hclean
      exact ⟨_, t, ht, rfl, hexec, hmem, hl2⟩
    · obtain ⟨t, ht, hmem, hl2, hread, hexec⟩ := exec_sstsh_writes hroad hok hwait hb hres h (size_le_of_wf h.formed)
      exact ⟨[], t, ht, hread, hexec, hmem, hl2⟩
  · intro f s gid pc g it w n va a y s0 s1 ended
    have hva : BitVec.ofNat 64 va = uniAddr (g.sreg64 f.base) f.off := by rw [BitVec.ofNat_toNat, BitVec.setWidth_eq]
    have hs1 : s1 = s0.refill w [uniAddr (g.sreg64 f.base) f.off] := congrArg (fun x => s0.refill w [x]) hva
    clear_value s1
    subst hs1
    rw [hva]
    have hatom {b c : Bool} (h : (atomOk f.atop f.size f.d && b && c) = true) : atomOk f.atop f.size f.d = true :=
      (Bool.and_eq_true_iff.1 (Bool.and_eq_true_iff.1 h).1).1
    exact ⟨fun h hroad => exec_satom_home h (hatom h.formed) hroad,
      fun h hroad hok hwait b hb hres hclean => exec_satsh_updates h hroad (hatom h.formed) hok hwait hb hres hclean⟩
  · intro f s c m n va a loaded
    exact ⟨fun h x t ht => (exec_sld_mast h).trans (congrArg (MastAcc.finish · c 8 _) ht), exec_sld_sram,
      fun h x t ht => (exec_sst_mast h).trans (congrArg (MastAcc.finish · c 8 _) ht),
      fun h => exec_sst_sram h (size_le_of_wf (Bool.and_eq_true_iff.1 h.formed).1),
      fun h x t ht => (exec_sldsh_mast h).trans (congrArg (MastAcc.finish · c 8 _) ht),
      fun h x t ht => (exec_sstsh_mast h).trans (congrArg (MastAcc.finish · c 8 _) ht)⟩
  · exact fun f s c m old x s1 t => ⟨exec_satom_mast, exec_satsh_mast⟩
  · exact fun f => ⟨skips_of_uniIssue fun _ => rfl, skips_of_uniIssue fun _ => rfl, skips_of_uniIssue fun _ => rfl, skips_of_uniIssue fun _ => rfl⟩
  · exact fun f => ⟨skips_of_uniIssue fun _ => rfl, skips_of_uniIssue fun _ => rfl⟩

end Sys2Proof.Machine
end

section
/-!
SUPPORT. What the words of accumulator tiles and operand tiles read after a write, and what a write leaves of the group (R12, R178).
-/
namespace Sys2Proof.Machine
open Sys2Proof

section
variable (g : Group)

/-! ### Accumulator tiles (R178) -/

@[simp] theorem Group.setAcc_rowSum (a r n : Nat) (x : Word) (b y : Nat) : (g.setAcc a r n x).rowSum b y = g.rowSum b y := rfl
@[simp] theorem Group.setAcc_colSum (a r n : Nat) (x : Word) (b m : Nat) : (g.setAcc a r n x).colSum b m = g.colSum b m := rfl
@[simp] theorem Group.setAcc_accStat (a r n : Nat) (x : Word) (b : Nat) : (g.setAcc a r n x).accStat b = g.accStat b := rfl
@[simp] theorem Group.setRow_accEl (a r : Nat) (x : Word) (b y m : Nat) : (g.setRow a r x).accEl b y m = g.accEl b y m := rfl
@[simp] theorem Group.setRow_colSum (a r : Nat) (x : Word) (b m : Nat) : (g.setRow a r x).colSum b m = g.colSum b m := rfl
@[simp] theorem Group.setRow_accStat (a r : Nat) (x : Word) (b : Nat) : (g.setRow a r x).accStat b = g.accStat b := rfl
@[simp] theorem Group.setCol_accEl (a n : Nat) (x : Word) (b y m : Nat) : (g.setCol a n x).accEl b y m = g.accEl b y m := rfl
@[simp] theorem Group.setCol_rowSum (a n : Nat) (x : Word) (b y : Nat) : (g.setCol a n x).rowSum b y = g.rowSum b y := rfl
@[simp] theorem Group.setCol_accStat (a n : Nat) (x : Word) (b : Nat) : (g.setCol a n x).accStat b = g.accStat b := rfl
@[simp] theorem Group.setStat_accEl (a : Nat) (x : Word) (b y m : Nat) : (g.setStat a x).accEl b y m = g.accEl b y m := rfl
@[simp] theorem Group.setStat_rowSum (a : Nat) (x : Word) (b y : Nat) : (g.setStat a x).rowSum b y = g.rowSum b y := rfl
@[simp] theorem Group.setStat_colSum (a : Nat) (x : Word) (b m : Nat) : (g.setStat a x).colSum b m = g.colSum b m := rfl

/-- The key of an element tells tile, row and column. -/
theorem Group.accEl_setAcc (a r n b y m : Nat) (x : Word) (hr : r < 32) (hn : n < 64) (hy : y < 32) (hm : m < 64) :
    (g.setAcc a r n x).accEl b y m = if b = a ∧ y = r ∧ m = n then x else g.accEl b y m := by
  simp only [Group.accEl, Group.setAcc, getD_setD]
  exact if_congr (by omega) rfl rfl

theorem Group.rowSum_setRow (a r b y : Nat) (x : Word) (hr : r < 32) (hy : y < 32) :
    (g.setRow a r x).rowSum b y = if b = a ∧ y = r then x else g.rowSum b y := by
  simp only [Group.rowSum, Group.setRow, getD_setD]
  exact if_congr (by omega) rfl rfl

theorem Group.colSum_setCol (a n b m : Nat) (x : Word) (hn : n < 64) (hm : m < 64) :
    (g.setCol a n x).colSum b m = if b = a ∧ m = n then x else g.colSum b m := by
  simp only [Group.colSum, Group.setCol, getD_setD]
  exact if_congr (by omega) rfl rfl

@[simp] theorem Group.accStat_setStat (a b : Nat) (x : Word) : (g.setStat a x).accStat b = if b = a then x else g.accStat b := by
  simp only [Group.accStat, Group.setStat, getD_setD]

end

/-- A status word with one bit set. -/
theorem getLsbD_withBit (x : Word) {b : Nat} (hb : b < 32) (v : Bool) (k : Nat) : (withBit x b v).getLsbD k = if k = b then v else x.getLsbD k := by
  rw [withBit, BitVec.getLsbD_or, BitVec.getLsbD_and, BitVec.getLsbD_not, getLsbD_laneBit b k hb]
  by_cases hk : k = b
  · subst hk
    cases v <;> simp [hb, getLsbD_laneBit k k hb]
  · have hx : (x.getLsbD k && decide (k < 32)) = x.getLsbD k := by
      by_cases h32 : k < 32
      · simp [h32]
      · simp [h32, BitVec.getLsbD_of_ge x k (by omega)]
    cases v <;> simp [hk, hx, getLsbD_laneBit b k hb]

end Sys2Proof.Machine
end

section
/-!
SUPPORT. The drain check case by case (R190), and the statement on it.
-/
namespace Sys2Proof.Machine
open Sys2Proof

/-! ### The sums in error -/

/-- Whether a sum that was carried along agrees with the one formed from the elements (R91, R190). -/
def sumsAgree (int : Bool) (tol : Nat) (x y : Word) : Bool := if int then x == y else ckAgree tol x.toNat y.toNat

/-- Whether row r of a tile agrees with its row sum. -/
def Group.rowAgrees (g : Group) (a tol : Nat) (int : Bool) (r : Nat) : Bool := sumsAgree int tol (tileSum int (g.accRow a r)) (g.rowSum a r)

/-- Whether column n of a tile agrees with its column sum. -/
def Group.colAgrees (g : Group) (a tol : Nat) (int : Bool) (n : Nat) : Bool := sumsAgree int tol (tileSum int (g.accCol a n)) (g.colSum a n)

/-- The rows in error. -/
def Group.badRows (g : Group) (a tol : Nat) (int : Bool) : List Nat := (List.range 32).filter fun r => !g.rowAgrees a tol int r

/-- The columns in error. -/
def Group.badCols (g : Group) (a tol : Nat) (int : Bool) : List Nat := (List.range 64).filter fun n => !g.colAgrees a tol int n

/-- The element at row r, column n that the row sum and the others of the row give. -/
def Group.repaired (g : Group) (a : Nat) (int : Bool) (r n : Nat) : Word :=
  let others := (List.range 64).filter (· ≠ n)
  if int then g.rowSum a r - sumMod (others.map (g.accEl a r))
  else BitVec.ofNat 32 (fp32.bitsOf .rne ((fp32.val (g.rowSum a r).toNat).add .rne
    (exactSum (others.map fun n' => fp32.val (g.accEl a r n').toNat)).neg))

section
variable {g : Group} {a tol : Nat} {int : Bool}

theorem Group.badRows_eq_nil_iff : g.badRows a tol int = [] ↔ ∀ r < 32, g.rowAgrees a tol int r = true := by
  simp [Group.badRows, List.filter_eq_nil_iff]

theorem Group.badCols_eq_nil_iff : g.badCols a tol int = [] ↔ ∀ n < 64, g.colAgrees a tol int n = true := by
  simp [Group.badCols, List.filter_eq_nil_iff]

theorem Group.mem_badRows {r : Nat} : r ∈ g.badRows a tol int ↔ r < 32 ∧ g.rowAgrees a tol int r = false := by simp [Group.badRows]

theorem Group.mem_badCols {n : Nat} : n ∈ g.badCols a tol int ↔ n < 64 ∧ g.colAgrees a tol int n = false := by simp [Group.badCols]

end

/-- Numbers below k of which exactly one is x are x alone. -/
theorem filter_range_eq_singleton {k x : Nat} {p : Nat → Bool} (hx : x < k) (hp : ∀ y < k, p y = decide (y = x)) : (List.range k).filter p = [x] := by
  have hcount : List.count x (List.range k) = 1 := List.count_eq_one_of_mem List.nodup_range (List.mem_range.2 hx)
  rw [List.filter_congr fun y hy => (hp y (List.mem_range.1 hy)).trans (beq_eq_decide y x).symm, List.filter_beq, hcount]
  rfl

/-- A list with two different members has not one element. -/
theorem length_ne_one {α : Type} {l : List α} {x y : α} (hx : x ∈ l) (hy : y ∈ l) (hxy : x ≠ y) : l.length ≠ 1 := by
  intro h
  obtain ⟨z, rfl⟩ := List.length_eq_one_iff.1 h
  exact hxy ((List.mem_singleton.1 hx).trans (List.mem_singleton.1 hy).symm)

/-! ### The cases of the check -/

section
variable {g : Group} {a tol : Nat}

/-- A clamped integer tile is not compared. -/
theorem Group.drainCheck_clamped (hint : (g.accStat a).getLsbD 1 = true) (hsat : (g.accStat a).getLsbD 0 = true) : g.drainCheck a tol = { g := g } := by
  simp only [Group.drainCheck, hint, hsat, Bool.and_self, if_true]

variable {int : Bool} (hint : (g.accStat a).getLsbD 1 = int) (hclear : ¬ (int = true ∧ (g.accStat a).getLsbD 0 = true))
include hint hclear

/-- Sums that agree pass, and FIXED becomes 0. -/
theorem Group.drainCheck_agrees (hrows : g.badRows a tol int = []) (hcols : g.badCols a tol int = []) :
    g.drainCheck a tol = { g := g.setStat a (withBit (g.accStat a) 2 false) } := by
  unfold Group.badRows Group.rowAgrees sumsAgree at hrows
  unfold Group.badCols Group.colAgrees sumsAgree at hcols
  rw [← Bool.and_eq_true] at hclear
  simp only [Group.drainCheck, hint, if_neg hclear, hrows, hcols]

/-- One row and one column in error: the element where they meet is repaired where that makes both agree. -/
theorem Group.drainCheck_single {r n : Nat} (hrows : g.badRows a tol int = [r]) (hcols : g.badCols a tol int = [n]) :
    let g0 := g.setStat a (withBit (g.accStat a) 2 false)
    let g1 := g0.setAcc a r n (g.repaired a int r n)
    g.drainCheck a tol = if g1.rowAgrees a tol int r && g1.colAgrees a tol int n then
      { g := (g1.setStat a (withBit (g1.accStat a) 2 true)).sticky stCkfix, fixed := true } else { g := g0, bad := true } := by
  unfold Group.badRows Group.rowAgrees sumsAgree at hrows
  unfold Group.badCols Group.colAgrees sumsAgree at hcols
  rw [← Bool.and_eq_true] at hclear
  simp only [Group.drainCheck, hint, if_neg hclear, hrows, hcols]
  rfl

/-- Any other sums in error fail, and no element changes. -/
theorem Group.drainCheck_fails (hsome : ¬ (g.badRows a tol int = [] ∧ g.badCols a tol int = []))
    (hmany : ¬ ((g.badRows a tol int).length = 1 ∧ (g.badCols a tol int).length = 1)) :
    g.drainCheck a tol = { g := g.setStat a (withBit (g.accStat a) 2 false), bad := true } := by
  rw [← Bool.and_eq_true] at hclear
  generalize hrows : g.badRows a tol int = rows at hsome hmany
  generalize hcols : g.badCols a tol int = cols at hsome hmany
  unfold Group.badRows Group.rowAgrees sumsAgree at hrows
  unfold Group.badCols Group.colAgrees sumsAgree at hcols
  simp only [Group.drainCheck, hint, if_neg hclear, hrows, hcols]
  split
  · exact absurd ⟨rfl, rfl⟩ hsome
  · exact absurd ⟨rfl, rfl⟩ hmany
  · rfl

end

/-- Settles O30: the rows and the columns in error say which case of the check applies. -/
theorem drainCheckCorrectsOneElement : Obligations.DrainCheckCorrectsOneElement := by
  unfold Obligations.DrainCheckCorrectsOneElement
  intro g a tol _ int agree rowOk colOk clamped r
  have hrowOk (x : Nat) : rowOk g x = g.rowAgrees a tol int x := rfl
  have hcolOk (n : Nat) : colOk g n = g.colAgrees a tol int n := rfl
  refine ⟨fun h => Group.drainCheck_clamped h.1 h.2, fun hclear hrows hcols => ?_, fun x hx n hn hclear hrows hcols => ?_, fun hclear hbad => ?_⟩
  · have hr : r = _ := Group.drainCheck_agrees rfl hclear (Group.badRows_eq_nil_iff.2 hrows) (Group.badCols_eq_nil_iff.2 hcols)
    have hstat : r.g.accStat a = withBit (g.accStat a) 2 false := by rw [hr, Group.accStat_setStat, if_pos rfl]
    refine ⟨by rw [hr], by rw [hr], by rw [hr]; rfl, ?_, fun b _ hb => ?_⟩
    · rw [hstat, getLsbD_withBit _ (by decide), if_pos rfl]
    · rw [hstat, getLsbD_withBit _ (by decide), if_neg hb]
  · have hrow : g.badRows a tol int = [x] := filter_range_eq_singleton hx fun y hy => by rw [← hrowOk, hrows y hy]; simp
    have hcol : g.badCols a tol int = [n] := filter_range_eq_singleton hn fun m hm => by rw [← hcolOk, hcols m hm]; simp
    have hr : r = _ := Group.drainCheck_single rfl hclear hrow hcol
    intro others value g1
    have hvalue : value = g.repaired a int x n := by simp only [value, others, Group.repaired, List.map_map, Function.comp_def]
    have hagree : ((g.setStat a (withBit (g.accStat a) 2 false)).setAcc a x n (g.repaired a int x n)).rowAgrees a tol int x = rowOk g1 x ∧
        ((g.setStat a (withBit (g.accStat a) 2 false)).setAcc a x n (g.repaired a int x n)).colAgrees a tol int n = colOk g1 n := by
      rw [← hvalue]
      exact ⟨rfl, rfl⟩
    rw [hagree.1, hagree.2] at hr
    refine ⟨fun hrx hcn => ?_, fun hno => ?_⟩
    · rw [hrx, hcn, Bool.and_self, if_pos rfl] at hr
      refine ⟨by rw [hr], by rw [hr], by rw [hr]; rfl, ?_, fun y hy m hm => ?_⟩
      · have hstat : r.g.accStat a = withBit (withBit (g.accStat a) 2 false) 2 true := by
          rw [hr]
          change (Group.setStat _ a _).accStat a = _
          simp
        rw [hstat, getLsbD_withBit _ (by decide), if_pos rfl]
      · rw [hr, hvalue]
        refine (Group.accEl_setAcc (g.setStat a _) a x n a y m (g.repaired a int x n) hx hn hy hm).trans ?_
        simp
    · rw [← Bool.and_eq_true] at hno
      rw [if_neg hno] at hr
      exact ⟨by rw [hr], by rw [hr]; rfl⟩
  · have hr : r = { g := g.setStat a (withBit (g.accStat a) 2 false), bad := true } := by
      refine Group.drainCheck_fails rfl hclear ?_ ?_
      · rintro ⟨hrows, hcols⟩
        rw [Group.badRows_eq_nil_iff] at hrows
        rw [Group.badCols_eq_nil_iff] at hcols
        rcases hbad with ⟨x, hx, -, -, -, hbad, -⟩ | ⟨x, hx, -, -, -, hbad, -⟩ | ⟨⟨x, hx, hbad⟩, -⟩ | ⟨-, n, hn, hbad⟩
        · exact absurd (hrows x hx) (by rw [← hrowOk, hbad]; decide)
        · exact absurd (hcols x hx) (by rw [← hcolOk, hbad]; decide)
        · exact absurd (hrows x hx) (by rw [← hrowOk, hbad]; decide)
        · exact absurd (hcols n hn) (by rw [← hcolOk, hbad]; decide)
      · rintro ⟨hrow, hcol⟩
        rcases hbad with ⟨x, hx, y, hy, hxy, hbx, hby⟩ | ⟨x, hx, y, hy, hxy, hbx, hby⟩ | ⟨-, hcols⟩ | ⟨hrows, -⟩
        · exact length_ne_one (Group.mem_badRows.2 ⟨hx, hbx⟩) (Group.mem_badRows.2 ⟨hy, hby⟩) hxy hrow
        · exact length_ne_one (Group.mem_badCols.2 ⟨hx, hbx⟩) (Group.mem_badCols.2 ⟨hy, hby⟩) hxy hcol
        · rw [Group.badCols_eq_nil_iff.2 hcols] at hcol; cases hcol
        · rw [Group.badRows_eq_nil_iff.2 hrows] at hrow; cases hrow
    exact ⟨by rw [hr], by rw [hr]; rfl⟩

end Sys2Proof.Machine
end

section
/-!
SUPPORT. Folds that write words of accumulator tiles and operand tiles, and the zeroing of an accumulator tile (R178, R188, R192, R193, R195).
-/
namespace Sys2Proof.Machine
open Sys2Proof

/-! ### Words written one after another -/

section
variable {α ι : Type} [DecidableEq α]

/-- A map written under some keys reads at one of them what all writes under it agree on, and elsewhere what it read before. -/
theorem getD_foldl_setD_keys (L : List ι) (key : ι → Nat) (v : ι → α) (d : α) {k : Nat} {x : α} (hx : ∀ i ∈ L, key i = k → v i = x) (m : SMap α) :
    getD (L.foldl (fun m i => setD m (key i) (v i) d) m) k d = if ∃ i ∈ L, key i = k then x else getD m k d := by
  induction L generalizing m with
  | nil => simp
  | cons i L ih =>
    rw [List.foldl_cons, ih (fun j hj => hx j (List.mem_cons_of_mem _ hj)), getD_setD]
    by_cases hi : k = key i
    · rw [if_pos hi, hx i List.mem_cons_self hi.symm, ite_self, if_pos ⟨i, List.mem_cons_self, hi.symm⟩]
    · simp [if_neg hi, Ne.symm hi]

end

/-- The cells (lane, i) of the lanes of a mask with i below k, in the order of the lanes. -/
def cellsOf (m : Word) (k : Nat) : List (Nat × Nat) := (lanesOf m).flatMap fun l => (List.range k).map (l, ·)

theorem mem_cellsOf {m : Word} {k : Nat} {x : Nat × Nat} : x ∈ cellsOf m k ↔ x.1 < 32 ∧ has m x.1 ∧ x.2 < k := by
  obtain ⟨l, i⟩ := x
  simp only [cellsOf, List.mem_flatMap, List.mem_map, List.mem_range, mem_lanesOf, Prod.mk.injEq]
  constructor
  · rintro ⟨_, ⟨hlt, hl⟩, _, hi, rfl, rfl⟩
    exact ⟨hlt, hl, hi⟩
  · rintro ⟨hlt, hl, hi⟩
    exact ⟨l, ⟨hlt, hl⟩, i, hi, rfl, rfl⟩

/-- A walk over the lanes, each over its i, is a walk over the cells. -/
theorem foldl_cellsOf {β : Type} (F : β → Nat → Nat → β) (m : Word) (k : Nat) (b : β) :
    (lanesOf m).foldl (fun b l => (List.range k).foldl (fun b i => F b l i) b) b = (cellsOf m k).foldl (fun b x => F b x.1 x.2) b := by
  simp only [cellsOf, List.foldl_flatMap, List.foldl_map]

section
variable {ι : Type} (L : List ι) (g : Group)

theorem Group.foldl_setAcc (a : Nat) (r n : ι → Nat) (v : ι → Word) : L.foldl (fun g i => g.setAcc a (r i) (n i) (v i)) g =
    { g with acc := L.foldl (fun m i => setD m (a * 2048 + r i * 64 + n i) (v i) 0#32) g.acc } := by
  induction L generalizing g with
  | nil => rfl
  | cons i L ih => exact ih _

theorem Group.foldl_setRow (a : Nat) (r : ι → Nat) (v : ι → Word) : L.foldl (fun g i => g.setRow a (r i) (v i)) g =
    { g with rs := L.foldl (fun m i => setD m (a * 32 + r i) (v i) 0#32) g.rs } := by
  induction L generalizing g with
  | nil => rfl
  | cons i L ih => exact ih _

theorem Group.foldl_setCol (a : Nat) (n : ι → Nat) (v : ι → Word) : L.foldl (fun g i => g.setCol a (n i) (v i)) g =
    { g with cs := L.foldl (fun m i => setD m (a * 64 + n i) (v i) 0#32) g.cs } := by
  induction L generalizing g with
  | nil => rfl
  | cons i L ih => exact ih _

theorem Group.foldl_setTile (t : Nat) (r w : ι → Nat) (v : ι → Word) : L.foldl (fun g i => g.setTile t (r i) (w i) (v i)) g =
    { g with tile := L.foldl (fun m i => setD m (t * 1024 + r i * 32 + w i) (v i) 0#32) g.tile } := by
  induction L generalizing g with
  | nil => rfl
  | cons i L ih => exact ih _

end

/-! ### Runs of columns in the rows of some lanes -/

/-- The elements j0 to j0 + k - 1 of the rows of the lanes of E, written from v (R193). -/
def Group.setAccRun (g : Group) (a j0 k : Nat) (E : Word) (v : Nat → Nat → Word) : Group :=
  (cellsOf E k).foldl (fun g x => g.setAcc a x.1 (j0 + x.2) (v x.1 x.2)) g

/-- The words j0 to j0 + k - 1 of the rows of the lanes of E, written from v (R195). -/
def Group.setTileRun (g : Group) (t j0 k : Nat) (E : Word) (v : Nat → Nat → Word) : Group :=
  (cellsOf E k).foldl (fun g x => g.setTile t x.1 (j0 + x.2) (v x.1 x.2)) g

/-- Every row sum of a tile, written from v. -/
def Group.setRows (g : Group) (a : Nat) (v : Nat → Word) : Group := (List.range 32).foldl (fun g r => g.setRow a r (v r)) g

/-- Every column sum of a tile, written from v. -/
def Group.setCols (g : Group) (a : Nat) (v : Nat → Word) : Group := (List.range 64).foldl (fun g n => g.setCol a n (v n)) g

section
variable (g : Group) (a t j0 k : Nat) (E : Word) (v : Nat → Nat → Word) (u : Nat → Word)

theorem Group.foldl_foldl_setAcc :
    (lanesOf E).foldl (fun g l => (List.range k).foldl (fun g i => g.setAcc a l (j0 + i) (v l i)) g) g = g.setAccRun a j0 k E v :=
  foldl_cellsOf (fun (g : Group) l i => g.setAcc a l (j0 + i) (v l i)) E k g

theorem Group.foldl_foldl_setTile :
    (lanesOf E).foldl (fun g l => (List.range k).foldl (fun g i => g.setTile t l (j0 + i) (v l i)) g) g = g.setTileRun t j0 k E v :=
  foldl_cellsOf (fun (g : Group) l i => g.setTile t l (j0 + i) (v l i)) E k g

theorem Group.foldl_setTileRow (ws : Nat → List Word) :
    (lanesOf E).foldl (fun x l => x.setTileRow t l (ws l)) g = g.setTileRun t 0 32 E fun l i => (ws l).getD i 0#32 := by
  simp only [← Group.foldl_foldl_setTile, Nat.zero_add]
  rfl

theorem Group.setAccRun_rest : g.setAccRun a j0 k E v = { g with acc := (g.setAccRun a j0 k E v).acc } := by
  rw [Group.setAccRun, Group.foldl_setAcc]

theorem Group.setTileRun_rest : g.setTileRun t j0 k E v = { g with tile := (g.setTileRun t j0 k E v).tile } := by
  rw [Group.setTileRun, Group.foldl_setTile]

theorem Group.setRows_rest : g.setRows a u = { g with rs := (g.setRows a u).rs } := by rw [Group.setRows, Group.foldl_setRow]

theorem Group.setCols_rest : g.setCols a u = { g with cs := (g.setCols a u).cs } := by rw [Group.setCols, Group.foldl_setCol]

@[simp] theorem Group.setAccRun_rowSum (b r : Nat) : (g.setAccRun a j0 k E v).rowSum b r = g.rowSum b r := by
  simp only [Group.rowSum, Group.setAccRun, Group.foldl_setAcc]
@[simp] theorem Group.setAccRun_colSum (b n : Nat) : (g.setAccRun a j0 k E v).colSum b n = g.colSum b n := by
  simp only [Group.colSum, Group.setAccRun, Group.foldl_setAcc]
@[simp] theorem Group.setAccRun_accStat (b : Nat) : (g.setAccRun a j0 k E v).accStat b = g.accStat b := by
  simp only [Group.accStat, Group.setAccRun, Group.foldl_setAcc]
@[simp] theorem Group.setRows_accEl (b r n : Nat) : (g.setRows a u).accEl b r n = g.accEl b r n := by
  simp only [Group.accEl, Group.setRows, Group.foldl_setRow]
@[simp] theorem Group.setRows_colSum (b n : Nat) : (g.setRows a u).colSum b n = g.colSum b n := by
  simp only [Group.colSum, Group.setRows, Group.foldl_setRow]
@[simp] theorem Group.setRows_accStat (b : Nat) : (g.setRows a u).accStat b = g.accStat b := by
  simp only [Group.accStat, Group.setRows, Group.foldl_setRow]
@[simp] theorem Group.setCols_accEl (b r n : Nat) : (g.setCols a u).accEl b r n = g.accEl b r n := by
  simp only [Group.accEl, Group.setCols, Group.foldl_setCol]
@[simp] theorem Group.setCols_rowSum (b r : Nat) : (g.setCols a u).rowSum b r = g.rowSum b r := by
  simp only [Group.rowSum, Group.setCols, Group.foldl_setCol]
@[simp] theorem Group.setCols_accStat (b : Nat) : (g.setCols a u).accStat b = g.accStat b := by
  simp only [Group.accStat, Group.setCols, Group.foldl_setCol]

variable {j0 k}

theorem Group.accEl_setAccRun (hk : j0 + k ≤ 64) (b r n : Nat) (hr : r < 32) (hn : n < 64) : (g.setAccRun a j0 k E v).accEl b r n =
    if b = a ∧ has E r ∧ j0 ≤ n ∧ n < j0 + k then v r (n - j0) else g.accEl b r n := by
  rw [Group.setAccRun, Group.foldl_setAcc]
  refine (getD_foldl_setD_keys (cellsOf E k) (fun x => a * 2048 + x.1 * 64 + (j0 + x.2)) (fun x => v x.1 x.2) 0#32 (x := v r (n - j0))
    (fun x hx hkey => ?_) g.acc).trans (if_congr ⟨?_, ?_⟩ rfl rfl)
  · obtain ⟨hlt, -, hi⟩ := mem_cellsOf.1 hx
    rw [show x.1 = r by omega, show x.2 = n - j0 by omega]
  · rintro ⟨x, hx, hkey⟩
    obtain ⟨hlt, hl, hi⟩ := mem_cellsOf.1 hx
    obtain rfl : x.1 = r := by omega
    exact ⟨by omega, hl, by omega, by omega⟩
  · rintro ⟨rfl, hl, hlo, hhi⟩
    exact ⟨(r, n - j0), mem_cellsOf.2 ⟨hr, hl, by dsimp only; omega⟩, by dsimp only; omega⟩

theorem Group.tileWord_setTileRun (hk : j0 + k ≤ 32) (b r w : Nat) (hr : r < 32) (hw : w < 32) : (g.setTileRun t j0 k E v).tileWord b r w =
    if b = t ∧ has E r ∧ j0 ≤ w ∧ w < j0 + k then v r (w - j0) else g.tileWord b r w := by
  rw [Group.setTileRun, Group.foldl_setTile]
  refine (getD_foldl_setD_keys (cellsOf E k) (fun x => t * 1024 + x.1 * 32 + (j0 + x.2)) (fun x => v x.1 x.2) 0#32 (x := v r (w - j0))
    (fun x hx hkey => ?_) g.tile).trans (if_congr ⟨?_, ?_⟩ rfl rfl)
  · obtain ⟨hlt, -, hi⟩ := mem_cellsOf.1 hx
    rw [show x.1 = r by omega, show x.2 = w - j0 by omega]
  · rintro ⟨x, hx, hkey⟩
    obtain ⟨hlt, hl, hi⟩ := mem_cellsOf.1 hx
    obtain rfl : x.1 = r := by omega
    exact ⟨by omega, hl, by omega, by omega⟩
  · rintro ⟨rfl, hl, hlo, hhi⟩
    exact ⟨(r, w - j0), mem_cellsOf.2 ⟨hr, hl, by dsimp only; omega⟩, by dsimp only; omega⟩

theorem Group.rowSum_setRows (b r : Nat) (hr : r < 32) : (g.setRows a u).rowSum b r = if b = a then u r else g.rowSum b r := by
  rw [Group.setRows, Group.foldl_setRow]
  refine (getD_foldl_setD_keys (List.range 32) (fun i => a * 32 + i) u 0#32 (x := u r) (fun i hi hkey => ?_) g.rs).trans (if_congr ⟨?_, ?_⟩ rfl rfl)
  · rw [show i = r by have := List.mem_range.1 hi; omega]
  · rintro ⟨i, hi, hkey⟩
    have := List.mem_range.1 hi
    omega
  · rintro rfl
    exact ⟨r, List.mem_range.2 hr, rfl⟩

theorem Group.colSum_setCols (b n : Nat) (hn : n < 64) : (g.setCols a u).colSum b n = if b = a then u n else g.colSum b n := by
  rw [Group.setCols, Group.foldl_setCol]
  refine (getD_foldl_setD_keys (List.range 64) (fun i => a * 64 + i) u 0#32 (x := u n) (fun i hi hkey => ?_) g.cs).trans (if_congr ⟨?_, ?_⟩ rfl rfl)
  · rw [show i = n by have := List.mem_range.1 hi; omega]
  · rintro ⟨i, hi, hkey⟩
    have := List.mem_range.1 hi
    omega
  · rintro rfl
    exact ⟨n, List.mem_range.2 hn, rfl⟩

end

/-! ### Tiles that stay and tiles that become zero -/

/-- Accumulator tile a reads the same in both groups. -/
def SameAcc (g g' : Group) (a : Nat) : Prop :=
  (∀ r < 32, ∀ n < 64, g'.accEl a r n = g.accEl a r n) ∧ (∀ r < 32, g'.rowSum a r = g.rowSum a r) ∧
  (∀ n < 64, g'.colSum a n = g.colSum a n) ∧ g'.accStat a = g.accStat a

/-- Accumulator tile a reads 0 throughout. -/
def ZeroAcc (g : Group) (a : Nat) : Prop :=
  (∀ r < 32, ∀ n < 64, g.accEl a r n = 0#32) ∧ (∀ r < 32, g.rowSum a r = 0#32) ∧ (∀ n < 64, g.colSum a n = 0#32) ∧ g.accStat a = 0#32

theorem SameAcc.of_eq {g g' : Group} (hacc : g'.acc = g.acc) (hrs : g'.rs = g.rs) (hcs : g'.cs = g.cs) (hstat : g'.accStatus = g.accStatus) (a : Nat) :
    SameAcc g g' a := by
  simp only [SameAcc, Group.accEl, Group.rowSum, Group.colSum, Group.accStat, hacc, hrs, hcs, hstat, implies_true, and_self]

section
variable (g : Group) (a : Nat)

theorem Group.zeroAcc_zero : ZeroAcc (g.zeroAcc a) a := by
  simp only [ZeroAcc, Group.zeroAcc, Group.accEl, Group.rowSum, Group.colSum, Group.accStat, getD_delIf, decide_eq_true_eq]
  refine ⟨fun r hr n hn => if_pos (by omega), fun r hr => if_pos (by omega), fun n hn => if_pos (by omega), ?_⟩
  rw [getD_eq_find, find_del, if_pos rfl]
  rfl

theorem Group.zeroAcc_same {b : Nat} (hb : b ≠ a) : SameAcc g (g.zeroAcc a) b := by
  simp only [SameAcc, Group.zeroAcc, Group.accEl, Group.rowSum, Group.colSum, Group.accStat, getD_delIf, decide_eq_true_eq]
  refine ⟨fun r hr n hn => if_neg (by omega), fun r hr => if_neg (by omega), fun n hn => if_neg (by omega), ?_⟩
  rw [getD_eq_find, find_del, if_neg hb, getD_eq_find]

/-- ZC: tile a is zeroed after the copy where it is set (R192). -/
def Group.zeroIf (zc : Fin 2) : Group := if zc.val = 1 then g.zeroAcc a else g

theorem Group.zeroIf_rest (zc : Fin 2) : g.zeroIf a zc = { g with
    acc := (g.zeroIf a zc).acc, rs := (g.zeroIf a zc).rs, cs := (g.zeroIf a zc).cs, accStatus := (g.zeroIf a zc).accStatus } := by
  unfold Group.zeroIf
  split <;> rfl

theorem Group.zeroIf_tile (zc : Fin 2) : if zc = 1 then ZeroAcc (g.zeroIf a zc) a else SameAcc g (g.zeroIf a zc) a := by
  rw [Group.zeroIf]
  split
  · next h => subst h; exact g.zeroAcc_zero a
  · next h => rw [if_neg (by omega)]; exact .of_eq rfl rfl rfl rfl a

theorem Group.zeroIf_same (zc : Fin 2) {b : Nat} (hb : b ≠ a) : SameAcc g (g.zeroIf a zc) b := by
  unfold Group.zeroIf
  split
  · exact g.zeroAcc_same a hb
  · exact .of_eq rfl rfl rfl rfl b

end

end Sys2Proof.Machine
end

section
/-!
SUPPORT. The completion of the work at the head of a group's pipe (R180), and the statement on accumulators, tiles and registers
(R192, R193, R195).
-/
namespace Sys2Proof.Machine
open Sys2Proof

/-! ### The head of the pipe -/

section
variable {s : State} {gid : Nat} {g : Group} {wk : MatWork} {rest : List MatWork}

/-- Work that may complete does so, and nothing follows it (R180, R201). -/
theorem PipeHead.completes (h : PipeHead s gid g wk rest) : exec (.matrixInstructionComplete gid) s = .next (s.completeWork gid g wk) := by
  obtain ⟨hhere, hhead, hpaid, hlanded, hstays⟩ := h
  have hreload : s.reloadPlanes gid = s := by simp only [State.reloadPlanes, hhere, hpaid]
  have hfree : (wk.tiles.any fun t => g.fillPending t wk.seq) = false := by
    rw [List.any_eq_false]
    intro t ht
    rw [hlanded t ht]
    exact Bool.false_ne_true
  change Host.Outcome.next (s.stepPipe gid) = _
  simp only [State.stepPipe, hreload, hhere, hhead, hfree, Bool.false_eq_true, if_false]
  split
  · next hphase _ => exact absurd rfl (hstays.resolve_left fun hne => hne hphase)
  · rfl

theorem PipeHead.popWork (h : PipeHead s gid g wk rest) : s.popWork gid = s.setG gid { g with pipe := rest } := by
  rw [State.popWork, State.updG_eq_setG _ h.here, h.head]
  rfl

/-- Work that changes only its group leaves what the change makes of the group without it. -/
theorem PipeHead.completes_updG (h : PipeHead s gid g wk rest) {F : Group → Group} (hF : s.completeWork gid g wk = (s.popWork gid).updG gid F) :
    exec (.matrixInstructionComplete gid) s = .next (s.setG gid (F { g with pipe := rest })) := by
  rw [h.completes, hF, h.popWork, State.updG_setG _ _ _ _ g h.here]

end

/-- The group with results noted that are bound (R54). -/
def Group.binding (g : Group) (ws : List (Dest × Word)) : Group := { g with pending := if ws = [] then g.pending else g.pending ++ [{ writes := ws }] }

theorem State.bind_setG {s : State} {gid : Nat} {g : Group} (h : find s.groups gid = some g) (x : Group) (ws : List (Dest × Word)) :
    (s.setG gid x).bind gid ws = s.setG gid (x.binding ws) := by
  rw [State.bind, Group.binding]
  cases ws with
  | nil => rfl
  | cons w ws => exact State.updG_setG s gid x _ g h

/-- Without a drain check the copy is all there is to it (R192). -/
theorem State.drained_unchecked (s : State) (gid : Nat) (w : Who) (wk : MatWork) {ckd : Fin 2} (h : ckd = 0) (a tol : Nat) (copy : State → State) :
    s.drained gid w wk (ckd.val = 1) a tol copy = copy s := by
  subst h
  rfl

/-! ### What each instruction leaves -/

/-- The elements that `aset` writes (R193). -/
def Group.asetElements (g : Group) (f : AsetForm) (E : Word) (vals : List Word) : Group :=
  g.setAccRun f.acc f.j0 (f.n1 + 1) E fun l i => vals.getD (i * 32 + l) 0#32

/-- A tile whose elements `aset` has written, with sums and TYPE made to agree (R193). -/
def Group.asetTile (g : Group) (f : AsetForm) (E : Word) (vals : List Word) : Group :=
  let g1 := g.asetElements f E vals
  let g3 := (g1.setRows f.acc fun r => tileSum (f.int.val = 1) (g1.accRow f.acc r)).setCols f.acc fun n => tileSum (f.int.val = 1) (g1.accCol f.acc n)
  g3.setStat f.acc (withBit (g3.accStat f.acc) 1 (f.int.val = 1))

section
variable (g : Group) (f : AsetForm) (E : Word) (vals : List Word)

theorem Group.asetTile_rest : g.asetTile f E vals = { g with
    acc := (g.asetTile f E vals).acc, rs := (g.asetTile f E vals).rs, cs := (g.asetTile f E vals).cs, accStatus := (g.asetTile f E vals).accStatus } := by
  rw [Group.asetTile, Group.setCols_rest, Group.setRows_rest, Group.asetElements, Group.setAccRun_rest]
  rfl

theorem Group.asetTile_accEl (b r n : Nat) : (g.asetTile f E vals).accEl b r n = (g.asetElements f E vals).accEl b r n := by
  rw [Group.asetTile, Group.setStat_accEl, Group.setCols_accEl, Group.setRows_accEl]

theorem Group.asetTile_accRow (b r : Nat) : (g.asetTile f E vals).accRow b r = (g.asetElements f E vals).accRow b r :=
  List.map_congr_left fun n _ => g.asetTile_accEl f E vals b r n

theorem Group.asetTile_accCol (b n : Nat) : (g.asetTile f E vals).accCol b n = (g.asetElements f E vals).accCol b n :=
  List.map_congr_left fun r _ => g.asetTile_accEl f E vals b r n

theorem Group.asetTile_rowSum (b : Nat) {r : Nat} (hr : r < 32) : (g.asetTile f E vals).rowSum b r =
    if b = f.acc then tileSum (f.int.val = 1) ((g.asetTile f E vals).accRow f.acc r) else g.rowSum b r := by
  rw [Group.asetTile_accRow, Group.asetTile, Group.setStat_rowSum, Group.setCols_rowSum, Group.rowSum_setRows _ _ _ _ _ hr, Group.asetElements,
    Group.setAccRun_rowSum]

theorem Group.asetTile_colSum (b : Nat) {n : Nat} (hn : n < 64) : (g.asetTile f E vals).colSum b n =
    if b = f.acc then tileSum (f.int.val = 1) ((g.asetTile f E vals).accCol f.acc n) else g.colSum b n := by
  rw [Group.asetTile_accCol, Group.asetTile, Group.setStat_colSum, Group.colSum_setCols _ _ _ _ _ hn, Group.setRows_colSum, Group.asetElements,
    Group.setAccRun_colSum]

theorem Group.asetTile_accStat (b : Nat) : (g.asetTile f E vals).accStat b =
    if b = f.acc then withBit (g.accStat f.acc) 1 (f.int.val = 1) else g.accStat b := by
  simp only [Group.asetTile, Group.accStat_setStat, Group.setCols_accStat, Group.setRows_accStat, Group.asetElements, Group.setAccRun_accStat]

/-- It changes no other tile. -/
theorem Group.asetTile_same (hk : f.j0.val + f.n1.val < 64) {b : Nat} (hb : b ≠ f.acc) : SameAcc g (g.asetTile f E vals) b := by
  refine ⟨fun r hr n hn => ?_, fun r hr => ?_, fun n hn => ?_, ?_⟩
  · rw [Group.asetTile_accEl, Group.asetElements, Group.accEl_setAccRun _ _ _ _ (by omega) _ _ _ hr hn, if_neg fun h => hb h.1]
  · rw [Group.asetTile_rowSum _ _ _ _ _ hr, if_neg hb]
  · rw [Group.asetTile_colSum _ _ _ _ _ hn, if_neg hb]
  · rw [Group.asetTile_accStat, if_neg hb]

end

section
variable {s : State} {gid : Nat} {g : Group} {wk : MatWork} {rest : List MatWork}

theorem PipeHead.azero {f : AzeroForm} (h : PipeHead s gid g wk rest) (hi : wk.instr = .azero f) :
    exec (.matrixInstructionComplete gid) s = .next (s.setG gid (({ g with pipe := rest } : Group).zeroAcc f.acc)) :=
  h.completes_updG (F := fun g => g.zeroAcc f.acc) (by simp only [State.completeWork, hi])

theorem PipeHead.aset {f : AsetForm} (h : PipeHead s gid g wk rest) (hi : wk.instr = .aset f) :
    exec (.matrixInstructionComplete gid) s = .next (s.setG gid (({ g with pipe := rest } : Group).asetTile f wk.lanes wk.vals)) :=
  h.completes_updG (F := fun g => g.asetTile f wk.lanes wk.vals) (by simp only [State.completeWork, hi, Group.foldl_foldl_setAcc]; rfl)

theorem PipeHead.tmovPut {f : TmovForm} (h : PipeHead s gid g wk rest) (hi : wk.instr = .tmovPut f) :
    exec (.matrixInstructionComplete gid) s = .next (s.setG gid (({ g with pipe := rest } : Group).setTileRun f.ta f.j0 (f.n1 + 1) wk.lanes
      fun l i => wk.vals.getD (i * 32 + l) 0#32)) :=
  h.completes_updG (F := fun g => g.setTileRun f.ta f.j0 (f.n1 + 1) wk.lanes fun l i => wk.vals.getD (i * 32 + l) 0#32)
    (by simp only [State.completeWork, hi, Group.foldl_foldl_setTile])

theorem PipeHead.tmovGet {f : TmovForm} (h : PipeHead s gid g wk rest) (hi : wk.instr = .tmovGet f) :
    exec (.matrixInstructionComplete gid) s = .next (s.setG gid (({ g with pipe := rest } : Group).binding ((lanesOf wk.lanes).flatMap fun l =>
      vecWrites l f.c ((List.range (f.n1 + 1)).map fun i => g.tileWord f.ta l (f.j0 + i))))) := by
  rw [h.completes, State.completeWork, hi]
  dsimp only
  rw [h.popWork, State.bind_setG h.here]

theorem PipeHead.acpyReg {f : AcpyRForm} (h : PipeHead s gid g wk rest) (hi : wk.instr = .acpyReg f) (hckd : f.ckd = 0) :
    exec (.matrixInstructionComplete gid) s = .next (s.setG gid ((({ g with pipe := rest } : Group).binding ((lanesOf wk.lanes).flatMap fun l =>
      vecWrites l f.c ((List.range (f.n1 + 1)).map fun i => g.accEl f.acc l (f.j0 + i)))).zeroIf f.acc f.zc)) := by
  rw [h.completes, State.completeWork, hi]
  dsimp only
  rw [State.drained_unchecked _ _ _ _ hckd]
  rw [h.popWork, h.here]
  dsimp only
  rw [State.bind_setG h.here, Group.zeroIf]
  split
  · rw [State.updG_setG _ _ _ _ g h.here]
  · rfl

theorem PipeHead.acpyTile {f : AcpyTForm} (h : PipeHead s gid g wk rest) (hi : wk.instr = .acpyTile f) (hckd : f.ckd = 0) :
    exec (.matrixInstructionComplete gid) s = .next (s.setG gid ((({ g with pipe := rest } : Group).setTileRun f.ta 0 32 wk.lanes fun l i =>
      (g.convRow f.acc l (slotType (s.slot g f.fmt)) (slotMode (s.slot g f.fmt)) f.h f.ta).getD i 0#32).zeroIf f.acc f.zc)) := by
  rw [h.completes, State.completeWork, hi]
  dsimp only
  rw [State.drained_unchecked _ _ _ _ hckd, h.popWork, State.updG_setG _ _ _ _ g h.here]
  simp only [Group.foldl_setTileRow]
  rfl

theorem PipeHead.acpyStat {f : AcpySForm} (h : PipeHead s gid g wk rest) (hi : wk.instr = .acpyStat f) :
    let g1 := ({ g with pipe := rest } : Group).binding ((lanesOf wk.lanes).flatMap fun l => vecWrites l f.c [g.accStat f.acc])
    exec (.matrixInstructionComplete gid) s =
      .next (s.setG gid (if f.clr.val = 1 then g1.setStat f.acc (withBit (g.accStat f.acc) 0 false) else g1)) := by
  intro g1
  rw [h.completes, State.completeWork, hi]
  dsimp only
  rw [h.popWork, State.bind_setG h.here]
  split
  · rw [State.updG_setG _ _ _ _ g h.here]
    rfl
  · rfl

end

/-- Settles O27: each kind of work leaves the group that its lemma names; the words that were written read as such, all others as before. -/
theorem accumulatorAndTileWorkCompletes : Obligations.AccumulatorAndTileWorkCompletes := by
  unfold Obligations.AccumulatorAndTileWorkCompletes
  intro sameAcc zeroed after bound completes
  have hfin (x : Fin 2) : decide (x.val = 1) = decide (x = 1) := by simp only [Fin.ext_iff]; rfl
  refine ⟨fun f => ?_, fun f hk => ?_, fun f hk => ?_, fun f => ?_, fun f hckd => ?_, fun f hckd => ?_, fun f => ?_⟩ <;> intro s gid g wk rest h hi
  · exact ⟨_, h.azero hi, rfl, rfl, Group.zeroAcc_zero _ _, fun a _ ha => Group.zeroAcc_same _ _ (Fin.val_ne_of_ne ha)⟩
  · refine ⟨_, h.aset hi, by rw [Group.asetTile_rest], by rw [Group.asetTile_rest], fun r hr n hn => ?_, fun r hr => ?_, fun n hn => ?_, ?_,
      fun a _ ha => Group.asetTile_same _ _ _ _ hk (Fin.val_ne_of_ne ha)⟩
    · rw [Group.asetTile_accEl]
      refine (Group.accEl_setAccRun _ _ _ _ (by omega) _ _ _ hr hn).trans (if_congr ?_ rfl rfl)
      simp only [true_and, ← Nat.add_assoc, Nat.lt_succ_iff]
    · rw [Group.asetTile_rowSum _ _ _ _ _ hr, if_pos rfl, hfin]
      rfl
    · rw [Group.asetTile_colSum _ _ _ _ _ hn, if_pos rfl, hfin]
      rfl
    · rw [Group.asetTile_accStat, if_pos rfl, getLsbD_withBit _ (by decide), if_pos rfl, hfin]
  · refine ⟨_, h.tmovPut hi, by rw [Group.setTileRun_rest], by rw [Group.setTileRun_rest], fun t _ r hr w hw => ?_⟩
    refine (Group.tileWord_setTileRun _ _ _ _ (by omega) _ _ _ hr hw).trans (if_congr ?_ rfl rfl)
    simp only [← Nat.add_assoc, Nat.lt_succ_iff]
  · exact ⟨_, h.tmovGet hi, rfl, rfl, rfl⟩
  · refine ⟨_, h.acpyReg hi hckd, by rw [Group.zeroIf_rest]; rfl, by rw [Group.zeroIf_rest]; rfl, by rw [Group.zeroIf_rest]; rfl, ?_,
      fun a _ ha => Group.zeroIf_same _ _ _ (Fin.val_ne_of_ne ha)⟩
    exact Group.zeroIf_tile _ _ _
  · have hrun := ({ g with pipe := rest } : Group).setTileRun_rest f.ta 0 32 wk.lanes fun l i =>
      (g.convRow f.acc l (slotType (s.slot g f.fmt)) (slotMode (s.slot g f.fmt)) f.h f.ta).getD i 0#32
    refine ⟨_, h.acpyTile hi hckd, ?_, ?_, fun t _ r hr w hw => ?_, ?_, fun a _ ha => ?_⟩
    · rw [Group.zeroIf_rest, hrun]
    · rw [Group.zeroIf_rest, hrun]
    · rw [Group.zeroIf_rest]
      refine (Group.tileWord_setTileRun _ _ _ _ (by omega) _ _ _ hr hw).trans (if_congr ?_ rfl rfl)
      simp [hw]
    · rw [hrun]
      exact Group.zeroIf_tile _ _ _
    · rw [hrun]
      exact Group.zeroIf_same _ _ _ (Fin.val_ne_of_ne ha)
  · refine ⟨_, h.acpyStat hi, ?_, ?_, ?_, fun a _ => ?_⟩
    · split <;> rfl
    · split <;> rfl
    · split <;> rfl
    · have hclear : withBit (g.accStat f.acc) 0 false = g.accStat f.acc &&& ~~~1#32 := by simp [withBit, laneBit]
      split
      · next hclr =>
        rw [Group.accStat_setStat]
        by_cases ha : a = f.acc
        · subst ha
          rw [if_pos rfl, if_pos ⟨rfl, Fin.ext hclr⟩, hclear]
        · rw [if_neg ha, if_neg fun h => ha h.1]
          rfl
      · next hclr =>
        rw [if_neg fun h => hclr (congrArg Fin.val h.2)]
        rfl

end Sys2Proof.Machine
end

section
/-!
SUPPORT. Stores of the matrix pipe that all perform: the pieces of a row one after another, the rows lane by lane (R181, R192, R194); and the
statement on stores and drain checks.
-/
namespace Sys2Proof.Machine
open Sys2Proof

/-! ### Runs of the pipe that perform -/

/-- A run whose every step, where its access performs, only moves to the state after it, ends in the last state. -/
theorem Performs.foldl_ran {op : State → Nat → Acc × State} {F : Ran → Nat → Ran} {before : Nat} {ls : List Nat} {s t : State} {v : Nat → List Byte}
    (h : Performs op s ls v t)
    (hF : ∀ k ∈ ls, ∀ s s1 bs, op s k = (.ok bs, s1) → F { s := s, before := before } k = { s := s1, before := before }) :
    ls.foldl F { s := s, before := before } = { s := t, before := before } := by
  induction ls generalizing s with
  | nil =>
    obtain rfl : t = s := h
    rfl
  | cons k ls ih =>
    obtain ⟨s1, hk, hrest⟩ := h
    rw [List.foldl_cons, hF k List.mem_cons_self s s1 _ hk]
    exact ih hrest fun j hj => hF j (List.mem_cons_of_mem _ hj)

/-- The numbers n l + i, i below n, for the members l of a list: the pieces of their rows. -/
theorem foldl_pieces {β : Type} (F : β → Nat → Nat → β) (n : Nat) (ls : List Nat) (b : β) :
    ls.foldl (fun b l => (List.range n).foldl (fun b i => F b l i) b) b =
      (ls.flatMap fun l => (List.range n).map (n * l + ·)).foldl (fun b k => F b (k / n) (k % n)) b := by
  rw [List.foldl_flatMap]
  refine List.foldl_ext _ _ _ fun b l _ => ?_
  rw [List.foldl_map]
  refine List.foldl_ext _ _ _ fun b i hi => ?_
  have hlt : i < n := List.mem_range.1 hi
  rw [Nat.mul_add_div (by omega), Nat.div_eq_of_lt hlt, Nat.mul_add_mod, Nat.mod_eq_of_lt hlt, Nat.add_zero]

/-- The store of a 16-byte piece after the checks of R157 (R181). -/
def checkedStore (w : Who) (a : Nat) (bs : List Byte) (s : State) : Acc × State :=
  match s.accFault w .store (BitVec.ofNat 64 a) 16 false with
  | some (c, _, d) => (.fail c d.toNat, s)
  | none => s.storeNow w a bs false

/-- The same in its place among the accesses that wait. -/
def pieceStore (w : Who) (seq a : Nat) (bs : List Byte) (s : State) : Acc × State :=
  inTurn w seq { kind := .store, va := a, n := 16 } (checkedStore w a bs) s

/-- Piece i of a row that `Ran.storeRun` stores. -/
def Ran.storePiece (w : Who) (all : Bool) (l va : Nat) (bs : List Byte) (r : Ran) (i : Nat) : Ran :=
  if r.failLanes.getLsbD l || (all && r.failed.isSome) then r
  else
    let a := va + 16 * i
    let b := (bs.drop (16 * i)).take 16
    r.store w l { kind := .store, va := a, n := 16 } { lane := l, addr := a, size := 16, atop := none, y := ofBytes b, y2 := 0 } (checkedStore w a b)

theorem Ran.storeRun_eq (r : Ran) (w : Who) (l va : Nat) (bs : List Byte) (all : Bool) :
    r.storeRun w l va bs all = (List.range (bs.length / 16)).foldl (Ran.storePiece w all l va bs) r := rfl

theorem Ran.storePiece_performs {w : Who} {before l va i : Nat} {bs x : List Byte} {s s1 : State}
    (h : pieceStore w before (va + 16 * i) ((bs.drop (16 * i)).take 16) s = (.ok x, s1)) (all : Bool) :
    Ran.storePiece w all l va bs { s := s, before := before } i = { s := s1, before := before } := by
  have hgo : ((0#32 : Word).getLsbD l || (all && (none : Option (Nat × Nat × Nat)).isSome)) = false := by simp
  simp only [Ran.storePiece, hgo, Bool.false_eq_true, if_false]
  exact Ran.store_performs (r := { s := s, before := before }) rfl h _ _

/-- Rows of n pieces, stored lane by lane, all of which perform, leave the state after the last piece. -/
theorem pipeLanes_storeRun_performs {s t : State} {wk : MatWork} {m : Word} {w : Who} {n : Nat} {base : Nat → Nat} {row : Nat → List Byte}
    {v : Nat → List Byte} (hlen : ∀ l, (row l).length = 16 * n) (all : Bool)
    (h : Performs (fun s k => pieceStore w wk.seq (base (k / n) + 16 * (k % n)) (((row (k / n)).drop (16 * (k % n))).take 16) s) s
      ((lanesOf m).flatMap fun l => (List.range n).map (n * l + ·)) v t) :
    pipeLanes s wk m (fun r l => r.storeRun w l (base l) (row l) all) = { s := t, before := wk.seq } := by
  have hpieces (l : Nat) : (row l).length / 16 = n := by rw [hlen]; omega
  simp only [pipeLanes, Ran.storeRun_eq, hpieces]
  rw [foldl_pieces fun r l i => Ran.storePiece w all l (base l) (row l) r i]
  exact h.foldl_ran fun k _ s s1 bs hk => Ran.storePiece_performs hk all

/-- Stores of the pipe none of which waits or failed leave the work's group without it, the side log being within its capacity (R192, R194). -/
theorem Ran.finishPipe_performed {s0 t : State} {w : Who} {wk : MatWork} {before : Nat} (hroom : (s0.sideLog w.c w.sp).length ≤ 64) (gid : Nat)
    (kept : Bool) (after : State → State) :
    ({ s := t, before := before } : Ran).finishPipe s0 gid w wk kept after = after (t.popWork gid) := by
  have hes : s0.sideEntries w wk.pc [] wk.seq wk.instr 0#32 = [] := rfl
  simp only [Ran.finishPipe, hes, List.length_nil, List.isEmpty_nil, Bool.not_true, Bool.false_and, Bool.false_eq_true, or_false, Nat.add_zero,
    gt_iff_lt, if_neg (not_lt.2 hroom), if_true]

/-! ### Bank stores and what waits -/

theorem State.mem_waitingOf {s : State} {gid before : Nat} {x : AccOp} : x ∈ s.waitingOf gid before ↔
    (∃ g, find s.groups gid = some g ∧ x ∈ (g.replay.filter fun p => decide (p.seq < before)).flatMap Parked.accs) ∨
      ∃ e ∈ s.clusters, x ∈ e.2.waitingOf gid before := by
  rw [State.waitingOf, List.mem_append, List.mem_flatMap]
  refine or_congr ?_ Iff.rfl
  cases find s.groups gid <;> simp

/-- A change of a cluster that touches neither its side logs nor its pieces lets nothing more wait. -/
theorem State.waitingOf_updC_subset (s : State) (gid before c : Nat) {f : Cluster → Cluster}
    (hf : ∀ k, (f k).sideLogs = k.sideLogs ∧ (f k).pieces = k.pieces) : (s.updC c f).waitingOf gid before ⊆ s.waitingOf gid before := by
  intro x hx
  rw [State.mem_waitingOf] at hx ⊢
  refine hx.imp id ?_
  rintro ⟨e, he, hx⟩
  rcases mem_setD he with he | rfl
  · exact ⟨e, he, hx⟩
  · obtain ⟨hlogs, hpieces⟩ := hf (s.cluster c)
    rw [Cluster.waitingOf, hlogs, hpieces] at hx
    rw [State.cluster, getD_eq_find] at hx
    cases hc : find s.clusters c with
    | none =>
      rw [hc] at hx
      exact absurd hx List.not_mem_nil
    | some k =>
      rw [hc] at hx
      exact ⟨(c, k), find_mem hc, hx⟩

/-- A change of a group that keeps its replay entries does so too. -/
theorem State.waitingOf_updG_subset (s : State) (gid before j : Nat) {f : Group → Group} (hf : ∀ g, (f g).replay = g.replay) :
    (s.updG j f).waitingOf gid before ⊆ s.waitingOf gid before := by
  intro x hx
  rw [State.mem_waitingOf] at hx ⊢
  refine hx.imp ?_ id
  rintro ⟨g, hg, hx⟩
  rw [State.find_updG] at hg
  split at hg
  · next hj =>
    subst hj
    obtain ⟨y, hy, rfl⟩ := Option.map_eq_some_iff.1 hg
    exact ⟨y, hy, by rwa [hf] at hx⟩
  · exact ⟨g, hg, hx⟩

theorem State.waitingOf_spStamp_subset (s : State) (j c : Nat) (store : Bool) (gid before : Nat) :
    (s.spStamp j c store).waitingOf gid before ⊆ s.waitingOf gid before := by
  cases hg : find s.groups j with
  | none => simp only [State.spStamp, hg, List.Subset.refl]
  | some g =>
    let ts := max g.ts ((s.cluster c).spTs + if store then 1 else 0)
    have hgroups : (s.spStamp j c store).groups = ((s.updC c fun k => { k with spTs := ts }).updG j fun g => { g with ts := ts }).groups := by
      simp only [State.spStamp, hg]; rfl
    have hclusters : (s.spStamp j c store).clusters = ((s.updC c fun k => { k with spTs := ts }).updG j fun g => { g with ts := ts }).clusters := by
      simp only [State.spStamp, hg]; rfl
    rw [State.waitingOf_congr hgroups hclusters]
    exact List.Subset.trans (State.waitingOf_updG_subset _ gid before j fun _ => rfl) (s.waitingOf_updC_subset gid before c fun k => ⟨rfl, rfl⟩)

/-- A store of a bank lets nothing more wait. -/
theorem State.waitingOf_spStore_subset {s t : State} {j : Nat} {g : Group} {window : Bool} {a : Word} {bs : List Byte} {r : Acc}
    (h : s.spStore j g window a bs = (r, t)) (gid before : Nat) : t.waitingOf gid before ⊆ s.waitingOf gid before := by
  have hstamp (s : State) (c : Nat) (store : Bool) := s.waitingOf_spStamp_subset j c store gid before
  unfold State.spStore at h
  split at h
  · cases h; exact List.Subset.refl _
  · split at h
    · cases h; exact List.Subset.refl _
    · split at h
      · cases h; exact List.Subset.refl _
      · cases h
        exact List.Subset.trans (hstamp _ _ _) (s.waitingOf_updC_subset gid before _ fun k => ⟨rfl, rfl⟩)

/-- The stores of a group's row pipe to a bank: ordinary, of no global address. -/
structure AccOp.isBankStore (y : AccOp) : Prop where
  kind : y.kind = .store
  stream : y.stream = false
  rel : y.rel = false
  space : y.space ≠ 0

/-- A row of `tstsh` goes to scratchpad or through the window. -/
theorem isBankStore_row (window : Bool) (va n : Nat) :
    ({ kind := .store, space := if window then 2 else 1, va := va, n := n } : AccOp).isBankStore :=
  ⟨rfl, rfl, rfl, by cases window <;> simp⟩

/-- What keeps one store of a bank back keeps every other back. -/
theorem AccOp.isBankStore.keeps {y y' : AccOp} (h : y.isBankStore) (h' : y'.isBankStore) (x : AccOp) : x.keeps y = x.keeps y' := by
  obtain ⟨hk, hs, hr, hp⟩ := h
  obtain ⟨hk', hs', hr', hp'⟩ := h'
  simp [AccOp.keeps, AccOp.overlaps, AccOp.reads, hk, hs, hr, hp, hk', hs', hr', hp']

/-- An access in its turn, with the pieces read that it must follow (R249, R252). -/
theorem inTurn_eq (w : Who) (before : Nat) (y : AccOp) (f : State → Acc × State) (s : State) : inTurn w before y f s =
    let s1 := if s.mustFollow w.gid before y then s.bindPieces w before else s
    if s1.mustFollow w.gid before y || s1.pageLogged w before y then (.wait, s1) else f s1 := rfl

/-- A store of a bank that performs in its turn is performed once nothing keeps it back; which party it is matters only before. -/
theorem inTurn_bankStore {w : Who} {before : Nat} {y : AccOp} {f : State → Acc × State} {s t : State} {bs : List Byte}
    (h : inTurn w before y f s = (.ok bs, t)) : ∃ s1, s1.mustFollow w.gid before y = false ∧ f s1 = (.ok bs, t) := by
  rw [inTurn_eq] at h
  dsimp only at h
  generalize (if s.mustFollow w.gid before y then s.bindPieces w before else s) = s1 at h
  split at h
  · cases h
  · next hfree => exact ⟨s1, (Bool.or_eq_false_iff.1 (Bool.eq_false_iff.2 hfree)).1, h⟩

theorem inTurn_bankStore_free {w : Who} {before : Nat} {y : AccOp} (hy : y.isBankStore) (f : State → Acc × State) {s : State}
    (h : s.mustFollow w.gid before y = false) : inTurn w before y f s = f s := by
  simp only [inTurn_eq, h, State.pageLogged_bank _ w before hy.space, Bool.or_self, Bool.false_eq_true, if_false]

theorem State.mustFollow_of_subset {s t : State} {gid before : Nat} (hsub : t.waitingOf gid before ⊆ s.waitingOf gid before) {y : AccOp}
    (h : s.mustFollow gid before y = false) : t.mustFollow gid before y = false := by
  rw [State.mustFollow, List.any_eq_false] at h ⊢
  exact fun x hx => h x (hsub hx)


section
variable {gid before : Nat} {y : Nat → AccOp} {op : Nat → State → Acc × State} {who : State → Who}
  (hy : ∀ l, (y l).isBankStore) (hwho : ∀ s, (who s).gid = gid)
  (hop : ∀ l s t r, op l s = (r, t) → t.waitingOf gid before ⊆ s.waitingOf gid before)
include hy hwho hop

/-- Stores of banks that nothing keeps back perform for one party of the group as for another. -/
theorem Performs.bankStores_free {w : Who} (hw : w.gid = gid) {ls : List Nat} {v : Nat → List Byte} {s t : State}
    (hs : ∀ l, s.mustFollow gid before (y l) = false)
    (h : Performs (fun s l => inTurn (who s) before (y l) (op l) s) s ls v t) :
    Performs (fun s l => inTurn w before (y l) (op l) s) s ls v t := by
  induction ls generalizing s with
  | nil =>
    obtain rfl : t = s := h
    rfl
  | cons l ls ih =>
    obtain ⟨s1, hl, hrest⟩ := h
    have hfree (w : Who) (hw : w.gid = gid) : inTurn w before (y l) (op l) s = op l s :=
      inTurn_bankStore_free (hy l) _ (by rw [hw]; exact hs l)
    have hstore : op l s = (.ok (v l), s1) := (hfree (who s) (hwho s)).symm.trans hl
    exact ⟨s1, (hfree w hw).trans hstore, ih (fun k => State.mustFollow_of_subset (hop l s s1 _ hstore) (hs k)) hrest⟩

/-- Once the first of some stores of banks has performed nothing keeps the others back, and whether they are made for the party that the state before
them gives or for the first one's does not matter. -/
theorem Performs.bankStores {ls : List Nat} {v : Nat → List Byte} {s t : State}
    (h : Performs (fun s l => inTurn (who s) before (y l) (op l) s) s ls v t) :
    Performs (fun s' l => inTurn (who s) before (y l) (op l) s') s ls v t := by
  cases ls with
  | nil =>
    obtain rfl : t = s := h
    rfl
  | cons l ls =>
    obtain ⟨s1, hl, hrest⟩ := h
    refine ⟨s1, hl, Performs.bankStores_free hy hwho hop (hwho s) (fun k => ?_) hrest⟩
    obtain ⟨u, hu, hstore⟩ := inTurn_bankStore (f := op l) hl
    rw [hwho] at hu
    refine State.mustFollow_of_subset (hop l u s1 _ hstore) ?_
    simpa only [State.mustFollow, (hy k).keeps (hy l)] using hu

end

/-! ### What each instruction leaves -/

section
variable {s t : State} {gid : Nat} {g : Group} {wk : MatWork} {rest : List MatWork} {v : Nat → List Byte}

/-- `tst` whose pieces all perform (R194). -/
theorem PipeHead.tst {f : TldForm} (h : PipeHead s gid g wk rest) (hi : wk.instr = .tst f) (hroom : (s.sideLog g.cluster g.sp).length ≤ 64) :
    let row (l : Nat) : List Byte := (List.range 32).flatMap fun i => toBytes 4 (g.tileWord f.ta l i).toNat
    let base (l : Nat) : Nat := (pair (wk.vals.getD (2 * l) 0#32) (wk.vals.getD (2 * l + 1) 0#32)).toNat
    Performs (fun s' k => pieceStore (s.whoOf gid g) wk.seq (base (k / 8) + 16 * (k % 8)) (((row (k / 8)).drop (16 * (k % 8))).take 16) s') s
      ((lanesOf (wk.lanes &&& ~~~g.helper)).flatMap fun l => (List.range 8).map (8 * l + ·)) v t →
    exec (.matrixInstructionComplete gid) s = .next (t.popWork gid) := by
  intro row base hall
  have hlen (l : Nat) : (row l).length = 16 * 8 := by
    have hrow : row l = ((List.range 32).map (g.tileWord f.ta l)).flatMap fun x => toBytes 4 x.toNat :=
      (List.flatMap_map ..).symm
    rw [hrow, length_flatMap_toBytes, List.length_map, List.length_range]
  rw [h.completes, State.completeWork, hi]
  dsimp only
  rw [pipeLanes_storeRun_performs hlen false hall]
  exact congrArg _ (Ran.finishPipe_performed hroom gid false id)

/-- `acpy.mem` without a check whose pieces all perform; ZC zeroes the tile (R192). -/
theorem PipeHead.acpyMem {f : AcpyMForm} (h : PipeHead s gid g wk rest) (hi : wk.instr = .acpyMem f) (hckd : f.ckd = 0)
    (hroom : (s.sideLog g.cluster g.sp).length ≤ 64) :
    let row (l : Nat) : List Byte := (List.range 64).flatMap fun n => toBytes 4 (g.accEl f.acc l n).toNat
    let base (l : Nat) : Nat := (pair (wk.vals.getD 0 0#32) (wk.vals.getD 1 0#32) + BitVec.ofNat 64 (l * (wk.vals.getD 2 0#32).toNat)).toNat
    Performs (fun s' k => pieceStore (s.whoOf gid g) wk.seq (base (k / 16) + 16 * (k % 16)) (((row (k / 16)).drop (16 * (k % 16))).take 16) s') s
      ((lanesOf (wk.lanes &&& ~~~g.helper)).flatMap fun l => (List.range 16).map (16 * l + ·)) v t →
    exec (.matrixInstructionComplete gid) s =
      .next (if f.zc.val = 1 then (t.popWork gid).updG gid fun g => g.zeroAcc f.acc else t.popWork gid) := by
  intro row base hall
  have hrow (l : Nat) : (g.accRow f.acc l).flatMap (fun x => toBytes 4 x.toNat) = row l := List.flatMap_map ..
  have hlen (l : Nat) : (row l).length = 16 * 16 := by
    rw [← hrow, length_flatMap_toBytes, Group.accRow, List.length_map, List.length_range]
  rw [h.completes, State.completeWork, hi]
  dsimp only
  rw [State.drained_unchecked _ _ _ _ hckd, h.here]
  simp only [hrow]
  rw [pipeLanes_storeRun_performs hlen true hall]
  exact congrArg _ (Ran.finishPipe_performed hroom gid true _)

/-- `tstsh` whose rows all perform (R194). -/
theorem PipeHead.tstsh {f : TldForm} (h : PipeHead s gid g wk rest) (hi : wk.instr = .tstsh f) (hroom : (s.sideLog g.cluster g.sp).length ≤ 64) :
    let row (l : Nat) : List Byte := (List.range 32).flatMap fun i => toBytes 4 (g.tileWord f.ta l i).toNat
    let window (l : Nat) : Bool := bit (wk.vals.getD l 0#32).toNat 31
    Performs (fun s' l => inTurn (s.whoOf gid g) wk.seq
        { kind := .store, space := if window l then 2 else 1, va := (wk.vals.getD l 0#32).toNat, n := 128 }
        (fun s => s.spStore gid g (window l) (wk.vals.getD l 0#32) (row l)) s') s (lanesOf (wk.lanes &&& ~~~g.helper)) v t →
    exec (.matrixInstructionComplete gid) s = .next (t.popWork gid) := by
  intro row window hall
  have hspace (l : Nat) : decide ((if window l then 2 else 1) = 2) = window l := by cases window l <;> rfl
  rw [h.completes, State.completeWork, hi]
  dsimp only
  rw [pipeLanes, hall.foldl_ran fun l _ s1 s2 bs hl => ?_]
  · exact congrArg _ (Ran.finishPipe_performed hroom gid false id)
  · refine Ran.store_performs (bs := bs) rfl ?_ _ _
    rw [← hl]
    exact congrArg (fun b => inTurn _ _ _ (fun s => s.spStore gid g b _ _) s1) (hspace l)

/-- `ackd`: the work leaves the pipe in the state that the check gives; a failed check is a late fault (R191, R200). -/
theorem PipeHead.ackd {f : AckdForm} (h : PipeHead s gid g wk rest) (hi : wk.instr = .ackd f) {s1 : State} {passed : Bool}
    (hcheck : s.drain gid f.acc (slotTol (s.slot g f.fmt)) = (s1, passed)) :
    exec (.matrixInstructionComplete gid) s =
      .next (if passed then s1.popWork gid else s1.pipeFault gid (s.whoOf gid g) wk 0x41 0 f.acc) := by
  rw [h.completes, State.completeWork, hi]
  simp only [State.drained, hcheck, if_true]
  cases passed <;> rfl

end

/-- Settles O29: where every store performs, the run of the pipe ends in the state after the last one, and its end takes the work out of the pipe. -/
theorem tileStoresAndDrainsComplete : Obligations.TileStoresAndDrainsComplete := by
  unfold Obligations.TileStoresAndDrainsComplete
  refine ⟨?_, ?_, ?_, ?_⟩
  · intro f s t gid g wk rest v h hi _ hroom who row base hall
    exact h.tst hi hroom hall
  · intro f s t gid g wk rest v h hi _ hroom row window hall
    exact h.tstsh hi hroom <| Performs.bankStores (who := fun s => s.whoOf gid g) (fun l => isBankStore_row (window l) _ _) (fun _ => rfl)
      (fun _ _ _ _ hstore => State.waitingOf_spStore_subset hstore gid wk.seq) hall
  · intro f s t gid g wk rest v h hi hckd _ hroom who row base hall
    rw [h.acpyMem hi hckd hroom hall]
    exact congrArg _ (if_congr (by rw [Fin.ext_iff]; rfl) rfl rfl)
  · intro f s s1 gid g wk rest h hi _ check
    exact ⟨fun hpass => h.ackd hi hpass, fun hfail => h.ackd hi hfail⟩

end Sys2Proof.Machine
end

section
/-!
SUPPORT. Matrix instructions at issue: what their checks and the acquisition of the engine leave, and the entry into the pipe (R177, R180, R199);
and the statement on them.
-/
namespace Sys2Proof.Machine
open Sys2Proof

/-! ### What the checks of an issue leave -/

/-- What a matrix instruction's checks and its use of the engine may change before it enters the pipe: the cluster, where the engine of (c, sp) is
then e, and what translations keep. -/
structure Checked (s t : State) (c sp : Nat) (e : MatEngine) : Prop where
  groups : t.groups = s.groups
  order : t.order = s.order
  mem : t.mem = s.mem
  l2 : t.l2 = s.l2
  engine : t.engine c sp = e

variable {s t : State} {gid : Nat} {pc : DWord} {g : Group} {i : Instr} {sw : Fin 2} {gd : Fin 8} {u : Uses} {c sp : Nat} {e : MatEngine}

theorem Checked.refl (s : State) (c sp : Nat) : Checked s s c sp (s.engine c sp) := ⟨rfl, rfl, rfl, rfl, rfl⟩

theorem Checked.of_sansDies {t' : State} (h : Checked s t c sp e) (ht : t'.sansDies = t.sansDies) : Checked s t' c sp e where
  groups := (congrArg State.groups ht).trans h.groups
  order := (congrArg State.order ht).trans h.order
  mem := (congrArg State.mem ht).trans h.mem
  l2 := (congrArg State.l2 ht).trans h.l2
  engine := (congrArg (State.engine · c sp) ht).trans h.engine

/-- A change of the cluster. -/
theorem Checked.updC (h : Checked s t c sp e) (c' : Nat) {f : Cluster → Cluster} {e' : MatEngine}
    (he : (t.updC c' f).engine c sp = e') : Checked s (t.updC c' f) c sp e' :=
  ⟨h.groups, h.order, h.mem, h.l2, he⟩

/-- An entry put into a CTB leaves every engine. -/
theorem Checked.ctbPut (h : Checked s t c sp e) (c' : Nat) (x : CtbEntry) : Checked s (t.updC c' fun k => k.ctbPut x) c sp e := by
  refine h.updC c' ?_
  rw [State.engine, State.cluster_updC]
  split
  · next hc => subst hc; exact h.engine
  · exact h.engine

theorem Checked.attrs (h : Checked s t c sp e) (c' asid va : Nat) : Checked s (t.attrs c' asid va).2 c sp e := by
  unfold State.attrs
  extract_lets a
  split
  · exact h.ctbPut c' _
  · have hport : Checked s (t.portLeaf a va false).2 c sp e := h.of_sansDies (t.sansDies_portLeaf a va false)
    generalize t.portLeaf a va false = r at hport ⊢
    obtain ⟨leaf, s1⟩ := r
    cases leaf with
    | bad c x => exact hport
    | leaf l =>
      have hentry : Checked s (s1.asidEntry (homeDie a va) a).2 c sp e := Checked.of_sansDies hport (s1.sansDies_asidEntry _ _)
      dsimp only
      generalize s1.asidEntry (homeDie a va) a = r at hentry ⊢
      obtain ⟨x, s2⟩ := r
      dsimp only
      split
      · exact hentry
      · exact hentry.ctbPut c' _

/-- The refills that the checks of R157 make. -/
theorem Checked.refill (h : Checked s t c sp e) (w : Who) (addrs : List DWord) : Checked s (t.refill w addrs) c sp e := by
  unfold State.refill
  refine List.foldlRecOn (motive := fun x => Checked s x c sp e) _ _ h fun x hx a _ => ?_
  split
  · exact hx.attrs _ _ _
  · exact hx

/-- An update of the engine. -/
theorem Checked.updEngine (h : Checked s t c sp e) (f : MatEngine → MatEngine) : Checked s (t.updEngine c sp f) c sp (f e) := by
  refine h.updC c ?_
  rw [State.engine, State.cluster_updC, if_pos rfl, getD_setD, if_pos rfl]
  exact congrArg f h.engine

/-- What an engine is once the group holds it: as it was where it held it before, cleared else (R177). -/
def MatEngine.takenBy (e : MatEngine) (gid : Nat) : MatEngine := if e.holder = some gid then e else { e.cleared with holder := some gid }

/-- A group takes an engine that it holds, or that nobody holds or wants. -/
theorem Checked.takeEngine (h : Checked s t g.cluster g.sp e) (hav : e.holder = some gid ∨ e.holder = none ∧ e.waiters = []) :
    ∃ t', t.takeEngine gid g = some t' ∧ Checked s t' g.cluster g.sp (e.takenBy gid) := by
  have he := h.engine
  unfold State.takeEngine MatEngine.takenBy
  rw [he]
  by_cases hold : e.holder = some gid
  · exact ⟨t, if_pos hold, by rwa [if_pos hold]⟩
  · obtain ⟨hfree, hnone⟩ := hav.resolve_left hold
    refine ⟨t.updEngine g.cluster g.sp fun e => { e.cleared with holder := some gid }, ?_, ?_⟩
    · simp [hfree, hnone]
    · rw [if_neg hold]
      exact h.updEngine _

/-! ### Entering the pipe -/

/-- The group that has entered an instruction into its pipe. -/
theorem Group.piped_advanced (g : Group) (pc : DWord) (ws : List MatWork) (next : DWord) :
    g.Advanced ({ g.begun pc with pipe := ws }.setPc (g.issued pc) next) (g.issued pc) next := fun l hl => by
  rw [Group.pcOf_setPc _ _ _ _ hl, ← g.begun_pcOf pc l]
  generalize g.begun pc = b
  rfl

/-- An instruction whose checks passed enters the pipe with the words read at issue, and the issued lanes go on (R180). -/
theorem Checked.piped (hg : find s.groups gid = some g) (h : Checked (s.setG gid (g.begun pc)) t g.cluster g.sp e) (gd : Fin 8) (i : Instr)
    (vals : List Word) : Piped s (t.pushWork (g.issueAt gid pc 8 gd) i vals) gid pc g gd i vals e := by
  obtain ⟨hgroups, horder, hmem, hl2, hengine⟩ := h
  have hfind (k : Nat) : find t.groups k = if k = gid then some (g.begun pc) else find s.groups k := by
    rw [hgroups, State.setG, State.find_updG, hg]; rfl
  have hpipe : (g.begun pc).pipe = g.pipe := by rw [Group.begun_eq]
  let wk : MatWork := { instr := i, lanes := g.executing pc gd, pc := pc, vals := vals, seq := s.order }
  have hnew : find (t.pushWork (g.issueAt gid pc 8 gd) i vals).groups gid =
      some ({ g.begun pc with pipe := g.pipe ++ [wk] }.setPc (g.issued pc) (asPc (pc + 8#64))) := by
    simp only [State.pushWork, Issue.past, State.find_updG, Group.issueAt_gid, if_true, hfind, Option.map_some, hpipe, horder]
    rfl
  have hother (k : Nat) (hk : k ≠ gid) : find (t.pushWork (g.issueAt gid pc 8 gd) i vals).groups k = find s.groups k := by
    simp only [State.pushWork, Issue.past, State.find_updG, Group.issueAt_gid, if_neg hk, hfind]
  exact ⟨⟨_, hnew, g.piped_advanced pc _ _, rfl⟩, hother, congrArg (· + 1) horder, ⟨hmem, hl2⟩, hengine⟩

/-! ### Checks that pass -/

theorem Issue.matChecked_acts (it : Issue) (s0 s : State) {checks : List (Option (Nat × DWord × DWord))} (h : ∀ x ∈ checks, x = none)
    (act : State → State) : it.matChecked s0 s checks act = act s := by
  have hnone : checks.findSome? id = none := List.findSome?_eq_none_iff.2 h
  rw [Issue.matChecked, hnone]

theorem Issue.limited_acts (it : Issue) (s0 s : State) {limits : List (Option Nat)} (h : ∀ x ∈ limits, x = none) (act : State → State) :
    it.limited s0 s limits act = act s := by
  have hnone : limits.findSome? id = none := List.findSome?_eq_none_iff.2 h
  rw [Issue.limited, hnone]

/-- An instruction that needs the engine acquires a free one, passes its checks and acts (R177, R184). -/
theorem Checked.withEngine {len : Nat} (h : Checked s t g.cluster g.sp e) (hav : e.holder = some gid ∨ e.holder = none ∧ e.waiters = [])
    {checks : List (Option (Nat × DWord × DWord))} (hchecks : ∀ x ∈ checks, x = none) (s0 : State) (act : State → State) :
    ∃ t', (g.issueAt gid pc len gd).withEngine s0 t checks act = act t' ∧ Checked s t' g.cluster g.sp (e.takenBy gid) := by
  obtain ⟨t', htake, ht'⟩ := h.takeEngine hav
  refine ⟨t', ?_, ht'⟩
  rw [Issue.withEngine, Group.issueAt_gid, Group.issueAt_g, htake]
  exact Issue.matChecked_acts _ _ _ hchecks act

/-- The engine that the begun state has. -/
theorem Checked.begun (s : State) (gid : Nat) (x : Group) (c sp : Nat) : Checked (s.setG gid x) (s.setG gid x) c sp (s.engine c sp) :=
  Checked.refl _ c sp

theorem Issue.mustWaitPipe_free (hfree : g.awaits = 0 ∧ g.sideCount = 0) (gid : Nat) (pc : DWord) (len : Nat) (gd : Fin 8) :
    (g.issueAt gid pc len gd).mustWaitPipe = false := by
  simp only [Issue.mustWaitPipe, Group.issueAt_g, hfree, bne_self_eq_false, Bool.or_self]

/-- The instructions of the pipe that use no engine and no memory address (R191 to R193, R195). -/
theorem Ready.pipeOp (h : Ready s gid pc g i sw u) (hE : g.executing pc gd ≠ 0#32) {slots : Bool} (hslots : slots = true)
    {limits : Issue → List (Option Nat)} (hlimits : ∀ x ∈ limits (g.issueAt gid pc 8 gd), x = none) (vals : Issue → List Word) :
    ∃ t, Machine.pipeOp s i sw gd u slots limits vals = .next t ∧
      Piped s t gid pc g gd i (vals (g.issueAt gid pc 8 gd)) (s.engine g.cluster g.sp) := by
  refine ⟨_, ?_, (Checked.begun s gid (g.begun pc) g.cluster g.sp).piped h.here gd i _⟩
  rw [Machine.pipeOp, hslots, h.runs]
  simp only [Issue.limited_acts _ _ _ hlimits, Group.issueAt_E]
  exact congrArg Host.Outcome.next (if_neg hE)

theorem State.runLimits_pass {c j0 n width : Nat} (h : j0 + n ≤ width ∧ c + n ≤ (s.variantOf g).vregs) :
    ∀ x ∈ s.runLimits g c j0 n width, x = none := by
  obtain ⟨hrow, hregs⟩ := h
  simp [State.runLimits, hrow, hregs]

/-! ### Rows (R192, R194) -/

theorem State.rowFaultSh_setG (s : State) (gid : Nat) (x g : Group) (a : Word) : (s.setG gid x).rowFaultSh g a = s.rowFaultSh g a := by
  have hplace (b : Block) := State.spPlace_congr (s := s) (t := s.setG gid x) rfl rfl b (bit a.toNat 31) a 128
  simp only [State.rowFaultSh, State.blockOf_congr (s := s) (t := s.setG gid x) rfl, hplace]

/-- `tst` (R194). -/
theorem Ready.tst {f : TldForm} (h : Ready s gid pc g (.tst f) f.sw (tldUses f)) (hfree : g.awaits = 0 ∧ g.sideCount = 0)
    (hE : g.executing pc f.g ≠ 0#32)
    (hok : ∀ l ∈ lanesOf (g.executing pc f.g), ((s.setG gid (g.begun pc)).refill (s.who (g.issueAt gid pc 8 f.g))
      ((lanesOf (g.executing pc f.g)).map (tldRowAddr f g))).rowFault (s.who (g.issueAt gid pc 8 f.g)) .store (tldRowAddr f g l) = none) :
    ∃ t, exec (.tst f) s = .next t ∧ Piped s t gid pc g f.g (.tst f)
      ((List.range 32).flatMap fun l => [(tldRowAddr f g l).setWidth 32, ((tldRowAddr f g l) >>> 32).setWidth 32]) (s.engine g.cluster g.sp) := by
  refine ⟨_, ?_, ((Checked.begun s gid (g.begun pc) g.cluster g.sp).refill (s.who (g.issueAt gid pc 8 f.g))
    ((lanesOf (g.executing pc f.g)).map (tldRowAddr f g))).piped h.here f.g _ _⟩
  change execTst f s = _
  rw [execTst, h.runs]
  simp only [Issue.mustWaitPipe_free hfree, Bool.false_eq_true, if_false, Group.issueAt_E, Group.issueAt_g]
  rw [Issue.guarded_acts fun l hl hlane => hok l ((mem_lanesOf _ l).2 ⟨hl, hlane⟩)]
  exact congrArg Host.Outcome.next (if_neg hE)

/-- `tstsh` (R194). -/
theorem Ready.tstsh {f : TldForm} (h : Ready s gid pc g (.tstsh f) f.sw (tldUsesSh f)) (hfree : g.awaits = 0 ∧ g.sideCount = 0)
    (hok : ∀ l < 32, s.rowFaultSh g (tldRowAddr32 f g l) = none) (hE : g.executing pc f.g ≠ 0#32) :
    ∃ t, exec (.tstsh f) s = .next t ∧
      Piped s t gid pc g f.g (.tstsh f) ((List.range 32).map (tldRowAddr32 f g)) (s.engine g.cluster g.sp) := by
  refine ⟨_, ?_, (Checked.begun s gid (g.begun pc) g.cluster g.sp).piped h.here f.g _ _⟩
  change execTstsh f s = _
  rw [execTstsh, h.runs]
  simp only [Issue.mustWaitPipe_free hfree, Bool.false_eq_true, if_false, Group.issueAt_g]
  rw [Issue.guarded_acts fun l hl _ => (State.rowFaultSh_setG s gid _ g _).trans (hok l hl)]
  exact congrArg Host.Outcome.next (if_neg hE)

/-- The words of an address in a pair of uniform registers. -/
theorem Group.sreg64_words (g : Group) (r : Nat) : (g.sreg64 r).setWidth 32 = g.sreg r ∧ (g.sreg64 r >>> 32).setWidth 32 = g.sreg (r + 1) := by
  have hbit (k : Nat) : (g.sreg64 r).getLsbD k = if k < 32 then (g.sreg r).getLsbD k else (g.sreg (r + 1)).getLsbD (k - 32) :=
    (BitVec.getLsbD_append ..).trans (by cases decide (k < 32) <;> rfl)
  constructor <;> ext k hk
  · simp [BitVec.getElem_setWidth, hbit, hk]
  · simp [BitVec.getElem_setWidth, hbit, BitVec.getLsbD_eq_getElem hk]

/-- `acpy.mem` (R192). -/
theorem Ready.acpyMem {f : AcpyMForm} (h : Ready s gid pc g (.acpyMem f) f.sw { s := [f.a, f.a + 1, f.b], a := [f.acc] })
    (hfree : g.awaits = 0 ∧ g.sideCount = 0) (hE : g.executing pc f.g ≠ 0#32) (htype : slotType (s.slot g f.fmt) ≠ 0)
    (hbase : (g.sreg64 f.a).toNat % 16 = 0) (hstride : (g.sreg f.b).toNat % 16 = 0)
    (hok : ((s.setG gid (g.begun pc)).refill (s.who (g.issueAt gid pc 8 f.g)) [g.sreg64 f.a]).accFault (s.who (g.issueAt gid pc 8 f.g)) .store
      (g.sreg64 f.a) 1 false = none) :
    ∃ t, exec (.acpyMem f) s = .next t ∧ Piped s t gid pc g f.g (.acpyMem f) [g.sreg f.a, g.sreg (f.a + 1), g.sreg f.b]
      (s.engine g.cluster g.sp) := by
  refine ⟨_, ?_, ((Checked.begun s gid (g.begun pc) g.cluster g.sp).refill (s.who (g.issueAt gid pc 8 f.g)) [g.sreg64 f.a]).piped h.here f.g _ _⟩
  obtain ⟨hlo, hhi⟩ := g.sreg64_words f.a
  have hfault (l : Nat) : sameFault (((s.setG gid (g.begun pc)).refill (s.who (g.issueAt gid pc 8 f.g)) [g.sreg64 f.a]).accFault
      (s.who (g.issueAt gid pc 8 f.g)) .store (g.sreg64 f.a) 1 (decide ((g.sreg64 f.a).toNat % 16 ≠ 0 ∨ (g.sreg f.b).toNat % 16 ≠ 0))) l = none := by
    simp [sameFault, hbase, hstride, hok]
  change execAcpyMem f s = _
  rw [execAcpyMem, h.toIssues.curSlot, decide_eq_true htype, h.runs]
  refine congrArg Host.Outcome.next ((if_neg hE).trans ?_)
  simp only [Issue.mustWaitPipe_free hfree, Bool.false_eq_true, if_false]
  refine (Issue.guarded_acts (fun l _ _ => hfault l) _ _ _ _).trans ((if_neg hE).trans ?_)
  simp only [Group.issueAt_g, hlo, hhi]

/-! ### Instructions that use the engine (R177, R184 to R188) -/

/-- Whether a group may have its engine at once: it holds it, or nobody holds or wants it. -/
def MatEngine.availableTo (e : MatEngine) (gid : Nat) : Prop := e.holder = some gid ∨ e.holder = none ∧ e.waiters = []

/-- `mldw` from a tile pair (R184). -/
theorem Ready.mldwTile {f : MldwTForm} (h : Ready s gid pc g (.mldwTile f) f.sw { t := [f.ta], a := [0] })
    (hsolid : g.executing pc f.g &&& ~~~g.helper ≠ 0#32) (htype : slotType (s.slot g f.fmt) = 3) (hkind : f.kind.val = 0) (hspar : f.spar.val = 0)
    (htiles : f.ta.val + 1 < (s.variantOf g).tiles) (hav : (s.engine g.cluster g.sp).availableTo gid) :
    ∃ t, exec (.mldwTile f) s = .next t ∧ Piped s t gid pc g f.g (.mldwTile f) []
      { (s.engine g.cluster g.sp).takenBy gid with issueShadow := (1, 64, 0, f.fmt.val) } := by
  let sl := s.slot g f.fmt
  have hshape : (planeShape (slotType sl) (slotPrd sl) f.kind f.spar true).isNone = false := by
    simp [planeShape, sl, htype, hkind, hspar]
  obtain ⟨t', hact, ht'⟩ := (Checked.begun s gid (g.begun pc) g.cluster g.sp).withEngine (pc := pc) (gd := f.g) (len := 8) hav
    (checks := [ if (planeShape (slotType sl) (slotPrd sl) f.kind f.spar true).isNone then some (0x02, 0#64, 0#64) else none
               , if f.ta.val + 1 < (s.variantOf g).tiles then none else some (0x04, 0#64, 0#64) ])
    (by simp [hshape, htiles]) s _
  refine ⟨_, ?_, (ht'.updEngine fun e => { e with issueShadow := (1, 64, 0, f.fmt.val) }).piped h.here f.g _ _⟩
  have hweight : weightType (slotType (s.slot g f.fmt)) = true := by rw [htype]; rfl
  change execMldwTile f s = _
  simp only [execMldwTile, h.toIssues.curSlot]
  rw [hweight, h.runs]
  exact congrArg Host.Outcome.next ((if_neg hsolid).trans hact)

/-- `mldw` from memory (R184, R185). -/
theorem Ready.mldwMem {f : MldwMForm} {kind k : Nat} {sl : BitVec 128} (hsl : s.slot g f.fmt = sl)
    (h : Ready s gid pc g (.mldwMem f) f.sw { s := f.a.val :: (f.a + 1) :: (if slotType sl = 16 then [f.b.val] else []), a := [0] })
    (hfree : g.awaits = 0 ∧ g.sideCount = 0) (hsolid : g.executing pc f.g &&& ~~~g.helper ≠ 0#32) (hweight : weightType (slotType sl) = true)
    (hshape : planeShape (slotType sl) (slotPrd sl) f.kind f.spar false = some (kind, k)) (hb : slotType sl ≠ 16 → f.b.val = 0)
    (hbase : (g.sreg64 f.a).toNat % 128 = 0) {e0 : Word} (he0 : e0 = if slotType sl = 16 then g.sreg f.b else 0#32) (hoff : e0.toNat % 64 = 0)
    (hok : (s.setG gid (g.begun pc)).accFault (s.who (g.issueAt gid pc 8 f.g)) .load (g.sreg64 f.a) 1 false = none)
    (hav : (s.engine g.cluster g.sp).availableTo gid) :
    ∃ t, exec (.mldwMem f) s = .next t ∧ Piped s t gid pc g f.g (.mldwMem f) [g.sreg f.a, g.sreg (f.a + 1), e0]
      { (s.engine g.cluster g.sp).takenBy gid with issueShadow := (kind, k, f.spar.val, f.fmt.val) } := by
  subst he0
  let B := g.sreg64 f.a
  let e0 : Word := if slotType sl = 16 then g.sreg f.b else 0#32
  let b := s.setG gid (g.begun pc)
  let w := s.who (g.issueAt gid pc 8 f.g)
  have hfault : b.accFault w .load B 1 (decide (B.toNat % 128 ≠ 0 ∨ e0.toNat % 64 ≠ 0)) = none := by
    rw [decide_eq_false (not_or.2 ⟨not_not.2 hbase, not_not.2 hoff⟩)]
    exact hok
  have hreg : (!decide (slotType sl = 16) && decide (f.b.val ≠ 0)) = false := by
    by_cases hty : slotType sl = 16 <;> simp [hty, hb]
  obtain ⟨t', hact, ht'⟩ := ((Checked.begun s gid (g.begun pc) g.cluster g.sp).refill w [B]).withEngine (pc := pc) (gd := f.g) (len := 8) hav
    (checks := [ if (planeShape (slotType sl) (slotPrd sl) f.kind f.spar false).isNone then some (0x02, 0#64, 0#64) else none
               , if !decide (slotType sl = 16) && decide (f.b.val ≠ 0) then some (0x02, 0#64, 0#64) else none
               , match b.accFault w .load B 1 (decide (B.toNat % 128 ≠ 0 ∨ e0.toNat % 64 ≠ 0)) with
                 | some x => if x.1 = 0x30 then none else some x
                 | none => none ])
    (by simp only [hfault, hreg, hshape]; simp) s _
  refine ⟨_, ?_, (ht'.updEngine fun e => { e with issueShadow := (kind, k, f.spar.val, f.fmt.val) }).piped h.here f.g _ _⟩
  obtain ⟨hlo, hhi⟩ := g.sreg64_words f.a
  change execMldwMem f s = _
  rw [execMldwMem, h.toIssues.curSlot, hsl, hweight, h.runs]
  refine congrArg Host.Outcome.next ((if_neg hsolid).trans ?_)
  simp only [Issue.mustWaitPipe_free hfree, Bool.false_eq_true, if_false]
  refine hact.trans ?_
  simp only [hshape, Group.issueAt_g, hlo, hhi]
  rfl

/-- `mbmap` (R186). -/
theorem Ready.mbmap {f : MbmapForm}
    (h : Ready s gid pc g (.mbmap f) f.sw { s := f.a.val :: (f.a + 1) :: (if f.high.val = 1 then [f.b.val, f.b + 1] else []), a := [0] })
    (hsolid : g.executing pc f.g &&& ~~~g.helper ≠ 0#32) (hav : (s.engine g.cluster g.sp).availableTo gid) :
    ∃ t, exec (.mbmap f) s = .next t ∧ Piped s t gid pc g f.g (.mbmap f)
      ([g.sreg f.a, g.sreg (f.a + 1)] ++ (if f.high.val = 1 then [g.sreg f.b, g.sreg (f.b + 1)] else [0#32, 0#32]))
      ((s.engine g.cluster g.sp).takenBy gid) := by
  obtain ⟨t', hact, ht'⟩ := (Checked.begun s gid (g.begun pc) g.cluster g.sp).withEngine (pc := pc) (gd := f.g) (len := 8) hav
    (checks := []) (by simp) s _
  refine ⟨_, ?_, ht'.piped h.here f.g _ _⟩
  change execMbmap f s = _
  rw [execMbmap, h.runs]
  exact congrArg Host.Outcome.next ((if_neg hsolid).trans hact)

/-- A holder owes nothing that it must wait for (R198). -/
theorem Issue.owed_holder (hold : (s.engine g.cluster g.sp).holder = some gid) (x : Group) (pc : DWord) (len : Nat) (gd : Fin 8) :
    (g.issueAt gid pc len gd).owed (s.setG gid x) = false := by
  change (g.planeOwed.isSome && (s.engine g.cluster g.sp).holder != some gid) = false
  rw [hold, bne_self_eq_false, Bool.and_false]

theorem Issue.isHolder_holder (hold : (s.engine g.cluster g.sp).holder = some gid) (x : Group) (pc : DWord) (len : Nat) (gd : Fin 8) :
    (g.issueAt gid pc len gd).isHolder (s.setG gid x) = true := by
  change ((s.engine g.cluster g.sp).holder == some gid) = true
  rw [hold, beq_self_eq_true]

/-- `mflip` (R187). -/
theorem Ready.mflip {f : NForm} (h : Ready s gid pc g (.mflip f) f.sw {}) (hsolid : g.executing pc f.g &&& ~~~g.helper ≠ 0#32)
    (hold : (s.engine g.cluster g.sp).holder = some gid) :
    ∃ t, exec (.mflip f) s = .next t ∧ Piped s t gid pc g f.g (.mflip f) []
      { s.engine g.cluster g.sp with
        issueActive := (s.engine g.cluster g.sp).issueShadow, issueShadow := (s.engine g.cluster g.sp).issueActive } := by
  refine ⟨_, ?_, ((Checked.begun s gid (g.begun pc) g.cluster g.sp).updEngine fun e =>
    { e with issueActive := e.issueShadow, issueShadow := e.issueActive }).piped h.here f.g _ _⟩
  change execMflip f s = _
  rw [execMflip, h.runs]
  refine congrArg Host.Outcome.next ((if_neg hsolid).trans ?_)
  simp only [Issue.owed_holder hold, Issue.isHolder_holder hold, Bool.false_eq_true, if_false, if_true]
  exact Issue.matChecked_acts _ _ _ (by simp) _

/-- `mma` (R187, R188). -/
theorem Ready.mma {f : MmaForm} (h : Ready s gid pc g (.mma f) f.sw { t := [f.ta], a := [f.acc] }) {plane : Nat × Nat × Nat × Nat}
    (hplane : plane = if f.flip.val = 1 then (s.engine g.cluster g.sp).issueShadow else (s.engine g.cluster g.sp).issueActive)
    (hE : g.executing pc f.g ≠ 0#32) (hold : (s.engine g.cluster g.sp).holder = some gid)
    (hrun : f.ta.val % runLength plane.1 plane.2.1 = 0) (htiles : f.ta.val + runLength plane.1 plane.2.1 ≤ (s.variantOf g).tiles)
    (htype : (plane.1 = 1 ∧ slotType (s.slot g f.fmt) = 3) ∨ (plane.1 = 2 ∧ slotType (s.slot g f.fmt) = 4)) :
    ∃ t, exec (.mma f) s = .next t ∧ Piped s t gid pc g f.g (.mma f) [BitVec.ofNat 32 (runLength plane.1 plane.2.1)]
      (if f.flip.val = 1 then { s.engine g.cluster g.sp with
          issueActive := (s.engine g.cluster g.sp).issueShadow, issueShadow := (s.engine g.cluster g.sp).issueActive }
        else s.engine g.cluster g.sp) := by
  refine ⟨_, ?_, ((Checked.begun s gid (g.begun pc) g.cluster g.sp).updEngine fun e =>
    if f.flip.val = 1 then { e with issueActive := e.issueShadow, issueShadow := e.issueActive } else e).piped h.here f.g _ _⟩
  have haccepted : activationType (slotType (s.slot g f.fmt)) = true := by
    rcases htype with ⟨_, hty⟩ | ⟨_, hty⟩ <;> rw [hty] <;> rfl
  have hslot : (if true && plane.1 ≠ 0 && (slotType (s.slot g f.fmt) = if plane.1 = 1 then 3 else 4) then none else some (0x08, 0#64, 0#64)) =
      (none : Option (Nat × DWord × DWord)) := by
    rcases htype with ⟨hp, hty⟩ | ⟨hp, hty⟩ <;> simp [hp, hty]
  have hchecks : ∀ x ∈ [ if f.ta.val % runLength plane.1 plane.2.1 ≠ 0 then some (0x02, 0#64, 0#64) else none
      , if f.ta.val + runLength plane.1 plane.2.1 > (s.variantOf g).tiles then some (0x04, 0#64, 0#64) else none
      , if true && plane.1 ≠ 0 && (slotType (s.slot g f.fmt) = if plane.1 = 1 then 3 else 4) then none else some (0x08, 0#64, 0#64) ],
      x = none := by
    simp only [List.forall_mem_cons]
    exact ⟨if_neg (not_not.2 hrun), if_neg (not_lt.2 htiles), hslot, List.forall_mem_nil _⟩
  change execMma f s = _
  simp only [execMma, h.toIssues.curSlot]
  rw [haccepted, h.runs]
  refine congrArg Host.Outcome.next ((if_neg hE).trans ?_)
  simp only [Issue.owed_holder hold, Issue.isHolder_holder hold, Bool.false_eq_true, if_false, if_true]
  subst hplane
  exact Issue.matChecked_acts _ _ _ hchecks _

/-- Settles O26: checks that pass leave the state as they found it but for what translations keep and the engine; the instruction then enters the
pipe. -/
theorem matrixInstructionsEnterThePipe : Obligations.MatrixInstructionsEnterThePipe := by
  unfold Obligations.MatrixInstructionsEnterThePipe
  intro solid free plain acquired available type fits run
  refine ⟨?_, ?_, ?_, ?_, ?_, ?_, ?_, ?_, ?_, ?_, ?_, ?_, ?_, ?_, ?_, ?_⟩
  · -- acpy.reg
    intro f s gid pc g h ⟨hty, hfits⟩ hE
    exact h.pipeOp hE (by rw [h.toIssues.curSlot]; exact decide_eq_true hty) (State.runLimits_pass hfits) _
  · -- acpy.tile
    intro f s gid pc g h ⟨hty, hhigh⟩ hE
    refine h.pipeOp hE ?_ ?_ _
    · simpa [h.toIssues.curSlot, type, or_assoc] using hty
    · have hnarrow : ¬ (f.h.val = 1 ∧ (type f.fmt s g = 2 ∨ type f.fmt s g = 3)) := fun ⟨hh, hbad⟩ =>
        hbad.elim (hhigh (Fin.ext hh)).1 (hhigh (Fin.ext hh)).2
      rw [h.toIssues.curSlot]
      simpa [type] using hnarrow
  · -- acpy.stat
    intro f s gid pc g h _ hE
    exact h.pipeOp hE rfl (by simp) _
  · -- ackd
    intro f s gid pc g h hty hE
    exact h.pipeOp hE (by rw [h.toIssues.curSlot]; exact decide_eq_true hty) (by simp) _
  · -- azero
    intro f s gid pc g h _ hE
    exact h.pipeOp hE rfl (by simp) _
  · -- aset
    intro f s gid pc g h hfits hE
    exact h.pipeOp hE rfl (State.runLimits_pass hfits) _
  · -- tmov.get
    intro f s gid pc g h hfits hE
    exact h.pipeOp hE rfl (State.runLimits_pass hfits) _
  · -- tmov.put
    intro f s gid pc g h hfits hE
    exact h.pipeOp hE rfl (State.runLimits_pass hfits) _
  · -- tstsh
    intro f s gid pc g h ⟨hfree, hok⟩ hE
    exact h.tstsh hfree hok hE
  · -- tst
    intro f s gid pc g h hfree hE hok
    exact h.tst hfree hE hok
  · -- acpy.mem
    intro f s gid pc g h hfree hE hty hbase hstride hok
    exact h.acpyMem hfree hE hty hbase hstride hok
  · -- mldw from a tile pair
    intro f s gid pc g h hsolid hty hkind hspar htiles hav
    exact h.mldwTile hsolid hty (Fin.ext_iff.1 hkind) (Fin.ext_iff.1 hspar) htiles hav
  · -- mldw from memory
    intro f s gid pc g kind k bpn e0 h hfree hsolid hweight hshape hb hbase hoff hok hav
    simp only [bpn, decide_eq_true_eq] at h
    exact Ready.mldwMem rfl h hfree hsolid hweight hshape (fun hty => Fin.ext_iff.1 (hb (decide_eq_false hty))) hbase
      (by simp only [e0, bpn, decide_eq_true_eq]; rfl) hoff hok hav
  · -- mbmap
    intro f s gid pc g h hsolid hav
    simp only [Fin.ext_iff] at h ⊢
    exact h.mbmap hsolid hav
  · -- mflip
    intro f s gid pc g h e hsolid hold
    exact h.mflip hsolid hold
  · -- mma
    intro f s gid pc g h e plane m hE hold hrun htiles hty
    have hflip : f.flip = 1 ↔ f.flip.val = 1 := Fin.ext_iff
    rw [if_congr hflip rfl rfl]
    exact h.mma (if_congr hflip rfl rfl) hE hold hrun htiles hty

end Sys2Proof.Machine
end

section
/-!
SUPPORT. A state in which a tile row straddles the start of the shared region, which refutes the statement on tile loads (R194, R301).
-/
namespace Sys2Proof.Machine
open Sys2Proof

/-! ### The state -/

/-- `tld` of the row whose address lane 0 holds in v2 and v3. -/
def straddlingLoad : TldForm := { sw := 0, g := 7, bc := 0, a := 2, b := 0, ta := 0 }

/-- Lane 0 alone issues; its row starts 16 bytes below the shared region. -/
def straddlingGroup : Group :=
  { loneGroup with exited := ~~~1#32, pc := [(0, 0x10000#64)], v := [(2, 0xFFFFFFF0#32), (3, 0x00FEFFFF#32)] }

/-- A readable page of an address space. -/
def readablePage (asid va : Nat) : CtbEntry :=
  { mast := false, asid := asid, va := va, psize := 4096, world := 0, sealed_ := false, res := 0, x := false, w := false, rd := true, pa := 0 }

/-- A clean sector whose first byte is 1. -/
def markedSector : Sector := { data := 1, dirty := false, poison := false, pa := 0 }

/-- The launch of ASID 5. The row's first sector stands in L2 under that ASID, the seven others, in the shared region, under ASID 0. -/
def straddlingState : State :=
  { loneState [(32, straddlingGroup)] with
    launches := [(1, { fetchLaunch with asid := 5 })]
    order := 1
    clusters := [(0, { ctb := [readablePage 5 0xFEFFFFFFFFF000, readablePage 0 0xFF000000000000] })]
    l2 := (l2key 0 5 0xFEFFFFFFFFFFF0, markedSector) :: (List.range 7).map fun i => (l2key 0 0 (0xFF000000000000 + 16 * i), markedSector) }

theorem ready_straddlingLoad :
    Ready straddlingState 32 0x10000#64 straddlingGroup (.tld straddlingLoad) straddlingLoad.sw (tldUses straddlingLoad) where
  cur := rfl
  here := rfl
  lanes := by decide
  may := by decide
  free := rfl
  clean := rfl
  formed := rfl
  budget := by decide

theorem clearRoad_straddlingState : clearRoad straddlingState straddlingGroup false := ⟨rfl, fun _ => rfl, by decide⟩

theorem quietHome_straddlingState : quietHome straddlingState 32 straddlingGroup := by
  refine ⟨by decide, rfl, rfl, fun c => ?_, rfl, rfl, rfl⟩
  by_cases hc : c = 0
  · subst hc; rfl
  · simp [State.cluster, straddlingState, getD_eq_find, find, Ne.symm hc]

/-- The issue of the load. -/
def straddlingIssue : Issue := straddlingGroup.issueAt 32 0x10000#64 8 7

/-- The party of the load. -/
def straddlingWho : Who := straddlingState.who straddlingIssue

theorem eq_zero_of_executing {l : Nat} (hl : l ∈ lanesOf straddlingIssue.E) : l = 0 := by revert l; decide

/-- Both pages that the row touches permit the load. -/
theorem rowFault_straddlingState : ((straddlingState.setG 32 (straddlingGroup.begun 0x10000#64)).refill straddlingWho
    ((lanesOf straddlingIssue.E).map (tldRowAddr straddlingLoad straddlingGroup))).rowFault straddlingWho .load
      (tldRowAddr straddlingLoad straddlingGroup 0) = none := by
  decide +kernel

/-- The pieces of the row lie each on one side of the boundary, in one sector that stands in L2 under the ASID of its own address. -/
theorem pieces_straddlingState : ∀ j < 8,
    let va := (tldRowAddr straddlingLoad straddlingGroup 0).toNat + 16 * j
    let a := canonAsid straddlingWho.asid va
    inShared va = inShared (va + 16 - 1) ∧ pieces va 16 = [(va, 16)] ∧
      find straddlingState.l2 (l2key (straddlingState.verOf straddlingWho.lid a va) a va) = some markedSector := by
  decide +kernel

theorem standing_straddlingState (j : Nat) (hj : j < 8) :
    atHome straddlingState straddlingWho ((tldRowAddr straddlingLoad straddlingGroup 0).toNat + 16 * j) 16 := by
  obtain ⟨hside, hpieces, hsector⟩ := pieces_straddlingState j hj
  refine ⟨hside, fun p hp => ?_⟩
  rw [hpieces, List.mem_singleton] at hp
  exact hp ▸ ⟨markedSector, hsector, rfl⟩

/-- The fifth word of each row on its way in the state that an outcome answers. -/
def fifthWordsAfter (o : Out) : Option (List Word) := (groupAfter 32 o).map fun g => g.fills.map fun x => x.words.getD 4 0#32

theorem fifthWordsAfter_performed {t : State} {g' : Group} (h : find t.groups 32 = some g') (I : Word) (pc' : DWord) :
    fifthWordsAfter (.next (t.performed 32 I pc' [])) = some (g'.fills.map fun x => x.words.getD 4 0#32) := by
  have hbind : t.bind 32 [] = t := rfl
  rw [fifthWordsAfter, groupAfter, State.performed, hbind, State.find_updG, if_pos rfl, h]
  rfl

/-- The load has read the second piece under ASID 0. -/
theorem fifthWords_after_straddlingLoad : fifthWordsAfter (exec (.tld straddlingLoad) straddlingState) = some [1#32] := by
  decide +kernel

/-- Under the ASID of the row's address nothing stands there. -/
theorem fifthWord_under_rowAsid : (rowWords ((List.range 128).map fun k => straddlingState.homeByte straddlingWho.lid
    (canonAsid straddlingWho.asid (tldRowAddr straddlingLoad straddlingGroup 0).toNat)
      ((tldRowAddr straddlingLoad straddlingGroup 0).toNat + k))).getD 4 0#32 = 0#32 := by
  decide +kernel

/-- Refutes O31: the statement reads all 128 bytes of a row under the ASID that tags the row's first address. Each 16-byte piece is read under the
ASID of its own address (R301), which in the shared region is 0: the row of the state above gets bytes that the statement does not give. -/
theorem not_tileLoadsAndMatrixWaits : ¬ Obligations.TileLoadsAndMatrixWaits := by
  unfold Obligations.TileLoadsAndMatrixWaits
  intro h
  obtain ⟨htld, -⟩ := h
  obtain ⟨hhome, -⟩ := htld straddlingLoad straddlingState straddlingState 32 0x10000#64 straddlingGroup (fun _ => []) ready_straddlingLoad
    clearRoad_straddlingState fun l hl => eq_zero_of_executing hl ▸ rowFault_straddlingState
  obtain ⟨t, g', hfind, -, -, hfills, hexec⟩ := hhome quietHome_straddlingState fun l hl j hj =>
    eq_zero_of_executing hl ▸ standing_straddlingState j hj
  have hread : some (g'.fills.map fun x => x.words.getD 4 0#32) = some [1#32] :=
    (fifthWordsAfter_performed hfind _ _).symm.trans ((congrArg fifthWordsAfter hexec).symm.trans fifthWords_after_straddlingLoad)
  have hlanes : lanesOf straddlingIssue.E = [0] := by decide
  rw [hfills, List.map_append, List.map_map] at hread
  change some ((lanesOf straddlingIssue.E).map _) = some [1#32] at hread
  rw [hlanes] at hread
  have hword : (0#32 : Word) = 1#32 := fifthWord_under_rowAsid.symm.trans (List.cons.inj (Option.some.inj hread)).1
  exact absurd hword (by decide)

end Sys2Proof.Machine
end
